-- ==== Sys2Proof/Word.lean ====
section
/-! DEFINITION. The word types of the T64 and the plainest arithmetic over them. -/

namespace Sys2Proof

/-- One byte of memory. -/
abbrev Byte := BitVec 8

/-- A 64-bit word: a scalar register, a device register, a doorbell value. -/
abbrev Word := BitVec 64

/-- The bits `[hi:lo]` of a number, as the manual writes bit ranges. -/
def bits (x hi lo : Nat) : Nat := x / 2 ^ lo % 2 ^ (hi + 1 - lo)

/-- One bit of a number. -/
def bit (x i : Nat) : Bool := x / 2 ^ i % 2 == 1

/-- A flag as a number. -/
def b2n (b : Bool) : Nat := if b then 1 else 0

end Sys2Proof
end

