-- ==== Sys2Proof/Syntax.lean ====
section
/-! DEFINITION. The commands of the T64 block: one constructor of `Instr` per row of the table of
operations and events, with the row's operands as the numbered rules give them. -/

namespace Sys2Proof

/-! ### Tile-program instructions (R109 to R139) -/

/-- Operand fields of scalar and control instructions, CSRR and CSRW (R110). `imm` is the raw 32 bits. -/
structure ScalarF where
  d : Nat
  a : Nat
  b : Nat
  fn : Nat
  imm : Nat
  deriving DecidableEq, Repr

/-- Fields of DMV, DMS, DMR and DMH (Table 4.19). -/
structure DmaF where
  a : Nat
  b : Nat
  c : Nat
  ch : Nat
  evt : Nat
  mdir : Bool
  dstride : Nat
  sstride : Nat
  deriving DecidableEq, Repr

/-- Fields of WAITC (R137). -/
structure WaitcF where
  m : Nat
  d : Nat
  any : Bool
  clr : Bool
  deriving DecidableEq, Repr

/-- Fields of SIGNAL (R138). -/
structure SignalF where
  a : Nat
  ev : Nat
  release : Bool
  deriving DecidableEq, Repr

/-- Fields of TDESC (R114). -/
structure TdescF where
  t : Nat
  a : Nat
  imm : Nat
  deriving DecidableEq, Repr

/-- Fields of TADJ (R114). -/
structure TadjF where
  t : Nat
  a : Nat
  b : Nat
  deriving DecidableEq, Repr

/-- Fields of FEED (Table 4.12). -/
structure FeedF where
  ta : Nat
  tb : Nat
  k : Nat
  x : Nat
  plan : Nat
  cplx : Nat
  accumulate : Bool
  fullcream : Bool
  explicit : Bool
  h : Nat
  deriving DecidableEq, Repr

/-- Fields of DRAIN (Table 4.13). -/
structure DrainF where
  t : Nat
  p : Nat
  s : Nat
  c : Nat
  w : Nat
  round : Nat
  whey : Bool
  guard : Bool
  gslot : Nat
  deriving DecidableEq, Repr

/-- Fields of REDS (Table 4.15). -/
structure RedsF where
  a : Nat
  tag : Nat
  t : Nat
  churn : Bool
  efmt : Nat
  p : Nat
  ch : Nat
  evt : Nat
  deriving DecidableEq, Repr

/-- Fields of VOP (Table 4.16). -/
structure VopF where
  d : Nat
  a : Nat
  b : Nat
  s : Nat
  fn : Nat
  bcast : Bool
  deriving DecidableEq, Repr

/-- Fields of ATB (Table 4.18). -/
structure AtbF where
  q : Nat
  k : Nat
  v : Nat
  o : Nat
  m : Nat
  mask : Nat
  pfmt : Nat
  kind : Nat
  c : Nat
  deriving DecidableEq, Repr

/-- A tile-program instruction as its 64-bit word spells it (Table 4.7). -/
inductive TileInstr where
  | alu (f : ScalarF)
  | alui (f : ScalarF)
  | li (f : ScalarF)
  | lih (f : ScalarF)
  | ld (f : ScalarF)
  | sq (f : ScalarF)
  | br (f : ScalarF)
  | call (f : ScalarF)
  | jr (f : ScalarF)
  | endk
  | dmv (f : DmaF)
  | dms (f : DmaF)
  | dmr (f : DmaF)
  | dmh (f : DmaF)
  | fence (kinds : Nat)
  | waitc (f : WaitcF)
  | signal (f : SignalF)
  | csrr (f : ScalarF)
  | csrw (f : ScalarF)
  | phint (intensity lead : Nat)
  | tdesc (f : TdescF)
  | tadj (f : TadjF)
  | feed (f : FeedF)
  | drain (f : DrainF)
  | reds (f : RedsF)
  | redw (t : Nat)
  | vop (f : VopF)
  | atb (f : AtbF)
  deriving DecidableEq, Repr

/-! ### Row micro-instructions (R230 to R235) -/

/-- Register fields of a row operation (Table 8.3). -/
structure RowF where
  d : Nat
  a : Nat
  b : Nat
  c : Nat
  bs : Nat
  deriving DecidableEq, Repr

/-- The nine row operations of Table 8.2. -/
inductive RowOp where
  | copy | zero | one | not | xor | and | or | maj3
  | recode (chk : Bool)
  deriving DecidableEq, Repr

/-- A row micro-instruction as its 32-bit word spells it (Table 8.3). -/
inductive RowInstr where
  | endp
  | op (o : RowOp) (f : RowF)
  | set (counter : Bool) (i : Nat) (param : Bool) (val : Nat)
  | add (i : Nat) (imm : Nat)
  | loop (i : Nat) (target : Nat)
  deriving DecidableEq, Repr

/-! ### Pail payloads -/

/-- The host-written header of a rung pail (Table 10.1). -/
structure PailReq where
  pail : Nat
  seq : Nat
  intr : Bool
  vector : Nat
  deriving DecidableEq, Repr

/-- JOB_OPEN payload (Table 10.4). -/
structure JobOpenP where
  c0Cores : Nat
  keepMap : Bool
  c0Burst : Nat
  c0Interval : Nat
  fpaddr : Nat
  fplen : Nat
  deriving DecidableEq, Repr

/-- QUEUE_CREATE payload (Table 10.5). -/
structure QueueCreateP where
  queue : Nat
  completion : Bool
  cls : Nat
  log2depth : Nat
  weight : Nat
  cq : Nat
  base : Nat
  tset : Nat
  group : Nat
  vector : Nat
  deriving DecidableEq, Repr

/-- POWER_SET_CAP payload (Table 13.6); a zero keeps the value. -/
structure CapP where
  cap : Nat
  window : Nat
  holdup : Nat
  slope : Nat
  deriving DecidableEq, Repr

/-- Kinds of power domain (Table 14.1, numbered as Table 14.3 where it numbers them). -/
inductive DomKind where
  | core | vault | link | fabric | time | host
  deriving DecidableEq, Repr

/-- One power domain. -/
structure Dom where
  kind : DomKind
  num : Nat
  deriving DecidableEq, Repr

/-- ACTION of a domain policy (Table 14.3). -/
inductive DomAction where
  | none | retention | off
  deriving DecidableEq, Repr

/-- DOMAIN_POLICY TIMERS payload (Table 14.3). -/
structure TimersP where
  kind : DomKind
  logical : Bool
  dflt : Bool
  action : DomAction
  timer : Nat
  offtimer : Nat
  set : Nat
  deriving DecidableEq, Repr

/-- A licence record (Table 17.9); `sig` is SIG_R and SIG_S as one number. -/
structure LicenceRec where
  magic : Nat
  version : Nat
  deviceId : Nat
  features : Nat
  serial : Nat
  issued : Nat
  sig : Nat
  deriving DecidableEq, Repr

/-- LICENCE_INSTALL: the record, and whether the flash takes it (R280). -/
structure LicenceP where
  record : LicenceRec
  flashOk : Bool
  deriving DecidableEq, Repr

/-- TIME_CONFIG payload (Table 11.7) but SET and TOD. -/
structure TimeP where
  domain : Nat
  ptp : Bool
  stepOk : Bool
  pps : Bool
  timeref : Bool
  ppsOut : Bool
  ppsLock : Bool
  encap : Nat
  annTmo : Nat
  portmask : Nat
  stepThr : Nat
  holdPpb : Nat
  frBound : Nat
  asym : List Int
  deriving DecidableEq, Repr

/-- LINK_CONFIG payload (Table 11.2). -/
structure LinkP where
  devid : Nat
  unassigned : Bool
  encap : Nat
  minlinks : Nat
  linkmask : Nat
  ethertype : Nat
  udpport : Nat
  vlan : Bool
  pfc : Bool
  ecn : Bool
  routed : Bool
  force : Bool
  save : Bool
  fmode : Nat
  vid : Nat
  macpfx : Nat
  pcpmap : Nat
  rttTgt : Nat
  dscpmap : Nat
  ipv4base : Nat
  peerTmo : Nat
  ipv6pfx : Nat
  deriving DecidableEq, Repr

/-- LINK_CONFIG: the configuration, and whether the flash takes what SAVE writes (R280). -/
structure LinkConfigP where
  cfg : LinkP
  flashOk : Bool
  deriving DecidableEq, Repr

/-- COUNTER_ACCESS SELECT payload (Table 16.4). -/
structure SelectP where
  logical : Bool
  ctr : Nat
  event : Nat
  set : Nat
  deriving DecidableEq, Repr

/-- SNAPSHOT_CONFIG START payload (Table 16.6). -/
structure SnapP where
  mask : Nat
  vector : Nat
  every : Nat
  period : Nat
  start : Nat
  base : Nat
  entries : Nat
  deriving DecidableEq, Repr

/-- GUARD_CONFIG SLOT payload (Table 6.7). -/
structure SlotP where
  slot : Nat
  scfg : Nat
  ratio : Nat
  scale : Nat
  resetEma : Bool
  deriving DecidableEq, Repr

/-- FW_UPDATE payload (R453); `flashOk` says whether the flash write reads back as written. -/
structure FwP where
  src : Nat
  len : Nat
  recovery : Bool
  activate : Bool
  flashOk : Bool
  deriving DecidableEq, Repr

/-! ### Events from outside and from the physics of the part -/

/-- Straps and pins sampled at the rise of PWROK (R348, R357). -/
structure Straps where
  testmode : Bool
  bmcMode : Bool
  bmcAddr : Nat
  deriving DecidableEq, Repr

/-- What boot training finds on one received bridge lane that has failed wires: failed wires of each of its nine
groups (R271). -/
structure WireTest where
  sheaf : Nat
  gatewayB : Bool
  ring : Nat
  bad : List Nat
  deriving DecidableEq, Repr

/-- Power-on: the straps, and what the training of the bridge lanes found. -/
structure PowerOn where
  straps : Straps
  wires : List WireTest
  deriving DecidableEq, Repr

/-- The three host-side resets (R347). -/
inductive HostReset where
  | flr | hot | linkDown
  deriving DecidableEq, Repr

/-- A PCI Express configuration request (R339). -/
inductive CfgReq where
  | read (off : Nat)
  | write (off : Nat) (val : Nat)
  | busMaster (on : Bool)
  | relaxedOrdering (on : Bool)
  | msixEnable (on : Bool)
  /-- the BAR2 size that the Resizable BAR capability selects: 2 to this power bytes (R344) -/
  | bar2Size (log2 : Nat)
  | ptmEnable (on : Bool)
  /-- the link enters L1 or L1.1, or the function D3hot; or they return to L0 and D0 (R385) -/
  | lowPower (on : Bool)
  deriving DecidableEq, Repr

/-- An MCTP control or PLDM request (R348, R431, R432). -/
inductive PldmReq where
  | control
  | sensor (id : Nat)
  | event
  deriving DecidableEq, Repr

/-- A physical upset of one stored code word: which symbols of a vault word (0 to 35), or bits of an SRAM
word (0 to 136), are wrong, each with the pattern its stored value differs by. -/
abbrev Upset := List (Nat × Nat)

/-- A BAR2 request (R344). -/
inductive Bar2Req where
  | read (off n : Nat)
  | write (off : Nat) (data : List Byte)
  deriving DecidableEq, Repr

/-- How a PCI Express completion ends (R340). -/
inductive HostAnswer where
  | data (bytes : List Byte)
  | failed
  deriving DecidableEq, Repr

/-- A reading of one rail, in mA, on the AVSBus of a sheaf (R350, R372). -/
structure RailReading where
  sheaf : Nat
  rail : Nat
  ma : Nat
  deriving DecidableEq, Repr

/-- One die or DRAM sensor of a sheaf (R403): array sensors 0 to 3 and store sensors 0 to 1 of a
local core, DRAM layers 0 to 4 of a local vault. -/
inductive Sensor where
  | array (core k : Nat)
  | store (core k : Nat)
  | dram (vault layer : Nat)
  deriving DecidableEq, Repr

/-- A reading of a sensor in °C; `none` when it has stopped updating (R404). -/
structure SensorReading where
  sensor : Sensor
  celsius : Option Int
  deriving DecidableEq, Repr

/-- The tray sensors (Table 12.9). -/
inductive TrayKind where
  | inlet | outlet | flow
  deriving DecidableEq, Repr

/-- What a poll of a tray sensor gives (R352): the four bytes of Table 12.7, byte 0 lowest, or NACK. -/
inductive TrayReply where
  | reply (data : BitVec 32)
  | nack
  deriving DecidableEq, Repr

/-- One wear reading (Table 15.6), in millionths: lost frequency, rise of resistance, eye height against shipment; and the
power-on hours. -/
inductive WearReading where
  | ageing (core monitor loss : Nat)
  | resistance (sheaf monitor rise : Nat)
  | eye (link lane height : Nat)
  | hours (n : Nat)
  deriving DecidableEq, Repr

/-- A Stoby frame (Tables 11.3 and 11.4), with the encapsulation facts the receiver uses. -/
structure Frame where
  op : Nat
  syn : Bool
  retx : Bool
  poison : Bool
  acknow : Bool
  reset : Bool
  ece : Bool
  srcDev : Nat
  srcSheaf : Nat
  dstDev : Nat
  dstSheaf : Nat
  cls : Nat
  psn : Nat
  apsn : Nat
  addr : Nat
  txn : Nat
  bytes : Nat
  srcstop : Nat
  aux : Nat
  value : Nat
  tstamp : Nat
  rtag : Nat
  rcount : Nat
  relems : Nat
  contrib : Nat
  anchor : Int
  efmt : Nat
  rflags : Nat
  eflags : Nat
  payload : List Byte
  srcLink : Nat
  ceMarked : Bool
  deriving DecidableEq, Repr

/-- A PTP Announce dataset as the best-master comparison reads it (R331). -/
structure AnnounceDs where
  priority1 : Nat
  clockClass : Nat
  accuracy : Nat
  variance : Nat
  priority2 : Nat
  identity : Nat
  stepsRemoved : Nat
  /-- port identity of the sender -/
  sender : Nat
  domain : Nat
  /-- PTP transport that carries it, as ENCAP of Table 11.7 -/
  encap : Nat
  deriving DecidableEq, Repr

/-- A PTP event message at a link: its origin time and correction and the MAC timestamp, whole ns. -/
structure PtpStamp where
  domain : Nat
  /-- PTP transport that carries it, as ENCAP of Table 11.7 -/
  encap : Nat
  seqId : Nat
  origin : Int
  correction : Int
  local_ : Int
  twoStep : Bool
  deriving DecidableEq, Repr

/-- The outcome of link bring-up as the wire gives it (R314): lanes that fail, and the best common mode
of the good lanes, `none` when the far end offers none. -/
structure Bringup where
  badLanes : Nat
  mode : Option Nat
  deriving DecidableEq, Repr

/-- A link that goes down, and the uncorrectable codewords that it has seen (R314, Table 11.8). -/
structure LinkLoss where
  link : Nat
  uncorr : Nat
  deriving DecidableEq, Repr

/-- A query for a link address: the IP address asked for, and the MAC address of the sender. -/
structure AddrQuery where
  ip : Nat
  mac : Nat
  deriving DecidableEq, Repr

/-- A wrong flit: the stop that finds it, and how many of its bits are wrong (R251). -/
structure FlitError where
  stop : Nat
  wrongBits : Nat
  deriving DecidableEq, Repr

/-- Kinds of received frame that are discarded (R318 to R320, R315). -/
inductive BadFrame where
  | notAccepted | badIcrc | reservedOp | early
  deriving DecidableEq, Repr

/-- Test access port instructions (R356, R357). -/
inductive TapInstr where
  | bypass | idcode | extest | acExtest | manufacturing
  deriving DecidableEq, Repr

/-- Wake sources of Table 14.4: levels, and the firmware pulse. -/
inductive WakeSrc where
  | work | hint | packet | txFrame | rxFrame | energy | policyNone | pcie | timeLink | poke
  deriving DecidableEq, Repr

/-- A regulator fault found over PMBus (R351, R367). -/
structure PmbusFault where
  rail : Nat
  zone : Nat
  deriving DecidableEq, Repr

/-- How an access from outside names a place: by the device address of a register, or by an offset of BAR0 (R341, R342). -/
inductive RegPath where
  | addr (a : Nat)
  | bar0 (off : Nat)
  deriving DecidableEq, Repr

/-- How a register is accessed while its block is not On (R401). -/
structure OffAccess where
  path : RegPath
  write : Bool
  deriving DecidableEq, Repr

/-- Which voltage cells fail a self-test (R370): booster or clamp of a local core site. -/
structure CellFail where
  core : Nat
  clamp : Bool
  deriving DecidableEq, Repr

/-- A job-fault cause that a unit detects without a step of its own (Table 18.1). -/
inductive UnitFault where
  | parity (core : Nat)
  | queueEngine (sub : Nat)
  deriving DecidableEq, Repr

/-! ### The commands -/

/-- The commands of the block, one constructor per row of the table of operations and events. -/
inductive Instr where
  -- resets and boot
  | pwrokRise (p : PowerOn)
  | pwrokFall
  | perstAssert
  | perstDeassert
  | bootImageAuthenticate
  | bootFallbackTimeout
  | vaultTraining (failing : List Nat)
  | configReady
  | knownAnswerTest (failing : List Nat) (classes : List (Nat × Nat))
  | readyEntry
  | hostSideReset (kind : HostReset)
  | pcieConfigRequest (r : CfgReq)
  | watchdogExpiry (core : Nat)
  | firmwareRestartDone
  -- pails
  | devInfo (r : PailReq)
  | floorplanGet (r : PailReq) (fpaddr fplen : Nat)
  | jobOpen (r : PailReq) (p : JobOpenP)
  | jobClose (r : PailReq)
  | queueCreate (r : PailReq) (p : QueueCreateP)
  | queueDestroy (r : PailReq) (q : Nat)
  | queueFlush (r : PailReq) (q : Nat)
  | queueFlushAbort (r : PailReq) (q : Nat)
  | powerSetCap (r : PailReq) (p : CapP)
  | powerSetOppAuto (r : PailReq) (sheaves : Nat)
  | powerSetOppPin (r : PailReq) (opp sheaves : Nat)
  | domainPolicyTimers (r : PailReq) (p : TimersP)
  | domainPolicyRetain (r : PailReq) (logical : Bool) (banks set : Nat)
  | domainPolicyWake (r : PailReq) (kind : DomKind) (logical : Bool) (set : Nat)
  | domainPolicyAdmit (r : PailReq) (aggressive : Bool)
  | licenceInstall (r : PailReq) (p : LicenceP)
  | licenceList (r : PailReq) (first : Nat)
  | timeConfig (r : PailReq) (p : TimeP)
  | timeConfigSet (r : PailReq) (p : TimeP) (tod : Nat)
  | linkConfig (r : PailReq) (p : LinkConfigP)
  | counterAccessUser (r : PailReq) (sheaves : Nat)
  | counterAccessSelect (r : PailReq) (p : SelectP)
  | snapshotConfigStart (r : PailReq) (p : SnapP)
  | snapshotConfigStop (r : PailReq)
  | guardConfigPolicy (r : PailReq) (a : Nat)
  | guardConfigSlot (r : PailReq) (p : SlotP)
  | guardConfigLog (r : PailReq) (base entries vector : Nat)
  | guardConfigResolveCommit (r : PailReq) (q : Nat)
  | guardConfigResolveDiscard (r : PailReq) (q : Nat)
  | wearReportSummary (r : PailReq)
  | wearReportDetail (r : PailReq) (len addr : Nat)
  | faultRecordGet (r : PailReq) (first : Nat)
  | fwUpdate (r : PailReq) (p : FwP)
  | katRun (r : PailReq) (failing : List Nat)
  | pldmRequest (r : PldmReq)
  -- work queues
  | wqDoorbell (q : Nat) (value : Nat)
  | cqDoorbell (q : Nat) (value : Nat)
  | c0TokenRefill (group : Nat)
  | wqFetch (q : Nat)
  | wqDispatch (q : Nat)
  | commandCompletion (q idx : Nat)
  | kernel (q idx : Nat)
  | kernelCoreStart (core : Nat)
  | gemm (q idx : Nat)
  | attend (q idx : Nat)
  | reduce (q idx : Nat)
  | copy (q idx : Nat)
  | fill (q idx : Nat)
  | pageOpAlloc (q idx : Nat)
  | pageOpShare (q idx : Nat)
  | pageOpCow (q idx : Nat)
  | pageOpFree (q idx : Nat)
  | tillerLookup (q idx : Nat)
  | tillerInsert (q idx : Nat)
  | tillerRemove (q idx : Nat)
  | winnow (q idx : Nat)
  | vaultModeProcessor (q idx : Nat)
  | vaultModeMemory (q idx : Nat)
  | rowRun (q idx : Nat)
  | rowFence (q idx : Nat)
  | stepBegin (q idx : Nat)
  | stepCommit (q idx : Nat)
  | stepEvaluation (q : Nat)
  | guardReport
  | phaseHint (q idx : Nat)
  | wqFence (q idx : Nat)
  | wqSignal (q idx : Nat)
  | wqSignalDoorbell (q idx : Nat)
  | wait (q idx : Nat)
  | waitPoll (q idx : Nat)
  | timeWait (q idx : Nat)
  | timeWaitReached (q idx : Nat)
  | abort (q idx : Nat)
  -- tile programs
  | alu (core : Nat) (f : ScalarF)
  | alui (core : Nat) (f : ScalarF)
  | li (core : Nat) (f : ScalarF)
  | lih (core : Nat) (f : ScalarF)
  | ld (core : Nat) (f : ScalarF)
  | sq (core : Nat) (f : ScalarF)
  | br (core : Nat) (f : ScalarF)
  | call (core : Nat) (f : ScalarF)
  | jr (core : Nat) (f : ScalarF)
  | endk (core : Nat)
  | csrr (core : Nat) (f : ScalarF)
  | csrw (core : Nat) (f : ScalarF)
  | dmv (core : Nat) (f : DmaF)
  | dms (core : Nat) (f : DmaF)
  | dmr (core : Nat) (f : DmaF)
  | dmh (core : Nat) (f : DmaF)
  | dmaDescriptorStart (core ch : Nat) (upsets : List (Nat × Upset))
  | fence (core : Nat) (kinds : Nat)
  | waitc (core : Nat) (f : WaitcF)
  | signal (core : Nat) (f : SignalF)
  | phint (core : Nat) (intensity lead : Nat)
  | tdesc (core : Nat) (f : TdescF)
  | tadj (core : Nat) (f : TadjF)
  | feed (core : Nat) (f : FeedF)
  | feedStart (core : Nat) (upsets : List (Nat × Upset))
  | passBlockClose (core i j : Nat)
  | churnLaneRead (core i j : Nat)
  | drain (core : Nat) (f : DrainF)
  | drainStart (core : Nat)
  | drainComplete (core : Nat)
  | reds (core : Nat) (f : RedsF)
  | redsComplete (core : Nat)
  | redw (core : Nat) (t : Nat)
  | vop (core : Nat) (f : VopF)
  | vopExecute (core : Nat)
  | atb (core : Nat) (f : AtbF)
  | atbExecute (core : Nat)
  -- row programs
  | rowOpCopy (v : Nat) (f : RowF)
  | rowOpZero (v : Nat) (f : RowF)
  | rowOpOne (v : Nat) (f : RowF)
  | rowOpNot (v : Nat) (f : RowF)
  | rowOpXor (v : Nat) (f : RowF)
  | rowOpAnd (v : Nat) (f : RowF)
  | rowOpOr (v : Nat) (f : RowF)
  | rowOpMaj3 (v : Nat) (f : RowF)
  | rowOpRecode (v : Nat) (chk : Bool) (f : RowF)
  | rowBankOperation (v bank : Nat)
  | rowEnd (v : Nat)
  | rowSet (v : Nat) (counter : Bool) (i : Nat) (param : Bool) (val : Nat)
  | rowAdd (v : Nat) (i imm : Nat)
  | rowLoop (v : Nat) (i target : Nat)
  -- registers and host accesses
  | pguCtrlInit (sheaf : Nat)
  | pguInitComplete (sheaf : Nat)
  | w1cClearWrite (path : RegPath) (mask hwSet : Word)
  | registerWrite (path : RegPath) (width : Nat) (value : Word)
  | timNowRead
  | hubDtimeRead
  | ptmDialogue (root : Nat)
  | bar2Access (r : Bar2Req)
  | hostCompletion (txn : Nat) (a : HostAnswer)
  -- rings
  | ringPacketInject (stop ring : Nat)
  | emptySlotRequest (stop ring : Nat)
  | packetTurnedAway (id : Nat)
  | ringFlitUe (id : Nat) (e : FlitError)
  | rdReqArrival (id : Nat) (upsets : List (Nat × Upset))
  | rdRespArrival (id : Nat)
  | mcRespDelivery (id core : Nat)
  | mcRespGateway (id sheaf : Nat)
  | wrArrival (id : Nat)
  | wrAckArrival (id : Nat)
  | reducePassStop (id stop : Nat)
  | reduceHoldRelease (stop entry : Nat)
  | reduceDestinationAdd (id : Nat)
  | tagNoticeArrival (id : Nat)
  | reduceTimeout (stop tag : Nat)
  | signalArrival (id : Nat)
  | sigAckArrival (id : Nat)
  | msgArrival (id : Nat)
  | bridgeFlitCrcError (sheaf : Nat) (gatewayB : Bool) (ring : Nat)
  | bridgeLaneRetrain (sheaf : Nat) (gatewayB : Bool) (ring : Nat) (badWires : List Nat)
  -- vault controllers
  | vaultRequestPerform (v : Nat) (upsets : List (Nat × Upset))
  | mergeReadData (v entry : Nat)
  | refreshCommand (v layer : Nat) (window16 : Bool)
  | scrubWord (v : Nat) (upset : Option Upset)
  -- Stoby
  | stobyOperationSend (stop : Nat)
  | stobyWrite (link : Nat) (f : Frame)
  | stobyRead (link : Nat) (f : Frame)
  | stobyReadResp (link : Nat) (f : Frame)
  | stobyReduceWrite (link : Nat) (f : Frame)
  | stobyAtomic (link : Nat) (f : Frame)
  | stobyDoorbell (link : Nat) (f : Frame)
  | stobyAck (link : Nat) (f : Frame)
  | stobyAckSend (ctx : Nat)
  | stobyRetxTimer (ctx psn : Nat)
  | stobyPeerTimeout (ctx : Nat)
  | stobyContextClose (ctx : Nat)
  | stobyRateUpdate (ctx : Nat)
  -- links
  | linkBringup (link : Nat) (b : Bringup)
  | linkRetryTimer (link : Nat)
  | linkDown (d : LinkLoss)
  | linksReady (timeout : Bool)
  | pfcFrameReceive (link prios quanta : Nat)
  | arpRequest (link : Nat) (q : AddrQuery)
  | neighbourSolicitation (link : Nat) (q : AddrQuery)
  -- time
  | ptpAnnounce (link : Nat) (ds : AnnounceDs)
  | ptpSync (link : Nat) (m : PtpStamp)
  | ptpFollowUp (link : Nat) (m : PtpStamp)
  | ptpDelayReq
  | ptpDelayResp (link : Nat) (m : PtpStamp)
  | announceTimeout
  | ppsInEdge
  | timerefLoss
  | ppsOutPulse
  | sleepTickCalibration (period : Nat)
  | holdoverBoundExceeded
  -- power
  | avsbusSample (rs : List RailReading)
  | avsbusReadingMissing (sheaf rail : Nat)
  | pmbusPoll (boostMw aonMw ioMw : Nat) (faults : List PmbusFault)
  | pmbAlert (faults : List PmbusFault)
  | powerUpdate
  | oppChangeEnd (sheaf : Nat)
  | governorRound (sheaf : Nat) (used : List (Nat × Nat))
  | hintRampStart (core : Nat)
  | hintExpiry (core : Nat)
  | droopDetect (core : Nat)
  | droopRecovery (core : Nat)
  | clampEngage (core : Nat) (engaged : Bool)
  | cellSelfTest (sheaf : Nat) (fails : List CellFail)
  | pwrWarnFall
  | pwrWarnRise
  | holdupReturn
  -- domains
  | idleTimerExpiry (d : Dom)
  | sleepRequestAccept (d : Dom)
  | entryWindowEnd (d : Dom)
  | domainTransitionEnd (d : Dom)
  | offtimerExpiry (d : Dom)
  | domainWake (d : Dom) (src : WakeSrc)
  | retentionReevaluation (sheaf : Nat)
  | keepBrownout (sheaf : Nat)
  | keepSelfTest (sheaf : Nat) (pass : Bool)
  | registerAccessNotOn (a : OffAccess)
  -- thermal and wear
  | sensorSample (sheaf : Nat) (rs : List SensorReading)
  | hardwareTrip (sheaf : Nat) (r : SensorReading)
  | traySensorPoll (kind : TrayKind) (r : TrayReply)
  | flowEmergencyEnd
  | flowComputation
  | flowWarningClear (level : Nat)
  | heatMismatch
  | thermalAllowanceUpdate (sheaf : Nat)
  | coreCeilingUpdate (core : Nat)
  | thermalCycleSample (sheaf : Nat)
  | wearSample (rs : List WearReading)
  -- observability and faults
  | snapshotTick
  | jobFaultQuiesce (hw : Option UnitFault)
  | pfcPauseExpiry (link cls : Nat)
  | bridgeLaneRetrainEnd (sheaf : Nat) (gatewayB : Bool) (ring : Nat)
  | timeSlewEnd
  | pcieCompletionTimeout (txn : Nat)
  | msixVectorUnmask (vec : Nat)
  | receivedFrameDiscard (link : Nat) (why : BadFrame)
  | addressResolutionReply (link mac : Nat)
  | testAccessPortInstruction (t : TapInstr)
  | keepRegulatorRecovery (sheaf : Nat)
  deriving DecidableEq, Repr

end Sys2Proof
end

