-- ==== Sys2Proof/Decode.lean ====
section
/-! DEFINITION. The words of the table of operations. No row of the table has bits: the block's commands
are steps, not words, so no word spells one. -/

namespace Sys2Proof

/-- The command that a word spells by the table's bits: none, since no row gives bits. -/
def decodeTableWord (_nbits _w : Nat) : Option Instr := none

end Sys2Proof
end

