-- ==== Sys2Proof/Config.lean ====
section
/-! DEFINITION. What the manual leaves to the part or leaves open: constants fused at test, keys the
manual does not print, and the free values. None has a body: nothing can be proved of its value. -/

namespace Sys2Proof

/-! ### Fixed per part -/

/-- The 64-bit device ID that licences bind (Table 10.3). -/
opaque Config.deviceId : BitVec 64

/-- Minor interface version, firmware build and dispatch microcode version (Table 10.3). -/
opaque Config.minorVersion : BitVec 16
opaque Config.fwVersion : BitVec 32
opaque Config.ucode : BitVec 32

/-- The grade the part was sold at, 0 A, 1 B, 2 C (R3, R4). -/
opaque Config.grade : Fin 3

/-- The grade's reference leakage curve, fused at test, by operating point (R375, R383). -/
opaque Config.leakage : Nat → Nat

/-- Whether the part was shipped under an ordering code with pre-installed licences (Table 0.5), and what Urelle wrote into
their record beside what R452 names: SERIAL, ISSUED and the signature. -/
opaque Config.licencesPreinstalled : Bool
opaque Config.licenceSerial : Nat
opaque Config.licenceIssued : Nat
opaque Config.licenceSignature : Nat

/-- The IDCODE of the test access port (R356). -/
opaque Config.idcode : BitVec 32

/-- MAC rate in Gb/s of a link of another device, by device ID and link number: a device does not carry it (R326). -/
opaque Config.peerRate : Nat → Nat → Nat

/-- Whether a licence record's signature verifies against Urelle's key (R450). -/
opaque Config.licenceSigOk : LicenceRec → Bool

/-- Whether an image's signature verifies against the key in the boot ROM (R437). -/
opaque Config.imageSigOk : List Byte → Bool

/-! ### Functions the manual bounds to 1 ulp (R126): which of the results within it, the same bits on every core -/

opaque Config.exp2 : BitVec 32 → BitVec 32
opaque Config.log2 : BitVec 32 → BitVec 32
opaque Config.rsqrt : BitVec 32 → BitVec 32
opaque Config.recip : BitVec 32 → BitVec 32

/-- A dword of the configuration space, laid out by the PCI Express specification: the index of the free value,
the dwords written so far, and the offset read. -/
opaque Config.cfgDword : Nat → List (Nat × Nat) → Nat → BitVec 32

/-! ### Free values -/

/-- An undefined byte: the index of the free value, and the address read. -/
opaque Config.freeByte : Nat → Nat → Byte

/-- An undefined word: the index of the free value, and which of several. -/
opaque Config.freeWord : Nat → Nat → Word

/-- An undefined or unstated number. -/
opaque Config.freeNat : Nat → Nat → Nat

/-- A choice the manual leaves open among several (R162, R321): taken modulo their number. -/
opaque Config.choose : Nat → Nat → Nat

end Sys2Proof
end

