-- ==== Sys2Proof/Machine/State.lean ====
section
/-! DEFINITION. The state of the T64 block as plain data: every register, memory, queue, buffer,
counter, mode and pin the manual names, the reasons a step can stop, and the state after reset. -/

namespace Sys2Proof.Machine

/-- A sparse table: pairs of a key and a value, keys strictly rising. -/
abbrev FMap (α : Type) := List (Nat × α)

/-! ### Why a step can stop -/

/-- The machine stops with a fault. -/
inductive Fault where
  /-- An operation the manual leaves without any effect: case `n` of the catalogue of undefined
  results (Table 18.7). Raised by the meaning of the operation that meets the case. Safe: the model
  stops where the device may do anything (R8). -/
  | undefinedCase (n : Nat)
  deriving DecidableEq, Repr

/-- The model gives no meaning to the command. -/
inductive Refusal where
  /-- Raised only by an arm of `exec` whose command is not modelled yet. Safe: the model stops. -/
  | notModelled (mnemonic : String)
  /-- The effect lies in a unit whose behaviour the manual does not give (manufacturing test
  functions under TESTMODE, R357). Raised by TEST_ACCESS_PORT_INSTRUCTION. Safe: the model stops. -/
  | notDescribed (unit : String)
  deriving DecidableEq, Repr

/-- Why an effect has no next state of its own: it meets an undefined case of Table 18.7, or it waits for what must
happen before it, so that the command does not happen yet. -/
inductive Halt where
  | undefinedCase (n : Nat)
  | wait
  deriving DecidableEq, Repr

/-- The answer of a command. -/
abbrev Out (σ : Type) := Host.Outcome σ Fault Refusal

/-! ### Faults and records -/

/-- A fault record (Table 18.2), without its constant fields. -/
structure FaultRec where
  seq : Nat
  kind : Nat
  cause : Nat
  sub : Nat
  secondary : Bool
  trip : Bool
  volatileRec : Bool
  jobid : Nat
  dtime : Nat
  tstate : Nat
  state : Nat
  unit : Nat
  queue : Nat
  cmdid : Nat
  boots : Nat
  addr : Nat
  detail0 : Nat
  primarySeq : Nat
  deriving DecidableEq, Repr

/-- A detected job-fault cause (Table 18.1) that the hub has not latched yet. -/
structure Cause where
  code : Nat
  sub : Nat
  unit : Nat
  addr : Nat
  detail0 : Nat
  queue : Nat
  cmdid : Nat
  deriving DecidableEq, Repr

/-- The hub's fault machinery (R456 to R463). HUB_FAULT and HUB_EVT_FAULT are registers. -/
structure FaultUnit where
  /-- causes detected and not yet handled, oldest first -/
  detected : List Cause
  /-- records held in management SRAM, oldest first (R462) -/
  records : List FaultRec
  /-- records copied to the flash partition, oldest first -/
  flash : List FaultRec
  /-- the next sequence number, kept in flash -/
  nextSeq : Nat
  /-- SEQ of the primary record of the fault in force -/
  primary : Option Nat
  /-- secondary records of the fault in force (R460) -/
  secondaries : Nat
  /-- the trip entry the always-on domain wrote to flash (R410): sensor stop ID, reading -/
  tripEntry : Option (Nat × Int)
  deriving DecidableEq, Repr

/-! ### Boot, flash and device state -/

/-- Device states (Table 17.4). -/
inductive DevState where
  | boot | configReady | ready | job | faulted | safe
  deriving DecidableEq, Repr

/-- How far the boot of Table 17.2 has come. -/
inductive BootPhase where
  /-- PWROK low: nothing runs -/
  | off
  /-- step 1 done: the boot ROM runs -/
  | rom
  /-- step 3 done: firmware runs from an authenticated image -/
  | firmware
  /-- step 4 done: vaults trained -/
  | trained
  /-- step 5 done -/
  | configReady
  /-- the boot ended in READY (step 8) or in SAFE -/
  | done
  /-- no image authenticates, or TESTMODE is high: BOOT until PWROK falls (R437, R357) -/
  | stuck
  deriving DecidableEq, Repr

/-- What the boot ROM finds in one firmware slot (R437). -/
structure FlashImage where
  magicOk : Bool
  svn : Nat
  len : Nat
  sigOk : Bool
  deriving DecidableEq, Repr

/-- A retired entry (Table 17.8). -/
structure Retired where
  kind : Nat
  reason : Nat
  number : Nat
  sub : Nat
  boot : Nat
  deriving DecidableEq, Repr

/-- The boot flash as the device uses it (Table 12.8) and the fuses (R438). -/
structure Flash where
  activeB : Bool
  imageA : FlashImage
  imageB : FlashImage
  recovery : FlashImage
  licences : List LicenceRec
  retired : List Retired
  /-- units marked during operation, to be listed at the next boot (R443) -/
  marked : List Retired
  linkCfg : Option LinkP
  /-- MAGIC and CRC of the board descriptor are right (R355) -/
  boardOk : Bool
  boardCoolant : Nat
  boots : Nat
  fuses : Nat
  deriving DecidableEq, Repr

/-- The one licence record of a part shipped with pre-installed licences: every feature, for this part's DEVICE_ID (R452). -/
def factoryLicence : LicenceRec where
  magic := 0x4C494345
  version := 1
  deviceId := Config.deviceId.toNat
  features := 15
  serial := Config.licenceSerial
  issued := Config.licenceIssued
  sig := Config.licenceSignature

/-- The licences in flash as shipped (R4, R452). -/
def factoryLicences (preinstalled : Bool) : List LicenceRec := if preinstalled then [factoryLicence] else []

/-- Boot, pins and device state. -/
structure Boot where
  pwrok : Bool
  /-- PERST# is asserted -/
  perst : Bool
  /-- a hardware trip stopped the clocks; THERMTRIP_N is low (R410) -/
  tripped : Bool
  straps : Straps
  phase : BootPhase
  dev : DevState
  /-- 0 image A, 1 image B, 2 recovery image -/
  image : Nat
  fallback : Bool
  katDone : Bool
  linksReady : Bool
  /-- the PCI Express controller is held in reset (R435) -/
  pcieHeld : Bool
  /-- units that trained or tested out of service, and cores disabled for the boot -/
  disabledCores : List Nat
  outVaults : List Nat
  /-- the list of in-service vaults fixed at CONFIG_READY (R22) -/
  stripe : List Nat
  /-- licensed features in effect and pending, bits as DEV_INFO.LICENCES (R451) -/
  effective : Nat
  pendingLic : Nat
  thermalClass : FMap Nat
  deriving DecidableEq, Repr

/-! ### Jobs -/

/-- The job and its map (R282 to R285, R413). -/
structure Job where
  isOpen : Bool
  jobid : Nat
  nextJobid : Nat
  /-- rotation map of each sheaf: entry n is the physical local core of logical core n -/
  rotmap : FMap (List Nat)
  /-- reserve cores per sheaf as JOB_OPEN asked for, 0 when no job is open -/
  c0Cores : Nat
  c0Burst : Nat
  c0Interval : Nat
  deriving DecidableEq, Repr

/-! ### Cores -/

/-- A tile descriptor (Table 4.11). -/
structure TileDesc where
  base : Nat
  len : Nat
  lines : Nat
  fmt : Nat
  scaled : Bool
  stride : Nat
  sbase : Nat
  sstride : Nat
  imag : Nat
  /-- a reserved field of the descriptor is not zero -/
  bad : Bool
  deriving DecidableEq, Repr, Inhabited

/-- A FEED as sampled at issue and acceptance (R66, R106, R115). -/
structure FeedOp where
  seq : Nat
  a : TileDesc
  b : TileDesc
  k0 : Nat
  kn : Nat
  anchorX : Int
  plan : Nat
  cplx : Nat
  accumulate : Bool
  fullcream : Bool
  explicit : Bool
  h : Nat
  rowmask : Nat
  colmask : Nat
  deriving DecidableEq, Repr

/-- An ATB as sampled at issue (R129). -/
structure AtbOp where
  seq : Nat
  q : TileDesc
  k : TileDesc
  v : TileDesc
  o : TileDesc
  m : Nat
  maskAt : Nat
  pfmt : Nat
  kind : Nat
  scale : Nat
  rowmask : Nat
  colmask : Nat
  deriving DecidableEq, Repr

/-- An entry of the feed queue. -/
inductive FeedItem where
  | feed (o : FeedOp)
  | atb (o : AtbOp)
  deriving DecidableEq, Repr

/-- A DRAIN as sampled at issue (R117). -/
structure DrainOp where
  seq : Nat
  d : TileDesc
  row : Nat
  col : Nat
  seed : Nat
  rowBase : Nat
  colBase : Nat
  round : Nat
  whey : Option Nat
  gslot : Option Nat
  deriving DecidableEq, Repr

/-- A REDS as sampled at issue (R120). -/
structure RedsOp where
  seq : Nat
  addr : Nat
  tag : Nat
  count : Nat
  stride : Nat
  efmt : Nat
  row : Nat
  rows : Nat
  col : Nat
  cols : Nat
  ch : Nat
  evt : Nat
  deriving DecidableEq, Repr

/-- An entry of the drain queue: a DRAIN or a churn REDS (R122). -/
inductive DrainItem where
  | drain (o : DrainOp)
  | reds (o : RedsOp)
  deriving DecidableEq, Repr

/-- A VOP as sampled at issue (R125). -/
structure VopOp where
  seq : Nat
  d : TileDesc
  a : TileDesc
  b : TileDesc
  s : Nat
  fn : Nat
  bcast : Bool
  deriving DecidableEq, Repr

/-- The four DMA instructions. -/
inductive DmaKind where
  | dmv | dms | dmr | dmh
  deriving DecidableEq, Repr

/-- A DMA descriptor held by a channel from issue to completion (R131, R133). -/
structure DmaOp where
  seq : Nat
  kind : DmaKind
  addr : Nat
  sram : Nat
  bytes : Nat
  lines : Nat
  write : Bool
  merge : Bool
  evt : Nat
  dstride : Nat
  sstride : Nat
  cls : Nat
  /-- its requests have been issued -/
  started : Bool
  /-- requests without reply or acknowledgement -/
  left : Nat
  deriving DecidableEq, Repr

/-- A SIGNAL or REDS of the core that has not completed. -/
structure Outgoing where
  seq : Nat
  /-- packets not yet injected (REDS), or 1 until acknowledged (SIGNAL) -/
  left : Nat
  /-- the bit of FENCE's KINDS that waits for it (R136): its channel, 5 for a churn REDS, 7 for a SIGNAL -/
  fence : Nat
  evt : Nat
  deriving DecidableEq, Repr

/-- A partial buffer of a cell (R34): its four 16-bit signed fields. -/
structure Partial where
  f0 : BitVec 16
  f1 : BitVec 16
  f2 : BitVec 16
  f3 : BitVec 16
  deriving DecidableEq, Repr

/-- A cell of the digit array during a FEED (R34 to R36): pass blocks closed, pass blocks its lane has read, and its
two partial buffers, each while it is completed and waits to be read. Pass block n is in buffer n mod 2. -/
structure Cell where
  closed : Nat
  done : Nat
  buf0 : Option Partial
  buf1 : Option Partial
  deriving DecidableEq, Repr

/-- A churn tile that a CLEAR FEED has replaced while DRAINs issued before that FEED still read it (R56): the FEED's
number, and the tile's anchor, flags and mode. -/
structure OldTile where
  before : Nat
  anchor : Int
  flags : Nat
  fc : Bool
  deriving DecidableEq, Repr

/-- The unit that runs an operation of a core: a DMA channel, the feed controller, the drain unit, the vector unit, or
the channel that injects a REDS of an SRAM tile. -/
inductive TileUnit where
  | dma (ch : Nat)
  | feed
  | drain
  | vector
  | reds (ch : Nat)
  deriving DecidableEq, Repr

/-- An operation that no FENCE and no WAITC has ordered before later ones yet (R141): its number and unit, whether it
is an ATB, the event bit that it sets, and the SRAM ranges that it reads and writes. -/
structure Access where
  seq : Nat
  unit : TileUnit
  atb : Bool
  evt : Option Nat
  reads : List (Nat × Nat)
  writes : List (Nat × Nat)
  deriving DecidableEq, Repr

/-- A churn entry (R47): the 128-bit value and its flags. -/
structure Entry where
  v : BitVec 128
  ovf : Bool
  nan : Bool
  deriving DecidableEq, Repr

/-- The FEED that is running: its operands and the number of pass blocks each cell performs. -/
structure FeedRun where
  op : FeedOp
  passes : Nat
  deriving DecidableEq, Repr

/-- A DRAIN that has written its rows and waits for the guard's acknowledgement (R175). -/
structure DrainWait where
  seq : Nat
  acked : Bool
  deriving DecidableEq, Repr

/-- The state of one core that its register block does not hold. -/
structure CoreSt where
  running : Bool
  pc : Nat
  /-- instruction store: the loaded code section (R101) -/
  code : List Word
  imageAddr : Nat
  imageId : Nat
  imageKept : Bool
  sregs : FMap Word
  /-- tile registers; an unlisted one holds undefined contents (R101) -/
  tregs : FMap TileDesc
  cmdid : Nat
  cls : Nat
  mode : Nat
  sens : Bool
  rank : Nat
  count : Nat
  /-- step tag of the dispatching command, if any (R176) -/
  step : Option Nat
  /-- the item the kernel serves: queue and index -/
  owner : Option (Nat × Nat)
  nextSeq : Nat
  feedQ : List FeedItem
  feedRun : Option FeedRun
  cells : FMap Cell
  /-- churn bank, by 128 × row + column; an unlisted entry holds undefined contents (R57) -/
  churn : FMap Entry
  /-- K-blocks added since the tile's CLEAR (R89) -/
  kblocks : Nat
  /-- tiles that waiting DRAINs still read, the oldest first (R56) -/
  tiles : List OldTile
  /-- entries that a CLEAR FEED clears once the DRAINs before it have read them: entry, and the FEED's number (R56) -/
  toClear : List (Nat × Nat)
  /-- operations not yet ordered before later ones (R141) -/
  order : List Access
  drainQ : List DrainItem
  drainWait : Option DrainWait
  vopQ : List VopOp
  dma : FMap (List DmaOp)
  outgoing : List Outgoing
  /-- kept in the ring stop (R108): events, completed tags (at most 64) and notices held -/
  events : Word
  tags : List Nat
  heldTags : List Nat
  deriving DecidableEq, Repr

/-! ### Vaults -/

/-- What is wrong with a stored code word (R203, R213, R231). The memory holds the word's correct data. -/
inductive Mark where
  /-- the stored value differs from the word's code word: symbol (vault) or bit (SRAM), and pattern -/
  | err (e : List (Nat × Nat))
  /-- the poison marker (R213) -/
  | poison
  /-- check bits that do not match (R231) -/
  | badCheck
  deriving DecidableEq, Repr

/-- Where a vault request came from and where its reply goes. -/
inductive ReqFrom where
  /-- the core above, over the shaft: channel, descriptor, SRAM offset -/
  | shaft (ch seq sram : Nat)
  /-- a ring packet: source stop, ring, class, tag, remote -/
  | ring (src ring cls txn : Nat) (remote : Bool)
  deriving DecidableEq, Repr

/-- One request at a vault controller (R200). -/
structure VReq where
  write : Bool
  off : Nat
  bytes : Nat
  data : List Byte
  merge : Bool
  src : ReqFrom
  /-- order of arrival at the controller (R200) -/
  num : Nat
  deriving DecidableEq, Repr

/-- A merge entry (R218). -/
structure Merge where
  id : Nat
  block : Nat
  ring : Nat
  /-- closed by a write that touches the block (R219): takes no more requesters -/
  closed : Bool
  /-- the block's data as the DRAM read returned them, with poison -/
  data : List Byte
  poison : Bool
  reqs : List VReq
  deriving DecidableEq, Repr

/-- A row operation waiting in a bank's queue (R235), with the row numbers sampled at issue. -/
structure RowPend where
  op : RowOp
  d : Nat
  a : Nat
  b : Nat
  c : Nat
  deriving DecidableEq, Repr

/-- A ROW_RUN loaded or waiting on one vault (R240). -/
structure RowJob where
  queue : Nat
  idx : Nat
  prog : List (BitVec 32)
  params : List Nat
  sets : List Nat
  deriving DecidableEq, Repr

/-- The row unit of a vault (R233). -/
structure RowUnit where
  r : List Nat
  c : List Nat
  pc : Nat
  prog : List (BitVec 32)
  params : List Nat
  sets : List Nat
  /-- queues of row operations, by bank position -/
  banks : FMap (List RowPend)
  /-- the running program's item -/
  job : Option (Nat × Nat)
  waiting : List RowJob
  aborted : Bool
  /-- rows that programs wrote and no ROW_FENCE covers yet (R242), by bank position × 3,072 + row -/
  unfenced : List Nat
  deriving DecidableEq, Repr

/-- The state of one vault that its registers and memory do not hold. -/
structure VaultSt where
  /-- requests over the shaft, oldest first: the 32 of its queue, then those held at the core's DMA engine (R30, R31) -/
  shaftQ : List VReq
  ringQ : List VReq
  /-- the ring input is served next when both hold requests (R201) -/
  ringNext : Bool
  /-- number of the next request to arrive -/
  nextNum : Nat
  merges : List Merge
  /-- open row of each bank position -/
  openRows : FMap Nat
  row : RowUnit
  deriving DecidableEq, Repr

/-! ### Rings -/

/-- A DRAIN's report to the guard (R174). -/
structure Report where
  /-- the built-in kernel, queue and item, that ends when the guard takes the report; `none` for a DRAIN -/
  item : Option (Nat × Nat)
  core : Nat
  seq : Nat
  slot : Nat
  step : Option Nat
  sumsq : Nat
  amax : Nat
  nonfinite : Nat
  overflow : Bool
  underspill : Bool
  fcrange : Bool
  deriving DecidableEq, Repr

/-- Packet types (Table 9.5). -/
inductive PType where
  | rdReq | rdResp | mcResp | wr | wrAck | reduce | signal | sigAck | tagNotice | msg
  deriving DecidableEq, Repr

/-- A packet (Table 9.4). -/
structure Packet where
  ty : PType
  ring : Nat
  cls : Nat
  src : Nat
  dst : Nat
  /-- TXN in the low 16 bits; above them the stop that opened it, which the header carries as SRC or DST -/
  txn : Nat
  addr : Nat
  bytes : Nat
  merge : Bool
  ackreq : Bool
  remote : Bool
  poison : Bool
  data : List Byte
  /-- REDUCE fields -/
  efmt : Nat
  rtag : Nat
  rcount : Nat
  relems : Nat
  contrib : Nat
  anchor : Int
  rflags : Nat
  held : Nat
  eflags : Nat
  /-- SIGNAL: event bit -/
  ev : Nat
  /-- SIGNAL with RELEASE: leaves only after the core's earlier writes and REDS (R138) -/
  release : Option Nat
  /-- the core and operation the packet counts toward, if any -/
  owner : Option (Nat × Nat)
  /-- MC_RESP: requesting local cores of the sheaf it travels in, and of the other sheaves -/
  stopmask : List Nat
  sheafmask : FMap (List Nat)
  /-- MSG: a DRAIN's report on its way to the guard; an MSG without one is its acknowledgement (R174, R175) -/
  report : Option Report
  /-- MC_RESP: the sheaf the packet travels in -/
  sheaf : Nat
  /-- steered the other way around the package loop (R272) -/
  back : Bool
  /-- THE MODEL'S OWN: the stop that injected it last, past which it travels -/
  entered : Nat
  deriving DecidableEq, Repr

/-- A held combining entry (R266, R267). -/
structure HeldRed where
  id : Nat
  p : Packet
  deriving DecidableEq, Repr

/-- An entry of a destination stop's tag table (R269). -/
structure TagEntry where
  tag : Nat
  expected : Nat
  received : Nat
  owner : Nat
  ring : Nat
  deriving DecidableEq, Repr

/-- One received bridge lane (R270, R271). -/
structure Lane where
  up : Bool
  retrain : Bool
  replays : Nat
  spared : Nat
  deriving DecidableEq, Repr

/-- What waits for the reply or acknowledgement of a transaction tag. -/
inductive OutReq where
  /-- a DMA descriptor: core, channel, descriptor, device address, SRAM offset and bytes of the part -/
  | dma (core ch seq addr sram bytes : Nat) (write : Bool)
  /-- a SIGNAL: core and operation -/
  | signal (core seq : Nat)
  /-- a SIGNAL work-queue command: queue, index -/
  | sync (q idx : Nat)
  /-- a Stoby operation being performed: receive context and PSN -/
  | stoby (ctx psn : Nat)
  /-- a Stoby READ: link stop, frame's requester stop and tag, device, sheaf, class -/
  | stobyRead (stop srcstop txn dev sheaf cls ctx psn : Nat)
  /-- a host read or zero-length read of a DMH: bus address as well -/
  | host (core ch seq sram bus bytes : Nat) (write : Bool)
  /-- a Stoby SIGNAL or DOORBELL from this device -/
  | remote (core seq : Nat)
  deriving DecidableEq, Repr

/-- The ring fabric. -/
structure Rings where
  /-- packets that wait at a stop for a ring, by 4 × stop ID + ring, oldest first: those in the stop's dual-clock queue
  (Table 1.8), then those that its full queue holds at their source (R31) -/
  inject : FMap (List Packet)
  /-- packets on the rings and in ejection queues, by serial number of injection -/
  flight : FMap Packet
  /-- ejection queues of core stops: serial numbers of the packets accepted and not performed, oldest first -/
  eject : FMap (List Nat)
  nextId : Nat
  nextTxn : Nat
  /-- by source stop × 2¹⁶ + TXN -/
  out : FMap OutReq
  combine : FMap (List HeldRed)
  tags : FMap (List TagEntry)
  /-- turned-away source, class, ring triples of each destination stop (R259) -/
  turned : FMap (List (Nat × Nat × Nat))
  /-- stops whose empty-slot request is out (R256), as 4 × stop ID + ring -/
  slotReq : List Nat
  /-- deficits of classes 1 to 3, by 16 × stop ID + 4 × ring + class (R258) -/
  deficit : FMap Nat
  /-- received bridge lanes, by 8 × sheaf + 4 × (gateway B) + ring -/
  lanes : FMap Lane
  deriving DecidableEq, Repr

/-! ### Page units, tiller tree, winnow -/

/-- The page unit of one sheaf (R156 to R166). -/
structure PageUnit where
  count : Nat
  slot : Nat
  base : Nat
  /-- reference counts above zero, by local vault × 2²² + page index -/
  refs : FMap Nat
  deriving DecidableEq, Repr

/-- A tiller entry (R168). -/
structure TillerEntry where
  hash : Nat
  page : Nat
  stamp : Nat
  deriving DecidableEq, Repr

/-- Page units of the eight sheaves and the tiller tree. -/
structure Pages where
  units : FMap PageUnit
  /-- tiller entries, by sheaf × 2³² + bucket × 8 + way -/
  tiller : FMap TillerEntry
  stamp : Nat
  /-- sheaves whose unit has not been initialised since a vault went Off (R388) -/
  lost : List Nat
  deriving DecidableEq, Repr

/-! ### Guard -/

/-- A scale record (Table 6.5). -/
structure ScaleRec where
  exp : Int
  flag : Bool
  attempt : Nat
  amax : Nat
  stepid : Nat
  deriving DecidableEq, Repr

/-- Step accumulators and copies of one guard slot (R175, R178, R191). -/
structure SlotSt where
  /-- exact sum of squares in units of 2⁻²⁹⁸ -/
  sumsq : Nat
  amax : Nat
  nonfinite : Nat
  overflow : Bool
  underspill : Bool
  fcrange : Bool
  hasEma : Bool
  scale : ScaleRec
  deriving DecidableEq, Repr

/-- A region of a step (Table 6.3). -/
structure Region where
  live : Nat
  work : Nat
  count : Nat
  sheaf : Nat
  copy : Bool
  deriving DecidableEq, Repr

/-- A step's progress. -/
inductive StepPhase where
  | running
  /-- STEP_COMMIT waits for the evaluation -/
  | committing
  | held
  deriving DecidableEq, Repr

/-- An open step (R179 to R190). -/
structure Step where
  stepid : Nat
  /-- the tag that the queue engine gives its commands (R176) -/
  tag : Nat
  /-- entry index of its STEP_BEGIN -/
  beginIdx : Nat
  entries : Nat
  /-- device address of its region descriptors -/
  regionsAt : Nat
  regions : List Region
  slots : List Nat
  limit : Nat
  attempt : Nat
  phase : StepPhase
  /-- completion slots reserved and not yet taken -/
  reserved : Nat
  /-- index of the STEP_COMMIT once it runs -/
  commitIdx : Nat
  deriving DecidableEq, Repr

/-- The numerics guard. -/
structure Guard where
  slots : FMap SlotSt
  /-- open and held steps, by queue -/
  steps : FMap Step
  /-- the next step tag -/
  nextTag : Nat
  /-- reports sent and not yet taken, oldest first -/
  reports : List Report
  deriving DecidableEq, Repr

/-! ### Pails -/

/-- A pail page (Table 10.1): what the firmware writes, and the bytes that the host has written, by offset; an unlisted
one is zero. -/
structure PailPage where
  status : Nat
  rseq : Nat
  rlen : Nat
  resp : List Byte
  /-- OPCODE, FLAGS, SEQ, LEN and VECTOR at 0x000 to 0x00F, and REQ from 0x040 -/
  host : FMap Byte
  deriving DecidableEq, Repr

/-- A pail command that has not ended: a flush, a change of operating points that waits for its end, or a
JOB_CLOSE whose flushes wait for commands that run to their own record (R288, R375, R285). -/
inductive PailBusy where
  | flush (r : PailReq) (q discarded : Nat)
  | pin (r : PailReq) (sheaves : Nat)
  | close (r : PailReq)
  deriving DecidableEq, Repr

/-- The pails and the firmware behind them. -/
structure Pails where
  pages : FMap PailPage
  busy : Option PailBusy
  /-- commands rung and not yet taken, in ring order (R278) -/
  deferred : List (PailReq × Instr)
  /-- the firmware is restarting after a watchdog expiry (R458) -/
  restarting : Bool
  deriving DecidableEq, Repr

/-! ### Work queues -/

/-- GEMM operands (Table 10.11). -/
structure GemmP where
  m : Nat
  n : Nat
  k : Nat
  fa : Nat
  fb : Nat
  fc : Nat
  round : Nat
  fullcream : Bool
  accum : Bool
  plan : Nat
  a : Nat
  asc : Nat
  b : Nat
  bsc : Nat
  c : Nat
  csc : Nat
  lda : Nat
  ldb : Nat
  ldc : Nat
  gslot : Nat
  seed : Nat
  tset : Nat
  deriving DecidableEq, Repr

/-- ATTEND operands (Table 10.11). -/
structure AttendP where
  desc : Nat
  first : Nat
  nseq : Nat
  tables : Nat
  tstride : Nat
  maxlen : Nat
  q : Nat
  qstride : Nat
  d : Nat
  glog2 : Nat
  qlen : Nat
  o : Nat
  ostride : Nat
  fq : Nat
  fo : Nat
  mask : Nat
  pfmt : Nat
  scale : Nat
  w : Nat
  head : Nat
  g : Nat
  pf : Nat
  tset : Nat
  deriving DecidableEq, Repr

/-- REDUCE operands (Table 10.11). -/
structure ReduceP where
  src : Nat
  sstride : Nat
  dst : Nat
  elems : Nat
  nsrc : Nat
  efmt : Nat
  tag : Nat
  deriving DecidableEq, Repr

/-- PAGE_OP operands (Table 5.10). -/
structure PageOpP where
  sub : Nat
  sheaf : Nat
  count : Nat
  vhint : Nat
  table : Nat
  src : Nat
  deriving DecidableEq, Repr

/-- TILLER_LOOKUP operands (Table 5.12). -/
structure TillerP where
  sub : Nat
  hashed : Bool
  blocks : Nat
  input : Nat
  table : Nat
  result : Nat
  salt : Nat
  deriving DecidableEq, Repr

/-- WINNOW operands (Table 5.14). -/
structure WinnowP where
  sheaf : Nat
  nb : Nat
  n : Nat
  input : Nat
  output : Nat
  summary : Nat
  bound : List Nat
  deriving DecidableEq, Repr

/-- STEP_BEGIN operands (Table 6.2). -/
structure StepBeginP where
  stepid : Nat
  entries : Nat
  nreg : Nat
  regions : Nat
  slots : Nat
  maxrep : Nat
  deriving DecidableEq, Repr

/-- A work-queue command with its operands (Tables 10.9 and 10.11). -/
inductive WqCmd where
  | kernel (image tset : Nat) (args : List Nat)
  | gemm (p : GemmP)
  | attend (p : AttendP)
  | reduce (p : ReduceP)
  | copy (src dst len : Nat)
  | fill (dst len : Nat) (pattern : List Byte)
  | pageOp (p : PageOpP)
  | tiller (p : TillerP)
  | winnow (p : WinnowP)
  | vaultMode (mode vset : Nat)
  | rowRun (prog len vset param : Nat)
  | rowFence (vset : Nat)
  | stepBegin (p : StepBeginP)
  | stepCommit (stepid : Nat)
  | phaseHint (intensity lead : Nat)
  | fence
  | signal (addr value vector : Nat)
  | wait (addr value : Nat)
  | timeWait (dtime : Nat)
  | abort (queue cmdid : Nat)
  | unknown (opcode : Nat)
  deriving DecidableEq, Repr

/-- How far an item has come. -/
inductive ItemPhase where
  /-- fetched, not dispatched -/
  | fetched
  /-- dispatched, its command not begun -/
  | dispatched
  /-- its command runs -/
  | running
  /-- ended with its status; no record yet -/
  | ended
  /-- its record is written (or held until its step ends) -/
  | recorded
  deriving DecidableEq, Repr

/-- An item of a work queue between fetch and the passing of head (R290). -/
structure Item where
  idx : Nat
  entries : Nat
  sens : Bool
  ordered : Bool
  intr : Bool
  wfmt : Nat
  cmdid : Nat
  xbound : Nat
  cmd : WqCmd
  phase : ItemPhase
  status : Nat
  /-- an ABORT found it undispatched: it is skipped at its turn (R306) -/
  skip : Bool
  mode : Nat
  attempt : Nat
  result : Nat
  /-- it belongs to the queue's open step, whose end its record awaits (R189) -/
  inStep : Bool
  /-- an ABORT's record follows the record of its target (R306): queue and index -/
  after : Option (Nat × Nat)
  /-- it holds a completion slot -/
  slot : Bool
  /-- cores of its target set, by rank (R101); those it waits to start, and those that run it -/
  targets : List Nat
  waitCores : List Nat
  runCores : List Nat
  /-- vaults whose row program must still reach END -/
  waitVaults : List Nat
  /-- device time of the doorbell that made it visible (R308) -/
  t0 : Nat
  /-- memory that its kernel has written or will write, as first key and bytes: its outputs (R104) -/
  outs : List (Nat × Nat)
  /-- every byte and bit of its entries that the tables give as zero is zero (R290) -/
  clean : Bool
  /-- of a KERNEL: the IMAGE_ID and the memory of its image when the engine fetched it (R102) -/
  seen : Option (Nat × List Host.Cell)
  /-- of a ROW_RUN that runs: its program and the vaults of its set (R240, R244) -/
  rows : Option (RowJob × List Nat)
  deriving DecidableEq, Repr

/-- Work-queue states (Table 10.7). -/
inductive QState where
  | free | active | flushing | held | faulted
  deriving DecidableEq, Repr

/-- A work or completion queue (R286 to R297). -/
structure Queue where
  st : QState
  completion : Bool
  cls : Nat
  log2depth : Nat
  weight : Nat
  cq : Nat
  base : Nat
  /-- the target set copied at creation, as a 1,024-bit number -/
  tset : Nat
  group : Nat
  vector : Nat
  gen : Nat
  created : Bool
  head : Nat
  tail : Nat
  /-- next entry to fetch -/
  fetch : Nat
  /-- entries of an aborted step that are still to be fetched and skipped (R190) -/
  skipping : Nat
  items : List Item
  /-- completion queue: PHASE of the present pass, and slots reserved or not yet returned -/
  phase : Bool
  used : Nat
  /-- completion queue: records written and not returned -/
  written : Nat
  /-- doorbells whose entries are not all fetched, oldest first: the tail each set and its device time (R308) -/
  bells : List (Nat × Nat)
  deriving DecidableEq, Repr

/-- The queue engine. -/
structure Wq where
  queues : FMap Queue
  /-- class-0 tokens spent, by queue group (R308) -/
  spent : FMap Nat
  /-- deficits of queues and classes (R298) -/
  qdeficit : FMap Nat
  cdeficit : FMap Nat
  /-- served last: class-0 queue at key 0, queue of each class at 1 to 3, class at 4 -/
  last : FMap Nat
  deriving DecidableEq, Repr

/-! ### Links, Stoby and time -/

/-- What a frame that a link sends carries (R318, R319, R328, R331). -/
inductive TxFrame where
  | stoby (f : Frame)
  | arpReply (ip mac : Nat)
  | arpRequest (ip : Nat)
  | neighbourAdvert (ip mac : Nat)
  | neighbourSolicit (ip : Nat)
  | delayReq (domain seqId : Nat)
  /-- priority flow control: priorities and quanta -/
  | pfc (prios quanta : Nat)
  deriving DecidableEq, Repr

/-- IP and UDP header fields of a frame (R319). -/
structure IpHead where
  v6 : Bool
  src : Nat
  dst : Nat
  dscp : Nat
  ecn : Nat
  ttl : Nat
  /-- identification of IPv4, flow label of IPv6 -/
  ident : Nat
  sport : Nat
  dport : Nat
  deriving DecidableEq, Repr

/-- A frame that a link sends: addresses, 802.1Q priority and VLAN, EtherType, IP and UDP headers, and what it carries. -/
structure OutFrame where
  dmac : Nat
  smac : Nat
  tag : Option (Nat × Nat)
  etype : Nat
  ip : Option IpHead
  /-- the class whose priority it is sent on, if it has one -/
  cls : Option Nat
  body : TxFrame
  deriving DecidableEq, Repr

/-- A frame that a link receives. -/
inductive RxFrame where
  | stoby (f : Frame)
  | arp (ip mac : Nat)
  | solicit (ip mac : Nat)
  | resolved (mac : Nat)
  | pfc (prios quanta : Nat)
  | announce (ds : AnnounceDs)
  | sync (m : PtpStamp)
  | followUp (m : PtpStamp)
  | delayResp (m : PtpStamp)
  | bad (why : BadFrame)
  deriving DecidableEq, Repr

/-- One link (R312 to R318), beside LNK_ registers. -/
structure LinkSt where
  training : Bool
  pauseQuanta : FMap Nat
  switchMac : Option Nat
  /-- frames that wait for a paused priority, for the address of the switch or for the link to wake -/
  waiting : List OutFrame
  /-- frames received in Retention, with the device time of each, oldest first (R392) -/
  rxBuf : List (RxFrame × Nat)
  /-- priorities that the link has sent XOFF for (R328) -/
  xoff : List Nat
  deriving DecidableEq, Repr

/-- Links and their configuration. -/
structure Links where
  cfg : LinkP
  links : FMap LinkSt
  /-- frames sent, link and frame, oldest first -/
  tx : List (Nat × OutFrame)
  deriving DecidableEq, Repr

/-- A frame sent and not yet acknowledged. -/
structure Sent where
  frame : Frame
  /-- source and destination link of its last transmission -/
  path : Nat × Nat
  rtoUs : Nat
  /-- later PSNs that SACK has shown received while this one was missing -/
  laterSeen : Nat
  /-- the transaction whose acknowledgement the frame's own brings, if one was asked for -/
  txn : Option Nat
  deriving DecidableEq, Repr

/-- A Stoby send context (R321). -/
structure SendCtx where
  sheaf : Nat
  dev : Nat
  dsheaf : Nat
  cls : Nat
  nextPsn : Nat
  syn : Bool
  unacked : List Sent
  /-- destination links the peer has acknowledged from -/
  ackedFrom : List Nat
  entropy : Nat
  /-- credits of the weighted round robin, by 32 × source link + destination link (R326) -/
  spray : FMap Int
  rate : Rat
  alpha : Rat
  acks : Nat
  marked : Nat
  deriving DecidableEq, Repr

/-- A Stoby receive context (R322, R323). -/
structure RecvCtx where
  dev : Nat
  sheaf : Nat
  dsheaf : Nat
  cls : Nat
  /-- lowest PSN not yet performed -/
  next : Nat
  /-- lowest PSN not yet started -/
  start : Nat
  /-- frames held in the reorder window and not started, by PSN, with the device time at which each reached its link -/
  window : FMap (Frame × Nat)
  /-- PSNs performed out of order -/
  finished : List Nat
  sinceAck : Nat
  ackNow : Bool
  lastTs : Nat
  ece : Bool
  link : Nat × Nat
  deriving DecidableEq, Repr

/-- Stoby state of the device. -/
structure Stoby where
  send : FMap SendCtx
  recv : FMap RecvCtx
  nextCtx : Nat
  deriving DecidableEq, Repr

/-- Time states (Table 11.6). -/
inductive TimeSt where
  | unset | freerun | locked | holdover
  deriving DecidableEq, Repr

/-- The time unit (R330 to R337). -/
structure Time where
  /-- DTIME in 2⁻¹⁶ ns -/
  dtime : Nat
  st : TimeSt
  bound : Nat
  cfg : TimeP
  /-- best Announce of each candidate port -/
  announces : FMap AnnounceDs
  active : Option Nat
  grandmaster : Option Nat
  /-- the Sync that waits for its Follow_Up or its Delay_Resp, by port -/
  sync : FMap PtpStamp
  delayReqId : Nat
  delayReqAt : Option Int
  /-- successive offsets within ±100 ns -/
  good : Nat
  offset : Int
  /-- a source has given a correction since power-up (R334) -/
  sourced : Bool
  /-- device time of the last edge of 1PPS_IN, while it is the source (R335) -/
  ppsAt : Option Nat
  /-- a slew is in progress; the correction still to be absorbed, ns; and nanoseconds toward its next step -/
  slewing : Bool
  slewLeft : Int
  slewTick : Nat
  /-- correction given to the servo's frequency control and not yet absorbed, ns -/
  servo : Int
  /-- while the time unit is stopped: DTIME and BOUND at the stop, and nanoseconds since (R336) -/
  asleep : Option (Nat × Nat × Nat)
  timerefLost : Bool
  /-- sleep tick periods of the last 64 windows, latest first, in 2⁻¹⁶ ns (R336) -/
  periods : List Nat
  ppsOut : Bool
  deriving DecidableEq, Repr

/-! ### Host, board and power -/

/-- The PCI Express endpoint (R339 to R346). -/
structure HostIf where
  busMaster : Bool
  relaxedOrdering : Bool
  msixEnable : Bool
  /-- the BAR2 size is 2 to this power bytes -/
  bar2Log : Nat
  ptmEnable : Bool
  /-- vectors whose mask bit in the MSI-X table is clear; every mask bit is set after reset, as the PCI Express
  specification defines -/
  unmasked : List Nat
  pendingBits : List Nat
  /-- message address and data of the MSI-X table, by offset of their dword; an unlisted one is zero -/
  table : FMap Nat
  /-- MSI-X messages sent, oldest first -/
  sent : List Nat
  /-- memory writes sent, latest first: bus address and the Relaxed Ordering attribute (R340) -/
  writes : List (Nat × Bool)
  /-- configuration dwords written -/
  cfg : FMap Nat
  /-- the answer of the latest configuration request: `none` is retry status -/
  cfgAnswer : Option Nat
  /-- value returned by the latest register or status-page read -/
  readData : Nat
  /-- bytes and EP bit returned by the latest BAR2 read -/
  bar2Data : List Byte × Bool
  /-- HUB_PTM_ROOT, HUB_PTM_LOCAL and HUB_PTM_SEQ (Table 12.3) -/
  ptmRoot : Nat
  ptmLocal : Nat
  ptmSeq : Nat
  deriving DecidableEq, Repr

/-- A queued PLDM event (R432). -/
inductive PldmEvt where
  | sensor (id value : Nat)
  | faultRecord (kind seq : Nat)
  | flowWarning (raised : Bool) (level : Nat)
  deriving DecidableEq, Repr

/-- Board management and sideband outputs (R348, R359). -/
structure Board where
  /-- ALERT_N is low -/
  alert : Bool
  events : List PldmEvt
  lost : Nat
  answer : List Nat
  /-- instruction and data path of the test access port -/
  tap : TapInstr
  deriving DecidableEq, Repr

/-- Power of one sheaf beside its PWR_ registers. -/
structure SheafPower where
  /-- point under way, and the held request (R374) -/
  target : Option Nat
  heldReq : Option Nat
  pin : Option Nat
  /-- current of each rail at the latest sample, mA, by rail code -/
  rails : FMap Nat
  missing : List Nat
  /-- energy remainder of each power-zone counter, nJ -/
  nj : FMap Nat
  /-- power samples since the last 1 ms update, mW and count -/
  sum : Nat
  n : Nat
  /-- governor: carried budget in mA, local core served next of the others and of the reserve, ceiling ramp -/
  carry : Nat
  rr : Nat
  rrReserve : Nat
  emergCeil : Bool
  /-- array activity of the latest governor round, permit units -/
  activity : Nat
  deriving DecidableEq, Repr

/-- Governor state of one core (R379, R380, R412). -/
structure GovCore where
  /-- permit ceilings of R377 and of R412 -/
  capCeil : Nat
  thermCeil : Nat
  /-- target permit of the hint in force -/
  hint : Option Nat
  ramping : Bool
  ballast : Nat
  lead : Nat
  /-- slots issued in the latest round, rounds in a row with fewer than the permit, and the most of those -/
  used : Nat
  below : Nat
  peak : Nat
  /-- target of the earlier hint that stays in force until a later one's ramp starts, and DTIME, whole ns, at the end of the
  core's latest FEED (R380) -/
  hold : Option Nat
  fed : Nat
  deriving DecidableEq, Repr

/-- State of the battery hand-over (R382). -/
inductive Holdup where
  | none | low | returning
  deriving DecidableEq, Repr

/-- Power management of the package. -/
structure Power where
  sheaves : FMap SheafPower
  gov : FMap GovCore
  holdup : Holdup
  /-- the hold-up cap in force, W (R378) -/
  holdCap : Nat
  /-- mW of the PMBus rails VBOOST, VDD_AON and VDD_IO -/
  boostMw : Nat
  aonMw : Nat
  ioMw : Nat
  p10 : Nat
  sum : Nat
  n : Nat
  /-- P1MS of the window's milliseconds, latest first, mW -/
  history : List Nat
  /-- booster and clamp cells switched out, by core: boosters, clamps -/
  cells : FMap (Nat × Nat)
  /-- detectors that stretch their clock now, and clamps engaged, by core -/
  stretched : List Nat
  clamped : List Nat
  warnLow : Bool
  deriving DecidableEq, Repr

/-- States of a power domain (R385, R391). -/
inductive DomSt where
  | on | retention | off
  deriving DecidableEq, Repr

/-- Progress of a sleep request (R394). -/
inductive SleepReq where
  | none | raised | window
  deriving DecidableEq, Repr

/-- One power domain: state, transition, held request and policy (R387 to R394). -/
structure DomRec where
  st : DomSt
  trans : Option DomSt
  heldReq : Option DomSt
  sleep : SleepReq
  /-- a level wake is asserted -/
  level : Bool
  action : DomAction
  timer : Nat
  offtimer : Nat
  deriving DecidableEq, Repr

/-- Power domains and keep regulators. -/
structure Domains where
  doms : FMap DomRec
  /-- banks in Retention now, by core, in order of entry, latest last -/
  retained : List (Nat × Nat)
  aggressive : Bool
  keepFail : List Nat
  brownout : List Nat
  /-- device times of the latest brown-outs, by sheaf -/
  brownTimes : FMap (List Nat)
  deriving DecidableEq, Repr

/-- What the firmware keeps of a tray sensor's replies (R352): the latest SEQ, polls since it changed, and polls in a row
without a reading. -/
structure TrayTrack where
  seq : Option Nat
  same : Nat
  missed : Nat
  deriving DecidableEq, Repr

/-- Thermal state (R403 to R412). -/
structure Thermal where
  /-- latest readings, by sheaf × 4,096 + sensor number -/
  readings : FMap Int
  excluded : List Nat
  /-- hottest array, store and DRAM readings of each sheaf, as counted under R404 -/
  hotArray : FMap Int
  hotStore : FMap Int
  hotDram : FMap Int
  /-- thermal allowance of a sheaf in mW when limited -/
  allow : FMap Nat
  /-- sheaves whose thermal cycles have been sampled since the boot (R415) -/
  cycled : List Nat
  inlet : Int
  outlet : Int
  flow : Int
  inletSilent : Bool
  outletSilent : Bool
  /-- flow polls since a reading at or above 3.2 L/min, if one was seen; polls below 1.6 L/min without a
  break; polls at or above 6.8 L/min, and at or above 4.8 L/min, without a break -/
  sinceHigh : Option Nat
  lowPolls : Nat
  okPolls : Nat
  ok2Polls : Nat
  emerg : Bool
  warn1 : Bool
  warn2 : Bool
  heat : Bool
  /-- computations without a break that found Q short of 0.8 PWIN above 1,000 W (R406) -/
  heatPolls : Nat
  /-- by kind of sensor: 0 inlet, 1 outlet, 2 flow -/
  tray : FMap TrayTrack
  deriving DecidableEq, Repr

/-- One hourly entry of the wear log: power-on hours, DTIME, ageing figure of each core, mechanical figure of
each sheaf, in 0.01 % (R414). -/
structure WearSnap where
  hours : Nat
  dtime : Nat
  ageing : FMap Nat
  mech : FMap Nat
  deriving DecidableEq, Repr

/-- The wear log (R413 to R416). Monitors are keyed by 4 × core + monitor, 64 × sheaf + monitor and
8 × link + lane; values are life consumed in 0.01 %. -/
structure Wear where
  hours : Nat
  ageing : FMap Nat
  resist : FMap Nat
  eye : FMap Nat
  weakRows : FMap (List Nat)
  cycles : FMap Nat
  /-- thermal-cycle tracking per sheaf: last recorded minimum and peak since -/
  tmin : FMap Int
  tpeak : FMap Int
  rot : FMap Nat
  /-- hourly entries of the last 720 power-on hours, latest first -/
  log : List WearSnap
  deriving DecidableEq, Repr

/-- A snapshot run (R427 to R430). -/
structure SnapRun where
  p : SnapP
  slot : Nat
  next : Nat
  seq : Nat
  missed : Nat
  deriving DecidableEq, Repr

/-- Counter control. -/
structure Pmc where
  selgen : Nat
  run : Option SnapRun
  deriving DecidableEq, Repr

/-- The state of the block. -/
structure State where
  /-- commands waiting, first in, first out -/
  pending : List Instr
  /-- THE MODEL'S OWN: index of the next free value -/
  free : Nat
  /-- bytes of vaults, SRAM and host memory that have been written; an unlisted byte is undefined -/
  mem : List Host.Cell
  /-- code words stored with an error, by the address of their first byte -/
  marks : FMap Mark
  /-- device registers that do not read their reset value, by device address -/
  regs : FMap Word
  boot : Boot
  flash : Flash
  fault : FaultUnit
  job : Job
  cores : FMap CoreSt
  vaults : FMap VaultSt
  rings : Rings
  pages : Pages
  guard : Guard
  pails : Pails
  wq : Wq
  links : Links
  stoby : Stoby
  time : Time
  host : HostIf
  board : Board
  power : Power
  doms : Domains
  thermal : Thermal
  wear : Wear
  pmc : Pmc
  deriving DecidableEq, Repr

/-! ### Reset -/

/-- A core after reset: no kernel, empty queues. -/
def CoreSt.reset : CoreSt where
  running := false
  pc := 0
  code := []
  imageAddr := 0
  imageId := 0
  imageKept := false
  sregs := []
  tregs := []
  cmdid := 0
  cls := 0
  mode := 0
  sens := false
  rank := 0
  count := 0
  step := none
  owner := none
  nextSeq := 0
  feedQ := []
  feedRun := none
  cells := []
  churn := []
  kblocks := 0
  tiles := []
  toClear := []
  order := []
  drainQ := []
  drainWait := none
  vopQ := []
  dma := []
  outgoing := []
  events := 0
  tags := []
  heldTags := []

/-- A row unit that no ROW_RUN has loaded (R233, R245). -/
def RowUnit.reset : RowUnit where
  r := []
  c := []
  pc := 0
  prog := []
  params := []
  sets := []
  banks := []
  job := none
  waiting := []
  aborted := false
  unfenced := []

/-- A vault after reset. -/
def VaultSt.reset : VaultSt where
  shaftQ := []
  ringQ := []
  ringNext := false
  nextNum := 0
  merges := []
  openRows := []
  row := .reset

/-- A page unit after reset: no pool (its STALE flag is set, Table 5.9). -/
def PageUnit.reset : PageUnit := ⟨0, 0, 0, []⟩

/-- A guard slot after reset. -/
def SlotSt.reset : SlotSt := ⟨0, 0, 0, false, false, false, false, ⟨0, false, 0, 0, 0⟩⟩

/-- A pail page after reset. -/
def PailPage.reset : PailPage := ⟨0, 0, 0, [], []⟩

/-- A queue number that names no queue (R289). -/
def Queue.reset : Queue where
  st := .free
  completion := false
  cls := 0
  log2depth := 6
  weight := 1
  cq := 0
  base := 0
  tset := 0
  group := 0
  vector := 0
  gen := 0
  created := false
  head := 0
  tail := 0
  fetch := 0
  skipping := 0
  items := []
  phase := true
  used := 0
  written := 0
  bells := []

/-- A link after reset: no training, nothing resolved. -/
def LinkSt.reset : LinkSt := ⟨false, [], none, [], [], []⟩

/-- A received bridge lane after reset: up (Table 9.10). -/
def Lane.reset : Lane := ⟨true, false, 0, 0⟩

/-- Power of a sheaf after reset. -/
def SheafPower.reset : SheafPower := ⟨none, none, none, [], [], [], 0, 0, 0, 0, 0, false, 0⟩

/-- Governor state of a core after reset: full ceilings, no hint. -/
def GovCore.reset : GovCore := ⟨16, 16, none, false, 0, 0, 0, 0, 0, none, 0⟩

/-- Default policy of a domain (Table 14.2), whose links, vaults and cores are Off until they are powered: DOM_CSTATE,
DOM_VSTATE and LSTATE read Off at reset, the fabric and the time domain On (Table 14.9). -/
def DomRec.reset : DomKind → DomRec
  | .core => ⟨.off, none, none, .none, false, .retention, 200, 0⟩
  | .vault => ⟨.off, none, none, .none, false, .retention, 5000, 0⟩
  | .link => ⟨.off, none, none, .none, false, .retention, 10000, 0⟩
  | .fabric => ⟨.on, none, none, .none, false, .retention, 20, 0⟩
  | .time => ⟨.on, none, none, .none, false, .none, 10000, 0⟩
  | .host => ⟨.on, none, none, .none, false, .none, 0, 0⟩

/-- The link configuration when none was saved (R315, Table 11.2): every link in the mask, no device
ID, Ethernet II, and the payload's defaults. -/
def LinkP.reset : LinkP where
  devid := 0
  unassigned := true
  encap := 0
  minlinks := 28
  linkmask := 0xFFFFFFFF
  ethertype := 0x88B5
  udpport := 47710
  vlan := false
  pfc := false
  ecn := false
  routed := false
  force := false
  save := false
  fmode := 0
  vid := 0
  macpfx := 0
  pcpmap := 0o3336
  rttTgt := 20
  dscpmap := 0x1A1A1A2E
  ipv4base := 0
  peerTmo := 1000
  ipv6pfx := 0

/-- The time configuration before any TIME_CONFIG: the payload's defaults (Table 11.7). -/
def TimeP.reset : TimeP where
  domain := 0
  ptp := false
  stepOk := false
  pps := false
  timeref := false
  ppsOut := false
  ppsLock := false
  encap := 0
  annTmo := 3
  portmask := 0
  stepThr := 1000
  holdPpb := 100
  frBound := 1000000
  asym := []

/-- A firmware slot that holds a valid image (the model's choice). -/
def FlashImage.reset : FlashImage := ⟨true, 0, 0x100000, true⟩

/-- The state before power is good: every register at its reset value, PWROK low. -/
def State.reset : State where
  pending := []
  free := 0
  mem := []
  marks := []
  regs := []
  boot :=
    { pwrok := false, perst := true, tripped := false, straps := ⟨false, false, 0⟩, phase := .off,
      dev := .boot, image := 0, fallback := false, katDone := false, linksReady := false,
      pcieHeld := true, disabledCores := [], outVaults := [], stripe := [], effective := 0,
      pendingLic := 0, thermalClass := [] }
  flash :=
    { activeB := false, imageA := .reset, imageB := .reset, recovery := .reset, licences := factoryLicences Config.licencesPreinstalled,
      retired := [], marked := [], linkCfg := none, boardOk := true, boardCoolant := 0, boots := 0,
      fuses := 0 }
  fault := ⟨[], [], [], 1, none, 0, none⟩
  job := ⟨false, 0, 1, [], 0, 1, 1000⟩
  cores := []
  vaults := []
  rings := ⟨[], [], [], 0, 0, [], [], [], [], [], [], []⟩
  pages := ⟨[], [], 0, []⟩
  guard := ⟨[], [], 0, []⟩
  pails := ⟨[], none, [], false⟩
  wq := ⟨[], [], [], [], []⟩
  links := ⟨LinkP.reset, [], []⟩
  stoby := ⟨[], [], 0⟩
  time :=
    { dtime := 0, st := .unset, bound := 2 ^ 64 - 1, cfg := TimeP.reset, announces := [], active := none,
      grandmaster := none, sync := [], delayReqId := 0, delayReqAt := none, good := 0, offset := 0,
      sourced := false, ppsAt := none, slewing := false, slewLeft := 0, slewTick := 0, servo := 0, asleep := none, timerefLost := false, periods := [], ppsOut := false }
  host := ⟨false, false, false, 30, false, [], [], [], [], [], [], none, 0, ([], false), 0, 0, 0⟩
  board := ⟨false, [], 0, [], .bypass⟩
  power := ⟨[], [], .none, 1200, 0, 0, 0, 0, 0, 0, [], [], [], [], false⟩
  doms := ⟨[], [], false, [], [], []⟩
  thermal :=
    { readings := [], excluded := [], hotArray := [], hotStore := [], hotDram := [], allow := [], cycled := [], inlet := 0, outlet := 0, flow := 0,
      inletSilent := false, outletSilent := false, sinceHigh := none,
      lowPolls := 0, okPolls := 0, ok2Polls := 0, emerg := false, warn1 := false, warn2 := false, heat := false, heatPolls := 0
      tray := [] }
  wear := ⟨0, [], [], [], [], [], [], [], [], []⟩
  pmc := ⟨0, none⟩

end Sys2Proof.Machine
end

