-- ==== Sys2Proof/Machine/Maps.lean ====
section
/-! DEFINITION. Operations on sparse tables and on strings of bytes. -/

namespace Sys2Proof.Machine

/-! ### Sparse tables -/

/-- The value a table lists at a key. -/
def FMap.find {α : Type} : FMap α → Nat → Option α
  | [], _ => none
  | (k, v) :: m, a => if a = k then some v else FMap.find m a

/-- The value at a key, or a default. -/
def FMap.getD {α : Type} (m : FMap α) (k : Nat) (d : α) : α := (FMap.find m k).getD d

/-- The table with a key listed. -/
def FMap.set {α : Type} : FMap α → Nat → α → FMap α
  | [], a, x => [(a, x)]
  | (k, v) :: m, a, x =>
    if a = k then (a, x) :: m
    else if a < k then (a, x) :: (k, v) :: m
    else (k, v) :: FMap.set m a x

/-- The table with a key no longer listed. -/
def FMap.drop {α : Type} : FMap α → Nat → FMap α
  | [], _ => []
  | (k, v) :: m, a => if a = k then FMap.drop m a else (k, v) :: FMap.drop m a

/-- The keys of a table rise strictly. -/
def FMap.wf {α : Type} : FMap α → Bool
  | [] => true
  | [_] => true
  | (a, _) :: (b, y) :: m => decide (a < b) && FMap.wf ((b, y) :: m)

/-- The table with a value changed by a function of it. -/
def FMap.upd {α : Type} (m : FMap α) (k : Nat) (d : α) (f : α → α) : FMap α :=
  FMap.set m k (f (FMap.getD m k d))

/-- The keys of a table. -/
def FMap.keys {α : Type} (m : FMap α) : List Nat := m.map (·.1)

/-! ### Bytes -/

/-- The `n` little-endian bytes of a number (R10). -/
def leBytes : Nat → Nat → List Byte
  | 0, _ => []
  | n + 1, x => BitVec.ofNat 8 x :: leBytes n (x / 256)

/-- The number that little-endian bytes spell. -/
def leNat : List Byte → Nat
  | [] => 0
  | b :: bs => b.toNat + 256 * leNat bs

/-- `n` bytes of a string from an offset, zero beyond its end. -/
def slice (bs : List Byte) (off n : Nat) : List Byte :=
  (List.range n).map fun i => (bs[off + i]?).getD 0

/-- The number in `n` bytes at an offset of a string. -/
def fieldAt (bs : List Byte) (off n : Nat) : Nat := leNat (slice bs off n)

/-- `n` zero bytes. -/
def zeros (n : Nat) : List Byte := List.replicate n 0

/-! ### Fields and signs -/

/-- The signed value of the low `w` bits of a number. -/
def signed (w x : Nat) : Int :=
  let y := x % 2 ^ w
  if y < 2 ^ (w - 1) then (y : Int) else (y : Int) - 2 ^ w

/-- The `w`-bit two's-complement encoding of an integer. -/
def unsigned (w : Nat) (x : Int) : Nat := (x % (2 ^ w : Int)).toNat

/-- A word with bits `[hi:lo]` replaced. -/
def setBits (x hi lo v : Nat) : Nat :=
  x - bits x hi lo * 2 ^ lo + v % 2 ^ (hi + 1 - lo) * 2 ^ lo

/-- The positions of the set bits of a number below `n`. -/
def bitList (x n : Nat) : List Nat := (List.range n).filter fun i => bit x i

/-- The number whose set bits are the listed positions. -/
def maskOf (l : List Nat) : Nat := l.foldl (fun a i => a ||| 2 ^ i) 0

/-- The number rounded up to a multiple. -/
def roundUp (x m : Nat) : Nat := (x + m - 1) / m * m

end Sys2Proof.Machine
end

