-- ==== Sys2Proof/Machine/Regs.lean ====
section
/-! DEFINITION. The device address map (Tables 1.4 and 1.5) and the register map: for each register its
width, its writable fields by access type (Table 0.7) and its reset value. -/

namespace Sys2Proof.Machine

/-! ### Addresses of registers (R25) -/

/-- Where the registers of sheaf `s` begin. -/
def sheafWin (s off : Nat) : Nat := 0x30000000000 + s * 0x200000000 + off

/-- CORE_, ARR_ and CHN_ registers of core `c`. -/
def coreReg (c off : Nat) : Nat := sheafWin (c / 128) (c % 128 * 0x10000 + off)

/-- VLT_ and ROW_ registers of vault `v`. -/
def vltReg (v off : Nat) : Nat := sheafWin (v / 128) (0x800000 + v % 128 * 0x10000 + off)

/-- RNG_ registers of sheaf `s`. -/
def rngReg (s off : Nat) : Nat := sheafWin s (0x1000000 + off)

/-- The SRAM error log of core `c` (R222). -/
def slogReg (c off : Nat) : Nat := rngReg (c / 128) (0x8000 + c % 128 * 0x80 + off)

/-- LNK_ registers of link `l` (R338). -/
def lnkReg (l off : Nat) : Nat := sheafWin (l / 4) (0x1010000 + l % 4 * 0x10000 + off)

/-- STB_ registers of sheaf `s`: offset from STB_STATUS. -/
def stbReg (s off : Nat) : Nat := sheafWin s (0x1018000 + off)

/-- PGU_ registers of sheaf `s`. -/
def pguReg (s off : Nat) : Nat := sheafWin s (0x1050000 + off)

/-- WNW_STATUS of sheaf `s`. -/
def wnwReg (s : Nat) : Nat := sheafWin s 0x1060000

/-- PWR_ and DOM_ registers of sheaf `s`. -/
def pwrReg (s off : Nat) : Nat := sheafWin s (0x1070000 + off)

/-- THM_ and WEAR_ registers of sheaf `s`. -/
def thmReg (s off : Nat) : Nat := sheafWin s (0x1080000 + off)

/-- PMC_ registers and counters of sheaf `s` (R422). -/
def pmcReg (s off : Nat) : Nat := sheafWin s (0x1090000 + off)

/-- Registers of the hub blocks, sheaf 0 only: offset from 0x300_0110_0000. -/
def hubReg (off : Nat) : Nat := sheafWin 0 (0x1100000 + off)

/-- Fixed or programmable counter `n` of core `c` (Table 16.1). -/
def coreCtr (c n : Nat) : Nat := pmcReg (c / 128) (0x1000 + 0x80 * (c % 128) + 8 * n)

/-- Counter `n` of vault `v`. -/
def vltCtr (v n : Nat) : Nat := pmcReg (v / 128) (0x6000 + 0x40 * (v % 128) + 8 * n)

/-- Counter `n` of a power zone. -/
def zoneCtr (s n : Nat) : Nat := pmcReg s (0x8000 + 8 * n)

/-- Counter `n` of link `l`. -/
def lnkCtr (l n : Nat) : Nat := lnkReg l (0x100 + 8 * n)

/-- Counter `n` of the ring stop at position `p` of sheaf `s` (Table 9.7). -/
def stopCtr (s p n : Nat) : Nat := rngReg s (0x1000 + 0x20 * p + 8 * n)

/-! ### Access types and resets -/

/-- One register: bytes wide, masks of its writable fields by access type, reset value. -/
structure RegSpec where
  width : Nat
  rw : Nat
  w1c : Nat
  w1s : Nat
  wo : Nat
  reset : Nat
  deriving DecidableEq, Repr

/-- A register whose fields are all RO. -/
def RegSpec.ro (reset : Nat := 0) : RegSpec := ⟨8, 0, 0, 0, 0, reset⟩

/-- A register with RW fields. -/
def RegSpec.rwr (mask : Nat) (reset : Nat := 0) : RegSpec := ⟨8, mask, 0, 0, 0, reset⟩

/-- A register with W1C flags. -/
def RegSpec.flags (mask : Nat) (reset : Nat := 0) : RegSpec := ⟨8, 0, mask, 0, 0, reset⟩

/-- A counter (Table 2.14): COUNT is RO, OVF is W1C. -/
def RegSpec.counter : RegSpec := .flags (2 ^ 48)

/-- CORE_ block (Table 2.6) of core `c`. -/
def coreSpec (c off : Nat) : Option RegSpec :=
  match off with
  | 0x0000 => some (.ro c)
  | 0x0008 => some .ro
  | 0x0100 => some .ro
  | 0x0108 | 0x0110 | 0x0118 | 0x0120 => some (.rwr (2 ^ 64 - 1) (2 ^ 64 - 1))
  | 0x0128 => some (.ro 16)
  | 0x0200 => some (.flags 0x700)
  | 0x0208 => some .ro
  | 0x0210 | 0x0218 | 0x0220 | 0x0228 => some .counter
  | _ => none

/-- VLT_ and ROW_ block (Tables 7.5 and 8.7). -/
def vltSpec (off : Nat) : Option RegSpec :=
  match off with
  | 0x0000 => some (.flags 0x60)
  | 0x0008 => some .ro
  | 0x0010 | 0x0018 | 0x0020 => some .counter
  | 0x0028 => some .ro
  | 0x0030 => some (.rwr 0x1FF 24)
  | 0x0038 => some .ro
  | 0x1000 => some .ro
  | 0x1008 => some (.ro 16)
  | 0x1010 | 0x1018 => some .counter
  | 0x1020 | 0x1028 => some .ro
  | _ =>
    if 0x100 ≤ off && off < 0x180 && off % 8 == 0 then some (.flags (2 ^ 63))
    else if 0x1040 ≤ off && off < 0x1080 && off % 8 == 0 then some .ro
    else if 0x1400 ≤ off && off < 0x1800 && off % 4 == 0 then some { RegSpec.ro with width := 4 }
    else none

/-- RNG_ block (Tables 9.7 and 7.12). -/
def rngSpec (off : Nat) : Option RegSpec :=
  match off with
  | 0x0000 => some .ro
  | 0x0008 => some (.flags 0x7)
  | 0x0010 => some (.rwr 0xFFFFFF 0x010101)
  | 0x0018 => some (.rwr (0xFFFFFFFF * 2 ^ 32 + 0x7FF) (50000 * 2 ^ 32 + 0x420))
  | 0x0020 | 0x0028 | 0x0030 | 0x0038 => some .counter
  | 0x0100 | 0x0140 => some (.ro 0xFF)
  | 0x0108 | 0x0148 => some .counter
  | _ =>
    if 0x1000 ≤ off && off < 0x1000 + 0x20 * 137 && off % 8 == 0 then some .counter
    else if 0x8000 ≤ off && off < 0xC000 then
      match off % 0x80 with
      | 0x00 => some (.flags 0x3)
      | 0x08 | 0x10 | 0x18 => some .counter
      | o => if 0x40 ≤ o && o % 8 == 0 then some (.flags (2 ^ 63)) else none
    else none

/-- LNK_ block, link counters, and STB_ registers in local link 0 (Tables 11.8 and 16.1). -/
def lnkSpec (j off : Nat) : Option RegSpec :=
  if off == 0x0000 then some (.flags (2 ^ 24) 0xF00)
  else if off == 0x0008 || off == 0x0010 || off == 0x0018 then some .counter
  else if 0x100 ≤ off && off < 0x140 && off % 8 == 0 then some .counter
  else if j == 0 && off == 0x8000 then some (.flags 0x3)
  else if j == 0 && off == 0x8008 then some .ro
  else if j == 0 && off == 0x8010 then some (.ro 100)
  else if j == 0 && 0x8018 ≤ off && off ≤ 0x8038 && off % 8 == 0 then some .counter
  else none

/-- PWR_ and DOM_ block of sheaf `s` (Tables 13.7 and 14.8). -/
def pwrSpec (s off : Nat) : Option RegSpec :=
  match off with
  | 0x0000 => some (.flags 0xF00)
  | 0x0008 => some .ro
  | 0x0010 => some (.ro (50 * 2 ^ 16 + 25))
  | 0x0018 => some .ro
  | 0x0020 | 0x0028 | 0x0030 | 0x0038 => some .counter
  | 0x0100 =>
    if s == 0 then some (.ro (25 * 2 ^ 48 + 1200 * 2 ^ 32 + 2000 * 2 ^ 16 + 4000)) else none
  | 0x0108 => if s == 0 then some (.ro (4000 * 2 ^ 32)) else none
  | 0x0800 => some (.flags 0x3 0xAA0000)
  | 0x0808 => some (.ro (62 * 2 ^ 40))
  | 0x0810 | 0x0818 => some .counter
  | 0x0820 => some .ro
  | 0x0880 | 0x0888 => some (.flags (2 ^ 64 - 1))
  | _ =>
    if off % 8 != 0 then none
    else if 0x40 ≤ off && off < 0x80 then some (.ro 0x7777777777777777)
    else if 0x840 ≤ off && off < 0x880 then some (.ro 0xAAAAAAAAAAAAAAAA)
    else if 0x900 ≤ off && off < 0xA00 then some .ro
    else none

/-- THM_ and WEAR_ block of sheaf `s` (Table 15.9). -/
def thmSpec (s off : Nat) : Option RegSpec :=
  match off with
  | 0x0000 => some (.flags (if s == 0 then 0x38 else 0x08))
  | 0x0008 => some .ro
  | 0x0010 => some (.ro 0xFFFF)
  | 0x0018 | 0x0020 => some .counter
  | 0x0100 => if s == 0 then some (.rwr 0x3FF (3 * 2 ^ 8 + 95)) else none
  | 0x0108 | 0x0110 => if s == 0 then some .ro else none
  | 0x0118 | 0x0120 => if s == 0 then some .counter else none
  | 0x8000 => some .ro
  | _ => none

/-- PMC_ block of sheaf `s` (Tables 16.1 and 16.9). -/
def pmcSpec (s off : Nat) : Option RegSpec :=
  if off < 0x1000 then
    if s != 0 then none
    else match off with
      | 0x00 => some .ro
      | 0x08 => some (.flags 0x6)
      | 0x10 | 0x18 => some .counter
      | 0x20 | 0x28 | 0x30 | 0x40 => some .ro
      | 0x38 => some (.rwr 0xFFFF)
      | _ => none
  else if off % 8 != 0 then none
  else if off < 0x5000 then some .counter
  else if off < 0x5800 then some .ro
  else if 0x6000 ≤ off && off < 0x8040 then some .counter
  else none

/-- The hub blocks of sheaf 0: HUB_, PAIL_, WQ_, GRD_, TIM_, LIC_, by offset from 0x300_0110_0000. -/
def hubSpec (off : Nat) : Option RegSpec :=
  match off with
  | 0x00040 => some (.rwr (2 ^ 64 - 2 ^ 12))
  | 0x00048 => some (.rwr 0x77)
  | 0x00050 => some (.rwr 0x1FF)
  | 0x00058 => some (.rwr 0xFFF)
  | 0x00060 => some .counter
  | 0x00068 => some .ro
  | 0x00070 => some (.flags 0x1)
  | 0x00078 => some .counter
  | 0x10000 => some (.rwr (2 ^ 64 - 2) 1)
  | 0x20000 => some (.flags 0x3)
  | 0x20008 | 0x20010 => some .counter
  | 0x20018 => some .ro
  | 0x20020 => some (.rwr 0xFFFFFF 0x010101)
  | 0x20100 | 0x20108 | 0x20110 | 0x20118 => some .ro
  | 0x40000 => some (.ro 1)
  | 0x40008 => some (.ro 2)
  | 0x40010 => some (.flags 0x300)
  | 0x40018 | 0x40040 => some .counter
  | 0x40020 | 0x40028 | 0x40030 => some .ro
  | 0x40038 => some (.rwr 0xFFFF)
  | 0x50000 => some (.ro (2 ^ 48 - 1))
  | 0x50008 | 0x50010 | 0x50018 | 0x50020 => some .ro
  | 0x50028 | 0x50030 | 0x50038 => some .counter
  | 0x60000 => some .ro
  | _ =>
    if 0x41000 ≤ off && off < 0x45000 then
      match off % 0x40 with
      | 0x00 => some (.ro 0x080400)
      | 0x08 => some (.ro 0x4080000040800000)
      | 0x10 | 0x18 | 0x20 | 0x28 => some .ro
      | 0x30 => some (.ro 0x2)
      | _ => none
    else none

/-- The register of sheaf `s` at an offset of its window (Table 1.5), if one exists there. -/
def winSpec (s off : Nat) : Option RegSpec :=
  if off < 0x800000 then coreSpec (s * 128 + off / 0x10000) (off % 0x10000)
  else if off < 0x1000000 then vltSpec (off % 0x10000)
  else if off < 0x1010000 then rngSpec (off % 0x10000)
  else if off < 0x1050000 then lnkSpec ((off - 0x1010000) / 0x10000) (off % 0x10000)
  else if off < 0x1060000 then
    match off % 0x10000 with
    | 0x00 => some (.rwr (0x7FFFFF * 2 ^ 32 + 0x7FFFFFF))
    | 0x08 => some ⟨8, 0, 0, 0, 1, 0⟩
    | 0x10 => some (.ro 0x4)
    | _ => none
  else if off < 0x1070000 then if off == 0x1060000 then some .ro else none
  else if off < 0x1080000 then pwrSpec s (off % 0x10000)
  else if off < 0x1090000 then thmSpec s (off % 0x10000)
  else if off < 0x10A0000 then pmcSpec s (off % 0x10000)
  else if s == 0 && 0x1100000 ≤ off && off < 0x1200000 then hubSpec (off - 0x1100000)
  else none

/-- The register at a device address, if one exists there. -/
def regSpec (addr : Nat) : Option RegSpec :=
  if 0x30000000000 ≤ addr && addr < 0x31000000000 then
    winSpec ((addr - 0x30000000000) / 0x200000000) ((addr - 0x30000000000) % 0x200000000)
  else none

/-- The value a register has after reset. -/
def regReset (addr : Nat) : Nat := match regSpec addr with
  | some r => r.reset % 2 ^ 64
  | none => 0

end Sys2Proof.Machine
end

