-- ==== Sys2Proof/Machine/Ops.lean ====
section
/-! DEFINITION. The named operations that the meanings of the commands share: when a command happens,
registers and counters, memory and its code words, the address map, packets, interrupts, events and records. -/

namespace Sys2Proof.Machine

/-! ### When a command happens -/

/-- Clocks run: PWROK is high and no hardware trip stopped them (R359, R410). -/
def powered (s : State) : Bool := s.boot.pwrok && !s.boot.tripped

/-- A command that happens when its condition holds, and leaves the state unchanged otherwise. -/
def act (s : State) (c : Bool) (t : State) : Out State := .next (if powered s && c then t else s)

/-- The answer of an effect on a state that may meet an undefined case, or may have to wait. -/
def toOut (s : State) (e : Except Halt State) : Out State :=
  match e with
  | .ok t => .next t
  | .error (.undefinedCase n) => .fault (.undefinedCase n)
  | .error .wait => .next s

/-- As `act`, for an effect that may meet an undefined case (Table 18.7). -/
def actE (s : State) (c : Bool) (e : Except Halt State) : Out State :=
  if powered s && c then toOut s e else .next s

/-- The effect when a condition holds, else the undefined case named. -/
def orUndef (c : Bool) (n : Nat) (e : Except Halt State) : Except Halt State :=
  if c then e else .error (.undefinedCase n)

/-- A free value has been taken. -/
def bump (s : State) : State := { s with free := s.free + 1 }

/-! ### Registers (R11) and counters (R419 to R421) -/

/-- The stored value of a register. -/
def regGet (s : State) (a : Nat) : Nat :=
  match s.regs.find a with
  | some v => v.toNat
  | none => regReset a

/-- The state with a register changed; a register at its reset value is not listed. -/
def regSet (s : State) (a v : Nat) : State :=
  { s with regs := if v % 2 ^ 64 = regReset a then s.regs.drop a else s.regs.set a (BitVec.ofNat 64 v) }

/-- A field `[hi:lo]` of a register. -/
def regFld (s : State) (a hi lo : Nat) : Nat := bits (regGet s a) hi lo

/-- The state with a field `[hi:lo]` of a register changed. -/
def regSetFld (s : State) (a hi lo v : Nat) : State := regSet s a (setBits (regGet s a) hi lo v)

/-- The state with a flag of a register set or cleared. -/
def regFlag (s : State) (a i : Nat) (b : Bool) : State := regSetFld s a i i (b2n b)

/-- The value of a counter after it has advanced by `n`: COUNT wraps and the wrap sets OVF (R419). -/
def counterAdd (v n : Nat) : Nat :=
  let c := v % 2 ^ 48 + n
  c % 2 ^ 48 + (if c ≥ 2 ^ 48 || bit v 48 then 2 ^ 48 else 0)

/-- A counter advances by `n`. -/
def count (s : State) (a n : Nat) : State := regSet s a (counterAdd (regGet s a) n)

/-- A sticky flag is set by hardware and its event counter advances (R421). -/
def event (s : State) (flag i ctr : Nat) : State := count (regFlag s flag i true) ctr 1

/-- A register write (R11): RW fields take the value, W1C bits written 1 clear, and W1S bits written 1 set; a W1C bit
that hardware has set in the same cycle (`hwSet`) stays set (R420). -/
def writeValue (r : RegSpec) (old v hwSet : Nat) : Nat :=
  let rw := (old - (old &&& r.rw)) + (v &&& r.rw)
  let c := rw - (rw &&& (r.w1c &&& v))
  (c ||| (v &&& r.w1s)) ||| (old &&& (hwSet &&& r.w1c))

/-- A core event of Table 16.2 happens `n` times: each programmable counter that selects it advances (R423). -/
def coreEvent (s : State) (c code n : Nat) : State :=
  let lo := regGet s (pmcReg (c / 128) (0x5000 + 0x10 * (c % 128)))
  let hi := regGet s (pmcReg (c / 128) (0x5008 + 0x10 * (c % 128)))
  (List.range 12).foldl (fun s k =>
    let sel := if k < 8 then bits lo (8 * k + 7) (8 * k) else bits hi (8 * (k - 8) + 7) (8 * (k - 8))
    if sel = code ∧ code ≠ 0 then count s (coreCtr c (k + 4)) n else s) s

/-! ### Parts of the state by number -/

def coreAt (s : State) (c : Nat) : CoreSt := s.cores.getD c .reset
def setCore (s : State) (c : Nat) (x : CoreSt) : State := { s with cores := s.cores.set c x }
def updCore (s : State) (c : Nat) (f : CoreSt → CoreSt) : State := setCore s c (f (coreAt s c))

def vaultAt (s : State) (v : Nat) : VaultSt := s.vaults.getD v .reset
def setVault (s : State) (v : Nat) (x : VaultSt) : State := { s with vaults := s.vaults.set v x }
def updVault (s : State) (v : Nat) (f : VaultSt → VaultSt) : State := setVault s v (f (vaultAt s v))
def updRow (s : State) (v : Nat) (f : RowUnit → RowUnit) : State :=
  updVault s v fun x => { x with row := f x.row }

def queueAt (s : State) (q : Nat) : Queue := s.wq.queues.getD q .reset
def setQueue (s : State) (q : Nat) (x : Queue) : State :=
  { s with wq := { s.wq with queues := s.wq.queues.set q x } }
def updQueue (s : State) (q : Nat) (f : Queue → Queue) : State := setQueue s q (f (queueAt s q))

def unitAt (s : State) (h : Nat) : PageUnit := s.pages.units.getD h .reset
def setUnit (s : State) (h : Nat) (x : PageUnit) : State :=
  { s with pages := { s.pages with units := s.pages.units.set h x } }

def slotAt (s : State) (n : Nat) : SlotSt := s.guard.slots.getD n .reset
def setSlot (s : State) (n : Nat) (x : SlotSt) : State :=
  { s with guard := { s.guard with slots := s.guard.slots.set n x } }

def linkAt (s : State) (l : Nat) : LinkSt := s.links.links.getD l .reset
def setLink (s : State) (l : Nat) (x : LinkSt) : State :=
  { s with links := { s.links with links := s.links.links.set l x } }

def sheafPowerAt (s : State) (h : Nat) : SheafPower := s.power.sheaves.getD h .reset
def setSheafPower (s : State) (h : Nat) (x : SheafPower) : State :=
  { s with power := { s.power with sheaves := s.power.sheaves.set h x } }

def govAt (s : State) (c : Nat) : GovCore := s.power.gov.getD c .reset
def setGov (s : State) (c : Nat) (x : GovCore) : State :=
  { s with power := { s.power with gov := s.power.gov.set c x } }

/-- Key of a power domain. -/
def domKey (d : Dom) : Nat := match d.kind with
  | .core => d.num
  | .vault => 1024 + d.num
  | .link => 2048 + d.num
  | .fabric => 2080 + d.num
  | .time => 2088
  | .host => 2089

def domAt (s : State) (d : Dom) : DomRec := s.doms.doms.getD (domKey d) (.reset d.kind)
def setDom (s : State) (d : Dom) (x : DomRec) : State :=
  { s with doms := { s.doms with doms := s.doms.doms.set (domKey d) x } }
def updDom (s : State) (d : Dom) (f : DomRec → DomRec) : State := setDom s d (f (domAt s d))

/-- A domain that is On and not in transition. -/
def domOn (s : State) (d : Dom) : Bool := (domAt s d).st == .on && (domAt s d).trans == none

/-- A core's banks leave the keep regulator as its exit begins (R398). -/
def releaseBanks (s : State) (d : Dom) : State :=
  if d.kind = .core then
    { s with doms := { s.doms with retained := s.doms.retained.filter fun e => e.1 != d.num } }
  else s

/-- An exit of a vault from self-refresh is counted (Table 16.3). -/
def countExit (s : State) (d : Dom) : State :=
  let x := domAt s d
  if d.kind = .vault ∧ (x.st = .retention ∨ x.trans = some .retention) then count s (vltCtr d.num 7) 1 else s

/-- A domain returns to On at once: what an access that waits for it leaves behind (R393, R401). -/
def wakeDom (s : State) (d : Dom) : State :=
  if domOn s d then s
  else updDom (releaseBanks (countExit s d) d) d fun x =>
    { x with st := .on, trans := none, heldReq := none, sleep := .none, level := false }

/-! ### Floor plan -/

/-- A core is enabled (R15). -/
def coreEnabled (s : State) (c : Nat) : Bool := decide (c < 1024) && !s.boot.disabledCores.contains c

/-- A vault is in service (R15). -/
def vaultInService (s : State) (v : Nat) : Bool := decide (v < 1024) && !s.boot.outVaults.contains v

/-- Enabled local cores of a sheaf, ascending. -/
def enabledLocal (s : State) (h : Nat) : List Nat :=
  (List.range 128).filter fun i => coreEnabled s (h * 128 + i)

/-- Enabled cores, ascending. -/
def enabledCores (s : State) : List Nat := (List.range 1024).filter fun c => coreEnabled s c

/-- In-service vaults, ascending. -/
def vaultsInService (s : State) : List Nat := (List.range 1024).filter fun v => vaultInService s v

/-- Grade floor of Table 0.4. -/
def gradeFloor : Nat := match Config.grade with
  | 0 => 1008
  | 1 => 960
  | _ => 896

/-- HUB_STATE.BELOW_GRADE (R444). -/
def belowGrade (s : State) : Bool := decide (1024 - s.boot.disabledCores.length < gradeFloor)

/-- Rotation map of a sheaf: entry n is the physical local core of logical n (R446). -/
def rotMap (s : State) (h : Nat) : List Nat :=
  match s.job.rotmap.find h with
  | some m => m.filter fun i => coreEnabled s (h * 128 + i)
  | none => enabledLocal s h

/-- Physical core of a logical core of the job, if any (R284). -/
def physOf (s : State) (n : Nat) : Option Nat := (rotMap s (n / 128))[n % 128]?.map (n / 128 * 128 + ·)

/-- Logical core of a physical core, if any. -/
def logicalOf (s : State) (c : Nat) : Option Nat :=
  ((rotMap s (c / 128)).idxOf? (c % 128)).map (c / 128 * 128 + ·)

/-- Logical core n is in the class-0 reserve (R283). -/
def isReserve (s : State) (n : Nat) : Bool :=
  s.job.isOpen && decide (n % 128 < min s.job.c0Cores (rotMap s (n / 128)).length)

/-- Physical core c is in the class-0 reserve. -/
def reserveCore (s : State) (c : Nat) : Bool := match logicalOf s c with
  | some n => isReserve s n
  | none => false

/-- Logical cores that a target set names in the open job, ascending (R284). -/
def targetCores (s : State) (set : Nat) : List Nat :=
  (bitList set 1024).filter fun n => (physOf s n).isSome

/-- A licence is in effect: bit 0 LINKS_FULL, 1 ROWPROC, 2 TILLER, 3 CAP_HIGH. -/
def licensed (s : State) (i : Nat) : Bool := bit s.boot.effective i

/-! ### Stops (Tables 9.1 and 9.2) -/

/-- Ring position of a local core. -/
def corePos (i : Nat) : Nat :=
  9 + 16 * (i / 16) + (if i / 16 % 2 = 0 then i % 16 else 15 - i % 16)

/-- Stop ID: sheaf in [10:8], position in [7:0] (R247). -/
def stopId (h p : Nat) : Nat := h * 256 + p

/-- The stop of a core and of the vault beneath it. -/
def coreStop (c : Nat) : Nat := stopId (c / 128) (corePos (c % 128))

/-- The core at a stop, if it is a core stop. -/
def stopCore (stop : Nat) : Option Nat :=
  let p := stop % 256
  if 9 ≤ p ∧ p < 137 then
    let r := (p - 9) / 16
    let x := (p - 9) % 16
    some (stop / 256 * 128 + r * 16 + (if r % 2 = 0 then x else 15 - x))
  else none

/-! ### The address map (R18 to R28) -/

/-- What a device address names. -/
inductive Loc where
  | vault (v off : Nat)
  | sram (c off : Nat)
  | reg (addr : Nat)
  | host (bus : Nat)
  | remote (dev addr : Nat)
  /-- unpopulated, or undefined: the case of Table 18.7 -/
  | none (case : Nat)
  deriving DecidableEq, Repr

/-- An offset of a vault's direct window. -/
def vaultLoc (s : State) (v off : Nat) : Loc :=
  if vaultInService s v && decide (off < 0x1E000000) then .vault v off else .none 2

/-- A local address (Table 1.4). -/
def localLoc (s : State) (a : Nat) : Loc :=
  if a < 0x10000000000 then vaultLoc s (a / 2 ^ 30) (a % 2 ^ 30)
  else if a < 0x18000000000 then
    let x := a - 0x10000000000
    let n := s.boot.stripe.length
    let g := x / 4096
    if n = 0 ∨ x ≥ n * 0x1E000000 then .none 2
    else vaultLoc s ((s.boot.stripe[g % n]?).getD 0) (g / n * 4096 + x % 4096)
  else if 0x20000000000 ≤ a ∧ a < 0x20400000000 then
    let c := (a - 0x20000000000) / 2 ^ 24
    let off := a % 2 ^ 24
    if coreEnabled s c && decide (off < 0x800000) then .sram c off else .none 2
  else if 0x30000000000 ≤ a ∧ a < 0x31000000000 then .reg a
  else if 0x40000000000 ≤ a ∧ a < 0x80000000000 then
    let bus := regGet s (hubReg 0x40) / 4096 * 4096 + (a - 0x40000000000)
    if bus < 2 ^ 64 then .host bus else .none 4
  else .none 2

/-- This device has the ID (R28). -/
def ownId (s : State) (dev : Nat) : Bool := !s.links.cfg.unassigned && s.links.cfg.devid == dev

/-- A device address (R18, R28). -/
def resolve (s : State) (a : Nat) : Loc :=
  if bit a 55 then
    let dev := bits a 54 43
    if ownId s dev then localLoc s (a % 2 ^ 43)
    else if 0x30000000000 ≤ a % 2 ^ 43 then .none 5 else .remote dev (a % 2 ^ 43)
  else if a < 2 ^ 43 then localLoc s a else .none 2

/-! ### Memory -/

/-- Memory key of a byte of a vault. -/
def vaultKey (v off : Nat) : Nat := v * 2 ^ 30 + off
/-- Memory key of a byte of a core's SRAM. -/
def sramKey (c off : Nat) : Nat := 0x20000000000 + c * 2 ^ 24 + off
/-- Memory key of a byte of host memory. -/
def hostKey (bus : Nat) : Nat := 2 ^ 64 + bus

/-- A byte of memory; an unlisted byte reads as a free value (R62, R206). -/
def byteAt (s : State) (k : Nat) : Byte := (FMap.find s.mem k).getD (Config.freeByte s.free k)

/-- Bytes of memory from a key. -/
def bytesAt (s : State) (k n : Nat) : List Byte := (List.range n).map fun i => byteAt s (k + i)

/-- Memory with bytes stored from a key. -/
def storeBytes : List Host.Cell → Nat → List Byte → List Host.Cell
  | m, _, [] => m
  | m, k, b :: bs => storeBytes (FMap.set m k b) (k + 1) bs

/-- Memory with `n` bytes from a key undefined. -/
def eraseBytes (m : List Host.Cell) (k n : Nat) : List Host.Cell :=
  m.filter fun e => !(decide (k ≤ e.1) && decide (e.1 < k + n))

/-- The marks with the words of a range cleared; `g` is the code word size. -/
def clearMarks (m : FMap Mark) (g k n : Nat) : FMap Mark :=
  m.filter fun e => !(decide (k / g * g ≤ e.1) && decide (e.1 < k + n))

/-- A write of bytes with code words of `g` bytes: whole words are stored, a word covered in part becomes
undefined (R204), and the words written lose their marks (R214). -/
def writeMem (s : State) (g k : Nat) (bs : List Byte) : State :=
  let n := bs.length
  if n = 0 then s
  else
    let lo := (k + g - 1) / g * g
    let hi := (k + n) / g * g
    let m := if k % g = 0 then s.mem else eraseBytes s.mem (k / g * g) g
    let m := if (k + n) % g = 0 then m else eraseBytes m hi g
    { s with
      mem := storeBytes m lo ((bs.drop (lo - k)).take (hi - lo))
      marks := clearMarks s.marks g k n }

/-- `n` bytes from a key become undefined. -/
def undefMem (s : State) (g k n : Nat) : State :=
  { s with mem := eraseBytes s.mem k n, marks := clearMarks s.marks g k n }

/-! ### Interrupts and events -/

/-- A write to host memory that the device sends: discarded and counted while Bus Master Enable is 0 (R340). -/
def hostWrite (s : State) (bus : Nat) (bs : List Byte) : State :=
  if s.host.busMaster then
    { s with mem := storeBytes s.mem (hostKey bus) bs, host := { s.host with writes := (bus, false) :: s.host.writes } }
  else count s (hubReg 0x60) 1

/-- The host writes that led from `s` to `t` are data writes of DMH or COPY: they carry Relaxed Ordering while it is enabled in
Device Control (R340). -/
def relaxWrites (s t : State) : State :=
  let n := t.host.writes.length - s.host.writes.length
  { t with host := { t.host with
    writes := (t.host.writes.take n).map (fun w => (w.1, t.host.relaxedOrdering)) ++ t.host.writes.drop n } }

/-- An MSI-X message (R346): none while MSI-X is disabled; a masked vector sets its pending bit. -/
def msix (s : State) (vec : Nat) : State :=
  if !s.host.msixEnable then s
  else if !s.host.unmasked.contains vec then
    { s with host := { s.host with
      pendingBits := if s.host.pendingBits.contains vec then s.host.pendingBits
                     else vec :: s.host.pendingBits } }
  else if s.host.busMaster then { s with host := { s.host with sent := s.host.sent ++ [vec] } }
  else count s (hubReg 0x60) 1

/-- A device event: the vector of HUB_EVT_VEC while EN is set (R346). -/
def devEvent (s : State) : State :=
  let v := regGet s (hubReg 0x58)
  if bit v 11 then msix s (bits v 10 0) else s

/-- A PLDM event is queued in the 64-entry buffer and ALERT_N falls (R348, R432). -/
def pldmEvent (s : State) (e : PldmEvt) : State :=
  let full := s.board.events.length ≥ 64
  { s with board := { s.board with
    alert := true
    events := (if full then s.board.events.drop 1 else s.board.events) ++ [e]
    lost := s.board.lost + (if full then 1 else 0) } }

/-- State of a link as PLDM sensor 0x0040 + n (Table 16.8): off, training, up, up narrow. -/
def linkState (s : State) (l : Nat) : Nat :=
  let r := regGet s (lnkReg l 0)
  if (domAt s ⟨.link, l⟩).st == .off then 0
  else if bit r 1 then (if [0, 3].contains (bits r 11 8) then 2 else 3)
  else if bit r 0 then 1 else 0

/-- A link is in service while some lane of it is not marked bad. -/
def linkInService (s : State) (l : Nat) : Bool := bits (regGet s (lnkReg l 0)) 23 16 != 0xFF

/-- A change of a link's state is an event of its sensor (R432). -/
def noteLink (old s : State) (l : Nat) : State :=
  if linkState old l = linkState s l then s else pldmEvent s (.sensor (0x40 + l) (linkState s l))

/-- The code of a device state (Table 10.3). -/
def devCode : DevState → Nat
  | .boot => 0
  | .configReady => 1
  | .ready => 2
  | .job => 3
  | .faulted => 4
  | .safe => 5

/-- A change of the device state, with its event and its sensor (R346, R432). -/
def setDev (s : State) (d : DevState) : State :=
  if s.boot.dev = d then s
  else
    pldmEvent (devEvent { s with boot := { s.boot with dev := d } }) (.sensor 0x21 (devCode d))

/-- The code of a time state (Table 11.9). -/
def timeCode : TimeSt → Nat
  | .unset => 0
  | .freerun => 1
  | .locked => 2
  | .holdover => 3

/-- DTIME, whole ns. -/
def nowNs (s : State) : Nat := s.time.dtime / 2 ^ 16

/-- HUB_BOOT.BOOTS. -/
def boots (s : State) : Nat := s.flash.boots

/-! ### Fault records (R461, R462) -/

/-- The flash has taken 64 records of this boot in the last second: a further one is VOLATILE. -/
def flashBusy (s : State) : Bool :=
  decide (64 ≤ (s.fault.flash.filter fun f => decide (f.boots = boots s ∧ nowNs s < f.dtime + 10 ^ 9)).length)

/-- A fault record is formed with the next SEQ, kept in SRAM, copied to flash at up to 64 a second, and announced. -/
def writeRecord (s : State) (kind : Nat) (c : Cause) (secondary : Bool) (primary : Nat) : State :=
  let r : FaultRec :=
    { seq := s.fault.nextSeq, kind, cause := c.code, sub := c.sub, secondary, trip := false,
      volatileRec := flashBusy s, jobid := if s.job.isOpen then s.job.jobid else 0, dtime := nowNs s,
      tstate := timeCode s.time.st, state := devCode s.boot.dev, unit := c.unit, queue := c.queue,
      cmdid := c.cmdid, boots := boots s, addr := c.addr, detail0 := c.detail0,
      primarySeq := if secondary then primary else 0 }
  let rs := s.fault.records ++ [r]
  let fl := if r.volatileRec then s.fault.flash else s.fault.flash ++ [r]
  let s1 := { s with fault := { s.fault with
    records := rs.drop (rs.length - 1024)
    flash := fl.drop (fl.length - 65536)
    nextSeq := s.fault.nextSeq + 1 } }
  pldmEvent (devEvent s1) (.faultRecord kind r.seq)

/-- A record with no queue, command or address (Table 18.3). -/
def noteRecord (s : State) (kind code unit detail : Nat) : State :=
  writeRecord s kind ⟨code, 0, unit, 0, detail, 0xFFFF, 0⟩ false 0

/-- A unit detects a cause of Table 18.1; the hub takes it in JOB_FAULT_QUIESCE. -/
def detect (s : State) (c : Cause) : State :=
  { s with fault := { s.fault with detected := s.fault.detected ++ [c] } }

/-- An uncorrectable error on a requested read: `sub` 0 vault, 1 SRAM, 2 host read, 3 poisoned Stoby reply. -/
def detectUe (s : State) (sub stop addr : Nat) : State :=
  detect s ⟨0x01, sub, stop, addr, 0, 0xFFFF, 0⟩

/-! ### Errors in code words (R210 to R213, R222) -/

/-- Upsets hit stored code words, by memory key of the word; a word that is undefined keeps no mark. -/
def upsetWords (s : State) (l : List (Nat × Upset)) : State :=
  { s with marks := l.foldl (fun m u =>
      match FMap.find m u.1 with
      | some .poison => m
      | some .badCheck => m
      | some (.err e) =>
        let x := (u.2.foldl (fun f b => FMap.set f b.1 (FMap.getD f b.1 0 ^^^ b.2)) e).filter (·.2 ≠ 0)
        if x.isEmpty then FMap.drop m u.1 else FMap.set m u.1 (.err x)
      | none =>
        let x := (u.2.foldl (fun f b => FMap.set f b.1 (FMap.getD f b.1 0 ^^^ b.2)) []).filter (·.2 ≠ 0)
        if x.isEmpty then m else FMap.set m u.1 (.err x)) s.marks }

/-- The first index below `n` that satisfies a test. -/
def firstIdx (n : Nat) (p : Nat → Bool) : Option Nat := (List.range n).find? p

/-- A corrected word enters an error log of `n` entries at `base`: a valid entry that holds it counts, else
the lowest invalid entry takes it, else the overflow flag `ovf` (bit `ob`) is set (R211). `same` compares
the word field and `entry` is a fresh entry. -/
def logCorrected (s : State) (base n : Nat) (same : Nat → Bool) (entry ovf ob octr : Nat) : State :=
  match firstIdx n (fun i => bit (regGet s (base + 8 * i)) 63 && same (regGet s (base + 8 * i))) with
  | some i =>
    let a := base + 8 * i
    regSetFld s a 55 48 (min 255 (regFld s a 55 48 + 1))
  | none =>
    match firstIdx n (fun i => !bit (regGet s (base + 8 * i)) 63) with
    | some i => regSet s (base + 8 * i) entry
    | none => event s ovf ob octr

/-- A row whose correction is logged, or found by scrub, is a weak row of its vault (R211, R414). -/
def noteWeak (s : State) (v off src : Nat) : State :=
  let held (i : Nat) : Bool :=
    let x := regGet s (vltReg v 0x100 + 8 * i)
    bit x 63 && bits x 29 5 == off / 32
  let l := FMap.getD s.wear.weakRows v []
  if (src = 1 ∨ (List.range 16).any held) ∧ !l.contains (off / 2048) then
    { s with wear := { s.wear with weakRows := FMap.set s.wear.weakRows v (off / 2048 :: l) } }
  else s

/-- A vault word at an offset is corrected: counted and logged (R210, R211). -/
def vaultCe (s : State) (v off sym src : Nat) : State :=
  let w := off / 32
  let s := count s (vltReg v 0x10) 1
  noteWeak (logCorrected s (vltReg v 0x100) 16 (fun x => bits x 29 5 == w)
    (2 ^ 63 + src * 2 ^ 61 + 2 ^ 48 + sym * 2 ^ 42 + w * 32) (vltReg v 0) 5 (vltReg v 0x20)) v off src

/-- An SRAM word at an offset is corrected. -/
def sramCe (s : State) (c off bitNo src : Nat) : State :=
  let w := off / 16
  let s := count s (slogReg c 0x08) 1
  logCorrected s (slogReg c 0x40) 8 (fun x => bits x 22 4 == w)
    (2 ^ 63 + src * 2 ^ 61 + 2 ^ 48 + bitNo * 2 ^ 40 + w * 16) (slogReg c 0) 0 (slogReg c 0x18)

/-- Steps 1 and 2 of R213: the error is counted, UE_SEEN set, and the word captured if it was clear. -/
def vaultUeCount (s : State) (v off src : Nat) : State :=
  let seen := bit (regGet s (vltReg v 0)) 6
  let s := event s (vltReg v 0) 6 (vltReg v 0x18)
  if seen then s else regSet s (vltReg v 0x28) (src * 2 ^ 62 + off / 32 * 32)

/-- Byte offset in the vault of row `row` of bank position `bl` (R198). -/
def rowOff (bl row : Nat) : Nat := (row * 80 + bl) * 2048

/-- The poison marker is written into every word of the row that holds an offset (R213, step 3). -/
def poisonRow (s : State) (v off : Nat) : State :=
  let base := vaultKey v (off / 2048 * 2048)
  { s with
    mem := eraseBytes s.mem base 2048
    marks := (List.range 64).foldl (fun m i => m.set (base + 32 * i) Mark.poison)
      (clearMarks s.marks 32 base 2048) }

/-- An uncorrectable word of a vault (R213). -/
def vaultUe (s : State) (v off src : Nat) : State := poisonRow (vaultUeCount s v off src) v off

/-- The device address of a byte of a vault. -/
def vaultAddr (v off : Nat) : Nat := v * 2 ^ 30 + off

/-- One vault code word is read and checked by an agent: is it poisoned, and the state (R210, R212, R213). -/
def checkVaultWord (s : State) (v off src : Nat) : Bool × State :=
  match s.marks.find (vaultKey v off) with
  | none => (false, s)
  | some (.err [e]) => (false, vaultCe s v off e.1 src)
  | some (.err _) => (true, vaultUe s v off src)
  | some .poison => (true, vaultUeCount s v off src)
  | some .badCheck => (true, vaultUe s v off src)

/-- One SRAM code word is read and checked; the data of a double-bit error are undefined (R212). -/
def checkSramWord (s : State) (c off src : Nat) : Bool × State :=
  match s.marks.find (sramKey c off) with
  | none => (false, s)
  | some (.err [e]) => (false, sramCe s c off e.1 src)
  | some _ =>
    (true, event { s with mem := eraseBytes s.mem (sramKey c off) 16 } (slogReg c 0) 1 (slogReg c 0x10))

/-- The starts of the code words of `g` bytes that a range touches. -/
def wordsOf (g off n : Nat) : List Nat :=
  if n = 0 then []
  else (List.range ((off + n - 1) / g - off / g + 1)).map fun i => (off / g + i) * g

/-- The words of a range of a vault are checked: was one uncorrectable (the first), and the state. -/
def checkVault (s : State) (v off n src : Nat) : Option Nat × State :=
  (wordsOf 32 off n).foldl (fun (p : Option Nat × State) w =>
    let r := checkVaultWord p.2 v w src
    (if r.1 && p.1.isNone then some w else p.1, r.2)) (none, s)

/-- The words of a range of an SRAM are checked. -/
def checkSram (s : State) (c off n src : Nat) : Option Nat × State :=
  (wordsOf 16 off n).foldl (fun (p : Option Nat × State) w =>
    let r := checkSramWord p.2 c w src
    (if r.1 && p.1.isNone then some w else p.1, r.2)) (none, s)

/-- A unit of a core writes bytes of its SRAM. A word that it covers in part is read and merged: its error is corrected,
counted and logged, and an uncorrectable one leaves its kept bytes undefined and is a job-fault cause (R62, R204, R210,
R212). -/
def coreStore (s : State) (c off : Nat) (bs : List Byte) : State :=
  let part (w : Nat) : Bool := decide (w < off) || decide (off + bs.length < w + 16)
  let s1 := ((wordsOf 16 off bs.length).filter part).foldl (fun s w =>
    let (ue, s1) := checkSramWord s c w 0
    if ue then detectUe s1 1 (coreStop c) (0x20000000000 + c * 2 ^ 24 + w) else s1) s
  { s1 with
    mem := storeBytes s1.mem (sramKey c off) bs
    marks := clearMarks s1.marks 16 (sramKey c off) bs.length }

/-- A vault is in PROCESSOR mode (R224). -/
def processorMode (s : State) (v : Nat) : Bool := bit (regGet s (vltReg v 0)) 0

/-- Sheaves 0 to 7. -/
def sheaves : List Nat := List.range 8

/-! ### Sheaves and paths (R247, R254, R272) -/

/-- Package index of a sheaf (Table 9.2). -/
def pkgIndex (h : Nat) : Nat := [0, 1, 2, 3, 7, 6, 5, 4].getD h 0

/-- The sheaf of a package index; the order is its own inverse. -/
def pkgSheaf (i : Nat) : Nat := pkgIndex (i % 8)

/-- Bridge crossings forward from one sheaf to another. -/
def fwdHops (a b : Nat) : Nat := (pkgIndex b + 8 - pkgIndex a) % 8

/-- Bridge crossings on the shortest path (Table 1.3a). -/
def crossings (a b : Nat) : Nat := min (fwdHops a b) (8 - fwdHops a b)

/-- The package direction of a packet on ring `k`: the shorter one; at 4 crossings, forward on even rings. -/
def goesForward (k a b : Nat) : Bool :=
  decide (fwdHops a b < 4) || (fwdHops a b == 4 && k % 2 == 0)

/-- Keys of the received lanes that a packet on a ring passes from sheaf to sheaf. -/
def pathLanes (k a b : Nat) (fwd : Bool) : List Nat :=
  if fwd then (List.range (fwdHops a b)).map fun i => 8 * pkgSheaf (pkgIndex a + i + 1) + k
  else (List.range ((8 - fwdHops a b) % 8)).map fun i => 8 * pkgSheaf (pkgIndex a + 7 - i) + 4 + k

/-- Every lane of a path takes new packets. -/
def lanesOpen (s : State) (l : List Nat) : Bool :=
  l.all fun k => (FMap.getD s.rings.lanes k .reset).up && !(FMap.getD s.rings.lanes k .reset).retrain

/-- The ring that a packet of native ring `k` from sheaf `a` is injected on to reach all the sheaves of `bs`, and
whether it goes the other way around the package loop (R272): the first ring in the order k, k + 1, k + 2, k + 3 whose
lanes on the path are all up; `none` when no path exists. -/
def steer (s : State) (k a : Nat) (bs : List Nat) : Option (Nat × Bool) :=
  let order := (List.range 4).map fun i => (k + i) % 4
  let isOpen (r : Nat) (back : Bool) : Bool := bs.all fun b => lanesOpen s (pathLanes r a b (goesForward k a b != back))
  match order.find? fun r => isOpen r false with
  | some r => some (r, false)
  | none => (order.find? fun r => isOpen r true).map fun r => (r, true)

/-! ### Destinations (R253) -/

/-- Hub stop, host gateway, and the page-unit and winnow stop of a sheaf. -/
def hubStop : Nat := stopId 0 2
def hostStop : Nat := stopId 0 3
def pageStop (h : Nat) : Nat := stopId h 4
/-- The stop of a link. -/
def linkStop (l : Nat) : Nat := stopId (l / 4) (5 + l % 4)

/-- The link at a stop, if it is a link stop. -/
def stopLink (stop : Nat) : Option Nat :=
  if 5 ≤ stop % 256 ∧ stop % 256 < 9 then some (stop / 256 * 4 + (stop % 256 - 5)) else none

/-- The stop that owns a register (Table 1.5). -/
def regStop (a : Nat) : Nat :=
  let h := (a - 0x30000000000) / 0x200000000
  let o := (a - 0x30000000000) % 0x200000000
  if o < 0x800000 then coreStop (h * 128 + o / 0x10000)
  else if o < 0x1000000 then coreStop (h * 128 + (o - 0x800000) / 0x10000)
  else if 0x1010000 ≤ o ∧ o < 0x1050000 then linkStop (4 * h + (o - 0x1010000) / 0x10000)
  else if 0x1100000 ≤ o then hubStop
  else pageStop h

/-- Up links of a sheaf, ascending. -/
def upLinks (s : State) (h : Nat) : List Nat :=
  ((List.range 4).map fun j => 4 * h + j).filter fun l => bit (regGet s (lnkReg l 0)) 1

/-- The link through which a packet on ring `k` of sheaf `h` leaves the package (R253); with no link up, the link
of its own ring. -/
def outLink (s : State) (h k : Nat) : Nat :=
  let near := (List.range 5).flatMap fun d => sheaves.filter fun x => crossings h x == d
  if (upLinks s h).contains (4 * h + k) then 4 * h + k
  else ((near.findSome? fun x => (upLinks s x).head?).getD (4 * h + k))

/-- The destination stop of a packet from sheaf `h` on ring `k` for an address. -/
def destStop (s : State) (h k a : Nat) : Option Nat :=
  match resolve s a with
  | .vault v _ => some (coreStop v)
  | .sram c _ => some (coreStop c)
  | .reg r => some (regStop r)
  | .host _ => some hostStop
  | .remote _ _ => some (linkStop (outLink s h k))
  | .none _ => none

/-- The ring of packets from link stops, the host gateway, the hub and the page units (Table 9.6). -/
def addrRing (a : Nat) : Nat := bits a 9 8

/-! ### Packets -/

/-- A packet with no payload and no special fields. -/
def plainPacket (ty : PType) (ring cls src dst txn addr bytes : Nat) : Packet where
  ty := ty
  ring := ring
  cls := cls
  src := src
  entered := src
  dst := dst
  txn := txn
  addr := addr
  bytes := bytes
  merge := false
  ackreq := false
  remote := false
  poison := false
  data := []
  efmt := 0
  rtag := 0
  rcount := 0
  relems := 0
  contrib := 0
  anchor := 0
  rflags := 0
  held := 0
  eflags := 0
  ev := 0
  release := none
  owner := none
  stopmask := []
  sheafmask := []
  report := none
  sheaf := 0
  back := false

/-- A packet waits in a stop's injection queue for its ring. -/
def sendPacket (s : State) (stop : Nat) (p : Packet) : State :=
  { s with rings := { s.rings with
    inject := FMap.upd s.rings.inject (4 * stop + p.ring) [] (· ++ [p]) } }

/-- The first tag of a stop, from `k` on, under which nothing waits; with `fuel` above the number of tags in use there
is one. -/
def freeTag : Nat → FMap OutReq → Nat → Nat → Nat
  | 0, _, _, k => k % 65536
  | fuel + 1, m, stop, k =>
    if (FMap.find m (stop * 65536 + k % 65536)).isNone then k % 65536 else freeTag fuel m stop (k + 1)

/-- A free transaction tag of a source stop, and what waits under it: the 16 bits of TXN, above the stop's ID
(Table 9.4). -/
def openTxn (s : State) (stop : Nat) (o : OutReq) : Nat × State :=
  let k := freeTag (s.rings.out.length + 1) s.rings.out stop s.rings.nextTxn
  (stop * 65536 + k, { s with rings := { s.rings with
    nextTxn := (k + 1) % 65536, out := FMap.set s.rings.out (stop * 65536 + k) o } })

/-- Nothing waits under a transaction tag any more. -/
def closeTxn (s : State) (t : Nat) : State :=
  { s with rings := { s.rings with out := FMap.drop s.rings.out t } }

/-- Flits of a packet (R248, R263). -/
def flitsOf (p : Packet) : Nat :=
  1 + (p.data.length + 63) / 64 + (p.sheafmask.length + 3) / 4

/-- Packets that wait at a stop for a ring. -/
def injectQ (s : State) (stop ring : Nat) : List Packet := FMap.getD s.rings.inject (4 * stop + ring) []

/-- The state with a stop's queue changed; an empty one is not listed. -/
def setInjectQ (s : State) (stop ring : Nat) (l : List Packet) : State :=
  { s with rings := { s.rings with
    inject := if l.isEmpty then FMap.drop s.rings.inject (4 * stop + ring) else FMap.set s.rings.inject (4 * stop + ring) l } }

/-- Flits of a list of packets. -/
def flitSum (l : List Packet) : Nat := (l.map flitsOf).foldl (· + ·) 0

/-- A packet of a vault controller: a reply or an acknowledgement of a vault address (Table 9.6). -/
def fromVault (s : State) (p : Packet) : Bool := match p.ty, resolve s p.addr with
  | .rdResp, .vault _ _ => true
  | .mcResp, .vault _ _ => true
  | .wrAck, .vault _ _ => true
  | _, _ => false

/-- Flits of the dual-clock queue through which a stop's own packets reach its rings (Table 1.8): a core's has 10 for
each ring, the hub's 32, the host gateway's and a link's 64; page units, gateways and the stops themselves have none. -/
def queueDepth (stop : Nat) : Option Nat :=
  if (stopCore stop).isSome then some 10
  else if stop = hubStop then some 32
  else if stop = hostStop ∨ (stopLink stop).isSome then some 64
  else none

/-- The packets of a list, oldest first, that a queue of `n` flits holds. -/
def heldIn : Nat → List Packet → List Packet
  | _, [] => []
  | n, p :: l => if flitsOf p ≤ n then p :: heldIn (n - flitsOf p) l else []

/-- The packets that a stop may inject on a ring: those in its queue, and those in the vault's queue of 16 flits; the
rest wait at their source, which their full queue holds (R30, R31). -/
def atStop (s : State) (stop ring : Nat) : List Packet :=
  let l := injectQ s stop ring
  match queueDepth stop with
  | none => l
  | some n => heldIn n (l.filter fun p => !fromVault s p) ++ heldIn 16 (l.filter (fromVault s))

/-- The vault-to-ring queue takes `n` more flits. -/
def vaultOutRoom (s : State) (v n : Nat) : Bool :=
  decide (flitSum (([0, 1, 2, 3].flatMap (injectQ s (coreStop v))).filter (fromVault s)) + n ≤ 16)

/-- A stop has injected a packet (Table 9.7). -/
def countTx (s : State) (stop : Nat) : State := count s (stopCtr (stop / 256) (stop % 256) 0) 1

/-- A write packet with its payload. -/
def writePacket (ring cls src dst txn addr : Nat) (data : List Byte) : Packet :=
  { plainPacket .wr ring cls src dst txn addr data.length with data := data, ackreq := true }

/-! ### SRAM in use by a core's units (R58, R141, R143) -/

/-- Two ranges share a byte. -/
def meets (a b : Nat × Nat) : Bool := decide (a.1 < b.1 + b.2) && decide (b.1 < a.1 + a.2)

/-- Two lists of ranges share a byte. -/
def meetAny (as bs : List (Nat × Nat)) : Bool := as.any fun a => bs.any fun b => meets a b

/-- A numbered operation of a core has not completed. -/
def opLive (x : CoreSt) (n : Nat) : Bool :=
  (match x.feedRun with
    | some r => r.op.seq == n
    | none => false)
    || (x.feedQ.any fun f => match f with
      | .feed o => o.seq == n
      | .atb o => o.seq == n)
    || (x.drainQ.any fun d => match d with
      | .drain o => o.seq == n
      | .reds o => o.seq == n)
    || (x.vopQ.any fun o => o.seq == n)
    || (x.dma.any fun e => e.2.any fun d => d.seq == n)
    || (x.outgoing.any fun o => o.seq == n)

/-- A channel has issued the requests of a descriptor. -/
def dmaStarted (x : CoreSt) (n : Nat) : Bool := x.dma.any fun e => e.2.any fun d => d.seq == n && d.started

/-- The case that a write of another agent meets in a core's SRAM: the operand or scale region of a FEED from its
acceptance to its completion (R58), or a range that a DMA channel is writing (R143). DRAIN, VOP and ATB are whole steps,
and no write falls inside one. -/
def sramTaken (s : State) (c off n : Nat) : Option Nat :=
  let x := coreAt s c
  x.order.findSome? fun a => match a.unit with
    | .feed => if !a.atb && opLive x a.seq && meetAny [(off, n)] a.reads then some 6 else none
    | .dma _ => if dmaStarted x a.seq && meetAny [(off, n)] a.writes then some 22 else none
    | _ => none

/-- Another agent writes bytes of a core's SRAM. -/
def remoteStore (s : State) (c off : Nat) (bs : List Byte) : Except Halt State := match sramTaken s c off bs.length with
  | some k => .error (.undefinedCase k)
  | none => .ok (writeMem (wakeDom s ⟨.core, c⟩) 16 (sramKey c off) bs)

/-! ### Ranges that commands keep to themselves (R157, R165, R168, R173, R182) -/

/-- The parts of a range between aligned 256-byte boundaries (R250). -/
def blocks : Nat → Nat → Nat → List (Nat × Nat)
  | 0, _, _ => []
  | fuel + 1, a, n =>
    if n = 0 then []
    else
      let k := min n (256 - a % 256)
      (a, k) :: blocks fuel (a + k) (n - k)

/-- The packets of a transfer (R250). -/
def packets (a n : Nat) : List (Nat × Nat) := blocks (n / 256 + 2) a n

/-- The page ID that names no page (R156). -/
def noPage : Nat := 0xFFFFFFFF

/-- The sheaf, global vault and index of a page ID (R156). -/
def pageSheaf (p : Nat) : Nat := p / 2 ^ 29
def pageVault (p : Nat) : Nat := p / 2 ^ 22
def pageIndex (p : Nat) : Nat := p % 2 ^ 22

/-- Key of a page in its unit's counts. -/
def pageKey (p : Nat) : Nat := p % 2 ^ 29

/-- Reference count of a page. -/
def refCount (s : State) (p : Nat) : Nat := FMap.getD (unitAt s (pageSheaf p)).refs (pageKey p) 0

/-- Vault offset of a page (R156). -/
def pageOff (s : State) (p : Nat) : Nat :=
  let u := unitAt s (pageSheaf p)
  (u.base + pageIndex p * u.slot) * 2048

/-- An item that has been dispatched and has not ended. -/
def itemLive (i : Item) : Bool := i.phase == .dispatched || i.phase == .running

/-- The memory under a range of device addresses: first key and bytes of its parts. -/
def placeKeys (s : State) (a n : Nat) : List (Nat × Nat) := (packets a n).filterMap fun p => match resolve s p.1 with
  | .vault v off => some (vaultKey v off, p.2)
  | .sram c off => some (sramKey c off, p.2)
  | .host b => some (hostKey b, p.2)
  | _ => none

/-- The code words under a range of device addresses. -/
def placeWords (s : State) (a n : Nat) : List (Nat × Nat) := placeKeys s (a / 32 * 32) (roundUp (a + n) 32 - a / 32 * 32)

/-- The pages that a page table names, as its entries stand. -/
def namedPages (s : State) (table n : Nat) : List Nat :=
  ((placeKeys s table (4 * n)).flatMap fun r => (List.range (r.2 / 4)).map fun i => leNat (bytesAt s (r.1 + 4 * i) 4)).filter
    (· ≠ noPage)

/-- The memory of a page. -/
def pageRange (s : State) (p : Nat) : Nat × Nat :=
  (vaultKey (pageVault p) (pageOff s p), (unitAt s (pageSheaf p)).slot * 2048)

/-- The code words of the table entries that a command of a page unit acts on. -/
def tableRanges (s : State) : WqCmd → List (Nat × Nat)
  | .pageOp p => placeWords s p.table (4 * p.count)
  | .tiller p => placeWords s p.table (4 * p.blocks)
  | _ => []

/-- The source entries and pages that it reads. -/
def sourceRanges (s : State) : WqCmd → List (Nat × Nat)
  | .pageOp p =>
    if p.sub = 1 then placeWords s p.src (4 * p.count)
    else if p.sub = 2 then
      ((namedPages s p.table p.count).filter fun x => decide (1 < refCount s x)).map (pageRange s)
    else []
  | _ => []

/-- The input, output and summary of a WINNOW. -/
def winnowRanges (s : State) : WqCmd → List (Nat × Nat)
  | .winnow p => placeKeys s p.input (8 * p.n) ++ placeKeys s p.output (roundUp (16 * p.n) 32) ++ placeKeys s p.summary 128
  | _ => []

/-- The LIVE and WORK entries of an open step, its region descriptors, and the pages that LIVE names (R182). -/
def stepRanges (s : State) (st : Step) : List (Nat × Nat) :=
  placeKeys s st.regionsAt (32 * st.regions.length) ++ st.regions.flatMap fun r =>
    placeWords s r.live (4 * r.count) ++ placeWords s r.work (4 * r.count) ++ (namedPages s r.live r.count).map (pageRange s)

/-- A register of guard slot `n` (Table 6.8). -/
def slotReg (n off : Nat) : Nat := hubReg (0x41000 + 0x40 * n + off)

/-- The scale records of a step's held slots (R192). -/
def scaleRanges (s : State) (st : Step) : List (Nat × Nat) :=
  st.slots.flatMap fun n => placeKeys s (regFld s (slotReg n 0x10) 55 0) 32

/-- The case that a write by an agent meets: memory of an outstanding PAGE_OP or TILLER_LOOKUP (R165) or WINNOW (R173),
or of an open step, or the scale record of a held slot (R182, R192). -/
def writeBarred (s : State) (k n : Nat) : Option Nat :=
  let hit (l : List (Nat × Nat)) : Bool := meetAny [(k, n)] l
  match s.wq.queues.findSome? fun e => e.2.items.findSome? fun i =>
    if !itemLive i then none
    else if hit (tableRanges s i.cmd ++ sourceRanges s i.cmd) then some 28
    else if hit (winnowRanges s i.cmd) then some 30
    else none
  with
  | some c => some c
  | none =>
    if s.guard.steps.any fun e => e.2.phase != .held && hit (stepRanges s e.2) then some 31
    else if s.guard.steps.any fun e => hit (scaleRanges s e.2) then some 32
    else none

/-- A write closes the merge entries of the blocks that it touches (R219). -/
def closeMerges (s : State) (v off n : Nat) : State :=
  if (vaultAt s v).merges.isEmpty then s
  else updVault s v fun x => { x with merges := x.merges.map fun m =>
    if off / 256 ≤ m.block ∧ m.block * 256 < off + n then { m with closed := true } else m }

/-! ### Reads and writes by an agent -/

/-- Bytes read, whether they are poisoned, and the state after. -/
abbrev Read := List Byte × Bool × State

/-- Key of the row that holds an offset, in the row unit's list of rows that no ROW_FENCE covers. -/
def rowKey (off : Nat) : Nat := off / 2048 % 80 * 3072 + off / 2048 / 80

/-- Where the tiller table begins in every in-service vault (R168). -/
def tillerBase : Nat := 0x1DFC0000

/-- A byte of the tiller table: the entries of the page unit's tree as they lie in the vault (R168). -/
def tillerByte (s : State) (v off : Nat) : Byte :=
  let h := v / 128
  let n := ((List.range (v % 128)).filter fun i => vaultInService s (h * 128 + i)).length
  let x := off - tillerBase
  match FMap.find s.pages.tiller (h * 2 ^ 32 + ((n * 2048 + x / 128) * 8 + x % 128 / 16)) with
  | some e => (((leBytes 8 e.hash ++ leBytes 4 e.page ++ leBytes 4 e.stamp)[x % 16]?).getD 0)
  | none => 0

/-- The vault holds an initialised part of the tiller table. -/
def tillerShown (s : State) (v : Nat) : Bool :=
  licensed s 2 && !bit (regGet s (pguReg (v / 128) 0x10)) 2

/-- An offset of a vault lies in the metadata region of its page pool (R157). -/
def inMeta (s : State) (v off : Nat) : Bool :=
  let u := unitAt s (v / 128)
  let lo := (u.base + u.count * u.slot) * 2048
  decide (lo ≤ off) && decide (off < lo + roundUp (6 * u.count) 2048)

/-- A byte of a vault as a read delivers it: a row that a program wrote gives a free value until its fence
(R242), pool metadata a free value (R157), and the tiller table its entries. -/
def vaultByte (s : State) (v off : Nat) : Byte :=
  if tillerBase ≤ off && tillerShown s v then tillerByte s v off
  else if inMeta s v off then Config.freeByte s.free (vaultKey v off)
  else if (vaultAt s v).row.unfenced.contains (rowKey off) then Config.freeByte s.free (vaultKey v off)
  else byteAt s (vaultKey v off)

/-- Bytes of a vault as a read delivers them. -/
def vaultBytes (s : State) (v off n : Nat) : List Byte :=
  (List.range n).map fun i => vaultByte s v (off + i)

/-- A range touches a row whose check bits are invalid: one of its words holds such bits, since the row becomes valid
only with its last word (R231). -/
def badChecks (s : State) (v off n : Nat) : Bool :=
  let lo := vaultKey v (off / 2048 * 2048)
  let hi := vaultKey v (roundUp (off + n) 2048)
  s.marks.any fun e => decide (lo ≤ e.1) && decide (e.1 < hi) && e.2 == .badCheck

/-- A read of a vault: an uncorrectable word is a job-fault cause, and the data are poisoned; `src` is the source
that the error log names, 0 an agent and 3 a page-unit copy (Table 7.9). -/
def readVaultAs (s : State) (v off n src : Nat) : Except Halt Read :=
  if processorMode s v then .error (.undefinedCase 39)
  else if badChecks s v off n then .error (.undefinedCase 40)
  else
    let (ue, s') := checkVault (wakeDom s ⟨.vault, v⟩) v off n src
    let s' := count s' (vltCtr v 0) (wordsOf 32 off n).length
    match ue with
    | none => .ok (vaultBytes s v off n, false, bump s')
    | some w => .ok (vaultBytes s' v off n, true, detectUe (bump s') 0 (coreStop v) (vaultAddr v w))

/-- A read of a vault by an agent. -/
def readVault (s : State) (v off n : Nat) : Except Halt Read := readVaultAs s v off n 0

/-- A read of an SRAM: source 0 a unit of the core, 1 a DMA channel, 2 remote. -/
def readSram (s : State) (c off n src : Nat) : Read :=
  let (ue, s') := checkSram s c off n src
  match ue with
  | none => (bytesAt s (sramKey c off) n, false, bump s')
  | some w =>
    (bytesAt s' (sramKey c off) n, true,
      detectUe (bump s') 1 (coreStop c) (0x20000000000 + c * 2 ^ 24 + w))

/-- A read of host memory: all ones and a count while Bus Master Enable is 0 (R340). -/
def readHost (s : State) (bus n : Nat) : Read :=
  if s.host.busMaster then (bytesAt s (hostKey bus) n, false, bump s)
  else (List.replicate n 0xFF, false, count s (hubReg 0x60) 1)

/-- A range of a vault that its page unit keeps: the tiller range while TILLER is installed (R168), and the pool's
metadata region (R157). -/
def keptByUnit (s : State) (v off n : Nat) : Option Nat :=
  if licensed s 2 && decide (tillerBase < off + n) then some 29
  else if (wordsOf 32 off n).any fun w => inMeta s v w then some 24
  else none

/-- A write to a vault by an agent. -/
def writeVault (s : State) (v off : Nat) (bs : List Byte) : Except Halt State :=
  if processorMode s v then .error (.undefinedCase 39)
  else match keptByUnit s v off bs.length, writeBarred s (vaultKey v off) bs.length with
    | some k, _ => .error (.undefinedCase k)
    | none, some k => .error (.undefinedCase k)
    | none, none =>
      .ok (count (closeMerges (writeMem (wakeDom s ⟨.vault, v⟩) 32 (vaultKey v off) bs) v off bs.length) (vltCtr v 1)
        (wordsOf 32 off bs.length).length)

/-- A write to host memory through the gateway. -/
def writeHost (s : State) (bus : Nat) (bs : List Byte) : Except Halt State := match writeBarred s (hostKey bus) bs.length with
  | some k => .error (.undefinedCase k)
  | none => .ok (hostWrite s bus bs)

/-- An agent's write to another device leaves its stop as a packet for a link (R253); its class is open. -/
def remoteWrite (s : State) (stop a : Nat) (bs : List Byte) : State :=
  let r := addrRing a
  bump (sendPacket s stop
    { writePacket r (Config.choose s.free a % 4) stop (linkStop (outLink s (stop / 256) r)) 0 a bs with ackreq := false })

/-- A transfer of an agent's stop to local memory and its reply or acknowledgement are packets of the two stops (R14,
R252); an agent named `none` has no stop of its own. -/
def countXfer (s : State) (stop : Option Nat) (a : Nat) : State := match stop, resolve s a with
  | some t, .vault v _ => countTx (countTx s t) (coreStop v)
  | some t, .sram c _ => countTx (countTx s t) (coreStop c)
  | some t, .host _ => countTx (countTx s t) hostStop
  | _, _ => s

/-- No request that a vault's inputs hold touches a range that an access reaches after it, where one of the two writes:
requests to common words are performed in the order of their arrival (R200), so the access waits behind them. -/
def vaultFree (s : State) (v off n : Nat) (write : Bool) : Except Halt State :=
  let x := vaultAt s v
  if (x.shaftQ ++ x.ringQ).any fun r =>
      (write || r.write) && decide (off / 32 * 32 < r.off + (if r.write then r.data.length else r.bytes))
        && decide (r.off / 32 * 32 < off + n)
    then .error .wait else .ok s

/-- An agent reads bytes at a device address within one block; what another device holds is not this device's state, so
its bytes are free values. -/
def readBlock (s : State) (stop : Option Nat) (a n : Nat) : Except Halt Read :=
  let s := countXfer s stop a
  match resolve s a with
  | .vault v off => do
    let s ← vaultFree s v off n false
    readVault s v off n
  | .sram c off => .ok (readSram (wakeDom s ⟨.core, c⟩) c off n 2)
  | .host bus => .ok (readHost s bus n)
  | .reg _ => .error (.undefinedCase 3)
  | .remote _ _ => .ok ((List.range n).map fun i => Config.freeByte s.free i, false, bump s)
  | .none k => .error (.undefinedCase k)

/-- An agent writes bytes at a device address within one block. -/
def writeBlock (s : State) (stop : Option Nat) (a : Nat) (bs : List Byte) : Except Halt State :=
  let s := countXfer s stop a
  match resolve s a with
  | .vault v off => do
    let s ← vaultFree s v off bs.length true
    writeVault s v off bs
  | .sram c off => remoteStore s c off bs
  | .host bus => writeHost s bus bs
  | .reg _ => .error (.undefinedCase 3)
  | .remote _ _ => .ok (remoteWrite s (stop.getD hubStop) a bs)
  | .none k => .error (.undefinedCase k)

/-- An agent reads a range, packet by packet. -/
def readParts (s : State) (stop : Option Nat) : List (Nat × Nat) → Except Halt Read
  | [] => .ok ([], false, s)
  | (a, n) :: ps => do
    let (bs, p, s1) ← readBlock s stop a n
    let (cs, q, s2) ← readParts s1 stop ps
    return (bs ++ cs, p || q, s2)

/-- An agent writes a range, packet by packet. -/
def writeParts (s : State) (stop : Option Nat) (bs : List Byte) : List (Nat × Nat) → Except Halt State
  | [] => .ok s
  | (a, n) :: ps => do
    let s1 ← writeBlock s stop a (bs.take n)
    writeParts s1 stop (bs.drop n) ps

/-- A read of `n` bytes at a device address by the agent of a stop. -/
def stopRead (s : State) (stop : Option Nat) (a n : Nat) : Except Halt Read := readParts s stop (packets a n)

/-- A write of bytes at a device address by the agent of a stop. -/
def stopWrite (s : State) (stop : Option Nat) (a : Nat) (bs : List Byte) : Except Halt State :=
  writeParts s stop bs (packets a bs.length)

/-- A read of `n` bytes at a device address from the hub stop (queue engine, firmware). -/
def devRead (s : State) (a n : Nat) : Except Halt Read := stopRead s (some hubStop) a n

/-- A write of bytes at a device address from the hub stop. -/
def devWrite (s : State) (a : Nat) (bs : List Byte) : Except Halt State := stopWrite s (some hubStop) a bs

/-- A read of `n` bytes for a built-in kernel. Which of its target cores reads is open (R301), so no stop counts it:
DESIGN CHOICE, log entry 81. -/
def kernRead (s : State) (a n : Nat) : Except Halt Read := stopRead s none a n

/-- A write of bytes for a built-in kernel. -/
def kernWrite (s : State) (a : Nat) (bs : List Byte) : Except Halt State := stopWrite s none a bs

/-- A little-endian field at a device address. -/
def devNat (s : State) (a n : Nat) : Except Halt (Nat × State) := do
  let (bs, _, s1) ← devRead s a n
  return (leNat bs, s1)

/-! ### Pail answers (R277) -/

/-- Status codes (Table 10.12). -/
def stOk : Nat := 0x0000
def stAborted : Nat := 0x0001
def stAlready : Nat := 0x0002
def stReplayed : Nat := 0x0003
def stTripped : Nat := 0x0004
def stUnknown : Nat := 0x0010
def stLicence : Nat := 0x0011
def stBusy : Nat := 0x0012
def stBadState : Nat := 0x0013
def stFault : Nat := 0x0020
def stPending : Nat := 0xFFFF

def pageAt (s : State) (p : Nat) : PailPage := s.pails.pages.getD p .reset
def setPage (s : State) (p : Nat) (x : PailPage) : State :=
  { s with pails := { s.pails with pages := s.pails.pages.set p x } }

/-- The firmware answers a pail: RESP, RLEN, RSEQ and STATUS; INTR of an in-band pail signals VECTOR. -/
def answer (s : State) (r : PailReq) (status : Nat) (resp : List Byte) : State :=
  let s := setPage s r.pail { pageAt s r.pail with status := status, rseq := r.seq, rlen := resp.length, resp := resp }
  if r.intr && decide (r.pail < 64) then msix s r.vector else s

/-- Kinds of pail (R279). -/
inductive PailKind where
  | admin | user | oob
  deriving DecidableEq, Repr

/-- The kind of a pail, by PAIL_GRANT. -/
def pailKind (s : State) (p : Nat) : PailKind :=
  if p ≥ 64 then .oob
  else if p = 0 || bit (regGet s (hubReg 0x10000)) p then .admin else .user

/-! ### Small helpers of the families -/

/-- The state after a fold of a state function over a list. -/
def forEach {α : Type} (s : State) (l : List α) (f : State → α → State) : State := l.foldl f s

/-- The same for effects that may meet an undefined case. -/
def forEachE {α : Type} (s : State) (l : List α) (f : State → α → Except Halt State) :
    Except Halt State := l.foldlM f s

end Sys2Proof.Machine
end

