-- ==== Sys2Proof/Machine/Flags.lean ====
section
/-! DEFINITION. The flags of a churn tile in CHN_STATUS, their sticky copies and their event counters
(R49 to R51, R89, Tables 2.12 and 2.14). -/

namespace Sys2Proof.Machine

/-- Bit of UNDERSPILL, OVERFLOW and FCRANGE in CHN_STATUS; the sticky flag is 8 bits above. -/
def fUnderspill : Nat := 0
def fOverflow : Nat := 1
def fFcrange : Nat := 2

/-- A tile flag is set: its sticky flag is set as well and its event counter advances (R51, R421). -/
def setTileFlag (s : State) (c i : Nat) : State :=
  let s := regFlag s (coreReg c 0x200) i true
  event s (coreReg c 0x200) (8 + i) (coreReg c (0x218 + 8 * i))

/-- A tile flag reads 1. -/
def tileFlag (s : State) (c i : Nat) : Bool := bit (regGet s (coreReg c 0x200)) i

/-- The tile is a full-cream tile (R52). -/
def fullCream (s : State) (c : Nat) : Bool := tileFlag s c 3

/-- CLEAR clears the three tile flags and sets the tile's mode (R51, R52). -/
def clearTileFlags (s : State) (c : Nat) (fc : Bool) : State :=
  regSetFld s (coreReg c 0x200) 3 0 (8 * b2n fc)

/-- The anchor of the current tile (R48). -/
def chnAnchor (s : State) (c : Nat) : Int := signed 16 (regFld s (coreReg c 0x208) 15 0)

/-- CHN_ANCHOR takes an anchor and is valid. -/
def setAnchor (s : State) (c : Nat) (a : Int) : State :=
  regSet s (coreReg c 0x208) (2 ^ 16 + unsigned 16 a)

/-- `n` contributions were truncated under R49. -/
def underspill (s : State) (c n : Nat) : State :=
  if n = 0 then s
  else
    let s := count s (coreReg c 0x210) n
    let s := coreEvent s c 0x06 n
    let s := (List.range n).foldl (fun s _ => setTileFlag s c fUnderspill) s
    if fullCream s c then (List.range n).foldl (fun s _ => setTileFlag s c fFcrange) s else s

/-- The flag bits of a sum of two FX values (R265): UNDERSPILL when bits are lost in the shift, and FCRANGE
with it, or with an overflow, for FX512. -/
def fxFlags (lost ovf fx512 : Bool) : Nat :=
  b2n ((lost || ovf) && fx512) + 2 * b2n lost

end Sys2Proof.Machine
end

