-- ==== Sys2Proof/Machine/Numerics.lean ====
section
/-! DEFINITION. Exact binary numbers, the floating-point formats, and the one rounding that every
conversion of the device uses (R81 to R86, R126). -/

namespace Sys2Proof.Machine

/-! ### Exact numbers -/

/-- An exact number `m × 2^e`. -/
structure Dy where
  m : Int
  e : Int
  deriving DecidableEq, Repr

/-- `m × 2^k` for `k ≥ 0`; the exponent of an exact number is lowered by `k`. -/
def Dy.lower (x : Dy) (k : Nat) : Dy := ⟨x.m * 2 ^ k, x.e - k⟩

/-- The mantissa of a number at an exponent not above its own. -/
def Dy.at (x : Dy) (e : Int) : Int := x.m * 2 ^ (x.e - e).toNat

def Dy.add (x y : Dy) : Dy :=
  let e := min x.e y.e
  ⟨x.at e + y.at e, e⟩

def Dy.neg (x : Dy) : Dy := ⟨-x.m, x.e⟩
def Dy.sub (x y : Dy) : Dy := x.add y.neg
def Dy.mul (x y : Dy) : Dy := ⟨x.m * y.m, x.e + y.e⟩
def Dy.abs (x : Dy) : Dy := ⟨x.m.natAbs, x.e⟩
def Dy.zero : Dy := ⟨0, 0⟩
def Dy.ofInt (x : Int) : Dy := ⟨x, 0⟩

/-- `x ≤ y`. -/
def Dy.le (x y : Dy) : Bool := decide (x.at (min x.e y.e) ≤ y.at (min x.e y.e))

/-- `x < y`. -/
def Dy.lt (x y : Dy) : Bool := !(Dy.le y x)

/-- Scaled by a power of two. -/
def Dy.scale (x : Dy) (k : Int) : Dy := ⟨x.m, x.e + k⟩

/-- floor(log2 |x|) of a number that is not zero. -/
def Dy.log2 (x : Dy) : Int := (Nat.log2 x.m.natAbs : Int) + x.e

/-- The larger magnitude. -/
def Dy.maxAbs (x y : Dy) : Dy := if Dy.le x.abs y.abs then y.abs else x.abs

/-! ### Floating-point numbers -/

/-- A floating-point value: a signed exact number, an infinity or a NaN. -/
inductive Num where
  | fin (neg : Bool) (mag : Nat) (e : Int)
  | inf (neg : Bool)
  | nan
  deriving DecidableEq, Repr

/-- A floating-point format: mantissa bits, exponent of the least subnormal, sign position, code of the
largest finite magnitude, codes of the infinity and of the NaN that is written. -/
structure FpFmt where
  mant : Nat
  qmin : Int
  sign : Nat
  maxCode : Nat
  infCode : Option Nat
  nanCode : Nat
  deriving DecidableEq, Repr

def fp64 : FpFmt := ⟨52, -1074, 63, 0x7FEFFFFFFFFFFFFF, some 0x7FF0000000000000, 0x7FF8000000000000⟩
def fp32 : FpFmt := ⟨23, -149, 31, 0x7F7FFFFF, some 0x7F800000, 0x7FC00000⟩
def bf16 : FpFmt := ⟨7, -133, 15, 0x7F7F, some 0x7F80, 0x7FC0⟩
def fp16 : FpFmt := ⟨10, -24, 15, 0x7BFF, some 0x7C00, 0x7E00⟩
def e4m3 : FpFmt := ⟨3, -9, 7, 0x7E, none, 0x7F⟩
def e5m2 : FpFmt := ⟨2, -16, 7, 0x7B, some 0x7C, 0x7E⟩
/-- FP4 E2M1 has neither an infinity nor a NaN (R70): every code above the largest is out of reach. -/
def e2m1 : FpFmt := ⟨1, -1, 3, 0x7, none, 0⟩

/-- The value of a code of a format (IEEE 754, OCP for E4M3 and E5M2). -/
def decodeFp (f : FpFmt) (code : Nat) : Num :=
  let neg := bit code f.sign
  let c := code % 2 ^ f.sign
  if c > f.maxCode then
    if f.infCode = some c then .inf neg else .nan
  else
    let ef := c / 2 ^ f.mant
    let fr := c % 2 ^ f.mant
    if ef = 0 then .fin neg fr f.qmin else .fin neg (2 ^ f.mant + fr) (f.qmin + (ef - 1 : Nat))

/-- Rounding directions (R82); stochastic rounding carries its 32 random bits (R83). -/
inductive Rnd where
  | rne | rtz | sr (h : Nat)
  deriving DecidableEq, Repr

/-- `num / 2^d` rounded to an integer. -/
def roundShift (r : Rnd) (num d : Nat) : Nat :=
  let n := num / 2 ^ d
  let rem := num % 2 ^ d
  match r with
  | .rne => if 2 * rem > 2 ^ d ∨ (2 * rem = 2 ^ d ∧ n % 2 = 1) then n + 1 else n
  | .rtz => n
  | .sr h => if rem * 2 ^ 32 > h * 2 ^ d then n + 1 else n

/-- The code of magnitude `m × 2^e` rounded into a format, before the range is checked. -/
def magCode (f : FpFmt) (r : Rnd) (m : Nat) (e : Int) : Nat :=
  let q := max ((Nat.log2 m : Int) + e - f.mant) f.qmin
  let n := if e ≥ q then m * 2 ^ (e - q).toNat else roundShift r m (q - e).toNat
  (q - f.qmin).toNat * 2 ^ f.mant + n

/-- A value rounded into a format (R81 to R84). A magnitude above the largest finite value goes, under RNE
and SR, to the infinity or to the largest value, and under RTZ to the largest value. -/
def roundFp (f : FpFmt) (r : Rnd) (x : Num) : Nat :=
  match x with
  | .nan => f.nanCode
  | .inf neg => b2n neg * 2 ^ f.sign + f.infCode.getD f.maxCode
  | .fin neg m e =>
    let s := b2n neg * 2 ^ f.sign
    if m = 0 then s
    else if magCode f .rtz m e ≥ f.maxCode ∧ r ≠ .rtz then
      let c := magCode f .rne m e
      let exactMax := match decodeFp f f.maxCode with
        | .fin _ mm me => Dy.le ⟨m, e⟩ ⟨mm, me⟩
        | _ => false
      let c := if exactMax then magCode f r m e else c
      s + (if c > f.maxCode then f.infCode.getD f.maxCode else c)
    else s + min (magCode f r m e) f.maxCode

/-- An exact number as a floating-point value; an exact zero is +0 (R81). -/
def Dy.toNum (x : Dy) : Num := .fin (decide (x.m < 0)) x.m.natAbs x.e

/-- The exact value of a finite floating-point value; infinities and NaN as zero. -/
def Num.toDy (x : Num) : Dy := match x with
  | .fin neg m e => ⟨if neg then -(m : Int) else m, e⟩
  | _ => Dy.zero

/-- Neither an infinity nor a NaN. -/
def Num.isFin (x : Num) : Bool := match x with
  | .fin _ _ _ => true
  | _ => false

/-! ### IEEE 754 arithmetic (R126): exact, to be rounded once -/

def numNeg : Num → Num
  | .fin n m e => .fin (!n) m e
  | .inf n => .inf (!n)
  | .nan => .nan

def numAdd (x y : Num) : Num :=
  match x, y with
  | .nan, _ => .nan
  | _, .nan => .nan
  | .inf a, .inf b => if a = b then .inf a else .nan
  | .inf a, _ => .inf a
  | _, .inf b => .inf b
  | .fin a m e, .fin b n f =>
    let s := Dy.add (Num.toDy (.fin a m e)) (Num.toDy (.fin b n f))
    if s.m = 0 then .fin (a && b && decide (m = 0) && decide (n = 0)) 0 s.e else s.toNum

def numMul (x y : Num) : Num :=
  match x, y with
  | .nan, _ => .nan
  | _, .nan => .nan
  | .inf a, .inf b => .inf (a != b)
  | .inf a, .fin b n _ => if n = 0 then .nan else .inf (a != b)
  | .fin a m _, .inf b => if m = 0 then .nan else .inf (a != b)
  | .fin a m e, .fin b n f => .fin (a != b) (m * n) (e + f)

/-- Order of two values that are not NaN, with +0 above −0 (R127). -/
def numLe (x y : Num) : Bool :=
  match x, y with
  | .nan, _ => true
  | _, .nan => true
  | .inf true, _ => true
  | _, .inf false => true
  | .inf false, _ => false
  | _, .inf true => false
  | .fin a m e, .fin b n f =>
    if m = 0 ∧ n = 0 then a || !b
    else Dy.le (Num.toDy (.fin a m e)) (Num.toDy (.fin b n f))

/-- MAX of R127: NaN wins. -/
def numMax (x y : Num) : Num := if x = .nan ∨ y = .nan then .nan else if numLe x y then y else x

/-- MIN of R127. -/
def numMin (x y : Num) : Num := if x = .nan ∨ y = .nan then .nan else if numLe x y then x else y

/-- A value rounded to binary32 (RNE). -/
def to32 (x : Num) : Nat := roundFp fp32 .rne x

/-- The value of a binary32 code. -/
def of32 (c : Nat) : Num := decodeFp fp32 c

def add32 (a b : Nat) : Nat := to32 (numAdd (of32 a) (of32 b))
def mul32 (a b : Nat) : Nat := to32 (numMul (of32 a) (of32 b))

/-- The 32 bits that decide a stochastic rounding (R83). -/
def srBits (seed m n : Nat) : Nat :=
  let w := 2 ^ 32
  let h := seed % w ^^^ (m * 0x9E3779B1 % w) ^^^ (n * 0x85EBCA77 % w)
  let h := (h ^^^ h / 2 ^ 16) * 0x7FEB352D % w
  let h := (h ^^^ h / 2 ^ 15) * 0x846CA68B % w
  h ^^^ h / 2 ^ 16

/-- The rounding that ROUND selects for coordinates (m, n) (R82, R83). -/
def rndOf (round seed m n : Nat) : Rnd :=
  if round = 1 then .rtz else if round = 2 then .sr (srBits seed m n) else .rne

end Sys2Proof.Machine
end

