-- ==== Sys2Proof/Machine/Formats.lean ====
section
/-! DEFINITION. The number formats of tiles: element widths and scales (R70 to R72), digits and weights
(R73 to R76), pass plans (R77 to R79), the churn entry's add (R46 to R50, R88, R89) and the output
formats (R81 to R87, R95). -/

namespace Sys2Proof.Machine

/-! ### Format codes (Table 3.1) -/

/-- Element bits of a format; FX slots are 256 and 768 bits (R113). -/
def fmtBits (fmt : Nat) : Nat := match fmt % 16 with
  | 0 | 1 | 2 | 3 => 4
  | 4 | 5 | 6 | 7 | 8 | 9 => 8
  | 10 | 11 => 16
  | 12 => 32
  | 13 => 256
  | 14 => 768
  | _ => 0

/-- A code of Table 3.1 that may be an operand, complex bit included. -/
def fmtOperand (fmt : Nat) : Bool := decide (fmt % 16 ≤ 12) && decide (fmt < 32)

/-- A code of Table 3.1 marked as an output. -/
def fmtOutput (fmt : Nat) : Bool := [2, 3, 6, 7, 10, 11, 12].contains fmt

/-- The format requires a scale location (R113). -/
def fmtNeedsScale (fmt : Nat) : Bool := [2, 3, 5, 8, 9].contains (fmt % 16)

/-- The format may have block exponent bytes (R72). -/
def fmtBex (fmt : Nat) : Bool := [6, 7, 10, 11, 12].contains (fmt % 16)

/-- Scale bytes of a group: 2 for SB4, else 1 (Table 3.1). -/
def fmtGroup (fmt : Nat) : Nat := if fmt % 16 = 3 then 2 else 1

/-- Digits of an element (Table 3.2). -/
def fmtDigits (fmt : Nat) : Nat := match fmt % 16 with
  | 0 | 1 | 2 | 3 => 1
  | 4 | 5 | 6 | 7 | 8 | 9 => 2
  | 10 | 11 => 3
  | _ => 6

/-- The floating-point format of a code's elements, for the formats that are one. -/
def fmtFp (fmt : Nat) : FpFmt := match fmt % 16 with
  | 1 | 2 | 3 => e2m1
  | 6 | 8 => e4m3
  | 7 | 9 => e5m2
  | 10 => bf16
  | 11 => fp16
  | _ => fp32

/-- The format's largest exponent, the b of R73 without a scale location and the f of MXFP8. -/
def fmtMaxExp (fmt : Nat) : Int := match fmt % 16 with
  | 6 | 8 => 8
  | 7 | 9 | 11 => 15
  | _ => 127

/-! ### Digits of a K-line (R73 to R76) -/

/-- A K-line as the feeder presents it: signed magnitudes of its 32 elements, the x of digit 0 of each
sub-block, the pre-scan's x, whether the K-line is non-finite, and whether its scale is. -/
structure KLine where
  mags : List Int
  x : List Int
  pre : List Int
  bad : Bool
  badScale : Bool
  deriving DecidableEq, Repr

/-- floor(log2 max|v|) over finite elements, 0 for an all-zero K-line (R73). -/
def maxExp (vs : List Num) : Int :=
  let m := vs.foldl (fun a v => if v.isFin then Dy.maxAbs a v.toDy else a) Dy.zero
  if m.m = 0 then 0 else m.log2

/-- RNE(|v| × 2^k) with the sign of v. -/
def alignTo (v : Num) (k : Int) : Int := match v with
  | .fin neg m e =>
    let q := e + k
    let n : Nat := if q ≥ 0 then m * 2 ^ q.toNat else roundShift .rne m (-q).toNat
    if neg then -(n : Int) else n
  | _ => 0

/-- The K-line of 32 element codes and a scale group: `scaled` says whether a scale location is present. -/
def kline (fmt : Nat) (codes : List Nat) (scaled : Bool) (s0 s1 : Nat) : KLine :=
  let c := fmt % 16
  let four (x : Int) : List Int := [x, x, x, x]
  if c = 0 then
    ⟨codes.map (signed 4), four 0, four 0, false, false⟩
  else if c = 4 then
    ⟨codes.map (signed 8), four 0, four 0, false, false⟩
  else if c = 5 then
    let x : Int := s0 - 133
    ⟨if s0 = 0xFF then codes.map fun _ => 0 else codes.map (signed 8), four x, four x, s0 = 0xFF, s0 = 0xFF⟩
  else if c ≤ 3 then
    let bad := decide (c ≠ 1) && decide (s0 = 0xFF)
    let mags := codes.map fun k => if bad then 0 else alignTo (decodeFp e2m1 k) 1
    let x : List Int :=
      if c = 1 then four (-1)
      else if c = 2 then four (s0 - 128)
      else (List.range 4).map fun q => (s0 : Int) - 128 - (bits s1 (2 * q + 1) (2 * q) : Nat)
    ⟨mags, x, x, bad, bad⟩
  else
    let vs := codes.map (decodeFp (fmtFp fmt))
    let mx := decide (c = 8 ∨ c = 9)
    let e := maxExp vs
    let top : Int := if fmtDigits fmt = 2 then 7 else if fmtDigits fmt = 3 then 11 else 23
    let bad := (vs.any fun v => !v.isFin) || (mx && decide (s0 = 0xFF))
    let mags := vs.map fun v => if bad then 0 else alignTo v (top - e)
    let sc : Int := if mx then (s0 : Int) - 127 else 0
    let b : Int := if mx then sc + fmtMaxExp fmt else if scaled then (s0 : Int) - 127 else fmtMaxExp fmt
    ⟨mags, four (sc + e - top), four (b - top), bad, (mx || scaled) && decide (s0 = 0xFF)⟩

/-- Digit `d` of a signed magnitude (R73). -/
def digit (m : Int) (d : Nat) : Int :=
  let g := m.natAbs / 16 ^ d % 16
  if m < 0 then -(g : Int) else g

/-! ### Pass plans (R77 to R79) -/

/-- Digit pairs of an n × n plan in pass order: descending a + b, then ascending a. -/
def fullPlan (na nb : Nat) : List (Nat × Nat) :=
  (List.range (na + nb - 1)).flatMap fun t =>
    let s := na + nb - 2 - t
    (List.range na).filterMap fun a => if a ≤ s ∧ s - a < nb then some (a, s - a) else none

/-- The pass list of a PLAN for two digit counts; `none` for a disallowed combination (R77, R78). -/
def planPasses (plan na nb : Nat) : Option (List (Nat × Nat)) :=
  if ¬(na = nb ∨ (na = 1 ∧ nb = 2) ∨ (na = 2 ∧ nb = 1)) then none
  else
    let full := fullPlan na nb
    match plan, na, nb with
    | 0, _, _ => some full
    | 1, 1, 1 => some full
    | 2, 1, 2 => some full
    | 3, 2, 1 => some full
    | 4, 2, 2 => some full
    | 5, 3, 3 => some full
    | 6, 3, 3 => some (full.take 6)
    | 7, 6, 6 => some full
    | 8, 6, 6 => some (full.take 21)
    | _, _, _ => none

/-- The four partial fields of a pass block of 32 slots (R34, R35): F0 alone, or one per sub-block when an
operand is SB4. -/
def passFields (a b : KLine) (da db : Nat) (sb4 neg : Bool) : List Int :=
  let prod (k : Nat) : Int :=
    let p := digit ((a.mags[k]?).getD 0) da * digit ((b.mags[k]?).getD 0) db
    if neg then -p else p
  let sum (lo n : Nat) : Int := (List.range n).foldl (fun t i => t + prod (lo + i)) 0
  if sb4 then [sum 0 8, sum 8 8, sum 16 8, sum 24 8] else [sum 0 32, 0, 0, 0]

/-- The weights of the four fields of a pass (R46). -/
def passWeights (a b : KLine) (da db : Nat) : List Int :=
  (List.range 4).map fun q => (a.x[q]?).getD 0 + (b.x[q]?).getD 0 + 4 * (da + db : Nat)

/-! ### Churn arithmetic (R46 to R50, R88) -/

/-- What adding a completed buffer does to an accumulator of `w` bits: the new value, whether it overflowed,
and how many contributions were truncated. `bias` is 96 or 489. -/
def churnAdd (w bias : Nat) (v : Int) (anchor : Int) (fields weights : List Int) : Int × Bool × Nat :=
  let parts := (fields.zip weights).map fun (f, x) =>
    let sh := x - (anchor - bias)
    if sh ≥ 0 then (f * 2 ^ sh.toNat, false)
    else (f / 2 ^ (-sh).toNat, decide (f % 2 ^ (-sh).toNat ≠ 0))
  let s := parts.foldl (fun t p => t + p.1) v
  let wrapped := signed w (unsigned w s)
  (wrapped, decide (wrapped ≠ s), (parts.filter (·.2)).length)

/-! ### Output blocks (R81 to R87, R95) -/

/-- A value presented to a conversion: an exact number, or a NaN (R85). -/
abbrev Val := Option Dy

/-- What a row conversion writes: element codes, scale or BEX bytes in order, and the values that the codes
stand for. -/
structure Row where
  codes : List Nat
  scales : List Nat
  deq : List Num
  deriving DecidableEq, Repr

/-- The values of a list cut into blocks of `n`. -/
def chunksOf {α : Type} : Nat → Nat → List α → List (List α)
  | 0, _, _ => []
  | fuel + 1, n, l => if l.isEmpty then [] else l.take n :: chunksOf fuel n (l.drop n)

/-- E of an MX block of exact magnitudes (R86). -/
def mxExp (amax : Dy) : Nat :=
  if amax.m = 0 then 0 else (min (max (amax.log2 - 2 + 127) 0) 254).toNat

/-- r_q of an SB4 sub-block (R86). -/
def subScale (e : Nat) (amaxq : Dy) : Nat :=
  let fits (r : Nat) : Bool := Dy.le (amaxq.scale r) ⟨6, (e : Int) - 127⟩
  if amaxq.m = 0 then 3
  else if fits 3 then 3 else if fits 2 then 2 else if fits 1 then 1 else 0

def amaxOf (l : List Dy) : Dy := l.foldl Dy.maxAbs Dy.zero

/-- One MXFP4 or SB4 block; `rnd` gives the rounding of each column of the block (R86). -/
def mxBlock (sb4 : Bool) (vs : List Val) (inf : Bool) (rnd : Nat → Rnd) : Row :=
  if inf || vs.any (·.isNone) then
    ⟨vs.map fun _ => 0, if sb4 then [0xFF, 0] else [0xFF], vs.map fun _ => Num.nan⟩
  else
    let ds := vs.map fun v => v.getD Dy.zero
    let e := mxExp (amaxOf ds)
    let rs := (List.range 4).map fun q => subScale e (amaxOf ((ds.drop (8 * q)).take 8))
    let one (i : Nat) : Nat × Num :=
      let d := (ds[i]?).getD Dy.zero
      let r : Int := if sb4 then ((rs[i / 8]?).getD 0 : Nat) else 0
      let k := r - ((e : Int) - 127)
      let code := roundFp e2m1 (rnd i) (d.scale k).toNum
      (code, match decodeFp e2m1 code with
        | .fin n m x => .fin n m (x - k)
        | y => y)
    let os := (List.range ds.length).map one
    let sub := (rs.zip (List.range 4)).foldl (fun t p => t + p.1 * 4 ^ p.2) 0
    ⟨os.map (·.1), if sb4 then [e, sub] else [e], os.map (·.2)⟩

/-- The BEX byte of a K-line of written values (R72). -/
def bexByte (vs : List Num) : Nat :=
  if vs.any (fun v => !v.isFin) then 0xFF
  else
    let m := vs.foldl (fun a v => Dy.maxAbs a v.toDy) Dy.zero
    if m.m = 0 then 0 else (min (max (m.log2 + 127) 0) 0xFE).toNat

/-- One row converted into a format (R81 to R87): `inf` marks columns that present an infinity (CVT only),
`scaled` asks for BEX bytes, `rnd` gives the rounding of each column. -/
def convertRow (fmt : Nat) (scaled : Bool) (vs : List Num) (rnd : Nat → Rnd) : Row :=
  let blocks := chunksOf (vs.length + 1) 32 vs
  if fmt = 2 ∨ fmt = 3 then
    let rows := (blocks.zip (List.range blocks.length)).map fun (b, k) =>
      mxBlock (fmt = 3) (b.map fun v => if v = Num.nan then none else some v.toDy)
        (b.any fun v => v = Num.inf true || v = Num.inf false) (fun i => rnd (32 * k + i))
    ⟨rows.flatMap (·.codes), rows.flatMap (·.scales), rows.flatMap (·.deq)⟩
  else
    let codes := (vs.zip (List.range vs.length)).map fun (v, i) => roundFp (fmtFp fmt) (rnd i) v
    let deq := codes.map (decodeFp (fmtFp fmt))
    ⟨codes, if scaled then (chunksOf (vs.length + 1) 32 deq).map bexByte else [], deq⟩

/-- Element codes as bytes: 4-bit codes two to a byte, low nibble first (R71); `pad` is the high nibble of
the last byte when their number is odd. -/
def packCodes (w : Nat) (codes : List Nat) (pad : Nat) : List Byte :=
  if w = 4 then (chunksOf (codes.length + 1) 2 codes).map fun p =>
    BitVec.ofNat 8 ((p[0]?).getD 0 + 16 * (p[1]?).getD pad)
  else codes.flatMap fun c => leBytes (w / 8) c

/-- Element `p` of a line's bytes: its code. -/
def unpackCode (w : Nat) (line : List Byte) (p : Nat) : Nat :=
  if w = 4 then ((line.getD (p / 2) 0).toNat / 16 ^ (p % 2)) % 16 else fieldAt line (p * (w / 8)) (w / 8)

/-- The residual that R95 stores: t − deq rounded to nearest even into the residual format, limited to its
largest finite magnitude; zero when the output is not finite. -/
def residual (bf : Bool) (t : Dy) (deq : Num) : Nat :=
  let f := if bf then bf16 else fp32
  match deq with
  | .fin n m e =>
    let x := (Dy.sub t (Num.toDy (.fin n m e))).toNum
    let c := roundFp f .rne x
    if c % 2 ^ f.sign > f.maxCode then c / 2 ^ f.sign * 2 ^ f.sign + f.maxCode else c
  | _ => 0

end Sys2Proof.Machine
end

