-- ==== Sys2Proof/Machine/Records.lean ====
section
/-! DEFINITION. Items of work queues and their completion records (R289 to R297, R305, R309). -/

namespace Sys2Proof.Machine

/-! ### Items -/

/-- The item of a queue whose first entry has an index, if the engine holds it. -/
def itemAt (s : State) (q idx : Nat) : Option Item := (queueAt s q).items.find? (·.idx == idx)

/-- The state with one item changed. -/
def updItem (s : State) (q idx : Nat) (f : Item → Item) : State :=
  updQueue s q fun x => { x with items := x.items.map fun i => if i.idx = idx then f i else i }

/-- Entries of a queue's ring. -/
def qDepth (x : Queue) : Nat := 2 ^ x.log2depth

/-- Entries from head to tail: those visible and not released. -/
def qVisible (x : Queue) : Nat := (x.tail + qDepth x - x.head) % qDepth x

/-- An item that no engine action has dispatched; one that a replay dispatches again has its slot. -/
def itemFresh (i : Item) : Bool := i.phase == .fetched && !i.slot

/-- An item that has been dispatched, in this attempt of its step or an earlier one, and has no record (R296). -/
def itemOwed (i : Item) : Bool := i.phase != .recorded && !itemFresh i

/-- The device and the queue let dispatched commands run: state JOB, no fault in force. -/
def engineRuns (s : State) : Bool := s.boot.dev == .job

/-- A command of a queue that has been dispatched and has not begun. -/
def begins (s : State) (q idx : Nat) (p : WqCmd → Bool) : Bool :=
  engineRuns s && match itemAt s q idx with
    | some i => i.phase == .dispatched && p i.cmd
    | none => false

/-- A command that runs. -/
def isRunning (s : State) (q idx : Nat) (p : WqCmd → Bool) : Bool :=
  engineRuns s && match itemAt s q idx with
    | some i => i.phase == .running && p i.cmd
    | none => false

/-- A command ends with a status; its record is still to be written. -/
def endItem (s : State) (q idx status : Nat) : State :=
  updItem s q idx fun i => { i with phase := .ended, status, waitCores := [], waitVaults := [] }

/-- A unit of a core writes memory for the item that the core serves (R104). -/
def noteOut (s : State) (c k n : Nat) : State := match (coreAt s c).owner with
  | some (q, idx) => updItem s q idx fun i => { i with outs := i.outs ++ [(k, n)] }
  | none => s

/-- A unit of a core writes bytes of its SRAM, an output of the item that it serves. -/
def coreOut (s : State) (c off : Nat) (bs : List Byte) : State :=
  noteOut (coreStore s c off bs) c (sramKey c off) bs.length

/-- A range of device addresses is an output of an item (R104). -/
def noteItem (s : State) (q idx a n : Nat) : State := updItem s q idx fun i => { i with outs := i.outs ++ placeKeys s a n }

/-- The outputs of an aborted kernel are undefined (R104). -/
def undefOuts (s : State) (i : Item) : State :=
  { s with mem := i.outs.foldl (fun m r => eraseBytes m r.1 r.2) s.mem }

/-- A command runs. -/
def startItem (s : State) (q idx : Nat) : State := updItem s q idx fun i => { i with phase := .running }

/-! ### Head (R183, R293) -/

/-- The item is a STEP_BEGIN. -/
def isStepBegin : WqCmd → Bool
  | .stepBegin _ => true
  | _ => false

/-- Head passes the items at the front that have their records; not the STEP_BEGIN of an open step. -/
def passItems (opened : Bool) (depth : Nat) : Nat → List Item → Nat × List Item
  | head, [] => (head, [])
  | head, i :: is =>
    if i.phase = .recorded ∧ !(opened && isStepBegin i.cmd) then
      passItems opened depth ((i.idx + i.entries) % depth) is
    else (head, i :: is)

/-- A queue holds an open step: begun, and neither ended nor held (R179, R185). -/
def stepOpen (s : State) (q : Nat) : Bool := match FMap.find s.guard.steps q with
  | some st => st.phase != .held
  | none => false

/-- A queue after head has passed what it can. -/
def passHead (s : State) (q : Nat) : State :=
  updQueue s q fun x =>
    let r := passItems (stepOpen s q) (qDepth x) x.head x.items
    { x with head := r.1, items := r.2 }

/-! ### Completion records -/

/-- The 32 bytes of a record (Table 10.10). -/
def recordBytes (cmdid status queue head flags attempt detail dtime result : Nat) : List Byte :=
  leBytes 4 cmdid ++ leBytes 2 status ++ leBytes 2 queue ++ leBytes 2 head ++ leBytes 1 flags
    ++ leBytes 1 attempt ++ leBytes 4 detail ++ leBytes 8 dtime ++ leBytes 8 result

/-- A record is written at the tail of a completion queue, whose tail and phase advance (R294, R295). -/
def writeCq (s : State) (cq : Nat) (bs : Bool → List Byte) : Except Halt State := do
  let x := queueAt s cq
  let s1 ← devWrite s (x.base + 32 * x.tail) (bs x.phase)
  let t := (x.tail + 1) % qDepth x
  .ok (updQueue s1 cq fun y => { y with tail := t, phase := if t = 0 then !y.phase else y.phase, written := y.written + 1 })

/-- A class-0 record that lands late (R309). -/
def lateCheck (s : State) (x : Queue) (i : Item) : State :=
  if x.cls = 0 ∧ i.xbound > 0 ∧ nowNs s > i.t0 + 14000 + i.xbound then
    event s (hubReg 0x20000) 1 (hubReg 0x20010)
  else s

/-- The record of an item is written (R296): head passes what it can, the record follows every write of the
command, and the vector is signalled after it. -/
def putRecord (s : State) (q : Nat) (i : Item) (status : Nat) (held : Bool) (detail : Nat) :
    Except Halt State := do
  let s1 := passHead (updItem s q i.idx fun y => { y with phase := .recorded, status }) q
  let x := queueAt s1 q
  let s2 ← writeCq s1 x.cq fun ph =>
    recordBytes i.cmdid status q x.head (b2n ph + 2 * b2n held) i.attempt detail (nowNs s) i.result
  let s3 := if i.intr then msix s2 (queueAt s2 x.cq).vector else s2
  .ok (lateCheck s3 x i)

/-- Records of several items, in order. -/
def putRecords (s : State) (q : Nat) (is : List Item) (st : Item → Nat) (held : Item → Bool)
    (detail : Nat) : Except Halt State :=
  is.foldlM (fun s i => putRecord s q i (st i) (held i) detail) s

/-- Completion slots of a queue are given back to its completion queue without records (R181). -/
def freeSlots (s : State) (q n : Nat) : State :=
  updQueue s (queueAt s q).cq fun x => { x with used := x.used - n }

/-- A completion queue has this many unreserved slots. -/
def slotsLeft (s : State) (cq : Nat) : Nat := qDepth (queueAt s cq) - (queueAt s cq).used

end Sys2Proof.Machine
end

