-- ==== Sys2Proof/Machine/Operands.lean ====
section
/-! DEFINITION. Operand forms of tile programs: scalar and tile registers (R105, R106), immediates (R110),
tile descriptors and where their lines, elements and scale groups lie (R112, R113). -/

namespace Sys2Proof.Machine

/-! ### Scalar registers (R105) -/

/-- A scalar register; s0 reads zero. -/
def sreg (x : CoreSt) (n : Nat) : Nat := if n = 0 then 0 else (FMap.getD x.sregs n 0).toNat

/-- A scalar register written, modulo 2⁶⁴; a write to s0 is discarded. A register at zero is not listed. -/
def setSreg (x : CoreSt) (n v : Nat) : CoreSt :=
  if n = 0 then x
  else { x with sregs :=
    if v % 2 ^ 64 = 0 then FMap.drop x.sregs n else FMap.set x.sregs n (BitVec.ofNat 64 v) }

/-- IMM sign-extended to 64 bits (R110). -/
def immExt (imm : Nat) : Nat := unsigned 64 (signed 32 imm)

/-- A sum modulo 2⁶⁴. -/
def add64 (a b : Nat) : Nat := (a + b) % 2 ^ 64

/-- The ALU functions of Table 4.9. -/
def aluOp (fn a b : Nat) : Nat :=
  let sa := signed 64 a
  let sb := signed 64 b
  match fn with
  | 0 => add64 a b
  | 1 => unsigned 64 (sa - sb)
  | 2 => a &&& b
  | 3 => a ||| b
  | 4 => a ^^^ b
  | 5 => a * 2 ^ (b % 64) % 2 ^ 64
  | 6 => a / 2 ^ (b % 64)
  | 7 => unsigned 64 (sa / 2 ^ (b % 64))
  | 8 => a * b % 2 ^ 64
  | 9 => a * b / 2 ^ 64
  | 10 => b2n (decide (sa < sb))
  | 11 => b2n (decide (a < b))
  | 12 => if sa ≤ sb then a else b
  | 13 => if sa ≤ sb then b else a
  | 14 => min a b
  | _ => max a b

/-- The conditions of BR (Table 4.8). -/
def brCond (fn a b : Nat) : Bool :=
  match fn with
  | 0 => decide (a = b)
  | 1 => decide (a ≠ b)
  | 2 => decide (signed 64 a < signed 64 b)
  | 3 => decide (signed 64 b ≤ signed 64 a)
  | 4 => decide (a < b)
  | _ => decide (b ≤ a)

/-! ### Tile descriptors (Table 4.11) -/

/-- The reserved fields of a descriptor are zero. -/
def descReservedZero (bs : List Byte) : Bool :=
  fieldAt bs 10 1 / 32 % 4 == 0 && fieldAt bs 11 1 == 0 && fieldAt bs 28 4 == 0

/-- The descriptor of 32 bytes. -/
def parseDesc (bs : List Byte) : TileDesc where
  base := fieldAt bs 0 4
  len := fieldAt bs 4 4
  lines := fieldAt bs 8 2
  fmt := fieldAt bs 10 1 % 32
  scaled := bit (fieldAt bs 10 1) 7
  stride := fieldAt bs 12 4
  sbase := fieldAt bs 16 4
  sstride := fieldAt bs 20 4
  imag := fieldAt bs 24 4
  bad := !descReservedZero bs

/-- An undefined tile register: every field a free value (R101). -/
def freeDesc (i : Nat) (n : Nat) : TileDesc where
  base := Config.freeNat i (16 * n) % 2 ^ 32
  len := Config.freeNat i (16 * n + 1) % 2 ^ 32
  lines := Config.freeNat i (16 * n + 2) % 2 ^ 16
  fmt := Config.freeNat i (16 * n + 3) % 2 ^ 5
  scaled := Config.freeNat i (16 * n + 4) % 2 == 1
  stride := Config.freeNat i (16 * n + 5) % 2 ^ 32
  sbase := Config.freeNat i (16 * n + 6) % 2 ^ 32
  sstride := Config.freeNat i (16 * n + 7) % 2 ^ 32
  imag := Config.freeNat i (16 * n + 8) % 2 ^ 32
  bad := false

/-- A tile register as an instruction samples it (R106). -/
def treg (s : State) (c n : Nat) : TileDesc := FMap.getD (coreAt s c).tregs n (freeDesc s.free n)

/-- Bytes of `n` elements of a format, rounded up. -/
def elemBytes (fmt n : Nat) : Nat := (n * fmtBits fmt + 7) / 8

/-- SRAM offset of a line, in the real or the imaginary plane (R113). -/
def lineAt (d : TileDesc) (imag : Bool) (l : Nat) : Nat :=
  d.base + (if imag then d.imag else 0) + l * d.stride

/-- SRAM offset of the scale group of line `l`, K-block `k`. -/
def scaleAt (d : TileDesc) (imag : Bool) (l k : Nat) : Nat :=
  d.sbase + (if imag then d.imag else 0) + l * d.sstride + k * fmtGroup d.fmt

/-- A tile carries scale groups: a format with a group size in Table 3.1, and SCALED. -/
def hasScale (d : TileDesc) : Bool := d.scaled && (fmtNeedsScale d.fmt || fmtBex d.fmt)

/-- One plane of a tile lies below 0x80_0000, for its first `lines` lines. -/
def planeOk (d : TileDesc) (imag : Bool) (lines : Nat) : Bool :=
  decide (lineAt d imag (lines - 1) + elemBytes d.fmt d.len ≤ 0x800000)
    && (!hasScale d || decide (scaleAt d imag (lines - 1) ((d.len - 1) / 32) + fmtGroup d.fmt ≤ 0x800000))

/-- The ranges of Table 4.11 and the scale rule of R113. FX codes pass here and are checked where used. -/
def descOk (d : TileDesc) (lines : Nat) : Bool :=
  !d.bad && d.base % 16 == 0 && d.stride % 16 == 0 && decide (1 ≤ d.len) && decide (1 ≤ d.lines)
    && (decide (d.fmt % 16 ≤ 14))
    && (!fmtNeedsScale d.fmt || d.scaled)
    && planeOk d false lines
    && (d.fmt < 16 || planeOk d true lines)

/-- Bytes of `n` elements of a line from element `p` (`p` even for 4-bit formats). -/
def lineBytes (s : State) (c : Nat) (d : TileDesc) (imag : Bool) (l p n : Nat) : List Byte :=
  bytesAt s (sramKey c (lineAt d imag l + p * fmtBits d.fmt / 8)) (elemBytes d.fmt n)

/-- Codes of `n` elements of a line from element `p`. -/
def lineCodes (s : State) (c : Nat) (d : TileDesc) (imag : Bool) (l p n : Nat) : List Nat :=
  let odd := if fmtBits d.fmt = 4 then p % 2 else 0
  let bs := lineBytes s c d imag l (p - odd) (n + odd)
  (List.range n).map fun i => unpackCode (fmtBits d.fmt) bs (i + odd)

/-- A byte of a scale group. -/
def scaleByte (s : State) (c : Nat) (d : TileDesc) (imag : Bool) (l k i : Nat) : Nat :=
  (byteAt s (sramKey c (scaleAt d imag l k + i))).toNat

/-- The K-line of line `l`, K-block `k` (elements 32k on), cut at element `stop` and padded with zeros (R45). -/
def tileKLine (s : State) (c : Nat) (d : TileDesc) (imag : Bool) (l k stop : Nat) : KLine :=
  let n := min 32 (stop - 32 * k)
  let codes := lineCodes s c d imag l (32 * k) n ++ List.replicate (32 - n) 0
  if hasScale d then
    kline d.fmt codes true (scaleByte s c d imag l k 0)
      (if fmtGroup d.fmt = 2 then scaleByte s c d imag l k 1 else 0)
  else kline d.fmt codes false 0 0

/-- Values of a line of FP32, BF16 or FP16 elements (R126). -/
def lineVals (s : State) (c : Nat) (d : TileDesc) (l n : Nat) : List Num :=
  (lineCodes s c d false l 0 n).map (decodeFp (fmtFp d.fmt))

/-- SRAM ranges of `n` elements from element `p`, a multiple of 32, of some lines of a plane: the lines and their scale
groups. -/
def planeSpans (d : TileDesc) (imag : Bool) (lines : List Nat) (p n : Nat) : List (Nat × Nat) :=
  lines.flatMap fun l =>
    (lineAt d imag l + p * fmtBits d.fmt / 8, elemBytes d.fmt n)
      :: (if hasScale d then [(scaleAt d imag l (p / 32), (n + 31) / 32 * fmtGroup d.fmt)] else [])

/-- SRAM ranges of part of a tile, in the planes that it has. -/
def partSpans (d : TileDesc) (lines : List Nat) (p n : Nat) : List (Nat × Nat) :=
  planeSpans d false lines p n ++ (if d.fmt < 16 then [] else planeSpans d true lines p n)

/-- SRAM ranges of a whole tile. -/
def tileSpans (d : TileDesc) : List (Nat × Nat) := partSpans d (List.range d.lines) 0 d.len

/-- The words under SRAM ranges are read and checked (R210, R212). -/
def touchSpans (s : State) (c : Nat) (l : List (Nat × Nat)) : State :=
  l.foldl (fun s r => (readSram s c r.1 r.2 0).2.2) s

/-- The SRAM words of a tile are read and checked. -/
def touchTile (s : State) (c : Nat) (d : TileDesc) : State := touchSpans s c (tileSpans d)

/-- A row of results written into a tile by the drain or vector unit, merged into whole words (R204). -/
def putRow (s : State) (c : Nat) (d : TileDesc) (l : Nat) (r : Row) : State :=
  let s := coreOut s c (lineAt d false l)
    (packCodes (fmtBits d.fmt) r.codes (Config.freeNat s.free l % 16))
  if r.scales.isEmpty then s
  else coreOut s c (scaleAt d false l 0) (r.scales.map (BitVec.ofNat 8 ·))

end Sys2Proof.Machine
end

