-- ==== Sys2Proof/Machine/Sums.lean ====
section
/-! DEFINITION. Sums in the fixed order of R127, and the summary of written rows that the guard receives (R174). -/

namespace Sys2Proof.Machine

/-! ### The balanced tree (R127) -/

/-- Adjacent pairs combined. -/
def pairUp {α : Type} (f : α → α → α) : List α → List α
  | a :: b :: l => f a b :: pairUp f l
  | l => l

/-- `n` levels of adjacent pairs. -/
def treeFold {α : Type} (f : α → α → α) : Nat → List α → List α
  | 0, l => l
  | n + 1, l => treeFold f n (pairUp f l)

/-- A list padded to a length. -/
def padTo {α : Type} (n : Nat) (z : α) (l : List α) : List α := l ++ List.replicate (n - l.length) z

/-- The order of R127: each chunk of 128 by its tree, then the chunks in ascending order. -/
def chunkFold {α : Type} (f : α → α → α) (z : α) (l : List α) : α :=
  let cs := (chunksOf (l.length + 1) 128 l).map fun c => ((treeFold f 7 (padTo 128 z c)).head?).getD z
  match cs with
  | [] => z
  | c :: cs => cs.foldl f c

/-- RSUM of binary32 codes. -/
def rsum32 (l : List Nat) : Nat := chunkFold add32 0 l

/-- The larger of two binary32 codes by R127. -/
def max32 (a b : Nat) : Nat := to32 (numMax (of32 a) (of32 b))

/-- The smaller of two binary32 codes by R127. -/
def min32 (a b : Nat) : Nat := to32 (numMin (of32 a) (of32 b))

/-- RMAX of binary32 codes; the pad is −∞. -/
def rmax32 (l : List Nat) : Nat := chunkFold max32 0xFF800000 l

/-! ### Reports (R174) -/

/-- A value's square in FP64; 0 for a NaN or an infinity. -/
def sq64 (v : Num) : Num := if v.isFin then decodeFp fp64 (roundFp fp64 .rne (numMul v v)) else .fin false 0 0

/-- An FP64 sum, rounded to nearest even. -/
def sum64 (x y : Num) : Num := decodeFp fp64 (roundFp fp64 .rne (numAdd x y))

/-- A value that is a whole number of 2⁻²⁹⁸, in those units. -/
def units298 (x : Dy) : Nat :=
  if -298 ≤ x.e then x.m.natAbs * 2 ^ (x.e + 298).toNat else x.m.natAbs / 2 ^ (-298 - x.e).toNat

/-- The sum of squares of one block of 32 columns, in units of 2⁻²⁹⁸. -/
def blockSquares (vs : List Num) : Nat :=
  let t := ((treeFold sum64 5 (padTo 32 (.fin false 0 0) (vs.map sq64))).head?).getD (.fin false 0 0)
  units298 t.toDy

/-- The largest finite magnitude as an FP32 code, held at the largest finite value. -/
def maxMag32 (vs : List Num) : Nat :=
  let m := (vs.filter (·.isFin)).foldl (fun a v => Dy.maxAbs a v.toDy) Dy.zero
  min (roundFp fp32 .rtz m.toNum) fp32.maxCode

/-- A report of a core before any row is written. -/
def emptyReport (core seq slot : Nat) (step : Option Nat) : Report :=
  ⟨none, core, seq, slot, step, 0, 0, 0, false, false, false⟩

/-- A written row joins a report. -/
def addRow (r : Report) (vs : List Num) : Report :=
  { r with
    sumsq := ((chunksOf (vs.length + 1) 32 vs).map blockSquares).foldl (· + ·) r.sumsq % 2 ^ 640
    amax := max r.amax (maxMag32 vs)
    nonfinite := r.nonfinite + (vs.filter fun v => !v.isFin).length }

/-- A report takes the tile flags. -/
def withTileFlags (r : Report) (underspill overflow fcrange : Bool) : Report :=
  { r with underspill, overflow, fcrange }

end Sys2Proof.Machine
end

