-- ==== Sys2Proof/Machine/Churn.lean ====
section
/-! DEFINITION. The churn bank (R46 to R57, R88 to R90): entries, full-cream accumulators, and the values that they hold. -/

namespace Sys2Proof.Machine

/-- An entry whose contents are undefined (R57): free values. -/
def freeEntry (i k : Nat) : Entry :=
  ⟨BitVec.ofNat 128 (Config.freeNat i (3 * k)), Config.freeNat i (3 * k + 1) % 2 == 1, Config.freeNat i (3 * k + 2) % 2 == 1⟩

/-- The entry of a core's churn bank at row × 128 + column. -/
def entryAt (s : State) (c k : Nat) : Entry := FMap.getD (coreAt s c).churn k (freeEntry s.free k)

/-- The state with an entry changed. -/
def putEnt (s : State) (c k : Nat) (e : Entry) : State :=
  updCore s c fun x => { x with churn := FMap.set x.churn k e }

/-- An accumulator: its value and the flags OVF and NAN. -/
structure Acc where
  v : Int
  ovf : Bool
  nan : Bool
  deriving DecidableEq, Repr

/-- The accumulator of output (i, j): one entry, or four entries of a full-cream tile (R47, R52). -/
def accAt (s : State) (c : Nat) (fc : Bool) (i j : Nat) : Acc :=
  if fc then
    let k := 128 * i + 4 * j
    let part (q : Nat) : Nat := (entryAt s c (k + q)).v.toNat
    ⟨signed 512 (part 0 + part 1 * 2 ^ 128 + part 2 * 2 ^ 256 + part 3 * 2 ^ 384),
      (entryAt s c k).ovf, (entryAt s c k).nan⟩
  else
    let e := entryAt s c (128 * i + j)
    ⟨e.v.toInt, e.ovf, e.nan⟩

/-- The state with the accumulator of output (i, j) changed. -/
def putAcc (s : State) (c : Nat) (fc : Bool) (i j : Nat) (a : Acc) : State :=
  if fc then
    let k := 128 * i + 4 * j
    let n := unsigned 512 a.v
    let part (q : Nat) : BitVec 128 := BitVec.ofNat 128 (n / 2 ^ (128 * q))
    let s1 := putEnt s c k ⟨part 0, a.ovf, a.nan⟩
    let s2 := putEnt s1 c (k + 1) ⟨part 1, false, false⟩
    let s3 := putEnt s2 c (k + 2) ⟨part 2, false, false⟩
    putEnt s3 c (k + 3) ⟨part 3, false, false⟩
  else putEnt s c (128 * i + j) ⟨BitVec.ofNat 128 (unsigned 128 a.v), a.ovf, a.nan⟩

/-- The entries of output (i, j). -/
def accKeys (fc : Bool) (i j : Nat) : List Nat :=
  if fc then [128 * i + 4 * j, 128 * i + 4 * j + 1, 128 * i + 4 * j + 2, 128 * i + 4 * j + 3] else [128 * i + j]

/-! ### The order of FEEDs and DRAINs on an entry (R56) -/

/-- The number of an operation of the drain queue, and its churn rectangle: first row and rows, first column and
columns. -/
def drainSeq : DrainItem → Nat
  | .drain o => o.seq
  | .reds o => o.seq
def drainRect : DrainItem → Nat × Nat × Nat × Nat
  | .drain o => (o.row, o.d.lines, o.col, o.d.len)
  | .reds o => (o.row, o.rows, o.col, o.cols)

/-- The tile that an operation reads: the one that a later CLEAR FEED has replaced meanwhile, or the current one. -/
def tileOf (s : State) (c seq : Nat) : OldTile :=
  (((coreAt s c).tiles.find? fun t => decide (seq < t.before)).getD
    ⟨0, chnAnchor s c, regFld s (coreReg c 0x200) 2 0, fullCream s c⟩)

/-- Output (i, j) lies in the rectangle of a drain queue's operation. -/
def inRect (d : DrainItem) (i j : Nat) : Bool :=
  let r := drainRect d
  decide (r.1 ≤ i) && decide (i < r.1 + r.2.1) && decide (r.2.2.1 ≤ j) && decide (j < r.2.2.1 + r.2.2.2)

/-- An operation of the drain queue is still to read an entry. -/
def drainReads (s : State) (c : Nat) (d : DrainItem) (k : Nat) : Bool :=
  let j := k % 128
  inRect d (k / 128) (if (tileOf s c (drainSeq d)).fc then j / 4 else j)

/-- An operation issued before number `seq` is still to read an entry. -/
def entryHeld (s : State) (c seq k : Nat) : Bool :=
  (coreAt s c).drainQ.any fun d => decide (drainSeq d < seq) && drainReads s c d k

/-- Output (i, j) of the current tile waits for DRAINs issued before number `seq`. -/
def accHeld (s : State) (c seq : Nat) (fc : Bool) (i j : Nat) : Bool := (accKeys fc i j).any fun k => entryHeld s c seq k

/-- Entries that a CLEAR FEED is to clear are cleared, once no DRAIN before it is still to read them. -/
def settleClears (s : State) (c : Nat) : State :=
  let ready := (coreAt s c).toClear.filter fun e => !entryHeld s c e.2 e.1
  let s1 := ready.foldl (fun s e => putEnt s c e.1 ⟨0, false, false⟩) s
  updCore s1 c fun x => { x with toClear := x.toClear.filter fun e => !ready.contains e }

/-- An operation leaves the drain queue: the entries that it read may be cleared, and tiles that nothing reads are gone. -/
def leaveDrainQ (s : State) (c : Nat) : State :=
  let s1 := settleClears (updCore s c fun x => { x with drainQ := x.drainQ.drop 1 }) c
  updCore s1 c fun x => { x with tiles := x.tiles.filter fun t => x.drainQ.any fun d => decide (drainSeq d < t.before) }

/-- Bits of an accumulator, and the weight of its bit 0 below the anchor. -/
def accBits (fc : Bool) : Nat := if fc then 512 else 128
def accBias (fc : Bool) : Nat := if fc then 489 else 96

/-- The value that a conversion reads from an accumulator (R81, R85). -/
def accNum (fc : Bool) (anchor : Int) (a : Acc) : Num :=
  if a.ovf || a.nan then .nan else (Dy.toNum ⟨a.v, anchor - accBias fc⟩)

/-- An ATB leaves the tile, its anchor and its tile flags undefined (R130). -/
def loseTile (s : State) (c : Nat) : State :=
  let s1 := updCore s c fun x => { x with churn := [] }
  bump (setAnchor (regSetFld s1 (coreReg c 0x200) 3 0 (Config.freeNat s.free 1 % 16)) c
    (signed 16 (Config.freeNat s.free 0)))

end Sys2Proof.Machine
end

