-- ==== Sys2Proof/Machine/TileWords.lean ====
section
/-! DEFINITION. The words of tile-program instructions (R109, Tables 4.7 to 4.19): their encoding, which
words are well formed, and their decoding. -/

namespace Sys2Proof.Machine

/-! ### Field placement -/

/-- A field `v` of `w` bits at bit `lo`. -/
def fld (lo w v : Nat) : Nat := v % 2 ^ w * 2 ^ lo

/-- The field of `w` bits at bit `lo` of a word. -/
def getF (x lo w : Nat) : Nat := x / 2 ^ lo % 2 ^ w

/-- The bits of a flag. -/
def flg (lo : Nat) (b : Bool) : Nat := b2n b * 2 ^ lo

/-- A flag of a word. -/
def getB (x lo : Nat) : Bool := x / 2 ^ lo % 2 == 1

/-! ### Encoding -/

def encScalar (op : Nat) (f : ScalarF) : Nat :=
  fld 56 8 op + fld 51 5 f.d + fld 46 5 f.a + fld 41 5 f.b + fld 32 9 f.fn + fld 0 32 f.imm

def encDma (op : Nat) (f : DmaF) : Nat :=
  fld 56 8 op + fld 51 5 f.a + fld 46 5 f.b + fld 41 5 f.c + fld 39 2 f.ch + fld 33 6 f.evt
    + flg 32 f.mdir + fld 16 16 f.dstride + fld 0 16 f.sstride

/-- The word of an instruction. -/
def encodeTile : TileInstr → Nat
  | .alu f => encScalar 0x01 f
  | .alui f => encScalar 0x02 f
  | .li f => encScalar 0x03 f
  | .lih f => encScalar 0x04 f
  | .ld f => encScalar 0x05 f
  | .sq f => encScalar 0x06 f
  | .br f => encScalar 0x08 f
  | .call f => encScalar 0x09 f
  | .jr f => encScalar 0x0A f
  | .endk => fld 56 8 0x0F
  | .dmv f => encDma 0x10 f
  | .dms f => encDma 0x11 f
  | .dmr f => encDma 0x12 f
  | .dmh f => encDma 0x13 f
  | .fence k => fld 56 8 0x20 + fld 0 8 k
  | .waitc f => fld 56 8 0x22 + fld 51 5 f.m + fld 46 5 f.d + flg 33 f.clr + flg 32 f.any
  | .signal f => fld 56 8 0x23 + fld 51 5 f.a + flg 38 f.release + fld 32 6 f.ev
  | .csrr f => encScalar 0x24 f
  | .csrw f => encScalar 0x25 f
  | .phint i l => fld 56 8 0x26 + fld 28 4 i + fld 0 16 l
  | .tdesc f => fld 56 8 0x30 + fld 52 4 f.t + fld 46 5 f.a + fld 0 32 f.imm
  | .tadj f => fld 56 8 0x31 + fld 52 4 f.t + fld 46 5 f.a + fld 41 5 f.b
  | .feed f =>
    fld 56 8 0x40 + fld 52 4 f.ta + fld 48 4 f.tb + fld 43 5 f.k + fld 38 5 f.x + fld 34 4 f.plan
      + fld 32 2 f.cplx + flg 31 f.accumulate + flg 30 f.fullcream + flg 29 f.explicit + fld 25 4 f.h
  | .drain f =>
    fld 56 8 0x41 + fld 52 4 f.t + fld 47 5 f.p + fld 42 5 f.s + fld 37 5 f.c + fld 32 5 f.w
      + fld 30 2 f.round + flg 29 f.whey + flg 28 f.guard + fld 20 8 f.gslot
  | .reds f =>
    fld 56 8 0x50 + fld 51 5 f.a + fld 46 5 f.tag + fld 42 4 f.t + flg 41 f.churn + fld 38 3 f.efmt
      + fld 33 5 f.p + fld 31 2 f.ch + fld 25 6 f.evt
  | .redw t => fld 56 8 0x51 + fld 51 5 t
  | .vop f =>
    fld 56 8 0x60 + fld 52 4 f.d + fld 48 4 f.a + fld 44 4 f.b + fld 39 5 f.s + fld 33 6 f.fn + flg 32 f.bcast
  | .atb f =>
    fld 56 8 0x70 + fld 52 4 f.q + fld 48 4 f.k + fld 44 4 f.v + fld 40 4 f.o + fld 35 5 f.m
      + fld 30 5 f.mask + fld 28 2 f.pfmt + fld 24 4 f.kind + fld 19 5 f.c

/-! ### Fields a word names -/

def decScalar (x : Nat) : ScalarF := ⟨getF x 51 5, getF x 46 5, getF x 41 5, getF x 32 9, getF x 0 32⟩

def decDma (x : Nat) : DmaF :=
  ⟨getF x 51 5, getF x 46 5, getF x 41 5, getF x 39 2, getF x 33 6, getB x 32, getF x 16 16, getF x 0 16⟩

/-- The instruction of a word by its opcode, its reserved fields not looked at; `none` for a reserved opcode. -/
def fieldsTile (x : Nat) : Option TileInstr :=
  match getF x 56 8 with
  | 0x01 => some (.alu (decScalar x))
  | 0x02 => some (.alui (decScalar x))
  | 0x03 => some (.li (decScalar x))
  | 0x04 => some (.lih (decScalar x))
  | 0x05 => some (.ld (decScalar x))
  | 0x06 => some (.sq (decScalar x))
  | 0x08 => some (.br (decScalar x))
  | 0x09 => some (.call (decScalar x))
  | 0x0A => some (.jr (decScalar x))
  | 0x0F => some .endk
  | 0x10 => some (.dmv (decDma x))
  | 0x11 => some (.dms (decDma x))
  | 0x12 => some (.dmr (decDma x))
  | 0x13 => some (.dmh (decDma x))
  | 0x20 => some (.fence (getF x 0 8))
  | 0x22 => some (.waitc ⟨getF x 51 5, getF x 46 5, getB x 32, getB x 33⟩)
  | 0x23 => some (.signal ⟨getF x 51 5, getF x 32 6, getB x 38⟩)
  | 0x24 => some (.csrr (decScalar x))
  | 0x25 => some (.csrw (decScalar x))
  | 0x26 => some (.phint (getF x 28 4) (getF x 0 16))
  | 0x30 => some (.tdesc ⟨getF x 52 4, getF x 46 5, getF x 0 32⟩)
  | 0x31 => some (.tadj ⟨getF x 52 4, getF x 46 5, getF x 41 5⟩)
  | 0x40 => some (.feed ⟨getF x 52 4, getF x 48 4, getF x 43 5, getF x 38 5, getF x 34 4, getF x 32 2,
      getB x 31, getB x 30, getB x 29, getF x 25 4⟩)
  | 0x41 => some (.drain ⟨getF x 52 4, getF x 47 5, getF x 42 5, getF x 37 5, getF x 32 5, getF x 30 2,
      getB x 29, getB x 28, getF x 20 8⟩)
  | 0x50 => some (.reds ⟨getF x 51 5, getF x 46 5, getF x 42 4, getB x 41, getF x 38 3, getF x 33 5,
      getF x 31 2, getF x 25 6⟩)
  | 0x51 => some (.redw (getF x 51 5))
  | 0x60 => some (.vop ⟨getF x 52 4, getF x 48 4, getF x 44 4, getF x 39 5, getF x 33 6, getB x 32⟩)
  | 0x70 => some (.atb ⟨getF x 52 4, getF x 48 4, getF x 44 4, getF x 40 4, getF x 35 5, getF x 30 5,
      getF x 28 2, getF x 24 4, getF x 19 5⟩)
  | _ => none

/-! ### Reserved values (R109) -/

/-- The values that the encoding tables allow. R110 gives BR no condition for FN above 5 and does not call those values
reserved; that they are refused is the model's choice (log entry 80). -/
def tileAllowed : TileInstr → Bool
  | .alu f | .alui f => decide (f.fn < 16)
  | .br f => decide (f.fn < 6)
  | .csrr f => f.fn == 0 && decide (f.imm < 4096) && f.a == 0 && f.b == 0
  | .csrw f => f.fn == 0 && decide (f.imm < 4096) && f.d == 0 && f.b == 0
  | .dms f => !f.mdir
  | .feed f => decide (f.cplx < 3)
  | .drain f => decide (f.round < 3)
  | .reds f => decide (f.efmt < 4)
  | .vop f => decide (f.fn < 0x11)
  | .atb f => decide (f.pfmt < 3) && decide (f.kind < 5)
  | _ => true

/-- A word's decoding: a reserved opcode, a reserved field that is not zero, or a reserved value is refused. END, like the
other instructions of R110, ignores the fields that it does not use. Bits that FENCE, WAITC, SIGNAL, PHINT, TDESC, TADJ and
REDW do not name are taken as reserved, which is the model's choice (log entry 80). -/
def decodeTile (x : Nat) : Option TileInstr :=
  match fieldsTile x with
  | none => none
  | some i => if (encodeTile i = x || i = .endk) && tileAllowed i then some i else none

end Sys2Proof.Machine
end

