-- ==== Sys2Proof/Machine/RowWords.lean ====
section
/-! DEFINITION. The words of row micro-instructions (R234, Table 8.3). -/

namespace Sys2Proof.Machine

/-- Opcode of a row operation (Table 8.2). -/
def rowOpCode : RowOp → Nat
  | .copy => 1
  | .zero => 2
  | .one => 3
  | .not => 4
  | .xor => 5
  | .and => 6
  | .or => 7
  | .maj3 => 8
  | .recode _ => 9

/-- The CHK bit. -/
def rowChk : RowOp → Bool
  | .recode c => c
  | _ => false

/-- The word of a micro-instruction. -/
def encodeRow : RowInstr → Nat
  | .endp => 0
  | .op o f =>
    fld 28 4 (rowOpCode o) + fld 25 3 f.d + fld 22 3 f.a + fld 19 3 f.b + fld 16 3 f.c + fld 14 2 f.bs
      + flg 13 (rowChk o)
  | .set k i p v => fld 28 4 0xA + flg 27 k + fld 24 3 i + flg 23 p + fld 0 16 v
  | .add i imm => fld 28 4 0xB + fld 24 3 i + fld 0 16 imm
  | .loop i t => fld 28 4 0xC + fld 26 2 i + fld 16 8 t

/-- The micro-instruction of a word by its opcode. -/
def fieldsRow (x : Nat) : Option RowInstr :=
  let f : RowF := ⟨getF x 25 3, getF x 22 3, getF x 19 3, getF x 16 3, getF x 14 2⟩
  match getF x 28 4 with
  | 0x0 => some .endp
  | 0x1 => some (.op .copy f)
  | 0x2 => some (.op .zero f)
  | 0x3 => some (.op .one f)
  | 0x4 => some (.op .not f)
  | 0x5 => some (.op .xor f)
  | 0x6 => some (.op .and f)
  | 0x7 => some (.op .or f)
  | 0x8 => some (.op .maj3 f)
  | 0x9 => some (.op (.recode (getB x 13)) f)
  | 0xA => some (.set (getB x 27) (getF x 24 3) (getB x 23) (getF x 0 16))
  | 0xB => some (.add (getF x 24 3) (getF x 0 16))
  | 0xC => some (.loop (getF x 26 2) (getF x 16 8))
  | _ => none

/-- The register fields that an operation does not use are zero (Table 8.3). -/
def rowAllowed : RowInstr → Bool
  | .op .copy f => f.b == 0 && f.c == 0
  | .op .zero f => f.a == 0 && f.b == 0 && f.c == 0
  | .op .one f => f.a == 0 && f.b == 0 && f.c == 0
  | .op .not f => f.b == 0 && f.c == 0
  | .op .xor f => f.c == 0
  | .op .and f => f.c == 0
  | .op .or f => f.c == 0
  | .op .maj3 _ => true
  | .op (.recode _) f => f.a == 0 && f.b == 0 && f.c == 0
  | .set k i _ _ => !k || decide (i < 4)
  | _ => true

/-- A word's decoding; reserved opcodes and fields are refused. -/
def decodeRow (x : Nat) : Option RowInstr :=
  match fieldsRow x with
  | none => none
  | some i => if encodeRow i = x && rowAllowed i then some i else none

end Sys2Proof.Machine
end

