-- ==== Sys2Proof/Machine/RowMachine.lean ====
section
/-! DEFINITION. The registers and the control flow of a vault's row unit, and the rows that a program writes (R233, R234,
R244). -/

namespace Sys2Proof.Machine

/-! ### Registers and control flow (R233, R234) -/

/-- The rows that an operation reads, by register field. -/
def rowSources (o : RowOp) (p : RowPend) : List Nat := match o with
  | .copy | .not => [p.a]
  | .zero | .one => []
  | .xor | .and | .or => [p.a, p.b]
  | .maj3 => [p.a, p.b, p.c]
  | .recode _ => [p.d]

/-- A ROW_RUN is loaded: registers and counters start at zero. -/
def loadRow (u : RowUnit) (j : RowJob) : RowUnit :=
  { u with
    r := List.replicate 8 0, c := List.replicate 4 0, pc := 0, prog := j.prog, params := j.params, sets := j.sets
    banks := [], job := some (j.queue, j.idx), aborted := false }

/-- The next micro-instruction of a vault's program. -/
def rowNext (u : RowUnit) : Except Halt (Option RowInstr) :=
  if u.job.isNone then .ok none
  else match u.prog[u.pc]? with
    | none => .error (.undefinedCase 41)
    | some w => match decodeRow w.toNat with
      | none => .error (.undefinedCase 41)
      | some i => .ok (some i)

/-- A row register, a loop counter, a parameter word, a bank set. -/
def rowReg (u : RowUnit) (i : Nat) : Nat := (u.r[i]?).getD 0
def rowCtr (u : RowUnit) (i : Nat) : Nat := (u.c[i]?).getD 0
def rowParam (u : RowUnit) (i : Nat) : Nat := (u.params[i]?).getD 0
def rowSet (u : RowUnit) (i : Nat) : Nat := (u.sets[i]?).getD 0

/-- The next micro-instruction follows; the program counter has 8 bits. -/
def rowStep (u : RowUnit) : RowUnit := { u with pc := (u.pc + 1) % 256 }

/-- Bank positions of a bank set. -/
def rowBanks (u : RowUnit) (bs : Nat) : List Nat := bitList (rowSet u bs) 80

/-- The registers that an operation uses hold row numbers. -/
def rowInRange (o : RowOp) (p : RowPend) : Bool := decide (p.d < 3072) && (rowSources o p).all fun r => decide (r < 3072)

/-- SET: a register of 12 bits or a counter of 16 bits takes VAL or a parameter word. -/
def setRow (counter : Bool) (i : Nat) (param : Bool) (val : Nat) (u : RowUnit) : RowUnit :=
  let x := if param then rowParam u (val % 8) else val
  if counter then rowStep { u with c := u.c.set i (x % 2 ^ 16) } else rowStep { u with r := u.r.set i (x % 2 ^ 12) }

/-- ADD: the register becomes register + IMM. -/
def addRowReg (i imm : Nat) (u : RowUnit) : RowUnit :=
  rowStep { u with r := u.r.set i (unsigned 12 ((rowReg u i : Int) + signed 16 imm)) }

/-- LOOP: a counter that is not 0 is decremented and control passes to T. -/
def loopRow (i target : Nat) (u : RowUnit) : RowUnit :=
  if rowCtr u i = 0 then rowStep u else { u with c := u.c.set i (rowCtr u i - 1), pc := target }

/-! ### Destination rows (R244) -/

/-- A row of one bank position, as a number. -/
def rowNo (bl row : Nat) : Nat := bl * 3072 + row

/-- What issuing a row operation would write: its row in every bank of its set. -/
def rowWrites (u : RowUnit) (f : RowF) : List Nat := (rowBanks u f.bs).map fun bl => rowNo bl (rowReg u f.d)

/-- Destination rows of the micro-instructions that a program goes through in at most `n` of them, and whether it came to
its end. -/
def rowWalk : Nat → RowUnit → List Nat → List Nat × Bool
  | 0, _, acc => (acc, false)
  | n + 1, u, acc => match rowNext u with
    | .error _ => (acc, true)
    | .ok none => (acc, true)
    | .ok (some i) => match i with
      | .op _ f => rowWalk n (rowStep u) (acc ++ (rowWrites u f).filter fun k => !acc.contains k)
      | .set c k p v => rowWalk n (setRow c k p v u) acc
      | .add k imm => rowWalk n (addRowReg k imm u) acc
      | .loop k t => rowWalk n (loopRow k t u) acc
      | .endp => (acc, true)

/-- Every row of the banks of a program's sets. -/
def allRows (j : RowJob) : List Nat :=
  (List.range 80).flatMap fun bl =>
    if j.sets.any fun b => bit b bl then (List.range 3072).map (rowNo bl) else []

/-- The destination rows of a program (R244): those it writes on its way to END; of a program with more than 2²⁰
micro-instructions on its way, every row that it could name. -/
def rowDests (j : RowJob) : List Nat :=
  let r := rowWalk (2 ^ 20) (loadRow RowUnit.reset j) []
  if r.2 then r.1 else allRows j

end Sys2Proof.Machine
end

