-- ==== Sys2Proof/Machine/CoreOps.lean ====
section
/-! DEFINITION. Starting, ending and stopping kernels on cores (R101 to R104), and what a stop discards in
a core, in the queues of its stop and in a vault's row unit. -/

namespace Sys2Proof.Machine

/-! ### Cores -/

/-- The data of a packet of an aborted kernel are undefined (R104). -/
def freeData (s : State) (p : Packet) : Packet :=
  { p with data := (List.range p.data.length).map fun i => Config.freeByte s.free i, owner := if p.ty == .msg then p.owner else none }

/-- What stays of a stop's queue when its core stops: its packets that are in the dual-clock queue, which loses nothing
(R31), and those of others. A SIGNAL that waits for earlier writes, and what the full queue held back, is discarded. -/
def keptPackets (s : State) (c ring : Nat) : List Packet :=
  let mine (p : Packet) : Bool := match p.owner with
    | some (o, _) => o == c
    | none => false
  let held := atStop s (coreStop c) ring
  ((injectQ s (coreStop c) ring).filter fun p => !mine p || (held.contains p && p.release.isNone)).map fun p =>
    if mine p then freeData s p else p

/-- Operations that a core has formed and not yet sent are discarded; its reads in flight are no longer waited for. The 32
requests of its shaft's queue stay, those held behind them do not. -/
def dropOwned (s : State) (c : Nat) : State :=
  let waits (o : OutReq) : Bool := match o with
    | .dma o _ _ _ _ _ _ => o == c
    | .signal o _ => o == c
    | .host o _ _ _ _ _ _ => o == c
    | .remote o _ => o == c
    | _ => false
  let s1 := [0, 1, 2, 3].foldl (fun t k => setInjectQ t (coreStop c) k (keptPackets s c k)) s
  let s2 := { s1 with rings := { s1.rings with out := s1.rings.out.filter fun e => !waits e.2 } }
  bump (updVault s2 c fun v => { v with shaftQ := (v.shaftQ.take 32).map fun r =>
    { r with data := (List.range r.data.length).map fun i => Config.freeByte s.free i } })

/-- A core stops under R104: nothing more issues, queued operations are discarded, and what the kernel was
forming is undefined. -/
def haltCore (s : State) (c : Nat) : State :=
  dropOwned (updCore s c fun x =>
    { x with
      running := false, owner := none, feedQ := [], feedRun := none, cells := [], churn := [], tiles := [], toClear := [], order := [],
      drainQ := [], drainWait := none, vopQ := [], dma := [], outgoing := [], step := none }) c

/-- A core's logic is reset (R464): its kernel image, registers, masks and tile state are lost; the parts
held in its ring stop, its counters and the sticky flags of CHN_STATUS, which only software clears (R51), are not. -/
def resetCoreLogic (s : State) (c : Nat) : State :=
  let x := coreAt s c
  let s1 := setCore s c { CoreSt.reset with events := x.events, tags := x.tags, heldTags := x.heldTags }
  let s2 := regSetFld s1 (coreReg c 0x200) 7 0 (regReset (coreReg c 0x200) % 2 ^ 8)
  [0x108, 0x110, 0x118, 0x120, 0x208].foldl (fun s o => regSet s (coreReg c o) (regReset (coreReg c o))) s2

/-- A core has finished its part of an item: when no core of the item is left, the item ends (R103). -/
def coreDone (s : State) (c : Nat) : State :=
  match (coreAt s c).owner with
  | none => s
  | some (q, idx) =>
    let s1 := updItem s q idx fun i => { i with runCores := i.runCores.filter (· ≠ c) }
    match itemAt s1 q idx with
    | some i =>
      if i.phase = .running ∧ i.runCores.isEmpty ∧ i.waitCores.isEmpty then endItem s1 q idx stOk else s1
    | none => s1

/-- A core has no kernel, FEED, DRAIN or DMA (R68: CORE_STATUS bits [3:0] are 0). -/
def coreIdle (x : CoreSt) : Bool :=
  !x.running && x.feedQ.isEmpty && x.feedRun.isNone && x.drainQ.isEmpty && x.drainWait.isNone
    && x.dma.all fun e => e.2.isEmpty

/-! ### Row programs (R244) -/

/-- A vault's program stops at the next micro-instruction: queued operations are discarded. -/
def stopRow (s : State) (v : Nat) : State := updRow s v fun r => { r with job := none, banks := [], aborted := true }

/-- A row of a vault holds undefined data and undefined check bits. -/
def loseRow (v : Nat) (s : State) (k : Nat) : State :=
  let base := vaultKey v (rowOff (k / 3072) (k % 3072))
  { s with
    mem := eraseBytes s.mem base 2048
    marks := (List.range 64).foldl (fun m i => FMap.set m (base + 32 * i) Mark.badCheck) s.marks }

/-- Every destination row of a ROW_RUN's program is lost, in every vault of its set. -/
def loseRows (s : State) (i : Item) : State := match i.rows with
  | none => s
  | some (j, vs) => vs.foldl (fun s v => (rowDests j).foldl (loseRow v) s) s

/-- A stopped item leaves the vaults it runs on or waits for. -/
def stopRows (s : State) (q idx : Nat) : State :=
  (List.range 1024).foldl (fun s v =>
    match FMap.find s.vaults v with
    | none => s
    | some x =>
      let s1 := if x.row.job = some (q, idx) then stopRow s v else s
      updRow s1 v fun r => { r with waiting := r.waiting.filter fun w => !(w.queue = q && w.idx = idx) }) s

/-! ### Ranges -/

/-- A range of device addresses becomes undefined. -/
def undefRange (s : State) (a n : Nat) : State :=
  (packets a n).foldl (fun s p =>
    match resolve s p.1 with
    | .vault v off => undefMem s 32 (vaultKey v off) p.2
    | .sram c off => undefMem s 16 (sramKey c off) p.2
    | .host bus => undefMem s 1 (hostKey bus) p.2
    | _ => s) s

end Sys2Proof.Machine
end

