-- ==== Sys2Proof/Machine/Order.lean ====
section
/-! DEFINITION. The order of a core's SRAM accesses (R140, R141, R151): what an operation reads and writes, and the
pairs that nothing orders. -/

namespace Sys2Proof.Machine

/-- The bit of FENCE's KINDS that selects a unit's operations (R136). -/
def unitKind : TileUnit → Nat
  | .dma ch => ch
  | .feed => 4
  | .drain => 5
  | .vector => 6
  | .reds ch => ch

/-- The case of an access to SRAM that an earlier operation of the core leaves unordered (R141): it reads or writes
what the earlier one writes, or writes what the earlier one still reads. Operations of one queue or channel run in
order (R140), but no ATB's output is ordered without a FENCE (R151). -/
def unordered (x : CoreSt) (unit : Option TileUnit) (reads writes : List (Nat × Nat)) : Option Nat :=
  x.order.findSome? fun e =>
    let same := unit == some e.unit
    if same && !e.atb then none
    else if meetAny e.writes (reads ++ writes) then some 22
    else if !same && opLive x e.seq && meetAny e.reads writes then
      some (if e.unit = .feed ∧ !e.atb then 6 else 22)
    else none

/-- The control processor reads or writes SRAM itself. -/
def ownAccess (s : State) (c : Nat) (reads writes : List (Nat × Nat)) : Except Halt State :=
  match unordered (coreAt s c) none reads writes with
  | some k => .error (.undefinedCase k)
  | none => .ok s

/-- An operation issues: it meets no unordered access of an earlier one, and later ones have it to wait for. An
operation that has completed and wrote nothing is no longer kept. -/
def orderOp (s : State) (c : Nat) (a : Access) : Except Halt State :=
  match unordered (coreAt s c) (some a.unit) a.reads a.writes with
  | some k => .error (.undefinedCase k)
  | none => .ok (updCore s c fun x =>
      { x with order := (x.order.filter fun e => !e.writes.isEmpty || opLive x e.seq) ++ [a] })

/-- FENCE has ordered every operation of the kinds that it selects. -/
def fenceOrders (s : State) (c kinds : Nat) : State :=
  updCore s c fun x => { x with order := x.order.filter fun a => !bit kinds (unitKind a.unit) }

/-- WAITC has ordered the completed operations whose event bits it found set. -/
def waitOrders (s : State) (c bits : Nat) : State :=
  updCore s c fun x => { x with order := x.order.filter fun a => match a.evt with
    | some e => !bit bits e || opLive x a.seq
    | none => true }

end Sys2Proof.Machine
end

