-- ==== Sys2Proof/Machine/Arbitration.lean ====
section
/-! DEFINITION. Deficit round robin, as the queue engine and the ring stops use it (R258, R298). -/

namespace Sys2Proof.Machine

/-- One contender: its number, the entries of its item, its weight. -/
abbrev Contender := Nat × Nat × Nat

/-- The first contender above a number, or the first of all. -/
def nextAfter (cs : List Contender) (cur : Nat) : Option Contender :=
  match cs.find? fun c => decide (cur < c.1) with
  | some c => some c
  | none => cs.head?

/-- Deficit round robin: the contender that is served last goes on while its deficit lasts; the next one gains
its weight when its turn comes. -/
def drr : Nat → List Contender → FMap Nat → Nat → Option (Nat × FMap Nat)
  | 0, _, _, _ => none
  | fuel + 1, cs, def_, cur =>
    match cs.find? (fun c => c.1 = cur && decide (c.2.1 ≤ FMap.getD def_ c.1 0)) with
    | some c => some (c.1, FMap.set def_ c.1 (FMap.getD def_ c.1 0 - c.2.1))
    | none => match nextAfter cs cur with
      | none => none
      | some c => drr fuel cs (FMap.set def_ c.1 (FMap.getD def_ c.1 0 + max 1 c.2.2)) c.1

/-- Deficits of contenders only: a queue or class with nothing to serve keeps none. -/
def keepDef (cs : List Contender) (d : FMap Nat) : FMap Nat := d.filter fun e => cs.any fun c => c.1 = e.1

end Sys2Proof.Machine
end

