-- ==== Sys2Proof/Machine/PageOps.lean ====
section
/-! DEFINITION. What the page units do to counts, free lists, page tables and page data (R156 to R166):
the operations that PAGE_OP, TILLER_LOOKUP, the steps of the guard and GUARD_CONFIG share. -/

namespace Sys2Proof.Machine

/-- The page ID of an index of a global vault. -/
def pageId (v i : Nat) : Nat := v * 2 ^ 22 + i

/-- A page ID that its unit accepts: a vault in service, an index below the latched COUNT (R160). -/
def pageValid (s : State) (p : Nat) : Bool :=
  vaultInService s (pageVault p) && decide (pageIndex p < (unitAt s (pageSheaf p)).count)

/-- The state with a page's reference count set; a page at zero is on its vault's free list. -/
def setRefCount (s : State) (p n : Nat) : State :=
  let u := unitAt s (pageSheaf p)
  setUnit s (pageSheaf p)
    { u with refs := if n = 0 then FMap.drop u.refs (pageKey p) else FMap.set u.refs (pageKey p) n }

/-- One reference more. -/
def addRef (s : State) (p : Nat) : State := setRefCount s p (refCount s p + 1)

/-- One reference less; a count of zero stays zero (R161). -/
def dropRef (s : State) (p : Nat) : State := setRefCount s p (refCount s p - 1)

/-- STALE or INIT_BUSY of a sheaf (R159). -/
def pageUnitDown (s : State) (h : Nat) : Bool :=
  bit (regGet s (pguReg h 0x10)) 2 || bit (regGet s (pguReg h 0x10)) 0

/-- Every page unit has been initialised, and none lost a vault's share since (R158, R388). -/
def unitsTogether (s : State) : Bool := (sheaves.all fun h => !pageUnitDown s h) && s.pages.lost.isEmpty

/-- In-service MEMORY-mode vaults of a sheaf, as local numbers from `from` with wrap (R162, R225). -/
def poolVaults (s : State) (h frm : Nat) : List Nat :=
  ((List.range 128).map fun i => (frm + i) % 128).filter fun l =>
    vaultInService s (h * 128 + l) && !processorMode s (h * 128 + l)

/-- Indices in use in one vault's pool, ascending. -/
def usedPages (s : State) (v : Nat) : List Nat :=
  ((unitAt s (v / 128)).refs.map (·.1)).filterMap fun k =>
    if k / 2 ^ 22 = v % 128 then some (k % 2 ^ 22) else none

/-- Free pages of one vault's pool. -/
def freeIn (s : State) (v : Nat) : Nat := (unitAt s (v / 128)).count - (usedPages s v).length

/-- Free pages that a command can take in a sheaf (R161, R225). -/
def freePages (s : State) (h : Nat) : Nat :=
  ((poolVaults s h 0).map fun l => freeIn s (h * 128 + l)).foldl (· + ·) 0

/-- PGU_STATUS.FREE: free pages in all pools of the sheaf. -/
def freeAll (s : State) (h : Nat) : Nat :=
  (((List.range 128).filter fun l => vaultInService s (h * 128 + l)).map
    fun l => freeIn s (h * 128 + l)).foldl (· + ·) 0

/-- The `k`-th number that an ascending list does not hold. -/
def skipUsed : List Nat → Nat → Nat
  | [], k => k
  | u :: us, k => if u ≤ k then skipUsed us (k + 1) else k

/-- A free index of a vault's pool among those congruent to `r` modulo `m`: which one is open (R162). -/
def pickFree (s : State) (v r m : Nat) : Option Nat :=
  let n := (unitAt s (v / 128)).count
  let slots := if r < n then (n - r + m - 1) / m else 0
  let used := (usedPages s v).filterMap fun i => if i % m = r then some ((i - r) / m) else none
  if used.length < slots then
    some (r + m * skipUsed used (Config.choose s.free v % (slots - used.length)))
  else none

/-- ALLOC's choice: VHINT first, then ascending with wrap (R162). -/
def pickAlloc (s : State) (h hint : Nat) : Option Nat :=
  (poolVaults s h hint).findSome? fun l => (pickFree s (h * 128 + l) 0 1).map (pageId (h * 128 + l))

/-- Pages whose first units are congruent modulo 80 have indices congruent modulo this (R162, R198). -/
def rowPeriod (slot : Nat) : Nat := 80 / Nat.gcd 80 slot

/-- COW's choice for a page (R162). -/
def pickCow (s : State) (p : Nat) : Option Nat :=
  let v := pageVault p
  let m := rowPeriod (unitAt s (pageSheaf p)).slot
  if processorMode s v then pickAlloc s (pageSheaf p) (v % 128)
  else match pickFree s v (pageIndex p % m) m with
    | some i => some (pageId v i)
    | none => match pickFree s v 0 1 with
      | some i => some (pageId v i)
      | none => pickAlloc s (pageSheaf p) (v % 128)

/-- A chosen page is taken: count 1; the data that its units held are kept or undefined by the caller. -/
def takePage (s : State) (p : Nat) : State := bump (setRefCount s p 1)

/-- A page's data become undefined until written (R164). -/
def undefPage (s : State) (p : Nat) : State :=
  undefMem s 32 (vaultKey (pageVault p) (pageOff s p)) ((unitAt s (pageSheaf p)).slot * 2048)

/-! ### Copying a page (R163) -/

/-- The marks of a range of words moved to another place. -/
def moveMarks (m : FMap Mark) (src dst n : Nat) : FMap Mark :=
  (m.filter fun e => decide (src ≤ e.1) && decide (e.1 < src + n)).foldl
    (fun m' e => FMap.set m' (e.1 - src + dst) e.2) (clearMarks m 32 dst n)

/-- The bytes that are listed in a range, moved to another place; unlisted ones become unlisted there. -/
def moveBytes (m : List Host.Cell) (src dst n : Nat) : List Host.Cell :=
  (m.filter fun e => decide (src ≤ e.1) && decide (e.1 < src + n)).foldl
    (fun m' e => FMap.set m' (e.1 - src + dst) e.2) (eraseBytes m dst n)

/-- A row clone within one bank: data, check bits, latent errors and poison markers as stored (R214). -/
def cloneRow (s : State) (src dst : Nat) : State :=
  { s with mem := moveBytes s.mem src dst 2048, marks := moveMarks s.marks src dst 2048 }

/-- Data that come from a row that a program wrote and no fence has made visible are undefined (R242). -/
def hideUnfenced (s : State) (vs os vd od n : Nat) : State :=
  if (vaultAt s vs).row.unfenced.contains (rowKey os) then undefMem s 32 (vaultKey vd od) n else s

/-- A unit of a page copied by a row clone in its bank. -/
def cloneUnit (s : State) (v os od : Nat) : Except Halt State := do
  let s0 ← vaultFree s v os 2048 false
  let s1 ← vaultFree s0 v od 2048 true
  let s2 := hideUnfenced (cloneRow s1 (vaultKey v os) (vaultKey v od)) v os v od 2048
  .ok (count (closeMerges s2 v od 2048) (vltCtr v 2) 2)

/-- One 2 KiB unit copied by the page unit's DMA, packet by packet, over the rings of its stop (R163, R252). -/
def dmaUnit (stop : Option Nat) (s : State) (vs os vd od : Nat) : Except Halt State :=
  (List.range 8).foldlM (fun s i => do
    let o := os + 256 * i
    let d := od + 256 * i
    let s0 ← vaultFree (countXfer s stop (vaultAddr vs o)) vs o 256 false
    let (_, p, s1) ← readVaultAs s0 vs o 256 3
    let s1 ← vaultFree (countXfer s1 stop (vaultAddr vd d)) vd d 256 true
    let s2 := { s1 with
      mem := moveBytes s1.mem (vaultKey vs o) (vaultKey vd d) 256
      marks := clearMarks s1.marks 32 (vaultKey vd d) 256 }
    let s3 := hideUnfenced (if p then undefMem s2 32 (vaultKey vd d) 256 else s2) vs o vd d 256
    if processorMode s vd then .error (.undefinedCase 27) else .ok (count (closeMerges s3 vd d 256) (vltCtr vd 1) 8)) s

/-- A page's units copied into another page. -/
def copyPage (stop : Option Nat) (s : State) (p q : Nat) : Except Halt State :=
  let vs := pageVault p
  let vd := pageVault q
  let os := pageOff s p
  let od := pageOff s q
  if processorMode s vs || processorMode s vd then .error (.undefinedCase 27)
  else
    (List.range (unitAt s (pageSheaf p)).slot).foldlM (fun s u =>
      if vs = vd ∧ (os / 2048 + u) % 80 = (od / 2048 + u) % 80 then cloneUnit s vs (os + 2048 * u) (od + 2048 * u)
      else dmaUnit stop s vs (os + 2048 * u) vd (od + 2048 * u)) s

/-! ### Page tables -/

/-- Bytes written inside one code word of a vault by whole-word read-modify-write (R165). -/
def mergeVault (s : State) (v off : Nat) (bs : List Byte) : Except Halt State :=
  match keptByUnit s v off bs.length with
  | some k => .error (.undefinedCase k)
  | none => do
    let s0 ← vaultFree s v (off / 32 * 32) 32 true
    let (_, _, s1) ← readVault s0 v (off / 32 * 32) 32
    .ok (count (closeMerges { s1 with
      mem := storeBytes s1.mem (vaultKey v off) bs
      marks := clearMarks s1.marks 32 (vaultKey v off) bs.length } v off bs.length) (vltCtr v 1) 1)

/-- A table entry is written by the agent of a stop. -/
def putEntry (stop : Option Nat) (s : State) (a p : Nat) : Except Halt State :=
  match resolve s a with
  | .vault v off => mergeVault (countXfer s stop a) v off (leBytes 4 p)
  | .none k => .error (.undefinedCase k)
  | _ => .error (.undefinedCase 48)

/-- A table entry is read by the agent of a stop. -/
def getEntry (stop : Option Nat) (s : State) (a : Nat) : Except Halt (Nat × State) :=
  match resolve s a with
  | .vault _ _ => do
    let (bs, _, s1) ← stopRead s stop a 4
    return (leNat bs, s1)
  | .none k => .error (.undefinedCase k)
  | _ => .error (.undefinedCase 48)

/-- The first `n` entries of a table. -/
def getEntries (stop : Option Nat) : Nat → State → Nat → Except Halt (List Nat × State)
  | 0, s, _ => .ok ([], s)
  | n + 1, s, a => do
    let (p, s1) ← getEntry stop s a
    let (ps, s2) ← getEntries stop n s1 (a + 4)
    return (p :: ps, s2)

/-- Pages that a table names. -/
def pagesOf (es : List Nat) : List Nat := es.filter (· ≠ noPage)

/-- How often a list holds a value. -/
def tally (l : List Nat) (x : Nat) : Nat := (l.filter (· = x)).length

end Sys2Proof.Machine
end

