-- ==== Sys2Proof/Machine/StepOps.lean ====
section
/-! DEFINITION. What the numerics guard does to a step (R174 to R194): its regions and shadows, its slots,
the evaluation, commit, replay, hold and discard. -/

namespace Sys2Proof.Machine

/-! ### Registers of a slot (Table 6.8) -/

/-- A slot is enabled; it is held by a step. -/
def slotOn (s : State) (n : Nat) : Bool := bit (regGet s (slotReg n 0)) 0
def slotHeld (s : State) (n : Nat) : Bool := bit (regGet s (slotReg n 0x30)) 0

/-- The WARM bit follows EVALS and WARMUP (R178). -/
def fixWarm (s : State) (n : Nat) : State :=
  regFlag s (slotReg n 0x30) 1 (decide (regFld s (slotReg n 0x28) 63 32 < regFld s (slotReg n 0) 23 16))

/-- A slot takes a step's queue and is held. -/
def holdSlot (s : State) (q n : Nat) : State :=
  regSetFld (regFlag s (slotReg n 0x30) 0 true) (slotReg n 0x30) 31 16 q

/-- A slot is released: its QUEUE field is valid only while it is held, so what it shows is a free value. -/
def releaseSlot (s : State) (n : Nat) : State :=
  bump (regSetFld (regFlag s (slotReg n 0x30) 0 false) (slotReg n 0x30) 31 16 (Config.choose s.free n))

/-- A slot's step accumulators are cleared. -/
def clearSlot (s : State) (n : Nat) : State :=
  setSlot s n { slotAt s n with
    sumsq := 0, amax := 0, nonfinite := 0, overflow := false, underspill := false, fcrange := false }

/-! ### Scale records (Table 6.5) -/

/-- The guard reads a slot's scale record. -/
def readScale (s : State) (n : Nat) : Except Halt State := do
  let (bs, _, s1) ← devRead s (regFld s (slotReg n 0x10) 55 0) 32
  .ok (setSlot s1 n { slotAt s1 n with scale :=
    { exp := signed 16 (fieldAt bs 0 2), flag := bit (fieldAt bs 2 1) 0, attempt := fieldAt bs 3 1,
      amax := fieldAt bs 4 4, stepid := fieldAt bs 8 4 } })

/-- The guard writes its copy of a slot's scale record back as one code word; what holds other agents off the record while the
slot is held does not hold the guard. -/
def writeScale (s : State) (n : Nat) : Except Halt State := do
  let c := (slotAt s n).scale
  let s1 ← devWrite { s with guard := { s.guard with steps := [] } } (regFld s (slotReg n 0x10) 55 0)
    (leBytes 2 (unsigned 16 c.exp) ++ leBytes 1 (b2n c.flag) ++ leBytes 1 c.attempt ++ leBytes 4 c.amax
      ++ leBytes 4 c.stepid ++ zeros 20)
  .ok { s1 with guard := s.guard }

/-! ### Regions and shadows -/

/-- A region descriptor of 32 bytes (Table 6.3). -/
def parseRegion (bs : List Byte) : Region where
  live := fieldAt bs 0 8
  work := fieldAt bs 8 8
  count := fieldAt bs 16 2
  sheaf := fieldAt bs 18 1
  copy := bit (fieldAt bs 19 1) 0

/-- The region descriptors of a STEP_BEGIN. -/
def readRegions (s : State) (a n : Nat) : Except Halt (List Region × State) := do
  let (bs, _, s1) ← devRead s a (32 * n)
  return ((List.range n).map fun i => parseRegion (slice bs (32 * i) 32), s1)

/-- LIVE pages of a region. -/
def livePages (s : State) (r : Region) : Except Halt (List Nat × State) := getEntries (some (pageStop r.sheaf)) r.count s r.live

/-- One entry of a region takes its shadow (R181, steps 2 to 5). -/
def takeShadow (r : Region) (s : State) (n : Nat) : Except Halt State := do
  let (p, s1) ← getEntry (some (pageStop r.sheaf)) s (r.live + 4 * n)
  if p = noPage then putEntry (some (pageStop r.sheaf)) s1 (r.work + 4 * n) noPage
  else if !(pageValid s1 p && pageSheaf p == r.sheaf) then .error (.undefinedCase 26)
  else match pickCow s1 p with
    | none => .ok s1
    | some w =>
      let s2 := takePage s1 w
      let s3 ← if r.copy then copyPage (some (pageStop r.sheaf)) s2 p w else .ok (undefPage s2 w)
      putEntry (some (pageStop r.sheaf)) s3 (r.work + 4 * n) w

/-- A function of the state runs over every entry of every region. -/
def overRegions (s : State) (rs : List Region) (f : Region → State → Nat → Except Halt State) :
    Except Halt State :=
  rs.foldlM (fun s r => (List.range r.count).foldlM (f r) s) s

/-- A commit of one entry (R186). -/
def commitEntry (r : Region) (s : State) (n : Nat) : Except Halt State := do
  let (w, s1) ← getEntry (some (pageStop r.sheaf)) s (r.work + 4 * n)
  if w = noPage then .ok s1
  else
    let (p, s2) ← getEntry (some (pageStop r.sheaf)) s1 (r.live + 4 * n)
    let s3 ← putEntry (some (pageStop r.sheaf)) s2 (r.live + 4 * n) w
    putEntry (some (pageStop r.sheaf)) (if p = noPage then s3 else dropRef s3 p) (r.work + 4 * n) noPage

/-- A discard of one entry: its shadow returns to its vault's free list (R188, R190). -/
def discardEntry (r : Region) (s : State) (n : Nat) : Except Halt State := do
  let (w, s1) ← getEntry (some (pageStop r.sheaf)) s (r.work + 4 * n)
  if w = noPage then .ok s1 else putEntry (some (pageStop r.sheaf)) (setRefCount s1 w 0) (r.work + 4 * n) noPage

/-- A replay of one entry: the live page is copied again, or the shadow is undefined (R187). -/
def replayEntry (r : Region) (s : State) (n : Nat) : Except Halt State := do
  let (w, s1) ← getEntry (some (pageStop r.sheaf)) s (r.work + 4 * n)
  if w = noPage then .ok s1
  else
    let (p, s2) ← getEntry (some (pageStop r.sheaf)) s1 (r.live + 4 * n)
    if r.copy && p ≠ noPage then copyPage (some (pageStop r.sheaf)) s2 p w else .ok (undefPage s2 w)

/-! ### Steps -/

/-- The open or held step of a queue. -/
def stepAt (s : State) (q : Nat) : Option Step := FMap.find s.guard.steps q

/-- The state with a queue's step changed. -/
def setStep (s : State) (q : Nat) (st : Step) : State :=
  { s with guard := { s.guard with steps := FMap.set s.guard.steps q st } }

/-- The state without a queue's step. -/
def dropStep (s : State) (q : Nat) : State :=
  { s with guard := { s.guard with steps := FMap.drop s.guard.steps q } }

/-- An entry index lies in a step after its STEP_BEGIN (R179). -/
def inStep (depth : Nat) (st : Step) (idx : Nat) : Bool :=
  let k := (idx + depth - st.beginIdx) % depth
  decide (0 < k) && decide (k < st.entries)

/-- An item belongs to a queue's step: by its place, or, beyond ENTRIES, because it was dispatched while the step
was open still (R184). -/
def ofStep (depth : Nat) (st : Step) (i : Item) : Bool :=
  inStep depth st i.idx || (i.inStep && i.phase != .recorded)

/-- The items of a queue's step after its STEP_BEGIN, in queue order. -/
def stepItems (s : State) (q : Nat) (st : Step) : List Item :=
  (queueAt s q).items.filter (ofStep (qDepth (queueAt s q)) st)

/-- The slots of a step are released. -/
def releaseSlots (s : State) (st : Step) : State := st.slots.foldl releaseSlot s

/-- A step is gone: its slots are released, the completion slots that no item took are given back. -/
def closeStep (s : State) (q : Nat) (st : Step) : State :=
  dropStep (freeSlots (releaseSlots s st) q st.reserved) q

/-- A step's shadows are discarded and the step is gone; its records are the caller's (R188, R190). -/
def discardStep (s : State) (q : Nat) (st : Step) : Except Halt State := do
  let s1 ← overRegions s st.regions discardEntry
  .ok (closeStep s1 q st)

/-! ### Evaluation (R177, R178) -/

/-- Integer square root by bits. -/
def isqrt : Nat → Nat → Nat → Nat
  | 0, _, r => r
  | b + 1, n, r => if (r + 2 ^ b) * (r + 2 ^ b) ≤ n then isqrt b n (r + 2 ^ b) else isqrt b n r

/-- The norm: the square root of a sum of squares in units of 2⁻²⁹⁸, rounded once to FP64. -/
def normOf (sumsq : Nat) : Nat :=
  let n := sumsq * 2 ^ 128
  let r := isqrt 384 n 0
  roundFp fp64 .rne (.fin false (2 * r + b2n (r * r ≠ n)) (-149 - 64 - 1))

/-- `x < y` for two FP64 values that are not NaN. -/
def numLt (x y : Num) : Bool :=
  match x, y with
  | .nan, _ => false
  | _, .nan => false
  | .fin a m e, .fin b n f => Dy.lt (Num.toDy (.fin a m e)) (Num.toDy (.fin b n f))
  | _, _ => !(numLe y x)

/-- A FP64 product and sum, each rounded to nearest even. -/
def mul64 (x y : Num) : Num := decodeFp fp64 (roundFp fp64 .rne (numMul x y))
def addF64 (x y : Num) : Num := decodeFp fp64 (roundFp fp64 .rne (numAdd x y))

/-- Causes of Table 6.1 for a slot: bits HI, LO, NF, OVF, FCR. -/
def slotCauses (s : State) (n : Nat) : Nat :=
  let a := slotAt s n
  let cfg := regGet s (slotReg n 0)
  let norm := decodeFp fp64 (normOf a.sumsq)
  let ema := decodeFp fp64 (regGet s (slotReg n 0x20))
  let hi := of32 (regFld s (slotReg n 8) 31 0)
  let lo := of32 (regFld s (slotReg n 8) 63 32)
  let ratio := a.hasEma && decide (bits cfg 23 16 ≤ regFld s (slotReg n 0x28) 63 32)
  b2n (ratio && numLt (mul64 hi ema) norm)
    + 2 * b2n (ratio && bit cfg 2 && numLt (mul64 norm lo) ema)
    + 4 * b2n (decide (a.nonfinite > 0)) + 8 * b2n a.overflow + 16 * b2n (bit cfg 3 && a.fcrange)

/-- A slot is evaluated: SNORM, SAMAX and SSTAT show it, and the copy of its scale record follows. -/
def evalSlot (st : Step) (s : State) (n : Nat) : State :=
  let a := slotAt s n
  let cause := slotCauses s n
  let s1 := regSet s (slotReg n 0x18) (normOf a.sumsq)
  let s2 := regSetFld s1 (slotReg n 0x28) 31 0 a.amax
  let s3 := regSetFld s2 (slotReg n 0x30) 9 4 (cause + 32 * b2n a.underspill)
  setSlot s3 n { a with scale := { a.scale with attempt := st.attempt, amax := a.amax, stepid := st.stepid } }

/-- Causes of a slot's last evaluation. -/
def lastCauses (s : State) (n : Nat) : Nat := regFld s (slotReg n 0x30) 8 4

/-- EXP at a replay (R191), if the replay sets it: `prev` the copy's EXP, `amax` an FP32 magnitude. -/
def replayExp (prev : Int) (amax cause : Nat) : Option Int :=
  let bad := bit cause 2 || bit cause 3
  if amax > 0 then
    let e := (of32 amax).toDy.log2 + 2
    some (if bad then max e (prev + 2) else e)
  else if bad then some (prev + 2) else none

/-- The copy of a DYN slot's scale record at a replay. -/
def replayScale (s : State) (n : Nat) : State :=
  if !bit (regGet s (slotReg n 0)) 4 then s
  else
    let a := slotAt s n
    match replayExp a.scale.exp a.amax (lastCauses s n) with
    | none => s
    | some e => setSlot s n { a with scale := { a.scale with exp := signed 16 (unsigned 16 e), flag := true } }

/-- A trip record is written, or dropped (R194). -/
def tripRecord (q : Nat) (st : Step) (action : Nat) (s : State) (n : Nat) : Except Halt State :=
  let entries := regFld s (hubReg 0x40028) 31 0
  let tail := regFld s (hubReg 0x40030) 15 0
  let next := if entries = 0 then 0 else (tail + 1) % entries
  if entries = 0 ∨ next = regFld s (hubReg 0x40038) 15 0 then
    .ok (event s (hubReg 0x40010) 9 (hubReg 0x40040))
  else do
    let s1 ← devWrite s (regFld s (hubReg 0x40020) 55 0 + 32 * tail)
      (leBytes 4 st.stepid ++ leBytes 2 q ++ leBytes 1 n ++ leBytes 1 (lastCauses s n + action)
        ++ leBytes 8 (regGet s (slotReg n 0x18)) ++ leBytes 8 (regGet s (slotReg n 0x20))
        ++ leBytes 4 (slotAt s n).amax ++ leBytes 1 st.attempt ++ zeros 3)
    .ok (msix (regSetFld s1 (hubReg 0x40030) 15 0 next) (regFld s (hubReg 0x40028) 42 32))

/-! ### Commit, replay, hold (R185 to R189) -/

/-- EMA and EVALS at a commit, from the last evaluation's norm (R178). -/
def commitSlot (s : State) (n : Nat) : State :=
  let norm := regGet s (slotReg n 0x18)
  let ema := regGet s (slotReg n 0x20)
  let alpha := regFld s (slotReg n 0) 11 8
  let x := decodeFp fp64 norm
  let e := decodeFp fp64 ema
  let next := if (slotAt s n).hasEma then
      roundFp fp64 .rne (numAdd e (mul64 (addF64 x (numNeg e)) (.fin false 1 (-alpha))))
    else norm
  let evals := regFld s (slotReg n 0x28) 63 32
  let s1 := regSet s (slotReg n 0x20) next
  let s2 := regSetFld s1 (slotReg n 0x28) 63 32 (min (evals + 1) (2 ^ 32 - 1))
  fixWarm (setSlot s2 n { slotAt s2 n with hasEma := true }) n

/-- A step's outputs take effect; the step is gone (R186). -/
def commitStep (s : State) (q : Nat) (st : Step) : Except Halt State := do
  let s1 ← overRegions s st.regions commitEntry
  .ok (closeStep (st.slots.foldl commitSlot s1) q st)

/-- The records of a step's commands, in queue order, STEP_COMMIT last with its own status (R189). -/
def stepRecords (s : State) (q : Nat) (st : Step) (is : List Item) (status : Nat) : Except Halt State :=
  putRecords s q is (fun i => if i.idx = st.commitIdx then status else i.status) (fun _ => true) 0

/-- A replay (R187): the step's items are to be dispatched again. -/
def replayStep (s : State) (q : Nat) (st : Step) : Except Halt State := do
  let s1 ← (st.slots.foldl replayScale s |> fun s => st.slots.foldlM writeScale s)
  let s2 ← overRegions s1 st.regions replayEntry
  let s3 := st.slots.foldl clearSlot s2
  let depth := qDepth (queueAt s q)
  let s4 := setStep s3 q { st with attempt := st.attempt + 1, phase := .running }
  let again (i : Item) : Item :=
    if ofStep depth st i then { i with phase := .fetched, status := 0, result := 0, skip := false } else i
  .ok (updQueue s4 q fun x => { x with items := x.items.map again })

/-- The guard evaluates a step whose commands have all ended, and the step commits, replays or holds. -/
def evaluateStep (s : State) (q : Nat) (st : Step) : Except Halt State := do
  let s1 := st.slots.foldl (evalSlot st) s
  let trips := st.slots.filter fun n => decide (lastCauses s1 n ≠ 0)
  let replay := trips.any fun n => bit (regGet s1 (slotReg n 0)) 1
  let action := if !replay then 0 else if st.attempt ≤ st.limit then 32 else 64
  let s2 ← trips.foldlM (tripRecord q st action) s1
  let is := stepItems s q st
  if action = 32 then replayStep s2 q st
  else do
    let s3 ← st.slots.foldlM writeScale s2
    if action = 0 then do
      let s4 ← commitStep s3 q st
      stepRecords s4 q st is (if st.attempt = 1 then stOk else stReplayed)
    else do
      let s4 := setStep (freeSlots s3 q st.reserved) q { st with phase := .held, reserved := 0 }
      let s5 ← stepRecords s4 q st is stTripped
      .ok (updQueue s5 q fun x => { x with st := if x.st = .flushing then .flushing else .held })

end Sys2Proof.Machine
end

