-- ==== Sys2Proof/Machine/TimeOps.lean ====
section
/-! DEFINITION. Device time that the pails, the links and the time commands share: sources, the best-master
comparison, steps and loss of a source (R330 to R336). -/

namespace Sys2Proof.Machine

/-- A change of the time state, with its sensor (R432). -/
def setTimeSt (s : State) (st : TimeSt) : State :=
  if s.time.st = st then s
  else pldmEvent { s with time := { s.time with st } } (.sensor 0x22 (timeCode st))

/-- The bound of states that have none (Table 11.6). -/
def noBound : Nat := 2 ^ 64 - 1

/-- DTIME is stepped forward to a number of whole nanoseconds; it never decreases (R334). -/
def stepTime (s : State) (ns : Nat) : State :=
  { s with time := { s.time with dtime := max s.time.dtime (ns * 2 ^ 16) } }

/-- A link is up. -/
def linkUp (s : State) (l : Nat) : Bool := bit (regGet s (lnkReg l 0)) 1

/-- A candidate port: in PORTMASK and up (R332). -/
def candidate (s : State) (l : Nat) : Bool := bit s.time.cfg.portmask l && linkUp s l

/-- Lexicographic order of lists of numbers. -/
def lexLt : List Nat → List Nat → Bool
  | [], _ => false
  | _, [] => false
  | a :: l, b :: m => decide (a < b) || (decide (a = b) && lexLt l m)

/-- The best-master dataset comparison (R331): lower is better; masters of one identity by steps removed, then by the
port identity of the sender. -/
def dsBetter (x y : AnnounceDs) : Bool :=
  if x.identity = y.identity then lexLt [x.stepsRemoved, x.sender] [y.stepsRemoved, y.sender]
  else lexLt [x.priority1, x.clockClass, x.accuracy, x.variance, x.priority2, x.identity]
    [y.priority1, y.clockClass, y.accuracy, y.variance, y.priority2, y.identity]

/-- The candidate whose best Announce ranks first while PTP is on; of equals, the lowest port. -/
def bestPort (s : State) : Option (Nat × AnnounceDs) :=
  (s.time.announces.filter fun e => s.time.cfg.ptp && candidate s e.1).foldl (fun b e =>
    match b with
    | none => some e
    | some x => if dsBetter e.2 x.2 then some e else some x) none

/-- The active source is lost with no candidate: HOLDOVER from LOCKED (Table 11.6). -/
def sourceLost (s : State) : State :=
  let s1 := { s with time := { s.time with
    active := none, ppsAt := none, sync := [], delayReqAt := none, good := 0 } }
  if s.time.st = .locked then setTimeSt s1 .holdover else s1

/-- The active port follows the comparison (R332): a change is counted, and another grandmaster is handled as a
new lock. -/
def reselect (s : State) : State :=
  match bestPort s with
  | none => if s.time.active.isSome then sourceLost s else s
  | some (p, d) =>
    let s1 := if s.time.active.isSome && s.time.active != some p then count s (hubReg 0x50030) 1 else s
    let moved := s.time.active != some p
    let fresh := s.time.grandmaster != some d.identity
    { s1 with time := { s1.time with
      active := some p
      ppsAt := none
      grandmaster := some d.identity
      sync := if moved then [] else s1.time.sync
      delayReqAt := if moved then none else s1.time.delayReqAt
      good := if fresh then 0 else s1.time.good } }

/-- A port gives no more Announce messages: its link went down or it timed out. -/
def dropPort (s : State) (l : Nat) : State :=
  reselect { s with time := { s.time with announces := FMap.drop s.time.announces l } }

/-! ### Time without the time unit (R336) -/

/-- Sleep tick period in force: the latest window's, or the nominal 1 / 32,768 s, in 2⁻¹⁶ ns (R336). -/
def sleepPeriod (s : State) : Nat := (s.time.periods.head?).getD 2000000000

/-- Sleep ticks in a number of nanoseconds. -/
def sleepTicks (n : Nat) : Nat := n * 32768 / 1000000000

/-- The largest relative change of the period over a list of windows, in units of 0.01 ppm. -/
def relChange : List Nat → Nat
  | a :: b :: l => max ((max a b - min a b) * 100000000 / max 1 b) (relChange (b :: l))
  | _ => 0

/-- σ in units of 0.01 ppm, never less than 0.5 ppm (R336). -/
def sigmaOf (s : State) : Nat := max 50 (relChange (s.time.periods.take 65))

/-- The bound after a sleep: the bound at the stop, σ of the elapsed time, and one tick (R336). -/
def wakeBound (s : State) (bound n : Nat) : Nat :=
  min noBound (bound + (sleepTicks n * sleepPeriod s / 2 ^ 16 * sigmaOf s + 99999999) / 100000000 + 30518)

/-- The time unit stops, and the always-on domain carries DTIME (R336). -/
def timeStops (s : State) : State :=
  { s with time := { s.time with
    asleep := some (s.time.dtime, s.time.bound, 0), slewing := false, slewLeft := 0, servo := 0, good := 0, ppsAt := none, sync := []
    delayReqAt := none } }

/-- The time unit continues from the estimate in HOLDOVER; a time that was never set stays UNSET. -/
def timeResumes (s : State) : State :=
  match s.time.asleep with
  | none => s
  | some (_, b, n) =>
    let s1 := { s with time := { s.time with asleep := none } }
    if s.time.st = .unset then s1
    else setTimeSt { s1 with time := { s1.time with bound := wakeBound s b n } } .holdover

end Sys2Proof.Machine
end

