-- ==== Sys2Proof/Machine/WqWords.lean ====
section
/-! DEFINITION. Items as their entries spell them: the header (Table 10.8) and the operand blocks of the
work-queue commands (Tables 5.10, 5.12, 5.14, 6.2, 7.3, 8.1, 8.5, 10.9 and 10.11). -/

namespace Sys2Proof.Machine

/-- The command of an opcode and its operand bytes. -/
def parseCmd (op : Nat) (o : List Byte) : WqCmd :=
  let f := fieldAt o
  match op with
  | 0x01 => .kernel (f 0 8) (f 8 8) ((List.range 8).map fun i => f (16 + 8 * i) 8)
  | 0x02 => .gemm
      { m := f 0 4, n := f 4 4, k := f 8 4, fa := f 12 1, fb := f 13 1, fc := f 14 1,
        round := bits (f 15 1) 1 0, fullcream := bit (f 15 1) 2, accum := bit (f 15 1) 3,
        plan := bits (f 15 1) 7 4, a := f 16 8, asc := f 24 8, b := f 32 8, bsc := f 40 8, c := f 48 8,
        csc := f 56 8, lda := f 64 4, ldb := f 68 4, ldc := f 72 4, gslot := f 76 1, seed := f 80 4,
        tset := f 84 8 }
  | 0x03 => .attend
      { desc := f 0 8, first := f 8 4, nseq := f 12 4, tables := f 16 8, tstride := f 24 4,
        maxlen := f 28 4, q := f 32 8, qstride := f 40 4, d := f 44 2, glog2 := f 46 1, qlen := f 47 1,
        o := f 48 8, ostride := f 56 4, fq := f 60 1, fo := f 61 1, mask := f 62 1, pfmt := f 63 1,
        scale := f 64 4, w := f 68 4, head := f 72 2, g := f 74 1, pf := f 75 1, tset := f 76 8 }
  | 0x04 => .reduce
      { src := f 0 8, sstride := f 8 8, dst := f 16 8, elems := f 24 4, nsrc := f 28 2, efmt := f 30 1,
        tag := f 32 4 }
  | 0x10 => .copy (f 0 8) (f 8 8) (f 16 8)
  | 0x11 => .fill (f 0 8) (f 8 8) (slice o 32 32)
  | 0x20 => .pageOp
      { sub := f 0 1, sheaf := f 1 1, count := f 2 2, vhint := f 4 2, table := f 8 8, src := f 16 8 }
  | 0x21 => .tiller
      { sub := f 0 1, hashed := bit (f 1 1) 0, blocks := f 2 2, input := f 8 8, table := f 16 8,
        result := f 24 8, salt := f 32 8 }
  | 0x22 => .winnow
      { sheaf := f 0 1, nb := f 1 1, n := f 4 4, input := f 8 8, output := f 16 8, summary := f 24 8,
        bound := (List.range 15).map fun i => f (32 + 4 * i) 4 }
  | 0x30 => .vaultMode (f 0 1) (f 8 8)
  | 0x31 => .rowRun (f 0 8) (f 8 2) (f 16 8) (f 24 8)
  | 0x32 => .rowFence (f 8 8)
  | 0x40 => .stepBegin
      { stepid := f 0 4, entries := f 4 2, nreg := f 6 2, regions := f 8 8, slots := f 16 8,
        maxrep := f 24 1 }
  | 0x41 => .stepCommit (f 0 4)
  | 0x42 => .phaseHint (f 0 1) (f 4 4)
  | 0x50 => .fence
  | 0x51 => .signal (f 0 8) (f 8 8) (f 16 2)
  | 0x52 => .wait (f 0 8) (f 8 8)
  | 0x53 => .timeWait (f 0 8)
  | 0x60 => .abort (f 0 2) (f 4 4)
  | _ => .unknown op

/-- Entries of a command's item, and the operand bytes that its table uses: offset and size (Tables 10.9 and 10.11). -/
def cmdArea (op : Nat) : Option (Nat × List (Nat × Nat)) :=
  match op with
  | 0x01 => some (2, [(0, 80)])
  | 0x02 => some (2, [(0, 77), (80, 12)])
  | 0x03 => some (2, [(0, 84)])
  | 0x04 => some (1, [(0, 31), (32, 4)])
  | 0x10 => some (1, [(0, 24)])
  | 0x11 => some (2, [(0, 16), (32, 32)])
  | 0x20 => some (1, [(0, 6), (8, 16)])
  | 0x21 => some (1, [(0, 4), (8, 32)])
  | 0x22 => some (2, [(0, 2), (4, 88)])
  | 0x30 => some (1, [(0, 1), (8, 8)])
  | 0x31 => some (2, [(0, 10), (16, 16)])
  | 0x32 => some (1, [(8, 8)])
  | 0x40 => some (1, [(0, 25)])
  | 0x41 => some (1, [(0, 4)])
  | 0x42 => some (1, [(0, 1), (4, 4)])
  | 0x50 => some (1, [])
  | 0x51 => some (1, [(0, 18)])
  | 0x52 => some (1, [(0, 16)])
  | 0x53 => some (1, [(0, 8)])
  | 0x60 => some (1, [(0, 2), (4, 4)])
  | _ => none

/-- What the tables give as zero is zero, in the header and in the operand area, and the item has the entries of its
command (R290). -/
def itemClean (bs : List Byte) : Bool :=
  match cmdArea (fieldAt bs 0 1) with
  | none => true
  | some (n, used) =>
    decide (fieldAt bs 1 1 < 32) && decide (n ≤ fieldAt bs 1 1 % 4 + 1) && fieldAt bs 3 1 == 0 && fieldAt bs 12 4 == 0
      && (fieldAt bs 0 1 != 0x21 || decide (fieldAt bs 17 1 < 2))
      && (List.range (bs.length - 16)).all fun i =>
        (used.any fun u => decide (u.1 ≤ i) && decide (i < u.1 + u.2)) || bs[16 + i]? == some 0

/-! ### Kernel images (Table 4.1) -/

/-- The header of a kernel image. -/
structure ImageHdr where
  magic : Nat
  format : Nat
  abi : Nat
  codeOff : Nat
  codeLen : Nat
  entry : Nat
  dataOff : Nat
  dataLen : Nat
  dataDst : Nat
  imageId : Nat
  nargs : Nat
  deriving DecidableEq, Repr

/-- The header of 64 bytes. -/
def parseHdr (bs : List Byte) : ImageHdr where
  magic := fieldAt bs 0 4
  format := fieldAt bs 4 2
  abi := fieldAt bs 6 2
  codeOff := fieldAt bs 8 4
  codeLen := fieldAt bs 12 4
  entry := fieldAt bs 16 4
  dataOff := fieldAt bs 20 4
  dataLen := fieldAt bs 24 4
  dataDst := fieldAt bs 28 4
  imageId := fieldAt bs 32 4
  nargs := fieldAt bs 36 1

/-- IMAGE_ID and the listed memory of a KERNEL's image: header, code and data sections. -/
def imageSeen (s : State) : WqCmd → Option (Nat × List Host.Cell)
  | .kernel image _ _ =>
    let h := parseHdr ((placeKeys s image 64).flatMap fun r => bytesAt s r.1 r.2)
    let rs := placeKeys s image 64 ++ placeKeys s (image + h.codeOff) (min h.codeLen 65536)
      ++ placeKeys s (image + h.dataOff) (min h.dataLen 1048576)
    some (h.imageId, s.mem.filter fun e => rs.any fun r => decide (r.1 ≤ e.1) && decide (e.1 < r.1 + r.2))
  | _ => none

/-! ### Items -/

/-- Entries of an item by its CTL byte (R290). -/
def itemEntries (ctl : Nat) : Nat := ctl % 4 + 1

/-- The item of its bytes: `idx` the entry it starts at, `t0` the time of the doorbell that covered it. -/
def parseItem (idx t0 : Nat) (bs : List Byte) : Item where
  idx := idx
  entries := itemEntries (fieldAt bs 1 1)
  sens := bit (fieldAt bs 1 1) 2
  ordered := bit (fieldAt bs 1 1) 3
  intr := bit (fieldAt bs 1 1) 4
  wfmt := fieldAt bs 2 1
  cmdid := fieldAt bs 4 4
  xbound := fieldAt bs 8 4
  cmd := parseCmd (fieldAt bs 0 1) (bs.drop 16)
  phase := .fetched
  status := 0
  skip := false
  mode := 0
  attempt := 1
  result := 0
  inStep := false
  after := none
  slot := false
  targets := []
  waitCores := []
  runCores := []
  waitVaults := []
  t0 := t0
  outs := []
  clean := itemClean bs
  seen := none
  rows := none

/-- Commands that wait for every earlier item of their queue (Table 10.9). -/
def cmdWaits : WqCmd → Bool
  | .vaultMode _ _ | .rowRun _ _ _ _ | .rowFence _ | .stepBegin _ | .stepCommit _ | .fence
  | .signal _ _ _ => true
  | _ => false

/-- Commands that admit no later item of their queue until they complete (Table 10.9). -/
def cmdHolds : WqCmd → Bool
  | .vaultMode _ _ | .rowRun _ _ _ _ | .rowFence _ | .stepBegin _ | .stepCommit _ | .fence
  | .wait _ _ | .timeWait _ => true
  | _ => false

/-- The licence a command needs (R5, Table 10.9), as a bit of DEV_INFO.LICENCES. -/
def cmdLicence : WqCmd → Option Nat
  | .tiller _ => some 2
  | .vaultMode m _ => if m = 1 then some 1 else none
  | .rowRun _ _ _ _ => some 1
  | _ => none

/-- Commands that a step refuses (R184), for the step's STEPID. -/
def cmdBarred (stepid : Nat) : WqCmd → Bool
  | .pageOp _ | .tiller _ | .vaultMode _ _ | .rowRun _ _ _ _ | .stepBegin _ => true
  | .stepCommit i => i != stepid
  | _ => false

/-- Commands that run on a target set of cores (R304), with the address of the set. -/
def cmdTset : WqCmd → Option Nat
  | .kernel _ t _ => some t
  | .gemm p => some p.tset
  | .attend p => some p.tset
  | .reduce _ => some 0
  | _ => none

end Sys2Proof.Machine
end

