-- ==== Sys2Proof/Machine/JobOps.lean ====
section
/-! DEFINITION. What happens to work queues and jobs as wholes: fetching (R290, R291, R298), aborts (R190,
R306), flushes (R288), the job reset (R464), the quiesce of a job fault (R457 to R460). -/

namespace Sys2Proof.Machine

/-! ### Fetching -/

/-- Device time of the doorbell that made the `n` entries at the fetch position visible (R308). -/
def bellTime (x : Queue) (n : Nat) : Nat :=
  ((x.bells.find? fun b => decide (n ≤ (b.1 + qDepth x - x.fetch) % qDepth x)).map (·.2)).getD 0

/-- The doorbells that still have entries to fetch from a position. -/
def dropBells (x : Queue) (pos : Nat) : List (Nat × Nat) :=
  let d := qDepth x
  let left := (x.tail + d - pos) % d
  x.bells.filter fun b => (b.1 + d - pos) % d != 0 && decide ((b.1 + d - pos) % d ≤ left)

/-- The engine reads the next visible item of a queue from its ring, if the item lies whole below the tail.
A read that meets an uncorrectable error is a job-fault cause, and the item is not taken (R459). -/
def fetchOne (s : State) (q : Nat) : Except Halt State :=
  let x := queueAt s q
  let d := qDepth x
  let left := (x.tail + d - x.fetch) % d
  if left = 0 then .ok s
  else do
    let (hdr, p, s1) ← devRead s (x.base + 64 * x.fetch) 64
    let n := itemEntries (fieldAt hdr 1 1)
    if p then .ok s1
    else if left < n then .ok s1
    else do
      let (more, p2, s2) ← (List.range (n - 1)).foldlM (fun (acc : List Byte × Bool × State) k => do
        let (bs, b, t) ← devRead acc.2.2 (x.base + 64 * ((x.fetch + 1 + k) % d)) 64
        return (acc.1 ++ bs, acc.2.1 || b, t)) (([], false, s1) : List Byte × Bool × State)
      if p2 then .ok s2
      else
        let i := parseItem x.fetch (bellTime x n) (hdr ++ more)
        let i := { i with seen := imageSeen s2 i.cmd, skip := decide (x.skipping > 0) }
        .ok (updQueue s2 q fun y =>
          { y with
            items := y.items ++ [i], fetch := (x.fetch + n) % d, skipping := y.skipping - n
            bells := dropBells y ((x.fetch + n) % d) })

/-- Every visible item is fetched, at most `n` of them. -/
def fetchAll : Nat → State → Nat → Except Halt State
  | 0, s, _ => .ok s
  | n + 1, s, q => do
    let s1 ← fetchOne s q
    if (queueAt s1 q).fetch = (queueAt s q).fetch then .ok s1 else fetchAll n s1 q

/-! ### Stopping a command (R306) -/

/-- Dispatched commands that an ABORT stops. -/
def stoppable : WqCmd → Bool
  | .kernel _ _ _ | .gemm _ | .attend _ | .reduce _ | .copy _ _ _ | .fill _ _ _ | .winnow _
  | .rowRun _ _ _ _ | .wait _ _ | .timeWait _ | .fence => true
  | _ => false

/-- What stopping a dispatched command does to the rest of the device: its cores stop, its row programs stop,
and what it was to write is undefined (R104, R244, R296). -/
def haltItem (s : State) (q : Nat) (i : Item) : State :=
  let s := { s with guard := { s.guard with reports := s.guard.reports.filter fun r => r.item != some (q, i.idx) } }
  match i.cmd with
  | .kernel _ _ _ | .gemm _ | .attend _ | .reduce _ => undefOuts (i.runCores.foldl haltCore s) i
  | .copy _ dst len => undefRange s dst len
  | .fill dst len _ => undefRange s dst len
  | .winnow p => undefRange (undefRange s p.output (roundUp (16 * p.n) 32)) p.summary 128
  | .rowRun _ _ _ _ => loseRows (stopRows s q i.idx) i
  | _ => s

/-- A dispatched command is stopped; its record will say ABORTED. -/
def abortLive (s : State) (q : Nat) (i : Item) : State :=
  updItem (haltItem s q i) q i.idx fun y =>
    { y with phase := .ended, status := stAborted, waitCores := [], runCores := [], waitVaults := [] }

/-- The end of a step by an ABORT, a flush with ABORT or a job reset (R190): running commands stop, shadows are
discarded, slots released; `which` says which of its items receive an ABORTED record, the others vanish. -/
def abortStep (s : State) (q : Nat) (st : Step) (which : Item → Bool) : Except Halt State := do
  let is := stepItems s q st
  let s1 := (is.filter itemLive).foldl (fun s i => haltItem s q i) s
  let due := is.filter fun i => which i && i.phase != .recorded
  let s2 ← discardStep s1 q { st with reserved := st.reserved - (due.filter fun i => !i.slot).length }
  let s3 ← putRecords s2 q due (fun _ => stAborted) (fun _ => true) 0
  let d := qDepth (queueAt s q)
  let seen := (((queueAt s q).fetch + d - st.beginIdx) % d)
  let gone (i : Item) : Bool := ofStep d st i && !which i
  .ok (passHead (updQueue s3 q fun x =>
    { x with items := x.items.filter fun i => !gone i, skipping := st.entries - (if seen = 0 then d else seen) }) q)

/-! ### Flushes (R288) -/

/-- The pail answer of a flush: items discarded and the generation. -/
def flushAnswer (s : State) (r : PailReq) (q discarded status : Nat) : State :=
  answer s r status (leBytes 4 discarded ++ leBytes 2 (queueAt s q).gen)

/-- Items of a queue that have not been dispatched. -/
def undispatched (s : State) (q : Nat) : Nat := ((queueAt s q).items.filter itemFresh).length

/-- Steps 1 to 3 of a flush; its answer counts the items that were visible and not dispatched. -/
def startFlush (s : State) (q : Nat) (abort : Bool) : Except Halt (Nat × State) := do
  let s1 ← fetchAll 65536 s q
  let n := undispatched s1 q
  let s2 := updQueue s1 q fun x =>
    { x with st := .flushing, skipping := 0, items := x.items.filter fun i => !itemFresh i, bells := [] }
  if !abort then return (n, s2)
  else
    let s3 ← match stepAt s2 q with
      | none => .ok s2
      | some st =>
        if st.phase = .held then discardStep s2 q st
        else if st.phase = .committing ∧ (stepItems s2 q st).length ≤ 1 then .ok s2
        else abortStep s2 q st itemOwed
    let live := (queueAt s3 q).items.filter fun i => itemLive i && stoppable i.cmd
    let s4 := live.foldl (fun s i => abortLive s q i) s3
    return (n, updQueue s4 q fun x => { x with skipping := 0 })

/-- No dispatched item of a queue is still to end. -/
def flushQuiet (s : State) (q : Nat) : Bool :=
  (queueAt s q).items.all fun i => !itemLive i && i.phase != .fetched

/-- A flush that finds its dispatched items complete ends an open step: each of its dispatched commands receives
its held record with its own status. -/
def flushStep (s : State) (q : Nat) : Except Halt State :=
  match stepAt s q with
  | none => .ok s
  | some st => do
    let is := (stepItems s q st).filter fun i => i.phase == .ended
    let s1 ← discardStep s q st
    putRecords s1 q is (·.status) (fun _ => true) 0

/-- Step 4 of a flush: tail is set to head, the generation advances by `k`, the queue is ACTIVE. -/
def endFlush (s : State) (q k : Nat) : State :=
  updQueue s q fun x =>
    { x with
      st := .active, tail := x.head, fetch := x.head, items := [], bells := [], skipping := 0, gen := (x.gen + k) % 65536 }

/-- The flush of a queue ends when every dispatched item has its record; the pail that waits for it is answered. -/
def tryFlushEnd (s : State) (q : Nat) : Except Halt State :=
  match s.pails.busy with
  | some (.flush r q' n) =>
    if q' ≠ q ∨ (queueAt s q).st ≠ .flushing ∨ !flushQuiet s q then .ok s
    else do
      let s1 ← flushStep s q
      if (queueAt s1 q).items.any itemOwed then .ok s1
      else
        let s2 := endFlush s1 q 1
        .ok (flushAnswer { s2 with pails := { s2.pails with busy := none } } r q n stOk)
  | _ => .ok s

/-- Work queues that exist. -/
def workQueues (s : State) : List Nat :=
  (s.wq.queues.filter fun e => e.2.st != .free && !e.2.completion).map (·.1)

/-! ### Links in use (R313) and licences (R451) -/

/-- A link may be enabled: in the mask and licensed (R313). -/
def linkAllowed (s : State) (l : Nat) : Bool := bit s.links.cfg.linkmask l && (decide (l < 16) || licensed s 0)

/-- A link leaves the path sets (R316), what waits at it is lost, and its port gives no more PTP messages. -/
def leavePaths (s : State) (l : Nat) : State :=
  let s1 := regSetFld (regFlag s (lnkReg l 0) 1 false) (lnkReg l 0) 11 8 0xF
  dropPort (setLink s1 l { linkAt s1 l with pauseQuanta := [], switchMac := none, waiting := [], rxBuf := [], xoff := [] }) l

/-- An allowed link is enabled and begins to train; any other is disabled and its domain is Off (R313, R388). -/
def trainLink (s : State) (l : Nat) : State :=
  let s0 := leavePaths s l
  if linkAllowed s l then
    let s1 := regFlag s0 (lnkReg l 0) 0 true
    updDom (setLink s1 l { linkAt s1 l with training := true }) ⟨.link, l⟩ fun d =>
      { d with st := .on, trans := none }
  else
    let s1 := regFlag s0 (lnkReg l 0) 0 false
    updDom (setLink s1 l { linkAt s1 l with training := false }) ⟨.link, l⟩ fun d =>
      { d with st := .off, trans := none }

/-- The same, with the event of the link's sensor. -/
def enableLink (s : State) (l : Nat) : State := noteLink s (trainLink s l) l

/-- Every page unit is STALE. -/
def staleAll (s : State) : State :=
  sheaves.foldl (fun s h => regSetFld s (pguReg h 0x10) 2 0 4) s

/-- Features take effect; a new TILLER reserves its range and marks every page unit STALE. -/
def applyFeatures (s : State) (f : Nat) : State :=
  let fresh := f &&& (15 - s.boot.effective % 16)
  let s1 := { s with boot := { s.boot with effective := s.boot.effective ||| f, pendingLic := 0 } }
  let s2 := if bit fresh 2 then staleAll s1 else s1
  if bit fresh 0 then ((List.range 32).filter (· ≥ 16)).foldl enableLink s2 else s2

/-! ### Job reset (R464, R465) -/

/-- Cores that reported a face-to-face parity failure. -/
def parityCores (s : State) : List Nat :=
  (enabledCores s).filter fun c => bit (regGet s (coreReg c 0x08)) 4

/-- A unit joins the list of units to be retired at the next boot (R443). -/
def markUnit (s : State) (kind reason number sub : Nat) : State :=
  let r : Retired := ⟨kind, reason, number, sub, boots s⟩
  if s.flash.marked.any (fun x => x.kind = kind ∧ x.number = number ∧ x.sub = sub) then s
  else { s with flash := { s.flash with marked := s.flash.marked ++ [r] } }

/-- Contents of every SRAM become undefined. -/
def undefSram (s : State) : State :=
  let keep (k : Nat) : Bool := decide (k < 0x20000000000) || decide (0x20400000000 ≤ k)
  { s with mem := s.mem.filter (fun e => keep e.1), marks := s.marks.filter fun e => keep e.1 }

/-- Cores, SRAM, vaults and page units in a job reset. -/
def resetCores (s : State) : State :=
  let bad := parityCores s
  let s1 := (enabledCores s).foldl (fun s c =>
    let s := resetCoreLogic s c
    let s := updCore s c fun x => { x with events := 0, tags := [], heldTags := [] }
    regSetFld (regFlag s (coreReg c 0x08) 4 false) (coreReg c 0) 31 16 0) (undefSram s)
  let s2 := bad.foldl (fun s c => markUnit s 0 3 c 0) s1
  { s2 with boot := { s2.boot with disabledCores := s2.boot.disabledCores ++ bad } }

/-- Every vault returns to MEMORY mode, without merge entries, row-program state or requests. -/
def resetVaults (s : State) : State :=
  let s1 := { s with vaults := s.vaults.map fun e => (e.1, { VaultSt.reset with openRows := e.2.openRows }) }
  (vaultsInService s).foldl (fun s v =>
    if processorMode s v then regFlag (regFlag s (vltReg v 0) 0 false) (vltReg v 0x1000) 0 false else s) s1

/-- Rings and Stoby in a job reset: tags, combining buffers and contexts are dropped; packets that remain are
discarded whole (R261). -/
def resetTraffic (s : State) : State :=
  let s1 := { s with
    rings := ⟨[], [], [], s.rings.nextId, s.rings.nextTxn, [], [], [], [], [], [], s.rings.lanes⟩
    stoby := { s.stoby with send := [], recv := [] } }
  sheaves.foldl (fun s h => regFlag s (rngReg h 0) 0 false) s1

/-- Open and held steps end, and their shadows return to the free lists (R190). -/
def resetSteps (s : State) : Except Halt State :=
  s.guard.steps.foldlM (fun s e => discardStep s e.1 e.2) s

/-- Work queues after a job reset: empty, the generation advanced once, ACTIVE. -/
def resetQueues (s : State) : State :=
  (workQueues s).foldl (fun s q => endFlush s q 1) s

/-- The job reset of Table 18.4. -/
def jobReset (s : State) : Except Halt State := do
  let s1 ← resetSteps s
  let s2 := resetQueues (resetTraffic (resetVaults (resetCores s1)))
  let s3 := staleAll { s2 with guard := { s2.guard with reports := [] } }
  let s4 := applyFeatures s3 s3.boot.pendingLic
  .ok (regFlag { s4 with
    job := { s4.job with isOpen := false }
    fault := { s4.fault with primary := none, secondaries := 0 } } (hubReg 0x70) 1 false)

/-- Step 1 of JOB_CLOSE (R285) begins: in state JOB every work queue is flushed with ABORT. -/
def startClose (s : State) : Except Halt State :=
  if s.boot.dev = .job then
    (workQueues s).foldlM (fun s q => do let (_, s1) ← startFlush s q true; return s1) s
  else .ok s

/-- No dispatched item of any work queue is still to end; a job fault has ended them all (R457). -/
def closeReady (s : State) : Bool := s.boot.dev != .job || (workQueues s).all fun q => flushQuiet s q

/-- A work queue's flush ends in JOB_CLOSE: it writes the records that it owes in state JOB, and does not
advance the generation. -/
def closeQueue (records : Bool) (s : State) (q : Nat) : Except Halt State := do
  let owed := (queueAt s q).items.filter itemOwed
  let s1 ← if records then putRecords s q owed (·.status) (fun _ => false) 0 else .ok s
  .ok (endFlush s1 q 0)

/-- The rest of JOB_CLOSE (R285): records, job reset, READY. -/
def finishClose (s : State) (records : Bool) : Except Halt State := do
  let s1 ← (workQueues s).foldlM (closeQueue records) s
  let s2 ← jobReset s1
  .ok (setDev s2 .ready)

/-- A JOB_CLOSE that waits ends once every command has its end. -/
def tryCloseEnd (s : State) : Except Halt State :=
  match s.pails.busy with
  | some (.close r) =>
    if closeReady s then do
      let s1 ← finishClose s (s.boot.dev == .job)
      .ok (answer { s1 with pails := { s1.pails with busy := none } } r stOk [])
    else .ok s
  | _ => .ok s

/-! ### The quiesce of a job fault (R457 to R460) -/

/-- Steps of the quiesce inside the device: cores, row programs, page units, reduce tags, Stoby contexts. -/
def quiesceUnits (s : State) : State :=
  let s1 := (enabledCores s).foldl (fun s c => if (coreAt s c).running || !coreIdle (coreAt s c) then haltCore s c else s) s
  let s2 := (vaultsInService s1).foldl (fun s v =>
    if (vaultAt s v).row.job.isSome then updRow (stopRow s v) v fun r => { r with waiting := [] } else s) s1
  let s2 := (s2.wq.queues.flatMap (·.2.items)).foldl (fun s i => if i.phase = .running then loseRows s i else s) s2
  staleAll { s2 with
    rings := { s2.rings with combine := [], tags := [] }
    stoby := { s2.stoby with send := [], recv := [] } }

/-- A FAULT record for each dispatched command without one, step-held ones included, and the queue FAULTED. -/
def faultQueue (seq : Nat) (s : State) (q : Nat) : Except Halt State := do
  let owed := (queueAt s q).items.filter itemOwed
  let s1 := owed.foldl (fun s i => haltItem s q i) s
  let s2 ← putRecords s1 q owed (fun _ => stFault) (fun i => i.inStep) seq
  .ok (updQueue s2 q fun x => { x with st := .faulted })

/-- A flush that waits when a job fault occurs ends with FAULT (R288). -/
def faultFlush (s : State) : State :=
  match s.pails.busy with
  | some (.flush r q n) => flushAnswer { s with pails := { s.pails with busy := none } } r q n stFault
  | _ => s

/-- The first cause in state JOB: latched, the device stops, records and announcements (R457). -/
def primaryFault (s : State) (c : Cause) : Except Halt State := do
  let s1 := event s (hubReg 0x70) 0 (hubReg 0x78)
  let s2 := quiesceUnits s1
  let seq := s2.fault.nextSeq
  let s3 ← (workQueues s2).foldlM (faultQueue seq) s2
  let s4 := writeRecord s3 0 c false 0
  let s5 := regSet s4 (hubReg 0x70) (seq * 2 ^ 32 + c.code * 256 + 2 + regGet s4 (hubReg 0x70) % 2)
  let s6 := setDev { s5 with fault := { s5.fault with primary := some seq, secondaries := 0 } } .faulted
  .ok (faultFlush s6)

/-- A later cause before the job reset ends (R460): counted, and recorded up to 15 times. -/
def secondaryFault (s : State) (c : Cause) (p : Nat) : State :=
  let s1 := event s (hubReg 0x70) 0 (hubReg 0x78)
  if s1.fault.secondaries < 15 then
    let s2 := writeRecord s1 0 c true p
    { s2 with fault := { s2.fault with secondaries := s2.fault.secondaries + 1 } }
  else s1

/-- One detected cause is handled: the primary fault in JOB, a secondary one while a fault is in force, a record
only in any other state (R440). -/
def takeCause (s : State) (c : Cause) : Except Halt State :=
  match s.fault.primary with
  | some p => .ok (secondaryFault s c p)
  | none => if s.boot.dev = .job then primaryFault s c else .ok (writeRecord s 0 c false 0)

/-- Every detected cause is handled, in the order of detection. -/
def takeCauses (s : State) : Except Halt State :=
  s.fault.detected.foldlM takeCause { s with fault := { s.fault with detected := [] } }

end Sys2Proof.Machine
end

