-- ==== Sys2Proof/Machine/PailWords.lean ====
section
/-! DEFINITION. Pail commands as the bytes that the host writes to a pail page: opcode, request payload and header
(R275, R276, R280; Tables 10.1, 10.2, 10.4 to 10.6, 6.7, 11.2, 11.7, 13.5, 13.6, 14.3, 15.7, 16.4, 16.6 and 17.9). -/

namespace Sys2Proof.Machine

/-- Opcode of a pail command (Table 10.2). -/
def pailOpcode : Instr → Nat
  | .devInfo _ => 0x0001
  | .floorplanGet _ _ _ => 0x0002
  | .jobOpen _ _ => 0x0010
  | .jobClose _ => 0x0011
  | .queueCreate _ _ => 0x0020
  | .queueDestroy _ _ => 0x0021
  | .queueFlush _ _ | .queueFlushAbort _ _ => 0x0022
  | .powerSetCap _ _ => 0x0030
  | .powerSetOppAuto _ _ | .powerSetOppPin _ _ _ => 0x0031
  | .domainPolicyTimers _ _ | .domainPolicyRetain _ _ _ _ | .domainPolicyWake _ _ _ _ | .domainPolicyAdmit _ _ => 0x0032
  | .licenceInstall _ _ => 0x0040
  | .licenceList _ _ => 0x0041
  | .timeConfig _ _ | .timeConfigSet _ _ _ => 0x0050
  | .linkConfig _ _ => 0x0051
  | .counterAccessUser _ _ | .counterAccessSelect _ _ => 0x0060
  | .snapshotConfigStart _ _ | .snapshotConfigStop _ => 0x0061
  | .guardConfigPolicy _ _ | .guardConfigSlot _ _ | .guardConfigLog _ _ _ _ | .guardConfigResolveCommit _ _
  | .guardConfigResolveDiscard _ _ => 0x0062
  | .wearReportSummary _ | .wearReportDetail _ _ _ => 0x0070
  | .faultRecordGet _ _ => 0x0071
  | .fwUpdate _ _ => 0x0072
  | .katRun _ _ => 0x0073
  | _ => 0

/-- An opcode of Table 10.2; the rest are unknown or reserved. -/
def opcodeKnown (n : Nat) : Bool :=
  [0x0001, 0x0002, 0x0010, 0x0011, 0x0020, 0x0021, 0x0022, 0x0030, 0x0031, 0x0032, 0x0040, 0x0041, 0x0050, 0x0051, 0x0060,
    0x0061, 0x0062, 0x0070, 0x0071, 0x0072, 0x0073].contains n

/-! ### Request payloads -/

/-- JOB_OPEN (Table 10.4). -/
def jobOpenBytes (p : JobOpenP) : List Byte :=
  leBytes 1 p.c0Cores ++ leBytes 1 (b2n p.keepMap) ++ leBytes 1 p.c0Burst ++ zeros 1 ++ leBytes 4 p.c0Interval
    ++ leBytes 8 p.fpaddr ++ leBytes 4 p.fplen ++ zeros 12

/-- QUEUE_CREATE (Table 10.5). -/
def queueCreateBytes (p : QueueCreateP) : List Byte :=
  leBytes 2 p.queue ++ leBytes 1 (b2n p.completion) ++ leBytes 1 p.cls ++ leBytes 1 p.log2depth ++ leBytes 1 p.weight
    ++ leBytes 2 p.cq ++ leBytes 8 p.base ++ leBytes 8 p.tset ++ leBytes 1 p.group ++ zeros 1 ++ leBytes 2 p.vector ++ zeros 4

/-- QUEUE_FLUSH (Table 10.6). -/
def flushBytes (q : Nat) (abort : Bool) : List Byte := leBytes 2 q ++ leBytes 1 (b2n abort) ++ zeros 5

/-- POWER_SET_CAP (Table 13.6). -/
def capBytes (p : CapP) : List Byte :=
  leBytes 4 p.cap ++ leBytes 4 p.window ++ leBytes 2 p.holdup ++ leBytes 1 p.slope ++ zeros 5

/-- POWER_SET_OPP (Table 13.5). -/
def oppReqBytes (mode opp sheaves : Nat) : List Byte := leBytes 1 mode ++ leBytes 1 opp ++ leBytes 1 sheaves ++ zeros 5

/-- KIND of Table 14.3. -/
def kindByte : DomKind → Nat
  | .core => 0
  | .vault => 1
  | .link => 2
  | .fabric => 3
  | .time => 4
  | .host => 5

/-- ACTION of Table 14.3. -/
def actionByte : DomAction → Nat
  | .none => 0
  | .retention => 1
  | .off => 2

/-- DOMAIN_POLICY (Table 14.3). -/
def policyBytes (sub kind flags action timer offtimer banks set : Nat) : List Byte :=
  leBytes 1 sub ++ leBytes 1 kind ++ leBytes 1 flags ++ leBytes 1 action ++ leBytes 4 timer ++ leBytes 4 offtimer
    ++ leBytes 2 banks ++ zeros 2 ++ leBytes 8 set ++ zeros 8

/-- The licence record (Table 17.9). SIG_R and SIG_S are big-endian. -/
def licenceBytes (r : LicenceRec) : List Byte :=
  leBytes 4 r.magic ++ leBytes 2 r.version ++ zeros 2 ++ leBytes 8 r.deviceId ++ leBytes 4 r.features ++ leBytes 4 r.serial
    ++ leBytes 8 r.issued ++ zeros 32 ++ (leBytes 96 r.sig).reverse

/-- TIME_CONFIG (Table 11.7); a time of day has SET. -/
def timeBytes (p : TimeP) (tod : Option Nat) : List Byte :=
  leBytes 1 p.domain
    ++ leBytes 1 (b2n p.ptp + 2 * b2n p.stepOk + 4 * b2n p.pps + 8 * b2n p.timeref + 16 * b2n p.ppsOut + 32 * b2n p.ppsLock
      + 64 * b2n tod.isSome)
    ++ leBytes 1 p.encap ++ leBytes 1 p.annTmo ++ leBytes 4 p.portmask ++ leBytes 4 p.stepThr ++ leBytes 4 p.holdPpb
    ++ leBytes 4 p.frBound ++ zeros 4 ++ leBytes 8 (tod.getD 0)
    ++ (List.range 32).flatMap fun n => leBytes 2 (unsigned 16 ((p.asym[n]?).getD 0))

/-- LINK_CONFIG (Table 11.2). -/
def linkBytes (p : LinkP) : List Byte :=
  leBytes 2 (p.devid % 2 ^ 12 + 2 ^ 15 * b2n p.unassigned) ++ leBytes 1 p.encap ++ leBytes 1 p.minlinks ++ leBytes 4 p.linkmask
    ++ leBytes 2 p.ethertype ++ leBytes 2 p.udpport
    ++ leBytes 1 (b2n p.vlan + 2 * b2n p.pfc + 4 * b2n p.ecn + 8 * b2n p.routed + 16 * b2n p.force + 32 * b2n p.save)
    ++ leBytes 1 p.fmode ++ leBytes 2 p.vid ++ leBytes 8 p.macpfx ++ leBytes 2 p.pcpmap ++ leBytes 2 p.rttTgt
    ++ leBytes 4 p.dscpmap ++ leBytes 4 p.ipv4base ++ leBytes 4 p.peerTmo ++ leBytes 8 p.ipv6pfx ++ zeros 16

/-- COUNTER_ACCESS (Table 16.4). -/
def counterReqBytes (sub flags ctr event sheaves set : Nat) : List Byte :=
  leBytes 1 sub ++ leBytes 1 flags ++ leBytes 1 ctr ++ leBytes 1 event ++ leBytes 1 sheaves ++ zeros 3 ++ leBytes 8 set ++ zeros 16

/-- SNAPSHOT_CONFIG (Table 16.6). -/
def snapBytes (sub : Nat) (p : SnapP) : List Byte :=
  leBytes 1 sub ++ leBytes 1 p.mask ++ leBytes 2 p.vector ++ leBytes 4 p.every ++ leBytes 8 p.period ++ leBytes 8 p.start
    ++ leBytes 8 p.base ++ leBytes 4 p.entries ++ zeros 12

/-- GUARD_CONFIG (Table 6.7). -/
def guardBytes (sub slot a b c d : Nat) : List Byte :=
  leBytes 1 sub ++ zeros 1 ++ leBytes 2 slot ++ zeros 4 ++ leBytes 8 a ++ leBytes 8 b ++ leBytes 8 c ++ leBytes 8 d ++ zeros 8

/-- WEAR_REPORT (Table 15.7). -/
def wearBytes (sub len addr : Nat) : List Byte := leBytes 1 sub ++ zeros 3 ++ leBytes 4 len ++ leBytes 8 addr

/-- FW_UPDATE (R453). -/
def fwBytes (p : FwP) : List Byte :=
  leBytes 8 p.src ++ leBytes 4 p.len ++ leBytes 1 (b2n p.recovery) ++ leBytes 1 (b2n p.activate) ++ zeros 2

/-- The request payload of a pail command. -/
def pailPayload : Instr → List Byte
  | .floorplanGet _ a n => leBytes 8 a ++ leBytes 4 n ++ zeros 4
  | .jobOpen _ p => jobOpenBytes p
  | .queueCreate _ p => queueCreateBytes p
  | .queueDestroy _ q => leBytes 2 q
  | .queueFlush _ q => flushBytes q false
  | .queueFlushAbort _ q => flushBytes q true
  | .powerSetCap _ p => capBytes p
  | .powerSetOppAuto _ m => oppReqBytes 0 0 m
  | .powerSetOppPin _ o m => oppReqBytes 1 o m
  | .domainPolicyTimers _ p =>
    policyBytes 0 (kindByte p.kind) (b2n p.logical + 2 * b2n p.dflt) (actionByte p.action) p.timer p.offtimer 0 p.set
  | .domainPolicyRetain _ l b m => policyBytes 1 0 (b2n l) 0 0 0 b m
  | .domainPolicyWake _ k l m => policyBytes 2 (kindByte k) (b2n l) 0 0 0 0 m
  | .domainPolicyAdmit _ a => policyBytes 3 0 0 (b2n a) 0 0 0 0
  | .licenceInstall _ p => licenceBytes p.record
  | .licenceList _ n => leBytes 2 n
  | .timeConfig _ p => timeBytes p none
  | .timeConfigSet _ p t => timeBytes p (some t)
  | .linkConfig _ p => linkBytes p.cfg
  | .counterAccessUser _ m => counterReqBytes 0 0 0 0 m 0
  | .counterAccessSelect _ p => counterReqBytes 1 (b2n p.logical) p.ctr p.event 0 p.set
  | .snapshotConfigStart _ p => snapBytes 0 p
  | .snapshotConfigStop _ => snapBytes 1 ⟨0, 0, 0, 0, 0, 0, 0⟩
  | .guardConfigPolicy _ a => guardBytes 0 0 a 0 0 0
  | .guardConfigSlot _ p => guardBytes 1 p.slot p.scfg p.ratio p.scale (b2n p.resetEma)
  | .guardConfigLog _ b n v => guardBytes 2 0 b (n % 2 ^ 32 + v % 2 ^ 11 * 2 ^ 32) 0 0
  | .guardConfigResolveCommit _ q => guardBytes 3 0 (q % 2 ^ 16) 0 0 0
  | .guardConfigResolveDiscard _ q => guardBytes 3 0 (q % 2 ^ 16 + 2 ^ 16) 0 0 0
  | .wearReportSummary _ => wearBytes 0 0 0
  | .wearReportDetail _ n a => wearBytes 1 n a
  | .faultRecordGet _ n => leBytes 4 n ++ zeros 4
  | .fwUpdate _ p => fwBytes p
  | _ => []

/-- The sixteen bytes that the host writes before the payload: OPCODE, FLAGS, SEQ, LEN and VECTOR (Table 10.1). -/
def pailHeader (r : PailReq) (i : Instr) : List Byte :=
  leBytes 2 (pailOpcode i) ++ leBytes 2 (b2n r.intr) ++ leBytes 4 r.seq ++ leBytes 4 (pailPayload i).length
    ++ leBytes 2 r.vector ++ zeros 2

/-- Bytes written to a page by the host, from an offset. -/
def hostBytes : FMap Byte → Nat → List Byte → FMap Byte
  | m, _, [] => m
  | m, k, b :: bs => hostBytes (FMap.set m k b) (k + 1) bs

/-- What the host has written to a page when it rings it (R277, steps 1 and 2). -/
def pageRung (m : FMap Byte) (r : PailReq) (i : Instr) : FMap Byte :=
  hostBytes (hostBytes m 0 (pailHeader r i)) 0x40 (pailPayload i)

end Sys2Proof.Machine
end

