-- ==== Sys2Proof/Machine/PowerOps.lean ====
section
/-! DEFINITION. Power management that the pails, the samples and the updates share: operating points, their
prediction, the class-0 reserve's floors and the emergency ramp (R371 to R382). -/

namespace Sys2Proof.Machine

/-! ### Operating points (Table 13.4) -/

/-- CCLK of a point, MHz. -/
def oppMhz (o : Nat) : Nat := [400, 550, 700, 850, 1000, 1100, 1200, 1350].getD o 1350
/-- VDD_LOGIC of a point, mV. -/
def oppMv (o : Nat) : Nat := [600, 630, 660, 690, 720, 750, 780, 860].getD o 860
/-- Permit unit of a point, mA. -/
def oppUnit (o : Nat) : Nat := [50, 72, 96, 122, 150, 172, 195, 242].getD o 242

/-- PWR_STATUS.OPP of a sheaf. -/
def oppNow (s : State) (h : Nat) : Nat := regFld s (pwrReg h 0) 2 0

/-- The point in force and its permit unit. -/
def setOpp (s : State) (h o : Nat) : State :=
  regSetFld (regSetFld s (pwrReg h 0) 2 0 o) (pwrReg h 0x10) 31 16 (oppUnit o)

/-- A request for a point (R374): held during a change; else a change starts, and PWR_STATUS.OPP shows the lower
of the two points. -/
def startOpp (s : State) (h t : Nat) : State :=
  let p := sheafPowerAt s h
  match p.target with
  | some _ => setSheafPower s h { p with heldReq := some t }
  | none =>
    if t = oppNow s h then s
    else setOpp (setSheafPower s h { p with target := some t }) h (min t (oppNow s h))

/-- Every change of point of the selected sheaves has ended. -/
def oppSettled (s : State) (mask : Nat) : Bool :=
  sheaves.all fun h => !bit mask h || (sheafPowerAt s h).target.isNone

/-- The points in force, one byte per sheaf. -/
def oppBytes (s : State) : List Byte := sheaves.map fun h => BitVec.ofNat 8 (oppNow s h)

/-! ### The reserve -/

/-- A sheaf holds cores of the class-0 reserve (R377). -/
def holdsReserve (s : State) (h : Nat) : Bool :=
  s.job.isOpen && decide (0 < s.job.c0Cores) && !(rotMap s h).isEmpty

/-- Ceiling of a core (PWR_CEIL, R371). -/
def coreCeil (s : State) (c : Nat) : Nat :=
  let b := 4 * (c % 16)
  regFld s (pwrReg (c / 128) (0x40 + 8 * (c % 128 / 16))) (b + 2) b

/-- Lowest ceiling of a sheaf's active cores: those that run a kernel (R375). -/
def sheafCeil (s : State) (h : Nat) : Nat :=
  ((enabledLocal s h).filter fun i => (coreAt s (h * 128 + i)).running).foldl
    (fun m i => min m (coreCeil s (h * 128 + i))) 7

/-! ### Figures of power -/

/-- P1MS of a sheaf, mW. -/
def sheafMw (s : State) (h : Nat) : Nat := 1000 * regFld s (pwrReg h 8) 47 32
/-- P1MS of the package, mW. -/
def packageMw (s : State) : Nat := 1000 * regFld s (pwrReg 0 0x108) 15 0
/-- The effective cap, mW. -/
def effCapMw (s : State) : Nat := 1000 * regFld s (pwrReg 0 0x108) 47 32
/-- The grade's reference leakage curve at a point, positive (R375). -/
def leakAt (o : Nat) : Nat := Config.leakage o + 1

/-- A power at one point predicted at another: the part that follows activity, and the rest (R375). -/
def predictMw (act rest o t : Nat) : Nat :=
  act * (oppMhz t * oppMv t ^ 2) / (oppMhz o * oppMv o ^ 2) + rest * leakAt t / leakAt o

/-- Power of a sheaf's array activity, mW. -/
def activityMw (s : State) (h : Nat) : Nat :=
  (sheafPowerAt s h).activity * oppUnit (oppNow s h) * oppMv (oppNow s h) / 1000000

/-- Predicted power of a sheaf at a point, mW. -/
def sheafAt (s : State) (h t : Nat) : Nat :=
  let a := min (sheafMw s h) (activityMw s h)
  predictMw a (sheafMw s h - a) (oppNow s h) t

/-- Predicted VDD_LOGIC current of a sheaf at a point, mA. -/
def zoneAt (s : State) (h t : Nat) : Nat :=
  let o := oppNow s h
  let p := regFld s (pwrReg h 8) 15 0 * 100 * oppMv o / 1000
  let a := min p (activityMw s h)
  predictMw a (p - a) o t * 1000 / oppMv t

/-- A point fits the cap, the zone ceiling and the thermal allowance (R375, R366, R411). -/
def oppFits (s : State) (h t : Nat) : Bool :=
  decide (packageMw s - sheafMw s h + sheafAt s h t ≤ effCapMw s) && decide (zoneAt s h t ≤ 520000)
    && (match FMap.find s.thermal.allow h with
      | some a => decide (sheafAt s h t ≤ a)
      | none => true)

/-- The highest point up to `top` that fits, not below OPP6 where the sheaf holds reserve cores (R377). -/
def oppFor (s : State) (h top : Nat) : Nat :=
  let o := ((List.range (top + 1)).filter fun t => oppFits s h t).foldl max 0
  if holdsReserve s h then max o (min 6 top) else o

/-- The point that a sheaf runs at: its pin or the automatic choice; a sheaf without reserve falls to OPP0 in a
hold-up or a flow emergency (R375, R381, R382). -/
def oppGoal (s : State) (h : Nat) : Nat :=
  if (s.power.holdup != .none || s.thermal.emerg) && !holdsReserve s h then 0
  else match (sheafPowerAt s h).pin with
    | some p => oppFor s h p
    | none => oppFor s h (sheafCeil s h)

/-! ### The effective cap (R376) -/

/-- The lowest of the cap, the flow term once it has been computed, and the hold-up cap while a warning holds, W. -/
def effCapOf (s : State) : Nat :=
  let c := regFld s (pwrReg 0 0x100) 15 0
  let f := regFld s (thmReg 0 0x110) 15 0
  let a := if f = 0 then c else min c f
  if s.power.holdup = .none then a else min a s.power.holdCap

/-- PWR_PKG.EFFCAP follows. -/
def setEffCap (s : State) : State := regSetFld s (pwrReg 0 0x108) 47 32 (effCapOf s)

/-! ### Permits -/

/-- Target of the hint in force at a core (R380): the latest one once its ramp has started, before that an earlier one that
it does not lower. -/
def hintForce (g : GovCore) : Option Nat := if g.ramping then g.hint else g.hold

/-- ARR_PERMIT.Q of a core. -/
def permitOf (s : State) (c : Nat) : Nat := regFld s (coreReg c 0x128) 4 0
/-- The permit of a core set. -/
def setPermit (s : State) (c q : Nat) : State := regSetFld s (coreReg c 0x128) 4 0 q

/-- Permit ceiling of a core: the lowest of those of R377 and R412. -/
def permitCeil (s : State) (c : Nat) : Nat := min 16 (min (govAt s c).capCeil (govAt s c).thermCeil)

/-- An emergency ramp-down is in force in a sheaf (R381). -/
def emergOn (s : State) (h : Nat) : Bool :=
  s.power.holdup != .none || s.thermal.emerg || (sheafPowerAt s h).emergCeil

/-- PWR_STATUS.EMERG and ARR_PERMIT.EMERG of the cores it holds follow the ramp. -/
def showEmerg (s : State) (h : Nat) : State :=
  let on := emergOn s h
  (enabledLocal s h).foldl (fun s i =>
    let c := h * 128 + i
    regFlag s (coreReg c 0x128) 5 (on && !reserveCore s c)) (regFlag s (pwrReg h 0) 6 on)

end Sys2Proof.Machine
end

