-- ==== Sys2Proof/Machine/WearOps.lean ====
section
/-! DEFINITION. Figures of the wear log (R413 to R417), in units of 0.01 % of life consumed. -/

namespace Sys2Proof.Machine

/-- The largest of a list, 0 if empty. -/
def maxOf (l : List Nat) : Nat := l.foldl max 0

/-- A figure as the reports give it. -/
def sat16 (n : Nat) : Nat := min n 65535

/-- Ageing figure of a core: the largest of its four monitors. -/
def coreAge (s : State) (c : Nat) : Nat := maxOf ((List.range 4).map fun m => FMap.getD s.wear.ageing (4 * c + m) 0)

/-- Worst resistance figure of a sheaf. -/
def sheafRes (s : State) (h : Nat) : Nat :=
  maxOf ((List.range 64).map fun m => FMap.getD s.wear.resist (64 * h + m) 0)

/-- Thermal cycles of a sheaf, and their figure: 60,000 cycles are a life (Table 15.6). -/
def sheafCycles (s : State) (h : Nat) : Nat := FMap.getD s.wear.cycles h 0
def cycleFig (s : State) (h : Nat) : Nat := sheafCycles s h / 6

/-- Mechanical figure of a sheaf. -/
def mechFig (s : State) (h : Nat) : Nat := max (sheafRes s h) (cycleFig s h)

/-- Weak rows of a vault, and eye-margin figure of a link's worst lane. -/
def vaultWeak (s : State) (v : Nat) : Nat := (FMap.getD s.wear.weakRows v []).length
def linkEye (s : State) (l : Nat) : Nat := maxOf ((List.range 8).map fun k => FMap.getD s.wear.eye (8 * l + k) 0)

/-- Rotation count of a sheaf. -/
def rotCount (s : State) (h : Nat) : Nat := FMap.getD s.wear.rot h 0

/-- A value put into a list that falls. -/
def insertDesc (x : Nat) : List Nat → List Nat
  | [] => [x]
  | y :: l => if y ≤ x then x :: y :: l else y :: insertDesc x l

/-- The figure of the core ranked E − F + 1, or 1, in descending order of ageing (R416). -/
def rankedAge (ages : List Nat) : Nat :=
  let k := max 1 (ages.length + 1 - gradeFloor)
  ((ages.foldl (fun l a => insertDesc a l) [])[k - 1]?).getD 0

/-- Ageing figures of the enabled cores, now and in an entry of the log. -/
def agesNow (s : State) : List Nat := (enabledCores s).map (coreAge s)
def agesThen (s : State) (w : WearSnap) : List Nat := (enabledCores s).map fun c => FMap.getD w.ageing c 0

/-- The oldest entry of the span over which rates are taken. -/
def oldSnap (s : State) : WearSnap := s.wear.log.getLast?.getD ⟨s.wear.hours, nowNs s, [], []⟩
def newSnap (s : State) : WearSnap := s.wear.log.head?.getD ⟨s.wear.hours, nowNs s, [], []⟩

/-- Predicted end of life of a figure that was `old` at the start of the span; `none` when its rate is zero. -/
def figEol (s : State) (fig old : Nat) : Option Nat :=
  if fig ≤ old then none
  else some (nowNs s + (10000 - fig) * ((newSnap s).dtime - (oldSnap s).dtime) / (fig - old))

/-- The earliest of several dates: all ones when there is none, 0 while the time is UNSET (R416). -/
def earliest (s : State) (l : List (Option Nat)) : Nat :=
  if s.time.st = .unset then 0 else (l.filterMap id).foldl min (2 ^ 64 - 1)

/-- End of life of a sheaf's mechanical figure. -/
def mechEol (s : State) (h : Nat) : Option Nat := figEol s (mechFig s h) (FMap.getD (oldSnap s).mech h 0)

/-- End of life of a sheaf: of its mechanical figure and of its most-worn core. -/
def sheafEol (s : State) (h : Nat) : Nat :=
  let cs := (enabledLocal s h).map (h * 128 + ·)
  earliest s [mechEol s h,
    figEol s (maxOf (cs.map (coreAge s))) (maxOf (cs.map fun c => FMap.getD (oldSnap s).ageing c 0))]

/-- Predicted end of life of the package. -/
def packageEol (s : State) : Nat :=
  earliest s (figEol s (rankedAge (agesNow s)) (rankedAge (agesThen s (oldSnap s))) :: sheaves.map (mechEol s))

/-- The package's life consumed, its limiter and the limiter's sheaf (R416, Table 15.8). -/
def packageLife (s : State) : Nat × Nat × Nat :=
  let age := rankedAge (agesNow s)
  let core := ((enabledCores s).find? fun c => coreAge s c = age).getD 0
  sheaves.foldl (fun b h =>
    let b1 := if sheafRes s h > b.1 then (sheafRes s h, 1, h) else b
    if cycleFig s h > b1.1 then (cycleFig s h, 2, h) else b1) (age, 0, core / 128)

/-- Sheaf of a listed unit, for the count of units marked for retirement. -/
def unitSheaf (r : Retired) : Nat :=
  match r.kind with
  | 0 | 1 => r.number / 128
  | 2 => r.number / 4
  | _ => [0, 1, 2, 3, 7, 6, 5, 4].getD ((if bit r.sub 2 then r.number else r.number + 1) % 8) 0

/-- The 272-byte summary (Table 15.8). -/
def wearSummary (s : State) : List Byte :=
  let p := packageLife s
  leBytes 2 (sat16 p.1) ++ leBytes 1 p.2.1 ++ leBytes 1 p.2.2 ++ leBytes 4 s.wear.hours ++ leBytes 8 (packageEol s)
    ++ sheaves.flatMap fun h =>
      let cs := (enabledLocal s h).map (h * 128 + ·)
      leBytes 2 (sat16 (maxOf (cs.map (coreAge s)))) ++ leBytes 2 (sat16 (sheafRes s h))
        ++ leBytes 4 (sheafCycles s h)
        ++ leBytes 4 (((List.range 128).map fun v => vaultWeak s (h * 128 + v)).foldl (· + ·) 0)
        ++ leBytes 2 (sat16 (maxOf ((List.range 4).map fun j => linkEye s (4 * h + j))))
        ++ leBytes 1 (min 255 (s.flash.marked.filter fun r => unitSheaf r = h).length)
        ++ leBytes 1 (rotCount s h) ++ leBytes 8 (sheafEol s h) ++ zeros 8

/-! ### Work rotation (R413) -/

/-- The order of the enabled cores of a sheaf. -/
def rotKey (s : State) (h i : Nat) : Nat × Nat × Nat :=
  (coreAge s (h * 128 + i) / 10, FMap.getD s.boot.thermalClass (h * 128 + i) 0, (i + 37 * rotCount s h) % 128)

def keyLt (a b : Nat × Nat × Nat) : Bool :=
  decide (a.1 < b.1) || (decide (a.1 = b.1) && (decide (a.2.1 < b.2.1)
    || (decide (a.2.1 = b.2.1) && decide (a.2.2 < b.2.2))))

/-- A core put into its place. -/
def insertRot (s : State) (h i : Nat) : List Nat → List Nat
  | [] => [i]
  | j :: l => if keyLt (rotKey s h i) (rotKey s h j) then i :: j :: l else j :: insertRot s h i l

/-- The rotation map of a sheaf. -/
def newMap (s : State) (h : Nat) : List Nat := (enabledLocal s h).foldl (fun l i => insertRot s h i l) []

/-- Every sheaf's logical numbering is rotated, and ROT advances. -/
def rotate (s : State) : State :=
  { s with
    job := { s.job with rotmap := sheaves.map fun h => (h, newMap s h) }
    wear := { s.wear with rot := sheaves.map fun h => (h, rotCount s h + 1) } }

end Sys2Proof.Machine
end

