-- ==== Sys2Proof/Machine/PailOps.lean ====
section
/-! DEFINITION. How pail commands are taken and checked (R275 to R280, R349), and the floor plan record
(R445 to R448). -/

namespace Sys2Proof.Machine

/-! ### Taking a command -/

/-- The firmware executes no command and none waits. -/
def pailIdle (s : State) : Bool := !s.pails.restarting && s.pails.busy.isNone && s.pails.deferred.isEmpty

/-- The read commands that execute alongside a long one (R278). -/
def readCmd : Instr → Bool
  | .devInfo _ => true
  | .floorplanGet _ _ _ => true
  | .licenceList _ _ => true
  | .wearReportSummary _ => true
  | .wearReportDetail _ _ _ => true
  | .faultRecordGet _ _ => true
  | _ => false

/-- The firmware cannot execute a command now: it restarts, or a command has not ended, and the command is not one that
executes alongside it (R278, R458). -/
def pailWaits (s : State) (i : Instr) : Bool :=
  s.pails.restarting || (match s.pails.busy with
    | none => !s.pails.deferred.isEmpty
    | some (.close _) => !readCmd i
    | some _ => true)

/-- The request of a pail command. -/
def pailReqOf : Instr → Option PailReq
  | .devInfo r => some r
  | .floorplanGet r _ _ => some r
  | .jobOpen r _ => some r
  | .jobClose r => some r
  | .queueCreate r _ => some r
  | .queueDestroy r _ => some r
  | .queueFlush r _ => some r
  | .queueFlushAbort r _ => some r
  | .powerSetCap r _ => some r
  | .powerSetOppAuto r _ => some r
  | .powerSetOppPin r _ _ => some r
  | .domainPolicyTimers r _ => some r
  | .domainPolicyRetain r _ _ _ => some r
  | .domainPolicyWake r _ _ _ => some r
  | .domainPolicyAdmit r _ => some r
  | .licenceInstall r _ => some r
  | .licenceList r _ => some r
  | .timeConfig r _ => some r
  | .timeConfigSet r _ _ => some r
  | .linkConfig r _ => some r
  | .counterAccessUser r _ => some r
  | .counterAccessSelect r _ => some r
  | .snapshotConfigStart r _ => some r
  | .snapshotConfigStop r => some r
  | .guardConfigPolicy r _ => some r
  | .guardConfigSlot r _ => some r
  | .guardConfigLog r _ _ _ => some r
  | .guardConfigResolveCommit r _ => some r
  | .guardConfigResolveDiscard r _ => some r
  | .wearReportSummary r => some r
  | .wearReportDetail r _ _ => some r
  | .faultRecordGet r _ => some r
  | .fwUpdate r _ => some r
  | .katRun r _ => some r
  | _ => none

/-- The pail of the command that has not ended. -/
def busyPail : PailBusy → Nat
  | .flush r _ _ => r.pail
  | .pin r _ => r.pail
  | .close r => r.pail

/-- A command of the same pail has not ended. -/
def pailTaken (s : State) (p : Nat) : Bool :=
  (match s.pails.busy with
    | some b => busyPail b == p
    | none => false) || s.pails.deferred.any fun e => e.1.pail == p

/-- A command waits for its turn in ring order (R278). -/
def deferPail (s : State) (r : PailReq) (i : Instr) : State :=
  { s with pails := { s.pails with deferred := s.pails.deferred ++ [(r, i)] } }

/-- The host has written a command to its pail's page (R277); an out-of-band request body mirrors the page (R349). -/
def writePage (s : State) (r : PailReq) (i : Instr) : State :=
  setPage s r.pail { pageAt s r.pail with host := pageRung (pageAt s r.pail).host r i }

/-- A pail answers: BAR0 once the firmware has reached CONFIG_READY and the controller runs, the out-of-band pails
while firmware runs (R439, R349). -/
def pailReachable (s : State) (p : Nat) : Bool :=
  powered s && (if p < 64 then s.boot.dev != .boot && !s.boot.pcieHeld
    else s.boot.phase != .off && s.boot.phase != .stuck)

/-- A rung command is executed at once, or waits. -/
def takeRing (s : State) (r : PailReq) (i : Instr) (eff : State → Except Halt State) : Except Halt State :=
  if pailWaits s i then .ok (deferPail s r i) else eff s

/-- The meaning of a pail command: the host writes it to the page and rings the pail. While the pail's last command has no
answer, a write to an in-band page is undefined (R277), and an out-of-band request is answered BUSY (R349). -/
def pailOut (s : State) (r : PailReq) (i : Instr) (eff : State → Except Halt State) : Out State :=
  if !pailReachable s r.pail then .next s
  else if pailTaken s r.pail then toOut s (if 64 ≤ r.pail then .ok (answer s r stBusy []) else .error (.undefinedCase 49))
  else toOut s (takeRing (writePage s r i) r i eff)

/-- The checks of R275 on opcode and state, then the effect. -/
def gated (s : State) (r : PailReq) (kinds : PailKind → Bool) (states : List DevState)
    (eff : Except Halt State) : Except Halt State :=
  if s.boot.dev = .boot then .ok (answer s r stBadState [])
  else if !kinds (pailKind s r.pail) then .ok (answer s r stUnknown [])
  else if !states.contains s.boot.dev then .ok (answer s r stBadState [])
  else eff

/-- A rung opcode that is unknown or reserved (R275, R280). -/
def unknownPail (s : State) (r : PailReq) : Except Halt State := gated s r (fun _ => false) [] (.ok s)

def anyPail (_ : PailKind) : Bool := true
def adminPail (k : PailKind) : Bool := k == .admin
def adminOob (k : PailKind) : Bool := k == .admin || k == .oob

/-- STATUS shows PENDING while a command executes (R277). -/
def setPending (s : State) (r : PailReq) : State :=
  setPage s r.pail { pageAt s r.pail with status := stPending }

/-- A set of 128 bytes in memory (R226, R284). -/
def readSet (s : State) (a : Nat) : Except Halt (Nat × State) :=
  if a % 32 = 0 then devNat s a 128 else .error (.undefinedCase 48)

/-- A ring lies whole in one vault window, direct or striped, or in the host memory window. -/
def ringPlaced (s : State) (a n : Nat) : Bool :=
  let b := a + n - 1
  match resolve s a, resolve s b with
  | .vault _ _, .vault _ _ => (decide (b < 0x10000000000) && a / 2 ^ 30 == b / 2 ^ 30) || decide (0x10000000000 ≤ a)
  | .host _, .host _ => true
  | _, _ => false

/-! ### The floor plan record -/

/-- A bitmap of 16 bytes of the local numbers that satisfy a test. -/
def map16 (p : Nat → Bool) : List Byte := leBytes 16 (maskOf ((List.range 128).filter p))

/-- Sheaves before and after one in package order (R247). -/
def ringSheaves : List Nat := [0, 1, 2, 3, 7, 6, 5, 4]
def nextSheaf (h : Nat) : Nat := ringSheaves.getD ((ringSheaves.idxOf h + 1) % 8) 0
def prevSheaf (h : Nat) : Nat := ringSheaves.getD ((ringSheaves.idxOf h + 7) % 8) 0

/-- The four lanes received at a gateway that satisfy a test, as bits. -/
def laneBits (s : State) (h : Nat) (b : Bool) (p : Lane → Bool) : Nat :=
  maskOf ((List.range 4).filter fun k => p (FMap.getD s.rings.lanes (8 * h + 4 * b2n b + k) .reset))

/-- RX_UP and TX_UP of a gateway (Table 9.10): lanes sent at gateway A arrive at gateway B of the sheaf before. -/
def brgUp (s : State) (h : Nat) (b : Bool) : Nat :=
  laneBits s h b (·.up) + 16 * laneBits s (if b then nextSheaf h else prevSheaf h) (!b) (·.up)

/-- UNITS byte of a core (Table 17.6). -/
def unitByte (s : State) (c : Nat) : Byte :=
  if !coreEnabled s c then 0xFF
  else
    let marked := s.flash.marked.any fun r => r.kind = 0 && r.number = c
    BitVec.ofNat 8 (FMap.getD s.boot.thermalClass c 0 % 4 + 4 * coreCeil s c + 32 * b2n marked)

/-- A sheaf section (Table 17.6). -/
def sheafSection (s : State) (h : Nat) : List Byte :=
  let m := rotMap s h
  map16 (fun i => coreEnabled s (h * 128 + i)) ++ map16 (fun i => vaultInService s (h * 128 + i))
    ++ map16 (fun i => reserveCore s (h * 128 + i))
    ++ ((List.range 128).map fun n => match m[n]? with
      | some i => BitVec.ofNat 8 i
      | none => 0xFF)
    ++ ((List.range 128).map fun i => unitByte s (h * 128 + i))
    ++ ((List.range 4).flatMap fun j =>
      let r := regGet s (lnkReg (4 * h + j) 0)
      leBytes 1 (bits r 11 8) ++ leBytes 1 (linkState s (4 * h + j)) ++ leBytes 1 (bits r 23 16) ++ zeros 1)
    ++ leBytes 1 (brgUp s h false) ++ leBytes 1 (brgUp s h true) ++ zeros 30

/-- Start and end of a sheaf's metadata region, from the latched values (R157). -/
def metaRange (u : PageUnit) : Nat × Nat :=
  let a := (u.base + u.count * u.slot) * 2048
  (a, a + roundUp (6 * u.count) 2048)

/-- The reserved ranges (R447): the tiller table, then the metadata region of each sheaf with a pool. -/
def resRanges (s : State) : List (List Byte) :=
  let one (a b kind sh : Nat) : List Byte := leBytes 4 a ++ leBytes 4 b ++ leBytes 1 kind ++ leBytes 1 sh ++ zeros 6
  (if licensed s 2 then [one 0x1DFC0000 0x1E000000 0 0xFF] else [])
    ++ sheaves.filterMap fun h =>
      let u := unitAt s h
      if u.count = 0 then none else some (one (metaRange u).1 (metaRange u).2 1 (2 ^ h))

/-- A retired entry (Table 17.8). -/
def retiredBytes (r : Retired) : List Byte :=
  leBytes 1 r.kind ++ leBytes 1 r.reason ++ leBytes 2 r.number ++ leBytes 1 r.sub ++ zeros 3 ++ leBytes 4 r.boot
    ++ zeros 4

/-- JOBID of the open job, or 0. -/
def openJobid (s : State) : Nat := if s.job.isOpen then s.job.jobid else 0

/-- SIZE of the record (R445). -/
def planSize (s : State) : Nat := roundUp (3136 + 16 * s.flash.retired.length) 32

/-- The record (Table 17.5). -/
def floorPlan (s : State) : List Byte :=
  let res := resRanges s
  let body := leBytes 4 0x46504C4E ++ leBytes 2 1
    ++ leBytes 2 (b2n (belowGrade s) + 2 * b2n s.job.isOpen + 4 * b2n (licensed s 2))
    ++ leBytes 4 (planSize s) ++ leBytes 4 (openJobid s) ++ leBytes 8 Config.deviceId.toNat ++ leBytes 8 (nowNs s)
    ++ leBytes 1 Config.grade.val ++ leBytes 1 res.length ++ leBytes 2 (enabledCores s).length
    ++ leBytes 2 s.boot.stripe.length ++ leBytes 1 ((List.range 32).filter fun l => bit (regGet s (lnkReg l 0)) 1).length
    ++ zeros 1 ++ leBytes 2 s.flash.retired.length ++ zeros 2 ++ leBytes 4 (boots s) ++ zeros 16
    ++ sheaves.flatMap (sheafSection s) ++ res.flatMap id ++ zeros (256 - 16 * res.length)
    ++ s.flash.retired.flatMap retiredBytes
  body ++ zeros (planSize s - body.length)

/-- The record is written to a buffer; address 0 writes none. The bytes written, and the state. -/
def writePlan (s : State) (a n : Nat) : Except Halt (Nat × State) :=
  if a = 0 then .ok (0, s)
  else if a % 32 ≠ 0 ∨ n < planSize s then .error (.undefinedCase 48)
  else do
    let s1 ← devWrite s a (floorPlan s)
    return (planSize s, s1)

end Sys2Proof.Machine
end

