-- ==== Sys2Proof/Machine/Pails.lean ====
section
/-! DEFINITION. The pail commands on the device, on jobs and on queues: DEV_INFO, FLOORPLAN_GET, JOB_OPEN,
JOB_CLOSE, QUEUE_CREATE, QUEUE_DESTROY and QUEUE_FLUSH (R281 to R288, R449). -/

namespace Sys2Proof.Machine

/-! ### DEV_INFO (R281) -/

/-- Table 10.3. -/
def devInfoBytes (s : State) : List Byte :=
  leBytes 4 (2 * 2 ^ 16 + Config.minorVersion.toNat) ++ leBytes 4 Config.fwVersion.toNat
    ++ leBytes 8 Config.deviceId.toNat ++ leBytes 1 Config.grade.val ++ leBytes 1 (devCode s.boot.dev)
    ++ leBytes 2 (enabledCores s).length ++ leBytes 2 (vaultsInService s).length ++ leBytes 1 (s.boot.effective % 16)
    ++ leBytes 1 (b2n (belowGrade s)) ++ leBytes 4 Config.ucode.toNat ++ leBytes 4 65536 ++ leBytes 2 2048
    ++ leBytes 2 256 ++ leBytes 4 (openJobid s) ++ zeros 24

def devInfo (s : State) (r : PailReq) : Except Halt State :=
  gated s r anyPail [.configReady, .ready, .job, .faulted, .safe] (.ok (answer s r stOk (devInfoBytes s)))

def execDevInfo (r : PailReq) (s : State) : Out State := pailOut s r (.devInfo r) fun s => devInfo s r

/-! ### FLOORPLAN_GET (R449) -/

def floorplanGet (s : State) (r : PailReq) (a n : Nat) : Except Halt State :=
  gated s r anyPail [.ready, .job, .faulted] do
    let (k, s1) ← writePlan s a n
    return answer s1 r stOk (leBytes 4 k)

def execFloorplanGet (r : PailReq) (fpaddr fplen : Nat) (s : State) : Out State :=
  pailOut s r (.floorplanGet r fpaddr fplen) fun s => floorplanGet s r fpaddr fplen

/-! ### JOB_OPEN (R282, R283) -/

/-- The payload is in its ranges (Table 10.4). -/
def jobOpenOk (p : JobOpenP) : Bool :=
  (decide (p.c0Cores ≤ 16) || p.c0Cores == 0xFF) && decide (p.c0Burst < 256)
    && (p.c0Interval == 0 || (decide (100 ≤ p.c0Interval) && decide (p.c0Interval ≤ 10 ^ 9)))

/-- CORE_ID of a core under a rotation map: LOG_VALID and LOGICAL. -/
def setCoreId (s : State) (c : Nat) : State :=
  match logicalOf s c with
  | some n => regSetFld s (coreReg c 0) 31 16 (2 ^ 15 + n)
  | none => s

/-- CORE_EVENTS and the completed-tag set of a core are cleared (R108). -/
def clearCoreEvents (s : State) (c : Nat) : State :=
  updCore s c fun x => { x with events := 0, tags := [], heldTags := [] }

/-- Steps 1 to 5, and state JOB. -/
def openJob (s : State) (p : JobOpenP) : State :=
  let s1 := if p.keepMap then s else rotate s
  let s2 := { s1 with
    job := { s1.job with
      isOpen := true
      jobid := s1.job.nextJobid
      nextJobid := s1.job.nextJobid + 1
      c0Cores := if p.c0Cores = 0xFF then 8 else p.c0Cores
      c0Burst := if p.c0Burst = 0 then 1 else p.c0Burst
      c0Interval := if p.c0Interval = 0 then 1000 else p.c0Interval }
    wq := { s1.wq with spent := [] } }
  let s3 := (enabledCores s2).foldl (fun s c => clearCoreEvents (setCoreId s c) c) s2
  let s4 := sheaves.foldl (fun s h =>
    let s := regFlag s (rngReg h 0) 0 (sheaves.any fun g => holdsReserve s g)
    let s := regFlag s (pwrReg h 0) 4 false
    setSheafPower s h { sheafPowerAt s h with pin := none }) s3
  setDev s4 .job

def jobOpen (s : State) (r : PailReq) (p : JobOpenP) : Except Halt State :=
  gated s r adminPail [.ready]
    (if s.thermal.emerg then .ok (answer s r stBadState [])
    else if !jobOpenOk p then .error (.undefinedCase 48)
    else do
      let s1 := openJob s p
      let (n, s2) ← writePlan s1 p.fpaddr p.fplen
      return answer s2 r stOk (leBytes 4 s1.job.jobid ++ leBytes 4 n))

def execJobOpen (r : PailReq) (p : JobOpenP) (s : State) : Out State := pailOut s r (.jobOpen r p) fun s => jobOpen s r p

/-! ### JOB_CLOSE (R285) -/

/-- The command flushes every queue, and ends at once if nothing is still to end. -/
def jobClose (s : State) (r : PailReq) : Except Halt State :=
  gated s r adminPail [.job, .faulted] do
    let s1 ← startClose (setPending s r)
    tryCloseEnd { s1 with pails := { s1.pails with busy := some (.close r) } }

def execJobClose (r : PailReq) (s : State) : Out State := pailOut s r (.jobClose r) fun s => jobClose s r

/-! ### QUEUE_CREATE (R286) -/

/-- Created class-0 work queues. -/
def class0Queues (s : State) : Nat :=
  ((workQueues s).filter fun q => (queueAt s q).cls = 0).length

/-- QUEUE_CREATE finds a state that forbids it. -/
def createBad (s : State) (p : QueueCreateP) : Bool :=
  (queueAt s p.queue).st != .free
    || (!p.completion && ((queueAt s p.cq).st == .free || !(queueAt s p.cq).completion
      || (p.cls == 0 && decide (16 ≤ class0Queues s))))

/-- The payload is in its ranges (Table 10.5). -/
def createOk (s : State) (p : QueueCreateP) : Bool :=
  let unit := if p.completion then 32 else 64
  decide (6 ≤ p.log2depth) && decide (p.log2depth ≤ 16) && p.base % unit == 0
    && ringPlaced s p.base (unit * 2 ^ p.log2depth)
    && (if p.completion then decide (p.vector < 2048) else decide (p.cls < 4) && decide (p.group < 256))

/-- The queue as created; its generation is one more than at its destruction. -/
def createQueue (s : State) (p : QueueCreateP) (tset : Nat) : State :=
  let old := queueAt s p.queue
  setQueue s p.queue { Queue.reset with
    st := .active
    completion := p.completion
    cls := p.cls
    log2depth := p.log2depth
    weight := if p.weight = 0 then 1 else p.weight
    cq := p.cq
    base := p.base
    tset := tset
    group := p.group
    vector := p.vector
    gen := if old.created then (old.gen + 1) % 65536 else 0
    created := true }

def queueCreate (s : State) (r : PailReq) (p : QueueCreateP) : Except Halt State :=
  gated s r adminPail [.ready, .job]
    (if createBad s p then .ok (answer s r stBadState [])
    else if !createOk s p then .error (.undefinedCase 48)
    else do
      let (t, s1) ← if p.completion then .ok (0, s) else devNat s p.tset 128
      let s2 := createQueue s1 p t
      return answer s2 r stOk (leBytes 2 (queueAt s2 p.queue).gen))

def execQueueCreate (r : PailReq) (p : QueueCreateP) (s : State) : Out State :=
  pailOut s r (.queueCreate r p) fun s => queueCreate s r p

/-! ### QUEUE_DESTROY (R287) -/

/-- The queue is FREE, or in use. -/
def destroyBad (s : State) (q : Nat) : Bool :=
  let x := queueAt s q
  x.st == .free
    || (!x.completion && (x.items.any itemOwed || (stepAt s q).isSome))
    || (x.completion && (workQueues s).any fun w => (queueAt s w).cq == q)

/-- The queue is FREE; its generation is remembered. -/
def destroyQueue (s : State) (q : Nat) : State :=
  let x := queueAt s q
  setQueue s q { Queue.reset with gen := x.gen, created := x.created }

def queueDestroy (s : State) (r : PailReq) (q : Nat) : Except Halt State :=
  gated s r adminPail [.ready, .job, .faulted]
    (.ok (if destroyBad s q then answer s r stBadState [] else answer (destroyQueue s q) r stOk []))

def execQueueDestroy (r : PailReq) (q : Nat) (s : State) : Out State :=
  pailOut s r (.queueDestroy r q) fun s => queueDestroy s r q

/-! ### QUEUE_FLUSH (R288) -/

/-- The queue cannot be flushed so. -/
def flushBad (s : State) (q : Nat) (abort : Bool) : Bool :=
  let x := queueAt s q
  x.completion || !(x.st == .active || (x.st == .held && abort))

/-- A flush begins; it ends when every dispatched item has its record. -/
def flush (s : State) (r : PailReq) (q : Nat) (abort : Bool) : Except Halt State :=
  gated s r adminPail [.ready, .job]
    (if flushBad s q abort then .ok (answer s r stBadState [])
    else do
      let (n, s1) ← startFlush (setPending s r) q abort
      tryFlushEnd { s1 with pails := { s1.pails with busy := some (.flush r q n) } } q)

def queueFlush (s : State) (r : PailReq) (q : Nat) : Except Halt State := flush s r q false
def queueFlushAbort (s : State) (r : PailReq) (q : Nat) : Except Halt State := flush s r q true

def execQueueFlush (r : PailReq) (q : Nat) (s : State) : Out State :=
  pailOut s r (.queueFlush r q) fun s => queueFlush s r q

def execQueueFlushAbort (r : PailReq) (q : Nat) (s : State) : Out State :=
  pailOut s r (.queueFlushAbort r q) fun s => queueFlushAbort s r q

end Sys2Proof.Machine
end

