-- ==== Sys2Proof/Machine/Boot.lean ====
section
/-! DEFINITION. Resets and the boot sequence (R434 to R444), host-side resets (R347) and the firmware
watchdog (R458). -/

namespace Sys2Proof.Machine

/-! ### Retired units (R443) -/

/-- Sheaves in package order (R247). -/
def packageOrder : List Nat := [0, 1, 2, 3, 7, 6, 5, 4]

/-- Key of the received lane of a bridge: forward lanes arrive at gateway A of the next sheaf. -/
def laneKey (bridge ring : Nat) (backward : Bool) : Nat :=
  if backward then 8 * packageOrder.getD (bridge % 8) 0 + 4 + ring
  else 8 * packageOrder.getD ((bridge + 1) % 8) 0 + ring

/-- Whether the lane of a key carries traffic backward, and its bridge. -/
def laneBridge (sheaf : Nat) (gatewayB : Bool) : Nat :=
  let i := packageOrder.idxOf sheaf
  if gatewayB then i else (i + 7) % 8

/-- A received bridge lane. -/
def laneAt (s : State) (k : Nat) : Lane := FMap.getD s.rings.lanes k .reset
def setLane (s : State) (k : Nat) (x : Lane) : State :=
  { s with rings := { s.rings with lanes := FMap.set s.rings.lanes k x } }

/-- A listed unit is not used (R443). -/
def applyRetired (s : State) (r : Retired) : State :=
  match r.kind with
  | 0 => { s with boot := { s.boot with
      disabledCores := if s.boot.disabledCores.contains r.number then s.boot.disabledCores
                       else s.boot.disabledCores ++ [r.number] } }
  | 1 => { s with boot := { s.boot with
      outVaults := if s.boot.outVaults.contains r.number then s.boot.outVaults
                   else s.boot.outVaults ++ [r.number] } }
  | 2 => regFlag s (lnkReg r.number 0) (16 + r.sub) true
  | _ => setLane s (laneKey r.number (r.sub % 4) (bit r.sub 2))
      { laneAt s (laneKey r.number (r.sub % 4) (bit r.sub 2)) with up := false }

/-- A unit joins the retired-unit list at once. -/
def retire (s : State) (kind reason number sub : Nat) : State :=
  { s with flash := { s.flash with
    retired := s.flash.retired ++ [⟨kind, reason, number, sub, boots s⟩] } }

/-! ### What a reset keeps -/

/-- A memory key of host memory, which no reset of the device touches. -/
def hostMem (m : List Host.Cell) : List Host.Cell := m.filter fun e => decide (2 ^ 64 ≤ e.1)

/-- Memory keys of vaults. -/
def vaultMem {α : Type} (m : FMap α) : FMap α := m.filter fun e => decide (e.1 < 0x20000000000)

/-- Two entries of the retired-unit list name one unit. -/
def sameUnit (a b : Retired) : Bool := a.kind == b.kind && a.number == b.number && a.sub == b.sub

/-- A boot begins: it is counted, units marked in operation are listed, once each, and the boot ROM runs (R443). -/
def startBoot (s : State) : State :=
  let n := s.flash.boots + 1
  let new := s.flash.marked.filter fun r => !s.flash.retired.any (sameUnit r)
  { s with
    flash := { s.flash with
      boots := n
      retired := s.flash.retired ++ new.map fun r => { r with boot := n }
      marked := [] }
    boot := { s.boot with phase := .rom } }

/-- A trip entry that the always-on domain wrote becomes a record with TRIP set (R410, R462). -/
def tripRecordAtBoot (s : State) : State :=
  match s.fault.tripEntry with
  | none => s
  | some (stop, reading) =>
    let r : FaultRec :=
      { seq := s.fault.nextSeq, kind := 1, cause := 0x09, sub := 0, secondary := false, trip := true,
        volatileRec := false, jobid := 0, dtime := 0, tstate := 0, state := 0, unit := stop,
        queue := 0xFFFF, cmdid := 0, boots := boots s, addr := 0, detail0 := unsigned 64 reading,
        primarySeq := 0 }
    { s with fault := { s.fault with
      records := s.fault.records ++ [r]
      flash := (s.fault.flash ++ [r]).drop (s.fault.flash.length + 1 - 65536)
      nextSeq := s.fault.nextSeq + 1
      tripEntry := none } }

/-- Key of a received lane of a gateway. -/
def recvKey (sheaf : Nat) (gatewayB : Bool) (ring : Nat) : Nat := 8 * sheaf + 4 * b2n gatewayB + ring

/-- A lane is retired until the next boot, which lists it. -/
def retireLane (s : State) (sheaf : Nat) (gatewayB : Bool) (ring : Nat) : State :=
  let k := recvKey sheaf gatewayB ring
  markUnit (event (setLane s k { laneAt s k with up := false, retrain := false }) (rngReg sheaf 8) 0 (rngReg sheaf 0x20))
    3 6 (laneBridge sheaf gatewayB) (ring + 4 * b2n gatewayB)

/-- Boot training of a bridge lane (R271): at most two failed wires of each group are mapped onto its spares, and a group
with more retires the lane. -/
def trainWires (s : State) (w : WireTest) : State :=
  let k := recvKey w.sheaf w.gatewayB w.ring
  if w.bad.any fun n => decide (2 < n) then retireLane s w.sheaf w.gatewayB w.ring
  else setLane s k { laneAt s k with spared := (w.bad.take 9).foldl (· + ·) 0 }

/-- The state after a power-on reset: what lies in flash, in fuses and outside the device is kept. -/
def powerOn (s : State) (straps : Straps) (wires : List WireTest) : State :=
  let s0 := State.reset
  let t := { s0 with
    pending := s.pending
    free := s.free
    mem := hostMem s.mem
    flash := s.flash
    wear := s.wear
    fault := { s0.fault with
      records := s.fault.flash.drop (s.fault.flash.length - 1024)
      flash := s.fault.flash
      nextSeq := s.fault.nextSeq
      tripEntry := s.fault.tripEntry }
    boot := { s0.boot with pwrok := true, straps := straps } }
  let b := (wires.filter fun w => decide (w.sheaf < 8) && decide (w.ring < 4)).foldl trainWires (startBoot t)
  if straps.testmode then { b with boot := { b.boot with phase := .stuck } } else tripRecordAtBoot b

/-- PWROK_RISE (R271, R434, R436 step 1): straps are sampled, bridge wires are trained and the boot ROM starts. -/
def execPwrokRise (p : PowerOn) (s : State) : Out State :=
  .next (if s.boot.pwrok then s else powerOn s p.straps p.wires)

/-- The state while PWROK is low: clocks are stopped, outputs are at reset, THERMTRIP_N is released (R359). -/
def powerOff (s : State) : State :=
  { s with
    boot := { s.boot with
      pwrok := false, perst := true, tripped := false, phase := .off, dev := .boot
      pcieHeld := true, katDone := false, linksReady := false }
    board := { State.reset.board with lost := 0 }
    time := { s.time with ppsOut := false } }

/-- PWROK_FALL (R359). -/
def execPwrokFall (s : State) : Out State := .next (if s.boot.pwrok then powerOff s else s)

/-- A register of this address is a counter (Table 2.14), which a conventional reset keeps (R419, R435). -/
def isCounter (a : Nat) : Bool := regSpec a == some RegSpec.counter

/-- The work that commands have in flight is discarded as in a job fault: what they were to write is undefined (R435, R467). -/
def discardWork (s : State) : State :=
  (workQueues s).foldl (fun s q => ((queueAt s q).items.filter itemOwed).foldl (fun s i => haltItem s q i) s) s

/-- The conventional reset (R435): work in flight is discarded, every link is down, and the device boots again
from step 2; vault contents, counters, the wear log and the fault records are kept, and the always-on domain carries
DTIME until firmware runs (R336). -/
def conventional (s : State) : State :=
  let s0 := State.reset
  let w := discardWork s
  startBoot { s0 with
    pending := s.pending
    free := s.free
    mem := w.mem.filter fun e => decide (e.1 < 0x20000000000) || decide (2 ^ 64 ≤ e.1)
    marks := vaultMem w.marks
    regs := s.regs.filter fun e => isCounter e.1
    flash := s.flash
    wear := s.wear
    fault := { s.fault with
      detected := [], primary := none, secondaries := 0, records := s.fault.flash.drop (s.fault.flash.length - 1024) }
    time := { (timeStops s).time with
      announces := []
      active := none
      cfg := TimeP.reset
      asleep := some (s.time.asleep.getD (s.time.dtime, s.time.bound, 0))
      ppsOut := false }
    boot := { s0.boot with pwrok := true, straps := s.boot.straps } }

/-- PERST_ASSERT (R435). -/
def execPerstAssert (s : State) : Out State := 
  act s (!s.boot.perst && !s.boot.straps.testmode) (conventional s)

/-- PERST_DEASSERT: the PCI Express controller is released (R435). -/
def execPerstDeassert (s : State) : Out State :=
  act s s.boot.perst { s with boot := { s.boot with perst := false, pcieHeld := false } }

/-! ### Images (R437) -/

/-- An image that the boot ROM accepts. -/
def imageOk (s : State) (i : FlashImage) : Bool :=
  i.magicOk && i.sigOk && decide (s.flash.fuses ≤ i.svn) && decide (i.svn ≤ 64)

/-- A main image by number. -/
def mainImage (s : State) (b : Bool) : FlashImage := if b then s.flash.imageB else s.flash.imageA

/-- The firmware of an accepted image starts (R436 step 3): licences and retired units take effect; a bad board
descriptor ends in SAFE (R355). -/
def firmwareStart (s : State) (image : Nat) (fallback : Bool) : State :=
  let lic := s.flash.licences.foldl (fun a r => a ||| r.features % 16) 0
  let s1 := { s with
    boot := { s.boot with image, fallback, effective := lic, phase := .firmware }
    links := { s.links with cfg := s.flash.linkCfg.getD LinkP.reset } }
  let s2 := s1.flash.retired.foldl applyRetired (timeResumes s1)
  if s.flash.boardOk then s2
  else
    let s3 := noteRecord s2 4 0x43 0xFFFF 0
    setDev { s3 with boot := { s3.boot with phase := .done } } .safe

/-- The recovery image under the same checks: SAFE, or BOOT until power falls. -/
def tryRecovery (s : State) : State :=
  if imageOk s s.flash.recovery then
    let s1 := firmwareStart s 2 true
    setDev { s1 with boot := { s1.boot with phase := .done } } .safe
  else { s with boot := { s.boot with phase := .stuck } }

/-- The main image that the active pointer does not name is tried once, with FALLBACK set. -/
def tryOther (s : State) : State :=
  let b := !s.flash.activeB
  if imageOk s (mainImage s b) then firmwareStart s (b2n b) true else tryRecovery s

/-- BOOT_IMAGE_AUTHENTICATE (R436 steps 2 and 3, R437). -/
def execBootImageAuthenticate (s : State) : Out State :=
  let b := s.flash.activeB
  act s (s.boot.phase == .rom)
    (if imageOk s (mainImage s b) then firmwareStart s (b2n b) false else tryOther s)

/-- BOOT_FALLBACK_TIMEOUT: an image that has not reached CONFIG_READY within 2 s (R437). -/
def execBootFallbackTimeout (s : State) : Out State :=
  act s ((s.boot.phase == .firmware || s.boot.phase == .trained) && s.boot.image != 2)
    (let t := { s with boot := { s.boot with disabledCores := [], outVaults := [] } }
     if s.boot.fallback then tryRecovery t else tryOther t)

/-! ### Training, CONFIG_READY, the known-answer test, READY -/

/-- Vaults are trained (R436 step 4): one that fails is out of service and retired. -/
def trainVaults (s : State) (failing : List Nat) : State :=
  let bad := failing.filter fun v => vaultInService s v
  let s1 := bad.foldl (fun s v => retire s 1 2 v 0) s
  let s2 := { s1 with boot := { s1.boot with outVaults := s1.boot.outVaults ++ bad.eraseDups, phase := .trained } }
  (vaultsInService s2).foldl (fun s v => updDom s ⟨.vault, v⟩ fun d => { d with st := .on }) s2

/-- VAULT_TRAINING. -/
def execVaultTraining (failing : List Nat) (s : State) : Out State :=
  act s (s.boot.phase == .firmware) (trainVaults s failing)

/-- CONFIG_READY (R22, R436 step 5): the stripe set is fixed and enabled links begin training. -/
def reachConfigReady (s : State) : State :=
  let s1 := { s with boot := { s.boot with phase := .configReady, stripe := vaultsInService s } }
  setDev ((List.range 32).foldl enableLink s1) .configReady

def execConfigReady (s : State) : Out State := act s (s.boot.phase == .trained) (reachConfigReady s)

/-- A core that fails the known-answer test is disabled, retired and reported (R441). -/
def failCore (s : State) (c : Nat) : State :=
  let s1 := retire s 0 1 c 0
  let s2 := { s1 with boot := { s1.boot with disabledCores := s1.boot.disabledCores ++ [c] } }
  noteRecord s2 5 0x50 c 0

/-- The known-answer test has run on every enabled core: SRAM is undefined, failing cores are retired. -/
def runKat (s : State) (failing : List Nat) : State :=
  (failing.filter fun c => coreEnabled s c).eraseDups.foldl failCore (undefSram s)

/-- The known-answer test of a boot also measures thermal classes (R404). -/
def bootKat (s : State) (failing : List Nat) (classes : List (Nat × Nat)) : State :=
  let s1 := runKat s failing
  let s2 := { s1 with boot := { s1.boot with
    katDone := true
    thermalClass := classes.foldl (fun m p => FMap.set m p.1 (p.2 % 4)) s1.boot.thermalClass } }
  (enabledCores s2).foldl (fun s c => updDom s ⟨.core, c⟩ fun d => { d with st := .on }) s2

/-- KNOWN_ANSWER_TEST (R436 step 6). -/
def execKnownAnswerTest (failing : List Nat) (classes : List (Nat × Nat)) (s : State) : Out State :=
  act s (s.boot.phase == .configReady && !s.boot.katDone) (bootKat s failing classes)

/-- SVN of the image that runs, and whether it is a main image. -/
def runningSvn (s : State) : Nat :=
  if s.boot.image = 0 then s.flash.imageA.svn else if s.boot.image = 1 then s.flash.imageB.svn else 0

/-- READY (R436 step 8): anti-rollback fuses are blown up to the SVN of a main image (R438). -/
def enterReady (s : State) : State :=
  let s1 := { s with flash := { s.flash with fuses := max s.flash.fuses (runningSvn s) } }
  setDev { s1 with boot := { s1.boot with phase := .done } } .ready

/-- READY_ENTRY. -/
def execReadyEntry (s : State) : Out State :=
  act s (s.boot.phase == .configReady && s.boot.katDone && s.boot.linksReady) (enterReady s)

/-! ### Host-side resets (R347) -/

/-- Every command that a flush stops at once may be closed: those that run to their own record have ended. -/
def closable (s : State) : Bool :=
  (workQueues s).all fun q => (queueAt s q).items.all fun i => !itemLive i || stoppable i.cmd

/-- Every queue is destroyed; its generation is kept for the next QUEUE_CREATE. -/
def destroyQueues (s : State) : State :=
  { s with wq := { s.wq with queues := s.wq.queues.map fun e =>
    (e.1, { Queue.reset with gen := e.2.gen, created := e.2.created }) } }

/-- Registers and configuration that a host-side reset returns to reset values. -/
def resetHostRegs (s : State) : State :=
  let s1 := [0x10000, 0x48, 0x50, 0x58, 0x40].foldl (fun s o => regSet s (hubReg o) (regReset (hubReg o))) s
  { s1 with host := { State.reset.host with sent := s1.host.sent } }

/-- Step 1 of R347: the effects of JOB_CLOSE, of which nothing reaches host memory; the writes that do not leave are not
counted as blocked. -/
def resetClose (s : State) : Except Halt State := do
  let s1 ← startClose { s with host := { s.host with busMaster := false, msixEnable := false } }
  let s2 ← finishClose s1 (s.boot.dev == .job)
  .ok (regSet s2 (hubReg 0x60) (regGet s (hubReg 0x60)))

/-- Step 3 of R347: in-band pail commands stop without an answer; out-of-band pails continue. -/
def dropPails (s : State) : State :=
  { s with pails := { s.pails with
    busy := s.pails.busy.filter fun b => decide (64 ≤ busyPail b), deferred := s.pails.deferred.filter fun e => decide (64 ≤ e.1.pail) } }

/-- The three resets of R347. -/
def hostReset (s : State) : Except Halt State := do
  let s1 ← if s.boot.dev = .job ∨ s.boot.dev = .faulted then resetClose s else .ok s
  .ok (resetHostRegs (dropPails (destroyQueues s1)))

/-- HOST_SIDE_RESET. -/
def execHostSideReset (kind : HostReset) (s : State) : Out State :=
  actE s (!s.boot.pcieHeld && closable s) (match kind with
    | .flr => hostReset s
    | .hot => hostReset s
    | .linkDown => hostReset s)

/-! ### The watchdog (R458) -/

/-- Pail commands that executed at the expiry answer with FAULT, and the firmware restarts. -/
def restartFirmware (s : State) : State :=
  let s1 := match s.pails.busy with
    | some (.flush r q n) => flushAnswer s r q n stFault
    | some (.pin r _) => answer s r stFault []
    | some (.close r) => answer s r stFault []
    | none => s
  { s1 with pails := { s1.pails with busy := none, restarting := true } }

/-- A management core's watchdog expired: the cause is detected, and the quiesce runs in hardware. -/
def watchdog (s : State) (core : Nat) : Except Halt State :=
  takeCauses (restartFirmware (detect s ⟨0x06, 0, core, 0, 0, 0xFFFF, 0⟩))

/-- WATCHDOG_EXPIRY. -/
def execWatchdogExpiry (core : Nat) (s : State) : Out State :=
  actE s (s.boot.phase != .rom && s.boot.phase != .stuck) (watchdog s core)

end Sys2Proof.Machine
end

