-- ==== Sys2Proof/Machine/DomOps.lean ====
section
/-! DEFINITION. Wake requests of power domains (R391 to R395) and the budget of the keep regulators
(R396 to R400). -/

namespace Sys2Proof.Machine

/-- The domain is one that can be On: not a disabled core, a vault out of service or a link that is not
enabled (R386, R388). -/
def domUsable (s : State) (d : Dom) : Bool := match d.kind with
  | .core => coreEnabled s d.num
  | .vault => vaultInService s d.num
  | .link => bit (regGet s (lnkReg d.num 0)) 0
  | _ => true

/-- A request for On: held during a transition, else the wake begins (R391, R393). -/
def requestOn (s : State) (d : Dom) : State :=
  if !domUsable s d then s
  else
    let x := domAt s d
    match x.trans with
    | some _ => setDom s d { x with heldReq := some .on }
    | none => if x.st = .on then s else setDom (releaseBanks s d) d { x with trans := some .on, sleep := .none }

/-- A pulse (R394): it withdraws a sleep request that is not accepted, is lost in the entry window, and wakes a
domain in a low-power state or on its way there. -/
def pulseWake (s : State) (d : Dom) : State :=
  let x := domAt s d
  if x.st = .on ∧ x.trans = none then
    if x.sleep = .raised then setDom s d { x with sleep := .none } else s
  else requestOn s d

/-- A level that holds until the domain is On (R393, R394). -/
def levelWake (s : State) (d : Dom) : State :=
  let x := domAt s d
  if x.st = .on ∧ x.trans = none ∧ x.sleep = .none then s
  else if x.st = .on ∧ x.trans = none then setDom s d { x with level := true }
  else requestOn (setDom s d { x with level := true }) d

/-- A low-power state is the one that a policy leads to. -/
def permitsLow (x : DomRec) (st : DomSt) : Bool := match st with
  | .on => true
  | .retention => x.action == .retention
  | .off => x.action == .off || (x.action == .retention && x.offtimer != 0)

/-! ### Keep regulators -/

/-- Register and lowest bit of the banks that a core has selected for retention (DOM_RETAIN). -/
def retainReg (c : Nat) : Nat := pwrReg (c / 128) (0x900 + 8 * (c % 128 / 4))
def banksSel (s : State) (c : Nat) : Nat := regFld s (retainReg c) (16 * (c % 4) + 15) (16 * (c % 4))

/-- Banks selected for retention in a sheaf. -/
def sheafSel (s : State) (h : Nat) : Nat :=
  ((List.range 128).map fun i => (bitList (banksSel s (h * 128 + i)) 16).length).foldl (· + ·) 0

/-- The keep regulator of a sheaf has failed (R400). -/
def keepFailed (s : State) (h : Nat) : Bool := s.doms.keepFail.contains h

/-- Banks in Retention now in a sheaf. -/
def sheafRetained (s : State) (h : Nat) : Nat :=
  ((s.doms.retained.filter fun e => e.1 / 128 = h).map fun e => (bitList e.2 16).length).foldl (· + ·) 0

/-- I(T) of one bank, µA (Table 14.5): linear between its points, 4 mA below 50 °C, 0.35 mA/°C above 95 °C. -/
def bankUa (t : Int) : Int :=
  if t ≤ 50 then 4000
  else if t ≤ 75 then 4000 + (t - 50) * 200
  else if t ≤ 95 then 9000 + (t - 75) * 350
  else 16000 + (t - 95) * 350

/-- Banks that 1.0 A supplies at I(T). -/
def banksWithin (t : Int) : Nat := (1000000 / bankUa t).toNat

/-- Hottest store-die reading of a sheaf, °C. -/
def hotStore (s : State) (h : Nat) : Int := FMap.getD s.thermal.hotStore h 0

/-- Banks admissible in Retention in a sheaf now (R397): 62, or what 1.0 A supplies at I(T + 5 °C), at most 250. -/
def keepBudget (s : State) (h : Nat) : Nat :=
  if keepFailed s h then 0
  else if s.doms.aggressive then min 250 (banksWithin (hotStore s h + 5)) else 62

/-- Limit of the selection in a sheaf (R397). -/
def selLimit (s : State) : Nat := if s.doms.aggressive then 250 else 62

end Sys2Proof.Machine
end

