-- ==== Sys2Proof/Machine/ConfigPails.lean ====
section
/-! DEFINITION. The pail commands that configure the device: POWER_SET_CAP, POWER_SET_OPP (R375, R378),
DOMAIN_POLICY (R388 to R397), LICENCE_INSTALL and LICENCE_LIST (R450 to R452), TIME_CONFIG (R337) and
LINK_CONFIG (R317). -/

namespace Sys2Proof.Machine

/-! ### POWER_SET_CAP (R378) -/

/-- A field is zero or in its range. -/
def zeroOr (x lo hi : Nat) : Bool := x == 0 || (decide (lo ≤ x) && decide (x ≤ hi))

def capOk (p : CapP) : Bool :=
  zeroOr p.cap 1500 4600 && zeroOr p.window 500 10000 && zeroOr p.holdup 800 1500 && zeroOr p.slope 5 60

/-- A zero keeps the value. -/
def keepFld (s : State) (a hi lo v : Nat) : State := if v = 0 then s else regSetFld s a hi lo v

/-- PWR_CAP takes the fields, and SLOPE is in force in every sheaf; during a battery warning CAP takes effect at once, else
at the next update (R378). -/
def setCap (s : State) (p : CapP) : State :=
  let a := pwrReg 0 0x100
  let s1 := keepFld (keepFld (keepFld (keepFld s a 15 0 p.cap) a 31 16 p.window) a 47 32 p.holdup) a 55 48 p.slope
  let s2 := sheaves.foldl (fun s h => keepFld s (pwrReg h 0x10) 7 0 p.slope) s1
  if s.power.holdup = .none then s2 else setEffCap s2

/-- EFFCAP, PWIN and P1MS. -/
def capAnswer (s : State) : List Byte :=
  let x := regGet s (pwrReg 0 0x108)
  leBytes 4 (bits x 47 32) ++ leBytes 4 (bits x 31 16) ++ leBytes 4 (bits x 15 0)

def powerSetCap (s : State) (r : PailReq) (p : CapP) : Except Halt State :=
  if s.boot.dev != .boot && adminOob (pailKind s r.pail) && decide (4000 < p.cap) && !licensed s 3 then
    .ok (answer s r stLicence [])
  else gated s r adminOob [.configReady, .ready, .job, .faulted]
    (if !capOk p then .error (.undefinedCase 48)
    else .ok (answer (setCap s p) r stOk (capAnswer (setCap s p))))

def execPowerSetCap (r : PailReq) (p : CapP) (s : State) : Out State :=
  pailOut s r (.powerSetCap r p) fun s => powerSetCap s r p

/-! ### POWER_SET_OPP (R375) -/

/-- The sheaves return to automatic selection. -/
def setAuto (s : State) (mask : Nat) : State :=
  (bitList mask 8).foldl (fun s h =>
    regFlag (setSheafPower s h { sheafPowerAt s h with pin := none }) (pwrReg h 0) 4 false) s

def powerSetOppAuto (s : State) (r : PailReq) (mask : Nat) : Except Halt State :=
  gated s r adminPail [.configReady, .ready, .faulted]
    (.ok (answer (setAuto s mask) r stOk (oppBytes s)))

def execPowerSetOppAuto (r : PailReq) (mask : Nat) (s : State) : Out State :=
  pailOut s r (.powerSetOppAuto r mask) fun s => powerSetOppAuto s r mask

/-- The sheaves are pinned, and each moves to its pin or to the highest point the limits allow. -/
def setPin (s : State) (opp mask : Nat) : State :=
  (bitList mask 8).foldl (fun s h =>
    let s1 := regFlag (setSheafPower s h { sheafPowerAt s h with pin := some opp }) (pwrReg h 0) 4 true
    startOpp s1 h (oppGoal s1 h)) s

/-- The pail answers once every change that it started has ended. -/
def tryPinEnd (s : State) : State :=
  match s.pails.busy with
  | some (.pin r mask) =>
    if oppSettled s mask then
      answer { s with pails := { s.pails with busy := none } } r stOk (oppBytes s)
    else s
  | _ => s

def powerSetOppPin (s : State) (r : PailReq) (opp mask : Nat) : Except Halt State :=
  gated s r adminPail [.configReady, .ready, .faulted]
    (if 7 < opp then .error (.undefinedCase 48)
    else
      let s1 := setPin (setPending s r) opp mask
      .ok (tryPinEnd { s1 with pails := { s1.pails with busy := some (.pin r mask) } }))

def execPowerSetOppPin (r : PailReq) (opp mask : Nat) (s : State) : Out State :=
  pailOut s r (.powerSetOppPin r opp mask) fun s => powerSetOppPin s r opp mask

/-! ### DOMAIN_POLICY (R389, R390) -/

/-- Domains of a kind. -/
def domCount : DomKind → Nat
  | .core | .vault => 1024
  | .link => 32
  | .fabric => 8
  | .time | .host => 1

/-- Cores that a set names: physical, or logical of the open job (R284). -/
def setCores (s : State) (logical : Bool) (set : Nat) : List Nat :=
  if logical then (bitList set 1024).filterMap fun n => physOf s n else bitList set 1024

/-- Domains that a set names. -/
def setDoms (s : State) (kind : DomKind) (logical : Bool) (set : Nat) : List Dom :=
  (if kind = .core then setCores s logical set else bitList set (domCount kind)).map fun n => ⟨kind, n⟩

/-- Banks selected in each sheaf, 0 where the keep regulator has failed (R400). -/
def policyAnswer (s : State) : List Byte :=
  sheaves.flatMap fun h => leBytes 2 (if keepFailed s h then 0 else sheafSel s h)

/-- A policy reaches one domain: a state that it does not permit is left, and NONE asserts a level (R390). -/
def applyPolicy (s : State) (p : TimersP) (d : Dom) : State :=
  let x := domAt s d
  let dflt := DomRec.reset d.kind
  let y := if p.dflt then { x with action := dflt.action, timer := dflt.timer, offtimer := dflt.offtimer }
    else { x with action := p.action, timer := p.timer, offtimer := p.offtimer }
  let s1 := setDom s d y
  let low := match y.trans with
    | some t => t
    | none => y.st
  if y.action = .none then levelWake s1 d
  else if permitsLow y low then s1 else requestOn s1 d

/-- A payload that names what the spec does not number. -/
def timersOk (p : TimersP) : Bool :=
  p.kind != .host && (!p.logical || p.kind == .core)
    && (p.dflt || (decide (1 ≤ p.timer) && decide (p.timer ≤ 10 ^ 9)))

def domainPolicyTimers (s : State) (r : PailReq) (p : TimersP) : Except Halt State :=
  gated s r adminPail [.ready, .job]
    (if !timersOk p then .error (.undefinedCase 48)
    else if (p.logical && !s.job.isOpen) || (!p.dflt && p.action == .off && (p.kind == .fabric || p.kind == .time)) then
      .ok (answer s r stBadState [])
    else do
      let (set, s1) ← readSet s p.set
      if p.kind = .time ∧ 1 < set then return answer s1 r stBadState []
      else
        let s2 := (setDoms s1 p.kind p.logical set).foldl (fun s d => applyPolicy s p d) s1
        return answer s2 r stOk (policyAnswer s2))

def execDomainPolicyTimers (r : PailReq) (p : TimersP) (s : State) : Out State :=
  pailOut s r (.domainPolicyTimers r p) fun s => domainPolicyTimers s r p

/-- A core's selection of banks. -/
def selectBanks (s : State) (c banks : Nat) : State :=
  regSetFld s (retainReg c) (16 * (c % 4) + 15) (16 * (c % 4)) banks

/-- A selection raises some sheaf above the admission limit (R397). -/
def overLimit (s t : State) : Bool :=
  sheaves.any fun h => decide (selLimit s < sheafSel t h) && decide (sheafSel s h < sheafSel t h)

def domainPolicyRetain (s : State) (r : PailReq) (logical : Bool) (banks set : Nat) : Except Halt State :=
  gated s r adminPail [.ready, .job]
    (if logical && !s.job.isOpen then .ok (answer s r stBadState [])
    else do
      let (m, s1) ← readSet s set
      let s2 := (setCores s1 logical m).foldl (fun s c => selectBanks s c banks) s1
      if overLimit s1 s2 then return answer s1 r stBusy []
      else return answer s2 r stOk (policyAnswer s2))

def execDomainPolicyRetain (r : PailReq) (logical : Bool) (banks set : Nat) (s : State) : Out State :=
  pailOut s r (.domainPolicyRetain r logical banks set) fun s => domainPolicyRetain s r logical banks set

def domainPolicyWake (s : State) (r : PailReq) (kind : DomKind) (logical : Bool) (set : Nat) : Except Halt State :=
  gated s r adminPail [.ready, .job]
    (if kind = .host ∨ (logical ∧ kind ≠ .core) then .error (.undefinedCase 48)
    else if logical && !s.job.isOpen then .ok (answer s r stBadState [])
    else do
      let (m, s1) ← readSet s set
      if kind = .time ∧ 1 < m then return answer s1 r stBadState []
      else
        let s2 := (setDoms s1 kind logical m).foldl pulseWake s1
        return answer s2 r stOk (policyAnswer s2))

def execDomainPolicyWake (r : PailReq) (kind : DomKind) (logical : Bool) (set : Nat) (s : State) : Out State :=
  pailOut s r (.domainPolicyWake r kind logical set) fun s => domainPolicyWake s r kind logical set

/-- ADMIT is shown in every sheaf (Table 14.9). -/
def setAdmit (s : State) (aggr : Bool) : State :=
  sheaves.foldl (fun s h => regFlag s (pwrReg h 0x800) 4 aggr) { s with doms := { s.doms with aggressive := aggr } }

def domainPolicyAdmit (s : State) (r : PailReq) (aggr : Bool) : Except Halt State :=
  gated s r adminPail [.ready, .job]
    (if !aggr && sheaves.any fun h => decide (62 < sheafSel s h) then .ok (answer s r stBusy [])
    else .ok (answer (setAdmit s aggr) r stOk (policyAnswer s)))

def execDomainPolicyAdmit (r : PailReq) (aggr : Bool) (s : State) : Out State :=
  pailOut s r (.domainPolicyAdmit r aggr) fun s => domainPolicyAdmit s r aggr

/-! ### Licences (R450 to R452) -/

/-- A pail command fails in hardware: FAULT and a record of kind pail failure (R280). -/
def pailFails (s : State) (r : PailReq) (cause opcode : Nat) : State :=
  answer (noteRecord s 6 cause r.pail opcode) r stFault []

/-- EFFECTIVE and PENDING. -/
def licBytes (s : State) : List Byte :=
  leBytes 1 (s.boot.effective % 16) ++ leBytes 1 (s.boot.pendingLic % 16)

/-- A record is stored, and its features take effect at once, or at the job's end. -/
def storeLicence (s : State) (x : LicenceRec) : State :=
  let s1 := { s with flash := { s.flash with licences := s.flash.licences ++ [x] } }
  let f := x.features % 16
  if s.boot.dev = .job then
    let fresh := f &&& (15 - s.boot.effective % 16)
    { s1 with boot := { s1.boot with pendingLic := s1.boot.pendingLic ||| fresh } }
  else applyFeatures s1 f

def licenceInstall (s : State) (r : PailReq) (x : LicenceRec) (flashOk : Bool) : Except Halt State :=
  gated s r adminPail [.configReady, .ready, .job]
    (.ok (if !Config.licenceSigOk x || x.deviceId != Config.deviceId.toNat then pailFails s r 0x61 0x40
      else if s.flash.licences.any fun y => y.serial == x.serial then answer s r stOk (licBytes s)
      else if 256 ≤ s.flash.licences.length then answer s r stBusy (licBytes s)
      else if !flashOk then pailFails s r 0x60 0x40
      else answer (storeLicence s x) r stOk (licBytes (storeLicence s x))))

def execLicenceInstall (r : PailReq) (p : LicenceP) (s : State) : Out State :=
  pailOut s r (.licenceInstall r p) fun s => licenceInstall s r p.record p.flashOk

/-- An entry of LICENCE_LIST. -/
def licEntry (x : LicenceRec) : List Byte :=
  leBytes 4 x.serial ++ leBytes 4 x.features ++ leBytes 8 x.issued ++ zeros 16

def licenceList (s : State) (r : PailReq) (first : Nat) : Except Halt State :=
  gated s r anyPail [.configReady, .ready, .job, .faulted, .safe]
    (.ok (answer s r stOk (leBytes 2 s.flash.licences.length ++ licBytes s ++ zeros 4
      ++ ((s.flash.licences.drop first).take 63).flatMap licEntry)))

def execLicenceList (r : PailReq) (first : Nat) (s : State) : Out State :=
  pailOut s r (.licenceList r first) fun s => licenceList s r first

/-! ### TIME_CONFIG (R337) -/

/-- The payload is in its ranges (Table 11.7). -/
def timeOk (p : TimeP) : Bool :=
  decide (p.domain ≤ 127) && decide (p.encap ≤ 2) && zeroOr p.annTmo 2 255 && decide (p.portmask < 2 ^ 32)

/-- Zero fields take their defaults. -/
def timeDefaults (p : TimeP) : TimeP :=
  { p with
    annTmo := if p.annTmo = 0 then 3 else p.annTmo
    stepThr := if p.stepThr = 0 then 1000 else p.stepThr
    holdPpb := if p.holdPpb = 0 then (if p.timeref then 10 else 100) else p.holdPpb
    frBound := if p.frBound = 0 then 1000000 else p.frBound }

/-- The configuration is applied: a change of DOMAIN or ENCAP, or the clearing of PTP, ends the lock, and so does the
clearing of PPS while 1PPS_IN is the source. -/
def applyTime (s : State) (p : TimeP) : State :=
  let old := s.time.cfg
  let lost := old.domain != p.domain || old.encap != p.encap || (old.ptp && !p.ptp)
  let s1 := { s with time := { s.time with
    cfg := timeDefaults p
    timerefLost := s.time.timerefLost && p.timeref
    announces := if lost then [] else s.time.announces.filter fun e => bit p.portmask e.1 } }
  if lost then sourceLost { s1 with time := { s1.time with grandmaster := none } }
  else reselect (if s.time.ppsAt.isSome && !p.pps then sourceLost s1 else s1)

def timeConfig (s : State) (r : PailReq) (p : TimeP) : Except Halt State :=
  gated s r adminPail [.configReady, .ready, .job]
    (if !timeOk p then .error (.undefinedCase 48) else .ok (answer (applyTime s p) r stOk []))

def execTimeConfig (r : PailReq) (p : TimeP) (s : State) : Out State :=
  pailOut s r (.timeConfig r p) fun s => timeConfig s r p

/-- DTIME is stepped to TOD, and is set but not disciplined (Table 11.6). -/
def setTod (s : State) (tod : Nat) : State :=
  let s1 := stepTime s tod
  setTimeSt { s1 with time := { s1.time with bound := noBound, good := 0, slewing := false, slewLeft := 0 } } .freerun

def timeConfigSet (s : State) (r : PailReq) (p : TimeP) (tod : Nat) : Except Halt State :=
  gated s r adminPail [.configReady, .ready, .job]
    (if !timeOk p then .error (.undefinedCase 48)
    else if tod * 2 ^ 16 < s.time.dtime then .ok (answer s r stBadState [])
    else .ok (answer (setTod (applyTime s p) tod) r stOk []))

def execTimeConfigSet (r : PailReq) (p : TimeP) (tod : Nat) (s : State) : Out State :=
  pailOut s r (.timeConfigSet r p tod) fun s => timeConfigSet s r p tod

/-! ### LINK_CONFIG (R317) -/

/-- The payload is in its ranges (Table 11.2). -/
def linkOk (p : LinkP) : Bool :=
  decide (p.devid < 4096) && decide (p.encap ≤ 2) && decide (p.minlinks ≤ 32) && decide (p.fmode < 6)
    && decide (p.vid < 4096) && p.macpfx % 2 ^ 17 == 0 && decide (p.macpfx < 2 ^ 48) && p.ipv4base % 2 ^ 18 == 0
    && zeroOr p.peerTmo 10 60000

/-- Zero fields take their defaults. -/
def linkDefaults (p : LinkP) : LinkP :=
  { p with
    minlinks := if p.minlinks = 0 then 28 else p.minlinks
    ethertype := if p.ethertype = 0 then 0x88B5 else p.ethertype
    udpport := if p.udpport = 0 then 47710 else p.udpport
    pcpmap := if p.pcpmap = 0 then 0o3336 else p.pcpmap
    rttTgt := if p.rttTgt = 0 then 20 else p.rttTgt
    dscpmap := if p.dscpmap = 0 then 0x1A1A1A2E else p.dscpmap
    peerTmo := if p.peerTmo = 0 then 1000 else p.peerTmo }

/-- Lanes of a link on the retired-unit list. -/
def retiredLanes (s : State) (l : Nat) : Nat :=
  maskOf ((List.range 8).filter fun k => s.flash.retired.any fun r => r.kind = 2 && r.number = l && r.sub = k)

/-- The configuration is applied; links whose mask bit, FORCE setting or forced mode changed retrain, and a change of
device ID drops every Stoby context. -/
def applyLink (s : State) (p : LinkP) : State :=
  let old := s.links.cfg
  let q := linkDefaults p
  let s1 := { s with links := { s.links with cfg := q } }
  let s2 := (List.range 32).foldl (fun s l => regSetFld s (lnkReg l 0) 23 16 (retiredLanes s l)) s1
  let changed (l : Nat) : Bool :=
    bit old.linkmask l != bit q.linkmask l || old.force != q.force || (q.force && old.fmode != q.fmode)
  let s3 := ((List.range 32).filter changed).foldl enableLink s2
  if old.devid = q.devid ∧ old.unassigned = q.unassigned then s3
  else { s3 with stoby := { s3.stoby with send := [], recv := [] } }

/-- The payload is written to flash. -/
def saveLink (s : State) (p : LinkP) : State := { s with flash := { s.flash with linkCfg := some (linkDefaults p) } }

def linkConfig (s : State) (r : PailReq) (p : LinkP) (flashOk : Bool) : Except Halt State :=
  gated s r adminPail [.configReady, .ready]
    (if !linkOk p then .error (.undefinedCase 48)
    else .ok (if !p.save then answer (applyLink s p) r stOk []
      else if flashOk then answer (saveLink (applyLink s p) p) r stOk []
      else pailFails (applyLink s p) r 0x60 0x51))

def execLinkConfig (r : PailReq) (p : LinkConfigP) (s : State) : Out State :=
  pailOut s r (.linkConfig r p) fun s => linkConfig s r p.cfg p.flashOk

end Sys2Proof.Machine
end

