-- ==== Sys2Proof/Machine/ReportPails.lean ====
section
/-! DEFINITION. The pail commands on counters, snapshots, the guard, wear, fault records, firmware images and the
known-answer test (R425, R428, R195, R417, R463, R453, R442), and the requests of the board management controller
(R348, R431, R432). -/

namespace Sys2Proof.Machine

/-! ### COUNTER_ACCESS (R425) -/

def selgenBytes (s : State) : List Byte := leBytes 4 s.pmc.selgen

def counterAccessUser (s : State) (r : PailReq) (mask : Nat) : Except Halt State :=
  gated s r adminPail [.ready, .job, .faulted]
    (.ok (answer (regSet s (pmcReg 0 0) (mask % 2 ^ 8)) r stOk (selgenBytes s)))

def execCounterAccessUser (r : PailReq) (mask : Nat) (s : State) : Out State :=
  pailOut s r (.counterAccessUser r mask) fun s => counterAccessUser s r mask

/-- PMC_CSEL of a core takes an event code for counter `ctr`. -/
def selectEvent (s : State) (c ctr ev : Nat) : State :=
  let k := if ctr < 12 then ctr - 4 else ctr - 12
  let a := pmcReg (c / 128) (0x5000 + 0x10 * (c % 128) + (if ctr < 12 then 0 else 8))
  regSetFld s a (8 * k + 7) (8 * k) ev

def counterAccessSelect (s : State) (r : PailReq) (p : SelectP) : Except Halt State :=
  gated s r adminPail [.ready, .job, .faulted]
    (if p.ctr < 4 ∨ 15 < p.ctr then .ok (answer s r stBadState (selgenBytes s))
    else do
      let (m, s1) ← readSet s p.set
      let s2 := (setCores s1 p.logical m).foldl (fun s c => selectEvent s c p.ctr p.event) s1
      let s3 := { s2 with pmc := { s2.pmc with selgen := (s2.pmc.selgen + 1) % 2 ^ 32 } }
      return answer s3 r stOk (selgenBytes s3))

def execCounterAccessSelect (r : PailReq) (p : SelectP) (s : State) : Out State :=
  pailOut s r (.counterAccessSelect r p) fun s => counterAccessSelect s r p

/-! ### SNAPSHOT_CONFIG (R428, R429) -/

/-- Bytes of a record with the sections of a mask, and of its slot. -/
def snapLen (mask : Nat) : Nat :=
  64 + 8 * (b2n (bit mask 0) * 16384 + b2n (bit mask 1) * 8192 + b2n (bit mask 2) * 4384 + b2n (bit mask 3) * 256
    + b2n (bit mask 4) * 64)
def snapSlot (mask : Nat) : Nat := roundUp (snapLen mask) 64

/-- A power of two between bounds. -/
def pow2In (x lo hi : Nat) : Bool := decide (lo ≤ x) && decide (x ≤ hi) && x == 2 ^ Nat.log2 x

/-- The payload is in its ranges (Table 16.6). -/
def snapOk (p : SnapP) : Bool :=
  decide (p.mask < 32) && decide (p.every ≤ 65536) && decide (10000 ≤ p.period) && decide (p.period ≤ 10 ^ 10)
    && p.base % 64 == 0 && pow2In p.entries 2 65536

/-- DTIME of the first tick. -/
def firstTick (s : State) (p : SnapP) : Nat :=
  if p.start = 0 then roundUp (nowNs s + 10000) p.period else p.start

/-- A run begins: its registers, and record number 0. -/
def startSnap (s : State) (p : SnapP) : State :=
  let t := firstTick s p
  let q := { p with start := t, every := if p.every = 0 then 1 else p.every }
  let s1 := regFlag (regSet s (pmcReg 0 0x20) p.base) (pmcReg 0 8) 0 true
  let s2 := regSet s1 (pmcReg 0 0x28) (snapSlot p.mask * 2 ^ 32 + p.entries)
  let s3 := regSet (regSet s2 (pmcReg 0 0x30) 0) (pmcReg 0 0x40) t
  { s3 with pmc := { s3.pmc with run := some ⟨q, snapSlot p.mask, t, 0, 0⟩ } }

def snapshotConfigStart (s : State) (r : PailReq) (p : SnapP) : Except Halt State :=
  gated s r adminPail [.ready, .job]
    (if !snapOk p then .error (.undefinedCase 48)
    else if !ringPlaced s p.base (snapSlot p.mask * p.entries) then .ok (answer s r stBadState [])
    else .ok (answer (startSnap s p) r stOk (leBytes 4 (snapSlot p.mask) ++ leBytes 8 (firstTick s p))))

def execSnapshotConfigStart (r : PailReq) (p : SnapP) (s : State) : Out State :=
  pailOut s r (.snapshotConfigStart r p) fun s => snapshotConfigStart s r p

/-- The run ends; what STOP answers without a run is open. -/
def stopSnap (s : State) (r : PailReq) : State :=
  match s.pmc.run with
  | some x =>
    let s1 := regFlag { s with pmc := { s.pmc with run := none } } (pmcReg 0 8) 0 false
    answer s1 r stOk (leBytes 4 x.slot ++ leBytes 8 x.p.start)
  | none => bump (answer s r stOk (leBytes 4 (Config.freeNat s.free 0) ++ leBytes 8 (Config.freeNat s.free 1)))

def snapshotConfigStop (s : State) (r : PailReq) : Except Halt State :=
  gated s r adminPail [.ready, .job] (.ok (stopSnap s r))

def execSnapshotConfigStop (r : PailReq) (s : State) : Out State :=
  pailOut s r (.snapshotConfigStop r) fun s => snapshotConfigStop s r

/-! ### GUARD_CONFIG (R195) -/

/-- GRD_POLICY and GRD_CTRL take SENS, WHEY_FMT and MAXREP (R98, R99). -/
def setPolicy (s : State) (a : Nat) : State :=
  regSet (regSet s (hubReg 0x40000) (bits a 2 0)) (hubReg 0x40008) (bits a 10 8)

def guardConfigPolicy (s : State) (r : PailReq) (a : Nat) : Except Halt State :=
  gated s r adminPail [.ready, .job] (.ok (answer (setPolicy s a) r stOk []))

def execGuardConfigPolicy (r : PailReq) (a : Nat) (s : State) : Out State :=
  pailOut s r (.guardConfigPolicy r a) fun s => guardConfigPolicy s r a

/-- A slot's registers take the images; EMA and EVALS are reset on request. -/
def setSlotCfg (s : State) (p : SlotP) : State :=
  let n := p.slot
  let s1 := regSet (regSet (regSet s (slotReg n 0) p.scfg) (slotReg n 8) p.ratio) (slotReg n 0x10) p.scale
  let s2 := if p.resetEma then
      regSetFld (regSet (setSlot s1 n { slotAt s1 n with hasEma := false }) (slotReg n 0x20) 0)
        (slotReg n 0x28) 63 32 0
    else s1
  fixWarm s2 n

def guardConfigSlot (s : State) (r : PailReq) (p : SlotP) : Except Halt State :=
  gated s r adminPail [.ready, .job]
    (if 255 < p.slot ∨ p.scale % 32 ≠ 0 then .error (.undefinedCase 48)
    else if slotHeld s p.slot then .ok (answer s r stBadState [])
    else .ok (answer (setSlotCfg s p) r stOk []))

def execGuardConfigSlot (r : PailReq) (p : SlotP) (s : State) : Out State :=
  pailOut s r (.guardConfigSlot r p) fun s => guardConfigSlot s r p

/-- The trip-record ring, empty (R194). -/
def setLog (s : State) (base entries vector : Nat) : State :=
  let s1 := regSet (regSet s (hubReg 0x40020) base) (hubReg 0x40028) (vector % 2048 * 2 ^ 32 + entries)
  regSet (regSet s1 (hubReg 0x40030) 0) (hubReg 0x40038) 0

def guardConfigLog (s : State) (r : PailReq) (base entries vector : Nat) : Except Halt State :=
  gated s r adminPail [.ready, .job]
    (if base % 32 = 0 ∧ pow2In entries 16 65536 then .ok (answer (setLog s base entries vector) r stOk [])
    else .error (.undefinedCase 48))

def execGuardConfigLog (r : PailReq) (base entries vector : Nat) (s : State) : Out State :=
  pailOut s r (.guardConfigLog r base entries vector) fun s => guardConfigLog s r base entries vector

/-- The held step of a queue. -/
def heldStep (s : State) (q : Nat) : Option Step :=
  match stepAt s q with
  | some st => if st.phase = .held then some st else none
  | none => none

/-- The queue resumes with the item after STEP_COMMIT (R188). -/
def resumeQueue (s : State) (q : Nat) : State := passHead (updQueue s q fun x => { x with st := .active }) q

/-- RESOLVE: a held step is committed or discarded. -/
def resolveStep (s : State) (r : PailReq) (q : Nat) (eff : State → Nat → Step → Except Halt State) :
    Except Halt State :=
  gated s r adminPail [.job]
    (match heldStep s q with
    | none => .ok (answer s r stBadState [])
    | some st => do
      let s1 ← eff s q st
      return answer (resumeQueue s1 q) r stOk [])

def guardConfigResolveCommit (s : State) (r : PailReq) (q : Nat) : Except Halt State :=
  resolveStep s r q commitStep

def guardConfigResolveDiscard (s : State) (r : PailReq) (q : Nat) : Except Halt State :=
  resolveStep s r q discardStep

def execGuardConfigResolveCommit (r : PailReq) (q : Nat) (s : State) : Out State :=
  pailOut s r (.guardConfigResolveCommit r q) fun s => guardConfigResolveCommit s r q

def execGuardConfigResolveDiscard (r : PailReq) (q : Nat) (s : State) : Out State :=
  pailOut s r (.guardConfigResolveDiscard r q) fun s => guardConfigResolveDiscard s r q

/-! ### WEAR_REPORT (R417) -/

def wearReportSummary (s : State) (r : PailReq) : Except Halt State :=
  gated s r anyPail [.configReady, .ready, .job, .faulted] (.ok (answer s r stOk (wearSummary s)))

def execWearReportSummary (r : PailReq) (s : State) : Out State :=
  pailOut s r (.wearReportSummary r) fun s => wearReportSummary s r

/-- `n` bytes of all ones. -/
def onesBytes (n : Nat) : List Byte := List.replicate n 0xFF

/-- The per-unit entries: 12,416 bytes. -/
def wearDetail (s : State) : List Byte :=
  ((List.range 1024).flatMap fun c =>
    if coreEnabled s c then
      leBytes 2 (sat16 (coreAge s c)) ++ leBytes 1 (FMap.getD s.boot.thermalClass c 0) ++ leBytes 1 (coreCeil s c)
        ++ zeros 4
    else onesBytes 8)
  ++ ((List.range 1024).flatMap fun v => if vaultInService s v then leBytes 4 (vaultWeak s v) else onesBytes 4)
  ++ (List.range 32).flatMap fun l =>
    if linkInService s l then leBytes 4 (sat16 (linkEye s l)) else onesBytes 4

def wearReportDetail (s : State) (r : PailReq) (n a : Nat) : Except Halt State :=
  gated s r anyPail [.configReady, .ready, .job, .faulted]
    (if n < 12416 then .ok (answer s r stBadState [])
    else if a % 32 ≠ 0 then .error (.undefinedCase 48)
    else do
      let s1 ← devWrite s a (wearDetail s)
      return answer s1 r stOk (leBytes 4 12416))

def execWearReportDetail (r : PailReq) (n a : Nat) (s : State) : Out State :=
  pailOut s r (.wearReportDetail r n a) fun s => wearReportDetail s r n a

/-! ### FAULT_RECORD_GET (R461, R463) -/

/-- The 64 bytes of a record (Table 18.2). -/
def recBytes (f : FaultRec) : List Byte :=
  leBytes 4 0x46545244 ++ leBytes 4 f.seq ++ leBytes 1 f.kind ++ leBytes 1 f.cause ++ leBytes 1 f.sub
    ++ leBytes 1 (b2n f.secondary + 2 * b2n f.trip + 4 * b2n f.volatileRec) ++ leBytes 4 f.jobid ++ leBytes 8 f.dtime
    ++ leBytes 1 f.tstate ++ leBytes 1 f.state ++ leBytes 2 f.unit ++ leBytes 2 f.queue ++ zeros 2 ++ leBytes 4 f.cmdid
    ++ leBytes 4 f.boots ++ leBytes 8 f.addr ++ leBytes 8 f.detail0 ++ leBytes 4 f.primarySeq ++ zeros 4

/-- Records still available, oldest first: those in SRAM, and before them those that only the flash holds (R462). -/
def availRecords (s : State) : List FaultRec := match s.fault.records.head? with
  | none => s.fault.flash
  | some x => (s.fault.flash.filter fun f => decide (f.seq < x.seq)) ++ s.fault.records

def faultRecordBytes (s : State) (first : Nat) : List Byte :=
  let all := availRecords s
  let out := (all.filter fun f => decide (first ≤ f.seq)).take 31
  leBytes 4 ((all.head?.map (·.seq)).getD 0) ++ leBytes 4 ((all.getLast?.map (·.seq)).getD 0) ++ leBytes 2 out.length
    ++ zeros 6 ++ out.flatMap recBytes

def faultRecordGet (s : State) (r : PailReq) (first : Nat) : Except Halt State :=
  gated s r anyPail [.configReady, .ready, .job, .faulted, .safe] (.ok (answer s r stOk (faultRecordBytes s first)))

def execFaultRecordGet (r : PailReq) (first : Nat) (s : State) : Out State :=
  pailOut s r (.faultRecordGet r first) fun s => faultRecordGet s r first

/-! ### FW_UPDATE (R453, R437) -/

/-- What the boot ROM will find in an image. -/
def imageOf (bs : List Byte) : FlashImage where
  magicOk := fieldAt bs 0 4 == 0x4548524D
  svn := fieldAt bs 8 1
  len := fieldAt bs 12 4
  sigOk := Config.imageSigOk bs

/-- The main slot that the device did not boot from; from recovery, the one that the header does not name. -/
def otherSlot (s : State) : Bool :=
  if s.boot.image = 0 then true else if s.boot.image = 1 then false else !s.flash.activeB

/-- An image is written to its partition. -/
def writeImage (s : State) (recovery : Bool) (i : FlashImage) : State :=
  if recovery then { s with flash := { s.flash with recovery := i } }
  else if otherSlot s then { s with flash := { s.flash with imageB := i } }
  else { s with flash := { s.flash with imageA := i } }

/-- The boot header is rewritten. -/
def activate (s : State) (p : FwP) : State :=
  if p.activate && !p.recovery then { s with flash := { s.flash with activeB := otherSlot s } } else s

def fwUpdate (s : State) (r : PailReq) (p : FwP) : Except Halt State :=
  gated s r adminOob [.configReady, .ready, .job, .faulted, .safe]
    (if (if p.recovery then 2 ^ 23 else 2 ^ 24) < p.len then .ok (answer s r stBadState [])
    else if p.src % 32 ≠ 0 then .error (.undefinedCase 48)
    else do
      let (bs, bad, s1) ← devRead s p.src p.len
      let i := imageOf bs
      if bad || !i.sigOk || !i.magicOk || i.len != p.len then return pailFails s1 r 0x61 0x72
      else if i.svn < s1.flash.fuses ∨ 64 < i.svn then return answer s1 r stBadState []
      else if !p.flashOk then
        return pailFails (writeImage s1 p.recovery { i with sigOk := false }) r 0x60 0x72
      else return answer (activate (writeImage s1 p.recovery i) p) r stOk [])

def execFwUpdate (r : PailReq) (p : FwP) (s : State) : Out State := pailOut s r (.fwUpdate r p) fun s => fwUpdate s r p

/-! ### KAT_RUN (R442) -/

def katRun (s : State) (r : PailReq) (failing : List Nat) : Except Halt State :=
  gated s r adminOob [.ready]
    (let bad := (failing.filter fun c => coreEnabled s c).eraseDups
    .ok (answer (runKat s failing) r stOk
      (leBytes 2 ((enabledCores s).length - bad.length) ++ leBytes 2 bad.length ++ zeros 4 ++ leBytes 128 (maskOf bad))))

def execKatRun (r : PailReq) (failing : List Nat) (s : State) : Out State :=
  pailOut s r (.katRun r failing) fun s => katRun s r failing

/-! ### PLDM_REQUEST (R348, R431, R432) -/

/-- The thermal state sensor. -/
def thermalState (s : State) : Nat :=
  if s.thermal.emerg then 3
  else if sheaves.any fun h => bit (regGet s (thmReg h 0)) 1 then 2
  else if sheaves.any fun h => bit (regGet s (thmReg h 0)) 0 then 1 else 0

/-- The value of a sensor (Table 16.8): coolant temperatures in 1/128 °C, flow in 0.01 L/min. -/
def sensorValue (s : State) (id : Nat) : Option Nat :=
  let pkg := regGet s (pwrReg 0 0x108)
  let cool := regGet s (thmReg 0 0x108)
  if id = 1 then some (bits pkg 15 0)
  else if id = 2 then some (bits pkg 31 16)
  else if id = 3 then some (bits pkg 47 32)
  else if id = 4 then some (bits cool 15 0)
  else if id = 5 then some (bits cool 31 16)
  else if id = 6 then some (bits cool 47 32)
  else if id = 7 then some (regFld s (thmReg 0 0x110) 31 16)
  else if 0x10 ≤ id ∧ id < 0x18 then some (regFld s (thmReg (id - 0x10) 8) 7 0)
  else if 0x18 ≤ id ∧ id < 0x20 then some (regFld s (thmReg (id - 0x18) 8) 23 16)
  else if id = 0x20 then some (sat16 (packageLife s).1)
  else if id = 0x21 then some (devCode s.boot.dev)
  else if id = 0x22 then some (timeCode s.time.st)
  else if id = 0x23 then some (thermalState s)
  else if 0x40 ≤ id ∧ id < 0x60 then some (linkState s (id - 0x40))
  else none

/-- An event as numbers, the count of events lost before it first. -/
def eventWords (lost : Nat) : PldmEvt → List Nat
  | .sensor id v => [lost, 0, id, v]
  | .faultRecord k q => [lost, 1, k, q]
  | .flowWarning b n => [lost, 2, b2n b, n]

/-- An answer to the board management controller. -/
def bmcAnswer (s : State) (a : List Nat) : State := { s with board := { s.board with answer := a } }

/-- The oldest event is read; ALERT_N is released when none is left. -/
def readEvent (s : State) : State :=
  match s.board.events with
  | [] => bmcAnswer s []
  | e :: es =>
    { s with board := { s.board with
      answer := eventWords s.board.lost e, events := es, lost := 0, alert := !es.isEmpty } }

/-- Requests other than pails; an ID that names no sensor has no reading. -/
def pldm (s : State) (r : PldmReq) : State :=
  match r with
  | .control => bmcAnswer s [0x60 + s.boot.straps.bmcAddr]
  | .sensor id => bmcAnswer s (match sensorValue s id with
    | some v => [id, v]
    | none => [id])
  | .event => readEvent s

def execPldmRequest (r : PldmReq) (s : State) : Out State :=
  act s (s.boot.phase != .off && s.boot.phase != .stuck) (pldm s r)

end Sys2Proof.Machine
end

