-- ==== Sys2Proof/Machine/Deferred.lean ====
section
/-! DEFINITION. Pail commands that waited (R278, R458): their effects in ring order, once the firmware can execute
them. -/

namespace Sys2Proof.Machine

/-- The effect of a pail command that the firmware takes. -/
def pailEffect (s : State) (r : PailReq) (i : Instr) : Except Halt State :=
  match i with
  | .devInfo r => devInfo s r
  | .floorplanGet r a n => floorplanGet s r a n
  | .jobOpen r p => jobOpen s r p
  | .jobClose r => jobClose s r
  | .queueCreate r p => queueCreate s r p
  | .queueDestroy r q => queueDestroy s r q
  | .queueFlush r q => queueFlush s r q
  | .queueFlushAbort r q => queueFlushAbort s r q
  | .powerSetCap r p => powerSetCap s r p
  | .powerSetOppAuto r m => powerSetOppAuto s r m
  | .powerSetOppPin r o m => powerSetOppPin s r o m
  | .domainPolicyTimers r p => domainPolicyTimers s r p
  | .domainPolicyRetain r l b m => domainPolicyRetain s r l b m
  | .domainPolicyWake r k l m => domainPolicyWake s r k l m
  | .domainPolicyAdmit r a => domainPolicyAdmit s r a
  | .licenceInstall r p => licenceInstall s r p.record p.flashOk
  | .licenceList r n => licenceList s r n
  | .timeConfig r p => timeConfig s r p
  | .timeConfigSet r p t => timeConfigSet s r p t
  | .linkConfig r p => linkConfig s r p.cfg p.flashOk
  | .counterAccessUser r m => counterAccessUser s r m
  | .counterAccessSelect r p => counterAccessSelect s r p
  | .snapshotConfigStart r p => snapshotConfigStart s r p
  | .snapshotConfigStop r => snapshotConfigStop s r
  | .guardConfigPolicy r a => guardConfigPolicy s r a
  | .guardConfigSlot r p => guardConfigSlot s r p
  | .guardConfigLog r b n v => guardConfigLog s r b n v
  | .guardConfigResolveCommit r q => guardConfigResolveCommit s r q
  | .guardConfigResolveDiscard r q => guardConfigResolveDiscard s r q
  | .wearReportSummary r => wearReportSummary s r
  | .wearReportDetail r n a => wearReportDetail s r n a
  | .faultRecordGet r n => faultRecordGet s r n
  | .fwUpdate r p => fwUpdate s r p
  | .katRun r f => katRun s r f
  | _ => unknownPail s r

/-- The waiting command that the firmware takes next, and those after it: the first, or while a JOB_CLOSE executes the
first read command (R278). -/
def nextWaiting (s : State) : Option ((PailReq × Instr) × List (PailReq × Instr)) :=
  if s.pails.restarting then none
  else match s.pails.busy with
    | none => s.pails.deferred.head?.map fun e => (e, s.pails.deferred.drop 1)
    | some (.close _) => (s.pails.deferred.find? fun e => readCmd e.2).map fun e => (e, s.pails.deferred.erase e)
    | some _ => none

/-- At most `n` waiting commands are executed, in ring order. -/
def runWaiting : Nat → State → Except Halt State
  | 0, s => .ok s
  | n + 1, s =>
    match nextWaiting s with
    | none => .ok s
    | some (e, rest) => do
      let s1 ← pailEffect { s with pails := { s.pails with deferred := rest } } e.1 e.2
      runWaiting n s1

/-- Waiting pail commands are executed as far as they can be. -/
def runDeferred (s : State) : Except Halt State := runWaiting s.pails.deferred.length s

/-- A command that waits for an end is answered if that end has come, and the waiting commands follow. -/
def settlePails (s : State) : Except Halt State := do
  let s1 ← tryCloseEnd s
  runDeferred (tryPinEnd s1)

/-- FIRMWARE_RESTART_DONE (R458): rings that arrived during the restart are executed in order. -/
def execFirmwareRestartDone (s : State) : Out State :=
  actE s s.pails.restarting (settlePails { s with pails := { s.pails with restarting := false } })

end Sys2Proof.Machine
end

