-- ==== Sys2Proof/Machine/Queues.lean ====
section
/-! DEFINITION. Doorbells, fetching, dispatch and completion of work queues (R289 to R299, R304 to R309). -/

namespace Sys2Proof.Machine

/-! ### Doorbells (R291 to R294) -/

/-- The device takes doorbells: BAR0 answers (R339, R439). -/
def barUp (s : State) : Bool := s.boot.dev != .boot && !s.boot.pcieHeld

/-- A stale doorbell is ignored and recorded (R293). -/
def staleBell (s : State) (q gen : Nat) : State :=
  regSet (event s (hubReg 0x20000) 0 (hubReg 0x20008)) (hubReg 0x20018) (gen * 2 ^ 16 + q)

/-- A class-0 doorbell takes a token from its group's bucket while one is left (R308). -/
def takeToken (s : State) (x : Queue) : State :=
  let n := FMap.getD s.wq.spent x.group 0
  if x.cls = 0 ∧ n < s.job.c0Burst then
    { s with wq := { s.wq with spent := FMap.set s.wq.spent x.group (n + 1) } }
  else s

/-- A doorbell of a work queue with its generation, which reached the device at `t0`: entries up to the new tail become
visible (R291, R308). -/
def showEntries (s : State) (q v t0 : Nat) : Except Halt State :=
  let x := queueAt s q
  let d := qDepth x
  let t := bits v 15 0
  let fwd := (t + d - x.head) % d
  if bits v 47 16 ≠ 0 ∨ d ≤ t ∨ fwd < qVisible x then .error (.undefinedCase 50)
  else
    let y := { x with tail := t, bells := if fwd = qVisible x then x.bells else x.bells ++ [(t, t0)] }
    .ok (takeToken (setQueue s q y) x)

/-- A doorbell of a queue number, from the host or a Stoby DOORBELL. -/
def ringWork (s : State) (q v t0 : Nat) : Except Halt State :=
  let x := queueAt s q
  if x.st = .free ∨ bits v 63 48 ≠ x.gen then .ok (staleBell s q (bits v 63 48))
  else showEntries s q v t0

/-- WQ_DOORBELL. -/
def execWqDoorbell (q value : Nat) (s : State) : Out State :=
  actE s (barUp s && !(queueAt s q).completion) (ringWork s q value (nowNs s))

/-- Slots returned by a new head of a completion queue: a head equal to the old one returns all of a full ring
(R294). -/
def returned (x : Queue) (t : Nat) : Nat :=
  let n := (t + qDepth x - x.head) % qDepth x
  if n = 0 ∧ x.written = qDepth x then qDepth x else n

/-- A doorbell of a completion queue returns slots. -/
def returnSlots (s : State) (q v : Nat) : Except Halt State :=
  let x := queueAt s q
  let t := bits v 15 0
  let n := returned x t
  if bits v 63 48 ≠ x.gen then .ok (staleBell s q (bits v 63 48))
  else if bits v 47 16 ≠ 0 ∨ qDepth x ≤ t ∨ x.written < n then .error (.undefinedCase 50)
  else .ok (setQueue s q { x with head := t, written := x.written - n, used := x.used - n })

/-- CQ_DOORBELL. -/
def execCqDoorbell (q value : Nat) (s : State) : Out State :=
  actE s (barUp s && (queueAt s q).completion) (returnSlots s q value)

/-- A doorbell of either kind of queue, which reached the device at `t0`. -/
def ringBell (s : State) (q v t0 : Nat) : Except Halt State :=
  if (queueAt s q).completion then returnSlots s q v else ringWork s q v t0

/-- The value that a read of a doorbell returns (R291). -/
def bellValue (s : State) (q : Nat) : Nat :=
  let x := queueAt s q
  let code := match x.st with
    | .free => 0
    | .active => 1
    | .flushing => 2
    | .held => 3
    | .faulted => 4
  x.gen * 2 ^ 48 + code * 2 ^ 45 + x.head

/-- C0_TOKEN_REFILL: a bucket gains one token, up to C0_BURST (R308). -/
def execC0TokenRefill (group : Nat) (s : State) : Out State :=
  act s true { s with wq := { s.wq with
    spent := if FMap.getD s.wq.spent group 0 ≤ 1 then FMap.drop s.wq.spent group
             else FMap.set s.wq.spent group (FMap.getD s.wq.spent group 0 - 1) } }

/-! ### Fetch -/

/-- WQ_FETCH: an ACTIVE queue fetches in state JOB (R289, R298). -/
def execWqFetch (q : Nat) (s : State) : Out State :=
  actE s (engineRuns s && (queueAt s q).st == .active && !(queueAt s q).completion) (fetchOne s q)

/-! ### Which item may be dispatched (R297 to R299) -/

/-- An item has completed as its queue's order sees it: its record is written or held until its step ends. -/
def itemDone (i : Item) : Bool := i.phase == .recorded || (i.phase == .ended && i.inStep)

/-- An item runs on target cores and has not started on all of them (R299). -/
def itemBlocks (i : Item) : Bool :=
  match cmdTset i.cmd with
  | none => false
  | some _ => i.phase == .dispatched || (i.phase == .running && !i.waitCores.isEmpty)

/-- The command of an item. -/
def cmdAt (s : State) (q idx : Nat) : Option WqCmd := (itemAt s q idx).map (·.cmd)

/-- Items before the first that is not dispatched, and that item. -/
def nextFetched : List Item → List Item → Option (List Item × Item)
  | _, [] => none
  | acc, i :: is => if i.phase = .fetched then some (acc.reverse, i) else nextFetched (i :: acc) is

/-- An item belongs to the queue's open step. -/
def inOpenStep (s : State) (q : Nat) (i : Item) : Bool :=
  match stepAt s q with
  | some st => st.phase != .held && ofStep (qDepth (queueAt s q)) st i
  | none => false

/-- The completion slots that the queue's open step holds in reserve. -/
def reservedSlots (s : State) (q : Nat) : Nat := match stepAt s q with
  | some st => if st.phase = .held then 0 else st.reserved
  | none => 0

/-- A completion slot is there for the next item: its own, one of its step's, or an unreserved one (R297). -/
def slotReady (s : State) (q : Nat) (i : Item) : Bool :=
  i.slot || decide (0 < reservedSlots s q) || decide (0 < slotsLeft s (queueAt s q).cq)

/-- The earlier items let an item go (R299). -/
def orderOk (before : List Item) (i : Item) : Bool :=
  ((!i.ordered && !cmdWaits i.cmd) || i.skip || before.all itemDone)
    && before.all (fun e => (!cmdHolds e.cmd || itemDone e) && !itemBlocks e)
    && decide ((before.filter fun e => !itemDone e).length < 64)

/-- The item of a queue that can be dispatched now. -/
def dispatchable (s : State) (q : Nat) : Option Item :=
  let x := queueAt s q
  if x.completion then none
  else match nextFetched [] x.items with
    | none => none
    | some (before, i) =>
      let open_ := x.st == .active || (x.st == .flushing && i.slot)
      if open_ && orderOk before i && slotReady s q i then some i else none

/-! ### Arbitration (R298) -/

/-- Contenders of one class. -/
def classQueues (s : State) (cls : Nat) : List Contender :=
  s.wq.queues.filterMap fun e =>
    if e.2.cls = cls then (dispatchable s e.1).map fun i => (e.1, i.entries, e.2.weight) else none

/-- Round robin among class-0 queues. -/
def serveZero (s : State) : Option (Nat × Wq) :=
  (nextAfter (classQueues s 0) (FMap.getD s.wq.last 0 65536)).map fun c =>
    (c.1, { s.wq with last := FMap.set s.wq.last 0 c.1 })

/-- Deficit round robin within a class. -/
def serveClass (s : State) (cls : Nat) : Option (Nat × FMap Nat) :=
  let cs := classQueues s cls
  drr (5 * cs.length + 2) cs (keepDef cs s.wq.qdeficit) (FMap.getD s.wq.last cls 65536)

/-- Classes 1 to 3 with something to serve, with WQ_CLASS_WT. -/
def classContenders (s : State) : List Contender :=
  [1, 2, 3].filterMap fun c =>
    match serveClass s c with
    | none => none
    | some (q, _) =>
      (dispatchable s q).map fun i => (c, i.entries, regFld s (hubReg 0x20020) (8 * c - 1) (8 * c - 8))

/-- Deficit round robin among classes 1 to 3, then within the class. -/
def serveRest (s : State) : Option (Nat × Wq) :=
  let cs := classContenders s
  match drr 32 cs (keepDef cs s.wq.cdeficit) (FMap.getD s.wq.last 4 0) with
  | none => none
  | some (c, cd) => match serveClass s c with
    | none => none
    | some (q, qd) =>
      let others := s.wq.qdeficit.filter fun e => (queueAt s e.1).cls ≠ c
      let merged := qd.foldl (fun m e => FMap.set m e.1 e.2) others
      some (q, { s.wq with
        qdeficit := merged
        cdeficit := cd
        last := FMap.set (FMap.set s.wq.last 4 c) c q })

/-- The queue that the engine serves next, and its arbitration state after. -/
def serveNext (s : State) : Option (Nat × Wq) :=
  match serveZero s with
  | some r => some r
  | none => serveRest s

/-! ### Dispatch -/

/-- The target set of a command, as logical cores of the open job (R284, R304). -/
def targetSet (s : State) (x : Queue) (a : Nat) : Except Halt (List Nat × State) := do
  let (set, s1) ← if a = 0 then .ok (x.tset, s) else readSet s a
  return (targetCores s1 set, s1)

/-- A queue's class may target a logical core (R304). -/
def classMay (s : State) (cls n : Nat) : Bool := isReserve s n == (cls == 0)

/-- The numeric mode of a command: GRD_POLICY.SENS where its sensitivity bit is 1 (Table 3.7, R98). -/
def sampleMode (s : State) (sens : Bool) : Nat := if sens then regFld s (hubReg 0x40000) 1 0 else 0

/-- The status of a command that dispatch turns away, before its target set is looked at (R300, R304, R184). -/
def refuses (s : State) (q : Nat) (i : Item) : Option Nat :=
  if i.skip then some stAborted
  else match i.cmd with
    | .unknown _ => some stUnknown
    | c =>
      let lacks := match cmdLicence c with
        | some l => !licensed s l
        | none => false
      if lacks then some stLicence
      else match stepAt s q with
        | some st => if stepOpen s q && cmdBarred st.stepid c then some stBadState else none
        | none => match c with
          | .stepCommit _ => some stBadState
          | _ => none

/-- An item takes its completion slot, its mode and its place in the open step: a queue dispatches in order, so
whatever it dispatches while its step is open is inside the step (R184). -/
def admitItem (s : State) (q : Nat) (i : Item) : State :=
  let step := stepOpen s q
  let att := match stepAt s q with
    | some st => if step then st.attempt else 1
    | none => 1
  let s1 :=
    if i.slot then s
    else if 0 < reservedSlots s q then match stepAt s q with
      | some st => setStep s q { st with reserved := st.reserved - 1 }
      | none => s
    else updQueue s (queueAt s q).cq fun x => { x with used := x.used + 1 }
  updItem s1 q i.idx fun y =>
    { y with
      slot := true
      inStep := step
      attempt := att
      mode := if i.slot then y.mode else sampleMode s i.sens }

/-- A command with a target set waits for its cores, which wake; or it is turned away (R304). -/
def targetItem (s : State) (q : Nat) (i : Item) (a : Nat) : Except Halt State := do
  let x := queueAt s q
  let (set, s1) ← targetSet s x a
  if set.isEmpty || set.any (fun n => !classMay s1 x.cls n) then .ok (endItem s1 q i.idx stBadState)
  else
    let phys := set.filterMap fun n => physOf s1 n
    let s2 := phys.foldl (fun s c => levelWake s ⟨.core, c⟩) s1
    .ok (updItem s2 q i.idx fun y => { y with phase := .dispatched, targets := phys, waitCores := phys })

/-- An item is dispatched. Bytes that R290 says must be zero and are not are checked by nothing (R275). -/
def dispatchItem (s : State) (q : Nat) (i : Item) : Except Halt State :=
  let s1 := admitItem s q i
  match refuses s q i with
  | some st => .ok (endItem s1 q i.idx st)
  | none => orUndef i.clean 1 <| match cmdTset i.cmd with
    | some a => targetItem s1 q i a
    | none => .ok (updItem s1 q i.idx fun y => { y with phase := .dispatched })

/-- The arbitration's choice is dispatched. -/
def dispatchNext (s : State) (q : Nat) : Except Halt State :=
  match serveNext s, dispatchable s q with
  | some (_, w), some i => dispatchItem { s with wq := w } q i
  | _, _ => .ok s

/-- WQ_DISPATCH (R298): the queue is the one that the arbitration serves next. -/
def execWqDispatch (q : Nat) (s : State) : Out State :=
  actE s (engineRuns s && (serveNext s).map (·.1) == some q) (dispatchNext s q)

/-! ### Completion -/

/-- The target of an ABORT has its record. -/
def targetDone (s : State) (i : Item) : Bool := match i.after with
  | none => true
  | some (q, idx) => match itemAt s q idx with
    | none => true
    | some t => t.phase == .recorded

/-- A flush of a queue waits, and every dispatched item of the queue has come to its end (R288). -/
def flushEnds (s : State) (q : Nat) : Bool :=
  (queueAt s q).st == .flushing && flushQuiet s q && match s.pails.busy with
    | some (.flush _ q' _) => q' == q
    | _ => false

/-- An ended item whose record can be written now: one that its step holds only when a flush ends the step (R189,
R288). -/
def recordReady (s : State) (q idx : Nat) : Bool := match itemAt s q idx with
  | some i => i.phase == .ended && (if i.inStep then flushEnds s q else targetDone s i)
  | none => false

/-- The record of an ended item is written; a flush or pail command that waited for it goes on. -/
def completeItem (s : State) (q idx : Nat) : Except Halt State :=
  match itemAt s q idx with
  | none => .ok s
  | some i => do
    let s1 ← if i.inStep then .ok s else putRecord s q i i.status false 0
    let s2 ← tryFlushEnd s1 q
    settlePails s2

/-- COMMAND_COMPLETION (R296). -/
def execCommandCompletion (q idx : Nat) (s : State) : Out State :=
  actE s (engineRuns s && recordReady s q idx) (completeItem s q idx)

end Sys2Proof.Machine
end

