-- ==== Sys2Proof/Machine/Sync.lean ====
section
/-! DEFINITION. Synchronisation commands of the work queues (R303, R304, R329, R380) and ABORT (R306, R307). -/

namespace Sys2Proof.Machine

/-! ### Phase hints (R304, R380) -/

/-- Target permit of an intensity: ⌈16 i / 15⌉. -/
def hintPermit (i : Nat) : Nat := (16 * i + 14) / 15

/-- A phase hint reaches the governor: the core wakes, and its ramp is due by the end of the lead. The hint in force stays so
until then, unless the new one is lower. -/
def setHint (s : State) (c i lead : Nat) : State :=
  let g := govAt s c
  setGov (levelWake s ⟨.core, c⟩) c
    { g with
      hint := if i = 0 then none else some (hintPermit i)
      lead := nowNs s + lead
      ramping := false
      hold := (hintForce g).filter fun t => decide (t ≤ hintPermit i) }

/-- The cores of a queue's target set that its class may target. -/
def hintCores (s : State) (q : Nat) : List Nat :=
  let x := queueAt s q
  ((targetCores s x.tset).filter fun n => classMay s x.cls n).filterMap fun n => physOf s n

def isHint : WqCmd → Bool
  | .phaseHint _ _ => true
  | _ => false

/-- A PHASE_HINT is given to its cores and completes. -/
def runHint (s : State) (q idx : Nat) : State :=
  match cmdAt s q idx with
  | some (.phaseHint i lead) => endItem ((hintCores s q).foldl (fun s c => setHint s c i lead) s) q idx stOk
  | _ => s

/-- PHASE_HINT; an intensity above 15 is no operand of it. -/
def execPhaseHint (q idx : Nat) (s : State) : Out State :=
  actE s (begins s q idx isHint)
    (orUndef (match cmdAt s q idx with
      | some (.phaseHint i _) => decide (i < 16)
      | _ => true) 48 (.ok (runHint s q idx)))

/-! ### FENCE, TIME_WAIT -/

def isFence : WqCmd → Bool
  | .fence => true
  | _ => false

/-- WQ_FENCE: every earlier item has completed when it is dispatched (R299), so it completes. -/
def execWqFence (q idx : Nat) (s : State) : Out State :=
  act s (begins s q idx isFence) (endItem s q idx stOk)

def isTimeWait : WqCmd → Bool
  | .timeWait _ => true
  | _ => false

/-- DTIME has reached a TIME_WAIT's value. -/
def timeReached (s : State) (q idx : Nat) : Bool := match cmdAt s q idx with
  | some (.timeWait t) => decide (t ≤ nowNs s)
  | _ => false

/-- TIME_WAIT begins; a value already reached completes it. -/
def execTimeWait (q idx : Nat) (s : State) : Out State :=
  act s (begins s q idx isTimeWait)
    (if timeReached s q idx then endItem s q idx stOk else startItem s q idx)

/-- TIME_WAIT_REACHED. -/
def execTimeWaitReached (q idx : Nat) (s : State) : Out State :=
  act s (isRunning s q idx isTimeWait && timeReached s q idx) (endItem s q idx stOk)

/-! ### SIGNAL -/

/-- A SIGNAL in the DOORBELL form: a remote address and VECTOR bit 14 (R329). -/
def bellForm (addr vector : Nat) : Bool := bit addr 55 && bit vector 14

def isSignal (bell : Bool) : WqCmd → Bool
  | .signal a _ v => bellForm a v == bell
  | _ => false

/-- A SIGNAL's write leaves the hub stop as one code word; its acknowledgement completes the command. -/
def sendWord (s : State) (q idx addr value : Nat) : Except Halt State :=
  let r := addrRing addr
  match resolve s addr with
  | .none k => .error (.undefinedCase k)
  | .reg _ => .error (.undefinedCase 48)
  | _ =>
    let (t, s1) := openTxn (startItem s q idx) hubStop (.sync q idx)
    .ok (sendPacket s1 hubStop (writePacket r (queueAt s q).cls hubStop ((destStop s 0 r addr).getD hubStop) t addr
      (leBytes 8 value ++ zeros 24)))

/-- A SIGNAL command's write. -/
def runSignal (s : State) (q idx : Nat) : Except Halt State :=
  match cmdAt s q idx with
  | some (.signal a v _) => orUndef (a % 32 == 0) 48 (sendWord s q idx a v)
  | _ => .ok s

/-- WQ_SIGNAL. -/
def execWqSignal (q idx : Nat) (s : State) : Out State :=
  actE s (begins s q idx (isSignal false)) (runSignal s q idx)

/-- A SIGNAL has been acknowledged: its vector is signalled and it completes (R303). -/
def signalDone (s : State) (q idx : Nat) : State :=
  if isRunning s q idx (fun c => isSignal false c || isSignal true c) then
    match cmdAt s q idx with
    | some (.signal _ _ v) => endItem (if bit v 15 then msix s (v % 2048) else s) q idx stOk
    | _ => s
  else s

/-- The doorbell of a SIGNAL in DOORBELL form: the local one for the device's own ID, else it goes to a link
(R28, R329). -/
def runBell (s : State) (q idx : Nat) : Except Halt State :=
  match cmdAt s q idx with
  | some (.signal a v vec) =>
    if bits a 42 21 ≠ 0 ∨ a % 32 ≠ 0 ∨ bits vec 13 11 ≠ 0 then .error (.undefinedCase 48)
    else if ownId s (bits a 54 43) then do
      let s1 ← ringBell s (bits a 20 5) v (nowNs s)
      .ok (signalDone (startItem s1 q idx) q idx)
    else
      let (t, s1) := openTxn (startItem s q idx) hubStop (.sync q idx)
      .ok (sendPacket s1 hubStop { plainPacket .signal 0 (queueAt s q).cls hubStop (linkStop (outLink s 0 0)) t a 8 with
        data := leBytes 8 v })
  | _ => .ok s

/-- WQ_SIGNAL_DOORBELL. -/
def execWqSignalDoorbell (q idx : Nat) (s : State) : Out State :=
  actE s (begins s q idx (isSignal true)) (runBell s q idx)

/-! ### WAIT -/

def isWait : WqCmd → Bool
  | .wait _ _ => true
  | _ => false

/-- A WAIT reads its word: it completes with the value, or waits on. -/
def pollWait (s : State) (q idx : Nat) : Except Halt State :=
  match cmdAt s q idx with
  | some (.wait a v) =>
    if bit a 55 ∨ a % 32 ≠ 0 then .error (.undefinedCase 48)
    else do
      let (x, s1) ← devNat s a 8
      if v ≤ x then
        .ok (endItem (updItem s1 q idx fun i => { i with result := x }) q idx stOk)
      else .ok (startItem s1 q idx)
  | _ => .ok s

/-- WAIT. -/
def execWait (q idx : Nat) (s : State) : Out State := actE s (begins s q idx isWait) (pollWait s q idx)

/-- WAIT_POLL. -/
def execWaitPoll (q idx : Nat) (s : State) : Out State := actE s (isRunning s q idx isWait) (pollWait s q idx)

/-! ### ABORT (R306) -/

def isAbort : WqCmd → Bool
  | .abort _ _ => true
  | _ => false

/-- The oldest visible item of a queue with a CMDID, the ABORT itself left out. -/
def abortTarget (s : State) (q idx qt cmdid : Nat) : Option Item :=
  (queueAt s qt).items.find? fun i => i.cmdid == cmdid && !(qt == q && i.idx == idx)

/-- A STEP_BEGIN or STEP_COMMIT. -/
def isStepEdge : WqCmd → Bool
  | .stepBegin _ => true
  | .stepCommit _ => true
  | _ => false

/-- What an ABORT does to its target, and its own status (Table of R306). -/
def abortOne (s : State) (qt : Nat) (i : Item) : Except Halt (Nat × State) :=
  if i.phase = .recorded ∨ (itemLive i && isStepEdge i.cmd) then .ok (stAlready, s)
  else if inOpenStep s qt i then
    match stepAt s qt with
    | some st => do
      let s1 ← abortStep s qt st (fun _ => true)
      .ok (stOk, s1)
    | none => .ok (stAlready, s)
  else if i.phase = .fetched then .ok (stOk, updItem s qt i.idx fun y => { y with skip := true })
  else if itemLive i && stoppable i.cmd then .ok (stOk, abortLive s qt i)
  else .ok (stAlready, s)

/-- An item's record waits, through the ABORTs that it and its targets are, for the record of `(q, idx)`. -/
def waitsOn (s : State) (q idx : Nat) : Nat → Item → Bool
  | 0, _ => true
  | n + 1, i => match i.after with
    | none => false
    | some (q', k) => (q' == q && k == idx) || match itemAt s q' k with
      | some t => waitsOn s q idx n t
      | none => false

/-- The ABORT ends with a status; its record follows its target's. Of two ABORTs that would each wait for the
other's record the later one waits for none: DESIGN CHOICE (log entry 85), R306 orders both records after the other's. -/
def endAbort (s : State) (q idx qt status : Nat) (t : Option Item) : State :=
  if begins s q idx isAbort then
    let after := match t with
      | some i => if waitsOn s q idx 65536 i then none else some (qt, i.idx)
      | none => none
    updItem (endItem s q idx status) q idx fun y => { y with after }
  else s

/-- The state in which an ABORT searches a queue, and the one it goes on from: the engine takes every visible
item. From a FLUSHING queue it fetches nothing (R288), so there the search only looks. -/
def abortLook (s : State) (qt : Nat) : Except Halt (State × State) :=
  if (queueAt s qt).st = .free ∨ (queueAt s qt).completion then .ok (s, s)
  else do
    let s1 ← fetchAll 65536 s qt
    let keep := (queueAt s qt).st = .flushing
    return (s1, if keep then setQueue s1 qt (queueAt s qt) else s1)

/-- An ABORT looks for its target and deals with it. -/
def runAbort (s : State) (q idx : Nat) : Except Halt State :=
  match cmdAt s q idx with
  | some (.abort qt cmdid) => do
    let (seen, s1) ← abortLook s qt
    match abortTarget seen q idx qt cmdid with
    | none => .ok (endAbort s1 q idx qt stAlready none)
    | some i => do
      let (st, s2) ← abortOne s1 qt i
      let s3 ← tryFlushEnd (endAbort s2 q idx qt st (some i)) qt
      settlePails s3
  | _ => .ok s

/-- ABORT. -/
def execAbort (q idx : Nat) (s : State) : Out State := actE s (begins s q idx isAbort) (runAbort s q idx)

end Sys2Proof.Machine
end

