-- ==== Sys2Proof/Machine/TileOps.lean ====
section
/-! DEFINITION. How a core issues the instructions of its kernel (R103, R105, R109), and what its operations leave
behind when they complete (R133, R136). -/

namespace Sys2Proof.Machine

/-! ### Issue -/

/-- The instruction at the program counter is the given one (R103, R109); a core that runs a built-in kernel has no
code section in its store. -/
def atInstr (s : State) (c : Nat) (i : TileInstr) : Except Halt Bool :=
  let x := coreAt s c
  if !x.running || x.code.isEmpty then .ok false
  else if x.pc % 8 ≠ 0 ∨ x.code.length ≤ x.pc / 8 then .error (.undefinedCase 14)
  else match decodeTile ((x.code[x.pc / 8]?).getD 0).toNat with
    | none => .error (.undefinedCase 16)
    | some j => .ok (j == i)

/-- The meaning of an instruction of a core's kernel: it issues when it is the next one. -/
def tileOut (s : State) (c : Nat) (i : TileInstr) (eff : Except Halt State) : Out State :=
  if !powered s then .next s
  else match atInstr s c i with
    | .error (.undefinedCase n) => .fault (.undefinedCase n)
    | .error .wait => .next s
    | .ok false => .next s
    | .ok true => toOut s eff

/-- The next instruction follows. -/
def nextPc (s : State) (c : Nat) : State := updCore s c fun x => { x with pc := (x.pc + 8) % 2 ^ 64 }

/-- The next instruction is at pc + IMM × 8 (R110). -/
def jumpPc (s : State) (c imm : Nat) : State :=
  updCore s c fun x => { x with pc := unsigned 64 ((x.pc : Int) + signed 32 imm * 8) }

/-- A scalar register of a core. -/
def sval (s : State) (c n : Nat) : Nat := sreg (coreAt s c) n

/-- A scalar register written. -/
def putSreg (s : State) (c n v : Nat) : State := updCore s c fun x => setSreg x n v

/-- An instruction that only writes a scalar register. -/
def scalarTo (s : State) (c n v : Nat) : Except Halt State := .ok (nextPc (putSreg s c n v) c)

/-- A numbered operation of a core issues; the next one has the next number. -/
def takeSeq (s : State) (c : Nat) : State := updCore s c fun x => { x with nextSeq := x.nextSeq + 1 }

/-! ### Events and tags (R108) -/

/-- A bit of CORE_EVENTS is set. -/
def setEvent (s : State) (c n : Nat) : State :=
  updCore s c fun x => { x with events := x.events ||| BitVec.ofNat 64 (2 ^ (n % 64)) }

/-- A tag notice reaches a core's stop: it enters the set of 64, or waits there (R123). A second notice of a tag that the
set holds is a second entry, which a second REDW takes: the spec is silent, and this is the model's choice. -/
def addTag (s : State) (c t : Nat) : State :=
  updCore s c fun x =>
    if x.tags.length < 64 then { x with tags := x.tags ++ [t] } else { x with heldTags := x.heldTags ++ [t] }

/-- A tag leaves the completed-tag set, and a notice that waited enters it. -/
def dropTag (s : State) (c t : Nat) : State :=
  updCore s c fun x =>
    let left := x.tags.erase t
    match x.heldTags with
    | h :: hs => if left.length < 64 then { x with tags := left ++ [h], heldTags := hs } else { x with tags := left }
    | [] => { x with tags := left }

/-! ### DMA channels and packets of a core (R131 to R136) -/

/-- Descriptors of a channel that have not completed. -/
def channel (s : State) (c ch : Nat) : List DmaOp := FMap.getD (coreAt s c).dma ch []

/-- The state with a channel's descriptors changed; an empty channel is not listed. -/
def setChannel (s : State) (c ch : Nat) (l : List DmaOp) : State :=
  updCore s c fun x => { x with dma := if l.isEmpty then FMap.drop x.dma ch else FMap.set x.dma ch l }

/-- One request of a descriptor has its reply or acknowledgement; with the last one the descriptor completes and
sets its event bit (R133). -/
def dmaPart (s : State) (c ch seq : Nat) : State :=
  match (channel s c ch).find? fun d => d.seq == seq with
  | none => s
  | some d =>
    if d.left ≤ 1 then setEvent (setChannel s c ch ((channel s c ch).filter fun e => e.seq != seq)) c d.evt
    else setChannel s c ch ((channel s c ch).map fun e => if e.seq = seq then { e with left := e.left - 1 } else e)

/-- One packet of a REDS has been injected (R122). -/
def outPart (s : State) (c seq : Nat) : State :=
  updCore s c fun x => { x with outgoing := x.outgoing.map fun o =>
    if o.seq = seq ∧ o.fence ≠ 7 then { o with left := o.left - 1 } else o }

/-- A SIGNAL has been acknowledged. -/
def signalAcked (s : State) (c seq : Nat) : State :=
  updCore s c fun x => { x with outgoing := x.outgoing.filter fun o => !(o.seq == seq && o.fence == 7) }

/-- Every operation that a bit of KINDS selects has completed (R136). -/
def kindDone (x : CoreSt) (k : Nat) : Bool :=
  let out := x.outgoing.all fun o => o.fence != k
  if k < 4 then (FMap.getD x.dma k []).isEmpty && out
  else if k = 4 then x.feedQ.isEmpty && x.feedRun.isNone
  else if k = 5 then x.drainQ.isEmpty && x.drainWait.isNone && out
  else if k = 6 then x.vopQ.isEmpty
  else out

/-- Every selected operation has completed. -/
def kindsDone (x : CoreSt) (kinds : Nat) : Bool := (bitList kinds 8).all fun k => kindDone x k

/-- Every DMA write and REDS of a core issued before an operation has completed (R138). -/
def writesDone (x : CoreSt) (seq : Nat) : Bool :=
  x.dma.all (fun e => e.2.all fun d => !d.write || decide (seq ≤ d.seq))
    && x.outgoing.all (fun o => o.fence == 7 || decide (seq ≤ o.seq))
    && x.drainQ.all fun d => match d with
      | .drain _ => true
      | .reds o => decide (seq ≤ o.seq)

/-! ### Core control registers (R107) -/

/-- CORE_ID (Table 2.7). -/
def coreId (s : State) (c : Nat) : Nat :=
  if s.job.isOpen then match logicalOf s c with
    | some n => 2 ^ 31 + n * 2 ^ 16 + c
    | none => c
  else c

/-- CORE_QUEUES (Table 4.6). -/
def coreQueues (x : CoreSt) : Nat :=
  x.tags.length * 2 ^ 24 + x.vopQ.length * 2 ^ 20
    + ((List.range 4).map fun ch => (FMap.getD x.dma ch []).length * 2 ^ (4 * ch)).foldl (· + ·) 0

/-- Offset in the core's register block of a CSR that mirrors a register. -/
def csrMirror (n : Nat) : Option Nat := match n with
  | 0x010 => some 0x108
  | 0x011 => some 0x110
  | 0x012 => some 0x118
  | 0x013 => some 0x120
  | 0x014 => some 0x128
  | 0x020 => some 0x200
  | 0x021 => some 0x208
  | 0x022 => some 0x210
  | _ => none

/-- The value of a CSR (Table 4.2); an unlisted number reads zero. -/
def csrRead (s : State) (c n : Nat) : Nat :=
  let x := coreAt s c
  match csrMirror n with
  | some o => regGet s (coreReg c o)
  | none => match n with
    | 0x000 => coreId s c
    | 0x001 => b2n x.sens * 2 ^ 36 + x.mode * 2 ^ 34 + x.cls * 2 ^ 32 + x.cmdid
    | 0x002 => x.count * 2 ^ 16 + x.rank
    | 0x030 => regGet s (coreCtr c 0) % 2 ^ 48
    | 0x031 => nowNs s
    | 0x040 => x.events.toNat
    | 0x041 => x.events.toNat
    | 0x042 => coreQueues x
    | _ => 0

/-- A write to a CSR under its access type; a write to a read-only or unlisted one is discarded. -/
def csrWrite (s : State) (c n v : Nat) : State :=
  match csrMirror n with
  | some o => match regSpec (coreReg c o) with
    | some r => regSet s (coreReg c o) (writeValue r (regGet s (coreReg c o)) v 0)
    | none => s
  | none => match n with
    | 0x040 => updCore s c fun x => { x with events := x.events &&& ~~~ BitVec.ofNat 64 v }
    | 0x041 => updCore s c fun x => { x with events := x.events ||| BitVec.ofNat 64 v }
    | _ => s

end Sys2Proof.Machine
end

