-- ==== Sys2Proof/Machine/Array.lean ====
section
/-! DEFINITION. FEED, its pass blocks and its churn lanes, and DRAIN (R34 to R58, R73 to R89, R95, R115 to R118, R174). -/

namespace Sys2Proof.Machine

/-! ### FEED: issue (R41, R66, R115, R116) -/

/-- A mask of 128 bits from its LO and HI registers. -/
def maskAt (s : State) (c off : Nat) : Nat := regGet s (coreReg c off) + regGet s (coreReg c (off + 8)) * 2 ^ 64

/-- The K range that a FEED's sK gives: its first element and its count. -/
def feedRange (s : State) (c : Nat) (f : FeedF) (a : TileDesc) : Nat × Nat :=
  if f.k = 0 then (0, a.len) else (sval s c f.k % 2 ^ 32, sval s c f.k / 2 ^ 32)

/-- A FEED as the feed controller accepts it. -/
def feedOp (s : State) (c : Nat) (f : FeedF) : FeedOp :=
  let a := treg s c f.ta
  let r := feedRange s c f a
  { seq := (coreAt s c).nextSeq, a, b := treg s c f.tb, k0 := r.1, kn := r.2
    anchorX := signed 16 (sval s c f.x), plan := f.plan, cplx := f.cplx, accumulate := f.accumulate
    fullcream := f.fullcream, explicit := f.explicit, h := f.h
    rowmask := maskAt s c 0x108, colmask := maskAt s c 0x118 }

/-! ### What a FEED issues (R45, R77 to R79) -/

/-- One pass of a K-block: the planes of A and B, the sign of B's digits, and the digit pair. -/
structure Pass where
  aImag : Bool
  bImag : Bool
  neg : Bool
  da : Nat
  db : Nat
  deriving DecidableEq, Repr

/-- The passes of one K-block, RE and IM with their two halves (R79). -/
def feedPasses (o : FeedOp) : Option (List Pass) :=
  let half (ai bi neg : Bool) (l : List (Nat × Nat)) : List Pass := l.map fun p => ⟨ai, bi, neg, p.1, p.2⟩
  (planPasses o.plan (fmtDigits o.a.fmt) (fmtDigits o.b.fmt)).map fun l =>
    match o.cplx with
    | 0 => half false false false l
    | 1 => half false false false l ++ half true true true l
    | _ => half false true false l ++ half true false false l

/-- K-blocks of a FEED. -/
def feedBlocks (o : FeedOp) : Nat := (o.kn + 31) / 32

/-- Either operand is SB4 (R78). -/
def feedSb4 (o : FeedOp) : Bool := o.a.fmt % 16 == 3 || o.b.fmt % 16 == 3

/-- The tile that a FEED adds into is full-cream (R52, R55). -/
def feedMode (s : State) (c : Nat) (o : FeedOp) : Bool := if o.accumulate then fullCream s c else o.fullcream

/-- Enabled rows and columns (R44, R53, R116). -/
def feedRows (o : FeedOp) : List Nat := (List.range (min 128 o.a.lines)).filter fun i => bit o.rowmask i
def feedCols (fc : Bool) (o : FeedOp) : List Nat :=
  (List.range (min (if fc then 32 else 128) o.b.lines)).filter fun j => bit o.colmask j

/-- Operands within their limits (R114, R116). -/
def feedOk (o : FeedOp) : Bool :=
  (o.k0 % 32 == 0)
    && decide (o.k0 + o.kn ≤ o.a.len) && decide (o.k0 + o.kn ≤ o.b.len)
    && descOk o.a (min 128 o.a.lines) && descOk o.b (min 128 o.b.lines)
    && (if o.cplx = 0 then decide (o.a.fmt < 16) && decide (o.b.fmt < 16)
        else decide (16 ≤ o.a.fmt) && decide (16 ≤ o.b.fmt))

/-! ### Issue (R41, R115) -/

/-- The mode of the tile that a FEED issued now adds into. -/
def issueMode (s : State) (c : Nat) : Bool :=
  (coreAt s c).feedQ.foldl (fun m f => match f with
    | .feed o => if o.accumulate then m else o.fullcream
    | .atb _ => false) (fullCream s c)

/-- SRAM ranges that a FEED reads: the K range of the enabled rows and columns and their scale groups (R44, R58). -/
def feedSpans (fc : Bool) (o : FeedOp) : List (Nat × Nat) :=
  if o.kn = 0 ∨ !feedOk o then []
  else partSpans o.a (feedRows o) o.k0 o.kn ++ partSpans o.b (feedCols fc o) o.k0 o.kn

/-- FEED enters the feed queue of four; a full queue stalls the control processor. -/
def issueFeed (s : State) (c : Nat) (f : FeedF) : Except Halt State :=
  if (coreAt s c).feedQ.length < 4 then do
    let o := feedOp s c f
    let fc := if f.accumulate then issueMode s c else f.fullcream
    let s1 ← orderOp s c ⟨o.seq, .feed, false, none, feedSpans fc o, []⟩
    .ok (nextPc (takeSeq (updCore (bump s1) c fun x => { x with feedQ := x.feedQ ++ [.feed o] }) c) c)
  else .ok s

def execFeed (core : Nat) (f : FeedF) (s : State) : Out State :=
  tileOut s core (.feed f) (issueFeed s core f)

/-- K-line of row `i`, and of column `j`, in K-block `k` of the FEED. -/
def aLine (s : State) (c : Nat) (o : FeedOp) (imag : Bool) (i k : Nat) : KLine :=
  tileKLine s c o.a imag i (o.k0 / 32 + k) (o.k0 + o.kn)
def bLine (s : State) (c : Nat) (o : FeedOp) (imag : Bool) (j k : Nat) : KLine :=
  tileKLine s c o.b imag j (o.k0 / 32 + k) (o.k0 + o.kn)

/-! ### The pre-scan (R48, R75) -/

/-- The larger of two optional weights. -/
def maxOpt (a b : Option Int) : Option Int :=
  match a, b with
  | none, b => b
  | a, none => a
  | some x, some y => some (max x y)

/-- The largest weight, per sub-block field, that lines of one operand carry in a K-block. -/
def topWeights (ls : List KLine) : List (Option Int) :=
  (List.range 4).map fun q =>
    ls.foldl (fun t l => if l.badScale then t else maxOpt t (some ((l.pre[q]?).getD 0))) none

/-- w_max over one pass of a K-block: the fields of F0 alone, or of all four sub-blocks. -/
def passTop (s : State) (c : Nat) (o : FeedOp) (rows cols : List Nat) (k : Nat) (p : Pass) : Option Int :=
  let a := topWeights (rows.map fun i => aLine s c o p.aImag i k)
  let b := topWeights (cols.map fun j => bLine s c o p.bImag j k)
  (List.range (if feedSb4 o then 4 else 1)).foldl (fun t q =>
    match (a[q]?).getD none, (b[q]?).getD none with
    | some x, some y => maxOpt t (some (x + y + 4 * (p.da + p.db : Nat)))
    | _, _ => t) none

/-- The anchor that AUTO finds. -/
def autoAnchor (s : State) (c : Nat) (o : FeedOp) (rows cols : List Nat) (ps : List Pass) : Int :=
  let w := (List.range (feedBlocks o)).foldl (fun t k =>
    ps.foldl (fun t p => maxOpt t (passTop s c o rows cols k p)) t) none
  match w with
  | none => 0
  | some w => w + 13 + (o.h : Nat)

/-! ### FEED_START (R40, R45, R48, R51, R52, R56, R63) -/

/-- The FEED that the feed controller starts next, once its last one is done. DRAINs before it may still wait: its lanes
wait for them entry by entry. -/
def nextFeed (s : State) (c : Nat) : Option FeedOp :=
  match (coreAt s c).feedQ with
  | .feed o :: _ => if (coreAt s c).feedRun.isNone && domOn s ⟨.core, c⟩ then some o else none
  | _ => none

/-- The tile that a CLEAR FEED replaces stays for the DRAINs before it that are still to read it. -/
def keepTile (s : State) (c seq : Nat) : State :=
  let t := tileOf s c seq
  updCore s c fun x =>
    if x.drainQ.any fun d => decide (drainSeq d < seq) then { x with tiles := x.tiles ++ [{ t with before := seq }] } else x

/-- CLEAR: the anchor, the tile flags, the mode and the enabled entries; an entry that a DRAIN before the FEED is still
to read is cleared after it. -/
def clearTile (s : State) (c : Nat) (o : FeedOp) (rows cols : List Nat) (ps : List Pass) : State :=
  let anchor := if o.explicit then o.anchorX else autoAnchor s c o rows cols ps
  let s1 := setAnchor (clearTileFlags (keepTile s c o.seq) c o.fullcream) c anchor
  let keys := rows.flatMap fun i => cols.flatMap fun j => accKeys o.fullcream i j
  settleClears (updCore s1 c fun x =>
    { x with kblocks := 0, toClear := x.toClear ++ keys.map fun k => (k, o.seq) }) c

/-- K-blocks join the tile's count; above 2¹⁸ a full-cream tile is out of range (R89). -/
def addBlocks (s : State) (c : Nat) (fc : Bool) (n : Nat) : State :=
  let s1 := updCore s c fun x => { x with kblocks := x.kblocks + n }
  if fc && decide ((coreAt s1 c).kblocks > 2 ^ 18) then setTileFlag s1 c fFcrange else s1

/-- A FEED is done: its last add has landed (R136), and its core begins to issue no FEED (R380). -/
def feedDone (s : State) (c : Nat) : State :=
  coreEvent (updCore (setGov s c { govAt s c with fed := nowNs s }) c fun x => { x with feedRun := none, cells := [] }) c 0x07 1

/-- SRAM upsets, by offset. -/
def upsetSram (s : State) (c : Nat) (ups : List (Nat × Upset)) : State :=
  upsetWords s (ups.map fun u => (sramKey c (u.1 / 16 * 16), u.2))

/-- The first slot is due: the pre-scan has fixed the anchor. -/
def startFeed (s : State) (c : Nat) (o : FeedOp) (ups : List (Nat × Upset)) : Except Halt State :=
  if !fmtOperand o.a.fmt || !fmtOperand o.b.fmt then .error (.undefinedCase 10)
  else if !feedOk o then .error (.undefinedCase 18)
  else match feedPasses o with
    | none => .error (.undefinedCase 11)
    | some ps =>
      let s0 := upsetSram (updCore s c fun x => { x with feedQ := x.feedQ.drop 1 }) c ups
      let fc := feedMode s0 c o
      let rows := feedRows o
      let cols := feedCols fc o
      let s1 := touchSpans s0 c (feedSpans fc o)
      let s2 := if o.accumulate then s1 else clearTile s1 c o rows cols ps
      let n := feedBlocks o * ps.length
      let s3 := bump (addBlocks s2 c fc (feedBlocks o))
      let s4 := updCore s3 c fun x => { x with feedRun := some ⟨o, n⟩, cells := [] }
      .ok (if n = 0 ∨ rows.isEmpty ∨ cols.isEmpty then feedDone s4 c else s4)

/-- FEED_START. -/
def execFeedStart (core : Nat) (upsets : List (Nat × Upset)) (s : State) : Out State :=
  actE s (nextFeed s core).isSome (match nextFeed s core with
    | some o => startFeed s core o upsets
    | none => .ok s)

/-! ### PASS_BLOCK_CLOSE (R35, R36, R43) -/

/-- The cell of a position. -/
def cellAt (x : CoreSt) (i j : Nat) : Cell := FMap.getD x.cells (128 * i + j) ⟨0, 0, none, none⟩

/-- The position is enabled in the running FEED. -/
def cellOn (s : State) (c : Nat) (r : FeedRun) (i j : Nat) : Bool :=
  (feedRows r.op).contains i && (feedCols (feedMode s c r.op) r.op).contains j

/-- The completed pass block `n` of a cell, while it waits to be read. -/
def bufOf (e : Cell) (n : Nat) : Option Partial := if n % 2 = 0 then e.buf0 else e.buf1

/-- A cell with the buffer of pass block `n` changed. -/
def setBuf (e : Cell) (n : Nat) (b : Option Partial) : Cell := if n % 2 = 0 then { e with buf0 := b } else { e with buf1 := b }

/-- The slots of a pass block have been issued: a cell has closed it. -/
def slotsOut (x : CoreSt) (n : Nat) : Bool := x.cells.any fun e => decide (n < e.2.closed)

/-- A lane is backed up: it has not read its cell's pass block before the last, and a DRAIN holds its entry. -/
def laneBack (s : State) (c : Nat) (r : FeedRun) (n : Nat) : Bool :=
  let fc := feedMode s c r.op
  (coreAt s c).drainQ.any (fun d => decide (drainSeq d < r.op.seq))
    && (feedRows r.op).any fun i => (feedCols fc r.op).any fun j =>
      decide ((cellAt (coreAt s c) i j).done + 1 < n) && accHeld s c r.op.seq fc i j

/-- The slots of pass block `n` may be issued, or have been: the permit lets them go (R43), and every lane will have read
pass block n − 2 in time (R42). -/
def slotsGo (s : State) (c : Nat) (r : FeedRun) (n : Nat) : Bool :=
  slotsOut (coreAt s c) n || (decide (0 < regFld s (coreReg c 0x128) 4 0) && !laneBack s c r n)

/-- The pass and the K-block of pass block `n`. -/
def passOf (ps : List Pass) (n : Nat) : Option (Nat × Pass) := (ps[n % ps.length]?).map fun p => (n / ps.length, p)

/-- The fields of pass block `n` of a cell (R34, R35). -/
def cellFields (s : State) (c : Nat) (o : FeedOp) (i j n : Nat) : List Int :=
  match feedPasses o with
  | none => []
  | some ps => match passOf ps n with
    | none => []
    | some (k, p) =>
      passFields (aLine s c o p.aImag i k) (bLine s c o p.bImag j k) p.da p.db (feedSb4 o) p.neg

/-- The four fields of a buffer. -/
def toPartial (l : List Int) : Partial :=
  let f (k : Nat) : BitVec 16 := BitVec.ofInt 16 ((l[k]?).getD 0)
  ⟨f 0, f 1, f 2, f 3⟩

/-- The fields that a buffer holds: F0 alone, or all four for SB4. -/
def partialFields (sb4 : Bool) (b : Partial) : List Int :=
  if sb4 then [b.f0.toInt, b.f1.toInt, b.f2.toInt, b.f3.toInt] else [b.f0.toInt]

/-- The slots of pass block `n` go out with the first cell that closes it: their products count as issued (R63). -/
def countSlots (s : State) (c : Nat) (r : FeedRun) (n : Nat) : State :=
  if slotsOut (coreAt s c) n then s
  else count s (coreCtr c 1) (32 * (feedRows r.op).length * (feedCols (feedMode s c r.op) r.op).length)

/-- A cell closes its pass block; the next goes to its other buffer. -/
def closeBlock (s : State) (c i j : Nat) (r : FeedRun) : State :=
  let e := cellAt (coreAt s c) i j
  let b := toPartial (cellFields s c r.op i j e.closed)
  let s1 := countSlots s c r e.closed
  bump (updCore s1 c fun x =>
    { x with cells := FMap.set x.cells (128 * i + j) { setBuf e e.closed (some b) with closed := e.closed + 1 } })

/-- A cell can close its next pass block: the buffer has been read, and the 32 slots may be issued. -/
def blockReady (s : State) (c i j : Nat) : Bool :=
  match (coreAt s c).feedRun with
  | none => false
  | some r =>
    let e := cellAt (coreAt s c) i j
    cellOn s c r i j && (bufOf e e.closed).isNone && decide (e.closed < r.passes) && slotsGo s c r e.closed

/-- PASS_BLOCK_CLOSE. -/
def execPassBlockClose (core i j : Nat) (s : State) : Out State :=
  act s (blockReady s core i j) (match (coreAt s core).feedRun with
    | some r => closeBlock s core i j r
    | none => s)

/-! ### CHURN_LANE_READ (R46, R49, R50, R53, R76, R88, R89) -/

/-- A non-finite contribution of `n` fields reaches an entry. -/
def addNonFinite (s : State) (c : Nat) (fc : Bool) (i j n : Nat) : State :=
  let s1 := putAcc s c fc i j { accAt s c fc i j with nan := true }
  (List.range n).foldl (fun s _ => setTileFlag s c fOverflow) s1

/-- Weighted fields reach an entry. -/
def addFields (s : State) (c : Nat) (fc : Bool) (i j : Nat) (fields weights : List Int) : State :=
  let a := accAt s c fc i j
  let r := churnAdd (accBits fc) (accBias fc) a.v (chnAnchor s c) fields weights
  let s1 := underspill (putAcc s c fc i j { a with v := r.1, ovf := a.ovf || r.2.1 }) c r.2.2
  if !r.2.1 then s1
  else
    let s2 := setTileFlag s1 c fOverflow
    if fc then setTileFlag s2 c fFcrange else s2

/-- One completed buffer of two K-lines reaches its entry. -/
def addPass (s : State) (c : Nat) (fc sb4 : Bool) (i j : Nat) (p : Pass) (a b : KLine) (fields : List Int) : State :=
  if a.bad || b.bad then addNonFinite s c fc i j (if sb4 then 4 else 1)
  else addFields s c fc i j fields (passWeights a b p.da p.db)

/-- One completed buffer of the running FEED reaches its entry. -/
def addBuffer (s : State) (c i j : Nat) (o : FeedOp) (n : Nat) (fields : List Int) : State :=
  match feedPasses o with
  | none => s
  | some ps => match passOf ps n with
    | none => s
    | some (k, p) =>
      addPass s c (feedMode s c o) (feedSb4 o) i j p (aLine s c o p.aImag i k) (bLine s c o p.bImag j k) fields

/-- Every enabled cell has had every pass block read. -/
def feedRead (s : State) (c : Nat) (r : FeedRun) : Bool :=
  let cells := (coreAt s c).cells
  cells.length == (feedRows r.op).length * (feedCols (feedMode s c r.op) r.op).length
    && cells.all fun e => e.2.done == r.passes

/-- A churn lane reads a cell's completed buffer. -/
def readLane (s : State) (c i j : Nat) (r : FeedRun) (b : Partial) : State :=
  let e := cellAt (coreAt s c) i j
  let s1 := bump (addBuffer s c i j r.op e.done (partialFields (feedSb4 r.op) b))
  let s2 := updCore s1 c fun x =>
    { x with cells := FMap.set x.cells (128 * i + j) { setBuf e e.done none with done := e.done + 1 } }
  if feedRead s2 c r then feedDone s2 c else s2

/-- The oldest completed buffer of a cell that its lane has not read. -/
def laneBuf (x : CoreSt) (i j : Nat) : Option Partial :=
  let e := cellAt x i j
  bufOf e e.done

/-- CHURN_LANE_READ: the lane waits until every DRAIN before the FEED has read its entry (R56). -/
def execChurnLaneRead (core i j : Nat) (s : State) : Out State :=
  match (coreAt s core).feedRun, laneBuf (coreAt s core) i j with
  | some r, some b => act s (!accHeld s core r.op.seq (feedMode s core r.op) i j) (readLane s core i j r b)
  | _, _ => .next s

/-! ### DRAIN (R117, R118) -/

/-- A DRAIN as the drain unit accepts it. -/
def drainOp (s : State) (c : Nat) (f : DrainF) : DrainOp :=
  { seq := (coreAt s c).nextSeq, d := treg s c f.t, row := sval s c f.p % 128, col := sval s c f.p / 2 ^ 16 % 128
    seed := sval s c f.s % 2 ^ 32, rowBase := sval s c f.c % 2 ^ 32, colBase := sval s c f.c / 2 ^ 32
    round := f.round, whey := if f.whey then some (sval s c f.w) else none
    gslot := if f.guard then some f.gslot else none }

/-- Residuals are stored as BF16. -/
def wheyBf (s : State) : Bool := bit (regGet s (hubReg 0x40000)) 2

/-- SRAM offset of the residual of element (i, j). -/
def wheyOff (s : State) (o : DrainOp) (base i j : Nat) : Nat :=
  base + (i * o.d.len + j) * (if wheyBf s then 2 else 4)

/-- SRAM ranges that a DRAIN reads, and those that it writes. -/
def wheySpan (s : State) (o : DrainOp) : List (Nat × Nat) := match o.whey with
  | none => []
  | some base => [(base, wheyOff s o base (o.d.lines - 1) o.d.len - base)]
def drainSpans (s : State) (o : DrainOp) : List (Nat × Nat) := if descOk o.d o.d.lines then tileSpans o.d ++ wheySpan s o else []

/-- DRAIN enters the drain queue of four. -/
def issueDrain (s : State) (c : Nat) (f : DrainF) : Except Halt State :=
  if (coreAt s c).drainQ.length < 4 then do
    let o := drainOp s c f
    let s1 ← orderOp s c ⟨o.seq, .drain, false, none, wheySpan s o, drainSpans s o⟩
    .ok (nextPc (takeSeq (updCore (bump s1) c fun x => { x with drainQ := x.drainQ ++ [.drain o] }) c) c)
  else .ok s

def execDrain (core : Nat) (f : DrainF) (s : State) : Out State :=
  tileOut s core (.drain f) (issueDrain s core f)

/-! ### DRAIN_START (R56, R81 to R87, R95, R174) -/

/-- Every add of a running FEED to the rectangle of an operation has landed. -/
def addsLanded (s : State) (c : Nat) (r : FeedRun) (d : DrainItem) : Bool :=
  let fc := feedMode s c r.op
  let rect := drainRect d
  let rows := (feedRows r.op).filter fun i => decide (rect.1 ≤ i) && decide (i < rect.1 + rect.2.1)
  let cols := (feedCols fc r.op).filter fun j => decide (rect.2.2.1 ≤ j) && decide (j < rect.2.2.1 + rect.2.2.2)
  let landed := (coreAt s c).cells.filter fun e => inRect d (e.1 / 128) (e.1 % 128) && e.2.done == r.passes
  landed.length == rows.length * cols.length

/-- A FEED that waits in the queue leaves the rectangle of an operation alone, and its tile as it is. -/
def feedApart (s : State) (c : Nat) (o : FeedOp) (d : DrainItem) : Bool :=
  o.accumulate && (feedRows o).all fun i => (feedCols (feedMode s c o) o).all fun j => !inRect d i j

/-- Every add that a FEED or ATB issued before an operation of the drain queue makes to its rectangle has landed (R56). -/
def feedsBefore (s : State) (c : Nat) (d : DrainItem) : Bool :=
  let x := coreAt s c
  (match x.feedRun with
    | none => true
    | some r => decide (drainSeq d < r.op.seq) || addsLanded s c r d)
    && x.feedQ.all fun f => match f with
      | .feed o => decide (drainSeq d < o.seq) || feedApart s c o d
      | .atb o => decide (drainSeq d < o.seq)

/-- The residuals of a row, before the DRAIN. -/
def wheyRow (s : State) (c : Nat) (o : DrainOp) (i : Nat) : List Num := match o.whey with
  | none => []
  | some base =>
    let n := if wheyBf s then 2 else 4
    (List.range o.d.len).map fun j =>
      decodeFp (if wheyBf s then bf16 else fp32) (leNat (bytesAt s (sramKey c (wheyOff s o base i j)) n))

/-- A churn value with its residual, and the exact sum that the residual step uses. -/
def withWhey (v : Num) (r : Option Num) : Num := match r with
  | none => v
  | some x => if v.isFin && x.isFin then (Dy.add v.toDy x.toDy).toNum else v

/-- The new residuals of a row are stored. -/
def putWhey (s : State) (c : Nat) (o : DrainOp) (i : Nat) (ts deq : List Num) : State := match o.whey with
  | none => s
  | some base =>
    let n := if wheyBf s then 2 else 4
    let rs := (ts.zip deq).map fun p => if p.1.isFin then residual (wheyBf s) p.1.toDy p.2 else 0
    coreOut s c (wheyOff s o base i 0) (rs.flatMap (leBytes n))

/-- One row of the rectangle is converted and written. R83 does not say whether its n counts from the tile's first
column or from the rectangle's; the model's choice is the rectangle's, in a full-cream tile too. -/
def drainRow (c : Nat) (t : OldTile) (o : DrainOp) (p : State × Report) (i : Nat) : State × Report :=
  let s := p.1
  let vs := (List.range o.d.len).map fun j => accNum t.fc t.anchor (accAt s c t.fc (o.row + i) (o.col + j))
  let ws := wheyRow s c o i
  let ts := (vs.zip (List.range vs.length)).map fun x => withWhey x.1 ws[x.2]?
  let r := convertRow o.d.fmt o.d.scaled ts fun j => rndOf o.round o.seed (o.rowBase + i) (o.colBase + j)
  let s1 := putWhey (putRow s c o.d i r) c o i ts r.deq
  (coreEvent s1 c 0x05 1, addRow p.2 r.deq)

/-- Whey residuals lie in SRAM, aligned to their size. -/
def wheyOk (s : State) (o : DrainOp) : Bool := match o.whey with
  | none => true
  | some base => decide (wheyOff s o base (o.d.lines - 1) o.d.len ≤ 0x800000)

/-- A DRAIN's operands within their limits (R118). -/
def drainOk (s : State) (fc : Bool) (o : DrainOp) : Bool :=
  fmtOutput o.d.fmt && descOk o.d o.d.lines && decide (o.row + o.d.lines ≤ 128)
    && decide (o.col + o.d.len ≤ (if fc then 32 else 128)) && wheyOk s o

/-- The words of the whey buffer are read. -/
def touchWhey (s : State) (c : Nat) (o : DrainOp) : State := touchSpans s c (wheySpan s o)

/-- A DRAIN's report leaves for the guard. -/
def sendReport (s : State) (r : Report) : State :=
  sendPacket s (coreStop r.core)
    { plainPacket .msg 0 0 (coreStop r.core) hubStop 0 0 0 with owner := some (r.core, r.seq), report := some r }

/-- The drain unit reads the rectangle and writes its rows; a report leaves for the guard. -/
def startDrain (s : State) (c : Nat) (o : DrainOp) : Except Halt State :=
  let t := tileOf s c o.seq
  if !fmtOperand o.d.fmt then .error (.undefinedCase 10)
  else if !drainOk s t.fc o then .error (.undefinedCase 18)
  else
    let s0 := touchWhey s c o
    let r0 := emptyReport c o.seq (o.gslot.getD 0) (coreAt s c).step
    let r := (List.range o.d.lines).foldl (drainRow c t o) (s0, r0)
    let rep := withTileFlags r.2 (bit t.flags fUnderspill) (bit t.flags fOverflow) (bit t.flags fFcrange)
    let s1 := leaveDrainQ (if o.gslot.isSome then sendReport r.1 rep else r.1) c
    .ok (bump (updCore s1 c fun x => { x with drainWait := some ⟨o.seq, o.gslot.isNone⟩ }))

end Sys2Proof.Machine
end

