-- ==== Sys2Proof/Machine/Vector.lean ====
section
/-! DEFINITION. The vector unit (R125 to R128). -/

namespace Sys2Proof.Machine

/-! ### Issue -/

/-- A VOP as sampled at issue. -/
def vopOp (s : State) (c : Nat) (f : VopF) : VopOp :=
  { seq := (coreAt s c).nextSeq, d := treg s c f.d, a := treg s c f.a, b := treg s c f.b, s := sval s c f.s
    fn := f.fn, bcast := f.bcast }

/-! ### Functions within 1 ulp (R126) -/

/-- A magnitude code within 1 ulp of a result: `lo` is the result rounded toward zero. -/
def nearUlp (lo : Nat) (exact : Bool) (pick : Nat) : Nat :=
  if exact then lo + pick % 3 - 1 else lo + pick % 2

/-- The magnitude `num / den × 2^e`, rounded toward zero, and whether it is exact there. -/
def quotCode (num den : Nat) (e : Int) : Nat × Bool :=
  let k := Nat.log2 den + 64
  let n := num * 2 ^ k / den
  let rest := decide (num * 2 ^ k % den ≠ 0)
  let c := roundFp fp32 .rtz (.fin false (2 * n + b2n rest) (e - k - 1))
  let back := (of32 c).toDy
  (c, !rest && Dy.le back ⟨n, e - k⟩ && Dy.le ⟨n, e - k⟩ back)

/-- RECIP of a binary32 code. -/
def recip32 (a : Nat) : Nat := match of32 a with
  | .nan => 0x7FC00000
  | .inf neg => b2n neg * 2 ^ 31
  | .fin neg m e =>
    if m = 0 then b2n neg * 2 ^ 31 + 0x7F800000
    else
      let q := quotCode 1 m (-e)
      b2n neg * 2 ^ 31 + nearUlp q.1 q.2 (Config.recip (BitVec.ofNat 32 a)).toNat

/-- Integer square root by bits, of a number below 4 to the power of the count. -/
def sqrtBits : Nat → Nat → Nat → Nat
  | 0, _, r => r
  | b + 1, n, r => if (r + 2 ^ b) * (r + 2 ^ b) ≤ n then sqrtBits b n (r + 2 ^ b) else sqrtBits b n r

/-- RSQRT of a binary32 code. -/
def rsqrt32 (a : Nat) : Nat := match of32 a with
  | .nan => 0x7FC00000
  | .inf neg => if neg then 0x7FC00000 else 0
  | .fin neg m e =>
    if m = 0 then b2n neg * 2 ^ 31 + 0x7F800000
    else if neg then 0x7FC00000
    else
      let m2 := if e % 2 = 0 then m else 2 * m
      let e2 := if e % 2 = 0 then e else e - 1
      let n := 2 ^ 128 / m2
      let r := sqrtBits 65 n 0
      let exact := decide (r * r * m2 = 2 ^ 128)
      let c := roundFp fp32 .rtz (.fin false (2 * r + b2n (!exact)) (-64 - e2 / 2 - 1))
      let back := (of32 c).toDy
      nearUlp c (exact && Dy.le ⟨r, -64 - e2 / 2⟩ back) (Config.rsqrt (BitVec.ofNat 32 a)).toNat

/-- ln 2 in units of 2⁻²²⁴, rounded down. -/
def ln2Fixed : Nat := 0xb17217f7d1cf79abc9e3b39803f2f6af40f343267298b62d8a0d175b

/-- 2^f in units of 2⁻²²⁴, for a fraction f in those units: the Taylor sum of e^(f ln 2), whose error lies far below the
distance of any such power of a binary32 fraction from a binary32 number. -/
def pow2Frac (f : Nat) : Nat :=
  let z := f * ln2Fixed / 2 ^ 224
  ((List.range 60).foldl (fun (t : Nat × Nat) k => (t.1 + t.2, t.2 * z / 2 ^ 224 / (k + 1))) (0, 2 ^ 224)).1

/-- EXP2 of a binary32 code: within 1 ulp of 2 to its power, an infinity beyond the range. -/
def exp2_32 (a : Nat) : Nat := match of32 a with
  | .nan => 0x7FC00000
  | .inf neg => if neg then 0 else 0x7F800000
  | .fin neg m e =>
    let d : Dy := ⟨if neg then -(m : Int) else m, e⟩
    if Dy.le ⟨128, 0⟩ d then 0x7F800000
    else if Dy.lt d ⟨-150, 0⟩ then (Config.exp2 (BitVec.ofNat 32 a)).toNat % 2
    else
      let x := (d.lower 224).m * 2 ^ e.toNat / 2 ^ (-e).toNat
      let n := x / 2 ^ 224
      let f := (x % 2 ^ 224).toNat
      let exact := decide (f = 0) && decide (-149 ≤ n)
      nearUlp (roundFp fp32 .rtz (.fin false (pow2Frac f) (n - 224))) exact (Config.exp2 (BitVec.ofNat 32 a)).toNat

/-- The first `n` bits of log2 u, for a number u from 1 to below 2 in units of 2⁻²⁵⁶, by repeated squaring. -/
def log2Bits : Nat → Nat → Nat → Nat
  | 0, _, r => r
  | n + 1, u, r =>
    let v := u * u / 2 ^ 256
    if v < 2 ^ 257 then log2Bits n v (2 * r) else log2Bits n (v / 2) (2 * r + 1)

/-- LOG2 of a binary32 code: within 1 ulp of the logarithm. -/
def log2_32 (a : Nat) : Nat := match of32 a with
  | .nan => 0x7FC00000
  | .inf neg => if neg then 0x7FC00000 else 0x7F800000
  | .fin neg m e =>
    if m = 0 then 0xFF800000
    else if neg then 0x7FC00000
    else
      let k := Nat.log2 m
      let l : Int := k + e
      let pick := (Config.log2 (BitVec.ofNat 32 a)).toNat
      if m = 2 ^ k then
        if l = 0 then 0
        else b2n (decide (l < 0)) * 2 ^ 31 + nearUlp (roundFp fp32 .rtz (.fin false l.natAbs 0)) true pick
      else
        let y := l * 2 ^ 128 + log2Bits 128 (m * 2 ^ (256 - k)) 0
        if 0 ≤ y then nearUlp (roundFp fp32 .rtz (.fin false (2 * y.toNat + 1) (-129))) false pick
        else 2 ^ 31 + nearUlp (roundFp fp32 .rtz (.fin false (2 * (-y).toNat - 1) (-129))) false pick

/-! ### Functions per element (Table 4.17) -/

/-- An element of the result: `d` its old value, for FMA; binary32 codes. -/
def vopElem (fn a b d s : Nat) : Nat :=
  match fn with
  | 0x00 => add32 a b
  | 0x01 => to32 (numAdd (of32 a) (numNeg (of32 b)))
  | 0x02 => mul32 a b
  | 0x03 => to32 (numAdd (numMul (of32 a) (of32 b)) (of32 d))
  | 0x04 => max32 a b
  | 0x05 => min32 a b
  | 0x06 => add32 a s
  | 0x07 => mul32 a s
  | 0x08 => exp2_32 a
  | 0x09 => log2_32 a
  | 0x0A => rsqrt32 a
  | 0x0B => recip32 a
  | _ => to32 (of32 a)

/-- The function reads tB; it reads the old destination. -/
def vopUsesB (fn : Nat) : Bool := decide (fn ≤ 5)
def vopUsesD (fn : Nat) : Bool := fn == 3

/-- A source format. -/
def vopSrc (fmt : Nat) : Bool := fmt == 10 || fmt == 11 || fmt == 12

/-- Shapes and formats of R126 and R128. -/
def vopOk (o : VopOp) : Bool :=
  let red := o.fn == 0x0E || o.fn == 0x0F
  let cvt := o.fn == 0x0C || o.fn == 0x0D
  decide (o.fn < 0x11)
    && descOk o.a o.a.lines && descOk o.d o.d.lines
    && o.a.lines == o.d.lines && (if red then o.d.len == 1 else o.d.len == o.a.len)
    && (if o.fn = 0x0D then (o.a.fmt == 13 || o.a.fmt == 14) && decide (o.s % 4 ≠ 3) else vopSrc o.a.fmt)
    && (if cvt then fmtOutput o.d.fmt else vopSrc o.d.fmt)
    && (!vopUsesB o.fn || (descOk o.b o.b.lines && vopSrc o.b.fmt && o.b.lines == o.a.lines
        && (if o.bcast then o.b.len == 1 else o.b.len == o.a.len)))

/-- SRAM ranges that a VOP reads. -/
def vopSpans (o : VopOp) : List (Nat × Nat) :=
  tileSpans o.a ++ (if vopUsesB o.fn then tileSpans o.b else []) ++ (if vopUsesD o.fn then tileSpans o.d else [])

/-- VOP enters the vector queue of eight. -/
def issueVop (s : State) (c : Nat) (f : VopF) : Except Halt State :=
  if (coreAt s c).vopQ.length < 8 then do
    let o := vopOp s c f
    let s1 ← orderOp s c ⟨o.seq, .vector, false, none, if vopOk o then vopSpans o else [], if vopOk o then tileSpans o.d else []⟩
    .ok (nextPc (takeSeq (updCore (bump s1) c fun x => { x with vopQ := x.vopQ ++ [o] }) c) c)
  else .ok s

def execVop (core : Nat) (f : VopF) (s : State) : Out State := tileOut s core (.vop f) (issueVop s core f)

/-! ### A line of the result -/

/-- A line of a source as binary32 codes. -/
def line32 (s : State) (c : Nat) (d : TileDesc) (l : Nat) : List Nat := (lineVals s c d l d.len).map to32

/-- The value of an FX slot of a line (R119, R128). -/
def slotNum (s : State) (c : Nat) (d : TileDesc) (l p : Nat) : Num :=
  let n := fmtBits d.fmt / 8
  let bs := bytesAt s (sramKey c (lineAt d false l + p * n)) n
  let w := if d.fmt = 13 then 16 else 64
  let fl := fieldAt bs (w + 2) 1
  if fl % 4 ≠ 0 then .nan
  else Dy.toNum ⟨signed (8 * w) (fieldAt bs 0 w), signed 16 (fieldAt bs w 2) - (if w = 16 then 96 else 489)⟩

/-- An exact zero is +0 in the formats of R81. -/
def plusZero (v : Num) : Num := match v with
  | .fin _ 0 e => .fin false 0 e
  | v => v

/-- The values of line `l` of the result, and how each column rounds. -/
def vopLine (s : State) (c : Nat) (o : VopOp) (l : Nat) : List Num × (Nat → Rnd) :=
  let rne (_ : Nat) : Rnd := .rne
  if o.fn = 0x0D then
    ((List.range o.a.len).map fun p => slotNum s c o.a l p, fun p => rndOf (o.s % 4) (o.s / 2 ^ 32) l p)
  else
    let a := line32 s c o.a l
    let b := if vopUsesB o.fn then line32 s c o.b l else []
    let d := if vopUsesD o.fn then line32 s c o.d l else []
    let pick (x : List Nat) (i : Nat) : Nat := (x[i]?).getD 0
    if o.fn = 0x0E then ([of32 (rsum32 a)], rne)
    else if o.fn = 0x0F then ([of32 (rmax32 a)], rne)
    else
      let r := (List.range a.length).map fun i =>
        of32 (vopElem o.fn (pick a i) (pick b (if o.bcast then 0 else i)) (pick d i) (o.s % 2 ^ 32))
      (if o.fn = 0x0C && !vopSrc o.d.fmt then r.map plusZero else r, rne)

/-- Line `l` is computed and written. -/
def vopRow (c : Nat) (o : VopOp) (s : State) (l : Nat) : State :=
  let r := vopLine s c o l
  bump (putRow s c o.d l (convertRow o.d.fmt false r.1 r.2))

/-! ### VOP_EXECUTE -/

/-- The words that a VOP reads. -/
def touchVop (s : State) (c : Nat) (o : VopOp) : State := touchSpans s c (vopSpans o)

/-- A VOP runs. -/
def runVop (s : State) (c : Nat) (o : VopOp) : Except Halt State :=
  if !vopOk o then .error (.undefinedCase 18)
  else
    let s1 := touchVop (updCore s c fun x => { x with vopQ := x.vopQ.drop 1 }) c o
    let s2 := (List.range o.d.lines).foldl (vopRow c o) s1
    .ok (coreEvent s2 c 0x08 (o.d.lines * o.d.len))

/-- VOP_EXECUTE. -/
def execVopExecute (core : Nat) (s : State) : Out State :=
  match (coreAt s core).vopQ with
  | [] => .next s
  | o :: _ => actE s (domOn s ⟨.core, core⟩) (runVop s core o)

end Sys2Proof.Machine
end

