-- ==== Sys2Proof/Machine/Attention.lean ====
section
/-! DEFINITION. The attention block step (R129, R130, R144 to R154). -/

namespace Sys2Proof.Machine

/-- An ATB as sampled at issue. -/
def atbOp (s : State) (c : Nat) (f : AtbF) : AtbOp :=
  { seq := (coreAt s c).nextSeq, q := treg s c f.q, k := treg s c f.k, v := treg s c f.v, o := treg s c f.o
    m := sval s c f.m, maskAt := sval s c f.mask, pfmt := f.pfmt, kind := f.kind, scale := sval s c f.c % 2 ^ 32
    rowmask := maskAt s c 0x108, colmask := maskAt s c 0x118 }

/-! ### Operands (R144, Table 5.1) -/

/-- Format code of P, by PFMT (Table 4.18). -/
def pFmtOf (pfmt : Nat) : Nat := if pfmt = 0 then 6 else if pfmt = 1 then 3 else 7

/-- Format code of P of an ATB. -/
def pFmt (o : AtbOp) : Nat := pFmtOf o.pfmt

/-- Formats of tQ, tK and tV. -/
def atbFmt (f : Nat) : Bool := [1, 2, 3, 6, 7, 8, 9].contains f

/-- The inputs share no byte with the output accumulator or the statistics. -/
def atbApart (o : AtbOp) : Bool :=
  let outs := (o.m, 8 * o.q.lines) :: tileSpans o.o
  !meetAny (tileSpans o.q ++ tileSpans o.k ++ tileSpans o.v) outs

/-- Operands as Table 5.1 wants them. -/
def atbOk (o : AtbOp) : Bool :=
  let d := o.q.len
  decide (o.q.lines ≤ 128) && d % 32 == 0 && decide (32 ≤ d) && decide (d ≤ 256)
    && o.k.lines == 64 && o.k.len == d && o.v.lines == d && o.v.len == 64 && o.o.lines == o.q.lines && o.o.len == d
    && atbFmt o.q.fmt && atbFmt o.k.fmt && atbFmt o.v.fmt && o.o.fmt == 12
    && descOk o.q o.q.lines && descOk o.k 64 && descOk o.v d && descOk o.o o.o.lines
    && o.m % 16 == 0 && decide (o.m + 8 * o.q.lines ≤ 0x800000)
    && (planPasses 0 (fmtDigits o.q.fmt) (fmtDigits o.k.fmt)).isSome
    && (planPasses 0 (fmtDigits (pFmt o)) (fmtDigits o.v.fmt)).isSome
    && atbApart o

/-! ### Masks (R153, R154) -/

/-- A mask record (Table 5.2). -/
structure MaskRec where
  q0 : Nat
  k0 : Nat
  w : Nat
  glog2 : Nat
  valid : Nat
  bmap : Nat
  bstride : Nat
  ok : Bool
  deriving DecidableEq, Repr

/-- The mask record of 32 bytes, and whether its fields are within their ranges for the kind. -/
def parseMask (kind : Nat) (bs : List Byte) : MaskRec where
  q0 := fieldAt bs 0 4
  k0 := fieldAt bs 4 4
  w := fieldAt bs 8 4
  glog2 := fieldAt bs 12 1
  valid := fieldAt bs 13 1
  bmap := fieldAt bs 16 4
  bstride := fieldAt bs 20 4
  ok := decide (fieldAt bs 13 1 ≤ 64) && (kind == 2 || decide (fieldAt bs 12 1 ≤ 7))
    && fieldAt bs 14 2 == 0 && fieldAt bs 24 8 == 0 && (kind != 3 || decide (1 ≤ fieldAt bs 8 4))
    && (kind != 4 || (fieldAt bs 16 4 % 8 == 0 && fieldAt bs 20 4 % 8 == 0))

/-- SRAM offset of a row's bitmap word. -/
def bitmapAt (m : MaskRec) (r : Nat) : Nat := m.bmap + r / 2 ^ m.glog2 * m.bstride

/-- Position j of row r is masked (Table 5.3). -/
def maskedAt (s : State) (c kind : Nat) (m : MaskRec) (r j : Nat) : Bool :=
  if kind = 0 then false
  else
    let q := m.q0 + r / 2 ^ m.glog2
    let k := m.k0 + j
    decide (m.valid ≤ j) ||
      match kind with
      | 1 => decide (q < k)
      | 3 => decide (q < k) || decide (k + m.w ≤ q)
      | 4 => !bit (leNat (bytesAt s (sramKey c (bitmapAt m r)) 8)) j
      | _ => false

/-- The mask operand lies in SRAM at a multiple of 32, and so do its bitmap words. -/
def maskOk (o : AtbOp) (m : MaskRec) : Bool :=
  o.kind == 0 || (o.maskAt % 32 == 0 && decide (o.maskAt + 32 ≤ 0x800000) && m.ok
    && (o.kind != 4 || decide (bitmapAt m (o.q.lines - 1) + 8 ≤ 0x800000)))

/-- The mask record of an ATB. -/
def atbMask (s : State) (c : Nat) (o : AtbOp) : MaskRec := parseMask o.kind (bytesAt s (sramKey c o.maskAt) 32)

/-! ### SRAM accesses and issue (R141, R151) -/

/-- SRAM ranges that an ATB reads and writes: the output accumulator and the statistics. -/
def atbOuts (o : AtbOp) : List (Nat × Nat) := (o.m, 8 * o.q.lines) :: tileSpans o.o

/-- SRAM ranges of the bitmap words of an ATB's rows. -/
def bitmapSpans (o : AtbOp) (m : MaskRec) : List (Nat × Nat) :=
  if o.kind = 4 then ((List.range o.q.lines).map fun r => (bitmapAt m r, 8)).dedup else []

/-- SRAM ranges that an ATB reads: enabled lines of tQ, tK and tV, the output accumulator and the statistics, the mask
record and the bitmap words. -/
def atbSpans (o : AtbOp) (m : MaskRec) : List (Nat × Nat) :=
  let on (mask n : Nat) : List Nat := (List.range n).filter fun l => bit mask (l % 128)
  partSpans o.q (on o.rowmask o.q.lines) 0 o.q.len ++ partSpans o.k (on o.colmask o.k.lines) 0 o.k.len
    ++ partSpans o.v (on o.colmask o.v.lines) 0 o.v.len ++ atbOuts o
    ++ (if o.kind = 0 then [] else (o.maskAt, 32) :: bitmapSpans o m)

/-- ATB enters the feed queue. -/
def issueAtb (s : State) (c : Nat) (f : AtbF) : Except Halt State :=
  if (coreAt s c).feedQ.length < 4 then do
    let o := atbOp s c f
    let m := atbMask s c o
    let s1 ← orderOp s c ⟨o.seq, .feed, true, none, if atbOk o && maskOk o m then atbSpans o m else [],
      if atbOk o then atbOuts o else []⟩
    .ok (nextPc (takeSeq (updCore (bump s1) c fun x => { x with feedQ := x.feedQ ++ [.atb o] }) c) c)
  else .ok s

def execAtb (core : Nat) (f : AtbF) (s : State) : Out State := tileOut s core (.atb f) (issueAtb s core f)

/-! ### The two products (R145, steps 1 and 4) -/

/-- A product of K-lines that CLEARs the tile, standard mode, AUTO, H = 0: rows, columns and their lines. -/
structure Product where
  rows : List Nat
  cols : List Nat
  blocks : Nat
  passes : List Pass
  sb4 : Bool
  a : FMap KLine
  b : FMap KLine
  deriving DecidableEq, Repr

/-- Key of line `i` in K-block `k`. -/
def lineKey (i k : Nat) : Nat := 64 * i + k

/-- The line of a table. -/
def lineOf (m : FMap KLine) (i k : Nat) : KLine := FMap.getD m (lineKey i k) ⟨[], [], [], false, false⟩

/-- A table of lines. -/
def linesOf (is : List Nat) (n : Nat) (f : Nat → Nat → KLine) : FMap KLine :=
  is.flatMap fun i => (List.range n).map fun k => (lineKey i k, f i k)

/-- The AUTO anchor of a product. -/
def productAnchor (p : Product) : Int :=
  let w := (List.range p.blocks).foldl (fun t k =>
    let a := topWeights (p.rows.map fun i => lineOf p.a i k)
    let b := topWeights (p.cols.map fun j => lineOf p.b j k)
    p.passes.foldl (fun t q => (List.range (if p.sb4 then 4 else 1)).foldl (fun t f =>
      match (a[f]?).getD none, (b[f]?).getD none with
      | some x, some y => maxOpt t (some (x + y + 4 * (q.da + q.db : Nat)))
      | _, _ => t) t) t) none
  match w with
  | none => 0
  | some w => w + 13

/-- One entry's pass blocks. -/
def productCell (c : Nat) (p : Product) (i j : Nat) (s : State) : State :=
  (List.range p.blocks).foldl (fun s k => p.passes.foldl (fun s q =>
    let a := lineOf p.a i k
    let b := lineOf p.b j k
    addPass s c false p.sb4 i j q a b (passFields a b q.da q.db p.sb4 q.neg)) s) s

/-- A product runs. -/
def runProduct (s : State) (c : Nat) (p : Product) : State :=
  let s1 := setAnchor (clearTileFlags s c false) c (productAnchor p)
  let s2 := p.rows.foldl (fun s i => p.cols.foldl (fun s j => putAcc s c false i j ⟨0, false, false⟩) s) s1
  let s3 := count s2 (coreCtr c 1) (32 * p.blocks * p.passes.length * p.rows.length * p.cols.length)
  p.rows.foldl (fun s i => p.cols.foldl (fun s j => productCell c p i j s) s) s3

/-- The passes of a plan that AUTO selects, as real passes. -/
def autoPasses (na nb : Nat) : List Pass :=
  ((planPasses 0 na nb).getD []).map fun p => ⟨false, false, false, p.1, p.2⟩

/-- The score product. -/
def scoreProduct (s : State) (c : Nat) (o : AtbOp) : Product :=
  let rows := (List.range o.q.lines).filter fun i => bit o.rowmask i
  let cols := (List.range 64).filter fun j => bit o.colmask j
  let n := o.q.len / 32
  { rows, cols, blocks := n, passes := autoPasses (fmtDigits o.q.fmt) (fmtDigits o.k.fmt)
    sb4 := o.q.fmt == 3 || o.k.fmt == 3
    a := linesOf rows n fun i k => tileKLine s c o.q false i k o.q.len
    b := linesOf cols n fun j k => tileKLine s c o.k false j k o.k.len }

/-- FP32 code of a churn value under RNE. -/
def churn32 (s : State) (c i j : Nat) : Nat := to32 (accNum false (chnAnchor s c) (accAt s c false i j))

/-! ### Statistics (R146) -/

/-- A row after step 3: P, the correction, the row's new maximum and sum. -/
structure StatRow where
  p : Row
  corr : Nat
  m : Nat
  l : Nat
  deriving DecidableEq, Repr

/-- fma in binary32. -/
def fma32 (a b d : Nat) : Nat := to32 (numAdd (numMul (of32 a) (of32 b)) (of32 d))

/-- Step 3 for one row: its scores, which positions are masked, m and l on entry. -/
def statRow (pf scale : Nat) (sc : List Nat) (masked : Nat → Bool) (m l : Nat) : StatRow :=
  let x := (List.range 64).map fun j => if masked j then 0xFF800000 else mul32 scale ((sc[j]?).getD 0)
  let m2 := max32 m (rmax32 x)
  let none_ := decide (m2 = 0xFF800000)
  let sub (a : Nat) : Nat := to32 (numAdd (of32 a) (numNeg (of32 m2)))
  let corr := if none_ then 0x3F800000 else exp2_32 (sub m)
  let p := (List.range 64).map fun j =>
    if none_ || masked j then 0 else exp2_32 (sub ((x[j]?).getD 0))
  let row := convertRow pf true (p.map of32) fun _ => .rne
  { p := row, corr, m := m2, l := fma32 l corr (rsum32 (row.deq.map to32)) }

/-- P of a row as a K-line of its block. -/
def pLine (pf : Nat) (r : Row) (k : Nat) : KLine :=
  let g := if pf = 3 then 2 else 1
  kline pf ((r.codes.drop (32 * k)).take 32) true ((r.scales[g * k]?).getD 0) ((r.scales[g * k + 1]?).getD 0)

/-- The value product over tV's lines from `lo`, at most 128 of them. -/
def valueProduct (s : State) (c : Nat) (o : AtbOp) (ps : List StatRow) (lo : Nat) : Product :=
  let rows := (List.range o.q.lines).filter fun i => bit o.rowmask i
  let cols := (List.range (min 128 (o.v.lines - lo))).filter fun j => bit o.colmask j
  { rows, cols, blocks := 2, passes := autoPasses (fmtDigits (pFmt o)) (fmtDigits o.v.fmt)
    sb4 := pFmt o == 3 || o.v.fmt == 3
    a := linesOf rows 2 fun i k => match ps[i]? with
      | some r => pLine (pFmt o) r.p k
      | none => ⟨[], [], [], false, false⟩
    b := linesOf cols 2 fun j k => tileKLine s c o.v false (lo + j) k 64 }

/-- FP32 at an SRAM offset. -/
def sram32 (s : State) (c a : Nat) : Nat := leNat (bytesAt s (sramKey c a) 4)

/-- Step 5 for one row and the columns from `lo`: O ← O × c + U. -/
def updateOut (c : Nat) (o : AtbOp) (ps : List StatRow) (lo : Nat) (s : State) (i : Nat) : State :=
  let n := min 128 (o.o.len - lo)
  let corr := ((ps[i]?).map (·.corr)).getD 0
  let bs := (List.range n).flatMap fun j =>
    leBytes 4 (fma32 (sram32 s c (lineAt o.o false i + 4 * (lo + j))) corr (churn32 s c i j))
  coreOut s c (lineAt o.o false i + 4 * lo) bs

/-- The value product over some columns, and the output they update. -/
def valueStep (c : Nat) (o : AtbOp) (ps : List StatRow) (s : State) (lo : Nat) : State :=
  let s1 := runProduct s c (valueProduct s c o ps lo)
  (List.range o.q.lines).foldl (updateOut c o ps lo) s1

/-- The statistics of every row are written. -/
def putStats (s : State) (c : Nat) (o : AtbOp) (ps : List StatRow) : State :=
  coreOut s c o.m (ps.flatMap (fun r => leBytes 4 r.m) ++ ps.flatMap fun r => leBytes 4 r.l)

/-- The words that an ATB reads. -/
def touchAtb (s : State) (c : Nat) (o : AtbOp) : State := touchSpans s c (atbSpans o (atbMask s c o))

/-- The five steps of an ATB. -/
def atbSteps (s : State) (c : Nat) (o : AtbOp) : State :=
  let mk := atbMask s c o
  let s1 := runProduct s c (scoreProduct s c o)
  let r := o.q.lines
  let ps := (List.range r).map fun i =>
    statRow (pFmt o) o.scale ((List.range 64).map fun j => churn32 s1 c i j) (maskedAt s1 c o.kind mk i)
      (sram32 s1 c (o.m + 4 * i)) (sram32 s1 c (o.m + 4 * (r + i)))
  let s2 := ((List.range ((o.v.lines + 127) / 128)).map (128 * ·)).foldl (valueStep c o ps) s1
  putStats s2 c o ps

/-- An ATB runs; the tile is undefined after it (R130). -/
def runAtb (s : State) (c : Nat) (o : AtbOp) : Except Halt State :=
  let s0 := updCore s c fun x => { x with feedQ := x.feedQ.drop 1 }
  if !atbOk o || !maskOk o (atbMask s c o) then .error (.undefinedCase 23)
  else .ok (coreEvent (loseTile (atbSteps (touchAtb s0 c o) c o) c) c 0x09 1)

/-- No earlier operation on the churn is still to act (R56, R130). -/
def churnReady (x : CoreSt) (seq : Nat) : Bool :=
  x.feedRun.isNone && x.drainQ.all fun d => decide (seq < drainSeq d)

/-- The ATB that the feed controller runs next: the churn is free and the permit lets slots go. -/
def nextAtb (s : State) (c : Nat) : Option AtbOp :=
  match (coreAt s c).feedQ with
  | .atb o :: _ =>
    if churnReady (coreAt s c) o.seq && domOn s ⟨.core, c⟩ && decide (0 < regFld s (coreReg c 0x128) 4 0) then some o
    else none
  | _ => none

/-- ATB_EXECUTE. -/
def execAtbExecute (core : Nat) (s : State) : Out State :=
  actE s (nextAtb s core).isSome (match nextAtb s core with
    | some o => runAtb s core o
    | none => .ok s)

end Sys2Proof.Machine
end

