-- ==== Sys2Proof/Machine/Exact.lean ====
section
/-! DEFINITION. Products of K-lines as exact numbers, as an ATB forms them, and when a tile of unknown anchor holds the
exact sum: for the built-in kernels (R91, R93, R94, R145, R301). -/

namespace Sys2Proof.Machine

/-! ### Lines -/

/-- K-lines of a line of element bytes, with the scale bytes of its groups, if it has them. -/
def bytesLines (fmt len : Nat) (bs : List Byte) (scales : Option (List Byte)) : List KLine :=
  let codes := (List.range len).map (unpackCode (fmtBits fmt) bs)
  let g := fmtGroup fmt
  (List.range ((len + 31) / 32)).map fun k =>
    let c := (codes.drop (32 * k)).take 32
    let c := c ++ List.replicate (32 - c.length) 0
    match scales with
    | none => kline fmt c false 0 0
    | some sc => kline fmt c true (fieldAt sc (g * k) 1) (if g = 2 then fieldAt sc (g * k + 1) 1 else 0)

/-! ### The exact product -/

/-- The exact sum of the weighted fields of one pass of two K-lines. -/
def passSum (sb4 : Bool) (p : Pass) (a b : KLine) : Dy :=
  ((passFields a b p.da p.db sb4 p.neg).zip (passWeights a b p.da p.db)).foldl (fun t x => t.add ⟨x.1, x.2⟩) Dy.zero

/-- A K-line pair with a non-finite side. -/
def badPair (as bs : List KLine) : Bool := (as.zip bs).any fun x => x.1.bad || x.2.bad

/-- The product of two lines: NaN when a K-line is non-finite (R76), else the exact sum over K-blocks and passes. -/
def dotLines (sb4 : Bool) (ps : List Pass) (as bs : List KLine) : Num :=
  if badPair as bs then .nan
  else Dy.toNum ((as.zip bs).foldl (fun t x => ps.foldl (fun t p => t.add (passSum sb4 p x.1 x.2)) t) Dy.zero)

/-! ### Contributions and anchors (R46 to R49, R88) -/

/-- The fields that two lines contribute to one entry, with their weights, pass block by pass block. -/
def passBlocks (sb4 : Bool) (ps : List Pass) (as bs : List KLine) : List (List Int × List Int) :=
  (as.zip bs).flatMap fun x => ps.map fun p => (passFields x.1 x.2 p.da p.db sb4 p.neg, passWeights x.1 x.2 p.da p.db)

/-- The largest weight that a pre-scan finds in the fields of the lines: w_max of R48 over these rows and columns. -/
def scanTop (sb4 : Bool) (ps : List Pass) (as bs : List (List KLine)) : Option Int :=
  let n := ((as.head?).getD []).length
  (List.range n).foldl (fun t k =>
    let a := topWeights (as.filterMap (·[k]?))
    let b := topWeights (bs.filterMap (·[k]?))
    ps.foldl (fun t q => (List.range (if sb4 then 4 else 1)).foldl (fun t f =>
      match (a[f]?).getD none, (b[f]?).getD none with
      | some x, some y => maxOpt t (some (x + y + 4 * (q.da + q.db : Nat)))
      | _, _ => t) t) t) none

/-- The AUTO anchor of a pre-scan with headroom `h`; with nothing to add it is 0. -/
def anchorOf (w : Option Int) (h : Int) : Int := match w with
  | none => 0
  | some w => w + 13 + h

/-- What the pass blocks of two lines leave in an entry that CLEAR has zeroed, as a binary32 code (R46 to R50). -/
def tileDot (sb4 : Bool) (ps : List Pass) (anchor : Int) (as bs : List KLine) : Nat :=
  if badPair as bs then to32 .nan
  else
    let r := (passBlocks sb4 ps as bs).foldl (fun (t : Int × Bool) x =>
      let y := churnAdd 128 96 t.1 anchor x.1 x.2
      (y.1, t.2 || y.2.1)) (0, false)
    to32 (if r.2 then .nan else Dy.toNum ⟨r.1, anchor - 96⟩)

/-- How an entry of a product may differ from the exact sum, for an anchor that is not known: bits may be lost under
the highest anchor that a tile can have, the sum may leave the range under the lowest. -/
structure Doubt where
  lost : Bool
  outside : Bool
  deriving DecidableEq, Repr

/-- The doubt about one entry, whose tile's anchor lies between `lo` and `hi`; `bias` and `top` are 96 and 31, or 489
and 22 for full-cream. -/
def entryDoubt (sb4 : Bool) (ps : List Pass) (bias top lo hi : Int) (as bs : List KLine) : Doubt :=
  let cs := (passBlocks sb4 ps as bs).flatMap fun x => (x.1.zip x.2).map fun y => (⟨y.1, y.2⟩ : Dy)
  { lost := cs.any fun c => decide (c.e < hi - bias) && decide (c.m.natAbs % 2 ^ (hi - bias - c.e).toNat ≠ 0)
    outside := !Dy.lt (cs.foldl (fun t c => t.add c.abs) Dy.zero) ⟨1, lo + top⟩ }

end Sys2Proof.Machine
end

