-- ==== Sys2Proof/Machine/Gemm.lean ====
section
/-! DEFINITION. GEMM as a built-in kernel (R301). -/

namespace Sys2Proof.Machine

/-! ### Built-in kernels on their target sets (R101, R299, R301) -/

/-- Every target core of an item is free and On, and no item of a KERNEL that came before waits for one of them. -/
def targetsFree (s : State) (q idx : Nat) : Bool := match itemAt s q idx with
  | none => false
  | some i => i.targets.all fun c =>
    !(coreAt s c).running && domOn s ⟨.core, c⟩ && (waitersFree s c i.t0)
where
  waitersFree (s : State) (c t0 : Nat) : Bool :=
    s.wq.queues.all fun e => e.2.items.all fun i =>
      !(i.phase == .running && i.waitCores.contains c && decide (i.t0 < t0))

/-- What a built-in kernel leaves on its cores: an undefined tile, and no kernel image that a later KERNEL may reuse. -/
def usedCore (s : State) (c : Nat) : State :=
  loseTile (updCore s c fun x => { x with imageKept := false, tregs := [], kblocks := 0 }) c

/-- What products of a built-in kernel leave on a core besides: its slots and its truncated contributions count, and
its tile flags and their sticky copies may have been set (R51, R63). How many fall to which core is open, so they are
free values. -/
def multCore (s : State) (c : Nat) : State :=
  let s1 := count s (coreCtr c 1) (Config.freeNat s.free 2)
  let s2 := coreEvent (count s1 (coreReg c 0x210) (Config.freeNat s.free 3)) c 0x06 (Config.freeNat s.free 3)
  let s3 := [0, 1, 2].foldl (fun s k => if Config.freeNat s.free (4 + k) % 2 = 1 then
    count (setTileFlag s c k) (coreReg c (0x218 + 8 * k)) (Config.freeNat s.free (8 + k)) else s) s2
  usedCore (bump s3) c

/-- A built-in kernel of products has run on its cores. -/
def usedCores (s : State) (q idx : Nat) : State := match itemAt s q idx with
  | none => s
  | some i => i.targets.foldl multCore s

/-- Step tag of an item (R176). -/
def itemTag (s : State) (q : Nat) (i : Item) : Option Nat :=
  if i.inStep then (FMap.find s.guard.steps q).map (·.tag) else none

/-- The output format: the wide format that the command names in modes 1 and 3 (Table 3.7). -/
def outFmt (i : Item) (f : Nat) : Nat := if i.mode % 2 = 1 then i.wfmt else f

/-! ### Operands -/

def isGemm : WqCmd → Bool
  | .gemm _ => true
  | _ => false

/-- Operands within their ranges (Table 10.11). -/
def gemmOk (p : GemmP) (fc : Nat) : Bool :=
  decide (1 ≤ p.m) && decide (p.m ≤ 2 ^ 31) && decide (1 ≤ p.n) && decide (p.n ≤ 2 ^ 31) && p.k % 32 == 0
    && decide (p.fa ≤ 12) && decide (p.fb ≤ 12) && fmtOutput fc && decide (p.round < 3)

/-- The passes of a GEMM's plan, real. -/
def gemmPasses (p : GemmP) : Option (List Pass) :=
  (planPasses p.plan (fmtDigits p.fa) (fmtDigits p.fb)).map fun l => l.map fun x => ⟨false, false, false, x.1, x.2⟩

/-- A format's lines have scale groups: always where Table 3.1 wants them, else where an address is given. -/
def gemmScaled (fmt sc : Nat) : Bool := fmtNeedsScale fmt || (fmtBex fmt && sc != 0)

/-- One line of an operand as K-lines. -/
def gemmLine (s : State) (fmt base ld sc k l : Nat) : Except Halt (List KLine × State) := do
  let (bs, _, s1) ← kernRead s (base + l * ld) (k * fmtBits fmt / 8)
  if gemmScaled fmt sc then
    let (ss, _, s2) ← kernRead s1 (sc + l * fmtGroup fmt * (k / 32)) (fmtGroup fmt * (k / 32))
    return (bytesLines fmt k bs (some ss), s2)
  else return (bytesLines fmt k bs none, s1)

/-- All lines of an operand. -/
def gemmLines (s : State) (fmt base ld sc k n : Nat) : Except Halt (List (List KLine) × State) :=
  (List.range n).foldlM (fun (t : List (List KLine) × State) l => do
    let (r, s1) ← gemmLine t.2 fmt base ld sc k l
    return (t.1 ++ [r], s1)) ([], s)

/-- The values of a row of output codes with its scale bytes. -/
def rowValues (fc : Nat) (codes scales : List Nat) : List Num :=
  let g := fmtGroup fc
  if fc = 2 ∨ fc = 3 then
    (codes.zip (List.range codes.length)).map fun (c, j) =>
      let e := (scales[g * (j / 32)]?).getD 0
      let r := if g = 2 then (scales[g * (j / 32) + 1]?).getD 0 / 4 ^ (j % 32 / 8) % 4 else 0
      if e = 0xFF then .nan else match decodeFp e2m1 c with
        | .fin n x y => .fin n x (y + (e : Int) - 127 - (r : Int))
        | y => y
  else codes.map (decodeFp (fmtFp fc))

/-- A row of C before the command, for ACCUM. -/
def gemmOld (s : State) (p : GemmP) (fc m : Nat) : Except Halt (List Num × State) :=
  if !p.accum then .ok (List.replicate p.n (.fin false 0 0), s)
  else do
    let (bs, _, s1) ← kernRead s (p.c + m * p.ldc) (elemBytes fc p.n)
    let codes := (List.range p.n).map (unpackCode (fmtBits fc) bs)
    if fc = 2 ∨ fc = 3 then
      let g := fmtGroup fc
      let (ss, _, s2) ← kernRead s1 (p.csc + m * g * ((p.n + 31) / 32)) (g * ((p.n + 31) / 32))
      return (rowValues fc codes (ss.map (·.toNat)), s2)
    else return (rowValues fc codes [], s1)

/-! ### The product -/

/-- An operand of a product uses SB4. -/
def gemmSb4 (p : GemmP) : Bool := p.fa == 3 || p.fb == 3

/-- What is open about the entries of row `a` of the product. R301 leaves the tiles open: the anchor of an entry's tile is
at least the one of the entry's own lines, and at most the one of all lines with the largest headroom (R48). -/
def rowDoubt (p : GemmP) (ps : List Pass) (hi : Int) (a : List KLine) (bs : List (List KLine)) : Doubt :=
  bs.foldl (fun t b =>
    let lo := anchorOf (scanTop (gemmSb4 p) ps [a] [b]) 0
    let d := if p.fullcream then entryDoubt (gemmSb4 p) ps 489 22 lo hi a b else entryDoubt (gemmSb4 p) ps 96 31 lo hi a b
    ⟨t.lost || d.lost, t.outside || d.outside⟩) ⟨false, false⟩

/-- Row m of the result: the exact product rounded once, or, where `open_` says that its tiles did not hold it, free values
but for the NaNs. -/
def gemmRow (s : State) (p : GemmP) (fc : Nat) (open_ : Bool) (ps : List Pass) (a : List KLine) (bs : List (List KLine))
    (old : List Num) (m : Nat) : Row :=
  let vs := (bs.zip old).map fun x =>
    let v := dotLines (gemmSb4 p) ps a x.1
    if p.accum then numAdd v x.2 else v
  let vs := vs.map plusZero
  let r := convertRow fc false vs fun j => rndOf p.round p.seed m j
  if !open_ then r
  else
    let codes := (r.codes.zip (List.range r.codes.length)).map fun x =>
      if r.deq[x.2]? = some .nan then x.1 else Config.freeNat s.free (2 * (m * p.n + x.2)) % 2 ^ fmtBits fc
    let scales := (r.scales.zip (List.range r.scales.length)).map fun x =>
      if r.deq[32 * (x.2 / fmtGroup fc)]? = some .nan then x.1 else Config.freeNat s.free (2 * (m * p.n + x.2) + 1) % 256
    { codes, scales, deq := rowValues fc codes scales }

/-- A row of C and its scale groups are written. -/
def putGemmRow (s : State) (q idx : Nat) (p : GemmP) (fc m : Nat) (r : Row) : Except Halt State := do
  let bs := packCodes (fmtBits fc) r.codes (Config.freeNat s.free m % 16)
  let s1 ← kernWrite (noteItem s q idx (p.c + m * p.ldc) bs.length) (p.c + m * p.ldc) bs
  if r.scales.isEmpty then .ok s1
  else
    let a := p.csc + m * r.scales.length
    kernWrite (noteItem s1 q idx a r.scales.length) a (r.scales.map (BitVec.ofNat 8 ·))

/-- The rows of C, and the guard's report of them; `doubt` holds where a flag shows that entries were not exact. -/
def gemmRows (s : State) (q idx : Nat) (p : GemmP) (fc : Nat) (doubt : List KLine → Bool) (ps : List Pass)
    (as bs : List (List KLine)) (rep : Report) : Except Halt (State × Report) :=
  (as.zip (List.range p.m)).foldlM (fun (t : State × Report) x => do
    let (old, s1) ← gemmOld t.1 p fc x.2
    let r := gemmRow s1 p fc (doubt x.1) ps x.1 bs old x.2
    let s2 ← putGemmRow s1 q idx p fc x.2 r
    return (s2, addRow t.2 r.deq)) (s, rep)

/-- The rows are written: a GEMM with a guard slot goes on until the guard has taken its report (R176); any other ends. -/
def gemmEnd (s : State) (q idx slot : Nat) (rep : Report) : State :=
  if slot = 0xFF then endItem s q idx stOk
  else updItem { s with guard := { s.guard with reports := s.guard.reports ++ [{ rep with item := some (q, idx) }] } } q idx
    fun i => { i with phase := .running, waitCores := [] }

/-- GEMM runs. `lost` and `outside` say whether bits were lost and whether a sum left its range in some tile: free values
where the tiles could have done it, so that with neither flag the rows are exact (R91, R93). In modes 2 and 3 the operands
name no whey buffer, and the model keeps no residual: DESIGN CHOICE, log entry 81 (R97). -/
def gemmEffect (s : State) (q : Nat) (i : Item) (p : GemmP) : Except Halt State :=
  let fc := outFmt i p.fc
  if !gemmOk p fc then .error (.undefinedCase 48)
  else match gemmPasses p with
    | none => .error (.undefinedCase 11)
    | some ps => do
      let (as, s1) ← gemmLines s p.fa p.a p.lda p.asc p.k p.m
      let (bs, s2) ← gemmLines s1 p.fb p.b p.ldb p.bsc p.k p.n
      let hi := anchorOf (scanTop (gemmSb4 p) ps as bs) 15
      let doubt (a : List KLine) : Doubt := rowDoubt p ps hi a bs
      let lost := (as.any fun a => (doubt a).lost) && Config.freeNat s2.free 0 % 2 == 1
      let outside := (as.any fun a => (doubt a).outside) && Config.freeNat s2.free 1 % 2 == 1
      let rep0 := emptyReport ((i.targets.head?).getD 0) 0 p.gslot (itemTag s q i)
      let (s3, rep) ← gemmRows (bump s2) q i.idx p fc
        (fun a => ((doubt a).lost && lost) || ((doubt a).outside && outside)) ps as bs rep0
      let bad := (as.flatten ++ bs.flatten).any (·.bad)
      let rep := withTileFlags rep lost (bad || outside) (p.fullcream && (decide (2 ^ 18 < p.k / 32) || lost || outside))
      .ok (gemmEnd (usedCores (bump s3) q i.idx) q i.idx p.gslot rep)

/-- GEMM on an item. -/
def runGemm (s : State) (q idx : Nat) : Except Halt State := match itemAt s q idx with
  | some i => match i.cmd with
    | .gemm p => gemmEffect s q i p
    | _ => .ok s
  | none => .ok s

/-- GEMM. -/
def execGemm (q idx : Nat) (s : State) : Out State :=
  actE s (begins s q idx isGemm && targetsFree s q idx) (runGemm s q idx)

end Sys2Proof.Machine
end

