-- ==== Sys2Proof/Machine/Attend.lean ====
section
/-! DEFINITION. ATTEND as a built-in kernel (R146, R148, R149, R155, R172, R301). -/

namespace Sys2Proof.Machine

def isAttend : WqCmd → Bool
  | .attend _ => true
  | _ => false

/-! ### Operands (Tables 5.1, 5.4 and 10.11) -/

/-- Scale bytes of a group of a page format: none for FP4 E2M1 (Table 5.5). -/
def pageGroup (f : Nat) : Nat := if f = 1 then 0 else fmtGroup f

/-- Operands within their ranges. -/
def attendOk (p : AttendP) : Bool :=
  p.d % 32 == 0 && decide (32 ≤ p.d) && decide (p.d ≤ 256) && decide (p.glog2 ≤ 7) && decide (1 ≤ p.qlen)
    && atbFmt p.fq && atbFmt p.pf && [10, 11, 12].contains p.fo && (p.mask == 1 || (p.mask == 3 && decide (1 ≤ p.w)))
    && decide (p.pfmt ≤ 2) && decide (1 ≤ p.g) && decide (p.g ≤ 16) && decide (p.head < p.g) && p.tstride % 4 == 0

/-- Digit counts that meet R78, for the score product and for the value product. -/
def attendPlans (p : AttendP) : Bool :=
  (planPasses 0 (fmtDigits p.fq) (fmtDigits p.pf)).isSome
    && (planPasses 0 (fmtDigits (pFmtOf p.pfmt)) (fmtDigits p.pf)).isSome

/-- Rows of a sequence's query block. -/
def attendRows (p : AttendP) : Nat := p.qlen * 2 ^ p.glog2

/-- `n` lines of `len` elements from an address, with their scale groups from another: K-lines of every line. -/
def readLines (s : State) (fmt n len a sc : Nat) : Except Halt (List (List KLine) × State) :=
  let w := len * fmtBits fmt / 8
  let g := pageGroup fmt
  (List.range n).foldlM (fun (t : List (List KLine) × State) l => do
    let (bs, _, s1) ← kernRead t.2 (a + l * w) w
    if g = 0 then return (t.1 ++ [bytesLines fmt len bs none], s1)
    else
      let (ss, _, s2) ← kernRead s1 (sc + l * g * (len / 32)) (g * (len / 32))
      return (t.1 ++ [bytesLines fmt len bs (some ss)], s2)) ([], s)

/-- K-lines of the query block: scale groups follow all its rows. -/
def queryLines (s : State) (p : AttendP) (e : Nat) : Except Halt (List (List KLine) × State) :=
  let a := p.q + e * p.qstride
  readLines s p.fq (attendRows p) p.d a (a + attendRows p * (p.d * fmtBits p.fq / 8))

/-- K-lines of the keys and of the value columns of head HEAD of a page. -/
def pageLines (s : State) (p : AttendP) (page : Nat) : Except Halt (List (List KLine) × List (List KLine) × State) :=
  if !pageValid s page then .error (.undefinedCase 26)
  else do
    let b := fmtBits p.pf
    let g := pageGroup p.pf
    let a := vaultAddr (pageVault page) (pageOff s page) + p.head * (p.d * (16 * b + 4 * g))
    let (ks, s1) ← readLines s p.pf 64 p.d a (a + 8 * p.d * b)
    let (vs, s2) ← readLines s1 p.pf p.d 64 (a + 8 * p.d * b + 2 * p.d * g) (a + 16 * p.d * b + 2 * p.d * g)
    return (ks, vs, s2)

/-! ### One block -/

/-- A query row on its way through the blocks: m, l and O. -/
structure AttRow where
  m : Nat
  l : Nat
  o : List Nat
  deriving DecidableEq, Repr

/-- A row before the first block (R148). -/
def attStart (p : AttendP) : AttRow := ⟨0xFF800000, 0, List.replicate p.d 0⟩

/-- Key position `k` is masked for the query position of row `r` of a sequence of length `len`, or holds no key
(Table 5.3). -/
def attMasked (p : AttendP) (len r k : Nat) : Bool :=
  let q : Int := (len : Int) - p.qlen + (r / 2 ^ p.glog2 : Nat)
  decide (len ≤ k) || decide (q < k) || (p.mask == 3 && decide ((k : Int) + p.w ≤ q))

/-- The scores of each query row against the keys of a block, as step 2 drains them: one CLEAR FEED, whose AUTO anchor
follows all rows and all keys (R145). -/
def attScores (p : AttendP) (qs ks : List (List KLine)) : List (List Nat) :=
  let sp := autoPasses (fmtDigits p.fq) (fmtDigits p.pf)
  let sb4 := p.fq == 3 || p.pf == 3
  let w := anchorOf (scanTop sb4 sp qs ks) 0
  qs.map fun q => ks.map (tileDot sb4 sp w q)

/-- The products of each row's P with the value columns, as step 5 drains them: one CLEAR FEED per 128 columns. -/
def attValues (p : AttendP) (pls vs : List (List KLine)) : List (List Nat) :=
  let pf := pFmtOf p.pfmt
  let vp := autoPasses (fmtDigits pf) (fmtDigits p.pf)
  let sb4 := pf == 3 || p.pf == 3
  let parts := (chunksOf (vs.length + 1) 128 vs).map fun v => (v, anchorOf (scanTop sb4 vp pls v) 0)
  pls.map fun l => parts.flatMap fun x => x.1.map (tileDot sb4 vp x.2 l)

/-- Block `b` is applied to up to 128 rows, of which the first is row `r0`: one ATB (R145, R146). -/
def attBlock (p : AttendP) (len b r0 : Nat) (qs ks vs : List (List KLine)) (rows : List AttRow) : List AttRow :=
  let pf := pFmtOf p.pfmt
  let sc := attScores p qs ks
  let st := (rows.zip (sc.zip (List.range rows.length))).map fun x =>
    statRow pf p.scale x.2.1 (fun j => attMasked p len (r0 + x.2.2) (64 * b + j)) x.1.m x.1.l
  let us := attValues p (st.map fun r => [pLine pf r.p 0, pLine pf r.p 1]) vs
  (rows.zip (st.zip us)).map fun x =>
    ⟨x.2.1.m, x.2.1.l, (x.1.o.zip x.2.2).map fun y => fma32 y.1 x.2.1.corr y.2⟩

/-- A block is applied to the rows of a query tile, in ATBs of 128 rows: the spec leaves the split of more rows open (DESIGN
CHOICE, log entry 81). -/
def attTile (p : AttendP) (len b : Nat) (qs ks vs : List (List KLine)) (rows : List AttRow) : List AttRow :=
  ((chunksOf (qs.length + 1) 128 qs).zip (chunksOf (rows.length + 1) 128 rows)).zip (List.range (qs.length / 128 + 1))
    |>.flatMap fun x => attBlock p len b (128 * x.2) x.1.1 ks vs x.1.2

/-- The blocks of a sequence, in ascending order. -/
def attBlocks (p : AttendP) (len table : Nat) (qs : List (List KLine)) (s : State) : Except Halt (List AttRow × State) :=
  (List.range ((len + 63) / 64)).foldlM (fun (t : List AttRow × State) b => do
    let (page, s1) ← getEntry none t.2 (table + 4 * b)
    let (ks, vs, s2) ← pageLines s1 p page
    return (attTile p len b qs ks vs t.1, s2)) (List.replicate (attendRows p) (attStart p), s)

/-! ### The output -/

/-- The quotient of two binary32 codes as a number that rounds as the exact quotient does. -/
def quotNum (a b : Nat) : Num := match of32 a, of32 b with
  | .nan, _ => .nan
  | _, .nan => .nan
  | .inf _, .inf _ => .nan
  | .inf x, .fin y _ _ => .inf (x != y)
  | .fin x _ _, .inf y => .fin (x != y) 0 0
  | .fin x m e, .fin y n f =>
    if n = 0 then .nan
    else
      let k := Nat.log2 n + 128
      .fin (x != y) (2 * (m * 2 ^ k / n) + b2n (decide (m * 2 ^ k % n ≠ 0))) (e - f - k - 1)

/-- A row's output codes in format `fo`: O / l under RNE, +0 where l is 0 (R301). -/
def attOut (fo : Nat) (r : AttRow) : List Nat :=
  r.o.map fun x => if of32 r.l = .fin false 0 0 ∨ r.l % 2 ^ 31 = 0 then 0 else roundFp (fmtFp fo) .rne (quotNum x r.l)

/-- One descriptor's sequence attends. -/
def attendOne (q idx fo : Nat) (p : AttendP) (s : State) (e : Nat) : Except Halt State := do
  let (ds, _, s1) ← kernRead s (p.desc + 16 * (p.first + e)) 16
  let len := fieldAt ds 4 4
  if p.maxlen < len then .error (.undefinedCase 48)
  else
    let (qs, s2) ← queryLines s1 p e
    let (rows, s3) ← attBlocks p len (p.tables + fieldAt ds 0 4 * p.tstride) qs s2
    let bs := rows.flatMap fun r => (attOut fo r).flatMap fun c => leBytes (fmtBits fo / 8) c
    kernWrite (noteItem s3 q idx (p.o + e * p.ostride) bs.length) (p.o + e * p.ostride) bs

/-- ATTEND runs; in modes 1 and 3 its output takes the wide format that the command names (Table 3.7). -/
def attendEffect (s : State) (q : Nat) (i : Item) (p : AttendP) : Except Halt State :=
  if !attendOk p then .error (.undefinedCase 48)
  else if !attendPlans p then .error (.undefinedCase 23)
  else do
    let s1 ← (List.range p.nseq).foldlM (attendOne q i.idx (outFmt i p.fo) p) s
    .ok (endItem (usedCores (bump s1) q i.idx) q i.idx stOk)

/-- ATTEND on an item. -/
def runAttend (s : State) (q idx : Nat) : Except Halt State := match itemAt s q idx with
  | some i => match i.cmd with
    | .attend p => attendEffect s q i p
    | _ => .ok s
  | none => .ok s

/-- ATTEND. -/
def execAttend (q idx : Nat) (s : State) : Out State :=
  actE s (begins s q idx isAttend && targetsFree s q idx) (runAttend s q idx)

end Sys2Proof.Machine
end

