-- ==== Sys2Proof/Machine/Frames.lean ====
section
/-! DEFINITION. The octets of a Stoby frame on the wire (R319, Tables 11.3 and 11.4), in the order of transmission. -/

namespace Sys2Proof.Machine

/-! ### Octets and check sums -/

/-- A number as octets, the most significant first. -/
def beBytes (n x : Nat) : List Byte := (leBytes n x).reverse

/-- One bit of the CRC-32 of IEEE 802.3, least significant bit first. -/
def crcBit (c : Nat) : Nat := if c % 2 = 1 then c / 2 ^^^ 0xEDB88320 else c / 2

/-- One octet of the CRC-32. -/
def crcByte (c : Nat) (b : Byte) : Nat := Nat.repeat crcBit 8 (c ^^^ b.toNat)

/-- The CRC-32 of IEEE 802.3. -/
def crc32 (bs : List Byte) : Nat := bs.foldl crcByte 0xFFFFFFFF ^^^ 0xFFFFFFFF

/-- Sum of 16-bit words, a last odd octet padded. -/
def wordSum : List Byte → Nat
  | a :: b :: l => a.toNat * 256 + b.toNat + wordSum l
  | [a] => a.toNat * 256
  | [] => 0

/-- The check sum of the Internet Protocol: the complement of the ones' complement sum. -/
def inetSum (bs : List Byte) : Nat :=
  let fold (x : Nat) : Nat := x % 65536 + x / 65536
  65535 - fold (fold (fold (wordSum bs)))

/-! ### The Stoby header -/

/-- FLAGS of the Stoby header. -/
def stobyFlags (f : Frame) : Nat :=
  b2n f.syn + 2 * b2n f.retx + 4 * b2n f.poison + 8 * b2n f.acknow + 16 * b2n f.reset + 32 * b2n f.ece

/-- The 48 bytes of Table 11.3. -/
def stobyHeader (f : Frame) : List Byte :=
  leBytes 1 (16 + f.op % 16) ++ leBytes 1 (stobyFlags f) ++ leBytes 2 (f.srcDev % 4096 + f.srcSheaf % 8 * 4096)
    ++ leBytes 2 (f.dstDev % 4096 + f.dstSheaf % 8 * 4096) ++ leBytes 2 (f.cls % 4) ++ leBytes 4 f.psn ++ leBytes 4 f.apsn
    ++ leBytes 8 (f.addr % 2 ^ 43) ++ leBytes 2 f.txn ++ leBytes 2 f.bytes ++ leBytes 2 f.srcstop ++ leBytes 2 f.aux
    ++ leBytes 8 f.value ++ leBytes 8 f.tstamp

/-- The 32 bytes of Table 11.4. -/
def reduceExt (f : Frame) : List Byte :=
  leBytes 4 f.rtag ++ leBytes 2 f.rcount ++ leBytes 2 f.relems ++ leBytes 2 f.contrib ++ leBytes 2 (unsigned 16 f.anchor)
    ++ leBytes 1 f.efmt ++ leBytes 1 f.rflags ++ zeros 2 ++ leBytes 4 f.eflags ++ zeros 12

/-- What the ICRC covers: header, extension and payload. -/
def stobyBody (f : Frame) : List Byte := stobyHeader f ++ (if f.op = 4 then reduceExt f else []) ++ f.payload

/-- The Stoby part of a frame with its ICRC. -/
def stobyPart (f : Frame) : List Byte := stobyBody f ++ leBytes 4 (crc32 (stobyBody f))

/-! ### The encapsulation -/

/-- The UDP header of a datagram, over IPv6 with the check sum of the pseudo header and the datagram. -/
def udpHeader (h : IpHead) (data : List Byte) : List Byte :=
  let n := 8 + data.length
  let head (c : Nat) : List Byte := beBytes 2 h.sport ++ beBytes 2 h.dport ++ beBytes 2 n ++ beBytes 2 c
  if h.v6 then
    let c := inetSum (beBytes 16 h.src ++ beBytes 16 h.dst ++ beBytes 4 n ++ beBytes 4 17 ++ head 0 ++ data)
    head (if c = 0 then 65535 else c)
  else head 0

/-- The IPv4 header, with Don't Fragment. -/
def ip4Header (h : IpHead) (n : Nat) : List Byte :=
  let head (c : Nat) : List Byte :=
    beBytes 1 0x45 ++ beBytes 1 (h.dscp * 4 + h.ecn) ++ beBytes 2 (20 + n) ++ beBytes 2 h.ident ++ beBytes 2 0x4000
      ++ beBytes 1 h.ttl ++ beBytes 1 17 ++ beBytes 2 c ++ beBytes 4 h.src ++ beBytes 4 h.dst
  head (inetSum (head 0))

/-- The IPv6 header. -/
def ip6Header (h : IpHead) (n : Nat) : List Byte :=
  beBytes 4 (6 * 2 ^ 28 + (h.dscp * 4 + h.ecn) * 2 ^ 20 + h.ident % 2 ^ 20) ++ beBytes 2 n ++ beBytes 1 17 ++ beBytes 1 h.ttl
    ++ beBytes 16 h.src ++ beBytes 16 h.dst

/-- Data with its UDP and IP headers, where the frame has them. -/
def ipPart (o : OutFrame) (data : List Byte) : List Byte := match o.ip with
  | none => data
  | some h =>
    let u := udpHeader h data ++ data
    (if h.v6 then ip6Header h u.length else ip4Header h u.length) ++ u

/-- The 802.1Q tag. -/
def tagPart (o : OutFrame) : List Byte := match o.tag with
  | none => []
  | some (prio, vid) => beBytes 2 0x8100 ++ beBytes 2 (prio * 2 ^ 13 + vid)

/-- The octets of a frame that carries a Stoby operation, up to its FCS. -/
def frameOctets (o : OutFrame) (f : Frame) : List Byte :=
  let bs := beBytes 6 o.dmac ++ beBytes 6 o.smac ++ tagPart o ++ beBytes 2 o.etype ++ ipPart o (stobyPart f)
  bs ++ leBytes 4 (crc32 bs)

end Sys2Proof.Machine
end

