-- ==== Sys2Proof/Machine/StobyOps.lean ====
section
/-! DEFINITION. Frames that links send, and Stoby contexts and paths (R313, R318 to R328). -/

namespace Sys2Proof.Machine

/-! ### Sequence numbers -/

/-- How far a PSN lies above another, modulo 2³². -/
def psnDist (a b : Nat) : Nat := (a + 2 ^ 32 - b) % 2 ^ 32

/-- The next PSN. -/
def psnNext (p : Nat) : Nat := (p + 1) % 2 ^ 32

/-- Frames that a context may hold unacknowledged, and PSNs of the reorder window (R322). -/
def psnWindow : Nat := 4096

/-! ### Contexts (R321) -/

def sendAt (s : State) (c : Nat) : Option SendCtx := FMap.find s.stoby.send c
def recvAt (s : State) (c : Nat) : Option RecvCtx := FMap.find s.stoby.recv c
def setSend (s : State) (c : Nat) (x : SendCtx) : State :=
  { s with stoby := { s.stoby with send := FMap.set s.stoby.send c x } }
def setRecv (s : State) (c : Nat) (x : RecvCtx) : State :=
  { s with stoby := { s.stoby with recv := FMap.set s.stoby.recv c x } }
def dropSend (s : State) (c : Nat) : State :=
  { s with stoby := { s.stoby with send := FMap.drop s.stoby.send c } }

/-- The send context from a sheaf toward a sheaf of another device in a class. -/
def findSend (s : State) (sheaf dev dsheaf cls : Nat) : Option (Nat × SendCtx) :=
  s.stoby.send.find? fun e => e.2.sheaf == sheaf && e.2.dev == dev && e.2.dsheaf == dsheaf && e.2.cls == cls

/-- The receive context from a sheaf of another device toward a sheaf in a class. -/
def findRecv (s : State) (dev sheaf dsheaf cls : Nat) : Option (Nat × RecvCtx) :=
  s.stoby.recv.find? fun e => e.2.dev == dev && e.2.sheaf == sheaf && e.2.dsheaf == dsheaf && e.2.cls == cls

/-- Contexts of each direction that a sheaf holds. -/
def ctxLimit : Nat := 16384

def sendRoom (s : State) (sheaf : Nat) : Bool := decide ((s.stoby.send.filter fun e => e.2.sheaf == sheaf).length < ctxLimit)
def recvRoom (s : State) (sheaf : Nat) : Bool := decide ((s.stoby.recv.filter fun e => e.2.dsheaf == sheaf).length < ctxLimit)

/-! ### Paths (R326) -/

/-- MAC rate of a mode of Table 11.1, Gb/s. -/
def modeRate (m : Nat) : Nat := [1600, 800, 400, 800, 400, 200].getD m 0

/-- MAC rate of a link. -/
def linkRate (s : State) (l : Nat) : Nat := modeRate (regFld s (lnkReg l 0) 11 8)

/-- A link's priority of a class is paused by PFC (R328). -/
def linkPaused (s : State) (l cls : Nat) : Bool := FMap.getD (linkAt s l).pauseQuanta cls 0 != 0

/-- Source links of a sheaf's paths in a class. -/
def srcLinks (s : State) (sheaf cls : Nat) : List Nat := (upLinks s sheaf).filter fun l => !linkPaused s l cls

/-- Destination links of a context's paths. -/
def dstLinks (x : SendCtx) : List Nat :=
  if x.ackedFrom.isEmpty then (List.range 4).map fun j => 4 * x.dsheaf + j else x.ackedFrom

/-- The path set of a context. -/
def pathSet (s : State) (x : SendCtx) : List (Nat × Nat) :=
  (srcLinks s x.sheaf x.cls).flatMap fun l => (dstLinks x).map fun d => (l, d)

/-- MAC rate of a context's path set: of its source links. -/
def pathRate (s : State) (sheaf cls : Nat) : Rat :=
  (((srcLinks s sheaf cls).map (linkRate s)).foldl (· + ·) 0 : Nat)

/-- Weight of a path: the lower MAC rate of its two links. -/
def pathWeight (s : State) (dev : Nat) (p : Nat × Nat) : Nat := max 1 (min (linkRate s p.1) (Config.peerRate dev p.2))

/-- Key of a path in a context's credits. -/
def pathKey (p : Nat × Nat) : Nat := 32 * p.1 + p.2

/-- The path with the most credit, the first of equals. -/
def richest (credit : FMap Int) : List (Nat × Nat) → Option (Nat × Nat)
  | [] => none
  | p :: ps => match richest credit ps with
    | none => some p
    | some q => if FMap.getD credit (pathKey q) 0 ≤ FMap.getD credit (pathKey p) 0 then some p else some q

/-- A turn of the weighted round robin over paths: every path gains its weight, and the one with the most credit is taken
and pays the sum of the weights. The order within a round is the model's choice. -/
def pickPath (s : State) (x : SendCtx) (ps : List (Nat × Nat)) : Option ((Nat × Nat) × SendCtx) :=
  let gained : FMap Int := ps.foldl (fun (m : FMap Int) p =>
    FMap.set m (pathKey p) (FMap.getD m (pathKey p) 0 + (pathWeight s x.dev p : Int))) x.spray
  let total : Int := (ps.map (pathWeight s x.dev)).foldl (· + ·) 0
  (richest gained ps).map fun p =>
    (p, { x with spray := FMap.set gained (pathKey p) (FMap.getD gained (pathKey p) 0 - total), entropy := (x.entropy + 1) % 2 ^ 14 })

/-- A retransmission's path: another than the last where there is one (R324). -/
def otherPath (s : State) (x : SendCtx) (last : Nat × Nat) : Option ((Nat × Nat) × SendCtx) :=
  let ps := pathSet s x
  match ps.filter (· != last) with
  | [] => pickPath s x ps
  | qs => pickPath s x qs

/-! ### Addresses (R318) -/

/-- MACPFX is a locally administered unicast prefix (R317). -/
def macOk (s : State) : Bool := bit s.links.cfg.macpfx 41 && !bit s.links.cfg.macpfx 40

/-- MAC address of a link of a device; under any other prefix the results are undefined: a free value. -/
def macOf (s : State) (dev l : Nat) : Nat :=
  if macOk s then s.links.cfg.macpfx ||| dev * 2 ^ 5 ||| l else Config.freeNat s.free (32 * dev + l) % 2 ^ 48

/-- IPv4 and IPv6 address of a link of a device. -/
def ip4Of (s : State) (dev l : Nat) : Nat := s.links.cfg.ipv4base + dev * 2 ^ 6 + 2 * l
def ip6Of (s : State) (dev l : Nat) : Nat := s.links.cfg.ipv6pfx * 2 ^ 64 + (dev * 2 ^ 6 ||| 2 * l)

/-- The device ID. -/
def ownDev (s : State) : Nat := s.links.cfg.devid

/-- The device's own addresses. -/
def linkMac (s : State) (l : Nat) : Nat := macOf s (ownDev s) l
def linkIp4 (s : State) (l : Nat) : Nat := ip4Of s (ownDev s) l
def linkIp6 (s : State) (l : Nat) : Nat := ip6Of s (ownDev s) l

/-- Priority code point and DSCP of a class. -/
def clsPrio (s : State) (c : Nat) : Nat := bits s.links.cfg.pcpmap (3 * c + 2) (3 * c)
def clsDscp (s : State) (c : Nat) : Nat := bits s.links.cfg.dscpmap (8 * c + 5) (8 * c)

/-- The 802.1Q tag of a class, when VLAN is set. -/
def clsTag (s : State) (c : Nat) : Option (Nat × Nat) := if s.links.cfg.vlan then some (clsPrio s c, s.links.cfg.vid) else none

/-! ### Sending -/

/-- Bytes of a Stoby frame on the wire (R319). -/
def frameBytes (s : State) (f : Frame) : Nat :=
  let cfg := s.links.cfg
  let encap := if cfg.encap = 0 then 2 else if cfg.encap = 1 then 30 else 50
  12 + (if cfg.vlan then 4 else 0) + encap + 48 + (if f.op = 4 then 32 else 0) + f.payload.length + 8

/-- A counter in units of 64 bytes advances by a frame; how a remainder is carried is open. -/
def countBytes (s : State) (ctr n : Nat) : State := bump (count s ctr (n / 64 + Config.choose s.free n % 2))

/-- Bytes of a frame that a link sends; of those that other standards lay out, the smallest Ethernet frame. -/
def txBytes (s : State) : TxFrame → Nat
  | .stoby f => frameBytes s f
  | _ => 64

/-- A frame leaves on a link, with ROUTED a Stoby frame to the switch's address; it is counted (Table 16.3). -/
def putFrame (s : State) (l : Nat) (o : OutFrame) : State :=
  let mac := match o.body with
    | .stoby _ => if s.links.cfg.routed then (linkAt s l).switchMac.getD o.dmac else o.dmac
    | _ => o.dmac
  let s1 := { s with links := { s.links with tx := s.links.tx ++ [(l, { o with dmac := mac })] } }
  countBytes (count s1 (lnkCtr l 0) 1) (lnkCtr l 2) (txBytes s o.body)

/-- A frame whose MAC address the link has still to resolve (R318). -/
def unresolved (s : State) (l : Nat) (o : OutFrame) : Bool := match o.body with
  | .stoby _ => s.links.cfg.routed && (linkAt s l).switchMac.isNone
  | _ => false

/-- A frame waits: its link is not On, its priority is paused (R328), or the switch's address is not known. -/
def heldBack (s : State) (l : Nat) (o : OutFrame) : Bool :=
  !domOn s ⟨.link, l⟩ || unresolved s l o || (match o.cls with
    | some c => linkPaused s l c
    | none => false)

/-- The frame that the transmit MAC sends next: one of class 0 before any other (R327). -/
def nextFrame (s : State) (l : Nat) : Option OutFrame :=
  let ws := (linkAt s l).waiting.filter fun o => !heldBack s l o
  match ws.find? fun o => o.cls == some 0 with
  | some o => some o
  | none => ws.head?

/-- At most `n` waiting frames leave. -/
def flushFrames : Nat → State → Nat → State
  | 0, s, _ => s
  | n + 1, s, l => match nextFrame s l with
    | none => s
    | some o =>
      let x := linkAt s l
      flushFrames n (putFrame (setLink s l { x with waiting := x.waiting.erase o }) l o) l

/-- Whatever can leave on a link leaves. -/
def flushLink (s : State) (l : Nat) : State := flushFrames (linkAt s l).waiting.length s l

/-- A frame is handed to a link, which wakes if it sleeps. A link that is not up transmits nothing (R313). -/
def handFrame (s : State) (l : Nat) (o : OutFrame) : State :=
  if linkUp s l then
    let x := linkAt s l
    flushLink (levelWake (setLink s l { x with waiting := x.waiting ++ [o] }) ⟨.link, l⟩) l
  else s

/-- A frame of an Ethernet protocol: no tag, no class. -/
def etherFrame (s : State) (l dmac etype : Nat) (body : TxFrame) : OutFrame := ⟨dmac, linkMac s l, none, etype, none, none, body⟩

/-- The multicast MAC address of a solicitation for an IPv6 address (RFC 2464, RFC 4291). -/
def solicitMac (ip : Nat) : Nat := 0x3333FF000000 + ip % 2 ^ 24

/-- The link asks for the switch's MAC: ARP, or a neighbour solicitation for IPv6; the switch's address is the link's
own with bit 0 set (R318). -/
def askSwitch (s : State) (l : Nat) : State :=
  if s.links.cfg.encap = 2 then
    handFrame s l (etherFrame s l (solicitMac (linkIp6 s l + 1)) 0x86DD (.neighbourSolicit (linkIp6 s l + 1)))
  else handFrame s l (etherFrame s l (2 ^ 48 - 1) 0x0806 (.arpRequest (linkIp4 s l + 1)))

/-- IP and UDP headers of a Stoby frame from a link to a peer's link; time to live, identification and flow label are
open (R319). -/
def stobyIp (s : State) (l : Nat) (f : Frame) (d entropy : Nat) : Option IpHead :=
  let e := s.links.cfg.encap
  if e = 0 then none
  else
    let v6 := e == 2
    some ⟨v6, if v6 then linkIp6 s l else linkIp4 s l, if v6 then ip6Of s f.dstDev d else ip4Of s f.dstDev d, clsDscp s f.cls,
      if s.links.cfg.ecn then 2 else 0, Config.freeNat s.free 5 % 2 ^ 8, Config.freeNat s.free 6 % (if v6 then 2 ^ 20 else 2 ^ 16),
      0xC000 + entropy % 2 ^ 14, s.links.cfg.udpport⟩

/-- EtherType of an encapsulation. -/
def encapType (e raw : Nat) : Nat := if e = 0 then raw else if e = 1 then 0x0800 else 0x86DD

/-- The frame of a Stoby operation from a link to a peer's link (R318, R319). -/
def stobyOut (s : State) (l : Nat) (f : Frame) (d entropy : Nat) : OutFrame :=
  ⟨macOf s f.dstDev d, linkMac s l, clsTag s f.cls, encapType s.links.cfg.encap s.links.cfg.ethertype, stobyIp s l f d entropy,
    some f.cls, .stoby f⟩

/-- A Stoby frame is sent on a link to a peer's link; where the switch's address is not known the link asks for it. -/
def sendStoby (s : State) (l : Nat) (f : Frame) (d entropy : Nat) : State :=
  let o := stobyOut s l f d entropy
  let s1 := handFrame (bump s) l o
  if linkUp s l && unresolved s l o then askSwitch s1 l else s1

/-- The multicast MAC addresses of PTP (R331) over Ethernet, IPv4 and IPv6. -/
def ptpMac (e : Nat) : Nat := if e = 0 then 0x011B19000000 else if e = 1 then 0x01005E000181 else 0x333300000181

/-- IP and UDP headers of a PTP event message; what the rules give no value for is open. -/
def ptpIp (s : State) (l : Nat) : Option IpHead :=
  let e := s.time.cfg.encap
  if e = 0 then none
  else
    let v6 := e == 2
    some ⟨v6, if v6 then linkIp6 s l else linkIp4 s l, if v6 then 0xFF0E * 2 ^ 112 + 0x181 else 0xE0000181,
      Config.freeNat s.free 7 % 2 ^ 6, Config.freeNat s.free 8 % 4, Config.freeNat s.free 5 % 2 ^ 8,
      Config.freeNat s.free 6 % (if v6 then 2 ^ 20 else 2 ^ 16), 319, 319⟩

/-- A Delay_Req on a link: the class-0 priority and tag of LINK_CONFIG (R331). -/
def delayReqOut (s : State) (l n : Nat) : OutFrame :=
  ⟨ptpMac s.time.cfg.encap, linkMac s l, clsTag s 0, encapType s.time.cfg.encap 0x88F7, ptpIp s l, some 0,
    .delayReq s.time.cfg.domain n⟩

/-! ### The receive buffer (R328) -/

/-- The receive buffer of a link, and the thresholds of a priority. -/
def rxBufBytes : Nat := 4 * 2 ^ 20
def xoffAbove : Nat := 768 * 1024
def xonBelow : Nat := 512 * 1024

/-- What the receive buffer of a link holds, as class and bytes: frames received in Retention, and received operations
that the link stop's full queue holds back, each by its flits. -/
def rxHeld (s : State) (l : Nat) : List (Nat × Nat) :=
  ((linkAt s l).rxBuf.filterMap fun e => match e.1 with
    | .stoby f => some (f.cls, frameBytes s f)
    | _ => none)
  ++ (List.range 4).flatMap fun r =>
    (((atStop s (linkStop l) r).foldl List.erase (injectQ s (linkStop l) r)).map fun p => (p.cls, 64 * flitsOf p))

/-- Sum of the bytes of a list of classes and bytes. -/
def heldBytes (l : List (Nat × Nat)) : Nat := (l.map (·.2)).foldl (· + ·) 0

/-- Bytes that the buffer holds of a priority. -/
def prioHeld (s : State) (l prio : Nat) : Nat := heldBytes ((rxHeld s l).filter fun e => clsPrio s e.1 == prio)

/-- The buffer has no room for a frame of some bytes. -/
def rxFull (s : State) (l n : Nat) : Bool := decide (rxBufBytes < heldBytes (rxHeld s l) + n)

/-- A PFC frame for one priority (IEEE 802.1Qbb). -/
def pfcOut (s : State) (l prio quanta : Nat) : OutFrame := etherFrame s l 0x0180C2000001 0x8808 (.pfc (2 ^ prio) quanta)

/-- XOFF or XON of one priority where its share of the buffer has crossed a threshold; the quanta of XOFF are open. -/
def pfcPrio (l : Nat) (s : State) (prio : Nat) : State :=
  let x := linkAt s l
  let n := prioHeld s l prio
  if !x.xoff.contains prio && decide (xoffAbove < n) then
    handFrame (bump (setLink s l { x with xoff := x.xoff ++ [prio] })) l (pfcOut s l prio (Config.freeNat s.free 0 % 65535 + 1))
  else if x.xoff.contains prio && decide (n < xonBelow) then
    handFrame (setLink s l { x with xoff := x.xoff.filter (· != prio) }) l (pfcOut s l prio 0)
  else s

/-- The link sends the PFC frames that are due. -/
def pfcCheck (s : State) (l : Nat) : State :=
  if s.links.cfg.pfc then (([0, 1, 2, 3].map (clsPrio s)).eraseDups).foldl (pfcPrio l) s else s

/-- A frame of some bytes has been received on a link. -/
def rxFrame (s : State) (l n : Nat) : State := countBytes (count s (lnkCtr l 1) 1) (lnkCtr l 3) n

/-- A frame with no operation. -/
def blankFrame : Frame where
  op := 0
  syn := false
  retx := false
  poison := false
  acknow := false
  reset := false
  ece := false
  srcDev := 0
  srcSheaf := 0
  dstDev := 0
  dstSheaf := 0
  cls := 0
  psn := 0
  apsn := 0
  addr := 0
  txn := 0
  bytes := 0
  srcstop := 0
  aux := 0
  value := 0
  tstamp := 0
  rtag := 0
  rcount := 0
  relems := 0
  contrib := 0
  anchor := 0
  efmt := 0
  rflags := 0
  eflags := 0
  payload := []
  srcLink := 0
  ceMarked := false

/-- The initial timeout of STB_RTO of a sheaf, µs. -/
def rtoOf (s : State) (sheaf : Nat) : Nat := regFld s (stbReg sheaf 0x10) 31 0

/-- A sent frame again, with RETX, over another path. -/
def resend (s : State) (c : Nat) (x : SendCtx) (e : Sent) (rto : Nat) : State :=
  match otherPath s x e.path with
  | none => s
  | some (p, x1) =>
    let f := { e.frame with retx := true, tstamp := nowNs s, srcLink := p.1, syn := x.syn }
    let e2 := { e with frame := f, path := p, rtoUs := rto }
    let y := { x1 with unacked := x.unacked.map fun d => if d.frame.psn = f.psn then e2 else d }
    count (sendStoby (setSend s c y) p.1 f p.2 x.entropy) (stbReg x.sheaf 0x18) 1

/-! ### Acknowledgements (R323, R324) -/

/-- A frame has been performed at its peer: the ring packet it was made from is acknowledged. -/
def sentDone (s : State) (e : Sent) : State :=
  match e.txn with
  | none => s
  | some t =>
    let ty : PType := if e.frame.op = 1 then .wrAck else .sigAck
    let frm := linkStop e.path.1
    let ring := if e.frame.op = 1 then addrRing e.frame.addr else 0
    sendPacket s frm (plainPacket ty ring e.frame.cls frm e.frame.srcstop t e.frame.addr 0)

/-- Every frame below APSN leaves a send context. -/
def takeApsn (s : State) (c apsn : Nat) : State :=
  match sendAt s c with
  | none => s
  | some x =>
    let done (e : Sent) : Bool := decide (0 < psnDist apsn e.frame.psn) && decide (psnDist apsn e.frame.psn ≤ psnWindow)
    let s1 := (x.unacked.filter done).foldl sentDone s
    setSend s1 c { x with unacked := x.unacked.filter fun e => !done e }

/-- PSNs that an ACK shows received: bit i of the bitmap for APSN + 1 + i. -/
def sackHas (apsn bitmap p : Nat) : Bool :=
  let d := psnDist p apsn
  decide (1 ≤ d) && decide (d ≤ 64) && bit bitmap (d - 1)

/-- PSNs above one that an ACK shows received. -/
def sackAbove (apsn bitmap p : Nat) : Nat :=
  ((bitList bitmap 64).filter fun i => decide (psnDist p apsn < i + 1)).length

/-- A missing frame with three later ones received is sent again (R324). -/
def fastRetx (c apsn bitmap : Nat) (s : State) (p : Nat) : State :=
  match sendAt s c with
  | none => s
  | some x => match x.unacked.find? fun e => e.frame.psn == p with
    | none => s
    | some e =>
      if sackHas apsn bitmap p then s
      else
        let n := sackAbove apsn bitmap p
        let e2 := { e with laterSeen := n }
        let y := { x with unacked := x.unacked.map fun d => if d.frame.psn = p then e2 else d }
        if 3 ≤ n ∧ e.laterSeen < 3 then resend s c y e2 e.rtoUs else setSend s c y

/-- PSNs of the frames that a context holds unacknowledged. -/
def unackedPsns (s : State) (c : Nat) : List Nat := match sendAt s c with
  | none => []
  | some x => x.unacked.map fun e => e.frame.psn

/-! ### Loss of a peer (R325) -/

/-- The job fault "loss of every path to a Stoby peer". -/
def losePeer (s : State) (sheaf dev sub : Nat) : State :=
  let s1 := regSet (regFlag s (stbReg sheaf 0) 0 true) (stbReg sheaf 8) (dev % 2 ^ 12)
  detect s1 ⟨0x08, sub, 0xFFFF, 0, dev, 0xFFFF, 0⟩

/-! ### Receiving (R322, R323) -/

/-- The PSNs that follow `next` and are performed. -/
def passFinished : Nat → Nat → List Nat → Nat × List Nat
  | 0, n, l => (n, l)
  | k + 1, n, l => if l.contains n then passFinished k (psnNext n) (l.erase n) else (n, l)

/-- An operation is performed at the receiver. -/
def stobyPerformed (s : State) (c psn : Nat) : State :=
  match recvAt s c with
  | none => s
  | some x =>
    let r := passFinished (x.finished.length + 2) x.next (psn :: x.finished)
    setRecv s c { x with next := r.1, finished := r.2 }

/-- PSNs above APSN that a receive context has received. -/
def receivedPsn (x : RecvCtx) (p : Nat) : Bool :=
  decide (psnDist p x.next < psnDist x.start x.next) || (FMap.find x.window p).isSome

/-- The SACK bitmap of a receive context. -/
def sackOf (x : RecvCtx) : Nat := maskOf ((List.range 64).filter fun i => receivedPsn x ((x.next + 1 + i) % 2 ^ 32))

/-- The ACK frame of a receive context (Table 11.3). -/
def ackFrame (s : State) (x : RecvCtx) : Frame :=
  { blankFrame with
    op := 7, ece := x.ece, srcDev := ownDev s, srcSheaf := x.dsheaf, dstDev := x.dev, dstSheaf := x.sheaf, cls := x.cls
    apsn := x.next, value := sackOf x, tstamp := x.lastTs, srcLink := x.link.1 }

/-- The ACK that tells a sender that no context holds its frames (R325). -/
def resetFrame (s : State) (l : Nat) (f : Frame) : Frame :=
  { blankFrame with
    op := 7, reset := true, srcDev := ownDev s, srcSheaf := f.dstSheaf, dstDev := f.srcDev, dstSheaf := f.srcSheaf, cls := f.cls
    tstamp := f.tstamp, srcLink := l }

end Sys2Proof.Machine
end

