-- ==== Sys2Proof/Machine/Sensors.lean ====
section
/-! DEFINITION. The die and DRAM sensors, and what each counts as once some are excluded (R403, R404). -/

namespace Sys2Proof.Machine

/-- Number of a DRAM sensor of a sheaf (R403). -/
def dramSensor (l layer : Nat) : Nat := 768 + 5 * l + layer

/-- Numbers of a local core's four array and two store sensors, and of a local vault's five layer sensors. -/
def arrayNos (l : Nat) : List Nat := (List.range 4).map fun k => 6 * l + k
def storeNos (l : Nat) : List Nat := (List.range 2).map fun k => 6 * l + 4 + k
def dramNos (l : Nat) : List Nat := (List.range 5).map fun k => dramSensor l k

/-- Sensors of the core or vault that a sensor belongs to. -/
def groupNos (n : Nat) : List Nat :=
  if n < 768 then (List.range 6).map fun k => n / 6 * 6 + k else dramNos ((n - 768) / 5)

/-- Key of a sensor of a sheaf. -/
def sensorKey (h n : Nat) : Nat := h * 4096 + n

/-- A sensor is excluded until the next boot. -/
def excluded (s : State) (h n : Nat) : Bool := s.thermal.excluded.contains (sensorKey h n)

/-- Readings of the listed sensors that are not excluded. -/
def liveTemps (s : State) (h : Nat) (ns : List Nat) : List Int :=
  (ns.filter fun n => !excluded s h n).filterMap fun n => FMap.find s.thermal.readings (sensorKey h n)

/-- The largest of a list of readings. -/
def maxTemp : List Int → Option Int
  | [] => none
  | x :: l => some (l.foldl max x)

/-- What one sensor counts as: its reading; excluded, the hottest of its group's remaining sensors plus 5 °C; without any
of these, `hot` plus 5 °C. -/
def countsAs (s : State) (h n : Nat) (hot : Option Int) : Option Int :=
  if excluded s h n then ((maxTemp (liveTemps s h (groupNos n))).orElse fun _ => hot).map (· + 5)
  else FMap.find s.thermal.readings (sensorKey h n)

/-- The hottest of the listed sensors as they count beside the sheaf's hottest of their kind, with its number. -/
def hottestIn (s : State) (h : Nat) (ns kind : List Nat) : Option (Int × Nat) :=
  let hot := maxTemp (liveTemps s h kind)
  ns.foldl (fun b n => match b, countsAs s h n hot with
    | none, some t => some (t, n)
    | some x, some t => if x.1 < t then some (t, n) else some x
    | b, none => b) none

/-- The hottest of all sensors of a kind, as they count. -/
def hottest (s : State) (h : Nat) (ns : List Nat) : Option (Int × Nat) := hottestIn s h ns ns

/-- The hottest of a few sensors of a kind, as they count beside the sheaf's hottest of the kind. -/
def hottestOf (s : State) (h : Nat) (ns kind : List Nat) : Option Int :=
  maxTemp (ns.filterMap fun n => countsAs s h n (maxTemp (liveTemps s h kind)))

/-- All array, store and DRAM sensors of a sheaf. -/
def allArray : List Nat := (List.range 128).flatMap arrayNos
def allStore : List Nat := (List.range 128).flatMap storeNos
def allDram : List Nat := (List.range 128).flatMap dramNos

end Sys2Proof.Machine
end

