-- ==== Sys2Proof/Machine/Vaults.lean ====
section
/-! DEFINITION. Vault controllers: requests, read merging, refresh and patrol scrub (R198 to R220, R262, R263). -/

namespace Sys2Proof.Machine

/-! ### Rows and banks (R198) -/

/-- Bank position and row of an offset. -/
def bankOf (off : Nat) : Nat := off / 2048 % 80
def rowOfOff (off : Nat) : Nat := off / 2048 / 80

/-- A request's row: an activate, or a row that was open (Table 16.3). -/
def touchRow (s : State) (v off : Nat) : State :=
  if FMap.find (vaultAt s v).openRows (bankOf off) = some (rowOfOff off) then count s (vltCtr v 3) 1
  else updVault (count s (vltCtr v 2) 1) v fun x => { x with openRows := FMap.set x.openRows (bankOf off) (rowOfOff off) }

/-- The controller closes every row that no queued request targets. -/
def closeRows (s : State) (v : Nat) : State :=
  updVault s v fun x =>
    { x with openRows := x.openRows.filter fun e =>
      (x.shaftQ ++ x.ringQ).any fun r => bankOf r.off = e.1 && rowOfOff r.off = e.2 }

/-! ### Replies (R133, R212, R260) -/

/-- Data that a reply brings to a core's SRAM; poisoned data are undefined (R212). -/
def landData (s : State) (c sram : Nat) (data : List Byte) (poison : Bool) : State :=
  if poison then undefMem s 16 (sramKey c sram) data.length else writeMem s 16 (sramKey c sram) data

/-- A reply to a read: over the shaft, where a kernel that stopped no longer waits for it, or as an RD_RESP. -/
def replyRead (s : State) (v : Nat) (r : VReq) (data : List Byte) (poison : Bool) : State :=
  match r.src with
  | .shaft ch seq sram =>
    if (channel s v ch).any fun d => d.seq == seq then dmaPart (landData s v sram data poison) v ch seq else s
  | .ring src ring cls txn remote =>
    sendPacket s (coreStop v)
      { plainPacket .rdResp ring cls (coreStop v) src txn (vaultAddr v r.off) r.bytes with data, poison, remote }

/-- The acknowledgement of a write. -/
def replyWrite (s : State) (v : Nat) (r : VReq) : State :=
  match r.src with
  | .shaft ch seq _ => dmaPart s v ch seq
  | .ring src ring cls txn remote =>
    sendPacket s (coreStop v) { plainPacket .wrAck ring cls (coreStop v) src txn (vaultAddr v r.off) 0 with remote }

/-! ### Merging (R218 to R220) -/

/-- The entry that a mergeable read attaches to. -/
def mergeFor (x : VaultSt) (block : Nat) : Option Merge :=
  x.merges.find? fun m => m.block == block && !m.closed && decide (m.reqs.length < 64)

/-- The least number that names no entry. -/
def freeMergeId (x : VaultSt) : Option Nat := (List.range 16).find? fun i => x.merges.all fun m => m.id != i

/-- The ring of a request. -/
def reqRing (r : VReq) : Nat := match r.src with
  | .shaft ch _ _ => ch
  | .ring _ k _ _ _ => k

/-- A mergeable read attaches to its block's entry. -/
def attach (s : State) (v : Nat) (r : VReq) (m : Merge) : State :=
  updVault (count s (vltCtr v 4) 1) v fun x =>
    { x with merges := x.merges.map fun e => if e.id = m.id then { e with reqs := e.reqs ++ [r] } else e }

/-- A mergeable read opens an entry: its DRAM read is issued. -/
def openMerge (s : State) (v id : Nat) (r : VReq) : Except Halt State := do
  let (data, poison, s1) ← readVault (touchRow s v r.off) v r.off r.bytes
  .ok (updVault s1 v fun x =>
    { x with merges := x.merges ++ [⟨id, r.off / 256, reqRing r, false, data, poison, [r]⟩] })

/-- An ordinary read. -/
def plainRead (s : State) (v : Nat) (r : VReq) : Except Halt State := do
  let (data, poison, s1) ← readVault (touchRow s v r.off) v r.off r.bytes
  .ok (replyRead s1 v r data poison)

/-- A read as the controller performs it. -/
def performRead (s : State) (v : Nat) (r : VReq) : Except Halt State :=
  if !r.merge then plainRead s v r
  else match mergeFor (vaultAt s v) (r.off / 256) with
    | some m => .ok (attach s v r m)
    | none => match freeMergeId (vaultAt s v) with
      | some id => openMerge s v id r
      | none => plainRead s v r

/-- A write closes the entry of the block that it touches (R219). -/
def performWrite (s : State) (v : Nat) (r : VReq) : Except Halt State := do
  let s1 ← writeVault (touchRow s v r.off) v r.off r.data
  .ok (replyWrite s1 v r)

/-! ### VAULT_REQUEST_PERFORM (R200, R201) -/

/-- Bytes that a request reaches. -/
def reqSpan (r : VReq) : Nat := if r.write then r.data.length else r.bytes

/-- Two requests touch a common word, and one of them writes. -/
def reqsMeet (a b : VReq) : Bool :=
  (a.write || b.write) && decide (a.off / 32 * 32 < b.off + reqSpan b) && decide (b.off / 32 * 32 < a.off + reqSpan a)

/-- A request waits for one at the other input that arrived before it and touches a common word (R200). -/
def reqHeld (other : List VReq) (r : VReq) : Bool := (other.take 32).any fun o => decide (o.num < r.num) && reqsMeet o r

/-- The shaft's request is taken; the one that enters the queue's last place arrives now. -/
def takeShaft (x : VaultSt) (as : List VReq) : VaultSt :=
  { x with
    shaftQ := as.take 31 ++ ((as.drop 31).take 1).map (fun r => { r with num := x.nextNum }) ++ as.drop 32
    nextNum := x.nextNum + 1, ringNext := true }

/-- The request that is taken next, and the inputs after it: the inputs alternate (R201), and a request with a word in
common with an earlier one waits behind it (R200). -/
def takeReq (x : VaultSt) : Option (VReq × VaultSt) :=
  match x.shaftQ, x.ringQ with
  | a :: as, b :: bs =>
    if reqHeld x.shaftQ b || (!x.ringNext && !reqHeld x.ringQ a) then some (a, takeShaft x as)
    else some (b, { x with ringQ := bs, ringNext := false })
  | a :: as, [] => some (a, takeShaft x as)
  | [], b :: bs => some (b, { x with ringQ := bs, ringNext := false })
  | [], [] => none

/-- Vault upsets, by offset. -/
def upsetVault (s : State) (v : Nat) (ups : List (Nat × Upset)) : State :=
  upsetWords s (ups.map fun u => (vaultKey v (u.1 / 32 * 32), u.2))

/-- The next request is performed whole. -/
def performNext (s : State) (v : Nat) (ups : List (Nat × Upset)) : Except Halt State :=
  match takeReq (vaultAt s v) with
  | none => .ok s
  | some (r, x) => do
    let s1 := upsetVault (setVault s v x) v ups
    let s2 ← if r.write then performWrite s1 v r else performRead s1 v r
    .ok (closeRows s2 v)

/-- The vault-to-ring queue has room for the reply to a request that leaves over the rings (R30, R31). -/
def replyRoom (s : State) (v : Nat) (r : VReq) : Bool := match r.src with
  | .shaft _ _ _ => true
  | .ring _ _ _ _ _ => vaultOutRoom s v (if r.write then 1 else 1 + (r.bytes + 63) / 64)

/-- VAULT_REQUEST_PERFORM. -/
def execVaultRequestPerform (v : Nat) (upsets : List (Nat × Upset)) (s : State) : Out State :=
  actE s (vaultInService s v && domOn s ⟨.vault, v⟩ && (match takeReq (vaultAt s v) with
      | some (r, _) => replyRoom s v r
      | none => false)) (performNext s v upsets)

/-! ### MERGE_READ_DATA (R262, R263) -/

/-- A position lies on the side of increasing positions of another. -/
def cwSide (frm dest : Nat) : Bool := decide ((dest + 137 - frm) % 137 ≤ 68)

/-- Where the gateway that leads to another sheaf lies: B forward, A backward. -/
def gatePos (ring a b : Nat) : Nat := if goesForward ring a b then 1 else 0

/-- Local cores of a sheaf among requesters' stops. -/
def coresIn (stops : List Nat) (h : Nat) : List Nat :=
  stops.filterMap fun t => (stopCore t).bind fun c => if c / 128 = h then some (c % 128) else none

/-- One packet of a multicast: `cw` the direction, from a position of sheaf `h`. -/
def mcPacket (p : Packet) (h frm : Nat) (cw : Bool) (stops : List Nat) : Packet :=
  let near := (coresIn stops h).filter fun i => cwSide frm (corePos i) == cw
  let far := sheaves.filter fun x => x != h && !(coresIn stops x).isEmpty && cwSide frm (gatePos p.ring h x) == cw
  { p with stopmask := near, sheafmask := far.map (fun x => (x, coresIn stops x)), sheaf := h }

/-- The packets of a multicast delivery that carry anything. -/
def mcPackets (p : Packet) (h frm : Nat) (stops : List Nat) : List Packet :=
  ([true, false].map fun d => mcPacket p h frm d stops).filter fun q => !q.stopmask.isEmpty || !q.sheafmask.isEmpty

/-- The stop of a ring request. -/
def reqStop (r : VReq) : Option (Nat × Nat) := match r.src with
  | .ring t _ _ txn _ => some (t, txn)
  | .shaft _ _ _ => none

/-- Class of the requests of an entry: that of the read that opened it. -/
def reqCls (r : VReq) : Nat := match r.src with
  | .ring _ _ c _ _ => c
  | .shaft _ _ _ => 0

/-- The packets of a multicast delivery to the requesters of an entry. -/
def mergedPackets (v : Nat) (m : Merge) (r : VReq) (rs : List VReq) : List Packet :=
  mcPackets { plainPacket .mcResp m.ring (reqCls r) (coreStop v) 0 0 (vaultAddr v (m.block * 256)) 256 with
      data := m.data, poison := m.poison }
    (v / 128) (corePos (v % 128)) ((rs.filterMap reqStop).map (·.1))

/-- The data leave for the requesters over the rings. -/
def sendMerged (s : State) (v : Nat) (m : Merge) (rs : List VReq) : State :=
  match rs with
  | [] => s
  | [r] => replyRead s v r m.data m.poison
  | r :: _ => (mergedPackets v m r rs).foldl (fun s q => sendPacket s (coreStop v) q) (count s (vltCtr v 5) 1)

/-- Flits that the delivery of an entry sends. -/
def mergedFlits (v : Nat) (m : Merge) : Nat := match m.reqs.filter fun r => (reqStop r).isSome with
  | [] => 0
  | [_] => 5
  | r :: rs => flitSum (mergedPackets v m r (r :: rs))

/-- The data of a merged read leave. -/
def deliverMerge (s : State) (v : Nat) (m : Merge) : State :=
  let s1 := updVault s v fun x => { x with merges := x.merges.filter fun e => e.id != m.id }
  let own := m.reqs.filter fun r => (reqStop r).isNone
  let s2 := own.foldl (fun s r => replyRead s v r m.data m.poison) s1
  sendMerged s2 v m (m.reqs.filter fun r => (reqStop r).isSome)

/-- MERGE_READ_DATA. -/
def execMergeReadData (v entry : Nat) (s : State) : Out State :=
  match (vaultAt s v).merges.find? fun m => m.id == entry with
  | none => .next s
  | some m => act s (mergedFlits v m == 0 || vaultOutRoom s v (mergedFlits v m)) (deliverMerge s v m)

/-! ### Refresh (R216) -/

/-- A vault's five layer sensors, as they count (R404). -/
def layerTemps (s : State) (v : Nat) : List Int :=
  (dramNos (v % 128)).filterMap fun n => countsAs s (v / 128) n (maxTemp (liveTemps s (v / 128) allDram))

/-- The window that the readings let the controller select: 16 ms above 84 °C; 32 ms again at or below 82 °C. -/
def windowOk (s : State) (v : Nat) (w16 : Bool) : Bool :=
  let hot := (layerTemps s v).any fun t => decide (84 < t)
  let cool := (layerTemps s v).all fun t => decide (t ≤ 82)
  let now := bit (regGet s (vltReg v 8)) 0
  if w16 then hot || now else !hot && (!now || cool)

/-- The refresh window of a vault. -/
def setWindow (s : State) (v : Nat) (w16 : Bool) : State := regFlag (regFlag s (vltReg v 8) 0 w16) (vltReg v 0) 3 w16

/-- A refresh of one layer, at a window: a command of the controller, which counts; in self-refresh the DRAM's own. -/
def refresh (s : State) (v : Nat) (w16 : Bool) : State :=
  if domOn s ⟨.vault, v⟩ then count (setWindow s v w16) (vltCtr v 6) 1 else setWindow s v w16

/-- REFRESH_COMMAND: in every state of the vault but Off. -/
def execRefreshCommand (v layer : Nat) (window16 : Bool) (s : State) : Out State :=
  act s (vaultInService s v && (domAt s ⟨.vault, v⟩).st != .off && decide (layer < 5) && windowOk s v window16)
    (refresh s v window16)

/-! ### Patrol scrub (R215) -/

/-- Scrub may take a word: enabled, no request queued, and the vault neither asleep nor in PROCESSOR mode. -/
def scrubRuns (s : State) (v : Nat) : Bool :=
  vaultInService s v && domOn s ⟨.vault, v⟩ && bit (regGet s (vltReg v 0x30)) 8 && !processorMode s v
    && (vaultAt s v).shaftQ.isEmpty && (vaultAt s v).ringQ.isEmpty

/-- The word at an offset is read, checked, corrected or poisoned. -/
def scrubAt (s : State) (v off : Nat) : State :=
  match FMap.find s.marks (vaultKey v off) with
  | none => s
  | some .poison => s
  | some (.err [e]) => { vaultCe s v off e.1 1 with marks := FMap.drop (vaultCe s v off e.1 1).marks (vaultKey v off) }
  | some _ => vaultUe s v off 1

/-- The position moves to the next word; a pass ends at the end of the populated vault. -/
def scrubNext (s : State) (v : Nat) : State :=
  let off := regFld s (vltReg v 0x38) 29 5 * 32
  if off + 32 < 0x1E000000 then regSetFld s (vltReg v 0x38) 29 5 (off / 32 + 1)
  else
    let n := regFld s (vltReg v 0x38) 63 32
    regSetFld (regSetFld s (vltReg v 0x38) 29 5 0) (vltReg v 0x38) 63 32 (min (n + 1) (2 ^ 32 - 1))

/-- One word is scrubbed. -/
def scrub (s : State) (v : Nat) (u : Option Upset) : State :=
  let off := regFld s (vltReg v 0x38) 29 5 * 32
  let s1 := match u with
    | some x => upsetVault s v [(off, x)]
    | none => s
  scrubNext (count (scrubAt s1 v off) (vltCtr v 0) 1) v

/-- SCRUB_WORD; a scrub that reads a row with invalid check bits has no stated result (R231). -/
def execScrubWord (v : Nat) (upset : Option Upset) (s : State) : Out State :=
  actE s (scrubRuns s v) (orUndef (!badChecks s v (regFld s (vltReg v 0x38) 29 5 * 32) 32) 40 (.ok (scrub s v upset)))

end Sys2Proof.Machine
end

