-- ==== Sys2Proof/Machine/RingOps.lean ====
section
/-! DEFINITION. Ring stops: injection and its arbitration, paths, and acceptance at a destination (R247 to R260). -/

namespace Sys2Proof.Machine

/-! ### The header flit (R249) -/

/-- TYPE (Table 9.5). -/
def typeCode : PType → Nat
  | .rdReq => 1
  | .rdResp => 2
  | .mcResp => 3
  | .wr => 4
  | .wrAck => 5
  | .reduce => 6
  | .signal => 7
  | .sigAck => 8
  | .tagNotice => 9
  | .msg => 10

/-- CTL: class, data flits, mask flits, POISON. -/
def ctlByte (p : Packet) : Nat :=
  p.cls % 4 + (p.data.length + 63) / 64 % 8 * 4 + (p.sheafmask.length + 3) / 4 % 4 * 32 + b2n p.poison * 128

/-- The 64 bytes of a packet's header flit (Table 9.4). -/
def headerBytes (p : Packet) : List Byte :=
  leBytes 1 (typeCode p.ty) ++ leBytes 1 (ctlByte p) ++ leBytes 2 p.src ++ leBytes 2 (if p.ty = .mcResp then 0 else p.dst)
    ++ leBytes 2 p.txn ++ leBytes 8 (p.addr % 2 ^ 56) ++ leBytes 2 p.bytes
    ++ leBytes 1 (b2n p.merge + 2 * b2n p.ackreq + 4 * b2n p.remote) ++ leBytes 1 p.efmt ++ leBytes 4 p.rtag
    ++ leBytes 2 p.rcount ++ leBytes 2 p.relems ++ leBytes 2 p.contrib ++ leBytes 2 (unsigned 16 p.anchor)
    ++ leBytes 1 (p.rflags % 4) ++ leBytes 1 (p.held % 8) ++ zeros 2 ++ leBytes 4 p.eflags
    ++ leBytes 1 (maskOf (p.sheafmask.map (·.1))) ++ zeros 7 ++ leBytes 16 (maskOf p.stopmask)

/-! ### Injection (R256, R258, R272) -/

/-- The core's injection queue for a ring takes `n` more flits. -/
def coreRoom (s : State) (stop ring n : Nat) : Bool :=
  decide (flitSum ((injectQ s stop ring).filter fun p => !fromVault s p) + n ≤ 10)

/-- A packet may leave: a SIGNAL with RELEASE waits for its core's earlier writes and REDS (R138). -/
def mayLeave (s : State) (p : Packet) : Bool := match p.release, p.owner with
  | some seq, some (c, _) => writesDone (coreAt s c) seq
  | _, _ => true

/-- The packet of a class that leaves next: the first that may. -/
def nextOfClass (s : State) (stop ring cls : Nat) : Option Packet :=
  (atStop s stop ring).find? fun p => p.cls == cls && mayLeave s p

/-- Weight of a class at the stops of a sheaf. -/
def classWt (s : State) (h cls : Nat) : Nat := regFld s (rngReg h 0x10) (8 * cls - 1) (8 * cls - 8)

/-- Classes 1 to 3 with a packet to send. -/
def injectors (s : State) (stop ring : Nat) : List Contender :=
  [1, 2, 3].filterMap fun c => (nextOfClass s stop ring c).map fun p => (c, flitsOf p, classWt s (stop / 256) c)

/-- Key of the arbitration state of a stop and a ring: at +0 the class served last, at +1 to +3 the deficits. -/
def arbKey (stop ring : Nat) : Nat := 16 * stop + 4 * ring

/-- The class that a stop serves next on a ring, and the deficits after: class 0 first (R258). -/
def serveStop (s : State) (stop ring : Nat) : Option (Packet × FMap Nat) :=
  match nextOfClass s stop ring 0 with
  | some p => some (p, s.rings.deficit)
  | none =>
    let k := arbKey stop ring
    let cs := injectors s stop ring
    let mine := ([1, 2, 3].map fun c => (c, FMap.getD s.rings.deficit (k + c) 0))
    match drr 32 cs (keepDef cs mine) (FMap.getD s.rings.deficit k 0) with
    | none => none
    | some (c, d) =>
      let m := [1, 2, 3].foldl (fun m c => FMap.set m (k + c) (FMap.getD d c 0)) s.rings.deficit
      (nextOfClass s stop ring c).map fun p => (p, FMap.set m k c)

/-- The sheaves that a packet must reach. -/
def packetSheaves (p : Packet) : List Nat := if p.ty == .mcResp then p.sheafmask.map (·.1) else [p.dst / 256]

/-- The ring a packet is injected on, and whether it goes the other way around (R272). -/
def steerPacket (s : State) (stop : Nat) (p : Packet) : Option (Nat × Bool) := steer s p.ring (stop / 256) (packetSheaves p)

/-- The packet with its destination resolved (R253): the link through which a remote address leaves is that of the
moment of injection. -/
def aimPacket (s : State) (stop : Nat) (p : Packet) : Packet :=
  if p.ty = .rdReq ∨ p.ty = .wr ∨ p.ty = .reduce ∨ p.ty = .signal then match resolve s p.addr with
    | .remote _ _ => { p with dst := linkStop (outLink s (stop / 256) p.ring) }
    | _ => p
  else p

/-- An uncorrectable ring packet is found at a stop (R251): counted, flagged, and a job fault; `sub` 0 a double-bit
flit, 1 no path. -/
def ringUe (s : State) (stop sub addr : Nat) : State :=
  let h := stop / 256
  detect (event s (rngReg h 8) 1 (rngReg h 0x28)) ⟨0x03, sub, stop, addr, 0, 0xFFFF, 0⟩

/-- A packet has left its queue: the rest of the queue, and its owner's count of packets to inject (R122). -/
def leaveQueue (s : State) (stop ring : Nat) (p : Packet) (d : FMap Nat) : State :=
  let s1 := setInjectQ s stop ring ((injectQ s stop ring).erase p)
  let s2 := { s1 with rings := { s1.rings with deficit := d, slotReq := s1.rings.slotReq.filter (· != 4 * stop + ring) } }
  match p.ty, p.owner with
  | .reduce, some (c, seq) => outPart s2 c seq
  | _, _ => s2

/-- The packet as it travels. -/
def onRing (stop : Nat) (p : Packet) (r : Nat × Bool) : Packet :=
  { p with ring := r.1, back := r.2, entered := stop, release := none, owner := if p.ty == .msg then p.owner else none }

/-- A stop injects its next packet on a ring, whole (R248). -/
def injectNext (s : State) (stop ring : Nat) : State := match serveStop s stop ring with
  | none => s
  | some (q, d) =>
    let s1 := leaveQueue s stop ring q d
    let p := aimPacket s stop q
    match steerPacket s stop p with
    | none => ringUe s1 stop 1 p.addr
    | some r => countTx { s1 with rings := { s1.rings with
        flight := FMap.set s1.rings.flight s1.rings.nextId (onRing stop p r), nextId := s1.rings.nextId + 1 } } stop

/-- A stop exists: positions 2 and 3 of sheaves 1 to 7 belong to dormant blocks (R246). -/
def stopLive (stop : Nat) : Bool :=
  decide (stop / 256 < 8) && decide (stop % 256 < 137) && (decide (stop < 256) || (stop % 256 != 2 && stop % 256 != 3))

/-- Stops with a request for empty slots out on a ring of a sheaf. -/
def slotWaits (s : State) (h ring stop : Nat) : Bool := s.rings.slotReq.contains (4 * stop + ring) && stop / 256 == h

/-- The position from which a packet at a stop leaves its sheaf, or its destination there (R254). -/
def headsFor (s : State) (stop : Nat) (p : Packet) : Nat :=
  let q := aimPacket s stop p
  if q.dst / 256 = stop / 256 then q.dst % 256
  else if goesForward q.ring (stop / 256) (q.dst / 256) then 1 else 0

/-- The nearest stop upstream of a request for empty slots, for a packet that travels to higher positions or to lower
ones: the first live stop against its direction that has no such request of its own (R256). -/
def slotGiver (s : State) (stop ring : Nat) (up : Bool) : Option Nat :=
  ((List.range 136).map fun i => stop / 256 * 256 + (if up then stop % 256 + 136 - i else stop % 256 + i + 1) % 137).find? fun t =>
    stopLive t && !slotWaits s (t / 256) ring t

/-- A stop leaves its slots empty for a stop downstream that has asked for them (R256). -/
def leavesSlots (s : State) (stop ring : Nat) : Bool :=
  !s.rings.slotReq.contains (4 * stop + ring) && s.rings.slotReq.any fun k =>
    k % 4 == ring && k / 1024 == stop / 256 && (match serveStop s (k / 4) ring with
      | some (p, _) => slotGiver s (k / 4) ring (cwSide (k / 4 % 256) (headsFor s (k / 4) p)) == some stop
      | none => false)

/-- A packet has left a stop: at a link stop the receive buffer may have emptied enough for an XON (R328). -/
def afterInject (s : State) (stop : Nat) : State := match stopLink stop with
  | some l => pfcCheck s l
  | none => s

/-- RING_PACKET_INJECT: a fabric in Retention wakes first (R393). -/
def execRingPacketInject (stop ring : Nat) (s : State) : Out State :=
  act s (stopLive stop && decide (ring < 4) && (serveStop s stop ring).isSome && !leavesSlots s stop ring)
    (if domOn s ⟨.fabric, stop / 256⟩ then afterInject (injectNext s stop ring) stop else levelWake s ⟨.fabric, stop / 256⟩)

/-- EMPTY_SLOT_REQUEST: it stays out until the packet is injected. -/
def execEmptySlotRequest (stop ring : Nat) (s : State) : Out State :=
  act s (stopLive stop && decide (ring < 4) && !(injectQ s stop ring).isEmpty && !s.rings.slotReq.contains (4 * stop + ring))
    { s with rings := { s.rings with slotReq := s.rings.slotReq ++ [4 * stop + ring] } }

/-! ### Packets on the rings -/

/-- A packet on the rings. -/
def flightAt (s : State) (id : Nat) : Option Packet := FMap.find s.rings.flight id

/-- A packet has left the rings. -/
def takeFlight (s : State) (id : Nat) : State := { s with rings := { s.rings with flight := FMap.drop s.rings.flight id } }

/-- The state with a packet on the rings changed. -/
def setFlight (s : State) (id : Nat) (p : Packet) : State :=
  { s with rings := { s.rings with flight := FMap.set s.rings.flight id p } }

/-! ### Acceptance (R259, R260) -/

/-- Triples that a stop turns away on a ring. -/
def turnedOn (s : State) (stop ring : Nat) : List (Nat × Nat × Nat) :=
  (FMap.getD s.rings.turned stop []).filter fun t => t.2.2 == ring

/-- Source, class and ring of a packet. -/
def tripleOf (p : Packet) : Nat × Nat × Nat := (p.src, p.cls, p.ring)

/-- The ejection queue of a stop (Table 1.8): packets accepted and not performed. -/
def ejectQ (s : State) (stop : Nat) : List Nat := FMap.getD s.rings.eject stop []

/-- The state with a stop's ejection queue changed; an empty one is not listed. -/
def setEject (s : State) (stop : Nat) (l : List Nat) : State :=
  { s with rings := { s.rings with eject := if l.isEmpty then FMap.drop s.rings.eject stop else FMap.set s.rings.eject stop l } }

/-- A packet has been accepted and waits in its destination's ejection queue. -/
def ejected (s : State) (id : Nat) (p : Packet) : Bool := (ejectQ s p.dst).contains id

/-- No packet of the same source, destination, class and ring was injected earlier and is still on its way. -/
def firstOfTriple (s : State) (id : Nat) (p : Packet) : Bool :=
  s.rings.flight.all fun e =>
    decide (id ≤ e.1) || e.2.dst != p.dst || e.2.ty == .mcResp || tripleOf e.2 != tripleOf p || ejected s e.1 e.2

/-- The list of triples of a ring is full, does not hold the packet's, and some packet of its class is turned away: the
stop turns away every packet of that ring and class. A class-0 packet is turned away only by class-0 packets (R259). -/
def listFull (s : State) (p : Packet) : Bool :=
  decide (16 ≤ (turnedOn s p.dst p.ring).length) && !(turnedOn s p.dst p.ring).contains (tripleOf p)
    && (turnedOn s p.dst p.ring).any fun t => if p.cls = 0 then t.2.1 == 0 else t.2.1 != 0

/-- Flits that a vault's ring input holds (Table 1.8). -/
def vaultFlits (s : State) (v : Nat) : Nat :=
  ((vaultAt s v).ringQ.map fun r => 1 + (r.data.length + 63) / 64).foldl (· + ·) 0

/-- The ring input of a vault takes a packet: 16 flits, five of them for class 0 only. -/
def vaultRoom (s : State) (v : Nat) (p : Packet) : Bool :=
  decide (vaultFlits s v + flitsOf p ≤ (if p.cls = 0 then 16 else 11))

/-- Tag table of a destination stop (R269). -/
def tagsAt (s : State) (stop : Nat) : List TagEntry := FMap.getD s.rings.tags stop []

/-- The open entry of a tag. -/
def tagEntry (s : State) (stop tag : Nat) : Option TagEntry := (tagsAt s stop).find? fun e => e.tag == tag

/-- The core whose SRAM a packet at its stop reads or writes: such a packet passes the stop's ejection queue. -/
def toCore (s : State) (p : Packet) : Option Nat := match p.ty, resolve s p.addr, FMap.find s.rings.out p.txn with
  | .rdReq, .sram c _, _ => some c
  | .wr, .sram c _, _ => some c
  | .reduce, .sram c _, _ => some c
  | .rdResp, _, some (.dma c _ _ _ _ _ _) => some c
  | _, _, _ => none

/-- Flits of the answer that a core gives to a packet. -/
def answerFlits (p : Packet) : Nat := match p.ty with
  | .rdReq => 1 + (p.bytes + 63) / 64
  | .wr => b2n p.ackreq
  | _ => 0

/-- The core side takes a packet: its SRAM can be reached (R401), and its injection queue has room for the answer. -/
def coreTakes (s : State) (c : Nat) (p : Packet) : Bool :=
  domOn s ⟨.core, c⟩ && (answerFlits p == 0 || coreRoom s (coreStop c) p.ring (answerFlits p))

/-- The ejection queue of 20 flits takes a packet; it keeps room for one class-0 packet of five flits (R259). -/
def ejectRoom (s : State) (p : Packet) : Bool :=
  decide (flitSum ((ejectQ s p.dst).filterMap (flightAt s)) + flitsOf p ≤ if p.cls = 0 then 20 else 15)

/-- A packet goes past an empty ejection queue to its core at once. -/
def direct (s : State) (c : Nat) (p : Packet) : Bool := (ejectQ s p.dst).isEmpty && coreTakes s c p

/-- A vault's ring input can take a request. -/
def placeReady (s : State) (p : Packet) : Bool := match resolve s p.addr with
  | .vault v _ => p.ty == .reduce || vaultRoom s v p
  | _ => true

/-- The destination takes a packet now. -/
def destReady (s : State) (p : Packet) : Bool :=
  (match toCore s p with
    | some c => direct s c p || ejectRoom s p
    | none => true)
  && match p.ty with
    | .rdReq => placeReady s p
    | .wr => placeReady s p
    | .reduce => placeReady s p && ((tagEntry s p.dst p.rtag).isSome || decide ((tagsAt s p.dst).length < 32))
    | _ => true

/-- A packet can be accepted. -/
def accepts (s : State) (id : Nat) (p : Packet) : Bool := firstOfTriple s id p && !listFull s p && destReady s p

/-- The triple of an accepted packet is no longer turned away. -/
def welcome (s : State) (p : Packet) : State :=
  let l := (FMap.getD s.rings.turned p.dst []).filter (· != tripleOf p)
  { s with rings := { s.rings with
    turned := if l.isEmpty then FMap.drop s.rings.turned p.dst else FMap.set s.rings.turned p.dst l } }

/-- A packet is accepted and taken off its ring. -/
def accept (s : State) (id : Nat) (p : Packet) : State := welcome (takeFlight s id) p

/-- A triple is remembered, while there is room for it. -/
def rememberTriple (s : State) (p : Packet) : State :=
  if (turnedOn s p.dst p.ring).contains (tripleOf p) || decide (16 ≤ (turnedOn s p.dst p.ring).length) then s
  else { s with rings := { s.rings with turned := FMap.upd s.rings.turned p.dst [] (· ++ [tripleOf p]) } }

/-- Memory traffic that waits for a sleeping domain wakes it (R392, R401). -/
def wakeFor (s : State) (p : Packet) : State := match p.ty, resolve s p.addr, FMap.find s.rings.out p.txn with
  | .rdReq, .sram c _, _ => levelWake s ⟨.core, c⟩
  | .wr, .sram c _, _ => levelWake s ⟨.core, c⟩
  | .reduce, .sram c _, _ => levelWake s ⟨.core, c⟩
  | .rdReq, .vault v _, _ => levelWake s ⟨.vault, v⟩
  | .wr, .vault v _, _ => levelWake s ⟨.vault, v⟩
  | .rdResp, _, some (.dma c _ _ _ _ _ _) => levelWake s ⟨.core, c⟩
  | _, _, _ => s

/-- PACKET_TURNED_AWAY: the packet goes round again and its triple is remembered. -/
def execPacketTurnedAway (id : Nat) (s : State) : Out State := match flightAt s id with
  | none => .next s
  | some p => act s (p.ty != .mcResp && !ejected s id p && !accepts s id p) (wakeFor (rememberTriple s p) p)

/-- A packet waits in the ejection queue of a core that cannot take it yet; a sleeping core wakes. -/
def enterEject (s : State) (id : Nat) (p : Packet) : State :=
  wakeFor (setEject (welcome s p) p.dst (ejectQ s p.dst ++ [id])) p

/-- The next packet of an ejection queue may be performed: in the order of acceptance (R260). -/
def ejectNext (s : State) (id : Nat) (p : Packet) : Bool :=
  (ejectQ s p.dst).head? == some id && (match toCore s p with
    | some c => coreTakes s c p
    | none => true)

/-- The meaning of an arrival: a packet of a type that its destination accepts. A packet for an SRAM whose core cannot
take it yet enters the stop's ejection queue, and a later arrival command performs it from there. -/
def arrival (s : State) (id : Nat) (ty : PType) (at_ : Packet → Bool) (eff : Packet → State → Except Halt State) : Out State :=
  match flightAt s id with
  | none => .next s
  | some p =>
    if ejected s id p then
      actE s (p.ty == ty && at_ p && ejectNext s id p) (eff p (setEject (takeFlight s id) p.dst ((ejectQ s p.dst).drop 1)))
    else match toCore s p with
      | some c =>
        if direct s c p then actE s (p.ty == ty && at_ p && accepts s id p) (eff p (accept s id p))
        else act s (p.ty == ty && at_ p && accepts s id p) (enterEject s id p)
      | none => actE s (p.ty == ty && at_ p && accepts s id p) (eff p (accept s id p))

/-! ### RING_FLIT_UE (R251) -/

/-- A flit of a packet has wrong bits at a stop: one of 8 bytes is corrected and counted in RNG_CE_COUNT, two make the
packet uncorrectable, and the stop discards it. -/
def flitError (s : State) (id stop wrongBits : Nat) (p : Packet) : State :=
  if wrongBits = 1 then count s (rngReg (stop / 256) 0x38) 1 else ringUe (takeFlight s id) stop 0 p.addr

/-- RING_FLIT_UE. -/
def execRingFlitUe (id : Nat) (e : FlitError) (s : State) : Out State := match flightAt s id with
  | none => .next s
  | some p =>
    act s (decide (e.stop / 256 < 8) && decide (e.stop % 256 < 137) && !ejected s id p && (e.wrongBits == 1 || e.wrongBits == 2))
      (flitError s id e.stop e.wrongBits p)

end Sys2Proof.Machine
end

