-- ==== Sys2Proof/Machine/Bridges.lean ====
section
/-! DEFINITION. Bridge lanes: replays, retraining and retirement (R270 to R272). -/

namespace Sys2Proof.Machine

/-- A lane exists and is in use. -/
def laneUsed (s : State) (sheaf : Nat) (gatewayB : Bool) (ring : Nat) : Bool :=
  decide (sheaf < 8) && decide (ring < 4) && (laneAt s (recvKey sheaf gatewayB ring)).up

/-- A flit is replayed: the gateway counts it. -/
def replayFlit (s : State) (sheaf : Nat) (gatewayB : Bool) (ring : Nat) : State :=
  let k := recvKey sheaf gatewayB ring
  count (setLane s k { laneAt s k with replays := (laneAt s k).replays + 1 }) (rngReg sheaf (if gatewayB then 0x148 else 0x108)) 1

/-- BRIDGE_FLIT_CRC_ERROR. -/
def execBridgeFlitCrcError (sheaf : Nat) (gatewayB : Bool) (ring : Nat) (s : State) : Out State :=
  act s (laneUsed s sheaf gatewayB ring) (replayFlit s sheaf gatewayB ring)

/-- A lane retests its wires: `bad` failed wires of each group, spares for two of each. -/
def retrainLane (s : State) (sheaf : Nat) (gatewayB : Bool) (ring : Nat) (bad : List Nat) : State :=
  let k := recvKey sheaf gatewayB ring
  if bad.any fun n => decide (2 < n) then retireLane s sheaf gatewayB ring
  else setLane s k { laneAt s k with retrain := true, spared := (bad.take 9).foldl (· + ·) 0 }

/-- BRIDGE_LANE_RETRAIN: after more than 16 replays in 1 ms. -/
def execBridgeLaneRetrain (sheaf : Nat) (gatewayB : Bool) (ring : Nat) (badWires : List Nat) (s : State) : Out State :=
  act s (laneUsed s sheaf gatewayB ring && !(laneAt s (recvKey sheaf gatewayB ring)).retrain
      && decide (16 < (laneAt s (recvKey sheaf gatewayB ring)).replays))
    (retrainLane s sheaf gatewayB ring badWires)

/-- BRIDGE_LANE_RETRAIN_END: the lane takes new packets again. -/
def execBridgeLaneRetrainEnd (sheaf : Nat) (gatewayB : Bool) (ring : Nat) (s : State) : Out State :=
  act s (laneUsed s sheaf gatewayB ring && (laneAt s (recvKey sheaf gatewayB ring)).retrain)
    (setLane s (recvKey sheaf gatewayB ring) { laneAt s (recvKey sheaf gatewayB ring) with retrain := false, replays := 0 })

end Sys2Proof.Machine
end

