-- ==== Sys2Proof/Machine/Copies.lean ====
section
/-! DEFINITION. COPY (R302) and FILL (R207 to R209). -/

namespace Sys2Proof.Machine

/-- The stop from which a command's packets for a range go out: the page unit's of the sheaf that holds it, sheaf 0's for
host memory (R302) and, DESIGN CHOICE of log entry 81, for another device. -/
def copyStop (s : State) (a : Nat) : Nat := match resolve s a with
  | .vault v _ => pageStop (v / 128)
  | .sram c _ => pageStop (c / 128)
  | _ => pageStop 0

/-- The place of a range of one packet: a memory key, with other devices above every local one. -/
def placeOf (s : State) (a : Nat) : Option Nat := match resolve s a with
  | .vault v off => some (vaultKey v off)
  | .sram c off => some (sramKey c off)
  | .host b => some (hostKey b)
  | .remote d x => some (2 ^ 66 + d * 2 ^ 43 + x)
  | _ => none

/-- Two ranges of one length share a byte, by whatever names. -/
def rangesMeet (s : State) (a b n : Nat) : Bool :=
  (packets a n).any fun p => (packets b n).any fun q =>
    match placeOf s p.1, placeOf s q.1 with
    | some x, some y => decide (x < y + q.2) && decide (y < x + p.2)
    | _, _ => false

/-! ### COPY -/

def isCopy : WqCmd → Bool
  | .copy _ _ _ => true
  | _ => false

/-- Bytes are copied packet by packet. -/
def copyBytes (s : State) (src dst n : Nat) : Except Halt State :=
  (packets src n).foldlM (fun s p => do
    let stop := some (copyStop s (dst + (p.1 - src)))
    let (bs, _, s1) ← stopRead s stop p.1 p.2
    return relaxWrites s1 (← stopWrite s1 stop (dst + (p.1 - src)) bs)) s

/-- COPY runs to its end. -/
def runCopy (s : State) (q idx : Nat) : Except Halt State := match cmdAt s q idx with
  | some (.copy src dst n) =>
    if src % 32 ≠ 0 ∨ dst % 32 ≠ 0 ∨ n % 32 ≠ 0 then .error (.undefinedCase 48)
    else if rangesMeet s src dst n then .error (.undefinedCase 51)
    else do
      let s1 ← copyBytes s src dst n
      .ok (endItem s1 q idx stOk)
  | _ => .ok s

/-- COPY. -/
def execCopy (q idx : Nat) (s : State) : Out State := actE s (begins s q idx isCopy) (runCopy s q idx)

/-! ### FILL -/

def isFill : WqCmd → Bool
  | .fill _ _ _ => true
  | _ => false

/-- A pattern that the sense amplifiers write: all zeros or all ones. -/
def fastPattern (p : List Byte) : Bool := p.all (· == 0#8) || p.all (· == 0xFF#8)

/-- Parts of a range between row boundaries, with the fuel that they need. -/
def rowParts : Nat → Nat → Nat → List (Nat × Nat)
  | 0, _, _ => []
  | fuel + 1, a, n =>
    if n = 0 then []
    else
      let k := min n (2048 - a % 2048)
      (a, k) :: rowParts fuel (a + k) (n - k)

/-- The pattern over a number of bytes. -/
def fillBytes (p : List Byte) (n : Nat) : List Byte := (List.replicate (n / 32) p).flatten

/-- One part of a FILL: a whole row by a row operation of two activates, else a write. -/
def fillPart (p : List Byte) (s : State) (r : Nat × Nat) : Except Halt State :=
  match resolve s r.1 with
  | .vault v off =>
    if processorMode s v then .error (.undefinedCase 36)
    else do
      let s0 ← vaultFree s v off r.2 true
      let s1 ← writeVault s0 v off (fillBytes p r.2)
      if fastPattern p && r.2 == 2048 then
        .ok (count (regSet s1 (vltCtr v 1) (regGet s (vltCtr v 1))) (vltCtr v 2) 2)
      else .ok s1
  | .sram _ _ => stopWrite s none r.1 (fillBytes p r.2)
  | .none _ => .error (.undefinedCase 36)
  | _ => .error (.undefinedCase 48)

/-- FILL runs to its end. -/
def runFill (s : State) (q idx : Nat) : Except Halt State := match cmdAt s q idx with
  | some (.fill dst n p) =>
    if n = 0 then .ok (endItem s q idx stOk)
    else if dst % 32 ≠ 0 ∨ n % 32 ≠ 0 then .error (.undefinedCase 48)
    else do
      let s1 ← (rowParts (n / 2048 + 2) dst n).foldlM (fillPart p) s
      .ok (endItem s1 q idx stOk)
  | _ => .ok s

/-- FILL. -/
def execFill (q idx : Nat) (s : State) : Out State := actE s (begins s q idx isFill) (runFill s q idx)

end Sys2Proof.Machine
end

