-- ==== Sys2Proof/Machine/Fx.lean ====
section
/-! DEFINITION. REDUCE elements: their sizes, their sums, and the slots that they rest in (R90, R119, R264 to R268). -/

namespace Sys2Proof.Machine

/-! ### Sizes -/

/-- Bytes of one value in a packet, and of one destination slot, by EFMT. -/
def redBytes (efmt : Nat) : Nat := match efmt with
  | 0 => 4
  | 1 => 2
  | 2 => 16
  | _ => 64
def slotBytes (efmt : Nat) : Nat := match efmt with
  | 0 => 4
  | 1 => 2
  | 2 => 32
  | _ => 96

/-- Elements of a full packet. -/
def runElems (efmt : Nat) : Nat := 256 / redBytes efmt

/-- Bits of an FX value. -/
def fxBits (efmt : Nat) : Nat := if efmt = 3 then 512 else 128

/-! ### Sums (R265) -/

/-- The sum of two FX values of two anchors: value, bits lost, and a sum out of range. -/
def fxSum (w : Nat) (a1 a2 v1 v2 : Int) : Int × Bool × Bool :=
  let hi := max a1 a2
  let shift (a v : Int) : Int × Bool := (v / 2 ^ (hi - a).toNat, decide (v % 2 ^ (hi - a).toNat ≠ 0))
  let x := shift a1 v1
  let y := shift a2 v2
  let s := x.1 + y.1
  let r := signed w (unsigned w s)
  (r, x.2 || y.2, decide (r ≠ s))

/-- One element of a sum: its bytes, its EFLAGS (NAN, OVF) and its RFLAGS (UNDERSPILL, FCRANGE). -/
structure Elem where
  bytes : List Byte
  eflags : Nat
  rflags : Nat
  deriving DecidableEq, Repr

/-- Two elements added. -/
def addElem (efmt : Nat) (a1 a2 : Int) (x y : Elem) : Elem :=
  let fl := x.rflags ||| y.rflags
  let ef := x.eflags ||| y.eflags
  if efmt = 0 then ⟨leBytes 4 (add32 (leNat x.bytes) (leNat y.bytes)), ef, fl⟩
  else if efmt = 1 then
    let s := add32 (leNat x.bytes * 2 ^ 16) (leNat y.bytes * 2 ^ 16)
    ⟨leBytes 2 (roundFp bf16 .rne (of32 s)), ef, fl⟩
  else
    let w := fxBits efmt
    let r := fxSum w a1 a2 (signed w (leNat x.bytes)) (signed w (leNat y.bytes))
    ⟨leBytes (w / 8) (unsigned w r.1), ef ||| b2n r.2.2, fl ||| fxFlags r.2.1 r.2.2 (efmt = 3)⟩

/-- Element `i` of a run of values. -/
def elemOf (efmt : Nat) (data : List Byte) (eflags rflags i : Nat) : Elem :=
  ⟨slice data (i * redBytes efmt) (redBytes efmt), eflags / 4 ^ i % 4, rflags⟩

/-- Elements of a packet. -/
def redCount (p : Packet) : Nat := p.data.length / redBytes p.efmt

/-- EFLAGS of a list of elements. -/
def packEflags (es : List Elem) : Nat :=
  (es.zip (List.range es.length)).foldl (fun t p => t + p.1.eflags * 4 ^ p.2) 0

/-- Two REDUCE packets combine (R265). -/
def combine (p q : Packet) : Packet :=
  let es := (List.range (redCount p)).map fun i =>
    addElem p.efmt p.anchor q.anchor (elemOf p.efmt p.data p.eflags p.rflags i) (elemOf p.efmt q.data q.eflags q.rflags i)
  { p with
    data := es.flatMap (·.bytes)
    contrib := p.contrib + q.contrib
    rflags := es.foldl (fun t e => t ||| e.rflags) (p.rflags ||| q.rflags)
    eflags := packEflags es
    anchor := max p.anchor q.anchor }

/-- Packets that combine when they meet. -/
def sameRun (p q : Packet) : Bool :=
  p.rtag == q.rtag && p.addr == q.addr && p.dst == q.dst && p.efmt == q.efmt && redCount p == redCount q

/-! ### Slots (R119, R268) -/

/-- A destination slot after an element of anchor `a` has been added to it. -/
def addToSlot (efmt : Nat) (slot : List Byte) (a : Int) (e : Elem) : List Byte :=
  if efmt < 2 then (addElem efmt 0 0 ⟨slot, 0, 0⟩ e).bytes
  else
    let n := redBytes efmt
    let fl := fieldAt slot (n + 2) 1
    let sa := signed 16 (fieldAt slot n 2)
    let old : Elem := ⟨slice slot 0 n, fl % 4, fl / 4 % 4⟩
    let r := addElem efmt sa a old e
    r.bytes ++ leBytes 2 (unsigned 16 (max sa a)) ++ leBytes 1 (r.eflags + 4 * r.rflags) ++ slice slot (n + 3) (slotBytes efmt - n - 3)

/-- The address of a device that a packet carries: a striped one is resolved (R23). -/
def packetAddr (s : State) (a : Nat) : Nat := match resolve s a with
  | .vault v off => vaultAddr v off
  | .sram c off => 0x20000000000 + c * 2 ^ 24 + off
  | _ => a

end Sys2Proof.Machine
end

