-- ==== Sys2Proof/Machine/Dma.lean ====
section
/-! DEFINITION. DMV, DMS, DMR and DMH, and the requests of a DMA channel (R61, R131 to R135, R250). -/

namespace Sys2Proof.Machine

/-! ### Issue -/

/-- A descriptor as sampled at issue. -/
def dmaOp (s : State) (c : Nat) (k : DmaKind) (f : DmaF) : DmaOp :=
  let x := sval s c f.c
  let n := x / 2 ^ 32 % 2 ^ 16
  { seq := (coreAt s c).nextSeq, kind := k, addr := sval s c f.a, sram := sval s c f.b, bytes := x % 2 ^ 32
    lines := if n = 0 then 1 else n
    write := match k with
      | .dmv => false
      | .dms => true
      | _ => f.mdir
    merge := k == .dmv && f.mdir
    evt := f.evt, dstride := 32 * f.dstride, sstride := 32 * f.sstride, cls := (coreAt s c).cls
    started := false, left := 0 }

/-- SRAM ranges of a descriptor, if they lie in SRAM. -/
def dmaSpans (o : DmaOp) : List (Nat × Nat) :=
  if o.sram + (o.lines - 1) * o.sstride + o.bytes ≤ 0x800000 then (List.range o.lines).map fun l => (o.sram + l * o.sstride, o.bytes)
  else []

/-- A DMA instruction enters its channel's queue of eight. A transfer of zero bytes per line completes at once (R132);
that it does so on a channel whose queue is full, where R131 stalls, is the model's choice. -/
def issueDma (s : State) (c : Nat) (k : DmaKind) (f : DmaF) : Except Halt State :=
  let o := dmaOp s c k f
  if o.bytes = 0 then .ok (nextPc (takeSeq (setEvent s c f.evt) c) c)
  else if (channel s c f.ch).length < 8 then do
    let sp := dmaSpans o
    let s1 ← orderOp s c ⟨o.seq, .dma f.ch, false, some f.evt, if o.write then sp else [], if o.write then [] else sp⟩
    .ok (nextPc (takeSeq (setChannel s1 c f.ch (channel s1 c f.ch ++ [o])) c) c)
  else .ok s

/-- DMV: vault to SRAM. -/
def execDmv (core : Nat) (f : DmaF) (s : State) : Out State := tileOut s core (.dmv f) (issueDma s core .dmv f)

/-- DMS: SRAM to vault. -/
def execDms (core : Nat) (f : DmaF) (s : State) : Out State := tileOut s core (.dms f) (issueDma s core .dms f)

/-- DMR: another core's SRAM, or a remote device. -/
def execDmr (core : Nat) (f : DmaF) (s : State) : Out State := tileOut s core (.dmr f) (issueDma s core .dmr f)

/-- DMH: host memory. -/
def execDmh (core : Nat) (f : DmaF) (s : State) : Out State := tileOut s core (.dmh f) (issueDma s core .dmh f)

/-! ### The parts of a descriptor (R132, R250) -/

/-- One request: device address, SRAM offset, bytes. -/
structure DmaReq where
  addr : Nat
  sram : Nat
  bytes : Nat
  deriving DecidableEq, Repr

/-- The requests of a descriptor, in order. -/
def dmaParts (o : DmaOp) : List DmaReq :=
  (List.range o.lines).flatMap fun l =>
    let a := o.addr + l * o.dstride
    (packets a o.bytes).map fun p => ⟨p.1, o.sram + l * o.sstride + (p.1 - a), p.2⟩

/-- A place that the instruction's device side may name (Table 4.20). -/
def dmaWindow (c : Nat) (o : DmaOp) (a : Nat) (l : Loc) : Bool :=
  match o.kind, l with
  | .dmv, .vault _ _ => true
  | .dms, .vault _ _ => true
  | .dmr, .sram d _ => d != c || bit a 55
  | .dmr, .vault _ _ => bit a 55
  | .dmr, .remote _ _ => true
  | .dmh, .host _ => true
  | _, _ => false

/-- Alignment, windows and SRAM range (R132). -/
def dmaOk (s : State) (c : Nat) (o : DmaOp) : Bool :=
  o.addr % 32 == 0 && o.sram % 32 == 0 && o.bytes % 32 == 0
    && decide (o.sram + (o.lines - 1) * o.sstride + o.bytes ≤ 0x800000)
    && (dmaParts o).all fun r => dmaWindow c o r.addr (resolve s r.addr)

/-! ### Requests -/

/-- A request to the core's own vault waits in the shaft's queue (R14), in the order of issue; its queue holds 32, and those
beyond them wait at the DMA engine (R30, R31). -/
def shaftReq (s : State) (c ch : Nat) (o : DmaOp) (r : DmaReq) (off : Nat) : State :=
  let d := if o.write then readSram s c r.sram r.bytes 1 else ([], false, s)
  let q : VReq :=
    { write := o.write, off, bytes := r.bytes, data := d.1, merge := o.merge && r.bytes == 256, src := .shaft ch o.seq r.sram
      num := 0 }
  let s1 := updVault d.2.2 c fun v => { v with shaftQ := v.shaftQ ++ [{ q with num := v.nextNum }], nextNum := v.nextNum + 1 }
  coreEvent (levelWake s1 ⟨.vault, c⟩) c 0x0B (r.bytes / 32)

/-- A request over the rings, under a transaction tag; `ack` says whether a write asks for its acknowledgement. -/
def ringReq (s : State) (c ch : Nat) (o : DmaOp) (r : DmaReq) (ack : Bool) : State :=
  let src := coreStop c
  let a := packetAddr s r.addr
  let dst := (destStop s (c / 128) ch a).getD 0
  let s0 := coreEvent s c 0x0C (r.bytes / 32)
  if o.write then
    let d := readSram s0 c r.sram r.bytes 1
    let t := if ack then openTxn d.2.2 src (.dma c ch o.seq a r.sram r.bytes true) else (0, d.2.2)
    sendPacket t.2 src { writePacket ch o.cls src dst t.1 a d.1 with
      ackreq := ack, poison := d.2.1, owner := some (c, o.seq) }
  else
    let t := openTxn s0 src (.dma c ch o.seq a r.sram r.bytes false)
    sendPacket t.2 src { plainPacket .rdReq ch o.cls src dst t.1 a r.bytes with
      merge := o.merge && r.bytes == 256, owner := some (c, o.seq) }

/-- One request of a descriptor. The core's own vault is reached over its shaft (R14), by the own device ID of a DMR (R28)
as well, where Table 4.20 names the rings: the model takes R14. Of a DMH write, only the last asks for an acknowledgement (R133). -/
def dmaReq (c ch : Nat) (o : DmaOp) (last : Nat) (s : State) (r : DmaReq × Nat) : State :=
  let s1 := if o.merge && r.1.bytes == 256 then coreEvent s c 0x10 1 else s
  match resolve s r.1.addr with
  | .vault v off =>
    if v = c then shaftReq s1 c ch o r.1 off else ringReq s1 c ch o r.1 true
  | .host _ => ringReq s1 c ch o r.1 (!o.write || r.2 == last)
  | _ => ringReq s1 c ch o r.1 true

/-- A descriptor's destination is an output of its kernel (R104). -/
def dmaOut (c : Nat) (o : DmaOp) (s : State) (r : DmaReq) : State :=
  if !o.write then noteOut s c (sramKey c r.sram) r.bytes
  else match resolve s r.addr with
    | .vault v off => noteOut s c (vaultKey v off) r.bytes
    | .sram d off => noteOut s c (sramKey d off) r.bytes
    | .host bus => noteOut s c (hostKey bus) r.bytes
    | _ => s

/-- A descriptor of the channel before this one is still writing the SRAM that this one reads or writes: R134 orders the
issue of their requests, not what lands in SRAM. -/
def dmaRaces (s : State) (c ch : Nat) (o : DmaOp) : Bool :=
  (channel s c ch).any fun d => decide (d.seq < o.seq) && !d.write && meetAny (dmaSpans d) (dmaSpans o)

/-- A descriptor issues all its requests. -/
def startDma (s : State) (c ch : Nat) (o : DmaOp) (ups : List (Nat × Upset)) : Except Halt State :=
  if !dmaOk s c o then .error (.undefinedCase 20)
  else if dmaRaces s c ch o then .error (.undefinedCase 22)
  else
    let ps := dmaParts o
    let s0 := upsetWords s (ups.map fun u => (sramKey c (u.1 / 16 * 16), u.2))
    let s1 := setChannel s0 c ch ((channel s c ch).map fun d =>
      if d.seq = o.seq then
        { d with started := true, left := if o.kind = .dmh ∧ o.write then 1 else ps.length }
      else d)
    .ok ((ps.zip (List.range ps.length)).foldl (dmaReq c ch o (ps.length - 1)) (ps.foldl (dmaOut c o) s1))

/-- The next descriptor of a channel: the first that has not started (R134). -/
def nextDma (s : State) (c ch : Nat) : Option DmaOp := (channel s c ch).find? fun d => !d.started

/-- DMA_DESCRIPTOR_START. -/
def execDmaDescriptorStart (core ch : Nat) (upsets : List (Nat × Upset)) (s : State) : Out State :=
  actE s ((nextDma s core ch).isSome && domOn s ⟨.core, core⟩) (match nextDma s core ch with
    | some o => startDma s core ch o upsets
    | none => .ok s)

end Sys2Proof.Machine
end

