-- ==== Sys2Proof/Machine/Pages.lean ====
section
/-! DEFINITION. The page units, the tiller tree and the winnow units as the work queues use them (R156 to R173). -/

namespace Sys2Proof.Machine

/-! ### Order of commands at a unit (R166, R171) -/

/-- The page or winnow unit a command goes to: page unit of sheaf h as h, winnow unit as 8 + h. -/
def unitOf : WqCmd → Option Nat
  | .pageOp p => some p.sheaf
  | .tiller _ => some 0
  | .winnow p => some (8 + p.sheaf)
  | _ => none

/-- No earlier command of the queue still waits for the same unit. -/
def unitTurn (s : State) (q idx : Nat) : Bool :=
  match itemAt s q idx with
  | none => false
  | some i => ((queueAt s q).items.takeWhile fun e => e.idx != idx).all fun e =>
      !(itemLive e && (unitOf e.cmd).isSome && unitOf e.cmd == unitOf i.cmd)

/-! ### PAGE_OP (R160 to R166) -/

/-- A PAGE_OP with a sub-operation that satisfies a test. -/
def isPageOp (sub : Nat → Bool) : WqCmd → Bool
  | .pageOp p => sub p.sub
  | _ => false

/-- The operands of a PAGE_OP. -/
def pageOpAt (s : State) (q idx : Nat) : Option PageOpP := match cmdAt s q idx with
  | some (.pageOp p) => some p
  | _ => none

/-- Operands within the ranges of Table 5.10. -/
def pageOpOk (p : PageOpP) : Bool :=
  decide (p.sheaf < 8) && decide (1 ≤ p.count) && decide (p.count ≤ 4096) && p.table % 4 == 0
    && (p.sub != 0 || decide (p.vhint < 128)) && (p.sub != 1 || p.src % 4 == 0)

/-- Every page that a list names belongs to the sheaf, is valid, and lies in no PROCESSOR-mode vault. -/
def pagesOk (s : State) (h : Nat) (es : List Nat) : Except Halt Unit :=
  if (pagesOf es).any fun p => pageSheaf p != h || !pageValid s p then .error (.undefinedCase 26)
  else if (pagesOf es).any fun p => processorMode s (pageVault p) then .error (.undefinedCase 27)
  else .ok ()

/-- The state after a PAGE_OP has run or been turned away, with its status. -/
abbrev Done := Nat × State

/-- ALLOC: every entry takes a page. -/
def pageAlloc (s : State) (p : PageOpP) : Except Halt Done := do
  let (es, s1) ← getEntries (some (pageStop p.sheaf)) p.count s p.table
  if !(pagesOf es).isEmpty then .error (.undefinedCase 26)
  else if freePages s1 p.sheaf < p.count then return (stBusy, s1)
  else do
    let s2 ← (List.range p.count).foldlM (fun s n =>
      match pickAlloc s p.sheaf p.vhint with
      | none => .ok s
      | some w => putEntry (some (pageStop p.sheaf)) (undefPage (takePage s w) w) (p.table + 4 * n) w) s1
    return (stOk, s2)

/-- SHARE: the source entries are copied, with a reference more to each page. Where SRC and TABLE overlap, every source
entry is read before any is written: the spec is silent, and this is the model's choice. -/
def pageShare (s : State) (p : PageOpP) : Except Halt Done := do
  let (es, s1) ← getEntries (some (pageStop p.sheaf)) p.count s p.src
  pagesOk s1 p.sheaf es
  if (pagesOf es).any fun x => decide (65535 < refCount s1 x + tally es x) then return (stBusy, s1)
  else do
    let s2 ← (List.range p.count).foldlM (fun s n =>
      let x := (es[n]?).getD noPage
      putEntry (some (pageStop p.sheaf)) (if x = noPage then s else addRef s x) (p.table + 4 * n) x) s1
    return (stOk, s2)

/-- COW of one entry. Table 5.11 names counts of 1 and above; that an entry whose page has count 0 stays is the model's
choice. -/
def cowEntry (p : PageOpP) (s : State) (n : Nat) : Except Halt State := do
  let (x, s1) ← getEntry (some (pageStop p.sheaf)) s (p.table + 4 * n)
  if x = noPage ∨ refCount s1 x ≤ 1 then .ok s1
  else match pickCow s1 x with
    | none => .ok s1
    | some w => do
      let s2 ← copyPage (some (pageStop p.sheaf)) (takePage s1 w) x w
      putEntry (some (pageStop p.sheaf)) (dropRef s2 x) (p.table + 4 * n) w

/-- COW: each page with more than one reference is replaced by a private copy. -/
def pageCow (s : State) (p : PageOpP) : Except Halt Done := do
  let (es, s1) ← getEntries (some (pageStop p.sheaf)) p.count s p.table
  pagesOk s1 p.sheaf es
  if freePages s1 p.sheaf < ((pagesOf es).filter fun x => decide (1 < refCount s1 x)).length then return (stBusy, s1)
  else do
    let s2 ← (List.range p.count).foldlM (cowEntry p) s1
    return (stOk, s2)

/-- FREE: a reference to each page is dropped and the entries become NONE. -/
def pageFree (s : State) (p : PageOpP) : Except Halt Done := do
  let (es, s1) ← getEntries (some (pageStop p.sheaf)) p.count s p.table
  pagesOk s1 p.sheaf es
  let s2 ← (List.range p.count).foldlM (fun s n =>
    let x := (es[n]?).getD noPage
    if x = noPage then .ok s else putEntry (some (pageStop p.sheaf)) (dropRef s x) (p.table + 4 * n) noPage) s1
  return (stOk, s2)

/-- Another outstanding command of a page unit names entries of this one's table or writes those of its source (R165). -/
def unitsCross (s : State) (q idx : Nat) (c : WqCmd) : Bool :=
  s.wq.queues.any fun e => e.2.items.any fun i =>
    itemLive i && !(e.1 == q && i.idx == idx)
      && (meetAny (tableRanges s c) (tableRanges s i.cmd ++ sourceRanges s i.cmd)
        || meetAny (sourceRanges s c) (tableRanges s i.cmd))

/-- A PAGE_OP names entries or pages of an open step (R182). -/
def namesStep (s : State) (c : WqCmd) : Bool :=
  s.guard.steps.any fun e => e.2.phase != .held && meetAny (tableRanges s c ++ sourceRanges s c) (stepRanges s e.2)

/-- A PAGE_OP runs: BAD_STATE while its sheaf is STALE or initialises (R159). -/
def runPageOp (s : State) (q idx : Nat) (f : State → PageOpP → Except Halt Done) : Except Halt State :=
  match pageOpAt s q idx with
  | none => .ok s
  | some p =>
    if !pageOpOk p then .error (.undefinedCase 48)
    else if pageUnitDown s p.sheaf then .ok (endItem s q idx stBadState)
    else if !unitsTogether s then .error (.undefinedCase 25)
    else if unitsCross s q idx (.pageOp p) then .error (.undefinedCase 28)
    else if namesStep s (.pageOp p) then .error (.undefinedCase 31)
    else do
      let (st, s1) ← f s p
      .ok (endItem s1 q idx st)

/-- PAGE_OP_ALLOC; a reserved SUB has no meaning of its own. -/
def execPageOpAlloc (q idx : Nat) (s : State) : Out State :=
  actE s (begins s q idx (isPageOp fun n => n == 0 || decide (3 < n)) && unitTurn s q idx)
    (runPageOp s q idx fun s p => if p.sub = 0 then pageAlloc s p else .error (.undefinedCase 48))

/-- PAGE_OP_SHARE. -/
def execPageOpShare (q idx : Nat) (s : State) : Out State :=
  actE s (begins s q idx (isPageOp (· == 1)) && unitTurn s q idx) (runPageOp s q idx pageShare)

/-- PAGE_OP_COW. -/
def execPageOpCow (q idx : Nat) (s : State) : Out State :=
  actE s (begins s q idx (isPageOp (· == 2)) && unitTurn s q idx) (runPageOp s q idx pageCow)

/-- PAGE_OP_FREE. -/
def execPageOpFree (q idx : Nat) (s : State) : Out State :=
  actE s (begins s q idx (isPageOp (· == 3)) && unitTurn s q idx) (runPageOp s q idx pageFree)

/-! ### Initialisation (R158) -/

/-- The registers' COUNT, SLOT and BASE lie in their ranges and the pool with its metadata below the limit
(R157). -/
def poolOk (s : State) (h : Nat) : Bool :=
  let r := regGet s (pguReg h 0)
  let u : PageUnit := { count := bits r 54 32, slot := bits r 26 18, base := bits r 17 0, refs := [] }
  u.count == 0 || (decide (1 ≤ u.slot)
    && decide ((metaRange u).2 ≤ (if licensed s 2 then 0x1DFC0000 else 0x1E000000)))

/-- Sheaves that must be initialised again before the next command of a page unit, once sheaf `h` is: all others, if the
units stood together until now (R158). -/
def others (s : State) (h : Nat) : List Nat := if unitsTogether s then sheaves.filter (· ≠ h) else s.pages.lost

/-- A write of 1 to PGU_CTRL.INIT: the pool values are latched and initialisation starts; the metadata regions and
the tiller table hold what the page unit writes. -/
def startInit (s : State) (h : Nat) : State :=
  let r := regGet s (pguReg h 0)
  let u : PageUnit := { count := bits r 54 32, slot := bits r 26 18, base := bits r 17 0, refs := [] }
  let s1 := setUnit s h u
  let vs := ((List.range 128).map fun i => h * 128 + i).filter fun v => vaultInService s v
  let lo := (metaRange u).1
  let n := (metaRange u).2 - lo
  let inRange (k : Nat) : Bool :=
    vs.contains (k / 2 ^ 30) && ((decide (lo ≤ k % 2 ^ 30) && decide (k % 2 ^ 30 < lo + n))
      || (licensed s 2 && decide (tillerBase ≤ k % 2 ^ 30))) && decide (k < 2 ^ 40)
  let s2 := { s1 with
    mem := s1.mem.filter fun e => !inRange e.1
    marks := s1.marks.filter fun e => !inRange e.1
    pages := { s1.pages with tiller := s1.pages.tiller.filter fun e => e.1 / 2 ^ 32 ≠ h, lost := others s h } }
  regFlag s2 (pguReg h 0x10) 0 true

/-- PAGE_OP and TILLER_LOOKUP commands are outstanding somewhere in the device (R158). -/
def pageUnitsBusy (s : State) : Bool :=
  s.wq.queues.any fun e => e.2.items.any fun i =>
    itemLive i && (isPageOp (fun _ => true) i.cmd || unitOf i.cmd == some 0)

/-- A write of 1 to PGU_CTRL.INIT, only while no such command is outstanding in the device. -/
def initUnit (s : State) (h : Nat) : Except Halt State :=
  orUndef (!pageUnitsBusy s) 1 (orUndef (poolOk s h) 24 (.ok (startInit s h)))

/-- PGU_CTRL_INIT. -/
def execPguCtrlInit (sheaf : Nat) (s : State) : Out State :=
  actE s (s.boot.dev != .boot && decide (sheaf < 8)) (initUnit s sheaf)

/-- PGU_INIT_COMPLETE: every page is free; STALE and INIT_BUSY clear. -/
def execPguInitComplete (sheaf : Nat) (s : State) : Out State :=
  act s (bit (regGet s (pguReg sheaf 0x10)) 0)
    (regSetFld { s with pages := { s.pages with lost := s.pages.lost.filter fun h => h != sheaf } } (pguReg sheaf 0x10) 2 0 0)

/-! ### Tiller tree (R167 to R170) -/

/-- Mixing of one pair of tokens into a hash. -/
def tillerMix (h lo hi : Nat) : Nat :=
  let m := 2 ^ 64
  let w := (lo + hi * 2 ^ 32) * 0xBF58476D1CE4E5B9 % m
  let w := w ^^^ w / 2 ^ 31
  let h := (h ^^^ w) * 0x94D049BB133111EB % m
  h * 2 ^ 27 % m + h / 2 ^ 37

/-- tiller_hash of a block of 64 tokens (R167). -/
def tillerHash (prev : Nat) (tok : List Nat) : Nat :=
  let h := (List.range 32).foldl (fun h i => tillerMix h ((tok[2 * i]?).getD 0) ((tok[2 * i + 1]?).getD 0))
    (prev ^^^ 0x9E3779B97F4A7C15)
  let h := (h ^^^ h / 2 ^ 33) * 0xFF51AFD7ED558CCD % 2 ^ 64
  let h := h ^^^ h / 2 ^ 33
  if h = 0 then 1 else h

/-- The hashes of the blocks of a token string. -/
def hashChain : Nat → Nat → List Byte → List Nat
  | 0, _, _ => []
  | n + 1, prev, bs =>
    let h := tillerHash prev ((List.range 64).map fun i => fieldAt bs (4 * i) 4)
    h :: hashChain n h (bs.drop 256)

/-- In-service vaults of a sheaf, as local numbers. -/
def serviceLocals (s : State) (h : Nat) : List Nat := (List.range 128).filter fun i => vaultInService s (h * 128 + i)

/-- Sheaf and bucket of a hash, and the vault that holds the bucket (R168); `none` for a sheaf without vaults. -/
def bucketOf (s : State) (x : Nat) : Option (Nat × Nat × Nat) :=
  let h := x / 2 ^ 61
  let vs := serviceLocals s h
  if vs.isEmpty then none
  else
    let k := x % 2 ^ 32 % (2048 * vs.length)
    some (h, k, h * 128 + (vs[k / 2048]?).getD 0)

/-- Key of a way of a bucket. -/
def wayKey (h k w : Nat) : Nat := h * 2 ^ 32 + k * 8 + w

/-- The ways of a bucket that hold an entry. -/
def bucketWays (s : State) (h k : Nat) : List (Nat × TillerEntry) :=
  (List.range 8).filterMap fun w => (FMap.find s.pages.tiller (wayKey h k w)).map fun e => (w, e)

/-- The way that holds a hash. -/
def findHash (s : State) (h k x : Nat) : Option (Nat × TillerEntry) := (bucketWays s h k).find? fun e => e.2.hash == x

/-- An entry of the tree is written or removed. -/
def setTiller (s : State) (key : Nat) (e : Option TillerEntry) : State :=
  { s with pages := { s.pages with tiller := match e with
    | some x => FMap.set s.pages.tiller key x
    | none => FMap.drop s.pages.tiller key } }

/-- The next use stamp. -/
def nextStamp (s : State) : Nat × State :=
  (s.pages.stamp, { s with pages := { s.pages with stamp := s.pages.stamp + 1 } })

/-- The way with the oldest use stamp. -/
def oldestWay (l : List (Nat × TillerEntry)) : Option (Nat × TillerEntry) :=
  l.foldl (fun b e => match b with
    | none => some e
    | some x => if e.2.stamp < x.2.stamp then some e else some x) none

/-- A hash's bucket can be used: its sheaf's units are initialised and its vault is in MEMORY mode. -/
def bucketReady (s : State) (h v : Nat) : Except Halt Unit :=
  if pageUnitDown s h then .error (.undefinedCase 25)
  else if processorMode s v then .error (.undefinedCase 39)
  else .ok ()

/-- Progress of a TILLER_LOOKUP: MATCHED, the hash of the last block, whether it has stopped, the state. -/
structure TillerRun where
  matched : Nat
  last : Nat
  stopped : Bool
  s : State

/-- LOOKUP of one block. That the block which missed is the last one processed (R170) is the model's choice. -/
def lookupBlock (p : TillerP) (r : TillerRun) (b x : Nat) : Except Halt TillerRun :=
  if r.stopped then .ok r
  else match bucketOf r.s x with
    | none => .ok { r with last := x, stopped := true }
    | some (h, k, v) => do
      bucketReady r.s h v
      match findHash r.s h k x with
      | none => return { r with last := x, stopped := true }
      | some (w, e) =>
        if 65535 ≤ refCount r.s e.page then return { r with last := x, stopped := true }
        else do
          let (st, s1) := nextStamp r.s
          let s2 ← putEntry (some (pageStop 0)) (addRef (setTiller s1 (wayKey h k w) (some { e with stamp := st })) e.page)
            (p.table + 4 * b) e.page
          return { matched := r.matched + 1, last := x, stopped := false, s := s2 }

/-- The way that a new entry takes: a free one, else that of the oldest entry, whose reference is dropped. -/
def makeRoom (s : State) (h k : Nat) : Nat × State :=
  let used := bucketWays s h k
  match (List.range 8).find? fun w => used.all fun e => e.1 != w with
  | some w => (w, s)
  | none => match oldestWay used with
    | some (w, e) => (w, dropRef (setTiller s (wayKey h k w) none) e.page)
    | none => (0, s)

/-- INSERT of one block. -/
def insertBlock (p : TillerP) (r : TillerRun) (b x : Nat) : Except Halt TillerRun := do
  let (pg, s1) ← getEntry (some (pageStop 0)) r.s (p.table + 4 * b)
  match bucketOf s1 x with
  | none => return { r with last := x, s := s1 }
  | some (h, k, v) => do
    bucketReady s1 h v
    match findHash s1 h k x with
    | some _ => return { r with last := x, s := s1 }
    | none =>
      if !pageValid s1 pg then .error (.undefinedCase 26)
      else if 65535 ≤ refCount s1 pg then return { r with last := x, s := s1 }
      else
        let (w, s2) := makeRoom s1 h k
        let (st, s3) := nextStamp s2
        return { matched := r.matched + 1, last := x, stopped := false,
                 s := addRef (setTiller s3 (wayKey h k w) (some ⟨x, pg, st⟩)) pg }

/-- REMOVE of one block. -/
def removeBlock (p : TillerP) (r : TillerRun) (b x : Nat) : Except Halt TillerRun := do
  let (pg, s1) ← getEntry (some (pageStop 0)) r.s (p.table + 4 * b)
  match bucketOf s1 x with
  | none => return { r with last := x, s := s1 }
  | some (h, k, v) => do
    bucketReady s1 h v
    match findHash s1 h k x with
    | some (w, e) =>
      if e.page = pg then
        return { matched := r.matched + 1, last := x, stopped := false,
                 s := dropRef (setTiller s1 (wayKey h k w) none) pg }
      else return { r with last := x, s := s1 }
    | none => return { r with last := x, s := s1 }

def isTiller (sub : Nat → Bool) : WqCmd → Bool
  | .tiller p => sub p.sub
  | _ => false

/-- Operands within the ranges of Table 5.12. -/
def tillerOk (p : TillerP) : Bool :=
  decide (1 ≤ p.blocks) && decide (p.blocks ≤ 4096) && p.input % 32 == 0 && p.table % 4 == 0 && p.result % 32 == 0

/-- The hashes of a command's blocks, read or computed (R169). -/
def tillerHashes (s : State) (p : TillerP) : Except Halt (List Nat × State) := do
  if p.hashed then
    let (bs, _, s1) ← stopRead s (some (pageStop 0)) p.input (8 * p.blocks)
    return ((List.range p.blocks).map fun i => fieldAt (slice bs (8 * i) 8) 0 8, s1)
  else
    let (bs, _, s1) ← stopRead s (some (pageStop 0)) p.input (256 * p.blocks)
    return (hashChain p.blocks p.salt bs, s1)

/-- A TILLER_LOOKUP works through its blocks and writes its result record. -/
def runTiller (s : State) (q idx : Nat) (f : TillerP → TillerRun → Nat → Nat → Except Halt TillerRun) :
    Except Halt State :=
  match cmdAt s q idx with
  | some (.tiller p) =>
    if !tillerOk p then .error (.undefinedCase 48)
    else if pageUnitDown s 0 then .ok (endItem s q idx stBadState)
    else if !unitsTogether s then .error (.undefinedCase 25)
    else if unitsCross s q idx (.tiller p) then .error (.undefinedCase 28)
    else do
      let (hs, s1) ← tillerHashes (endItem s q idx stOk) p
      let r ← (hs.zip (List.range hs.length)).foldlM (fun r x => f p r x.2 x.1) ⟨0, 0, false, s1⟩
      let s2 ← stopWrite r.s (some (pageStop 0)) p.result (leBytes 4 r.matched ++ zeros 4 ++ leBytes 8 r.last ++ zeros 16)
      .ok s2
  | _ => .ok s

/-- TILLER_LOOKUP; a reserved SUB has no meaning of its own. -/
def execTillerLookup (q idx : Nat) (s : State) : Out State :=
  actE s (begins s q idx (isTiller fun n => n == 0 || decide (2 < n)) && unitTurn s q idx)
    (orUndef (match cmdAt s q idx with
      | some (.tiller p) => p.sub == 0
      | _ => true) 48 (runTiller s q idx lookupBlock))

/-- TILLER_INSERT. -/
def execTillerInsert (q idx : Nat) (s : State) : Out State :=
  actE s (begins s q idx (isTiller (· == 1)) && unitTurn s q idx) (runTiller s q idx insertBlock)

/-- TILLER_REMOVE. -/
def execTillerRemove (q idx : Nat) (s : State) : Out State :=
  actE s (begins s q idx (isTiller (· == 2)) && unitTurn s q idx) (runTiller s q idx removeBlock)

/-! ### WINNOW (R171 to R173) -/

def isWinnow : WqCmd → Bool
  | .winnow _ => true
  | _ => false

/-- A sequence of the batch: ID, length, input index, bucket. -/
structure Seq where
  id : Nat
  len : Nat
  idx : Nat
  bucket : Nat
  deriving DecidableEq, Repr

/-- The bucket of a length. -/
def bucketFor (p : WinnowP) (n : Nat) : Nat :=
  ((List.range (p.nb - 1)).find? fun k => decide (n ≤ (p.bound[k]?).getD 0)).getD (p.nb - 1)

/-- The order of the output: bucket, then descending length, then input index. -/
def seqBefore (a b : Seq) : Bool :=
  decide (a.bucket < b.bucket) || (a.bucket == b.bucket &&
    (decide (b.len < a.len) || (a.len == b.len && decide (a.idx < b.idx))))

/-- A sequence put in its place. -/
def insertSeq (x : Seq) : List Seq → List Seq
  | [] => [x]
  | y :: ys => if seqBefore x y then x :: y :: ys else y :: insertSeq x ys

/-- The batch in output order. -/
def sortSeqs (l : List Seq) : List Seq := l.foldr insertSeq []

/-- Adjacent bounds rise. -/
def ascending : List Nat → Bool
  | [] => true
  | [_] => true
  | a :: b :: l => decide (a < b) && ascending (b :: l)

/-- Operands within the ranges of Table 5.14. -/
def winnowOk (p : WinnowP) : Bool :=
  decide (p.sheaf < 8) && decide (1 ≤ p.nb) && decide (p.nb ≤ 16) && decide (1 ≤ p.n) && decide (p.n ≤ 65536)
    && p.input % 32 == 0 && p.output % 32 == 0 && p.summary % 32 == 0

/-- A descriptor (R172). -/
def seqBytes (x : Seq) : List Byte :=
  leBytes 4 x.id ++ leBytes 4 x.len ++ leBytes 4 x.idx ++ leBytes 1 x.bucket ++ zeros 3

/-- The summary: first descriptor and count of each bucket; an empty one starts at N. -/
def winnowSummary (p : WinnowP) (l : List Seq) : List Byte :=
  (List.range 16).flatMap fun k =>
    let c := (l.filter fun x => x.bucket == k).length
    let start := if c = 0 then p.n else (l.filter fun x => decide (x.bucket < k)).length
    leBytes 4 start ++ leBytes 4 c

/-- A range lies in vault windows or in the host memory window. -/
def inVaultOrHost (s : State) (a n : Nat) : Bool :=
  [a, a + n - 1].all fun x => match resolve s x with
    | .vault _ _ => true
    | .host _ => true
    | _ => false

/-- Input, output and summary lie where they must and share no memory, by whatever windows (R171). -/
def winnowPlaced (s : State) (p : WinnowP) : Bool :=
  let i := 8 * p.n
  let o := roundUp (16 * p.n) 32
  inVaultOrHost s p.input i && inVaultOrHost s p.output o && inVaultOrHost s p.summary 128
    && !meetAny (placeKeys s p.input i) (placeKeys s p.output o ++ placeKeys s p.summary 128)
    && !meetAny (placeKeys s p.output o) (placeKeys s p.summary 128)

/-- The batch is read, sorted and written. -/
def sortBatch (s : State) (p : WinnowP) : Except Halt State := do
  let (bs, _, s1) ← stopRead s (some (pageStop p.sheaf)) p.input (8 * p.n)
  let seqs := (List.range p.n).map fun i =>
    let len := fieldAt bs (8 * i + 4) 4
    (⟨fieldAt bs (8 * i) 4, len, i, bucketFor p len⟩ : Seq)
  let l := sortSeqs seqs
  let out := l.flatMap seqBytes
  let s2 ← stopWrite s1 (some (pageStop p.sheaf)) p.output (out ++ zeros (roundUp (16 * p.n) 32 - 16 * p.n))
  stopWrite s2 (some (pageStop p.sheaf)) p.summary (winnowSummary p l)

/-- A WINNOW runs. -/
def runWinnow (s : State) (q idx : Nat) : Except Halt State :=
  match cmdAt s q idx with
  | some (.winnow p) =>
    if !winnowOk p then .error (.undefinedCase 48)
    else if !ascending (p.bound.take (p.nb - 1)) then .error (.undefinedCase 30)
    else if !winnowPlaced s p then .error (.undefinedCase 1)
    else sortBatch (endItem s q idx stOk) p
  | _ => .ok s

/-- WINNOW. -/
def execWinnow (q idx : Nat) (s : State) : Out State :=
  actE s (begins s q idx isWinnow && unitTurn s q idx) (runWinnow s q idx)

end Sys2Proof.Machine
end

