-- ==== Sys2Proof/Machine/Stoby.lean ====
section
/-! DEFINITION. Stoby: ring packets as frames and frames as ring packets (R319 to R327). -/

namespace Sys2Proof.Machine

/-! ### STOBY_OPERATION_SEND (R320, R321, R326) -/

/-- What a ring packet at a link stop asks for: OP, device, destination sheaf, local address. -/
structure OpHead where
  op : Nat
  dev : Nat
  dsheaf : Nat
  addr : Nat
  deriving DecidableEq, Repr

/-- The sheaf that owns a local address at another device; of its striped window, whose stripe set this device does
not know, a free value. -/
def ownerSheaf (s : State) (a : Nat) : Nat :=
  if a < 0x10000000000 then bits a 39 37
  else if 0x20000000000 ≤ a ∧ a < 0x20400000000 then (a - 0x20000000000) / 2 ^ 24 / 128
  else if 0x10000000000 ≤ a ∧ a < 0x18000000000 then Config.choose s.free a % 8
  else 0

/-- The operation of a packet that carries a remote address. -/
def remoteHead (s : State) (op a : Nat) : OpHead := ⟨op, bits a 54 43, ownerSheaf s (a % 2 ^ 43), a % 2 ^ 43⟩

/-- The operation that a packet at a link stop is made into (Table 11.5). -/
def opHead (s : State) (p : Packet) : Option OpHead := match p.ty with
  | .wr => some (remoteHead s 1 p.addr)
  | .rdReq => some (remoteHead s 2 p.addr)
  | .reduce => some (remoteHead s 4 p.addr)
  | .signal => some (if p.data.isEmpty then remoteHead s 5 p.addr
      else ⟨6, bits p.addr 54 43, 0, bits p.addr 20 5⟩)
  | .rdResp => match FMap.find s.rings.out p.txn with
    | some (.stobyRead _ _ _ dev sheaf _ _ _) => some ⟨3, dev, sheaf, p.addr % 2 ^ 43⟩
    | _ => none
  | _ => none

/-- The packet that a link stop takes next: the first of class 0 that has reached it, else the first (R327). -/
def nextAtLink (s : State) (stop : Nat) : Option (Nat × Packet) :=
  let here := s.rings.flight.filter fun e => e.2.dst == stop && (opHead s e.2).isSome
  match here.find? fun e => e.2.cls == 0 with
  | some e => some e
  | none => here.head?

/-- Requester's tag and stop that a frame carries. -/
def frameTag (s : State) (p : Packet) : Nat × Nat := match FMap.find s.rings.out p.txn, p.ty with
  | some (.stobyRead _ src txn _ _ _ _ _), .rdResp => (txn, src)
  | _, _ => (p.txn, p.src)

/-- The frame of a packet in a context. -/
def frameOf (s : State) (p : Packet) (h : OpHead) (x : SendCtx) (l : Nat) : Frame :=
  let t := frameTag s p
  let rev := (findRecv s h.dev h.dsheaf x.sheaf x.cls).map (·.2.next)
  { blankFrame with
    op := h.op, syn := x.syn, poison := p.poison, acknow := Config.choose s.free 1 % 2 == 1
    srcDev := ownDev s, srcSheaf := x.sheaf, dstDev := h.dev, dstSheaf := h.dsheaf, cls := p.cls
    psn := x.nextPsn, apsn := rev.getD (Config.freeNat s.free 0 % 2 ^ 32), addr := h.addr, txn := t.1
    bytes := if h.op = 6 then 0 else if h.op = 2 then p.bytes else p.data.length
    srcstop := t.2, aux := if h.op = 5 then p.ev + 2 ^ 15 * b2n p.release.isSome else 0
    value := if h.op = 6 then leNat p.data else 0, tstamp := nowNs s, rtag := p.rtag, rcount := p.rcount, relems := p.relems
    contrib := p.contrib, anchor := p.anchor, efmt := p.efmt, rflags := p.rflags, eflags := p.eflags
    payload := if h.op = 6 then [] else p.data, srcLink := l }

/-- A new send context: a random initial PSN, and the rate of its path set. -/
def newSend (s : State) (sheaf : Nat) (h : OpHead) (cls : Nat) : SendCtx :=
  { sheaf, dev := h.dev, dsheaf := h.dsheaf, cls, nextPsn := Config.freeNat s.free 2 % 2 ^ 32, syn := true, unacked := []
    ackedFrom := [], entropy := Config.freeNat s.free 3 % 2 ^ 14, spray := [], rate := pathRate s sheaf cls, alpha := 0, acks := 0, marked := 0 }

/-- The context of an operation, opened where there is none and room for one. -/
def openSend (s : State) (sheaf : Nat) (h : OpHead) (cls : Nat) : Option (Nat × SendCtx × State) :=
  match findSend s sheaf h.dev h.dsheaf cls with
  | some (c, x) => some (c, x, s)
  | none =>
    if !sendRoom s sheaf then none
    else
      let x := newSend s sheaf h cls
      let n := s.stoby.nextCtx
      some (n, x, { s with stoby := { s.stoby with nextCtx := n + 1, send := FMap.set s.stoby.send n x } })

/-- A reply to a Stoby READ is on its way: the READ has been performed. -/
def readAnswered (s : State) (p : Packet) : State := match FMap.find s.rings.out p.txn, p.ty with
  | some (.stobyRead _ _ _ _ _ _ ctx psn), .rdResp => stobyPerformed (closeTxn s p.txn) ctx psn
  | _, _ => s

/-- The transaction that waits for a frame's acknowledgement. -/
def ackTxn (p : Packet) : Option Nat := match p.ty with
  | .wr => if p.ackreq then some p.txn else none
  | .signal => some p.txn
  | _ => none

/-- A frame is sent in a context. -/
def sendFrame (s : State) (id : Nat) (p : Packet) (h : OpHead) (c : Nat) (x : SendCtx) : State :=
  match pickPath s x (pathSet s x) with
  | none => s
  | some (path, x1) =>
    let f := frameOf s p h x path.1
    let e : Sent := ⟨f, path, rtoOf s x.sheaf, 0, ackTxn p⟩
    let y := { x1 with nextPsn := psnNext x.nextPsn, unacked := x.unacked ++ [e] }
    readAnswered (sendStoby (setSend (takeFlight s id) c y) path.1 f path.2 x.entropy) p

/-- An operation waits for a context: counted once. -/
def waitCtx (s : State) (sheaf id : Nat) (p : Packet) : State :=
  if p.held = 8 then s
  else event { s with rings := { s.rings with flight := FMap.set s.rings.flight id { p with held := 8 } } }
    (stbReg sheaf 0) 1 (stbReg sheaf 0x38)

/-- The next packet of a link stop becomes a frame. -/
def sendOp (s : State) (stop : Nat) : State :=
  match nextAtLink s stop with
  | none => s
  | some (id, p) => match opHead s p with
    | none => s
    | some h => match openSend s (stop / 256) h p.cls with
      | none => waitCtx s (stop / 256) id p
      | some (c, x, s1) =>
        if x.unacked.length < psnWindow ∧ pathSet s1 x ≠ [] then sendFrame s1 id p h c x else s

/-- STOBY_OPERATION_SEND. -/
def execStobyOperationSend (stop : Nat) (s : State) : Out State := act s (stopLink stop).isSome (sendOp s stop)

/-! ### Frames received (R315, R320 to R325) -/

/-- The device takes Stoby frames on a link. -/
def stobyOpen (s : State) (l : Nat) (f : Frame) : Bool :=
  (s.boot.dev == .ready || s.boot.dev == .job) && s.boot.linksReady && ownId s f.dstDev && linkUp s l && decide (f.dstSheaf < 8)

/-- The destination of an operation's ring packet; register and host windows are no targets (R28). -/
def opDest (s : State) (l a : Nat) : Except Halt Nat :=
  match localLoc s a with
  | .vault v _ => .ok (coreStop v)
  | .sram c _ => .ok (coreStop c)
  | .none k => .error (.undefinedCase k)
  | _ => if l < 32 then .error (.undefinedCase 5) else .error (.undefinedCase 1)

/-- A WRITE becomes a WR with ACKREQ. -/
def performWriteOp (s : State) (c l : Nat) (f : Frame) : Except Halt State := do
  let dst ← opDest s l f.addr
  let (t, s1) := openTxn s (linkStop l) (.stoby c f.psn)
  .ok (sendPacket s1 (linkStop l) { writePacket (addrRing f.addr) f.cls (linkStop l) dst t (packetAddr s f.addr) f.payload with
    remote := true, poison := f.poison })

/-- A READ becomes an RD_REQ, never merged. -/
def performReadOp (s : State) (c l : Nat) (f : Frame) : Except Halt State := do
  let dst ← opDest s l f.addr
  let (t, s1) := openTxn s (linkStop l) (.stobyRead (linkStop l) f.srcstop f.txn f.srcDev f.srcSheaf f.cls c f.psn)
  .ok (sendPacket s1 (linkStop l) { plainPacket .rdReq (addrRing f.addr) f.cls (linkStop l) dst t (packetAddr s f.addr) f.bytes with
    remote := true })

/-- A READ_RESP becomes an RD_RESP to SRCSTOP; a poisoned one is an uncorrectable error here too (R212). -/
def performRespOp (s : State) (c l : Nat) (f : Frame) : State :=
  let s1 := sendPacket s (linkStop l) { plainPacket .rdResp (addrRing f.addr) f.cls (linkStop l) f.srcstop f.txn f.addr f.payload.length with
    remote := true, poison := f.poison, data := f.payload }
  let s2 := if f.poison then detectUe s1 3 (linkStop l) f.addr else s1
  stobyPerformed s2 c f.psn

/-- A REDUCE_WRITE becomes a REDUCE. -/
def performReduceOp (s : State) (c l : Nat) (f : Frame) : Except Halt State := do
  let dst ← opDest s l f.addr
  let s1 := sendPacket s (linkStop l) { plainPacket .reduce (addrRing f.addr) f.cls (linkStop l) dst 0 (packetAddr s f.addr) f.bytes with
    remote := true, poison := f.poison, data := f.payload, efmt := f.efmt, rtag := f.rtag, rcount := f.rcount
    relems := f.relems, contrib := f.contrib, anchor := f.anchor, rflags := f.rflags, eflags := f.eflags }
  .ok (stobyPerformed s1 c f.psn)

/-- An ATOMIC sets its event bit. -/
def performAtomicOp (s : State) (c : Nat) (f : Frame) : Except Halt State :=
  match localLoc s f.addr with
  | .sram d _ => .ok (stobyPerformed (setEvent s d (f.aux % 64)) c f.psn)
  | .none _ => .error (.undefinedCase 21)
  | _ => .error (.undefinedCase 1)

/-- A DOORBELL rings a queue: its time is that at which the frame reached the link (R329). -/
def performBellOp (s : State) (c : Nat) (f : Frame) (t0 : Nat) : Except Halt State := do
  let s1 ← ringBell s (f.addr % 2 ^ 16) f.value t0
  .ok (stobyPerformed s1 c f.psn)

/-- A frame's operation starts; the frame reached its link at `t0`. -/
def performOp (s : State) (c l : Nat) (f : Frame) (t0 : Nat) : Except Halt State := match f.op with
  | 1 => performWriteOp s c l f
  | 2 => performReadOp s c l f
  | 3 => .ok (performRespOp s c l f)
  | 4 => performReduceOp s c l f
  | 5 => performAtomicOp s c f
  | _ => performBellOp s c f t0

/-- Frames of the reorder window start in PSN order, at most `n` of them. -/
def startFrames : Nat → State → Nat → Nat → Except Halt State
  | 0, s, _, _ => .ok s
  | n + 1, s, c, l => match recvAt s c with
    | none => .ok s
    | some x => match FMap.find x.window x.start with
      | none => .ok s
      | some (f, t0) => do
        let s1 := setRecv s c { x with window := FMap.drop x.window x.start, start := psnNext x.start }
        let s2 ← performOp s1 c l f t0
        startFrames n s2 c l

/-- A frame's acknowledgement is due; its path carries it. -/
def oweAck (s : State) (x : RecvCtx) (l : Nat) (f : Frame) : RecvCtx :=
  { x with
    sinceAck := x.sinceAck + 1, ackNow := x.ackNow || f.acknow || f.syn, lastTs := f.tstamp, link := (l, f.srcLink)
    ece := x.ece || (f.ceMarked && s.links.cfg.ecn && s.links.cfg.encap != 0) }

/-- A frame reaches its receive context: performed once, held for its turn, or discarded as a duplicate (R322). -/
def intoContext (s : State) (c l : Nat) (x : RecvCtx) (f : Frame) (t0 : Nat) : Except Halt State :=
  let y := oweAck s x l f
  if psnWindow ≤ psnDist f.psn x.next ∨ x.finished.contains f.psn then
    .ok (count (setRecv s c { y with ackNow := true }) (stbReg x.dsheaf 0x20) 1)
  else if receivedPsn x f.psn then .ok (setRecv s c y)
  else startFrames (psnWindow + 1) (setRecv s c { y with window := FMap.set x.window f.psn (f, t0) }) c l

/-- A new receive context, opened by a SYN frame. -/
def newRecv (l : Nat) (f : Frame) : RecvCtx :=
  { dev := f.srcDev, sheaf := f.srcSheaf, dsheaf := f.dstSheaf, cls := f.cls, next := f.psn, start := f.psn, window := [], finished := []
    sinceAck := 0, ackNow := false, lastTs := f.tstamp, ece := false, link := (l, f.srcLink) }

/-- The acknowledgement that a data frame carries for the reverse context. -/
def piggyback (s : State) (f : Frame) : State := match findSend s f.dstSheaf f.srcDev f.srcSheaf f.cls with
  | some (c, _) => takeApsn s c f.apsn
  | none => s

/-- A SYN frame whose PSN lies outside both windows of a receive context opens the sender's next context of that key
(R321): the sender has closed the one before. -/
def opensAnew (x : RecvCtx) (f : Frame) : Bool :=
  f.syn && decide (psnWindow ≤ psnDist f.psn x.next) && decide (psnWindow < psnDist x.next f.psn)

/-- A data frame is received: without a context and without SYN the answer is a RESET (R325). -/
def takeFrame (s0 : State) (l : Nat) (f : Frame) (t0 : Nat) : Except Halt State :=
  let s := piggyback s0 f
  match findRecv s f.srcDev f.srcSheaf f.dstSheaf f.cls with
  | some (c, x) => if opensAnew x f then intoContext (setRecv s c (newRecv l f)) c l (newRecv l f) f t0 else intoContext s c l x f t0
  | none =>
    if !f.syn then .ok (sendStoby s l (resetFrame s l f) f.srcLink (Config.freeNat s.free 9))
    else if !recvRoom s f.dstSheaf then .ok s
    else
      let c := s.stoby.nextCtx
      let x := newRecv l f
      intoContext { s with stoby := { s.stoby with nextCtx := c + 1, recv := FMap.set s.stoby.recv c x } } c l x f t0

/-! ### Acknowledgements received (R324, R325, R327) -/

/-- The context is opened anew with SYN. -/
def reopen (s : State) (c : Nat) (x : SendCtx) : State :=
  bump (setSend s c { x with syn := true, nextPsn := Config.freeNat s.free 2 % 2 ^ 32, ackedFrom := [] })

/-- An ACK with RESET. -/
def resetAck (s : State) (c : Nat) (x : SendCtx) : State :=
  if x.unacked.isEmpty then reopen s c x else losePeer s x.sheaf x.dev 1

/-- An ACK is marked: congestion echoed, or a round trip above RTT_TGT. -/
def ackMarked (s : State) (f : Frame) : Bool := f.ece || decide (1000 * s.links.cfg.rttTgt < nowNs s - f.tstamp)

/-- An ACK without RESET. -/
def plainAck (s : State) (c : Nat) (x : SendCtx) (f : Frame) : State :=
  let y := { x with
    syn := false, acks := x.acks + 1, marked := x.marked + b2n (ackMarked s f)
    ackedFrom := if x.ackedFrom.contains f.srcLink then x.ackedFrom else x.ackedFrom ++ [f.srcLink] }
  let s1 := takeApsn (setSend s c y) c f.apsn
  (unackedPsns s1 c).foldl (fastRetx c f.apsn f.value) s1

/-- An ACK reaches its send context. -/
def takeAck (s : State) (f : Frame) : State := match findSend s f.dstSheaf f.srcDev f.srcSheaf f.cls with
  | none => s
  | some (c, x) => if f.reset then resetAck s c x else plainAck s c x f

/-! ### The other steps of a context -/

/-- STOBY_ACK_SEND (R323): what is due is acknowledged, on the path of the frame that prompted it, while that link is up
(R313, R326). -/
def execStobyAckSend (ctx : Nat) (s : State) : Out State := match recvAt s ctx with
  | none => .next s
  | some x =>
    act s ((decide (0 < x.sinceAck) || x.ackNow) && linkUp s x.link.1)
      (sendStoby (setRecv s ctx { x with sinceAck := 0, ackNow := false, ece := false }) x.link.1 (ackFrame s x) x.link.2
        (Config.freeNat s.free 9))

/-- The frame of a context with a PSN. -/
def sentOf (s : State) (ctx psn : Nat) : Option (SendCtx × Sent) := match sendAt s ctx with
  | none => none
  | some x => (x.unacked.find? fun e => e.frame.psn == psn).map fun e => (x, e)

/-- STOBY_RETX_TIMER (R324): the frame again, and its timer doubled up to 6.4 ms. -/
def execStobyRetxTimer (ctx psn : Nat) (s : State) : Out State := match sentOf s ctx psn with
  | none => .next s
  | some (x, e) => act s true (resend s ctx x e (min (2 * e.rtoUs) 6400))

/-- STOBY_PEER_TIMEOUT (R325). -/
def execStobyPeerTimeout (ctx : Nat) (s : State) : Out State := match sendAt s ctx with
  | none => .next s
  | some x => act s (!x.unacked.isEmpty) (losePeer s x.sheaf x.dev 0)

/-- STOBY_CONTEXT_CLOSE (R321). -/
def execStobyContextClose (ctx : Nat) (s : State) : Out State := match sendAt s ctx with
  | none => .next s
  | some x => act s x.unacked.isEmpty (dropSend s ctx)

/-- α and R after 10 µs (R327). -/
def nextRate (x : SendCtx) (top : Rat) : SendCtx :=
  let f : Rat := if x.acks = 0 then 0 else (x.marked : Rat) / (x.acks : Rat)
  let a := x.alpha + (f - x.alpha) / 16
  let r := if x.marked = 0 then min (x.rate + 5) top else x.rate * (1 - a / 2)
  { x with alpha := a, rate := max 1 r, acks := 0, marked := 0 }

/-- STOBY_RATE_UPDATE. -/
def execStobyRateUpdate (ctx : Nat) (s : State) : Out State := match sendAt s ctx with
  | none => .next s
  | some x => act s (x.cls != 0) (setSend s ctx (nextRate x (pathRate s x.sheaf x.cls)))

end Sys2Proof.Machine
end

