-- ==== Sys2Proof/Machine/Links.lean ====
section
/-! DEFINITION. Links: bring-up and loss, LINKS_READY, flow control, address resolution and discarded frames
(R312 to R318, R328). -/

namespace Sys2Proof.Machine

/-! ### Bring-up (R312 to R314) -/

/-- Lanes of a mode of Table 11.1, of which one group must be good. -/
def modeLanes (m : Nat) : List Nat := match m with
  | 0 => [0xFF]
  | 1 => [0x0F, 0xF0]
  | 2 => [0x03, 0x0C, 0x30, 0xC0]
  | 3 => [0xFF]
  | 4 => [0x0F, 0xF0]
  | 5 => [0x03, 0x0C, 0x30, 0xC0]
  | _ => []

/-- A mode that the good lanes permit. -/
def modeFits (bad m : Nat) : Bool := (modeLanes m).any fun g => bad &&& g == 0

/-- A mode that the link may come up in: the forced one, or one that its good lanes permit. -/
def modeAllowed (s : State) (bad m : Nat) : Bool :=
  modeFits bad m && (!s.links.cfg.force || m == s.links.cfg.fmode)

/-- Lanes that fail training are marked bad. -/
def markLanes (s : State) (l bad : Nat) : State :=
  regSetFld s (lnkReg l 0) 23 16 (regFld s (lnkReg l 0) 23 16 ||| bad % 256)

/-- The link is up in a mode and joins the path sets and the candidate ports. -/
def linkComesUp (s : State) (l m : Nat) : State :=
  let s1 := regSetFld (regFlag s (lnkReg l 0) 1 true) (lnkReg l 0) 11 8 m
  setLink s1 l { linkAt s1 l with training := false }

/-- One run of the bring-up: lanes that fail, and the mode that the link comes up in, if any. -/
def bringUp (s : State) (l : Nat) (b : Bringup) : State :=
  let s1 := markLanes s l b.badLanes
  match b.mode with
  | some m =>
    if modeAllowed s (regFld s1 (lnkReg l 0) 23 16) m then linkComesUp s1 l m
    else setLink s1 l { linkAt s1 l with training := false }
  | none => setLink s1 l { linkAt s1 l with training := false }

/-- A link that is enabled and powered, and is not up. -/
def linkTries (s : State) (l : Nat) : Bool :=
  decide (l < 32) && bit (regGet s (lnkReg l 0)) 0 && !linkUp s l && domOn s ⟨.link, l⟩

/-- LINK_BRINGUP. -/
def execLinkBringup (link : Nat) (b : Bringup) (s : State) : Out State :=
  act s (linkTries s link && (linkAt s link).training) (noteLink s (bringUp s link b) link)

/-- LINK_RETRY_TIMER: a link that did not come up tries again. -/
def execLinkRetryTimer (link : Nat) (s : State) : Out State :=
  act s (linkTries s link && !(linkAt s link).training) (setLink s link { linkAt s link with training := true })

/-- A link goes down and restarts its bring-up; the event is counted and no fault. -/
def linkFalls (s : State) (l : Nat) : State :=
  let s1 := event (leavePaths s l) (lnkReg l 0) 24 (lnkReg l 8)
  setLink s1 l { linkAt s1 l with training := true }

/-- LINK_DOWN: block lock is lost or uncorrectable codewords were too many; those are counted. -/
def execLinkDown (d : LinkLoss) (s : State) : Out State :=
  act s (decide (d.link < 32) && linkUp s d.link) (noteLink s (count (linkFalls s d.link) (lnkReg d.link 0x18) d.uncorr) d.link)

/-! ### LINKS_READY (R315) -/

/-- Links that are up, and that are enabled. -/
def linksUp (s : State) : Nat := ((List.range 32).filter (linkUp s)).length
def linksOn (s : State) : Nat := ((List.range 32).filter fun l => bit (regGet s (lnkReg l 0)) 0).length

/-- LINKS_READY: enough links are up, or 2 s have passed since training began at CONFIG_READY. -/
def execLinksReady (timeout : Bool) (s : State) : Out State :=
  act s (s.boot.dev != .boot && !s.boot.linksReady && (timeout || decide (min s.links.cfg.minlinks (linksOn s) ≤ linksUp s)))
    { s with boot := { s.boot with linksReady := true } }

/-! ### Received frames -/

/-- The link engines take frames: LINKS_READY is declared and the device has an ID (R315). -/
def framesTaken (s : State) : Bool := s.boot.linksReady && !s.links.cfg.unassigned

/-- A frame is discarded and counted in LNK_RX_DROP. -/
def dropFrame (s : State) (l : Nat) : State := count s (lnkReg l 0x10) 1

/-! ### Priority flow control (R328) -/

/-- The named priorities are paused for the quanta given; zero quanta end a pause, and what waited leaves. -/
def pausePrios (s : State) (l prios quanta : Nat) : State :=
  let q := ([0, 1, 2, 3].filter fun c => bit prios (clsPrio s c)).foldl (fun m c =>
    if quanta = 0 then FMap.drop m c else FMap.set m c quanta) (linkAt s l).pauseQuanta
  flushLink (count (setLink s l { linkAt s l with pauseQuanta := q }) (lnkCtr l 5) 1) l

/-- PFC_PAUSE_EXPIRY. -/
def execPfcPauseExpiry (link cls : Nat) (s : State) : Out State :=
  act s (FMap.getD (linkAt s link).pauseQuanta cls 0 != 0)
    (flushLink (setLink s link { linkAt s link with pauseQuanta := FMap.drop (linkAt s link).pauseQuanta cls }) link)

/-! ### Addresses (R318) -/

/-- An ARP request for the link's own address is answered to the MAC that asked. -/
def answerArp (s : State) (l ip mac : Nat) : State :=
  if ip = linkIp4 s l then handFrame (bump s) l (etherFrame s l (mac % 2 ^ 48) 0x0806 (.arpReply ip (linkMac s l))) else s

/-- A neighbour solicitation for the link's own address is answered. -/
def answerSolicit (s : State) (l ip mac : Nat) : State :=
  if ip = linkIp6 s l then handFrame (bump s) l (etherFrame s l (mac % 2 ^ 48) 0x86DD (.neighbourAdvert ip (linkMac s l))) else s

/-- With ROUTED, an answer for the switch's address gives its MAC, and what waited for it leaves. -/
def learnSwitch (s : State) (l mac : Nat) : State :=
  if s.links.cfg.routed then flushLink (setLink s l { linkAt s l with switchMac := some (mac % 2 ^ 48) }) l else s

/-! ### RECEIVED_FRAME_DISCARD (R315, R318 to R320) -/

/-- A received frame is discarded, and counted where the rule says so. -/
def discardFrame (s : State) (l : Nat) (why : BadFrame) : State := match why with
  | .notAccepted => dropFrame s l
  | .badIcrc => count s (stbReg (l / 4) 0x28) 1
  | .reservedOp => count s (stbReg (l / 4) 0x30) 1
  | .early => s

end Sys2Proof.Machine
end

