-- ==== Sys2Proof/Machine/Time.lean ====
section
/-! DEFINITION. What passes with one nanosecond: DTIME, its corrections, its bound, and the end of a 1PPS_OUT pulse
(R330, R333 to R336). -/

namespace Sys2Proof.Machine

/-- The sign of a correction, as a step of 1 ns. -/
def unitStep (c : Int) : Int := if 0 < c then 1 else if c < 0 then -1 else 0

/-- What the bound of HOLDOVER gains in the nanosecond after `n` (Table 11.6). -/
def holdGrowth (s : State) (n : Nat) : Nat :=
  (n + 1) * s.time.cfg.holdPpb / 1000000000 - n * s.time.cfg.holdPpb / 1000000000

/-- A 1PPS_OUT pulse that is high stays so for 1 ms (R335). -/
def pulseHigh (s : State) : Bool :=
  let n := nowNs s % 1000000000
  s.time.ppsOut && !(decide (1000000 ≤ n) && decide (n < 999999995))

/-- Nanoseconds without an edge of 1PPS_IN after which it is lost as a source: one and a half of its periods. -/
def ppsPatience : Nat := 1500000000

/-- The edges of 1PPS_IN have stopped. -/
def ppsLost (s : State) : Bool := match s.time.ppsAt with
  | some t => decide (t + ppsPatience < nowNs s)
  | none => false

/-- A nanosecond with the time unit running: a slew moves DTIME by 1 ns in every 5,000 (200 ppm), and the servo absorbs
its correction at a rate that is open. -/
def runNs (s : State) : State :=
  let t := s.time
  let n := nowNs s
  let slew := if t.slewing ∧ t.slewTick % 5000 = 4999 then unitStep t.slewLeft else 0
  let servo := if !t.slewing ∧ Config.choose s.free n % 2 = 1 then unitStep t.servo else 0
  bump { s with time := { t with
    dtime := (t.dtime + ((1 + slew + servo).toNat) * 2 ^ 16) % 2 ^ 80
    slewLeft := t.slewLeft - slew
    slewTick := (t.slewTick + 1) % 5000
    servo := t.servo - servo
    bound := if t.slewing then t.bound - slew.natAbs
      else if t.st = .holdover then min noBound (t.bound + holdGrowth s n) else t.bound
    ppsOut := pulseHigh s } }

/-- A nanosecond with the time unit stopped: the always-on domain drives its estimate, one tick at a time. -/
def sleepNs (s : State) (stop bound n : Nat) : State :=
  { s with time := { s.time with
    dtime := (stop + sleepTicks (n + 1) * sleepPeriod s) % 2 ^ 80
    asleep := some (stop, bound, n + 1)
    ppsOut := pulseHigh s } }

/-- One nanosecond of device time. -/
def tick (s : State) : State :=
  if !powered s then s
  else match s.time.asleep with
    | some (a, b, n) => sleepNs s a b n
    | none => if ppsLost s then sourceLost (runNs s) else runNs s

end Sys2Proof.Machine
end

