-- ==== Sys2Proof/Machine/TimeCmds.lean ====
section
/-! DEFINITION. The time unit: Precision Time Protocol, the pulse input and output, references, calibration and
corrections of DTIME (R330 to R336). -/

namespace Sys2Proof.Machine

/-- The state with the time unit changed. -/
def updTime (s : State) (f : Time → Time) : State := { s with time := f s.time }

/-! ### Corrections (R333, R334) -/

/-- The lock bound: 100 ns and the servo's offset estimate (Table 11.6). -/
def lockBound (c : Int) : Nat := 100 + c.natAbs

/-- An offset within ±100 ns is counted; the sixteenth in succession locks, while no slew is in progress. -/
def noteOffset (s : State) (c : Int) : State :=
  let n := if c.natAbs ≤ 100 then s.time.good + 1 else 0
  let s1 := updTime s fun t => { t with good := n, offset := c }
  if 16 ≤ n ∧ !s.time.slewing then updTime (setTimeSt s1 .locked) fun t => { t with bound := lockBound c }
  else if s.time.st = .locked then updTime s1 fun t => { t with bound := lockBound c }
  else s1

/-- DTIME steps forward by a correction, which leaves no offset. -/
def stepBy (s : State) (c : Int) : State := updTime s fun t => { t with
  dtime := t.dtime + c.toNat * 2 ^ 16, servo := 0, good := 0, offset := 0, bound := if t.st = .locked then lockBound 0 else t.bound }

/-- A slew at ±200 ppm begins: HOLDOVER, with the remaining correction in the bound. -/
def startSlew (s : State) (c : Int) : State :=
  setTimeSt (updTime s fun t => { t with slewing := true, slewLeft := c, slewTick := 0, servo := 0, good := 0, bound := c.natAbs + lockBound 0 }) .holdover

/-- A measured correction c = master time − DTIME is applied (R334). -/
def applyCorrection (s : State) (c : Int) : State :=
  let thr : Int := s.time.cfg.stepThr
  if s.time.st = .unset ∧ !s.time.sourced ∧ 0 < c then stepBy s c
  else if -thr ≤ c ∧ c ≤ thr then noteOffset (updTime s fun t => { t with servo := c }) c
  else if thr < c ∧ s.time.cfg.stepOk then count (stepBy s c) (hubReg 0x50028) 1
  else startSlew s c

/-- A source gives a correction; during a slew it is only noted. -/
def correct (s : State) (c : Int) : State :=
  if s.time.slewing then updTime s fun t => { t with offset := c }
  else updTime (applyCorrection s c) fun t => { t with sourced := true }

/-- The time unit runs. -/
def timeRuns (s : State) : Bool := s.time.asleep.isNone && domOn s ⟨.time, 0⟩

/-! ### Announce (R331, R332) -/

/-- A PTP message of the configured domain and transport on a candidate port. -/
def ptpTaken (s : State) (l domain encap : Nat) : Bool :=
  timeRuns s && s.time.cfg.ptp && candidate s l && domain == s.time.cfg.domain && encap == s.time.cfg.encap

/-- The best Announce of a port: the latest of its sender, or a better master's. -/
def keepAnnounce (s : State) (l : Nat) (d : AnnounceDs) : State :=
  let best := match FMap.find s.time.announces l with
    | none => d
    | some x => if x.sender = d.sender ∨ dsBetter d x then d else x
  updTime s fun t => { t with announces := FMap.set t.announces l best }

/-- An Announce is received: the active port follows the comparison. -/
def takeAnnounce (s : State) (l : Nat) (d : AnnounceDs) : State :=
  if ptpTaken s l d.domain d.encap then reselect (keepAnnounce s l d) else s

/-- ANNOUNCE_TIMEOUT: the active port has missed ANN_TMO Announce intervals. -/
def execAnnounceTimeout (s : State) : Out State := match s.time.active with
  | none => .next s
  | some p => act s true (dropPort s p)

/-! ### Sync and delay (R331, R332, R334) -/

/-- A MAC timestamp lies within ±4 ns of the passage at `t0`. -/
def stampOk (m : PtpStamp) (t0 : Nat) : Bool := decide ((m.local_ - (t0 : Int)).natAbs ≤ 4)

/-- A message of the active port. -/
def onActive (s : State) (l : Nat) : Bool := s.time.active == some l

/-- A timestamp corrected by the link's asymmetry. -/
def asymOf (s : State) (l : Nat) : Int := (s.time.cfg.asym[l]?).getD 0

/-- A Sync is received at `t0`: its times wait for the Follow_Up of a two-step master, and for a Delay_Resp. -/
def takeSync (s : State) (l : Nat) (m : PtpStamp) (t0 : Nat) : State :=
  if ptpTaken s l m.domain m.encap && stampOk m t0 then
    let s1 := count s (lnkCtr l 7) 1
    if onActive s l then updTime s1 fun t => { t with sync := FMap.set t.sync l { m with local_ := m.local_ - asymOf s l } }
    else s1
  else s

/-- A Follow_Up gives the origin time of the Sync of its sequence number. -/
def takeFollowUp (s : State) (l : Nat) (m : PtpStamp) : State := match FMap.find s.time.sync l with
  | some y =>
    if ptpTaken s l m.domain m.encap ∧ y.twoStep ∧ y.seqId = m.seqId ∧ onActive s l then
      let z := { y with origin := m.origin, correction := y.correction + m.correction, twoStep := false }
      updTime s fun t => { t with sync := FMap.set t.sync l z }
    else s
  | none => s

/-- The active port sends a Delay_Req, timestamped within ±4 ns. -/
def sendDelayReq (s : State) (l : Nat) : State :=
  let at_ : Int := (nowNs s : Int) + (Config.choose s.free l % 9 : Nat) - 4 - asymOf s l
  let n := (s.time.delayReqId + 1) % 2 ^ 16
  count (handFrame (bump (updTime s fun t => { t with delayReqId := n, delayReqAt := some at_ })) l (delayReqOut s l n))
    (lnkCtr l 7) 1

/-- PTP_DELAY_REQ: while the class-0 priority of its link is not paused (R328); a link that sleeps wakes first. -/
def execPtpDelayReq (s : State) : Out State := match s.time.active with
  | none => .next s
  | some p =>
    act s (timeRuns s && candidate s p && !linkPaused s p 0)
      (if domOn s ⟨.link, p⟩ then sendDelayReq s p else levelWake s ⟨.link, p⟩)

/-- The correction that a Sync and a Delay_Resp measure: half the difference of the two one-way times. -/
def measured (y m : PtpStamp) (sent : Int) : Int :=
  -(((y.local_ - y.origin - y.correction) - (m.origin - m.correction - sent)) / 2)

/-- A Delay_Resp is received: an offset measurement is complete and DTIME is corrected. -/
def takeDelayResp (s : State) (l : Nat) (m : PtpStamp) : State :=
  match FMap.find s.time.sync l, s.time.delayReqAt with
  | some y, some sent =>
    if ptpTaken s l m.domain m.encap ∧ onActive s l ∧ m.seqId = s.time.delayReqId ∧ !y.twoStep then
      correct (updTime s fun t => { t with delayReqAt := none }) (measured y m sent)
    else s
  | _, _ => s

/-! ### 1PPS and TIMEREF (R335) -/

/-- The correction that an edge on a whole second measures. -/
def ppsOffset (s : State) : Int :=
  let n := nowNs s
  ((n + 500000000) / 1000000000 * 1000000000 : Nat) - (n : Int)

/-- PPS_IN_EDGE: a source while no PTP master is ranked, once the time of day is known. -/
def execPpsInEdge (s : State) : Out State :=
  act s (timeRuns s && s.time.cfg.pps && (bestPort s).isNone && s.time.st != .unset)
    (correct (updTime s fun t => { t with ppsAt := some (nowNs s) }) (ppsOffset s))

/-- TIMEREF_LOSS: counted; no state changes. -/
def execTimerefLoss (s : State) : Out State :=
  act s (s.time.cfg.timeref && !s.time.timerefLost)
    (count (updTime s fun t => { t with timerefLost := true }) (hubReg 0x50038) 1)

/-- DTIME is within 5 ns of a whole second. -/
def atSecond (s : State) : Bool := decide (nowNs s % 1000000000 ≤ 5) || decide (999999995 ≤ nowNs s % 1000000000)

/-- PPS_OUT_PULSE: 1PPS_OUT rises. -/
def execPpsOutPulse (s : State) : Out State :=
  act s (timeRuns s && s.time.cfg.ppsOut && atSecond s && (!s.time.cfg.ppsLock || s.time.st == .locked))
    (updTime s fun t => { t with ppsOut := true })

/-! ### Calibration, HOLDOVER and slews -/

/-- SLEEP_TICK_CALIBRATION: the period of the last window. -/
def execSleepTickCalibration (period : Nat) (s : State) : Out State :=
  act s (timeRuns s && decide (0 < period)) (updTime s fun t => { t with periods := (period % 2 ^ 48 :: t.periods).take 65 })

/-- HOLDOVER_BOUND_EXCEEDED: FR_BOUND is in µs. -/
def execHoldoverBoundExceeded (s : State) : Out State :=
  act s (s.time.st == .holdover && decide (1000 * s.time.cfg.frBound < s.time.bound))
    (updTime (setTimeSt s .freerun) fun t => { t with bound := noBound })

/-- TIME_SLEW_END: the correction has been absorbed. -/
def execTimeSlewEnd (s : State) : Out State :=
  act s (s.time.slewing && s.time.slewLeft == 0) (updTime s fun t => { t with slewing := false, bound := lockBound 0 })

end Sys2Proof.Machine
end

