-- ==== Sys2Proof/Machine/Receive.lean ====
section
/-! DEFINITION. Frames that a link receives (R315, R318 to R329, R331, R392): a link that is On takes them, a link in
Retention holds them in its receive buffer until it is On. -/

namespace Sys2Proof.Machine

/-- Bytes of a received frame; of those that other standards lay out, the smallest Ethernet frame. -/
def rxBytes (s : State) : RxFrame → Nat
  | .stoby f => frameBytes s f
  | _ => 64

/-- A Stoby frame is taken; what it adds to the receive buffer may call for an XOFF. -/
def takeStoby (s : State) (l : Nat) (f : Frame) (t0 : Nat) : Except Halt State :=
  if !stobyOpen s l f then .ok s
  else if f.op = 7 then .ok (takeAck s f)
  else (takeFrame s l f t0).map fun t => pfcCheck t l

/-- A frame that the link engines take, which reached the link at `t0`. -/
def takeRx (s : State) (l t0 : Nat) : RxFrame → Except Halt State
  | .stoby f => takeStoby s l f t0
  | .arp ip mac => .ok (answerArp s l ip mac)
  | .solicit ip mac => .ok (answerSolicit s l ip mac)
  | .resolved mac => .ok (learnSwitch s l mac)
  | .pfc prios quanta => .ok (if s.links.cfg.pfc then pausePrios s l prios quanta else dropFrame s l)
  | .announce d => .ok (takeAnnounce s l d)
  | .sync m => .ok (takeSync s l m t0)
  | .followUp m => .ok (takeFollowUp s l m)
  | .delayResp m => .ok (takeDelayResp s l m)
  | .bad why => .ok (discardFrame s l why)

/-- A PFC frame. -/
def isPfc : RxFrame → Bool
  | .pfc _ _ => true
  | _ => false

/-- A frame is processed: before LINKS_READY and without a device ID every frame but PFC is discarded and counted
(R315). -/
def processRx (s : State) (l t0 : Nat) (x : RxFrame) : Except Halt State :=
  let s1 := rxFrame s l (rxBytes s x)
  if framesTaken s || isPfc x then takeRx s1 l t0 x else .ok (dropFrame s1 l)

/-- A frame waits in the receive buffer of a link in Retention, which wakes. -/
def bufferRx (s : State) (l : Nat) (x : RxFrame) : State :=
  let y := linkAt s l
  levelWake (pfcCheck (setLink s l { y with rxBuf := y.rxBuf ++ [(x, nowNs s)] }) l) ⟨.link, l⟩

/-- A frame reaches a link that is up: a full receive buffer discards it (R328). -/
def receive (s : State) (l : Nat) (x : RxFrame) : Except Halt State :=
  if rxFull s l (rxBytes s x) then .ok s
  else if domOn s ⟨.link, l⟩ then processRx s l (nowNs s) x
  else .ok (bufferRx s l x)

/-- The meaning of a frame that a link receives. -/
def rxOut (s : State) (l : Nat) (x : RxFrame) : Out State := actE s (decide (l < 32) && linkUp s l) (receive s l x)

/-- The meaning of a received Stoby frame of one OP. -/
def frameOut (s : State) (op l : Nat) (f : Frame) : Out State :=
  actE s (decide (l < 32) && linkUp s l && f.op == op) (receive s l (.stoby f))

/-- The frames that a link received in Retention are processed, the oldest first, once it is On (R392). -/
def drainRx (l : Nat) : List (RxFrame × Nat) → State → Except Halt State
  | [], s => .ok s
  | e :: es, s => do
    let s1 ← processRx s l e.2 e.1
    drainRx l es s1

/-- A link has reached On: it processes what it received, and what waited for it leaves. -/
def linkReached (s : State) (l : Nat) : Except Halt State := do
  let s1 ← drainRx l (linkAt s l).rxBuf (setLink s l { linkAt s l with rxBuf := [] })
  return flushLink (pfcCheck s1 l) l

/-! ### The commands -/

/-- STOBY_WRITE. -/
def execStobyWrite (link : Nat) (f : Frame) (s : State) : Out State := frameOut s 1 link f
/-- STOBY_READ. -/
def execStobyRead (link : Nat) (f : Frame) (s : State) : Out State := frameOut s 2 link f
/-- STOBY_READ_RESP. -/
def execStobyReadResp (link : Nat) (f : Frame) (s : State) : Out State := frameOut s 3 link f
/-- STOBY_REDUCE_WRITE. -/
def execStobyReduceWrite (link : Nat) (f : Frame) (s : State) : Out State := frameOut s 4 link f
/-- STOBY_ATOMIC. -/
def execStobyAtomic (link : Nat) (f : Frame) (s : State) : Out State := frameOut s 5 link f
/-- STOBY_DOORBELL. -/
def execStobyDoorbell (link : Nat) (f : Frame) (s : State) : Out State := frameOut s 6 link f
/-- STOBY_ACK. -/
def execStobyAck (link : Nat) (f : Frame) (s : State) : Out State := frameOut s 7 link f
/-- PFC_FRAME_RECEIVE: without PFC the frame is discarded and counted (R328). -/
def execPfcFrameReceive (link prios quanta : Nat) (s : State) : Out State := rxOut s link (.pfc prios quanta)
/-- ARP_REQUEST. -/
def execArpRequest (link : Nat) (q : AddrQuery) (s : State) : Out State := rxOut s link (.arp q.ip q.mac)
/-- NEIGHBOUR_SOLICITATION. -/
def execNeighbourSolicitation (link : Nat) (q : AddrQuery) (s : State) : Out State := rxOut s link (.solicit q.ip q.mac)
/-- ADDRESS_RESOLUTION_REPLY: with ROUTED, the switch's MAC. -/
def execAddressResolutionReply (link mac : Nat) (s : State) : Out State := rxOut s link (.resolved mac)
/-- PTP_ANNOUNCE. -/
def execPtpAnnounce (link : Nat) (ds : AnnounceDs) (s : State) : Out State := rxOut s link (.announce ds)
/-- PTP_SYNC. -/
def execPtpSync (link : Nat) (m : PtpStamp) (s : State) : Out State := rxOut s link (.sync m)
/-- PTP_FOLLOW_UP. -/
def execPtpFollowUp (link : Nat) (m : PtpStamp) (s : State) : Out State := rxOut s link (.followUp m)
/-- PTP_DELAY_RESP. -/
def execPtpDelayResp (link : Nat) (m : PtpStamp) (s : State) : Out State := rxOut s link (.delayResp m)
/-- RECEIVED_FRAME_DISCARD. -/
def execReceivedFrameDiscard (link : Nat) (why : BadFrame) (s : State) : Out State := rxOut s link (.bad why)

end Sys2Proof.Machine
end

