-- ==== Sys2Proof/Machine/Steps.lean ====
section
/-! DEFINITION. Steps of the numerics guard as the work queues run them, and the guard's reports (R174 to R194). -/

namespace Sys2Proof.Machine

/-! ### STEP_BEGIN (R180, R181) -/

/-- ENTRIES of a STEP_BEGIN: 0 means 65,536. -/
def stepEntries (p : StepBeginP) : Nat := if p.entries = 0 then 65536 else p.entries

/-- Operands within the ranges of Table 6.2. -/
def stepBeginOk (p : StepBeginP) : Bool :=
  decide (2 ≤ stepEntries p) && decide (p.nreg ≤ 256) && p.regions % 32 == 0
    && (decide (p.maxrep ≤ 7) || p.maxrep == 0xFF)

/-- A region descriptor within the ranges of Table 6.3. -/
def regionOk (r : Region) : Bool :=
  r.live % 4 == 0 && r.work % 4 == 0 && decide (1 ≤ r.count) && decide (r.count ≤ 4096) && decide (r.sheaf < 8)

/-- Steps that are open in the device (GRD_STATUS.OPEN). -/
def openSteps (s : State) : Nat := (s.guard.steps.filter fun e => e.2.phase != .held).length

/-- The queue, the slots and the sheaves let a step begin (R181). -/
def stepAllowed (s : State) (q : Nat) (p : StepBeginP) (slots : List Nat) (rs : List Region) : Bool :=
  let x := queueAt s q
  (stepAt s q).isNone && x.cls != 0 && decide (stepEntries p ≤ qDepth x)
    && decide (stepEntries p - 1 ≤ qDepth (queueAt s x.cq)) && decide (openSteps s < 64)
    && slots.all (fun n => slotOn s n && !slotHeld s n) && rs.all (fun r => !pageUnitDown s r.sheaf)

/-- Pages that the regions of a sheaf name, and the state after reading them. -/
def needPages (s : State) (rs : List Region) (h : Nat) : Except Halt (Nat × State) :=
  rs.foldlM (fun (a : Nat × State) r =>
    if r.sheaf = h then do
      let (es, s1) ← livePages a.2 r
      return (a.1 + (pagesOf es).length, s1)
    else .ok a) (0, s)

/-- Every sheaf has pages for the shadows. -/
def shadowsFit (s : State) (rs : List Region) : Except Halt (Bool × State) :=
  sheaves.foldlM (fun (a : Bool × State) h => do
    let (n, s1) ← needPages a.2 rs h
    return (a.1 && decide (n ≤ freePages s1 h), s1)) (true, s)

/-- A slot joins a step: accumulators cleared, held, its scale record read. -/
def takeSlot (q : Nat) (s : State) (n : Nat) : Except Halt State := readScale (holdSlot (clearSlot s n) q n) n

/-- The step opens: slots, shadows, completion slots (R181, steps 1 to 6). -/
def openStep (s : State) (q idx : Nat) (p : StepBeginP) (slots : List Nat) (rs : List Region) : Except Halt State := do
  let s1 ← slots.foldlM (takeSlot q) s
  let s2 ← overRegions s1 rs takeShadow
  let n := stepEntries p - 1
  let s3 := updQueue s2 (queueAt s2 q).cq fun x => { x with used := x.used + n }
  let st : Step :=
    { stepid := p.stepid, tag := s3.guard.nextTag, beginIdx := idx, entries := n + 1, regionsAt := p.regions, regions := rs, slots := slots
      limit := if p.maxrep = 0xFF then regFld s3 (hubReg 0x40008) 2 0 else p.maxrep
      attempt := 1, phase := .running, reserved := n, commitIdx := idx }
  .ok (setStep { s3 with guard := { s3.guard with nextTag := s3.guard.nextTag + 1 } } q st)

/-- STEP_BEGIN opens a step or says why not. -/
def runStepBegin (s : State) (q idx : Nat) : Except Halt State :=
  match cmdAt s q idx with
  | some (.stepBegin p) =>
    if !stepBeginOk p then .error (.undefinedCase 48)
    else do
      let (bm, s1) ← devNat s p.slots 32
      let slots := bitList bm 256
      let (rs, s2) ← readRegions s1 p.regions p.nreg
      if !rs.all regionOk then .error (.undefinedCase 48)
      else if !stepAllowed s2 q p slots rs then .ok (endItem s2 q idx stBadState)
      else do
        let (fit, s3) ← shadowsFit s2 rs
        if !fit || decide (slotsLeft s3 (queueAt s3 q).cq < stepEntries p - 1) then .ok (endItem s3 q idx stBusy)
        else do
          let s4 ← openStep s3 q idx p slots rs
          .ok (endItem s4 q idx stOk)
  | _ => .ok s

/-- STEP_BEGIN. -/
def execStepBegin (q idx : Nat) (s : State) : Out State := actE s (begins s q idx isStepBegin) (runStepBegin s q idx)

/-! ### STEP_COMMIT and the evaluation (R184, R185) -/

def isStepCommit : WqCmd → Bool
  | .stepCommit _ => true
  | _ => false

/-- STEP_COMMIT runs: the open step that it names waits for its evaluation; any other does nothing (R184). -/
def runStepCommit (s : State) (q idx : Nat) : State := match stepAt s q, cmdAt s q idx with
  | some st, some (.stepCommit id) =>
    if st.phase ≠ .held ∧ st.stepid = id then
      setStep (startItem s q idx) q { st with phase := .committing, commitIdx := idx }
    else endItem s q idx stBadState
  | _, _ => endItem s q idx stBadState

/-- STEP_COMMIT. -/
def execStepCommit (q idx : Nat) (s : State) : Out State :=
  act s (begins s q idx isStepCommit) (runStepCommit s q idx)

/-- Every command of a step but its STEP_COMMIT has completed. -/
def stepReady (s : State) (q : Nat) (st : Step) : Bool :=
  st.phase == .committing && (stepItems s q st).all fun i => i.idx == st.commitIdx || i.phase == .ended

/-- The guard evaluates a step; a flush or a pail command that waited for it goes on. -/
def runEvaluation (s : State) (q : Nat) : Except Halt State := match stepAt s q with
  | none => .ok s
  | some st => do
    let s1 ← evaluateStep s q st
    let s2 ← tryFlushEnd (passHead s1 q) q
    settlePails s2

/-- STEP_EVALUATION. -/
def execStepEvaluation (q : Nat) (s : State) : Out State :=
  actE s (engineRuns s && match stepAt s q with
    | some st => stepReady s q st
    | none => false) (runEvaluation s q)

/-! ### Reports (R174 to R176) -/

/-- A report's step holds its slot. -/
def reportTaken (s : State) (r : Report) : Bool :=
  slotHeld s r.slot && match stepAt s (regFld s (slotReg r.slot 0x30) 31 16) with
    | some st => st.phase != .held && r.step == some st.tag
    | none => false

/-- A report's sums join the slot's. -/
def addReport (s : State) (r : Report) : State :=
  let a := slotAt s r.slot
  setSlot s r.slot { a with
    sumsq := (a.sumsq + r.sumsq) % 2 ^ 640
    amax := max a.amax r.amax
    nonfinite := a.nonfinite + r.nonfinite
    overflow := a.overflow || r.overflow
    underspill := a.underspill || r.underspill
    fcrange := a.fcrange || r.fcrange }

/-- A report is taken into its slot, or discarded as a stray. -/
def judgeReport (s : State) (r : Report) : State :=
  if reportTaken s r then addReport s r else event s (hubReg 0x40010) 8 (hubReg 0x40018)

/-- The guard acknowledges a DRAIN's report. -/
def ackReport (s : State) (r : Report) : State :=
  sendPacket s hubStop { plainPacket .msg 0 0 hubStop (coreStop r.core) 0 0 0 with owner := some (r.core, r.seq) }

/-- The guard acknowledges a report: a DRAIN's to its core; a GEMM, all of whose rows are written, ends with it. -/
def answerReport (s : State) (r : Report) : State := match r.item with
  | none => ackReport s r
  | some (q, idx) => endItem s q idx stOk

/-- The oldest report is taken and acknowledged. -/
def takeReport (s : State) : State := match s.guard.reports with
  | [] => s
  | r :: rs => answerReport (judgeReport { s with guard := { s.guard with reports := rs } } r) r

/-- GUARD_REPORT. -/
def execGuardReport (s : State) : Out State := act s (!s.guard.reports.isEmpty) (takeReport s)

end Sys2Proof.Machine
end

