-- ==== Sys2Proof/Machine/View.lean ====
section
/-! DEFINITION. What a register reads: the fields that follow other state of the block, and the stored value of the
rest (R11, R26, R65, R107, R158, R173, R221, R246, R274, R338, R402, R455). -/

namespace Sys2Proof.Machine

/-! ### Cores (Tables 2.7 to 2.9) -/

/-- A running FEED is still issuing slots: no cell has closed its last pass block. -/
def feedIssuing (x : CoreSt) : Bool := match x.feedRun with
  | none => false
  | some r => !slotsOut x (r.passes - 1)

/-- CORE_STATUS. -/
def coreStatusOf (s : State) (c : Nat) : Nat :=
  let x := coreAt s c
  b2n x.running + 2 * b2n (!x.feedQ.isEmpty || feedIssuing x) + 4 * b2n (!x.drainQ.isEmpty || x.drainWait.isSome)
    + 8 * b2n (x.dma.any fun e => !e.2.isEmpty) + 16 * regFld s (coreReg c 8) 4 4

/-- ARR_STATUS. -/
def arrStatusOf (s : State) (c : Nat) : Nat :=
  let x := coreAt s c
  min 4 x.feedQ.length + (match x.feedRun with
    | none => 0
    | some r => if feedIssuing x then 16 + 256 * (feedCols (feedMode s c r.op) r.op).length else 0)

/-- A register of a core's block. -/
def viewCore (s : State) (c off a : Nat) : Nat := match off with
  | 0x0000 => coreId s c
  | 0x0008 => coreStatusOf s c
  | 0x0100 => arrStatusOf s c
  | _ => regGet s a

/-! ### Vaults and row units (Tables 7.6 and 8.8) -/

/-- A scrub pass is in progress and not paused (R215). -/
def scrubActive (s : State) (v : Nat) : Bool :=
  bit (regGet s (vltReg v 0x30)) 8 && (domAt s ⟨.vault, v⟩).st == .on && !processorMode s v

/-- VLT_STATUS. -/
def vltStatusOf (s : State) (v : Nat) : Nat :=
  setBits (setBits (regGet s (vltReg v 0)) 1 1 (b2n (scrubActive s v))) 2 2 (b2n ((domAt s ⟨.vault, v⟩).st == .retention))

/-- ROW_STATUS. -/
def rowStatusOf (s : State) (v : Nat) : Nat :=
  let u := (vaultAt s v).row
  let busy := (u.banks.filter fun e => !e.2.isEmpty).length
  u.pc % 256 * 2 ^ 16 + min busy (regFld s (vltReg v 0x1008) 4 0) * 2 ^ 8 + 4 * b2n u.aborted + 2 * b2n u.job.isSome
    + regFld s (vltReg v 0x1000) 0 0

/-- Four 16-bit parameters of a program, from the `k`-th. -/
def rowParams (u : RowUnit) (k : Nat) : Nat :=
  (List.range 4).foldl (fun t i => t + (u.params[k + i]?).getD 0 % 2 ^ 16 * 2 ^ (16 * i)) 0

/-- A register of a vault's block. -/
def viewVault (s : State) (v off a : Nat) : Nat :=
  let u := (vaultAt s v).row
  if off = 0 then vltStatusOf s v
  else if off = 0x1000 then rowStatusOf s v
  else if off = 0x1020 then rowParams u 0
  else if off = 0x1028 then rowParams u 4
  else if 0x1040 ≤ off ∧ off < 0x1080 then
    let w := (u.sets[(off - 0x1040) / 16]?).getD 0
    if off % 16 = 0 then w % 2 ^ 64 else w / 2 ^ 64 % 2 ^ 16
  else if 0x1400 ≤ off ∧ off < 0x1800 then ((u.prog[(off - 0x1400) / 4]?).getD 0).toNat
  else regGet s a

/-! ### Rings and links (Tables 9.8, 9.10 and 11.9) -/

/-- Package rings of which some lane is retired or retraining. -/
def steeredRings (s : State) : Nat :=
  maskOf ((List.range 4).filter fun k => s.rings.lanes.any fun e => e.1 % 4 == k && (!e.2.up || e.2.retrain))

/-- RNG_BRG_A or RNG_BRG_B. -/
def bridgeView (s : State) (h : Nat) (b : Bool) : Nat :=
  let wires := (List.range 4).map fun k => (FMap.getD s.rings.lanes (8 * h + 4 * b2n b + k) .reset).spared
  brgUp s h b + laneBits s h b (·.retrain) * 2 ^ 8 + (wires.foldl (· + ·) 0) % 2 ^ 8 * 2 ^ 16

/-- A register of the RNG_ block. -/
def viewRng (s : State) (h off a : Nat) : Nat := match off with
  | 0x0008 => setBits (regGet s a) 7 4 (steeredRings s)
  | 0x0100 => bridgeView s h false
  | 0x0140 => bridgeView s h true
  | _ => regGet s a

/-- A register of a link's block: PAUSED and READY follow the link. -/
def viewLink (s : State) (l off a : Nat) : Nat :=
  if off = 0 then
    let p := maskOf ((List.range 4).filter fun c => FMap.getD (linkAt s l).pauseQuanta c 0 != 0)
    setBits (setBits (regGet s a) 7 4 p) 2 2 (b2n s.boot.linksReady)
  else regGet s a

/-! ### Page and winnow units (Tables 5.9 and 5.15) -/

/-- PGU_STATUS: an operation runs within one step, so OP_BUSY reads 0. -/
def pguStatusOf (s : State) (h : Nat) : Nat := setBits (regGet s (pguReg h 0x10)) 61 32 (freeAll s h)

/-- WINNOW commands of a sheaf that have been dispatched and have not begun. -/
def winnowQueued (s : State) (h : Nat) : Nat :=
  (s.wq.queues.map fun e => (e.2.items.filter fun i => match i.cmd with
    | .winnow p => p.sheaf == h && i.phase == .dispatched
    | _ => false).length).foldl (· + ·) 0

/-! ### Power domains (Table 14.9) -/

/-- Code of a domain's state: 3 in transition. -/
def domCode (x : DomRec) : Nat := match x.trans with
  | some _ => 3
  | none => match x.st with
    | .on => 0
    | .retention => 1
    | .off => 2

/-- DOM_STATUS. -/
def domStatusOf (s : State) (h : Nat) : Nat :=
  let ls := (List.range 4).foldl (fun t j => t + domCode (domAt s ⟨.link, 4 * h + j⟩) * 4 ^ j) 0
  let tm := if h = 0 then domCode (domAt s ⟨.time, 0⟩) else 0
  ls * 2 ^ 16 + tm * 2 ^ 14 + domCode (domAt s ⟨.fabric, h⟩) * 2 ^ 12 + 16 * b2n s.doms.aggressive + 8 * b2n (keepFailed s h)
    + regGet s (pwrReg h 0x800) % 4

/-- DOM_KEEP: temperature, budget, banks in Retention and their current. -/
def domKeepOf (s : State) (h : Nat) : Nat :=
  let t := hotStore s h
  let n := sheafRetained s h
  (max 0 t).toNat % 256 * 2 ^ 56 + keepBudget s h * 2 ^ 40 + n % 256 * 2 ^ 24 + n * (bankUa t).toNat / 1000 % 2 ^ 12

/-- States of 32 domains of one kind, from number `n`; one that cannot be On reads Off. -/
def domStates (s : State) (k : DomKind) (n : Nat) : Nat :=
  (List.range 32).foldl (fun t i =>
    let d : Dom := ⟨k, n + i⟩
    t + (if domUsable s d then domCode (domAt s d) else 2) * 4 ^ i) 0

/-- A register of the PWR_ and DOM_ block. -/
def viewPwr (s : State) (h off a : Nat) : Nat :=
  if off = 0x800 then domStatusOf s h
  else if off = 0x808 then domKeepOf s h
  else if 0x840 ≤ off ∧ off < 0x860 then domStates s .core (h * 128 + (off - 0x840) / 8 * 32)
  else if 0x860 ≤ off ∧ off < 0x880 then domStates s .vault (h * 128 + (off - 0x860) / 8 * 32)
  else regGet s a

/-! ### Wear (Table 15.9) -/

/-- WEAR_SHEAF. -/
def wearSheafOf (s : State) (h : Nat) : Nat :=
  sat16 (maxOf ((List.range 4).map fun j => linkEye s (4 * h + j))) * 2 ^ 48 + sheafCycles s h % 2 ^ 32 * 2 ^ 16
    + sat16 (mechFig s h)

/-! ### The hub blocks (Tables 6.9, 10.14, 11.9 and 17.10) -/

/-- HUB_BOOT. -/
def hubBootOf (s : State) : Nat :=
  s.flash.boots % 2 ^ 32 * 2 ^ 32 + s.flash.fuses % 128 * 2 ^ 8 + 4 * b2n s.boot.fallback + s.boot.image

/-- WQ_OCC of a class. -/
def occupied (s : State) (cls : Nat) : Nat :=
  (s.wq.queues.map fun e => if e.2.cls = cls ∧ !e.2.completion then qVisible e.2 else 0).foldl (· + ·) 0 % 2 ^ 32

/-- TIM_STATE. -/
def timStateOf (s : State) : Nat :=
  timeCode s.time.st * 2 ^ 61 + b2n s.time.slewing * 2 ^ 60 + min s.time.bound (2 ^ 48 - 1)

/-- TIM_PORT. -/
def timPortOf (s : State) : Nat :=
  maskOf ((List.range 32).filter (candidate s)) * 2 ^ 32 + (match s.time.active with
    | none => 0
    | some p => 32 + p)

/-- TIM_CAL. -/
def timCalOf (s : State) : Nat := match s.time.periods with
  | [] => 0
  | p :: _ => min (sigmaOf s) 65535 * 2 ^ 48 + p % 2 ^ 48

/-- A register of the hub blocks. -/
def viewHub (s : State) (off a : Nat) : Nat := match off with
  | 0x00068 => hubBootOf s
  | 0x20100 => occupied s 0
  | 0x20108 => occupied s 1
  | 0x20110 => occupied s 2
  | 0x20118 => occupied s 3
  | 0x40010 => setBits (regGet s a) 6 0 (openSteps s)
  | 0x50000 => timStateOf s
  | 0x50008 => nowNs s
  | 0x50018 => timPortOf s
  | 0x50020 => timCalOf s
  | 0x60000 => s.boot.pendingLic % 16 * 2 ^ 8 + s.boot.effective % 16
  | _ => regGet s a

/-! ### Any register -/

/-- The value that a register of sheaf `h` at an offset of its window reads. -/
def viewWin (s : State) (h off a : Nat) : Nat :=
  if off < 0x800000 then viewCore s (h * 128 + off / 0x10000) (off % 0x10000) a
  else if off < 0x1000000 then viewVault s (h * 128 + (off - 0x800000) / 0x10000) (off % 0x10000) a
  else if off < 0x1010000 then viewRng s h (off % 0x10000) a
  else if off < 0x1050000 then viewLink s (4 * h + (off - 0x1010000) / 0x10000) (off % 0x10000) a
  else if off < 0x1060000 then if off % 0x10000 = 0x10 then pguStatusOf s h else regGet s a
  else if off < 0x1070000 then winnowQueued s h
  else if off < 0x1080000 then viewPwr s h (off % 0x10000) a
  else if off < 0x1090000 then if off % 0x10000 = 0x8000 then wearSheafOf s h else regGet s a
  else if 0x1100000 ≤ off then viewHub s (off - 0x1100000) a
  else regGet s a

/-- The value that a register reads. -/
def viewReg (s : State) (a : Nat) : Nat :=
  viewWin s ((a - 0x30000000000) / 0x200000000) ((a - 0x30000000000) % 0x200000000) a

end Sys2Proof.Machine
end

