-- ==== Sys2Proof/Machine/Domains.lean ====
section
/-! DEFINITION. Power domains (R385 to R400): idle timers, sleep requests and their entry window, transitions and wakes, and the
keep regulators of the SRAM banks. -/

namespace Sys2Proof.Machine

/-! ### Activity (R387) -/

/-- A link holds unacknowledged Stoby frames. -/
def linkHolds (s : State) (l : Nat) : Bool :=
  s.stoby.send.any fun e => e.2.unacked.any fun x => x.path.1 == l

/-- A packet of a sheaf waits or travels; one between sheaves counts for every sheaf. -/
def sheafTraffic (s : State) (h : Nat) : Bool :=
  (s.rings.inject.any fun e => e.1 / 1024 == h && !e.2.isEmpty)
    || s.rings.flight.any fun e => e.2.src / 256 == h || e.2.dst / 256 == h || e.2.src / 256 != e.2.dst / 256

/-- Some domain of a sheaf beside its fabric is On. -/
def sheafOn (s : State) (h : Nat) : Bool :=
  (List.range 128).any (fun i => domUsable s ⟨.core, h * 128 + i⟩ && domOn s ⟨.core, h * 128 + i⟩)
    || (List.range 128).any (fun i => domUsable s ⟨.vault, h * 128 + i⟩ && domOn s ⟨.vault, h * 128 + i⟩)
    || (List.range 4).any (fun j => domUsable s ⟨.link, 4 * h + j⟩ && domOn s ⟨.link, 4 * h + j⟩)

/-- A domain is active. -/
def domActive (s : State) (d : Dom) : Bool := match d.kind with
  | .core => !coreIdle (coreAt s d.num) || (govAt s d.num).hint.isSome
  | .vault =>
    let x := vaultAt s d.num
    !x.shaftQ.isEmpty || !x.ringQ.isEmpty || !x.merges.isEmpty || x.row.job.isSome || !x.row.waiting.isEmpty
  | .link => linkHolds s d.num || !(linkAt s d.num).waiting.isEmpty || !(linkAt s d.num).rxBuf.isEmpty
  | .fabric => sheafOn s d.num || sheafTraffic s d.num || pageUnitsBusy s || decide (0 < winnowQueued s d.num)
  | .time =>
    ((List.range 32).any fun l => bit s.time.cfg.portmask l && (domAt s ⟨.link, l⟩).st != .off) || s.time.cfg.pps
  | .host => true

/-- The number names a domain of its kind. -/
def domExists (d : Dom) : Bool := decide (d.num < match d.kind with
  | .core => 1024
  | .vault => 1024
  | .link => 32
  | .fabric => 8
  | .time => 1
  | .host => 1)

/-- IDLE_TIMER_EXPIRY: an idle domain with an ACTION raises a sleep request. -/
def execIdleTimerExpiry (d : Dom) (s : State) : Out State :=
  act s (domExists d && domUsable s d && domOn s d && (domAt s d).sleep == .none && (domAt s d).action != .none && !domActive s d)
    (updDom s d fun x => { x with sleep := .raised })

/-- SLEEP_REQUEST_ACCEPT: the entry window of four ACLK cycles runs (R394). -/
def execSleepRequestAccept (d : Dom) (s : State) : Out State :=
  act s (domExists d && (domAt s d).sleep == .raised) (updDom s d fun x => { x with sleep := .window })

/-! ### Entry (R391, R392, R397, R400) -/

/-- The keep regulator of a sheaf keeps banks: it has not failed and has not browned out. -/
def keeps (s : State) (h : Nat) : Bool := !keepFailed s h && !s.doms.brownout.contains h

/-- The contents of a core's banks outside a mask are lost. -/
def loseBanks (s : State) (c kept : Nat) : State :=
  let gone (k : Nat) : Bool :=
    decide (sramKey c 0 ≤ k) && decide (k < sramKey c 0 + 2 ^ 24) && !bit kept ((k - sramKey c 0) / 2 ^ 19)
  { s with mem := s.mem.filter (fun e => !gone e.1), marks := s.marks.filter fun e => !gone e.1 }

/-- A core's logic state is lost, and with it every bank that is not kept. -/
def coreSleeps (s : State) (c : Nat) (st : DomSt) : State :=
  let kept := if st = .retention ∧ keeps s (c / 128) then banksSel s c else 0
  let s1 := loseBanks (resetCoreLogic (releaseBanks s ⟨.core, c⟩) c) c kept
  if kept = 0 then s1 else { s1 with doms := { s1.doms with retained := s1.doms.retained ++ [(c, kept)] } }

/-- A vault's contents are lost, not what its inputs hold (R31, R33): MEMORY mode on return, and every page unit must be initialised again (R206, R223,
R388). -/
def vaultDies (s : State) (v : Nat) : State :=
  let here (k : Nat) : Bool := k / 2 ^ 30 == v
  regFlag (regFlag { s with
    mem := s.mem.filter fun e => !here e.1
    marks := s.marks.filter fun e => !here e.1
    vaults := s.vaults.set v { VaultSt.reset with
      shaftQ := (vaultAt s v).shaftQ, ringQ := (vaultAt s v).ringQ, ringNext := (vaultAt s v).ringNext, nextNum := (vaultAt s v).nextNum }
    pages := { s.pages with lost := sheaves } } (vltReg v 0) 0 false) (vltReg v 0x1000) 0 false

/-- What a domain loses as its entry into a low-power state commits. -/
def enterLow (s : State) (d : Dom) (st : DomSt) : State := match d.kind with
  | .core => coreSleeps s d.num st
  | .vault => if st = .off then vaultDies s d.num else s
  | .link => if st = .off then leavePaths s d.num else s
  | .time => timeStops s
  | _ => s

/-- The state that a domain's policy leads to: a core's Retention is Off where the keep regulator has failed. -/
def lowGoal (s : State) (d : Dom) : DomSt :=
  if (domAt s d).action = .off then .off
  else if d.kind = .core ∧ keepFailed s (d.num / 128) then .off else .retention

/-- AGGRESSIVE admits a core's Retention if the retained banks and its own draw at most 1.0 A at I(T + 5 °C). -/
def admits (s : State) (d : Dom) : Bool :=
  if d.kind = .core ∧ lowGoal s d = .retention ∧ s.doms.aggressive then
    decide (sheafRetained s (d.num / 128) + (bitList (banksSel s d.num) 16).length
      ≤ banksWithin (hotStore s (d.num / 128) + 5))
  else true

/-- A transition into a low-power state commits. -/
def commitSleep (s : State) (d : Dom) (st : DomSt) : State :=
  updDom (enterLow s d st) d fun x => { x with trans := some st, sleep := .none, level := false }

/-- A level wake is asserted: held, or the work that makes the domain active. -/
def levelNow (s : State) (d : Dom) : Bool :=
  (domAt s d).level || domActive s d || (d.kind == .core
    && s.wq.queues.any fun e => e.2.items.any fun i => i.waitCores.contains d.num)

/-- ENTRY_WINDOW_END: the entry commits unless a level is asserted or the banks are not admitted. -/
def execEntryWindowEnd (d : Dom) (s : State) : Out State :=
  act s (domExists d && (domAt s d).sleep == .window)
    (if levelNow s d || !admits s d then updDom s d fun x => { x with sleep := .none, level := false }
     else commitSleep s d (lowGoal s d))

/-! ### Ends of transitions (R391, R393) -/

/-- What a domain does as it reaches On from a state: a link that was Off retrains (R314). What a link in Retention
received is processed once the domain is On. -/
def reachOn (s : State) (d : Dom) (old : DomSt) : State := match d.kind with
  | .link => if old = .off then setLink s d.num { linkAt s d.num with training := true } else s
  | .time => timeResumes s
  | _ => s

/-- The request served after a transition that reached a state: the one held, or the level that is asserted. -/
def nextRequest (x : DomRec) (t : DomSt) : Option DomSt :=
  match x.heldReq with
  | some r => if r = t then none else some r
  | none => if x.level ∧ t ≠ .on then some .on else none

/-- A transition begins. -/
def beginTrans (s : State) (d : Dom) (t : DomSt) : State :=
  if t = .on then requestOn s d else commitSleep s d t

/-- A transition ends, and the held request is served at once. -/
def endTrans (s : State) (d : Dom) (t : DomSt) : State :=
  let x := domAt s d
  let s1 := if t = .on then reachOn (countExit s d) d x.st else s
  let s2 := setDom s1 d { x with st := t, trans := none, heldReq := none, level := x.level && t != .on }
  match nextRequest x t with
  | some r => beginTrans s2 d r
  | none => s2

/-- The same, and a link that is On then processes what waited for it (R392). -/
def endTransLink (s : State) (d : Dom) (t : DomSt) : Except Halt State :=
  let s1 := endTrans s d t
  if d.kind = .link ∧ domOn s1 d then linkReached s1 d.num else .ok s1

/-- The link's sensor follows its domain. -/
def domNote (old s : State) (d : Dom) : State := if d.kind = .link then noteLink old s d.num else s

/-- DOMAIN_TRANSITION_END. -/
def execDomainTransitionEnd (d : Dom) (s : State) : Out State :=
  match (domAt s d).trans with
  | none => .next s
  | some t => actE s (domExists d) ((endTransLink s d t).map fun t => domNote s t d)

/-- OFFTIMER_EXPIRY: a domain that has stayed in Retention for OFFTIMER enters Off (R387). -/
def execOfftimerExpiry (d : Dom) (s : State) : Out State :=
  let x := domAt s d
  act s (domExists d && x.st == .retention && x.trans.isNone && x.action == .retention && x.offtimer != 0
      && (d.kind == .core || d.kind == .vault || d.kind == .link))
    (domNote s (commitSleep s d .off) d)

/-! ### DOMAIN_WAKE (Table 14.4) -/

/-- A wake source is one of the domain's. -/
def wakeOk (s : State) (d : Dom) : WakeSrc → Bool
  | .work => d.kind == .core
  | .hint => d.kind == .core
  | .packet => d.kind == .core || d.kind == .vault || d.kind == .fabric
  | .txFrame => d.kind == .link
  | .rxFrame => d.kind == .link && (domAt s d).st == .retention
  | .energy => d.kind == .link && (domAt s d).st == .off
  | .policyNone => (domAt s d).action == .none
  | .pcie => d.kind == .host
  | .timeLink => d.kind == .time
  | .poke => true

/-- DOMAIN_WAKE: a poke is a pulse, every other source a level. -/
def execDomainWake (d : Dom) (src : WakeSrc) (s : State) : Out State :=
  act s (domExists d && domUsable s d && wakeOk s d src) (if src = .poke then pulseWake s d else levelWake s d)

/-! ### Keep regulators (R398 to R400) -/

/-- Cores are woken, the latest entered first, until the banks that remain fit. -/
def wakeUntil (h lim : Nat) : List (Nat × Nat) → State → State
  | [], s => s
  | e :: es, s =>
    if sheafRetained s h ≤ lim then s
    else wakeUntil h lim es (if e.1 / 128 = h then requestOn (releaseBanks s ⟨.core, e.1⟩) ⟨.core, e.1⟩ else s)

/-- RETENTION_REEVALUATION. -/
def execRetentionReevaluation (sheaf : Nat) (s : State) : Out State :=
  act s (s.doms.aggressive && decide (sheaf < 8))
    (wakeUntil sheaf (banksWithin (hotStore s sheaf + 5)) s.doms.retained.reverse s)

/-- The keep regulator of a sheaf fails, until the next boot. -/
def failKeep (s : State) (h : Nat) : State :=
  if keepFailed s h then s
  else noteRecord { s with doms := { s.doms with keepFail := h :: s.doms.keepFail } } 3 0x32 h 0

/-- A core is in Retention, or on its way there. -/
def inRetention (s : State) (c : Nat) : Bool :=
  let x := domAt s ⟨.core, c⟩
  (x.st == .retention && x.trans != some .on) || x.trans == some .retention

/-- A core in Retention goes Off with its banks; one that held a retained bank is recorded in DOM_LOST. -/
def coreBrowns (s : State) (c : Nat) : State :=
  let had := s.doms.retained.any fun e => e.1 == c
  let s1 := loseBanks (releaseBanks s ⟨.core, c⟩) c 0
  let s2 := updDom s1 ⟨.core, c⟩ fun x =>
    if x.trans = none then { x with st := .off } else { x with trans := some .off }
  if had then regFlag s2 (pwrReg (c / 128) (0x880 + 8 * (c % 128 / 64))) (c % 64) true else s2

/-- A brown-out (R399). -/
def brownOut (s : State) (h : Nat) : State :=
  let s1 := forEach s (((enabledLocal s h).map (h * 128 + ·)).filter fun c => inRetention s c) coreBrowns
  let s2 := noteRecord (event s1 (pwrReg h 0x800) 0 (pwrReg h 0x810)) 3 0x31 h 0
  let now := nowNs s
  let times := ((now :: FMap.getD s.doms.brownTimes h []).filter fun t => decide (now < t + 1000000000)).take 3
  let s3 := { s2 with doms := { s2.doms with
    brownTimes := FMap.set s2.doms.brownTimes h times, brownout := h :: s2.doms.brownout.filter fun g => g != h } }
  if times.length ≥ 3 then failKeep s3 h else s3

/-- KEEP_BROWNOUT. -/
def execKeepBrownout (sheaf : Nat) (s : State) : Out State := act s (decide (sheaf < 8)) (brownOut s sheaf)

/-- KEEP_SELF_TEST. -/
def execKeepSelfTest (sheaf : Nat) (pass : Bool) (s : State) : Out State :=
  act s (decide (sheaf < 8)) (if pass then s else failKeep s sheaf)

/-- KEEP_REGULATOR_RECOVERY. -/
def execKeepRegulatorRecovery (sheaf : Nat) (s : State) : Out State :=
  act s (s.doms.brownout.contains sheaf)
    { s with doms := { s.doms with brownout := s.doms.brownout.filter fun h => h != sheaf } }

end Sys2Proof.Machine
end

