-- ==== Sys2Proof/Machine/Reds.lean ====
section
/-! DEFINITION. REDS and its completion, and the drain queue's next operation (R119 to R122, R264). -/

namespace Sys2Proof.Machine

/-! ### Packets of a rectangle (R264) -/

/-- Values of a rectangle: bytes and EFLAGS of element (i, j). -/
abbrev Rect := Nat → Nat → List Byte × Nat

/-- What the packets of a REDS have in common. -/
structure RedsHead where
  core : Nat
  seq : Nat
  ring : Nat
  cls : Nat
  addr : Nat
  tag : Nat
  count : Nat
  stride : Nat
  efmt : Nat
  rows : Nat
  cols : Nat
  anchor : Int
  rflags : Nat
  deriving DecidableEq, Repr

/-- Destination address of element (i, j) (R121). -/
def redsAddr (h : RedsHead) (i j : Nat) : Nat :=
  h.addr + (i * (if h.stride = 0 then h.cols else h.stride) + j) * slotBytes h.efmt

/-- The packet of the run that begins at element (i, j). -/
def redsPacket (s : State) (h : RedsHead) (v : Rect) (i j : Nat) : Packet :=
  let n := min (runElems h.efmt) (h.cols - j)
  let es := (List.range n).map fun k => v i (j + k)
  let a := packetAddr s (redsAddr h i j)
  let data := es.flatMap (·.1)
  { plainPacket .reduce h.ring h.cls (coreStop h.core) ((destStop s (h.core / 128) h.ring a).getD 0) 0 a
      (roundUp data.length 32) with
    data, efmt := h.efmt, rtag := h.tag, rcount := h.count, relems := h.rows * h.cols, contrib := 1
    anchor := h.anchor, rflags := h.rflags
    eflags := (es.zip (List.range n)).foldl (fun t p => t + p.1.2 * 4 ^ p.2) 0
    owner := some (h.core, h.seq) }

/-- Starts of the runs of a rectangle. -/
def redsRuns (h : RedsHead) : List (Nat × Nat) :=
  let r := runElems h.efmt
  (List.range h.rows).flatMap fun i => (List.range ((h.cols + r - 1) / r)).map fun k => (i, k * r)

/-- The window that holds a destination: a core's SRAM, a vault, or a remote one. -/
def redsWindow (s : State) (a : Nat) : Option (Nat × Nat) := match resolve s a with
  | .vault v _ => some (0, v)
  | .sram c _ => some (1, c)
  | .remote d x => some (2 + d, if x < 2 ^ 40 then x / 2 ^ 30 else 2 ^ 10 + x / 2 ^ 24)
  | _ => none

/-- Every destination slot of a REDS lies in one window (R264). -/
def redsInWindow (s : State) (h : RedsHead) : Bool :=
  let w := redsWindow s h.addr
  w.isSome && (List.range h.rows).all fun i =>
    redsWindow s (redsAddr h i 0) == w && redsWindow s (redsAddr h i (h.cols - 1) + slotBytes h.efmt - 1) == w

/-- The packets of a REDS wait for injection. -/
def sendReds (s : State) (h : RedsHead) (v : Rect) (fence evt : Nat) : Except Halt State :=
  if !redsInWindow s h then .error (.undefinedCase 44)
  else
    let runs := redsRuns h
    let s1 := runs.foldl (fun t r => sendPacket t (coreStop h.core) (redsPacket s h v r.1 r.2)) s
    .ok (updCore s1 h.core fun x => { x with outgoing := x.outgoing ++ [⟨h.seq, runs.length, fence, evt⟩] })

/-! ### Issue -/

/-- A REDS as sampled at issue: the rectangle of sP for a churn source. -/
def redsOp (s : State) (c : Nat) (f : RedsF) : RedsOp :=
  let t := sval s c f.tag
  let p := sval s c f.p
  { seq := (coreAt s c).nextSeq, addr := sval s c f.a, tag := t % 2 ^ 32, count := t / 2 ^ 32 % 2 ^ 16
    stride := t / 2 ^ 48, efmt := f.efmt, row := p % 128, rows := p / 2 ^ 8 % 128 + 1, col := p / 2 ^ 16 % 128
    cols := p / 2 ^ 24 % 128 + 1, ch := f.ch, evt := f.evt }

/-- The common part of the packets of an operation. -/
def redsHead (s : State) (c : Nat) (o : RedsOp) (rows cols : Nat) (anchor : Int) (rflags : Nat) : RedsHead :=
  { core := c, seq := o.seq, ring := o.ch, cls := (coreAt s c).cls, addr := o.addr, tag := o.tag, count := o.count
    stride := o.stride, efmt := o.efmt, rows, cols, anchor, rflags }

/-- A REDS from an SRAM tile: its format matches EFMT, and its words are read (R121). -/
def redsTile (s : State) (c : Nat) (o : RedsOp) (d : TileDesc) : Except Halt State :=
  let ok := (o.efmt = 0 && d.fmt = 12) || (o.efmt = 1 && d.fmt = 10)
  if !ok || o.count = 0 || !descOk d d.lines then .error (.undefinedCase 18)
  else
    do
    let s0 ← orderOp s c ⟨o.seq, .reds o.ch, false, some o.evt, tileSpans d, []⟩
    let s1 := touchTile s0 c d
    sendReds (bump s1) (redsHead s c o d.lines d.len 0 0)
      (fun i j => (leBytes (redBytes o.efmt) ((lineCodes s1 c d false i j 1)[0]?.getD 0), 0)) o.ch o.evt

/-- REDS issues: from SRAM its packets are formed; from the churn it waits in the drain queue (R122). -/
def issueReds (s : State) (c : Nat) (f : RedsF) : Except Halt State :=
  let o := redsOp s c f
  if f.churn then
    .ok (if (coreAt s c).drainQ.length < 4 then
      nextPc (takeSeq (updCore s c fun x => { x with drainQ := x.drainQ ++ [.reds o] }) c) c
    else s)
  else do
    let s1 ← redsTile s c o (treg s c f.t)
    .ok (nextPc (takeSeq s1 c) c)

def execReds (core : Nat) (f : RedsF) (s : State) : Out State := tileOut s core (.reds f) (issueReds s core f)

/-! ### The drain unit's next operation -/

/-- A churn REDS: EFMT 2 for a standard tile and 3 for a full-cream tile, inside the tile (R121). -/
def startReds (s : State) (c : Nat) (o : RedsOp) : Except Halt State :=
  let t := tileOf s c o.seq
  let fc := t.fc
  if o.efmt ≠ (if fc then 3 else 2) ∨ o.count = 0 ∨ 128 < o.row + o.rows ∨ (if fc then 32 else 128) < o.col + o.cols then
    .error (.undefinedCase 18)
  else
    let s1 := leaveDrainQ s c
    let rfl := b2n (bit t.flags fFcrange) + 2 * b2n (bit t.flags fUnderspill)
    let val (i j : Nat) : List Byte × Nat :=
      let a := accAt s c fc (o.row + i) (o.col + j)
      (leBytes (redBytes o.efmt) (unsigned (accBits fc) a.v), b2n a.ovf + 2 * b2n a.nan)
    sendReds (bump s1) (redsHead s c o o.rows o.cols t.anchor rfl) val 5 o.evt

/-- The operation that the drain unit starts next: it is idle, and every earlier FEED's adds to its rectangle have landed
(R56). -/
def nextDrain (s : State) (c : Nat) : Option DrainItem :=
  let x := coreAt s c
  match x.drainQ with
  | [] => none
  | d :: _ =>
    if x.drainWait.isNone && feedsBefore s c d && domOn s ⟨.core, c⟩ then some d else none

/-- DRAIN_START. -/
def execDrainStart (core : Nat) (s : State) : Out State :=
  actE s (nextDrain s core).isSome (match nextDrain s core with
    | some (.drain o) => startDrain s core o
    | some (.reds o) => startReds s core o
    | none => .ok s)

/-- The drain unit's DRAIN has its guard's acknowledgement, or names no guard slot. -/
def drainEnds (s : State) (c : Nat) : Bool := match (coreAt s c).drainWait with
  | some w => w.acked
  | none => false

/-- DRAIN_COMPLETE (R136, R175). -/
def execDrainComplete (core : Nat) (s : State) : Out State :=
  act s (drainEnds s core) (updCore s core fun x => { x with drainWait := none })

/-! ### REDS_COMPLETE (R122) -/

/-- The oldest REDS of a core whose packets have all been injected. -/
def redsEnded (s : State) (c : Nat) : Option Outgoing :=
  (coreAt s c).outgoing.find? fun o => o.fence != 7 && o.left == 0

/-- A REDS completes and sets its event bit. -/
def endReds (s : State) (c : Nat) (o : Outgoing) : State :=
  setEvent (updCore s c fun x => { x with outgoing := x.outgoing.filter fun y => y.seq != o.seq }) c o.evt

/-- REDS_COMPLETE. -/
def execRedsComplete (core : Nat) (s : State) : Out State :=
  act s (redsEnded s core).isSome (match redsEnded s core with
    | some o => endReds s core o
    | none => s)

end Sys2Proof.Machine
end

