-- ==== Sys2Proof/Machine/Reduce.lean ====
section
/-! DEFINITION. REDUCE as a built-in kernel (R123, R264, R265, R301). -/

namespace Sys2Proof.Machine

def isReduce : WqCmd → Bool
  | .reduce _ => true
  | _ => false

/-! ### Sources -/

/-- One source element: its bytes, its anchor, its EFLAGS and its RFLAGS. -/
structure SrcElem where
  bytes : List Byte
  anchor : Int
  eflags : Nat
  rflags : Nat
  deriving DecidableEq, Repr

/-- The element of a source's bytes: a value, or an FX slot (R119). -/
def srcElem (efmt : Nat) (bs : List Byte) : SrcElem :=
  let n := redBytes efmt
  if efmt < 2 then ⟨bs, 0, 0, 0⟩
  else ⟨bs.take n, signed 16 (fieldAt bs n 2), fieldAt bs (n + 2) 1 % 4, fieldAt bs (n + 2) 1 / 4 % 4⟩

/-- Elements `j` to `j + n - 1` of a source. -/
def srcRun (s : State) (efmt a j n : Nat) : Except Halt (List SrcElem × State) := do
  let w := slotBytes efmt
  let (bs, _, s1) ← kernRead s (a + j * w) (n * w)
  return ((List.range n).map fun k => srcElem efmt (slice bs (k * w) w), s1)

/-- An element brought to the anchor of its run (R265). -/
def toAnchor (efmt : Nat) (hi : Int) (e : SrcElem) : Elem :=
  if efmt < 2 then ⟨e.bytes, 0, 0⟩
  else
    let z : Elem := ⟨leBytes (redBytes efmt) 0, 0, 0⟩
    addElem efmt e.anchor hi ⟨e.bytes, e.eflags, e.rflags⟩ z

/-- The largest anchor of a run. -/
def topAnchor : List SrcElem → Int
  | [] => 0
  | e :: es => es.foldl (fun a x => max a x.anchor) e.anchor

/-! ### Packets -/

/-- The common part of the packets of a REDUCE for one core, whose operation number is `seq`. -/
def reduceHead (x : Queue) (p : ReduceP) (core rank seq : Nat) : RedsHead :=
  { core, seq, ring := rank % 4, cls := x.cls, addr := p.dst, tag := p.tag, count := p.nsrc, stride := 0
    efmt := p.efmt, rows := 1, cols := p.elems, anchor := 0, rflags := 0 }

/-- The packet of one run of a source. -/
def reducePacket (s : State) (h : RedsHead) (j : Nat) (es : List SrcElem) : Packet :=
  let hi := topAnchor es
  let rs := es.map (toAnchor h.efmt hi)
  let fl := rs.foldl (fun t e => t ||| e.rflags) 0
  redsPacket s { h with anchor := hi, rflags := fl }
    (fun _ k => match rs[k - j]? with
      | some e => (e.bytes, e.eflags)
      | none => ([], 0)) 0 j

/-- One source is sent run by run. -/
def sendSource (h : RedsHead) (src : Nat) (s : State) : Except Halt State :=
  (redsRuns h).foldlM (fun s r => do
    let n := min (runElems h.efmt) (h.cols - r.2)
    let (es, s1) ← srcRun s h.efmt src r.2 n
    .ok (sendPacket s1 (coreStop h.core) (reducePacket s1 h r.2 es))) s

/-- The core of a rank sends its sources (R301). -/
def sendRank (q : Nat) (i : Item) (p : ReduceP) (s : State) (c : Nat × Nat) : Except Halt State := do
  let h := reduceHead (queueAt s q) p c.1 c.2 (coreAt s c.1).nextSeq
  let s1 := updCore (usedCore s c.1) c.1 fun x =>
    { x with running := true, code := [], owner := some (q, i.idx), nextSeq := x.nextSeq + 1 }
  ((List.range p.nsrc).filter fun k => k % i.targets.length == c.2).foldlM (fun s k => sendSource h (p.src + k * p.sstride) s) s1

/-- DST lies in one window, and not in the vault of a disabled core (R123, R264). -/
def reduceDst (s : State) (p : ReduceP) : Except Halt Unit :=
  if !redsInWindow s (reduceHead .reset p 0 0 0) then .error (.undefinedCase 44)
  else match resolve s p.dst with
    | .vault v _ => if coreEnabled s v then .ok () else .error (.undefinedCase 1)
    | _ => .ok ()

/-- REDUCE runs: its packets wait for injection, and the tag notice will end it. -/
def reduceEffect (s : State) (q : Nat) (i : Item) (p : ReduceP) : Except Halt State :=
  if p.nsrc = 0 ∨ 3 < p.efmt then .error (.undefinedCase 48)
  else if p.elems = 0 then .ok (endItem s q i.idx stOk)
  else do
    reduceDst s p
    let s1 ← (i.targets.zip (List.range i.targets.length)).foldlM (sendRank q i p) s
    .ok (updItem s1 q i.idx fun y => { y with phase := .running, waitCores := [], runCores := y.targets })

/-- REDUCE on an item. -/
def runReduce (s : State) (q idx : Nat) : Except Halt State := match itemAt s q idx with
  | some i => match i.cmd with
    | .reduce p => reduceEffect s q i p
    | _ => .ok s
  | none => .ok s

/-- REDUCE. -/
def execReduce (q idx : Nat) (s : State) : Out State :=
  actE s (begins s q idx isReduce && targetsFree s q idx) (runReduce s q idx)

/-- The tag notice of a running REDUCE: the command that a tag at the core that owns DST completes, if any. -/
def reduceOf (s : State) (owner tag : Nat) : Option (Nat × Item) :=
  s.wq.queues.findSome? fun e => (e.2.items.find? fun i => match i.cmd with
    | .reduce p => i.phase == .running && p.tag == tag && (match resolve s p.dst with
      | .vault v _ => v == owner
      | .sram c _ => c == owner
      | _ => false)
    | _ => false).map fun i => (e.1, i)

/-- A REDUCE completes: its cores are free again. -/
def reduceDone (s : State) (q : Nat) (i : Item) : State :=
  endItem (i.runCores.foldl (fun s c => updCore s c fun x => { x with running := false, owner := none }) s) q i.idx stOk

end Sys2Proof.Machine
end

