-- ==== Sys2Proof/Machine/Rings.lean ====
section
/-! DEFINITION. Packets that reach their stops: requests, replies, acknowledgements, signals, notices and messages
(R123, R133, R138, R250, R253, R260 to R263). -/

namespace Sys2Proof.Machine

/-- A reply leaves the stop that a request reached, on the request's ring. -/
def replyPacket (p : Packet) (ty : PType) : Packet :=
  { plainPacket ty p.ring p.cls p.dst p.src p.txn p.addr 0 with remote := p.remote }

/-- A stop answers a packet. -/
def answerPacket (s : State) (p q : Packet) : State := sendPacket s p.dst q

/-! ### RD_REQ_ARRIVAL -/

/-- A vault request of a packet. -/
def vaultReq (p : Packet) (off : Nat) : VReq :=
  { write := p.ty == .wr, off, bytes := if p.ty == .wr then p.data.length else p.bytes, data := p.data, merge := p.merge
    src := .ring p.src p.ring p.cls p.txn p.remote, num := 0 }

/-- A request waits at the vault's ring input; a sleeping vault wakes for it (R33, R393). -/
def toVault (s : State) (v : Nat) (r : VReq) : State :=
  levelWake (updVault s v fun x => { x with ringQ := x.ringQ ++ [{ r with num := x.nextNum }], nextNum := x.nextNum + 1 }) ⟨.vault, v⟩

/-- A read of a core's SRAM by another agent is answered. -/
def readAtCore (s : State) (p : Packet) (c off : Nat) (ups : List (Nat × Upset)) : State :=
  let r := readSram (upsetWords s (ups.map fun u => (sramKey c (u.1 / 16 * 16), u.2))) c off p.bytes 2
  answerPacket r.2.2 p { replyPacket p .rdResp with data := r.1, poison := r.2.1, bytes := p.bytes }

/-- A read of host memory: with Bus Master Enable 0 it is answered with ones, else it waits for its completion
(R340). -/
def readAtHost (s : State) (p : Packet) (bus : Nat) : State :=
  if s.host.busMaster then match FMap.find s.rings.out p.txn with
    | some (.dma c ch seq _ sram bytes _) =>
      { s with rings := { s.rings with out := FMap.set s.rings.out p.txn (.host c ch seq sram bus bytes false) } }
    | _ => s
  else
    let r := readHost s bus p.bytes
    answerPacket r.2.2 p { replyPacket p .rdResp with data := r.1, bytes := p.bytes }

/-- A read request at its destination. -/
def rdReqAt (ups : List (Nat × Upset)) (p : Packet) (s : State) : Except Halt State := match resolve s p.addr with
  | .vault v off => .ok (toVault s v (vaultReq p off))
  | .sram c off => .ok (readAtCore s p c off ups)
  | .host bus => .ok (readAtHost s p bus)
  | .reg _ => .error (.undefinedCase 3)
  | .remote _ _ => .ok s
  | .none k => .error (.undefinedCase k)

/-- The packet has reached a stop other than a link's. -/
def notLink (p : Packet) : Bool := (stopLink p.dst).isNone

/-- RD_REQ_ARRIVAL. -/
def execRdReqArrival (id : Nat) (upsets : List (Nat × Upset)) (s : State) : Out State :=
  arrival s id .rdReq notLink (rdReqAt upsets)

/-! ### RD_RESP_ARRIVAL -/

/-- Data of a reply land in the SRAM of the core that asked; a reply that nothing waits for is discarded. -/
def landReply (s : State) (txn : Nat) (data : List Byte) (poison : Bool) : State :=
  match FMap.find s.rings.out txn with
  | some (.dma c ch seq _ sram _ false) => dmaPart (closeTxn (landData s c sram data poison) txn) c ch seq
  | _ => s

/-- RD_RESP_ARRIVAL. -/
def execRdRespArrival (id : Nat) (s : State) : Out State :=
  arrival s id .rdResp notLink fun p s => .ok (landReply s p.txn p.data p.poison)

/-! ### WR_ARRIVAL -/

/-- A write is acknowledged where it asks for it. -/
def ackWrite (s : State) (p : Packet) : State := if p.ackreq then answerPacket s p (replyPacket p .wrAck) else s

/-- The gateway issues the zero-length read behind a DMH's last write (R133). -/
def flushHost (s : State) (p : Packet) (bus : Nat) : State := match FMap.find s.rings.out p.txn with
  | some (.dma c ch seq _ sram bytes true) =>
    if s.host.busMaster then
      { s with rings := { s.rings with out := FMap.set s.rings.out p.txn (.host c ch seq sram bus bytes true) } }
    else ackWrite s p
  | _ => ackWrite s p

/-- Data of a write; poisoned data are undefined. -/
def storeAtCore (s : State) (p : Packet) (c off : Nat) : Except Halt State := do
  let s1 ← remoteStore s c off p.data
  .ok (if p.poison then undefMem s1 16 (sramKey c off) p.data.length else s1)

/-- A write at its destination. -/
def wrAt (p : Packet) (s : State) : Except Halt State := match resolve s p.addr with
  | .vault v off => .ok (toVault s v (vaultReq p off))
  | .sram c off => do
    let s1 ← storeAtCore s p c off
    .ok (ackWrite s1 p)
  | .host bus => do
    let s0 ← writeHost s bus p.data
    let s1 := relaxWrites s s0
    .ok (if p.ackreq then flushHost s1 p bus else s1)
  | .reg _ => .error (.undefinedCase 3)
  | .remote _ _ => .ok s
  | .none k => .error (.undefinedCase k)

/-- WR_ARRIVAL. -/
def execWrArrival (id : Nat) (s : State) : Out State := arrival s id .wr notLink wrAt

/-! ### Acknowledgements -/

/-- What an acknowledged write was part of. -/
def writeAcked (s : State) (txn : Nat) : State := match FMap.find s.rings.out txn with
  | some (.dma c ch seq _ _ _ true) => dmaPart (closeTxn s txn) c ch seq
  | some (.sync q idx) => signalDone (closeTxn s txn) q idx
  | some (.stoby ctx psn) => stobyPerformed (closeTxn s txn) ctx psn
  | _ => s

/-- WR_ACK_ARRIVAL. -/
def execWrAckArrival (id : Nat) (s : State) : Out State :=
  arrival s id .wrAck (fun _ => true) fun p s => .ok (writeAcked s p.txn)

/-- What an acknowledged SIGNAL was. -/
def signalOver (s : State) (txn : Nat) : State := match FMap.find s.rings.out txn with
  | some (.signal c seq) => signalAcked (closeTxn s txn) c seq
  | some (.sync q idx) => signalDone (closeTxn s txn) q idx
  | _ => s

/-- SIG_ACK_ARRIVAL. -/
def execSigAckArrival (id : Nat) (s : State) : Out State :=
  arrival s id .sigAck (fun _ => true) fun p s => .ok (signalOver s p.txn)

/-! ### SIGNAL_ARRIVAL, TAG_NOTICE_ARRIVAL and MSG_ARRIVAL -/

/-- A SIGNAL sets its bit; the stop takes it whatever the state of its core. -/
def signalAt (p : Packet) (s : State) : State := match stopCore p.dst with
  | some c => answerPacket (setEvent s c p.ev) p (replyPacket p .sigAck)
  | none => s

/-- SIGNAL_ARRIVAL. -/
def execSignalArrival (id : Nat) (s : State) : Out State :=
  arrival s id .signal (fun p => (stopCore p.dst).isSome) fun p s => .ok (signalAt p s)

/-- A tag notice: of a disabled core it is discarded and counted; of a REDUCE command it ends the command; else it
enters the set. -/
def noticeAt (p : Packet) (s : State) : State := match stopCore p.dst with
  | none => s
  | some c =>
    if !coreEnabled s c then count s (stopCtr (p.dst / 256) (p.dst % 256) 3) 1
    else match reduceOf s c p.rtag with
      | some (q, i) => reduceDone s q i
      | none => addTag s c p.rtag

/-- TAG_NOTICE_ARRIVAL. -/
def execTagNoticeArrival (id : Nat) (s : State) : Out State :=
  arrival s id .tagNotice (fun _ => true) fun p s => .ok (noticeAt p s)

/-- A message: a DRAIN's report reaches the guard, or the guard's acknowledgement the core (R174, R175). -/
def msgAt (p : Packet) (s : State) : State := match p.report with
  | some r => { s with guard := { s.guard with reports := s.guard.reports ++ [r] } }
  | none => match p.owner with
    | some (c, seq) => updCore s c fun x =>
      { x with drainWait := x.drainWait.map fun w => if w.seq = seq then { w with acked := true } else w }
    | none => s

/-- MSG_ARRIVAL. -/
def execMsgArrival (id : Nat) (s : State) : Out State :=
  arrival s id .msg (fun _ => true) fun p s => .ok (msgAt p s)

/-! ### Multicast replies (R262, R263) -/

/-- The packet goes on while it has stops or sheaves left. -/
def keepMc (s : State) (id : Nat) (p : Packet) : State :=
  if p.stopmask.isEmpty && p.sheafmask.isEmpty then takeFlight s id else setFlight s id p

/-- A mergeable read of a core waits for a block of this address. -/
def readsBlock (s : State) (c : Nat) (p : Packet) : OutReq → Bool
  | .dma d ch seq a _ n false => d == c && a == p.addr && n == p.bytes && (channel s c ch).any fun o => o.seq == seq && o.merge
  | _ => false

/-- A copy lands for every outstanding read of a core that the reply matches, by ADDR (R262). -/
def landCopies (s : State) (c : Nat) (p : Packet) : State :=
  ((s.rings.out.filter fun e => readsBlock s c p e.2).map (·.1)).foldl (fun s t => landReply s t p.data p.poison) s

/-- A core stop takes its copy and clears its bit. -/
def mcDeliver (s : State) (id c : Nat) (p : Packet) : State :=
  if domOn s ⟨.core, c⟩ then keepMc (landCopies s c p) id { p with stopmask := p.stopmask.filter (· != c % 128) }
  else levelWake s ⟨.core, c⟩

/-- MC_RESP_DELIVERY. -/
def execMcRespDelivery (id core : Nat) (s : State) : Out State := match flightAt s id with
  | none => .next s
  | some p => act s (p.ty == .mcResp && p.sheaf == core / 128 && p.stopmask.contains (core % 128)) (mcDeliver s id core p)

/-- A sheaf of a packet's mask is the next one in its direction. -/
def nextMc (p : Packet) (h : Nat) : Bool :=
  let fwd := goesForward p.ring p.sheaf h != p.back
  let hops (x : Nat) : Nat := if fwd then fwdHops p.sheaf x else 8 - fwdHops p.sheaf x
  p.sheafmask.all fun e => (goesForward p.ring p.sheaf e.1 != p.back) != fwd || decide (hops h ≤ hops e.1)

/-- The entering gateway injects the copies of its sheaf and forwards the rest (R263). -/
def mcReplicate (s : State) (id h : Nat) (p : Packet) : State :=
  let gate := if goesForward p.ring p.sheaf h != p.back then 0 else 1
  let stops := (FMap.getD p.sheafmask h []).map fun i => coreStop (128 * h + i)
  keepMc ((mcPackets { p with stopmask := [], sheafmask := [] } h gate stops).foldl (fun s q => sendPacket s (stopId h gate) q) s)
    id { p with sheafmask := FMap.drop p.sheafmask h }

/-- MC_RESP_GATEWAY. -/
def execMcRespGateway (id sheaf : Nat) (s : State) : Out State := match flightAt s id with
  | none => .next s
  | some p => act s (p.ty == .mcResp && (FMap.find p.sheafmask sheaf).isSome && nextMc p sheaf) (mcReplicate s id sheaf p)

end Sys2Proof.Machine
end

