-- ==== Sys2Proof/Machine/HostCmds.lean ====
section
/-! DEFINITION. The PCI Express endpoint: configuration requests, BAR2, completions and MSI-X masks
(R339, R340, R344, R346). -/

namespace Sys2Proof.Machine

/-! ### Configuration requests (R339) -/

/-- The state with the endpoint changed. -/
def updHost (s : State) (f : HostIf → HostIf) : State := { s with host := f s.host }

/-- A dword of the configuration space: the class code, or what the PCI Express specification makes of it. -/
def cfgRead (s : State) (off : Nat) : State :=
  let d := (Config.cfgDword s.free s.host.cfg (off / 4 * 4)).toNat
  bump (updHost s fun h => { h with cfgAnswer := some (if off / 4 = 2 then 0x120000 * 2 ^ 8 + d % 2 ^ 8 else d) })

/-- A configuration request is answered. -/
def cfgServe (s : State) (r : CfgReq) : State := match r with
  | .read off => cfgRead s off
  | .write off v => updHost s fun h => { h with cfg := FMap.set h.cfg (off / 4 * 4) (v % 2 ^ 32), cfgAnswer := some 0 }
  | .busMaster b => updHost s fun h => { h with busMaster := b, cfgAnswer := some 0 }
  | .relaxedOrdering b => updHost s fun h => { h with relaxedOrdering := b, cfgAnswer := some 0 }
  | .msixEnable b => updHost s fun h => { h with msixEnable := b, cfgAnswer := some 0 }
  | .bar2Size n => updHost s fun h => { h with bar2Log := if 30 ≤ n ∧ n < 40 then n else h.bar2Log, cfgAnswer := some 0 }
  | .ptmEnable b => updHost s fun h => { h with ptmEnable := b, cfgAnswer := some 0 }
  | .lowPower b => updDom (updHost s fun h => { h with cfgAnswer := some 0 }) ⟨.host, 0⟩ fun x =>
    { x with st := if b then .retention else .on, trans := none, heldReq := none, level := false }

/-- PCIE_CONFIG_REQUEST: retry status (no answer) before CONFIG_READY. -/
def execPcieConfigRequest (r : CfgReq) (s : State) : Out State :=
  act s (!s.boot.pcieHeld)
    (if s.boot.dev == .boot then updHost s fun h => { h with cfgAnswer := none } else cfgServe s r)

/-! ### BAR2 (R344) -/

/-- BASE is a multiple of the BAR2 size and the whole BAR lies in the striped window. -/
def bar2Ok (s : State) : Bool :=
  let b := regFld s (hubReg 0x50) 8 0 * 2 ^ 30
  decide (b % 2 ^ s.host.bar2Log = 0) && decide (b + 2 ^ s.host.bar2Log ≤ 2 ^ 39)

/-- Device address of a BAR2 offset. -/
def bar2Addr (s : State) (off : Nat) : Nat := 0x10000000000 + regFld s (hubReg 0x50) 8 0 * 2 ^ 30 + off

/-- A BAR2 read: its bytes, and EP where one is poisoned (R212). -/
def bar2Read (s : State) (off n : Nat) : Except Halt State := do
  let (bs, poison, s1) ← stopRead s (some hostStop) (bar2Addr s off) n
  .ok (updHost s1 fun h => { h with bar2Data := (bs, poison) })

/-- Where a BAR2 request begins and ends. -/
def bar2Span : Bar2Req → Nat × Nat
  | .read off n => (off, n)
  | .write off d => (off, d.length)

/-- BAR2_ACCESS. -/
def execBar2Access (r : Bar2Req) (s : State) : Out State :=
  actE s (barUp s && decide ((bar2Span r).1 + (bar2Span r).2 ≤ 2 ^ s.host.bar2Log))
    (orUndef (bar2Ok s) 55 (match r with
      | .read off n => bar2Read s off n
      | .write off d => stopWrite s (some hostStop) (bar2Addr s off) d))

/-! ### Completions (R133, R340) -/

/-- The device address that leads to a host bus address (R27). -/
def hostAddr (s : State) (bus : Nat) : Nat := 0x40000000000 + bus - regGet s (hubReg 0x40) / 4096 * 4096

/-- Class of the transfer that a host request belongs to. -/
def xferCls (s : State) (c ch seq : Nat) : Nat := match (channel s c ch).find? fun d => d.seq == seq with
  | some d => d.cls
  | none => 0

/-- The gateway's answer to the core whose request a completion ends. -/
def gatePacket (s : State) (ty : PType) (txn c ch seq bus : Nat) : Packet :=
  let a := hostAddr s bus
  plainPacket ty (addrRing a) (xferCls s c ch seq) hostStop (coreStop c) txn a 0

/-- A completion has arrived: the reply leaves the host gateway, poisoned where the completion failed. -/
def completeHost (s : State) (txn : Nat) (o : OutReq) (bytes : List Byte) (failed : Bool) : State := match o with
  | .host c ch seq sram bus n wr =>
    let s1 := { s with rings := { s.rings with out := FMap.set s.rings.out txn (.dma c ch seq (hostAddr s bus) sram n wr) } }
    if wr then sendPacket s1 hostStop (gatePacket s .wrAck txn c ch seq bus)
    else sendPacket s1 hostStop { gatePacket s .rdResp txn c ch seq bus with data := bytes, bytes := bytes.length, poison := failed }
  | _ => s

/-- A read that failed is an uncorrectable error of a requested read (R212, R340). -/
def failHost (s : State) (txn : Nat) : State := match FMap.find s.rings.out txn with
  | some (.host c ch seq sram bus n wr) =>
    detectUe (completeHost s txn (.host c ch seq sram bus n wr) (if wr then [] else zeros n) true) 2 hostStop (hostAddr s bus)
  | _ => s

/-- The data that a completion brings are what host memory holds there now. -/
def hostData (s : State) (txn : Nat) (bytes : List Byte) : State := match FMap.find s.rings.out txn with
  | some (.host c ch seq sram bus n wr) =>
    completeHost { s with mem := if wr then s.mem else storeBytes s.mem (hostKey bus) bytes } txn (.host c ch seq sram bus n wr)
      bytes false
  | _ => s

/-- A request to the host waits for its completion; a read's data have its length. -/
def hostWaits (s : State) (txn : Nat) (a : Option (List Byte)) : Bool := match FMap.find s.rings.out txn with
  | some (.host _ _ _ _ _ n wr) => match a with
    | some bs => wr || bs.length == n
    | none => true
  | _ => false

/-- HOST_COMPLETION. -/
def execHostCompletion (txn : Nat) (a : HostAnswer) (s : State) : Out State := match a with
  | .data bs => act s (hostWaits s txn (some bs)) (hostData s txn bs)
  | .failed => act s (hostWaits s txn none) (failHost s txn)

/-- PCIE_COMPLETION_TIMEOUT. -/
def execPcieCompletionTimeout (txn : Nat) (s : State) : Out State := act s (hostWaits s txn none) (failHost s txn)

/-! ### MSIX_VECTOR_UNMASK (R346) -/

/-- A pending message is sent once. -/
def unmask (s : State) (v : Nat) : State :=
  let s1 := updHost s fun h => { h with unmasked := if h.unmasked.contains v then h.unmasked else h.unmasked ++ [v] }
  if s.host.pendingBits.contains v ∧ s.host.msixEnable then
    msix (updHost s1 fun h => { h with pendingBits := h.pendingBits.filter (· != v) }) v
  else s1

/-- MSIX_VECTOR_UNMASK. -/
def execMsixVectorUnmask (vec : Nat) (s : State) : Out State := act s (barUp s && decide (vec < 2048)) (unmask s vec)

end Sys2Proof.Machine
end

