-- ==== Sys2Proof/Machine/Kernels.lean ====
section
/-! DEFINITION. KERNEL and the start of a kernel on a core (R100 to R102). -/

namespace Sys2Proof.Machine

/-! ### KERNEL -/

def isKernel : WqCmd → Bool
  | .kernel _ _ _ => true
  | _ => false

/-- KERNEL begins: it waits for its target cores (R101, R299). -/
def execKernel (q idx : Nat) (s : State) : Out State := act s (begins s q idx isKernel) (startItem s q idx)

/-! ### Images (Table 4.1) -/

/-- The fields are within their ranges (R102). -/
def hdrOk (h : ImageHdr) : Bool :=
  h.magic == 0x4E524B54 && h.format == 1 && h.abi == 2 && h.codeOff % 64 == 0 && h.codeLen % 8 == 0
    && decide (8 ≤ h.codeLen) && decide (h.codeLen ≤ 65536) && h.entry % 8 == 0 && decide (h.entry < h.codeLen)
    && h.dataOff % 64 == 0 && h.dataLen % 32 == 0 && decide (h.dataLen ≤ 1048576) && h.dataDst % 32 == 0
    && decide (h.dataDst + h.dataLen ≤ 0x800000) && decide (h.nargs ≤ 8)

/-- Every byte of a range has been written; what the host or another device holds is theirs to initialise. -/
def written (s : State) (a n : Nat) : Bool :=
  (packets a n).all fun p =>
    let all (k : Nat) : Bool := (List.range p.2).all fun i => (FMap.find s.mem (k + i)).isSome
    match resolve s p.1 with
    | .vault v off => all (vaultKey v off)
    | .sram c off => all (sramKey c off)
    | .none _ | .reg _ => false
    | _ => true

/-! ### KERNEL_CORE_START (R101) -/

/-- Items of KERNEL commands that wait for a core: doorbell time, queue, item. -/
def waitersOf (s : State) (c : Nat) : List (Nat × Nat × Item) :=
  s.wq.queues.flatMap fun e => e.2.items.filterMap fun i =>
    if i.phase = .running ∧ i.waitCores.contains c ∧ isKernel i.cmd then some (i.t0, e.1, i) else none

/-- The first of several by doorbell time, the lower queue number first. -/
def oldest : List (Nat × Nat × Item) → Option (Nat × Nat × Item)
  | [] => none
  | x :: xs => match oldest xs with
    | none => some x
    | some y => if x.1 ≤ y.1 then some x else some y

/-- The kernel that a core is to run next: queue and item. -/
def nextKernel (s : State) (c : Nat) : Option (Nat × Item) := (oldest (waitersOf s c)).map (·.2)

/-- Instructions of a code section. -/
def codeWords (bs : List Byte) (n : Nat) : List Word := (List.range (n / 8)).map fun i => BitVec.ofNat 64 (fieldAt bs (8 * i) 8)

/-- The code is in the instruction store: it is copied unless the store has kept this image. -/
def loadCode (s : State) (c image : Nat) (h : ImageHdr) : Except Halt State :=
  let x := coreAt s c
  if x.imageKept ∧ x.imageAddr = image ∧ x.imageId = h.imageId then .ok s
  else if !written s (image + h.codeOff) h.codeLen then .error (.undefinedCase 13)
  else do
    let (bs, _, s1) ← kernRead s (image + h.codeOff) h.codeLen
    .ok (updCore s1 c fun y =>
      { y with code := codeWords bs h.codeLen, imageAddr := image, imageId := h.imageId, imageKept := true })

/-- The data section is in SRAM. -/
def loadData (s : State) (c image : Nat) (h : ImageHdr) : Except Halt State :=
  if h.dataLen = 0 then .ok s
  else if !written s (image + h.dataOff) h.dataLen then .error (.undefinedCase 13)
  else do
    let (bs, _, s1) ← kernRead s (image + h.dataOff) h.dataLen
    .ok (writeMem s1 16 (sramKey c h.dataDst) bs)

/-- Scalar registers at the start: s1 to s8 from the first NARGS argument words. -/
def startRegs (args : List Nat) (n : Nat) : FMap Word :=
  ((List.range 8).filterMap fun i =>
    let v := (args[i]?).getD 0 % 2 ^ 64
    if i < n ∧ v ≠ 0 then some (i + 1, BitVec.ofNat 64 v) else none)

/-- The control processor starts at ENTRY. -/
def startCore (s : State) (c q : Nat) (i : Item) (h : ImageHdr) (args : List Nat) : State :=
  let tag := match FMap.find s.guard.steps q with
    | some st => if i.inStep then some st.tag else none
    | none => none
  let s1 := updCore s c fun x =>
    { x with
      running := true, pc := h.entry, sregs := startRegs args h.nargs, tregs := []
      cmdid := i.cmdid, cls := (queueAt s q).cls, mode := i.mode, sens := i.sens
      rank := (i.targets.idxOf? c).getD 0, count := i.targets.length, step := tag, owner := some (q, i.idx)
      feedQ := [], feedRun := none, cells := [], churn := [], kblocks := 0, tiles := [], toClear := [], order := [], drainQ := [], drainWait := none
      vopQ := [], dma := [], outgoing := [] }
  let s2 := regSet s1 (coreReg c 0x208) 0
  updItem s2 q i.idx fun y => { y with waitCores := y.waitCores.filter (· ≠ c), runCores := y.runCores ++ [c] }

/-- The image of an item has changed since the engine fetched the item, and its IMAGE_ID has not (R102). -/
def imageChanged (s : State) (i : Item) : Bool :=
  match i.seen, imageSeen s i.cmd with
  | some a, some b => decide (a.1 = b.1) && decide (a.2 ≠ b.2)
  | _, _ => false

/-- A core is prepared for its item's kernel and starts. -/
def launch (s : State) (c q : Nat) (i : Item) : Except Halt State :=
  match i.cmd with
  | .kernel image _ args => do
    if !written s image 64 || imageChanged s i then .error (.undefinedCase 13)
    else
      let (hb, _, s1) ← kernRead s image 64
      let h := parseHdr hb
      if !hdrOk h then .error (.undefinedCase 13)
      else do
        let s2 ← loadCode s1 c image h
        let s3 ← loadData s2 c image h
        .ok (startCore s3 c q i h args)
  | _ => .ok s

/-- KERNEL_CORE_START. -/
def execKernelCoreStart (core : Nat) (s : State) : Out State :=
  match nextKernel s core with
  | none => .next s
  | some (q, i) => actE s (engineRuns s && !(coreAt s core).running && domOn s ⟨.core, core⟩) (launch s core q i)

end Sys2Proof.Machine
end

