-- ==== Sys2Proof/Machine/Observe.lean ====
section
/-! DEFINITION. Snapshots of the counters (R427 to R430), the quiesce of a job fault (R456 to R460) and the test access port (R356,
R357). -/

namespace Sys2Proof.Machine

/-! ### SNAPSHOT_TICK (R427 to R430) -/

/-- The bytes of `n` counters, or ones where their unit is out of use (R422). -/
def counterBytes (s : State) (used : Bool) (n : Nat) (at_ : Nat → Nat) : List Byte :=
  (List.range n).flatMap fun i => leBytes 8 (if used then regGet s (at_ i) else 2 ^ 64 - 1)

/-- One section of a record. -/
def snapSection (s : State) : Nat → List Byte
  | 0 => (List.range 1024).flatMap fun c => counterBytes s (coreEnabled s c) 16 fun i => coreCtr c i
  | 1 => (List.range 1024).flatMap fun v => counterBytes s (vaultInService s v) 8 fun i => vltCtr v i
  | 2 => sheaves.flatMap fun h => (List.range 137).flatMap fun p => counterBytes s true 4 fun i => stopCtr h p i
  | 3 => (List.range 32).flatMap fun l => counterBytes s (linkInService s l) 8 fun i => lnkCtr l i
  | _ => sheaves.flatMap fun h => counterBytes s true 8 fun i => zoneCtr h i

/-- A record: header and the sections of its mask (Table 16.7). -/
def snapRecord (s : State) (r : SnapRun) : List Byte :=
  leBytes 4 0x53504E53 ++ leBytes 4 r.seq ++ leBytes 8 r.next ++ leBytes 4 (snapLen r.p.mask) ++ leBytes 1 r.p.mask
    ++ leBytes 1 (timeCode s.time.st) ++ leBytes 2 (min 65535 r.missed) ++ leBytes 4 s.pmc.selgen ++ zeros 36
    ++ (bitList r.p.mask 5).flatMap (snapSection s)

/-- Ticks after the next one that DTIME has passed. -/
def ticksSkipped (s : State) (r : SnapRun) : Nat := (nowNs s - r.next) / r.p.period

/-- The run after a tick: the ticks that DTIME passed with it are missed. -/
def afterTick (s : State) (r : SnapRun) (seq missed : Nat) : State :=
  let k := ticksSkipped s r
  let next := r.next + (k + 1) * r.p.period
  let s1 := if k = 0 then s else count (regFlag s (pmcReg 0 8) 1 true) (pmcReg 0 0x10) k
  let s2 := regSet s1 (pmcReg 0 0x40) next
  { s2 with pmc := { s2.pmc with run := some { r with next := next, seq := seq, missed := missed + k } } }

/-- One tick: a record is written at the tail, or dropped where the tail would reach the head. -/
def snapTick (s : State) (r : SnapRun) : Except Halt State :=
  let tail := regFld s (pmcReg 0 0x30) 15 0
  let new := (tail + 1) % r.p.entries
  if new = regFld s (pmcReg 0 0x38) 15 0 then
    .ok (afterTick (event s (pmcReg 0 8) 2 (pmcReg 0 0x18)) r r.seq (r.missed + 1))
  else do
    let s1 ← devWrite s (r.p.base + r.slot * tail) (snapRecord s r)
    let s2 := regSetFld s1 (pmcReg 0 0x30) 15 0 new
    let s3 := if bit r.p.vector 15 && (r.seq + 1) % r.p.every == 0 then msix s2 (bits r.p.vector 10 0) else s2
    return afterTick s3 r (r.seq + 1) 0

/-- SNAPSHOT_TICK: DTIME has reached the next tick. -/
def execSnapshotTick (s : State) : Out State :=
  match s.pmc.run with
  | none => .next s
  | some r => actE s (decide (r.next ≤ nowNs s)) (snapTick s r)

/-! ### JOB_FAULT_QUIESCE (R456, R457, R460) -/

/-- A cause that a unit reports by itself: face-to-face parity, shown in CORE_STATUS, or the queue engine. -/
def unitFault (s : State) : UnitFault → State
  | .parity c => detect (regFlag s (coreReg c 8) 4 true) ⟨0x02, 0, c, 0, 0, 0xFFFF, 0⟩
  | .queueEngine sub => detect s ⟨0x07, sub, 0xFFFF, 0, 0, 0xFFFF, 0⟩

/-- The cause is one that a unit can report. -/
def unitFaultOk (s : State) : UnitFault → Bool
  | .parity c => coreEnabled s c
  | .queueEngine sub => decide (sub < 2)

/-- Every cause detected is handled, and the pail commands that wait for an end are answered. -/
def quiesce (s : State) (hw : Option UnitFault) : Except Halt State := do
  let s1 := match hw with
    | some f => unitFault s f
    | none => s
  let s2 ← takeCauses s1
  settlePails s2

/-- JOB_FAULT_QUIESCE. -/
def execJobFaultQuiesce (hw : Option UnitFault) (s : State) : Out State :=
  actE s (match hw with
    | some f => unitFaultOk s f
    | none => !s.fault.detected.isEmpty) (quiesce s hw)

/-! ### The test access port (R356, R357) -/

/-- Some link is enabled. -/
def anyLinkOn (s : State) : Bool := (List.range 32).any fun l => bit (regGet s (lnkReg l 0)) 0

/-- The port runs an instruction. -/
def tapTo (s : State) (t : TapInstr) : State := { s with board := { s.board with tap := t } }

/-- TEST_ACCESS_PORT_INSTRUCTION: instructions that drive pins only while PERST# is asserted and no link is enabled; the
manufacturing functions are reached under TESTMODE alone, and are not described. -/
def execTestAccessPortInstruction (t : TapInstr) (s : State) : Out State :=
  match t with
  | .bypass => act s true (tapTo s .bypass)
  | .idcode => act s true (tapTo s .idcode)
  | .manufacturing =>
    if powered s && s.boot.straps.testmode then .refused (.notDescribed "manufacturing test functions") else .next s
  | t => actE s true (orUndef (s.boot.perst && !anyLinkOn s) 57 (.ok (tapTo s t)))

end Sys2Proof.Machine
end

