-- ==== Sys2Proof/Machine/Power.lean ====
section
/-! DEFINITION. Power delivery and capping (R350, R351, R366 to R384): samples of the rails, the 1 ms update,
operating-point changes, the governor and its hints, droop, cells and the battery hand-over. -/

namespace Sys2Proof.Machine

/-! ### Rails (Tables 12.6 and 13.1) -/

/-- Voltage setpoint of a rail, mV: VDD_LOGIC at its point, or at the boot voltage before the firmware's first write
(R367, R368). -/
def railMv (s : State) (h rail : Nat) : Nat :=
  if rail = 0 then (if s.boot.phase = .rom ∨ s.boot.phase = .stuck then 750 else oppMv (oppNow s h))
  else [0, 800, 1050, 1800, 700, 750, 1200].getD rail 0

/-- Current ceiling of a zone or pair, mA. -/
def railCeil (rail : Nat) : Nat := [520000, 60000, 110000, 10000, 45000, 110000, 10000].getD rail 0

/-- AVSBus `n` carries the rail: pairs lie on even buses only. -/
def onBus (n rail : Nat) : Bool := decide (n < 8) && (decide (rail < 5) || (decide (rail < 7) && n % 2 == 0))

/-- Accounted current of a rail on AVSBus `n`, mA: its reading, or its ceiling while readings are missing (R351). -/
def railMa (s : State) (n rail : Nat) : Nat :=
  let x := sheafPowerAt s n
  if x.missing.contains rail then railCeil rail else FMap.getD x.rails rail 0

/-- Power of a rail on AVSBus `n`, mW. -/
def railMw (s : State) (n rail : Nat) : Nat := railMa s n rail * railMv s n rail / 1000

/-- Power of a sheaf's pair of link rails, mW: pair p feeds sheaves p and p + 4, and lies on AVSBus 2p. -/
def pairMw (s : State) (h : Nat) : Nat := railMw s (2 * (h % 4)) 5 + railMw s (2 * (h % 4)) 6

/-- Power of a sheaf's zones and of its half of the link pairs, mW. -/
def sheafNowMw (s : State) (h : Nat) : Nat :=
  ((List.range 5).map fun r => railMw s h r).foldl (· + ·) 0 + pairMw s h / 2

/-- Package power of the latest sample, mW (R372). -/
def packageNowMw (s : State) : Nat :=
  (sheaves.map fun h => ((List.range 5).map fun r => railMw s h r).foldl (· + ·) 0).foldl (· + ·) 0
    + ((List.range 4).map fun p => pairMw s p).foldl (· + ·) 0 + s.power.boostMw + s.power.aonMw + s.power.ioMw

/-! ### AVSBUS_SAMPLE (R372, R381) -/

/-- A reading is taken, and a missing rail reads again. -/
def takeReading (s : State) (r : RailReading) : State :=
  if onBus r.sheaf r.rail then
    let x := sheafPowerAt s r.sheaf
    setSheafPower s r.sheaf { x with
      rails := FMap.set x.rails r.rail r.ma, missing := x.missing.filter fun k => k != r.rail }
  else s

/-- Energy of 10 µs joins a power-zone counter: 1 mW is 10 nJ, and the counter counts µJ. -/
def addEnergy (s : State) (h n mw : Nat) : State :=
  let x := sheafPowerAt s h
  let e := FMap.getD x.nj n 0 + 10 * mw
  count (setSheafPower s h { x with nj := FMap.set x.nj n (e % 1000) }) (zoneCtr h n) (e / 1000)

/-- A sheaf's zone counters and averages take the sample. -/
def meterSheaf (s : State) (h : Nat) : State :=
  let s1 := addEnergy s h 0 (railMw s h 0)
  let s2 := addEnergy s1 h 1 (railMw s h 1)
  let s3 := addEnergy s2 h 2 (railMw s h 2 + railMw s h 3)
  let s4 := addEnergy s3 h 3 (railMw s h 4)
  let s5 := addEnergy s4 h 4 (pairMw s h / 2)
  let x := sheafPowerAt s5 h
  regSetFld (setSheafPower s5 h { x with sum := x.sum + sheafNowMw s h, n := x.n + 1 }) (pwrReg h 8) 15 0
    (min (railMa s h 0 / 100) 65535)

/-- A reading puts a zone within 2 % of its ceiling, or all lie 5 % below. -/
def zoneNear (s : State) (h : Nat) : Bool :=
  (List.range 5).any fun r => decide (98 * railCeil r ≤ 100 * FMap.getD (sheafPowerAt s h).rails r 0)
def zoneClear (s : State) (h : Nat) : Bool :=
  (List.range 5).all fun r => decide (100 * FMap.getD (sheafPowerAt s h).rails r 0 ≤ 95 * railCeil r)

/-- The ceiling ramp of a zone starts with its event, and ends 5 % below the ceiling (R381). -/
def ceilRamp (s : State) (h : Nat) : State :=
  let x := sheafPowerAt s h
  if zoneNear s h && !x.emergCeil then
    showEmerg (setSheafPower (event s (pwrReg h 0) 8 (pwrReg h 0x20)) h { x with emergCeil := true }) h
  else if x.emergCeil && zoneClear s h then showEmerg (setSheafPower s h { x with emergCeil := false }) h
  else s

/-- The sample of every 10 µs. -/
def avsSample (s : State) (rs : List RailReading) : State :=
  let s1 := forEach s rs takeReading
  let s2 := forEach s1 sheaves meterSheaf
  let p := packageNowMw s2
  forEach { s2 with power := { s2.power with p10 := p, sum := s2.power.sum + p, n := s2.power.n + 1 } } sheaves ceilRamp

/-- AVSBUS_SAMPLE. -/
def execAvsbusSample (rs : List RailReading) (s : State) : Out State := act s true (avsSample s rs)

/-- Zone or pair number of a rail on an AVSBus. -/
def zoneNo (n rail : Nat) : Nat := if rail < 5 then n else n / 2

/-- AVSBUS_READING_MISSING (R351, R372): the zone is accounted at its ceiling until readings resume. -/
def execAvsbusReadingMissing (sheaf rail : Nat) (s : State) : Out State :=
  let x := sheafPowerAt s sheaf
  act s (onBus sheaf rail && !x.missing.contains rail)
    (noteRecord (event (setSheafPower s sheaf { x with missing := rail :: x.missing }) (pwrReg sheaf 0) 11 (pwrReg sheaf 0x38))
      4 0x40 (8 * rail + zoneNo sheaf rail) 0)

/-! ### PMBus (R351, R367) -/

/-- A rail and zone of Table 12.9. -/
def pmbusOk (f : PmbusFault) : Bool :=
  (decide (f.rail < 5) && decide (f.zone < 8)) || (decide (5 ≤ f.rail) && decide (f.rail < 7) && decide (f.zone < 4))
    || (decide (7 ≤ f.rail) && decide (f.rail < 10) && f.zone == 0)

/-- A failed phase is recorded as a board event; nothing else follows. -/
def notePhase (s : State) (f : PmbusFault) : State :=
  if pmbusOk f then noteRecord s 4 0x41 (8 * f.rail + f.zone) 0 else s

/-- PMBUS_POLL: the power of VBOOST, VDD_AON and VDD_IO, and every regulator's fault status. -/
def execPmbusPoll (boostMw aonMw ioMw : Nat) (faults : List PmbusFault) (s : State) : Out State :=
  act s true (forEach { s with power := { s.power with boostMw, aonMw, ioMw } } faults notePhase)

/-- PMB_ALERT: the regulators' status is read. -/
def execPmbAlert (faults : List PmbusFault) (s : State) : Out State := act s true (forEach s faults notePhase)

/-! ### POWER_UPDATE: the figures (R372) -/

/-- P1MS of a sheaf. -/
def closeMs (s : State) (h : Nat) : State :=
  let x := sheafPowerAt s h
  if x.n = 0 then s
  else regSetFld (setSheafPower s h { x with sum := 0, n := 0 }) (pwrReg h 8) 47 32 (min 65535 (x.sum / x.n / 1000))

/-- P1MS and PWIN of the package. -/
def closePackage (s : State) : State :=
  if s.power.n = 0 then s
  else
    let p := s.power.sum / s.power.n
    let hist := (p :: s.power.history).take 10000
    let win := hist.take (regFld s (pwrReg 0 0x100) 31 16)
    let s1 := { s with power := { s.power with sum := 0, n := 0, history := hist } }
    regSetFld (regSetFld s1 (pwrReg 0 0x108) 15 0 (min 65535 (p / 1000))) (pwrReg 0 0x108) 31 16
      (min 65535 (win.foldl (· + ·) 0 / max 1 win.length / 1000))

/-! ### Reductions (R377) -/

/-- Package power is above the effective cap, or P10 above the 1,000 W of a flow emergency (R409). -/
def overPackage (s : State) : Bool :=
  decide (effCapMw s < packageMw s) || decide (effCapMw s < 1000 * regFld s (pwrReg 0 0x108) 31 16)
    || (s.thermal.emerg && decide (1000000 < s.power.p10))

/-- A sheaf is above its thermal allowance (R411). -/
def overAllow (s : State) (h : Nat) : Bool := match FMap.find s.thermal.allow h with
  | some a => decide (a < sheafMw s h)
  | none => false

/-- The point of a sheaf is at the floor of R377 and no change is under way. -/
def atFloor (s : State) (h : Nat) : Bool :=
  (sheafPowerAt s h).target.isNone && decide (oppNow s h ≤ (if holdsReserve s h then 6 else 0))

/-- Enabled cores of a sheaf outside the reserve, and in it. -/
def otherCores (s : State) (h : Nat) : List Nat :=
  ((enabledLocal s h).map (h * 128 + ·)).filter fun c => !reserveCore s c
def reserveCores (s : State) (h : Nat) : List Nat :=
  ((enabledLocal s h).map (h * 128 + ·)).filter fun c => reserveCore s c

/-- The permit is never above its ceiling. -/
def clampPermit (s : State) (c : Nat) : State := setPermit s c (min (permitOf s c) (permitCeil s c))

/-- The ceilings of R377 of some cores fall, or rise, by `k`. -/
def lowerCeils (s : State) (cs : List Nat) (k : Nat) : State :=
  forEach s cs fun s c => clampPermit (setGov s c { govAt s c with capCeil := (govAt s c).capCeil - k }) c
def raiseCeils (s : State) (cs : List Nat) (k : Nat) : State :=
  forEach s cs fun s c => setGov s c { govAt s c with capCeil := min 16 ((govAt s c).capCeil + k) }

/-- Vaults of a sheaf in service. -/
def sheafVaults (s : State) (h : Nat) : List Nat :=
  ((List.range 128).map (h * 128 + ·)).filter fun v => vaultInService s v

/-- ROW_LIMIT of a vault, and the most that R238 lets it be. -/
def rowLimit (s : State) (v : Nat) : Nat := regFld s (vltReg v 0x1008) 4 0
def rowTop (s : State) (v : Nat) : Nat := if bit (regGet s (vltReg v 0)) 4 then 4 else 16

/-- ROW_LIMIT of a sheaf's vaults falls, or rises, by `k`. -/
def lowerRows (s : State) (h k : Nat) : State :=
  forEach s (sheafVaults s h) fun s v => regSetFld s (vltReg v 0x1008) 4 0 (max 1 (rowLimit s v - k))
def raiseRows (s : State) (h k : Nat) : State :=
  forEach s (sheafVaults s h) fun s v => regSetFld s (vltReg v 0x1008) 4 0 (min (rowTop s v) (rowLimit s v + k))

/-- Every permit ceiling outside the reserve is 0; every vault's ROW_LIMIT is 1. -/
def othersOut (s : State) (h : Nat) : Bool := (otherCores s h).all fun c => (govAt s c).capCeil == 0
def rowsOut (s : State) (h : Nat) : Bool := (sheafVaults s h).all fun v => decide (rowLimit s v ≤ 1)

/-- The reserve of a sheaf may be reduced: in a hold-up or a flow emergency once every other core's permit is 0 and
every sheaf without reserve is at OPP0, in a thermal emergency of the sheaf once its others are at 0 (R382, R409,
R411). -/
def reserveMayFall (s : State) (h : Nat) : Bool :=
  ((s.power.holdup != .none || s.thermal.emerg) && overPackage s
      && sheaves.all (fun g => (otherCores s g).all (fun c => permitOf s c == 0) && (holdsReserve s g || oppNow s g == 0)))
    || (bit (regGet s (thmReg h 0)) 1 && overAllow s h && (otherCores s h).all fun c => permitOf s c == 0)

/-- The amount of one step of a reduction, which the manual leaves open. -/
def reduceStep (s : State) (h : Nat) : Nat := Config.choose s.free h % 17

/-- A zone of VDD_DRAM or VPP_DRAM is within 2 % of its ceiling, which ROW_LIMIT is to keep it below (R238, R381). -/
def nearDram (s : State) (h : Nat) : Bool := [2, 3].any fun r => decide (98 * railCeil r ≤ 100 * railMa s h r)

/-- One update of a sheaf's levers after its point: ROW_LIMIT for the DRAM zones; permit ceilings outside the reserve, then
ROW_LIMIT, then the reserve where it may fall; raised in reverse order. -/
def levers (s : State) (h : Nat) : State :=
  let k := reduceStep s h
  let above := (overPackage s && sheaves.all fun g => atFloor s g) || (overAllow s h && atFloor s h)
  if nearDram s h && !rowsOut s h then lowerRows s h k
  else if above then
    if !othersOut s h then lowerCeils s (otherCores s h) k
    else if !rowsOut s h then lowerRows s h k
    else if reserveMayFall s h then lowerCeils (startOpp s h (oppNow s h - 1)) (reserveCores s h) k
    else s
  else if overPackage s || overAllow s h then s
  else
    let s1 := raiseCeils s (reserveCores s h) k
    if nearDram s h then s1
    else if (sheafVaults s1 h).any fun v => decide (rowLimit s1 v < rowTop s1 v) then raiseRows s1 h k
    else raiseCeils s1 (otherCores s1 h) k

/-- A reduction of R377 is in force in a sheaf. -/
def capping (s : State) (h : Nat) : Bool :=
  let top := (sheafPowerAt s h).pin.getD (sheafCeil s h)
  decide ((sheafPowerAt s h).target.getD (oppNow s h) < top)
    || (enabledLocal s h).any (fun i => decide ((govAt s (h * 128 + i)).capCeil < 16))
    || (sheafVaults s h).any (fun v => decide (rowLimit s v < 16))

/-- PWR_STATUS.CAPPING, and the count of milliseconds with a reduction. -/
def showCapping (s : State) (h : Nat) : State :=
  let s1 := regFlag s (pwrReg h 0) 5 (capping s h)
  if capping s h then count s1 (zoneCtr h 7) 1 else s1

/-- The later levers of R377 are back: ROW_LIMIT at its top but for what the DRAM zones hold down, and every permit ceiling
outside the reserve at 16. -/
def leversBack (s : State) (h : Nat) : Bool :=
  (nearDram s h || (sheafVaults s h).all fun v => decide (rowTop s v ≤ rowLimit s v))
    && (otherCores s h).all fun c => (govAt s c).capCeil == 16

/-- One update of a sheaf: its operating point, then the other levers; the point rises only after them, in the reverse of the
order in which they fell (R375, R377). -/
def updateSheaf (s : State) (h : Nat) : State :=
  let goal := oppGoal s h
  let s1 := if (reserveMayFall s h && decide (oppNow s h < 6)) || (decide (oppNow s h < goal) && !leversBack s h) then s
    else startOpp s h goal
  showCapping (levers s1 h) h

/-- POWER_UPDATE. -/
def execPowerUpdate (s : State) : Out State :=
  let s1 := setEffCap (closePackage (forEach s sheaves closeMs))
  act s true (bump (forEach s1 sheaves updateSheaf))

/-! ### OPP_CHANGE_END (R374) -/

/-- The change of a sheaf ends at its point, and the latest held request is served. -/
def endChange (s : State) (h t : Nat) : State :=
  let x := sheafPowerAt s h
  let s1 := setOpp (setSheafPower s h { x with target := none, heldReq := none }) h t
  match x.heldReq with
  | some r => startOpp s1 h r
  | none => s1

/-- OPP_CHANGE_END; a POWER_SET_OPP that waits for it is answered. -/
def execOppChangeEnd (sheaf : Nat) (s : State) : Out State :=
  match (sheafPowerAt s sheaf).target with
  | none => .next s
  | some t => actE s (decide (sheaf < 8)) (settlePails (endChange s sheaf t))

/-! ### GOVERNOR_ROUND (R379 to R381) -/

/-- Slots that a core issued in its last 16, valid or ballast, as the round finds them. -/
def usedOf (us : List (Nat × Nat)) (c : Nat) : Nat := match us.find? fun u => u.1 == c with
  | some u => min 16 u.2
  | none => 0

/-- A core has FEEDs to issue. -/
def feeding (s : State) (c : Nat) : Bool := (coreAt s c).feedRun.isSome || !(coreAt s c).feedQ.isEmpty

/-- The activity of a core is noted; ten rounds (1 µs) below its permit lower the permit to its activity. -/
def noteUse (us : List (Nat × Nat)) (s : State) (c : Nat) : State :=
  let u := usedOf us c
  let g := govAt s c
  if permitOf s c ≤ u then setGov s c { g with used := u, below := 0, peak := 0 }
  else if g.below + 1 < 10 then setGov s c { g with used := u, below := g.below + 1, peak := max g.peak u }
  else setPermit (setGov s c { g with used := u, below := 0, peak := 0 }) c (min (permitOf s c) (max g.peak u))

/-- The highest permit a core may be granted: its ceiling, and while it issues only ballast the target of the hint in
force. -/
def grantTop (s : State) (c : Nat) : Nat :=
  match hintForce (govAt s c) with
  | some t => if feeding s c then permitCeil s c else min t (permitCeil s c)
  | none => permitCeil s c

/-- The next core of a group in round robin that may take a unit, from local number `rr`. -/
def nextCore (p : Nat → Bool) (cs : List Nat) (rr : Nat) : Option Nat :=
  match cs.find? fun c => decide (rr ≤ c % 128) && p c with
  | some c => some c
  | none => cs.find? p

/-- One unit is granted to a core. -/
def giveUnit (s : State) (h c : Nat) (res : Bool) : State :=
  let s1 := count (setPermit s c (permitOf s c + 1)) (zoneCtr h 6) 1
  let x := sheafPowerAt s1 h
  let rr := (c + 1) % 128
  setSheafPower s1 h (if res then { x with rrReserve := rr } else { x with rr := rr })

/-- The budget is spent one unit at a time: qualifying reserve cores first, then the others. -/
def grantUnits : Nat → State → Nat → List Nat → List Nat → State
  | 0, s, _, _, _ => s
  | n + 1, s, h, rs, os =>
    let room (c : Nat) : Bool := decide (permitOf s c < grantTop s c)
    match nextCore room rs (sheafPowerAt s h).rrReserve with
    | some c => grantUnits n (giveUnit s h c true) h rs os
    | none => match nextCore room os (sheafPowerAt s h).rr with
      | some c => grantUnits n (giveUnit s h c false) h rs os
      | none => s

/-- Permits outside the reserve fall, one unit at a time in rotation (R381). -/
def shedUnits : Nat → State → Nat → List Nat → State
  | 0, s, _, _ => s
  | n + 1, s, h, os =>
    match nextCore (fun c => decide (0 < permitOf s c)) os (sheafPowerAt s h).rr with
    | none => s
    | some c =>
      let s1 := setPermit s c (permitOf s c - 1)
      shedUnits n (setSheafPower s1 h { sheafPowerAt s1 h with rr := (c + 1) % 128 }) h os

/-- A core's ballast: at its permit while a hint is in force and it has no FEED, none while FEEDs issue (R380). -/
def setBallast (s : State) (c : Nat) : State :=
  let g := govAt s c
  if (hintForce g).isSome then setGov s c { g with ballast := if feeding s c then 0 else permitOf s c } else s

/-- Ballast of cores whose hint has ended falls by one unit each, `n` units in all. -/
def fallBallast : Nat → State → List Nat → State
  | 0, s, _ => s
  | _, s, [] => s
  | n + 1, s, c :: cs =>
    let g := govAt s c
    if (hintForce g).isNone && decide (0 < g.ballast) then fallBallast n (setGov s c { g with ballast := g.ballast - 1 }) cs
    else fallBallast (n + 1) s cs

/-- Ballast slots of a sheaf in 100 ns: a permit q issues at q / 16 of CCLK. -/
def ballastSlots (s : State) (h : Nat) : Nat :=
  ((enabledLocal s h).map fun i => (govAt s (h * 128 + i)).ballast).foldl (· + ·) 0 * oppMhz (oppNow s h) / 160

/-- One round of a sheaf's governor. -/
def governorRound (s : State) (h : Nat) (us : List (Nat × Nat)) : State :=
  let unit := oppUnit (oppNow s h)
  let slope := regFld s (pwrReg h 0x10) 7 0
  let cs := (enabledLocal s h).map (h * 128 + ·)
  let full := cs.filter fun c => decide (permitOf s c ≤ usedOf us c)
  let s1 := forEach s cs (noteUse us)
  let x := sheafPowerAt s1 h
  let mA := x.carry + slope * 100
  let s2 := setSheafPower s1 h { x with
    carry := mA % unit, activity := (cs.map fun c => usedOf us c).foldl (· + ·) 0 }
  let rs := full.filter fun c => reserveCore s c
  let os := full.filter fun c => !reserveCore s c
  let s3 := if emergOn s h then grantUnits (mA / unit) (shedUnits (4 * slope * 100 / unit) s2 h (otherCores s2 h)) h rs []
    else grantUnits (mA / unit) s2 h rs os
  let s4 := fallBallast (mA / unit) (forEach s3 cs setBallast) cs
  count s4 (zoneCtr h 5) (ballastSlots s4 h)

/-- GOVERNOR_ROUND. -/
def execGovernorRound (sheaf : Nat) (used : List (Nat × Nat)) (s : State) : Out State :=
  act s (decide (sheaf < 8)) (governorRound s sheaf used)

/-! ### Hints (R380) -/

/-- HINT_RAMP_START: the hinted core is On, and its permit rises with ballast. -/
def execHintRampStart (core : Nat) (s : State) : Out State :=
  let g := govAt s core
  act s (coreEnabled s core && domOn s ⟨.core, core⟩ && g.hint.isSome && !g.ramping)
    (setGov s core { g with ramping := true, hold := none })

/-- HINT_EXPIRY: the core has no FEED, and 10 µs have passed since its latest FEED and since the lead ended; its ballast
falls at SLOPE. -/
def execHintExpiry (core : Nat) (s : State) : Out State :=
  let g := govAt s core
  act s (g.hint.isSome && !feeding s core && decide (max g.lead g.fed + 10000 ≤ nowNs s))
    (setGov s core { g with hint := none, ramping := false, hold := none })

/-! ### Droop, clamps and cells (R369, R370) -/

/-- DROOP_DETECT: the site's boosters fire and its core's clock is stretched. -/
def execDroopDetect (core : Nat) (s : State) : Out State :=
  let h := core / 128
  act s (decide (core < 1024) && !s.power.stretched.contains core)
    (event { s with power := { s.power with stretched := core :: s.power.stretched } } (pwrReg h 0) 9 (pwrReg h 0x28))

/-- DROOP_RECOVERY. -/
def execDroopRecovery (core : Nat) (s : State) : Out State :=
  act s (s.power.stretched.contains core)
    { s with power := { s.power with stretched := s.power.stretched.filter fun c => c != core } }

/-- CLAMP_ENGAGE: a site's clamps engage or release. -/
def execClampEngage (core : Nat) (engaged : Bool) (s : State) : Out State :=
  let l := s.power.clamped.filter fun c => c != core
  act s (decide (core < 1024)) { s with power := { s.power with clamped := if engaged then core :: l else l } }

/-- Bit of a core's ceiling field in its PWR_CEIL register. -/
def ceilReg (c : Nat) : Nat := pwrReg (c / 128) (0x40 + 8 * (c % 128 / 16))

/-- A cell of a site is switched out: counted, recorded, and the site's ceiling falls by one point, not below OPP4; a
site that has lost three boosters or both clamps is marked for retirement. -/
def cellFails (s : State) (c : Nat) (clamp : Bool) : State :=
  let h := c / 128
  let x := FMap.getD s.power.cells c (0, 0)
  if (if clamp then x.2 ≥ 2 else x.1 ≥ 4) then s
  else
    let y := if clamp then (x.1, x.2 + 1) else (x.1 + 1, x.2)
    let s1 := { s with power := { s.power with cells := FMap.set s.power.cells c y } }
    let s2 := if clamp then regSetFld s1 (pwrReg h 0x18) 8 0 (regFld s1 (pwrReg h 0x18) 8 0 + 1)
      else regSetFld s1 (pwrReg h 0x18) 25 16 (regFld s1 (pwrReg h 0x18) 25 16 + 1)
    let s3 := noteRecord (event s2 (pwrReg h 0) 10 (pwrReg h 0x30)) 3 0x30 c 0
    let b := 4 * (c % 16)
    let s4 := regSetFld s3 (ceilReg c) (b + 2) b (if coreCeil s3 c ≤ 4 then coreCeil s3 c else coreCeil s3 c - 1)
    if 3 ≤ y.1 ∨ 2 ≤ y.2 then markUnit (regFlag s4 (ceilReg c) (b + 3) true) 0 4 c 0 else s4

/-- CELL_SELF_TEST: the cells that fail a test of a sheaf's sites. -/
def execCellSelfTest (sheaf : Nat) (fails : List CellFail) (s : State) : Out State :=
  act s (decide (sheaf < 8))
    (forEach s (fails.filter fun f => decide (f.core < 128)) fun s f => cellFails s (sheaf * 128 + f.core) f.clamp)

/-! ### Battery hand-over (R382) -/

/-- PWR_STATUS.HOLDUP and the emergency ramp of every sheaf follow the hold-up; operating points move to their goals. -/
def followHoldup (s : State) : State :=
  let on := s.power.holdup != .none
  forEach (setEffCap s) sheaves fun s h =>
    let s1 := showEmerg (regFlag s (pwrReg h 0) 7 on) h
    startOpp s1 h (oppGoal s1 h)

/-- PWR_WARN_FALL: a hold-up begins, or goes on; the hold-up cap is taken as it begins (R378). -/
def execPwrWarnFall (s : State) : Out State :=
  let cap := if s.power.holdup = .none then regFld s (pwrReg 0 0x100) 47 32 else s.power.holdCap
  act s (!s.power.warnLow)
    (followHoldup { s with power := { s.power with warnLow := true, holdup := .low, holdCap := cap } })

/-- PWR_WARN_RISE: the 500 ms return wait begins. -/
def execPwrWarnRise (s : State) : Out State :=
  act s s.power.warnLow
    { s with power := { s.power with
      warnLow := false, holdup := if s.power.holdup = .low then .returning else s.power.holdup } }

/-- HOLDUP_RETURN: the line has stayed high for 500 ms. -/
def execHoldupReturn (s : State) : Out State :=
  act s (s.power.holdup == .returning) (followHoldup { s with power := { s.power with holdup := .none } })

end Sys2Proof.Machine
end

