-- ==== Sys2Proof/Machine/RedStops.lean ====
section
/-! DEFINITION. Reduce-on-route at the stops: combining, holding, the destination's adds and its tag table
(R265 to R269). -/

namespace Sys2Proof.Machine

/-! ### The stops that a packet passes (R254) -/

/-- A position lies on the shorter way between two positions of a sheaf ring. -/
def betweenPos (a b p : Nat) : Bool :=
  if cwSide a b then decide ((p + 137 - a) % 137 ≤ (b + 137 - a) % 137) else decide ((a + 137 - p) % 137 ≤ (a + 137 - b) % 137)

/-- A stop lies on the way, from the stop that injected it last, of a packet that crosses the package in a direction. -/
def onWay (p : Packet) (fwd : Bool) (stop : Nat) : Bool :=
  let a := p.entered / 256
  let b := p.dst / 256
  let h := stop / 256
  let q := stop % 256
  let leave := if fwd then 1 else 0
  if a = b then h == a && betweenPos (p.entered % 256) (p.dst % 256) q
  else if h = a then betweenPos (p.entered % 256) leave q
  else if h = b then betweenPos (1 - leave) (p.dst % 256) q
  else decide (q < 2) && (if fwd then decide (fwdHops a h < fwdHops a b) else decide (fwdHops b h < fwdHops b a))

/-- A packet passes a stop: on its way, in the direction round the package that it was steered in, or round its
destination's ring once it has been turned away. -/
def passes (s : State) (p : Packet) (stop : Nat) : Bool :=
  stopLive stop && stop != p.dst
    && (stop != p.entered && onWay p (goesForward p.ring (p.entered / 256) (p.dst / 256) != p.back) stop
      || (stop / 256 == p.dst / 256 && (FMap.getD s.rings.turned p.dst []).contains (tripleOf p)))

/-! ### Combining and holding (R265, R266) -/

/-- Entries of a stop's combining buffer. -/
def heldAt (s : State) (stop : Nat) : List HeldRed := FMap.getD s.rings.combine stop []

/-- The state with a stop's combining buffer changed; an empty one is not listed. -/
def setHeld (s : State) (stop : Nat) (l : List HeldRed) : State :=
  { s with rings := { s.rings with
    combine := if l.isEmpty then FMap.drop s.rings.combine stop else FMap.set s.rings.combine stop l } }

/-- The least number that names no entry of the 64. -/
def freeHeld (l : List HeldRed) : Option Nat := (List.range 64).find? fun i => l.all fun e => e.id != i

/-- The stop may hold a packet: a gateway, or a core stop while HELD is below HOLDS; a window of 0 disables it. -/
def mayHold (s : State) (stop : Nat) (p : Packet) : Bool :=
  let cfg := regGet s (rngReg (stop / 256) 0x18)
  bits cfg 7 0 != 0 && (decide (stop % 256 < 2) || ((stopCore stop).isSome && decide (p.held < bits cfg 10 8)))

/-- The packet joins a held one. -/
def joinHeld (s : State) (id stop : Nat) (p : Packet) (e : HeldRed) : State :=
  count (setHeld (takeFlight s id) stop ((heldAt s stop).map fun x => if x.id = e.id then { x with p := combine e.p p } else x))
    (stopCtr (stop / 256) (stop % 256) 2) 1

/-- The packet is held; at a core stop HELD counts it. -/
def holdPacket (s : State) (id stop k : Nat) (p : Packet) : State :=
  let h := if stop % 256 < 2 then p.held else p.held + 1
  setHeld (takeFlight s id) stop (heldAt s stop ++ [⟨k, { p with held := h }⟩])

/-- A REDUCE packet passes a stop: it combines, is held, or passes on. -/
def passStop (s : State) (id stop : Nat) (p : Packet) : State :=
  match (heldAt s stop).find? fun e => sameRun e.p p with
  | some e => joinHeld s id stop p e
  | none => if mayHold s stop p then match freeHeld (heldAt s stop) with
      | some k => holdPacket s id stop k p
      | none => s
    else s

/-- REDUCE_PASS_STOP. -/
def execReducePassStop (id stop : Nat) (s : State) : Out State := match flightAt s id with
  | none => .next s
  | some p => act s (p.ty == .reduce && !ejected s id p && passes s p stop) (passStop s id stop p)

/-- REDUCE_HOLD_RELEASE: the entry is re-injected on its ring (R267). -/
def execReduceHoldRelease (stop entry : Nat) (s : State) : Out State :=
  match (heldAt s stop).find? fun e => e.id == entry with
  | none => .next s
  | some e => act s true (sendPacket (setHeld s stop ((heldAt s stop).filter fun x => x.id != entry)) stop e.p)

/-! ### The destination's adds (R268) -/

/-- The slots of a run after the packet's elements have been added. -/
def addRun (p : Packet) (slots : List Byte) : List Byte :=
  (List.range (redCount p)).flatMap fun i =>
    addToSlot p.efmt (slice slots (i * slotBytes p.efmt) (slotBytes p.efmt)) p.anchor (elemOf p.efmt p.data p.eflags p.rflags i)

/-- The bytes of the words that cover a run, with the run replaced by its sums. -/
def addWords (p : Packet) (pre : Nat) (words : List Byte) : List Byte :=
  let n := redCount p * slotBytes p.efmt
  words.take pre ++ addRun p (slice words pre n) ++ words.drop (pre + n)

/-- The destination reads the slots, adds and writes them back, in whole code words. -/
def addAtDest (s : State) (p : Packet) : Except Halt State :=
  let n := redCount p * slotBytes p.efmt
  match resolve s p.addr with
  | .vault v off => do
    let lo := off / 32 * 32
    let s ← vaultFree s v lo (roundUp (off + n) 32 - lo) true
    let (ws, _, s1) ← readVault (touchRow s v off) v lo (roundUp (off + n) 32 - lo)
    writeVault s1 v lo (addWords p (off - lo) ws)
  | .sram c off =>
    let lo := off / 16 * 16
    let r := readSram (wakeDom s ⟨.core, c⟩) c lo (roundUp (off + n) 16 - lo) 2
    remoteStore r.2.2 c lo (addWords p (off - lo) r.1)
  | .none k => .error (.undefinedCase k)
  | _ => .error (.undefinedCase 44)

/-! ### The tag table (R269) -/

/-- The state with a stop's tag table changed; an empty one is not listed. -/
def setTags (s : State) (stop : Nat) (l : List TagEntry) : State :=
  { s with rings := { s.rings with tags := if l.isEmpty then FMap.drop s.rings.tags stop else FMap.set s.rings.tags stop l } }

/-- The entry of a packet's tag: the open one, or a new one. -/
def entryFor (s : State) (p : Packet) : TagEntry :=
  (tagEntry s p.dst p.rtag).getD ⟨p.rtag, p.relems * p.rcount, 0, (stopCore p.dst).getD 0, p.ring⟩

/-- The notice of a complete tag leaves for the core of the same stop, on ring 0 (R123, R252). -/
def sendNotice (s : State) (p : Packet) : State :=
  sendPacket s p.dst { plainPacket .tagNotice 0 p.cls p.dst p.dst 0 p.addr 0 with rtag := p.rtag }

/-- A packet's contributions are counted toward its tag. -/
def countTag (s : State) (p : Packet) : Except Halt State :=
  let e := entryFor s p
  let others := (tagsAt s p.dst).filter fun x => x.tag != p.rtag
  let got := e.received + redCount p * p.contrib
  if e.expected ≠ p.relems * p.rcount then .error (.undefinedCase 44)
  else if e.expected < got then .error (.undefinedCase 46)
  else if got = e.expected then .ok (sendNotice (setTags s p.dst others) p)
  else .ok (setTags s p.dst (others ++ [{ e with received := got }]))

/-- A REDUCE packet at its destination. -/
def reduceAt (p : Packet) (s : State) : Except Halt State := do
  let s1 ← addAtDest s p
  countTag s1 p

/-- REDUCE_DESTINATION_ADD. -/
def execReduceDestinationAdd (id : Nat) (s : State) : Out State := arrival s id .reduce notLink reduceAt

/-! ### REDUCE_TIMEOUT (R269) -/

/-- The tag that a core's REDW waits for. -/
def waitedTag (s : State) (c : Nat) : Option Nat :=
  let x := coreAt s c
  if !x.running || x.code.isEmpty then none
  else match decodeTile ((x.code[x.pc / 8]?).getD 0).toNat with
    | some (.redw t) => some (sval s c t % 2 ^ 32)
    | _ => none

/-- A notice of the tag that the stop has formed is still on its way to the set. -/
def noticeOut (s : State) (stop tag : Nat) : Bool :=
  let isIt (p : Packet) : Bool := p.ty == .tagNotice && p.dst == stop && p.rtag == tag
  (injectQ s stop 0).any isIt || s.rings.flight.any fun e => isIt e.2

/-- A REDW of the stop's core waits for the tag, and the stop has neither an entry nor a notice for it. -/
def redwStarves (s : State) (stop tag : Nat) : Bool := match stopCore stop with
  | none => false
  | some c => waitedTag s c == some tag && !(coreAt s c).tags.contains tag && !(coreAt s c).heldTags.contains tag
      && !noticeOut s stop tag

/-- A reduce timeout: 0 an idle entry, 1 a REDW without one (Table 18.1). -/
def reduceTimeout (s : State) (stop tag sub : Nat) : State :=
  let h := stop / 256
  detect (event s (rngReg h 8) 2 (rngReg h 0x30)) ⟨0x04, sub, stop, 0, tag, 0xFFFF, 0⟩

/-- REDUCE_TIMEOUT. -/
def execReduceTimeout (stop tag : Nat) (s : State) : Out State :=
  match tagEntry s stop tag with
  | some _ => act s true (reduceTimeout (setTags s stop ((tagsAt s stop).filter fun x => x.tag != tag)) stop tag 0)
  | none => act s (redwStarves s stop tag) (reduceTimeout s stop tag 1)

end Sys2Proof.Machine
end

