-- ==== Sys2Proof/Machine/RegCmds.lean ====
section
/-! DEFINITION. Register accesses: writes, clears, reads with an effect, and accesses to blocks that are not On
(R11, R26, R66, R158, R274, R330, R343, R401, R420). -/

namespace Sys2Proof.Machine

/-! ### Where a register lies -/

/-- Sheaf of a register, and its offset in the sheaf's window. -/
def regSheaf (a : Nat) : Nat := (a - 0x30000000000) / 0x200000000
def regOff (a : Nat) : Nat := (a - 0x30000000000) % 0x200000000

/-- The address lies in the register windows. -/
def inRegs (a : Nat) : Bool := decide (0x30000000000 ≤ a) && decide (a < 0x31000000000)

/-- The block of a register is powered off or its clock stopped (R26, R65, R221, R401). -/
def blockOff (s : State) (a : Nat) : Bool :=
  let o := regOff a
  let h := regSheaf a
  if o < 0x800000 then
    let c := h * 128 + o / 0x10000
    !coreEnabled s c || !domOn s ⟨.core, c⟩
  else if o < 0x1000000 then
    let v := h * 128 + (o - 0x800000) / 0x10000
    !vaultInService s v || (domAt s ⟨.vault, v⟩).st == .off
  else if 0x1150000 ≤ o ∧ o < 0x1160000 then !domOn s ⟨.time, 0⟩
  else false

/-- An access to a block that is off: flagged, counted and recorded in its sheaf (R401). -/
def offAccess (s : State) (a : Nat) (write : Bool) : State :=
  let h := regSheaf a
  let s1 := event s (pwrReg h 0x800) 1 (pwrReg h 0x818)
  regSet s1 (pwrReg h 0x820) (2 ^ 34 + b2n write * 2 ^ 33 + regOff a % 2 ^ 33)

/-- The packets of an access wake the fabric of the register's sheaf (R395, R401). -/
def crossFabric (s : State) (a : Nat) : State := levelWake s ⟨.fabric, regSheaf a⟩

/-! ### Writes -/

/-- A 32-bit access acts on its half of the word; a 64-bit one on all of it (R26). -/
def laneShift (a width : Nat) : Nat := if width = 4 ∧ a % 8 = 4 then 32 else 0
def laneMask (a width : Nat) : Nat := if width = 4 then (2 ^ 32 - 1) * 2 ^ laneShift a width else 2 ^ 64 - 1

/-- The fields of a register that an access reaches. -/
def laneSpec (r : RegSpec) (a width : Nat) : RegSpec :=
  let m := laneMask a width
  { r with rw := r.rw &&& m, w1c := r.w1c &&& m, w1s := r.w1s &&& m, wo := r.wo &&& m }

/-- An error-log entry, which a clear of VALID empties (Tables 7.11 and 7.14). -/
def isLogEntry (a : Nat) : Bool :=
  let o := regOff a
  if 0x800000 ≤ o ∧ o < 0x1000000 then decide (0x100 ≤ o % 0x10000) && decide (o % 0x10000 < 0x180)
  else decide (0x1008000 ≤ o) && decide (o < 0x100C000) && decide (0x40 ≤ o % 0x80)

/-- The value that a write leaves in a register. -/
def written64 (s : State) (r : RegSpec) (a width v hwSet : Nat) : Nat :=
  let b := a / 8 * 8
  let x := writeValue (laneSpec r a width) (regGet s b) (v * 2 ^ laneShift a width % 2 ^ 64) hwSet
  if isLogEntry b && !bit x 63 then 0 else x

/-- The undefined case that a write meets: the host window or ring settings changed under a job, core blocks before READY (R439),
masks under a kernel, pool values under page-unit commands. -/
def writeBars (s : State) (a : Nat) : Option Nat :=
  let b := a / 8 * 8
  let o := regOff a
  if b = hubReg 0x40 ∧ s.job.isOpen then some 4
  else if o < 0x800000 ∧ s.boot.phase = .configReady then some 1
  else if o < 0x800000 ∧ (coreAt s (regSheaf a * 128 + o / 0x10000)).running ∧ 0x108 ≤ o % 0x10000 ∧ o % 0x10000 < 0x128 then some 7
  else if 0x1000010 ≤ o ∧ o < 0x1000020 ∧ s.job.isOpen then some 47
  else if b = pguReg (regSheaf a) 0 ∧ pageUnitsBusy s then some 1
  else none

/-- A register of 32 bits lies at the lower half of an aligned word, and its neighbour in the upper half (R26). -/
def pairAt (a : Nat) : Bool := (regSpec (a / 8 * 8 + 4)).isSome

/-- A write to a register; an offset that holds none is unpopulated (R19, R25). -/
def writeReg (s : State) (a width v hwSet : Nat) : Except Halt State :=
  let b := a / 8 * 8
  match regSpec b with
  | none => .error (.undefinedCase 2)
  | some r => match writeBars s a with
    | some k => .error (.undefinedCase k)
    | none =>
      if b = pguReg (regSheaf a) 8 then if bit v 0 && a % 8 == 0 then initUnit s (regSheaf a) else .ok s
      else .ok (regSet s b (written64 s r a width v hwSet))

/-- A register write from outside: dropped where the block is off. -/
def outerWrite (s : State) (a width v hwSet : Nat) : Except Halt State :=
  if (width ≠ 4 ∧ width ≠ 8) ∨ a % width ≠ 0 then .error (.undefinedCase 3)
  else if blockOff s a then .ok (offAccess (crossFabric s a) a true)
  else writeReg (crossFabric s a) a width v hwSet

/-! ### Reads -/

/-- The value of an aligned 64-bit word of a register window: all ones of the counters of a disabled core, a vault or a link out
of service (R422), zero of the error log of a disabled core, and both registers of a pair of 32-bit ones (R26). -/
def wordAt (s : State) (a : Nat) : Nat :=
  let o := regOff a
  let h := regSheaf a
  let b := a / 8 * 8
  if 0x1091000 ≤ o ∧ o < 0x1095000 ∧ !coreEnabled s (h * 128 + (o - 0x1091000) / 0x80) then 2 ^ 64 - 1
  else if 0x1096000 ≤ o ∧ o < 0x1098000 ∧ !vaultInService s (h * 128 + (o - 0x1096000) / 0x40) then 2 ^ 64 - 1
  else if 0x1010000 ≤ o ∧ o < 0x1050000 ∧ 0x100 ≤ o % 0x10000 ∧ o % 0x10000 < 0x140
      ∧ !linkInService s (4 * h + (o - 0x1010000) / 0x10000) then 2 ^ 64 - 1
  else if 0x1008000 ≤ o ∧ o < 0x100C000 ∧ !coreEnabled s (h * 128 + (o - 0x1008000) / 0x80) then 0
  else if pairAt a then viewReg s b + viewReg s (b + 4) * 2 ^ 32
  else viewReg s b

/-- The half of a word, or the whole, that an access reaches. -/
def laneOf (x a width : Nat) : Nat := x / 2 ^ laneShift a width % 2 ^ (8 * width)

/-- A read delivers its value. -/
def deliver (s : State) (v : Nat) : State := { s with host := { s.host with readData := v } }

/-- A read of TIM_NOW: DTIME, and its fraction in TIM_NOW_FRAC (R330). -/
def readNow (s : State) : State := regSet (deliver s (nowNs s)) (hubReg 0x50010) (s.time.dtime % 2 ^ 16)

/-- TIM_NOW_READ. -/
def execTimNowRead (s : State) : Out State :=
  act s (barUp s)
    (if blockOff s (hubReg 0x50008) then offAccess (deliver (crossFabric s (hubReg 0x50008)) (2 ^ 64 - 1)) (hubReg 0x50008) false
     else readNow (crossFabric s (hubReg 0x50008)))

/-- A read of a register by an access from outside: the value, and the state after (R19, R26, R401, R419). -/
def outerRead (s : State) (a width : Nat) : Except Halt (Nat × State) :=
  if (width ≠ 4 ∧ width ≠ 8) ∨ a % width ≠ 0 then .error (.undefinedCase 3)
  else if blockOff s a then .ok (2 ^ (8 * width) - 1, offAccess (crossFabric s a) a false)
  else match regSpec (a / 8 * 8) with
    | none => .error (.undefinedCase 2)
    | some r =>
      if r = .counter ∧ width ≠ 8 then .error (.undefinedCase 1)
      else .ok (laneOf (wordAt s a) a width, crossFabric s a)

/-- HUB_DTIME_READ: the status page needs no ring (R343). -/
def execHubDtimeRead (s : State) : Out State := act s (barUp s) (deliver s (nowNs s))

/-- PTM_DIALOGUE (R343). -/
def execPtmDialogue (root : Nat) (s : State) : Out State :=
  act s (!s.boot.pcieHeld && s.host.ptmEnable)
    { s with host := { s.host with
      ptmRoot := root % 2 ^ 64, ptmLocal := nowNs s, ptmSeq := (s.host.ptmSeq + 1) % 2 ^ 32 } }

/-! ### BAR0 (R341, R342) -/

/-- What an offset of BAR0 reaches (Table 12.2). -/
inductive Bar0 where
  /-- a pail's page, and the offset there -/
  | pail (p x : Nat)
  /-- the doorbell of a queue -/
  | doorbell (q x : Nat)
  | msix (x : Nat)
  | status (x : Nat)
  /-- a sheaf's counter page region -/
  | counters (h x : Nat)
  /-- a register window, through a privileged aperture: the device address -/
  | reg (a : Nat)
  | nothing
  deriving DecidableEq, Repr

/-- HUB_APSEL.SELa: the sheaf of core and vault aperture `a`. -/
def apSel (s : State) (a : Nat) : Nat := regFld s (hubReg 0x48) (4 * a + 2) (4 * a)

/-- Table 12.2: the fixed aperture of sheaf h reaches its window from 0x0100_0000, a core and vault aperture the window
of the sheaf that HUB_APSEL names (R342). -/
def bar0 (s : State) (off : Nat) : Bar0 :=
  if off < 0x40000 then .pail (off / 0x1000) (off % 0x1000)
  else if 0x100000 ≤ off ∧ off < 0x180000 then .doorbell ((off - 0x100000) / 8) (off % 8)
  else if 0x180000 ≤ off ∧ off < 0x188100 then .msix (off - 0x180000)
  else if 0x200000 ≤ off ∧ off < 0x201000 then .status (off - 0x200000)
  else if 0x300000 ≤ off ∧ off < 0x380000 then .counters ((off - 0x300000) / 0x10000) (off % 0x10000)
  else if 0x1000000 ≤ off ∧ off < 0x2000000 then .reg (sheafWin ((off - 0x1000000) / 0x200000) (0x1000000 + off % 0x200000))
  else if 0x2000000 ≤ off ∧ off < 0x4000000 then .reg (sheafWin (apSel s ((off - 0x2000000) / 0x1000000)) (off % 0x1000000))
  else .nothing

/-- The register that an access reaches. -/
def pathReg (s : State) : RegPath → Option Nat
  | .addr a => if inRegs a then some a else none
  | .bar0 off => match bar0 s off with
    | .reg a => some a
    | _ => none

/-! ### Writes through BAR0 -/

/-- Offsets of a pail page that the host writes (Table 10.1). -/
def hostField (x : Nat) : Bool := decide (x < 0x10) || (decide (0x40 ≤ x) && decide (x < 0x800))

/-- A field of a page as the host wrote it. -/
def pageField (s : State) (p x n : Nat) : Nat := leNat ((List.range n).map fun i => FMap.getD (pageAt s p).host (x + i) 0)

/-- The request that a page holds. -/
def pageReq (s : State) (p : Nat) : PailReq := ⟨p, pageField s p 4 4, bit (pageField s p 2 2) 0, pageField s p 0xC 2⟩

/-- A pail is rung by a write to RING: a known opcode is the command of its own row, an unknown or reserved one is taken
and answered UNKNOWN_OPCODE (R275, R280). -/
def ringPail (s : State) (p : Nat) : Except Halt State :=
  if opcodeKnown (pageField s p 0 2) then .ok s
  else takeRing s (pageReq s p) (.registerWrite (.bar0 (0x1000 * p + 0x38)) 8 1) fun s => unknownPail s (pageReq s p)

/-- A write to a pail page, of any size and alignment (R276); between ring and answer it is undefined (R277). -/
def writePail (s : State) (p x width v : Nat) : Except Halt State :=
  if pailTaken s p then .error (.undefinedCase 49)
  else
    let bs := (List.range width).zip (leBytes width v)
    let s1 := setPage s p { pageAt s p with
      host := (bs.filter fun e => hostField (x + e.1)).foldl (fun m e => FMap.set m (x + e.1) e.2) (pageAt s p).host }
    if bs.any fun e => x + e.1 == 0x38 && e.2.getLsbD 0 then ringPail s1 p else .ok s1

/-- A write to a doorbell is one aligned 64-bit write, which has its own row; any other is undefined (R291). -/
def writeBell (s : State) (x width : Nat) : Except Halt State :=
  if x = 0 ∧ width = 8 then .ok s else .error (.undefinedCase 50)

/-- A dword of the MSI-X table is written: message address and data are kept, and a mask bit written 1 masks its vector;
one written 0 is MSIX_VECTOR_UNMASK (R346). The pending bits cannot be written. -/
def writeMsixDword (s : State) (x v : Nat) : State :=
  if 0x8000 ≤ x then s
  else if x % 16 = 12 then
    { s with host := { s.host with unmasked := if bit v 0 then s.host.unmasked.filter (· != x / 16) else s.host.unmasked } }
  else { s with host := { s.host with table := FMap.set s.host.table x (v % 2 ^ 32) } }

/-- A write to the MSI-X structures. -/
def writeMsix (s : State) (x width v : Nat) : State :=
  if width = 8 ∧ x % 8 = 0 then writeMsixDword (writeMsixDword s x v) (x + 4) (v / 2 ^ 32)
  else if width = 4 ∧ x % 4 = 0 then writeMsixDword s x v
  else s

/-- A write from outside: the status page, the counter pages and unpopulated offsets discard it (R341, R343, R426). -/
def pathWrite (s : State) (p : RegPath) (width v hwSet : Nat) : Except Halt State := match p with
  | .addr a => if inRegs a then outerWrite s a width v hwSet else .ok s
  | .bar0 off => match bar0 s off with
    | .pail q x => writePail s q x width v
    | .doorbell _ x => writeBell s x width
    | .msix x => .ok (writeMsix s x width v)
    | .reg a => outerWrite s a width v hwSet
    | _ => .ok s

/-- REGISTER_WRITE. -/
def execRegisterWrite (path : RegPath) (width : Nat) (value : Word) (s : State) : Out State :=
  actE s (barUp s) (pathWrite s path width value.toNat 0)

/-- The register of an access is an aligned 64-bit word. -/
def pathWord (s : State) (p : RegPath) : Bool := match pathReg s p with
  | some a => a % 8 == 0
  | none => false

/-- W1C_CLEAR_WRITE (R420): hardware sets of the same cycle win. -/
def execW1cClearWrite (path : RegPath) (mask hwSet : Word) (s : State) : Out State :=
  actE s (barUp s && pathWord s path) (pathWrite s path 8 mask.toNat hwSet.toNat)

/-! ### Reads through BAR0 -/

/-- HUB_STATE (Table 12.3). -/
def hubStateOf (s : State) : Nat :=
  (s.fault.nextSeq - 1) % 2 ^ 32 * 2 ^ 32 + 32 * b2n s.boot.linksReady + 16 * b2n (belowGrade s) + devCode s.boot.dev

/-- The status and time-capture page (Table 12.3); its other offsets are unpopulated. -/
def statusWord (s : State) (x : Nat) : Nat := match x / 8 with
  | 0 => hubStateOf s
  | 1 => nowNs s % 2 ^ 64
  | 2 => s.host.ptmRoot
  | 3 => s.host.ptmLocal
  | 4 => s.host.ptmSeq
  | _ => 2 ^ 64 - 1

/-- A byte of a pail page (Table 10.1). -/
def pailByte (s : State) (p x : Nat) : Byte :=
  let g := pageAt s p
  if hostField x then FMap.getD g.host x 0
  else if x = 0x10 ∨ x = 0x11 then (((leBytes 2 g.status)[x - 0x10]?).getD 0)
  else if 0x14 ≤ x ∧ x < 0x18 then (((leBytes 4 g.rseq)[x - 0x14]?).getD 0)
  else if 0x18 ≤ x ∧ x < 0x1C then (((leBytes 4 g.rlen)[x - 0x18]?).getD 0)
  else if 0x800 ≤ x then ((g.resp[x - 0x800]?).getD 0)
  else 0

/-- State code of a queue (Table 10.7). -/
def stateCode : QState → Nat
  | .free => 0
  | .active => 1
  | .flushing => 2
  | .held => 3
  | .faulted => 4

/-- What a read of a doorbell returns (R291). -/
def bellWord (s : State) (q : Nat) : Nat :=
  let x := queueAt s q
  x.gen % 2 ^ 16 * 2 ^ 48 + stateCode x.st * 2 ^ 45 + x.head % 2 ^ 16

/-- A dword of the MSI-X table or of the pending bit array. -/
def msixDword (s : State) (x : Nat) : Nat :=
  if 0x8000 ≤ x then maskOf ((List.range 32).filter fun i => s.host.pendingBits.contains ((x - 0x8000) / 4 * 32 + i))
  else if x % 16 = 12 then b2n (!s.host.unmasked.contains (x / 16))
  else FMap.getD s.host.table x 0

/-- The counter that an offset of a sheaf's counter page region mirrors (Table 16.5). -/
def counterReg (h x : Nat) : Option Nat :=
  if x < 0x4000 then some (pmcReg h (0x1000 + x))
  else if x < 0x6000 then some (pmcReg h (0x6000 + (x - 0x4000)))
  else if x < 0x6000 + 0x20 * 137 then some (rngReg h (0x1000 + (x - 0x6000)))
  else if 0x8000 ≤ x ∧ x < 0x8100 then some (lnkReg (4 * h + (x - 0x8000) / 0x40) (0x100 + x % 0x40))
  else if 0x8100 ≤ x ∧ x < 0x8140 then some (pmcReg h (0x8000 + (x - 0x8100)))
  else none

/-- PMC_USER: the sheaf's counter pages are enabled (R425). -/
def counterPages (s : State) (h : Nat) : Bool := bit (regGet s (pmcReg 0 0)) h

/-- A word of a counter page: all ones while the region's bit is clear, zero where no counter is (R426). -/
def counterWord (s : State) (h x : Nat) : Nat :=
  if !counterPages s h then 2 ^ 64 - 1
  else match counterReg h x with
    | some a => wordAt s a
    | none => 0

/-- A read of BAR0: the value, and the state after. A pail is read at any size; counters as aligned 64-bit words (R426);
an unpopulated offset reads all ones (R341). -/
def bar0Read (s : State) (off width : Nat) : Except Halt (Nat × State) := match bar0 s off with
  | .pail p x => .ok (leNat ((List.range width).map fun i => pailByte s p (x + i)), s)
  | .doorbell q x => if x = 0 ∧ width = 8 then .ok (bellWord s q, s) else .error (.undefinedCase 50)
  | .msix x => .ok ((msixDword s (x / 4 * 4) + msixDword s (x / 4 * 4 + 4) * 2 ^ 32) % 2 ^ (8 * width), s)
  | .status x =>
    if (width = 4 ∨ width = 8) ∧ x % width = 0 then .ok (laneOf (statusWord s x) x width, s) else .error (.undefinedCase 3)
  | .counters h x => if width = 8 ∧ x % 8 = 0 then .ok (counterWord s h x, s) else .error (.undefinedCase 1)
  | .reg a => outerRead s a width
  | .nothing => .ok (2 ^ (8 * width) - 1, s)

/-- The register of an access belongs to a block that is off. -/
def pathOff (s : State) (p : RegPath) : Bool := match pathReg s p with
  | some a => blockOff s a
  | none => false

/-- REGISTER_ACCESS_NOT_ON (R401): a read returns all ones, a write is dropped. -/
def execRegisterAccessNotOn (a : OffAccess) (s : State) : Out State :=
  act s (barUp s && pathOff s a.path)
    (match pathReg s a.path with
      | some r =>
        let s1 := offAccess (crossFabric s r) r a.write
        if a.write then s1 else deliver s1 (2 ^ 64 - 1)
      | none => s)

end Sys2Proof.Machine
end

