-- ==== Sys2Proof/Machine/RowOps.lean ====
section
/-! DEFINITION. Row operations on the rows of one bank, and the micro-program machine of a vault (R230 to R235, R240, R244). -/

namespace Sys2Proof.Machine

/-! ### Rows as stored (R203, R230) -/

/-- Memory key of a row. -/
def rowKeyAt (v bl row : Nat) : Nat := vaultKey v (rowOff bl row)

/-- The mark of the word that holds a byte. -/
def markAt (s : State) (k : Nat) : Option Mark := FMap.find s.marks (k / 32 * 32)

/-- The error that a word's mark holds in one of its data bytes. -/
def byteErr (m : Option Mark) (i : Nat) : Byte := match m with
  | some (.err e) => BitVec.ofNat 8 (FMap.getD e i 0)
  | _ => 0

/-- A byte of a row as stored, if it is defined. -/
def storedByte (s : State) (k : Nat) : Option Byte := (FMap.find s.mem k).map (· ^^^ byteErr (markAt s k) (k % 32))

/-- The word's check bits match no code word near its data. -/
def invalidWord (m : Option Mark) : Bool := m == some .badCheck

/-- A row holds a poisoned word. -/
def poisonedRow (s : State) (base : Nat) : Bool := (List.range 64).any fun w => markAt s (base + 32 * w) == some .poison

/-- A row holds a word with invalid check bits. -/
def invalidRow (s : State) (base : Nat) : Bool := (List.range 64).any fun w => invalidWord (markAt s (base + 32 * w))

/-! ### Writing a row -/

/-- A byte is stored, or undefined. -/
def putByte (m : List Host.Cell) (k : Nat) (b : Option Byte) : List Host.Cell := match b with
  | some x => FMap.set m k x
  | none => FMap.drop m k

/-- A word's mark is set or cleared. -/
def putMark (m : FMap Mark) (k : Nat) (x : Option Mark) : FMap Mark := match x with
  | some e => FMap.set m k e
  | none => FMap.drop m k

/-- A row is written: each byte by its position, each word's mark by its number. -/
def putRowData (s : State) (base : Nat) (data : Nat → Option Byte) (mark : Nat → Option Mark) : State :=
  { s with
    mem := (List.range 2048).foldl (fun m i => putByte m (base + i) (data i)) s.mem
    marks := (List.range 64).foldl (fun m w => putMark m (base + 32 * w) (mark w)) s.marks }

/-! ### The operations (Table 8.2) -/

/-- Two errors of a word together. -/
def errXor (a b : List (Nat × Nat)) : Option Mark :=
  let x := (b.foldl (fun f e => FMap.set f e.1 (FMap.getD f e.1 0 ^^^ e.2)) a).filter (·.2 ≠ 0)
  if x.isEmpty then none else some (.err x)

/-- The error of a mark. -/
def errOf (m : Option Mark) : List (Nat × Nat) := match m with
  | some (.err e) => e
  | _ => []

/-- Mark of a word of an XOR. -/
def xorMark (a b : Option Mark) : Option Mark :=
  if invalidWord a || invalidWord b then some .badCheck else errXor (errOf a) (errOf b)

/-- A byte of an XOR: of correct data when the check bits stay valid, of stored bits otherwise. -/
def xorByte (s : State) (ka kb : Nat) : Option Byte :=
  let raw := invalidWord (markAt s ka) || invalidWord (markAt s kb)
  let a := if raw then storedByte s ka else FMap.find s.mem ka
  let b := if raw then storedByte s kb else FMap.find s.mem kb
  a.bind fun x => b.map (x ^^^ ·)

/-- A bitwise combination of stored bytes. -/
def comb2 (f : Byte → Byte → Byte) (a b : Option Byte) : Option Byte := a.bind fun x => b.map (f x)

/-- Majority, bit by bit. -/
def maj3 (a b c : Byte) : Byte := (a &&& b) ||| (a &&& c) ||| (b &&& c)

/-- Activates of an operation. -/
def rowActivates : RowOp → Nat
  | .xor | .and | .or => 3
  | .maj3 => 4
  | .recode _ => 0
  | _ => 2

/-- RECODE with CHK = 1 of one word: corrected, or its row is poisoned. -/
def recodeWord (v base : Nat) (s : State) (w : Nat) : State :=
  let k := base + 32 * w
  match FMap.find s.marks k with
  | some (.err [e]) => { vaultCe s v (k - vaultKey v 0) e.1 2 with marks := FMap.drop (vaultCe s v (k - vaultKey v 0) e.1 2).marks k }
  | some (.err _) => vaultUe s v (k - vaultKey v 0) 2
  | _ => s

/-- RECODE (R232). -/
def recodeRow (s : State) (v bl : Nat) (chk : Bool) (row : Nat) : Except Halt State :=
  let base := rowKeyAt v bl row
  let s1 := count (count s (vltCtr v 0) 64) (vltCtr v 1) 64
  if chk then
    if invalidRow s base then .error (.undefinedCase 40) else .ok ((List.range 64).foldl (recodeWord v base) s1)
  else .ok (putRowData s1 base (fun i => storedByte s (base + i)) fun _ => none)

/-- A row operation in one bank (R230). -/
def applyRow (s : State) (v bl : Nat) (p : RowPend) : Except Halt State :=
  let at_ (row : Nat) : Nat := rowKeyAt v bl row
  let d := at_ p.d
  let a := at_ p.a
  let b := at_ p.b
  let c := at_ p.c
  let clone := p.op == .copy
  if !clone && (rowSources p.op p).any (fun r => poisonedRow s (at_ r)) then .error (.undefinedCase 38)
  else match p.op with
    | .copy => .ok (cloneRow s a d)
    | .zero => .ok (putRowData s d (fun _ => some 0) fun _ => none)
    | .one => .ok (putRowData s d (fun _ => some 0xFF) fun _ => none)
    | .not => .ok (putRowData s d (fun i => (FMap.find s.mem (a + i)).map (~~~ ·)) fun w => markAt s (a + 32 * w))
    | .xor => .ok (putRowData s d (fun i => xorByte s (a + i) (b + i))
        fun w => xorMark (markAt s (a + 32 * w)) (markAt s (b + 32 * w)))
    | .and => .ok (putRowData s d (fun i => comb2 (· &&& ·) (storedByte s (a + i)) (storedByte s (b + i)))
        fun _ => some .badCheck)
    | .or => .ok (putRowData s d (fun i => comb2 (· ||| ·) (storedByte s (a + i)) (storedByte s (b + i)))
        fun _ => some .badCheck)
    | .maj3 => .ok (putRowData s d (fun i => (storedByte s (a + i)).bind fun x =>
        comb2 (maj3 x) (storedByte s (b + i)) (storedByte s (c + i))) fun _ => some .badCheck)
    | .recode chk => recodeRow s v bl chk p.d

/-! ### The micro-program machine (R233 to R235, R240) -/

/-- The next ROW_RUN that waits on a vault is loaded when no program runs. -/
def startRow (s : State) (v : Nat) : State :=
  let u := (vaultAt s v).row
  match u.job, u.waiting with
  | none, j :: js => updRow s v fun _ => loadRow { u with waiting := js } j
  | _, _ => s

/-- The meaning of a micro-instruction: it issues when it is the next one of the vault's program. -/
def rowOut (s : State) (v : Nat) (i : RowInstr) (eff : State → Except Halt State) : Out State :=
  if !powered s then .next s
  else
    let s1 := startRow s v
    match rowNext (vaultAt s1 v).row with
    | .error (.undefinedCase n) => .fault (.undefinedCase n)
    | .error .wait => .next s
    | .ok n => if n = some i then toOut s (eff s1) else .next s

/-- Every bank of a set has room in its queue of eight. -/
def rowRoom (u : RowUnit) (bs : Nat) : Bool := (rowBanks u bs).all fun k => decide ((FMap.getD u.banks k []).length < 8)

/-- A row operation is issued to every bank of its set; a full queue holds the row unit. -/
def issueRow (v : Nat) (o : RowOp) (f : RowF) (s : State) : Except Halt State :=
  let u := (vaultAt s v).row
  let p : RowPend := ⟨o, rowReg u f.d, rowReg u f.a, rowReg u f.b, rowReg u f.c⟩
  if !rowInRange o p then .error (.undefinedCase 41)
  else if !rowRoom u f.bs then .ok s
  else
    let ks := rowBanks u f.bs
    .ok (updRow s v fun u => rowStep { u with
      banks := ks.foldl (fun m k => FMap.upd m k [] (· ++ [p])) u.banks })

/-- A row of a vault is the destination of a program until a ROW_FENCE (R242). -/
def unfence (u : RowUnit) (k : Nat) : RowUnit :=
  if u.unfenced.contains k then u else { u with unfenced := u.unfenced ++ [k] }

/-- The oldest operation of a bank is performed. -/
def bankOp (s : State) (v bl : Nat) : Except Halt State :=
  match FMap.getD (vaultAt s v).row.banks bl [] with
  | [] => .ok s
  | p :: ps => do
    let s1 ← applyRow s v bl p
    let s2 := count (count s1 (vltReg v 0x1010) 1) (vltCtr v 2) (rowActivates p.op)
    .ok (updRow s2 v fun u => unfence { u with
      banks := if ps.isEmpty then FMap.drop u.banks bl else FMap.set u.banks bl ps } (rowNo bl p.d))

/-- A vault's program ends: ROW_RUNS counts it, and its item ends with its last vault. -/
def endRow (s : State) (v : Nat) : State :=
  match (vaultAt s v).row.job with
  | none => s
  | some (q, idx) =>
    let s1 := count (updRow s v fun u => { u with job := none }) (vltReg v 0x1018) 1
    let s2 := updItem s1 q idx fun i => { i with waitVaults := i.waitVaults.filter (· ≠ v) }
    match itemAt s2 q idx with
    | some i => if i.phase = .running ∧ i.waitVaults.isEmpty then endItem s2 q idx stOk else s2
    | none => s2

end Sys2Proof.Machine
end

