-- ==== Sys2Proof/Machine/RowPrograms.lean ====
section
/-! DEFINITION. The micro-instructions of row programs (R230 to R235). -/

namespace Sys2Proof.Machine

/-- COPY: D = A. -/
def execRowOpCopy (v : Nat) (f : RowF) (s : State) : Out State := rowOut s v (.op .copy f) (issueRow v .copy f)

/-- ZERO: D = all 0. -/
def execRowOpZero (v : Nat) (f : RowF) (s : State) : Out State := rowOut s v (.op .zero f) (issueRow v .zero f)

/-- ONE: D = all 1. -/
def execRowOpOne (v : Nat) (f : RowF) (s : State) : Out State := rowOut s v (.op .one f) (issueRow v .one f)

/-- NOT: D = ¬A. -/
def execRowOpNot (v : Nat) (f : RowF) (s : State) : Out State := rowOut s v (.op .not f) (issueRow v .not f)

/-- XOR: D = A ⊕ B. -/
def execRowOpXor (v : Nat) (f : RowF) (s : State) : Out State := rowOut s v (.op .xor f) (issueRow v .xor f)

/-- AND: D = A ∧ B. -/
def execRowOpAnd (v : Nat) (f : RowF) (s : State) : Out State := rowOut s v (.op .and f) (issueRow v .and f)

/-- OR: D = A ∨ B. -/
def execRowOpOr (v : Nat) (f : RowF) (s : State) : Out State := rowOut s v (.op .or f) (issueRow v .or f)

/-- MAJ3: D = majority(A, B, C). -/
def execRowOpMaj3 (v : Nat) (f : RowF) (s : State) : Out State := rowOut s v (.op .maj3 f) (issueRow v .maj3 f)

/-- RECODE: D's check bits recomputed. -/
def execRowOpRecode (v : Nat) (chk : Bool) (f : RowF) (s : State) : Out State :=
  rowOut s v (.op (.recode chk) f) (issueRow v (.recode chk) f)

/-- ROW_BANK_OPERATION: a bank performs the oldest operation of its queue (R235). -/
def execRowBankOperation (v bank : Nat) (s : State) : Out State :=
  actE s (!(FMap.getD (vaultAt s v).row.banks bank []).isEmpty) (bankOp s v bank)

/-- END takes effect when every operation issued before it has finished. -/
def execRowEnd (v : Nat) (s : State) : Out State :=
  rowOut s v .endp fun s => .ok (if (vaultAt s v).row.banks.isEmpty then endRow s v else s)

/-- SET. -/
def execRowSet (v : Nat) (counter : Bool) (i : Nat) (param : Bool) (val : Nat) (s : State) : Out State :=
  rowOut s v (.set counter i param val) fun s => .ok (updRow s v (setRow counter i param val))

/-- ADD. -/
def execRowAdd (v i imm : Nat) (s : State) : Out State :=
  rowOut s v (.add i imm) fun s => .ok (updRow s v (addRowReg i imm))

/-- LOOP. -/
def execRowLoop (v i target : Nat) (s : State) : Out State :=
  rowOut s v (.loop i target) fun s => .ok (updRow s v (loopRow i target))

end Sys2Proof.Machine
end

