-- ==== Sys2Proof/Machine/Thermal.lean ====
section
/-! DEFINITION. Cooling, thermal limits and wear (R403 to R415): die and DRAM sensors, the hardware trip, the tray sensors, flow
derating and the flow emergency, thermal allowances, thermal cycles and the wear log. -/

namespace Sys2Proof.Machine

/-! ### Sensors (R403, R404) -/

/-- Number of a sensor in its sheaf, if it exists. -/
def sensorNo : Sensor → Option Nat
  | .array c k => if c < 128 ∧ k < 4 then some (6 * c + k) else none
  | .store c k => if c < 128 ∧ k < 2 then some (6 * c + 4 + k) else none
  | .dram v k => if v < 128 ∧ k < 5 then some (dramSensor v k) else none

/-- A reading put into a list that rises. -/
def insertTemp (x : Int) : List Int → List Int
  | [] => [x]
  | y :: l => if x ≤ y then x :: y :: l else y :: insertTemp x l

/-- Twice the median of a list of readings. -/
def twiceMedian (l : List Int) : Option Int :=
  let r := l.foldl (fun a x => insertTemp x a) []
  if r.isEmpty then none else some (r.getD ((r.length - 1) / 2) 0 + r.getD (r.length / 2) 0)

/-- A reading fails on its own: none for 1 ms, or outside −20 °C to 150 °C. -/
def badReading : Option Int → Bool
  | none => true
  | some t => decide (t < -20) || decide (150 < t)

/-- A reading differs by more than 15 °C from the median of its group's other sensors. -/
def strays (s : State) (h n : Nat) (t : Int) : Bool :=
  match twiceMedian (liveTemps s h ((groupNos n).filter fun k => k != n)) with
  | some m => decide (30 < 2 * t - m) || decide (2 * t - m < -30)
  | none => false

/-- A core or vault that has lost every sensor is marked for retirement. -/
def markBlind (s : State) (h n : Nat) : State :=
  if (groupNos n).all fun k => excluded s h k then
    if n < 768 then markUnit s 0 5 (h * 128 + n / 6) 0 else markUnit s 1 5 (h * 128 + (n - 768) / 5) 0
  else s

/-- A sensor fails its check and is excluded. -/
def excludeSensor (h : Nat) (s : State) (n : Nat) : State :=
  if excluded s h n then s
  else
    let s1 := { s with thermal := { s.thermal with excluded := sensorKey h n :: s.thermal.excluded } }
    markBlind (event s1 (thmReg h 0) 3 (thmReg h 0x20)) h n

/-- A reading is taken. -/
def takeTemp (h : Nat) (s : State) (r : SensorReading) : State :=
  match sensorNo r.sensor, r.celsius with
  | some n, some t =>
    { s with thermal := { s.thermal with readings := FMap.set s.thermal.readings (sensorKey h n) t } }
  | _, _ => s

/-- Sensors of a sample whose reading satisfies a test. -/
def failingNos (rs : List SensorReading) (p : Nat → Option Int → Bool) : List Nat :=
  rs.filterMap fun r => match sensorNo r.sensor with
    | some n => if p n r.celsius then some n else none
    | none => none

/-- The sample's readings, and the checks on them. -/
def checkSensors (s : State) (h : Nat) (rs : List SensorReading) : State :=
  let s1 := forEach s rs (takeTemp h)
  let s2 := forEach s1 (failingNos rs fun _ c => badReading c) (excludeSensor h)
  forEach s2 (failingNos rs fun n c => !excluded s2 h n && match c with
    | some t => strays s2 h n t
    | none => false) (excludeSensor h)

/-- A temperature as an 8-bit field. -/
def temp8 (t : Int) : Nat := min 255 t.toNat

/-! ### SENSOR_SAMPLE (R217, R403) -/

/-- THM_TEMPS and the hottest readings of a sheaf. -/
def showTemps (s : State) (h : Nat) : State :=
  match hottest s h allArray, hottest s h allStore, hottest s h allDram with
  | some a, some b, some d =>
    let v := (d.2 - 768) / 5
    let x := a.2 / 6 * 2 ^ 48 + v * 2 ^ 40 + (d.2 - 768) % 5 * 2 ^ 32 + temp8 d.1 * 2 ^ 16 + temp8 b.1 * 2 ^ 8 + temp8 a.1
    regSet { s with thermal := { s.thermal with
      hotArray := FMap.set s.thermal.hotArray h a.1
      hotStore := FMap.set s.thermal.hotStore h b.1
      hotDram := FMap.set s.thermal.hotDram h d.1 } } (thmReg h 8) x
  | _, _, _ => s

/-- A vault's hottest layer in VLT_REFRESH, and its request for the thermal throttle: above 95 °C until every layer
reads 93 °C or below; its ROW_LIMIT is then at most 4 (R217, R238). -/
def showVault (s : State) (v : Nat) : State :=
  match hottestIn s (v / 128) (dramNos (v % 128)) allDram with
  | none => s
  | some (t, n) =>
    let s1 := regSetFld (regSetFld s (vltReg v 8) 23 16 (temp8 t)) (vltReg v 8) 10 8 ((n - 768) % 5)
    if 95 < t then
      regSetFld (regFlag s1 (vltReg v 0) 4 true) (vltReg v 0x1008) 4 0 (min 4 (rowLimit s1 v))
    else if t ≤ 93 then regFlag s1 (vltReg v 0) 4 false
    else s1

/-- The sample of a sheaf. -/
def sampleSheaf (s : State) (h : Nat) (rs : List SensorReading) : State :=
  forEach (showTemps (checkSensors s h rs) h) (sheafVaults s h) showVault

/-- SENSOR_SAMPLE. -/
def execSensorSample (sheaf : Nat) (rs : List SensorReading) (s : State) : Out State :=
  act s (decide (sheaf < 8)) (sampleSheaf s sheaf rs)

/-! ### HARDWARE_TRIP (R410) -/

/-- Trip value of a sensor (Table 15.5). -/
def tripAt : Sensor → Int
  | .dram _ _ => 105
  | _ => 115

/-- Stop ID of a sensor: that of its core's or vault's stop. -/
def sensorStop (h : Nat) : Sensor → Nat
  | .array c _ => coreStop (h * 128 + c)
  | .store c _ => coreStop (h * 128 + c)
  | .dram v _ => coreStop (h * 128 + v)

/-- Every clock but ACLK stops, and the always-on domain writes a trip entry. -/
def trip (s : State) (stop : Nat) (t : Int) : State :=
  { s with
    boot := { s.boot with tripped := true }
    fault := { s.fault with tripEntry := some (stop, t) } }

/-- HARDWARE_TRIP: the raw reading decides, whatever the firmware does. -/
def execHardwareTrip (sheaf : Nat) (r : SensorReading) (s : State) : Out State :=
  match r.celsius with
  | none => .next s
  | some t =>
    act s (decide (sheaf < 8) && (sensorNo r.sensor).isSome && decide (tripAt r.sensor ≤ t))
      (trip s (sensorStop sheaf r.sensor) t)

/-! ### Thermal state sensor (R432) -/

/-- A change of the thermal state is an event of its sensor. -/
def noteThermal (old s : State) : State :=
  if thermalState old = thermalState s then s else pldmEvent s (.sensor 0x23 (thermalState s))

/-! ### Flow emergency (R409) -/

/-- A flow emergency begins: the ramp, the cooling fault, and THM_FLOW.EMERG. -/
def beginEmergency (s : State) (sub : Nat) : State :=
  if s.thermal.emerg then s
  else
    let s1 := regFlag { s with thermal := { s.thermal with emerg := true } } (thmReg 0 0x110) 33 true
    let s2 := detect s1 ⟨0x05, sub, 0xFFFF, 0, s.thermal.flow.toNat, 0xFFFF, 0⟩
    noteThermal s (forEach s2 sheaves fun s h => startOpp (showEmerg s h) h (oppGoal s h))

/-- A flow reading, in 0.01 L/min, and the tests of R409 on it: polls fall every 5 ms. -/
def flowReading (s : State) (v : Int) : State :=
  let t := s.thermal
  let sudden := v < 160 && match t.sinceHigh with
    | some n => decide (n < 400)
    | none => false
  let low := if v < 160 then t.lowPolls + 1 else 0
  let s1 := { s with thermal := { t with
    flow := v
    sinceHigh := if 320 ≤ v then some 0 else t.sinceHigh.map (· + 1)
    lowPolls := low
    okPolls := if 680 ≤ v then t.okPolls + 1 else 0, ok2Polls := if 480 ≤ v then t.ok2Polls + 1 else 0 } }
  let s2 := regFlag (regSetFld s1 (thmReg 0 0x108) 47 32 (unsigned 16 v)) (thmReg 0 0x110) 32 false
  if sudden then beginEmergency s2 0 else if 401 ≤ low then beginEmergency s2 1 else s2

/-- The flow sensor is silent. -/
def flowIsSilent (s : State) : State :=
  let s1 := regFlag { s with thermal := { s.thermal with
    okPolls := 0, ok2Polls := 0, sinceHigh := s.thermal.sinceHigh.map (· + 1) } } (thmReg 0 0x110) 32 true
  beginEmergency s1 2

/-- A poll without a reading of a flow sensor that is not yet silent: no reading at or above a threshold, while the flow keeps
its latest reading. -/
def flowUnread (s : State) : State :=
  let t := s.thermal
  let low := if t.lowPolls = 0 then 0 else t.lowPolls + 1
  let s1 := { s with thermal := { t with sinceHigh := t.sinceHigh.map (· + 1), lowPolls := low, okPolls := 0, ok2Polls := 0 } }
  if 401 ≤ low then beginEmergency s1 1 else s1

/-- FLOW_EMERGENCY_END: 5 s of polls at or above 6.8 L/min. -/
def execFlowEmergencyEnd (s : State) : Out State :=
  act s (s.thermal.emerg && decide (1001 ≤ s.thermal.okPolls))
    (let s1 := regFlag { s with thermal := { s.thermal with emerg := false } } (thmReg 0 0x110) 33 false
     noteThermal s (forEach s1 sheaves showEmerg))

/-! ### TRAY_SENSOR_POLL (R352, R406) -/

/-- The inlet as it counts, 1/128 °C: 45 °C while its sensor is silent. -/
def inletNow (s : State) : Int := if s.thermal.inletSilent then 5760 else s.thermal.inlet

/-- THM_STATUS.INLET_LOW: below 15 °C. -/
def showInlet (s : State) : State := regFlag s (thmReg 0 0) 6 (decide (inletNow s < 1920))

/-- Number of a kind of tray sensor (Table 12.9). -/
def trayNo : TrayKind → Nat
  | .inlet => 0
  | .outlet => 1
  | .flow => 2

/-- What is kept of a sensor's replies. -/
def trayAt (s : State) (k : TrayKind) : TrayTrack := FMap.getD s.thermal.tray (trayNo k) ⟨none, 0, 0⟩

/-- VALUE, VALID and SEQ of a reply (Table 12.7). -/
def trayValue (d : BitVec 32) : Int := (d.extractLsb' 0 16).toInt
def trayValid (d : BitVec 32) : Bool := d.getLsbD 16
def traySeq (d : BitVec 32) : Nat := (d.extractLsb' 24 8).toNat

/-- One poll: a reply is a reading if it has VALID and its SEQ has changed within 50 ms, which ten polls take. -/
def trayStep (x : TrayTrack) : TrayReply → TrayTrack × Option Int
  | .nack => ({ x with same := x.same + 1, missed := x.missed + 1 }, none)
  | .reply d =>
    let same := if x.seq = some (traySeq d) then x.same + 1 else 0
    if trayValid d && decide (same < 10) then (⟨some (traySeq d), same, 0⟩, some (trayValue d))
    else (⟨some (traySeq d), same, x.missed + 1⟩, none)

/-- A reading of a tray sensor, in 1/128 °C or 0.01 L/min. -/
def trayReading (s : State) (k : TrayKind) (v : Int) : State := match k with
  | .inlet =>
    showInlet (regSetFld { s with thermal := { s.thermal with inlet := v, inletSilent := false } } (thmReg 0 0x108) 15 0
      (unsigned 16 v))
  | .outlet =>
    regSetFld { s with thermal := { s.thermal with outlet := v, outletSilent := false } } (thmReg 0 0x108) 31 16
      (unsigned 16 v)
  | .flow => flowReading s v

/-- A tray sensor is silent: no reading for 100 ms, which twenty polls take. -/
def traySilent (s : State) (k : TrayKind) : State := match k with
  | .inlet => showInlet { s with thermal := { s.thermal with inletSilent := true } }
  | .outlet => { s with thermal := { s.thermal with outletSilent := true } }
  | .flow => flowIsSilent s

/-- A poll without a reading of a sensor that is not silent: its latest reading holds. -/
def trayUnread (s : State) (k : TrayKind) : State := match k with
  | .inlet => s
  | .outlet => s
  | .flow => flowUnread s

/-- One poll of a tray sensor. -/
def trayPoll (s : State) (k : TrayKind) (r : TrayReply) : State :=
  let x := trayStep (trayAt s k) r
  let s1 := { s with thermal := { s.thermal with tray := FMap.set s.thermal.tray (trayNo k) x.1 } }
  match x.2 with
  | some v => trayReading s1 k v
  | none => if 20 ≤ x.1.missed then traySilent s1 k else trayUnread s1 k

/-- Firmware runs: it reads the tray sensors and computes the flow term. -/
def firmwareRuns (s : State) : Bool :=
  (match s.boot.phase with
    | .off => false
    | .rom => false
    | .stuck => false
    | _ => true) && !s.pails.restarting

/-- TRAY_SENSOR_POLL. -/
def execTraySensorPoll (kind : TrayKind) (r : TrayReply) (s : State) : Out State :=
  act s (firmwareRuns s) (trayPoll s kind r)

/-! ### FLOW_COMPUTATION (R405 to R408) -/

/-- The coolant: as THM_CFG says, or the board descriptor. -/
def coolant (s : State) : Nat :=
  let c := regFld s (thmReg 0 0x100) 9 8
  if c = 3 then s.flash.boardCoolant else c

/-- Heat capacity, J/(L·K), and coolant factor, in thousandths (Table 15.1). -/
def heatCap (c : Nat) : Nat := [4150, 3980, 3730].getD c 3730
def coolFactor (c : Nat) : Nat := [1000, 959, 899].getD c 899

/-- p_flow, W: 575 F k c with k = 1 up to 35 °C and 0.04 less for each °C above. -/
def pFlow (s : State) : Nat :=
  let f := s.thermal.flow.toNat
  let t := inletNow s
  let k := (3200 - max 0 (t - 4480)).toNat
  if f < 320 ∨ 5760 < t then 1500 else 575 * f * k * coolFactor (coolant s) / 320000000

/-- Q, W; not estimated while the outlet sensor is silent. -/
def heatQ (s : State) : Nat :=
  (s.thermal.flow * heatCap (coolant s) * (s.thermal.outlet - inletNow s) / 768000).toNat

/-- A flow warning is raised. -/
def raiseWarning (s : State) (level : Nat) : State :=
  pldmEvent (noteRecord (event s (thmReg 0 0) 4 (thmReg 0 0x118)) 2 0x20 0xFFFF s.thermal.flow.toNat)
    (.flowWarning true level)

/-- The warnings of Table 15.3 that the flow calls for. -/
def flowWarnings (s : State) : State :=
  let s1 := if s.thermal.flow < 680 ∧ !s.thermal.warn1 then
      raiseWarning { s with thermal := { s.thermal with warn1 := true } } 1 else s
  if s1.thermal.flow < 480 ∧ !s1.thermal.warn2 then
    raiseWarning { s1 with thermal := { s1.thermal with warn2 := true } } 2 else s1

/-- Q is short of 0.8 PWIN above 1,000 W (R406). -/
def heatShort (s : State) : Bool :=
  let pwin := regFld s (pwrReg 0 0x108) 31 16
  decide (1000 < pwin) && decide (10 * regFld s (thmReg 0 0x110) 31 16 < 8 * pwin) && !s.thermal.outletSilent

/-- The flow term, the heat estimate and the warnings. -/
def flowComputation (s : State) : State :=
  let s1 := regSetFld s (thmReg 0 0x110) 15 0 (min 65535 (pFlow s))
  let s2 := if s.thermal.outletSilent then s1 else regSetFld s1 (thmReg 0 0x110) 31 16 (min 65535 (heatQ s))
  let s3 := flowWarnings s2
  { s3 with thermal := { s3.thermal with
    heat := s3.thermal.heat && heatShort s3, heatPolls := if heatShort s3 then s3.thermal.heatPolls + 1 else 0 } }

/-- FLOW_COMPUTATION. -/
def execFlowComputation (s : State) : Out State := act s (firmwareRuns s) (flowComputation s)

/-- FLOW_WARNING_CLEAR: flow has stayed at or above the warning's threshold for 5 s (1001 polls 5 ms apart). -/
def execFlowWarningClear (level : Nat) (s : State) : Out State :=
  let t := s.thermal
  if level = 1 then
    act s (t.warn1 && decide (1001 ≤ t.okPolls))
      (pldmEvent { s with thermal := { t with warn1 := false } } (.flowWarning false 1))
  else
    act s (level == 2 && t.warn2 && decide (1001 ≤ t.ok2Polls))
      (pldmEvent { s with thermal := { t with warn2 := false } } (.flowWarning false 2))

/-- HEAT_MISMATCH: Q has stayed short for 10 s (2001 computations 5 ms apart). -/
def execHeatMismatch (s : State) : Out State :=
  act s (decide (2001 ≤ s.thermal.heatPolls) && !s.thermal.heat)
    (noteRecord (event { s with thermal := { s.thermal with heat := true } } (thmReg 0 0) 5 (thmReg 0 0x120)) 4 0x42 0xFFFF
      (regFld s (thmReg 0 0x110) 31 16))

/-! ### Thermal allowance and core ceilings (R410 to R412) -/

/-- The array target: values outside 80 °C to 100 °C act as the nearer limit. -/
def throttleTarget (s : State) : Int := (max 80 (min 100 (regFld s (thmReg 0 0x100) 7 0)) : Nat)

/-- Excess of a sheaf's hottest readings over their targets. -/
def excess (s : State) (h : Nat) : Int :=
  let t := throttleTarget s
  max (max (FMap.getD s.thermal.hotArray h 0 - t) (FMap.getD s.thermal.hotStore h 0 - t))
    (FMap.getD s.thermal.hotDram h 0 - 92)

/-- Thermal emergency of a sheaf: an array or store reading above its target + 10 °C, or a vault that requests the
throttle (Table 15.5, R217). -/
def thermalEmergency (s : State) (h : Nat) : Bool :=
  let t := throttleTarget s + 10
  decide (t < FMap.getD s.thermal.hotArray h 0) || decide (t < FMap.getD s.thermal.hotStore h 0)
    || (sheafVaults s h).any fun v => bit (regGet s (vltReg v 0)) 4

/-- The allowance after one evaluation, mW; `none` is unlimited. -/
def nextAllow (s : State) (h : Nat) : Option Nat :=
  let p := sheafMw s h
  let a := FMap.find s.thermal.allow h
  let low := match a with
    | some x => min x p
    | none => p
  let e := excess s h
  if thermalEmergency s h then some (low * 90 / 100)
  else if 0 < e then some (low * 98 / 100)
  else if e < -2 then
    match a with
    | none => none
    | some x => if effCapMw s / 8 < x + p / 100 then none else some (x + p / 100)
  else a

/-- The allowance, THM_STATUS and THM_ALLOW of a sheaf; entering the throttle is counted. -/
def setAllow (s : State) (h : Nat) (a : Option Nat) : State :=
  let was := (FMap.find s.thermal.allow h).isSome
  let s1 := { s with thermal := { s.thermal with allow := match a with
    | some x => FMap.set s.thermal.allow h x
    | none => FMap.drop s.thermal.allow h } }
  let s2 := regSet s1 (thmReg h 0x10) (match a with
    | some x => 2 ^ 16 + min 65535 (x / 1000)
    | none => 65535)
  let s3 := regFlag (regFlag s2 (thmReg h 0) 0 a.isSome) (thmReg h 0) 1 (thermalEmergency s h)
  if a.isSome && !was then count s3 (thmReg h 0x18) 1 else s3

/-- THERMAL_ALLOWANCE_UPDATE. -/
def execThermalAllowanceUpdate (sheaf : Nat) (s : State) : Out State :=
  act s (decide (sheaf < 8)) (noteThermal s (setAllow s sheaf (nextAllow s sheaf)))

/-- A core's ceiling of R412 after one evaluation; that of a reserve core holds only in a thermal emergency. -/
def nextCeil (s : State) (c : Nat) (t : Int) : Nat :=
  let x := (govAt s c).thermCeil
  if reserveCore s c ∧ !bit (regGet s (thmReg (c / 128) 0)) 1 then 16
  else if throttleTarget s + 3 < t then max 4 (x - 2)
  else if t ≤ throttleTarget s - 2 then min 16 (x + 1)
  else x

/-- CORE_CEILING_UPDATE. -/
def execCoreCeilingUpdate (core : Nat) (s : State) : Out State :=
  match hottestOf s (core / 128) (arrayNos (core % 128)) allArray with
  | none => .next s
  | some t =>
    act s (coreEnabled s core)
      (clampPermit (setGov s core { govAt s core with thermCeil := nextCeil s core t }) core)

/-! ### Thermal cycles (R415) -/

/-- A sheaf's minimum and peak start anew at a temperature. -/
def restartCycle (s : State) (h : Nat) (t : Int) : State :=
  { s with wear := { s.wear with tmin := FMap.set s.wear.tmin h t, tpeak := FMap.set s.wear.tpeak h t } }

/-- A cycle is counted. -/
def countCycle (s : State) (h : Nat) (t : Int) : State :=
  restartCycle { s with wear := { s.wear with cycles := FMap.set s.wear.cycles h (sheafCycles s h + 1) } } h t

/-- One temperature of a sheaf, the first after a boot or a later one. -/
def cycleSample (s : State) (h : Nat) (t : Int) (first : Bool) : State :=
  match FMap.find s.wear.tmin h, FMap.find s.wear.tpeak h with
  | some lo, some hi =>
    let pk := max hi t
    if t ≤ pk - 25 ∧ (first ∨ lo + 25 ≤ pk) then countCycle s h t
    else if t < lo then restartCycle s h t
    else { s with wear := { s.wear with tpeak := FMap.set s.wear.tpeak h pk } }
  | _, _ => restartCycle s h t

/-- THERMAL_CYCLE_SAMPLE. -/
def execThermalCycleSample (sheaf : Nat) (s : State) : Out State :=
  match FMap.find s.thermal.hotStore sheaf with
  | none => .next s
  | some t =>
    let first := !s.thermal.cycled.contains sheaf
    act s (decide (sheaf < 8))
      (cycleSample { s with thermal := { s.thermal with cycled := if first then sheaf :: s.thermal.cycled else s.thermal.cycled } }
        sheaf t first)

/-! ### WEAR_SAMPLE (R414) -/

/-- Life consumed, in 0.01 %, of a measured value in millionths: linear from 0 to 3.0 % of lost frequency, from 0 to 20 % of
resistance, and from 100 % down to 40 % of eye height (Table 15.6). -/
def ageingLife (x : Nat) : Nat := x / 3
def resistLife (x : Nat) : Nat := x / 20
def eyeLife (x : Nat) : Nat := (1000000 - x) / 60

/-- One indicator is read. -/
def takeWear (s : State) : WearReading → State
  | .ageing c m x => { s with wear := { s.wear with ageing := FMap.set s.wear.ageing (4 * c + m) (ageingLife x) } }
  | .resistance h m x => { s with wear := { s.wear with resist := FMap.set s.wear.resist (64 * h + m) (resistLife x) } }
  | .eye l k x => { s with wear := { s.wear with eye := FMap.set s.wear.eye (8 * l + k) (eyeLife x) } }
  | .hours n => { s with wear := { s.wear with hours := n } }

/-- The monitor exists (Table 15.6). -/
def wearOk : WearReading → Bool
  | .ageing c m _ => decide (c < 1024) && decide (m < 4)
  | .resistance h m _ => decide (h < 8) && decide (m < 64)
  | .eye l k _ => decide (l < 32) && decide (k < 8)
  | .hours _ => true

/-- Links and vaults at the end of their life are marked for retirement (R416, R443). -/
def markWorn (s : State) : State :=
  let s1 := forEach s ((List.range 256).filter fun k => decide (10000 ≤ FMap.getD s.wear.eye k 0)) fun s k =>
    markUnit s 2 7 (k / 8) (k % 8)
  forEach s1 ((s.wear.weakRows.map (·.1)).filter fun v => vaultInService s v && decide (1024 ≤ vaultWeak s v)) fun s v =>
    markUnit s 1 7 v 0

/-- An entry of the wear log; entries older than 720 power-on hours are dropped. -/
def logWear (s : State) : State :=
  let e : WearSnap :=
    { hours := s.wear.hours, dtime := nowNs s
      ageing := (List.range 1024).map fun c => (c, coreAge s c)
      mech := sheaves.map fun h => (h, mechFig s h) }
  { s with wear := { s.wear with log := (e :: s.wear.log).filter fun w => decide (s.wear.hours ≤ w.hours + 720) } }

/-- WEAR_SAMPLE. -/
def execWearSample (rs : List WearReading) (s : State) : Out State :=
  act s true (logWear (markWorn (forEach s (rs.filter wearOk) takeWear)))

end Sys2Proof.Machine
end

