-- ==== Sys2Proof/Machine/TileScalar.lean ====
section
/-! DEFINITION. Scalar and control instructions, core control registers, events, fences, signals and hints
(R105 to R111, R114, R124, R136 to R139). -/

namespace Sys2Proof.Machine

/-! ### Scalar instructions (Table 4.8) -/

/-- ALU: sD ← sA op sB. -/
def execAlu (core : Nat) (f : ScalarF) (s : State) : Out State :=
  tileOut s core (.alu f) (scalarTo s core f.d (aluOp f.fn (sval s core f.a) (sval s core f.b)))

/-- ALUI: sD ← sA op IMM. -/
def execAlui (core : Nat) (f : ScalarF) (s : State) : Out State :=
  tileOut s core (.alui f) (scalarTo s core f.d (aluOp f.fn (sval s core f.a) (immExt f.imm)))

/-- LI: sD ← IMM. -/
def execLi (core : Nat) (f : ScalarF) (s : State) : Out State :=
  tileOut s core (.li f) (scalarTo s core f.d (immExt f.imm))

/-- LIH: the upper half of sD ← IMM. -/
def execLih (core : Nat) (f : ScalarF) (s : State) : Out State :=
  tileOut s core (.lih f) (scalarTo s core f.d (f.imm * 2 ^ 32 + sval s core f.d % 2 ^ 32))

/-- The SRAM offset sA + IMM. -/
def memOff (s : State) (c : Nat) (f : ScalarF) : Nat := add64 (sval s c f.a) (immExt f.imm)

/-- LD: 8 bytes of SRAM into sD. -/
def loadWord (s : State) (c : Nat) (f : ScalarF) : Except Halt State :=
  let o := memOff s c f
  if 0x800000 ≤ o then .error (.undefinedCase 17)
  else if o % 8 ≠ 0 then .error (.undefinedCase 1)
  else do
    let s1 ← ownAccess s c [(o, 8)] []
    let r := readSram s1 c o 8 0
    scalarTo r.2.2 c f.d (leNat r.1)

def execLd (core : Nat) (f : ScalarF) (s : State) : Out State := tileOut s core (.ld f) (loadWord s core f)

/-- SQ: one 16-byte code word from sB and the next register (R111). -/
def storePair (s : State) (c : Nat) (f : ScalarF) : Except Halt State :=
  let o := memOff s c f
  if 0x800000 ≤ o then .error (.undefinedCase 17)
  else if o % 16 ≠ 0 ∨ f.b % 2 ≠ 0 ∨ 30 < f.b then .error (.undefinedCase 1)
  else do
    let s1 ← ownAccess s c [] [(o, 16)]
    .ok (nextPc (noteOut (writeMem s1 16 (sramKey c o)
      (leBytes 8 (sval s c f.b) ++ leBytes 8 (sval s c (f.b + 1)))) c (sramKey c o) 16) c)

def execSq (core : Nat) (f : ScalarF) (s : State) : Out State := tileOut s core (.sq f) (storePair s core f)

/-- BR: a taken branch goes to pc + IMM × 8. -/
def execBr (core : Nat) (f : ScalarF) (s : State) : Out State :=
  tileOut s core (.br f)
    (.ok (if brCond f.fn (sval s core f.a) (sval s core f.b) then jumpPc s core f.imm else nextPc s core))

/-- CALL: s31 ← pc + 8. -/
def execCall (core : Nat) (f : ScalarF) (s : State) : Out State :=
  tileOut s core (.call f) (.ok (jumpPc (putSreg s core 31 ((coreAt s core).pc + 8)) core f.imm))

/-- JR: the next instruction is at the address in sA. -/
def execJr (core : Nat) (f : ScalarF) (s : State) : Out State :=
  tileOut s core (.jr f) (.ok (updCore s core fun x => { x with pc := sreg x f.a }))

/-! ### The end of a kernel (R103) -/

/-- A core's kernel ends: the core is free, and its item ends with its last core. -/
def endKernel (s : State) (c : Nat) : State :=
  updCore (coreDone s c) c fun x => { x with running := false, owner := none, step := none }

/-- END: waits as a FENCE of every kind, then reports the core done. -/
def execEndk (core : Nat) (s : State) : Out State :=
  tileOut s core .endk (.ok (if kindsDone (coreAt s core) 0xFF then endKernel s core else s))

/-! ### Core control registers -/

/-- CSRR. -/
def execCsrr (core : Nat) (f : ScalarF) (s : State) : Out State :=
  tileOut s core (.csrr f) (scalarTo (bump s) core f.d (csrRead s core f.imm))

/-- CSRW. -/
def execCsrw (core : Nat) (f : ScalarF) (s : State) : Out State :=
  tileOut s core (.csrw f) (.ok (nextPc (csrWrite s core f.imm (sval s core f.a)) core))

/-! ### FENCE, WAITC, REDW -/

/-- FENCE. -/
def execFence (core kinds : Nat) (s : State) : Out State :=
  tileOut s core (.fence kinds) (.ok (if kindsDone (coreAt s core) kinds then nextPc (fenceOrders s core kinds) core else s))

/-- The events that a WAITC waits for are there (R137). -/
def eventsReady (ev m : Word) (any : Bool) : Bool := m == 0 || (if any then (ev &&& m) != 0 else (ev &&& m) == m)

/-- WAITC returns CORE_EVENTS and clears the bits it waited for. -/
def takeEvents (s : State) (c : Nat) (f : WaitcF) : State :=
  let ev := (coreAt s c).events
  let m := BitVec.ofNat 64 (sval s c f.m)
  if !eventsReady ev m f.any then s
  else
    let s1 := if f.clr then updCore s c fun x => { x with events := x.events &&& ~~~m } else s
    nextPc (putSreg (waitOrders s1 c (ev &&& m).toNat) c f.d ev.toNat) c

def execWaitc (core : Nat) (f : WaitcF) (s : State) : Out State :=
  tileOut s core (.waitc f) (.ok (takeEvents s core f))

/-- REDW waits for its tag in the completed-tag set and removes it (R124). -/
def takeTag (s : State) (c t : Nat) : State :=
  if (coreAt s c).tags.contains t then nextPc (dropTag s c t) c else s

def execRedw (core t : Nat) (s : State) : Out State :=
  tileOut s core (.redw t) (.ok (takeTag s core (sval s core t % 2 ^ 32)))

/-! ### SIGNAL and PHINT (R138, R139) -/

/-- A SIGNAL leaves for the stop of the core that owns the address, or for a link. -/
def startSignal (s : State) (c : Nat) (f : SignalF) : Except Halt State :=
  let a := sval s c f.a
  let x := coreAt s c
  let send (dst : Nat) : Except Halt State :=
    let (t, s1) := openTxn s (coreStop c) (.signal c x.nextSeq)
    let s2 := sendPacket s1 (coreStop c) { plainPacket .signal 0 x.cls (coreStop c) dst t a 0 with
      ev := f.ev, release := if f.release then some x.nextSeq else none, owner := some (c, x.nextSeq) }
    let s3 := updCore s2 c fun y => { y with outgoing := y.outgoing ++ [⟨x.nextSeq, 1, 7, 0⟩] }
    .ok (nextPc (takeSeq s3 c) c)
  match resolve s a with
  | .sram d _ => send (coreStop d)
  | .remote _ _ => send (linkStop (outLink s (c / 128) 0))
  | .none _ => .error (.undefinedCase 21)
  | _ => .error (.undefinedCase 1)

def execSignal (core : Nat) (f : SignalF) (s : State) : Out State :=
  tileOut s core (.signal f) (startSignal s core f)

/-- PHINT: its own core's activity will rise LEAD × 10 ns after issue. -/
def execPhint (core intensity lead : Nat) (s : State) : Out State :=
  tileOut s core (.phint intensity lead) (.ok (nextPc (setHint s core intensity (10 * lead)) core))

/-! ### Tile registers (R114) -/

/-- TDESC loads a tile register from 32 bytes of SRAM. -/
def loadDesc (s : State) (c : Nat) (f : TdescF) : Except Halt State :=
  let o := add64 (sval s c f.a) (immExt f.imm)
  if 0x800000 < o + 32 then .error (.undefinedCase 17)
  else if o % 32 ≠ 0 then .error (.undefinedCase 1)
  else do
    let s1 ← ownAccess s c [(o, 32)] []
    let r := readSram s1 c o 32 0
    .ok (nextPc (updCore r.2.2 c fun x => { x with tregs := FMap.set x.tregs f.t (parseDesc r.1) }) c)

def execTdesc (core : Nat) (f : TdescF) (s : State) : Out State := tileOut s core (.tdesc f) (loadDesc s core f)

/-- TADJ adds sA to BASE and sB to SBASE, modulo 2³². -/
def adjustDesc (s : State) (c : Nat) (f : TadjF) : State :=
  let d := treg s c f.t
  let d' := { d with
    base := (d.base + sval s c f.a) % 2 ^ 32, sbase := (d.sbase + sval s c f.b) % 2 ^ 32 }
  nextPc (updCore s c fun x => { x with tregs := FMap.set x.tregs f.t d' }) c

def execTadj (core : Nat) (f : TadjF) (s : State) : Out State :=
  tileOut s core (.tadj f) (.ok (bump (adjustDesc s core f)))

end Sys2Proof.Machine
end

