-- ==== Sys2Proof/Machine/VaultModes.lean ====
section
/-! DEFINITION. VAULT_MODE, ROW_RUN and ROW_FENCE (R223 to R229, R239 to R243). -/

namespace Sys2Proof.Machine

/-! ### Operands in memory -/

/-- An address where the operands of row commands may lie: a vault window or host memory, at a multiple of 32. -/
def rowOperandOk (s : State) (a : Nat) : Bool :=
  a % 32 == 0 && match resolve s a with
    | .vault _ _ => true
    | .host _ => true
    | _ => false

/-- The vaults that a vault set names (R226); the set lies in no vault that it names. -/
def readVaults (s : State) (a : Nat) : Except Halt (List Nat × State) :=
  if !rowOperandOk s a then .error (.undefinedCase 48)
  else do
    let (bs, _, s1) ← devRead s a 128
    let l := bitList (leNat bs) 1024
    match resolve s a with
    | .vault v _ => if l.contains v then .error (.undefinedCase 1) else .ok (l, s1)
    | _ => .ok (l, s1)

/-! ### VAULT_MODE -/

def isModeProc : WqCmd → Bool
  | .vaultMode m _ => m == 1
  | _ => false

def isModeMem : WqCmd → Bool
  | .vaultMode m _ => m != 1
  | _ => false

/-- A vault that may not enter PROCESSOR mode: out of service, or under a core of the class-0 reserve (R227). -/
def modeBarred (s : State) (v : Nat) : Bool := !vaultInService s v || reserveCore s v

/-- A vault enters PROCESSOR mode: it wakes, merge entries pay what they owe, and rows close (R227). -/
def enterProc (s : State) (v : Nat) : State :=
  let s0 := wakeDom s ⟨.vault, v⟩
  let s1 := (vaultAt s0 v).merges.foldl (fun s m => deliverMerge s v m) s0
  let s2 := updVault s1 v fun x => { x with openRows := [] }
  regFlag (regFlag s2 (vltReg v 0) 0 true) (vltReg v 0x1000) 0 true

/-- No input of a vault holds a request: the switch begins when its controller has performed them all, so that none is left
between steps 1 and 2 of R227 (DEDUCED, log entry 82). -/
def inputsEmpty (s : State) (v : Nat) : Bool := (vaultAt s v).shaftQ.isEmpty && (vaultAt s v).ringQ.isEmpty

/-- A VAULT_MODE with MODE = PROCESSOR. -/
def runProc (s : State) (q idx : Nat) : Except Halt State :=
  match cmdAt s q idx with
  | some (.vaultMode _ a) => do
    let (vs, s1) ← readVaults s a
    if vs.any (modeBarred s1) then .ok (endItem s1 q idx stBadState)
    else
      let off := vs.filter fun v => !processorMode s1 v
      if off.all (inputsEmpty s1) then .ok (endItem (off.foldl enterProc s1) q idx stOk) else .error .wait
  | _ => .ok s

/-- VAULT_MODE_PROCESSOR. -/
def execVaultModeProcessor (q idx : Nat) (s : State) : Out State := actE s (begins s q idx isModeProc) (runProc s q idx)

/-- A vault holds no program, running or waiting. -/
def rowQuiet (s : State) (v : Nat) : Bool :=
  (vaultAt s v).row.job.isNone && (vaultAt s v).row.waiting.isEmpty

/-- A vault returns to MEMORY mode. -/
def enterMem (s : State) (v : Nat) : State := regFlag (regFlag s (vltReg v 0) 0 false) (vltReg v 0x1000) 0 false

/-- The vaults that an item waits for: those without a program return to MEMORY mode, and with the last of them the item
ends (R229). -/
def leaveVaults (s : State) (q idx : Nat) (vs : List Nat) : State :=
  let s1 := (vs.filter (rowQuiet s)).foldl enterMem s
  let left := vs.filter fun v => !rowQuiet s v
  if left.isEmpty then endItem s1 q idx stOk else updItem s1 q idx fun i => { i with phase := .running, waitVaults := left }

/-- A VAULT_MODE with MODE = MEMORY: each named vault in PROCESSOR mode waits for its own program (R229). -/
def runMem (s : State) (q idx : Nat) : Except Halt State :=
  match itemAt s q idx with
  | none => .ok s
  | some i => match i.cmd with
    | .vaultMode m a =>
      if m ≠ 0 then .error (.undefinedCase 48)
      else if i.phase = .running then .ok (leaveVaults s q idx i.waitVaults)
      else do
        let (vs, s1) ← readVaults s a
        .ok (leaveVaults s1 q idx (vs.filter fun v => processorMode s1 v))
    | _ => .ok s

/-- VAULT_MODE_MEMORY: begins, or goes on waiting. -/
def execVaultModeMemory (q idx : Nat) (s : State) : Out State :=
  actE s (begins s q idx isModeMem || isRunning s q idx isModeMem) (runMem s q idx)

/-! ### ROW_RUN (R239, R240) -/

def isRowRun : WqCmd → Bool
  | .rowRun _ _ _ _ => true
  | _ => false

/-- Vault sets of the VAULT_MODE commands with MODE = MEMORY that have been dispatched and have not completed. -/
def leavingSets (s : State) : List Nat :=
  s.wq.queues.flatMap fun e => e.2.items.filterMap fun i =>
    match i.cmd with
    | .vaultMode 0 a => if itemLive i then some a else none
    | _ => none

/-- Vaults that such a command names. -/
def leavingVaults (s : State) : Except Halt (List Nat × State) :=
  (leavingSets s).foldlM (fun (p : List Nat × State) a => do
    let (vs, s1) ← readVaults p.2 a
    return (p.1 ++ vs, s1)) ([], s)

/-- The program and the parameter block of a ROW_RUN. -/
def readProgram (s : State) (q idx prog len param : Nat) : Except Halt (RowJob × State) := do
  let (bs, _, s1) ← devRead s prog (4 * len)
  let (ps, _, s2) ← devRead s1 param 64
  .ok ({ queue := q, idx, prog := (List.range len).map (fun i => BitVec.ofNat 32 (fieldAt bs (4 * i) 4))
         params := (List.range 8).map (fun i => fieldAt ps (2 * i) 2)
         sets := (List.range 4).map fun i => fieldAt ps (16 + 10 * i) 10 }, s2)

/-- A vault takes a ROW_RUN: it wakes, and the program runs after any earlier one. -/
def giveRow (j : RowJob) (s : State) (v : Nat) : State :=
  startRow (updRow (wakeDom s ⟨.vault, v⟩) v fun u => { u with waiting := u.waiting ++ [j] }) v

/-- A ROW_RUN begins on its vaults. -/
def runRows (s : State) (q idx : Nat) : Except Halt State :=
  match cmdAt s q idx with
  | some (.rowRun prog len vset param) =>
    if len = 0 ∨ 256 < len ∨ !rowOperandOk s prog ∨ !rowOperandOk s param then .error (.undefinedCase 48)
    else do
      let (vs, s1) ← readVaults s vset
      let (gone, s2) ← leavingVaults s1
      if vs.any (fun v => !processorMode s2 v || gone.contains v) then .ok (endItem s2 q idx stBadState)
      else do
        let (j, s3) ← readProgram s2 q idx prog len param
        let s4 := updItem s3 q idx fun i => { i with phase := .running, waitVaults := vs, rows := some (j, vs) }
        .ok (if vs.isEmpty then endItem s4 q idx stOk else vs.foldl (giveRow j) s4)
  | _ => .ok s

/-- ROW_RUN. -/
def execRowRun (q idx : Nat) (s : State) : Out State := actE s (begins s q idx isRowRun) (runRows s q idx)

/-! ### ROW_FENCE (R241, R242) -/

def isRowFence : WqCmd → Bool
  | .rowFence _ => true
  | _ => false

/-- A vault's rows are restored, and its row-hit and merge state is discarded. -/
def fenceVault (s : State) (v : Nat) : State :=
  let s1 := (vaultAt s v).merges.foldl (fun s m => deliverMerge s v m) s
  updRow (updVault s1 v fun x => { x with openRows := [] }) v fun u => { u with unfenced := [] }

/-- A ROW_FENCE. -/
def runFence (s : State) (q idx : Nat) : Except Halt State :=
  match cmdAt s q idx with
  | some (.rowFence a) => do
    let (vs, s1) ← readVaults s a
    if vs.any (processorMode s1) then .ok (endItem s1 q idx stBadState)
    else .ok (endItem (vs.foldl fenceVault s1) q idx stOk)
  | _ => .ok s

/-- ROW_FENCE. -/
def execRowFence (q idx : Nat) (s : State) : Out State := actE s (begins s q idx isRowFence) (runFence s q idx)

end Sys2Proof.Machine
end

