-- ==== Sys2Proof/Machine/Dispatch.lean ====
section
/-! DEFINITION. The meaning of each command: one arm per constructor of `Instr`. -/

namespace Sys2Proof.Machine

def exec (i : Instr) (s : State) : Host.Outcome State Fault Refusal :=
  match i with
  | .pwrokRise p => Sys2Proof.Machine.execPwrokRise p s
  | .pwrokFall => Sys2Proof.Machine.execPwrokFall s
  | .perstAssert => Sys2Proof.Machine.execPerstAssert s
  | .perstDeassert => Sys2Proof.Machine.execPerstDeassert s
  | .bootImageAuthenticate => Sys2Proof.Machine.execBootImageAuthenticate s
  | .bootFallbackTimeout => Sys2Proof.Machine.execBootFallbackTimeout s
  | .vaultTraining failing => Sys2Proof.Machine.execVaultTraining failing s
  | .configReady => Sys2Proof.Machine.execConfigReady s
  | .knownAnswerTest failing classes => Sys2Proof.Machine.execKnownAnswerTest failing classes s
  | .readyEntry => Sys2Proof.Machine.execReadyEntry s
  | .hostSideReset kind => Sys2Proof.Machine.execHostSideReset kind s
  | .pcieConfigRequest r => Sys2Proof.Machine.execPcieConfigRequest r s
  | .watchdogExpiry core => Sys2Proof.Machine.execWatchdogExpiry core s
  | .firmwareRestartDone => Sys2Proof.Machine.execFirmwareRestartDone s
  | .devInfo r => Sys2Proof.Machine.execDevInfo r s
  | .floorplanGet r fpaddr fplen => Sys2Proof.Machine.execFloorplanGet r fpaddr fplen s
  | .jobOpen r p => Sys2Proof.Machine.execJobOpen r p s
  | .jobClose r => Sys2Proof.Machine.execJobClose r s
  | .queueCreate r p => Sys2Proof.Machine.execQueueCreate r p s
  | .queueDestroy r q => Sys2Proof.Machine.execQueueDestroy r q s
  | .queueFlush r q => Sys2Proof.Machine.execQueueFlush r q s
  | .queueFlushAbort r q => Sys2Proof.Machine.execQueueFlushAbort r q s
  | .powerSetCap r p => Sys2Proof.Machine.execPowerSetCap r p s
  | .powerSetOppAuto r sheaves => Sys2Proof.Machine.execPowerSetOppAuto r sheaves s
  | .powerSetOppPin r opp sheaves => Sys2Proof.Machine.execPowerSetOppPin r opp sheaves s
  | .domainPolicyTimers r p => Sys2Proof.Machine.execDomainPolicyTimers r p s
  | .domainPolicyRetain r logical banks set => Sys2Proof.Machine.execDomainPolicyRetain r logical banks set s
  | .domainPolicyWake r kind logical set => Sys2Proof.Machine.execDomainPolicyWake r kind logical set s
  | .domainPolicyAdmit r aggressive => Sys2Proof.Machine.execDomainPolicyAdmit r aggressive s
  | .licenceInstall r p => Sys2Proof.Machine.execLicenceInstall r p s
  | .licenceList r first => Sys2Proof.Machine.execLicenceList r first s
  | .timeConfig r p => Sys2Proof.Machine.execTimeConfig r p s
  | .timeConfigSet r p tod => Sys2Proof.Machine.execTimeConfigSet r p tod s
  | .linkConfig r p => Sys2Proof.Machine.execLinkConfig r p s
  | .counterAccessUser r sheaves => Sys2Proof.Machine.execCounterAccessUser r sheaves s
  | .counterAccessSelect r p => Sys2Proof.Machine.execCounterAccessSelect r p s
  | .snapshotConfigStart r p => Sys2Proof.Machine.execSnapshotConfigStart r p s
  | .snapshotConfigStop r => Sys2Proof.Machine.execSnapshotConfigStop r s
  | .guardConfigPolicy r a => Sys2Proof.Machine.execGuardConfigPolicy r a s
  | .guardConfigSlot r p => Sys2Proof.Machine.execGuardConfigSlot r p s
  | .guardConfigLog r base entries vector => Sys2Proof.Machine.execGuardConfigLog r base entries vector s
  | .guardConfigResolveCommit r q => Sys2Proof.Machine.execGuardConfigResolveCommit r q s
  | .guardConfigResolveDiscard r q => Sys2Proof.Machine.execGuardConfigResolveDiscard r q s
  | .wearReportSummary r => Sys2Proof.Machine.execWearReportSummary r s
  | .wearReportDetail r len addr => Sys2Proof.Machine.execWearReportDetail r len addr s
  | .faultRecordGet r first => Sys2Proof.Machine.execFaultRecordGet r first s
  | .fwUpdate r p => Sys2Proof.Machine.execFwUpdate r p s
  | .katRun r failing => Sys2Proof.Machine.execKatRun r failing s
  | .pldmRequest r => Sys2Proof.Machine.execPldmRequest r s
  | .wqDoorbell q value => Sys2Proof.Machine.execWqDoorbell q value s
  | .cqDoorbell q value => Sys2Proof.Machine.execCqDoorbell q value s
  | .c0TokenRefill group => Sys2Proof.Machine.execC0TokenRefill group s
  | .wqFetch q => Sys2Proof.Machine.execWqFetch q s
  | .wqDispatch q => Sys2Proof.Machine.execWqDispatch q s
  | .commandCompletion q idx => Sys2Proof.Machine.execCommandCompletion q idx s
  | .kernel q idx => Sys2Proof.Machine.execKernel q idx s
  | .kernelCoreStart core => Sys2Proof.Machine.execKernelCoreStart core s
  | .gemm q idx => Sys2Proof.Machine.execGemm q idx s
  | .attend q idx => Sys2Proof.Machine.execAttend q idx s
  | .reduce q idx => Sys2Proof.Machine.execReduce q idx s
  | .copy q idx => Sys2Proof.Machine.execCopy q idx s
  | .fill q idx => Sys2Proof.Machine.execFill q idx s
  | .pageOpAlloc q idx => Sys2Proof.Machine.execPageOpAlloc q idx s
  | .pageOpShare q idx => Sys2Proof.Machine.execPageOpShare q idx s
  | .pageOpCow q idx => Sys2Proof.Machine.execPageOpCow q idx s
  | .pageOpFree q idx => Sys2Proof.Machine.execPageOpFree q idx s
  | .tillerLookup q idx => Sys2Proof.Machine.execTillerLookup q idx s
  | .tillerInsert q idx => Sys2Proof.Machine.execTillerInsert q idx s
  | .tillerRemove q idx => Sys2Proof.Machine.execTillerRemove q idx s
  | .winnow q idx => Sys2Proof.Machine.execWinnow q idx s
  | .vaultModeProcessor q idx => Sys2Proof.Machine.execVaultModeProcessor q idx s
  | .vaultModeMemory q idx => Sys2Proof.Machine.execVaultModeMemory q idx s
  | .rowRun q idx => Sys2Proof.Machine.execRowRun q idx s
  | .rowFence q idx => Sys2Proof.Machine.execRowFence q idx s
  | .stepBegin q idx => Sys2Proof.Machine.execStepBegin q idx s
  | .stepCommit q idx => Sys2Proof.Machine.execStepCommit q idx s
  | .stepEvaluation q => Sys2Proof.Machine.execStepEvaluation q s
  | .guardReport => Sys2Proof.Machine.execGuardReport s
  | .phaseHint q idx => Sys2Proof.Machine.execPhaseHint q idx s
  | .wqFence q idx => Sys2Proof.Machine.execWqFence q idx s
  | .wqSignal q idx => Sys2Proof.Machine.execWqSignal q idx s
  | .wqSignalDoorbell q idx => Sys2Proof.Machine.execWqSignalDoorbell q idx s
  | .wait q idx => Sys2Proof.Machine.execWait q idx s
  | .waitPoll q idx => Sys2Proof.Machine.execWaitPoll q idx s
  | .timeWait q idx => Sys2Proof.Machine.execTimeWait q idx s
  | .timeWaitReached q idx => Sys2Proof.Machine.execTimeWaitReached q idx s
  | .abort q idx => Sys2Proof.Machine.execAbort q idx s
  | .alu core f => Sys2Proof.Machine.execAlu core f s
  | .alui core f => Sys2Proof.Machine.execAlui core f s
  | .li core f => Sys2Proof.Machine.execLi core f s
  | .lih core f => Sys2Proof.Machine.execLih core f s
  | .ld core f => Sys2Proof.Machine.execLd core f s
  | .sq core f => Sys2Proof.Machine.execSq core f s
  | .br core f => Sys2Proof.Machine.execBr core f s
  | .call core f => Sys2Proof.Machine.execCall core f s
  | .jr core f => Sys2Proof.Machine.execJr core f s
  | .endk core => Sys2Proof.Machine.execEndk core s
  | .csrr core f => Sys2Proof.Machine.execCsrr core f s
  | .csrw core f => Sys2Proof.Machine.execCsrw core f s
  | .dmv core f => Sys2Proof.Machine.execDmv core f s
  | .dms core f => Sys2Proof.Machine.execDms core f s
  | .dmr core f => Sys2Proof.Machine.execDmr core f s
  | .dmh core f => Sys2Proof.Machine.execDmh core f s
  | .dmaDescriptorStart core ch upsets => Sys2Proof.Machine.execDmaDescriptorStart core ch upsets s
  | .fence core kinds => Sys2Proof.Machine.execFence core kinds s
  | .waitc core f => Sys2Proof.Machine.execWaitc core f s
  | .signal core f => Sys2Proof.Machine.execSignal core f s
  | .phint core intensity lead => Sys2Proof.Machine.execPhint core intensity lead s
  | .tdesc core f => Sys2Proof.Machine.execTdesc core f s
  | .tadj core f => Sys2Proof.Machine.execTadj core f s
  | .feed core f => Sys2Proof.Machine.execFeed core f s
  | .feedStart core upsets => Sys2Proof.Machine.execFeedStart core upsets s
  | .passBlockClose core ci j => Sys2Proof.Machine.execPassBlockClose core ci j s
  | .churnLaneRead core ci j => Sys2Proof.Machine.execChurnLaneRead core ci j s
  | .drain core f => Sys2Proof.Machine.execDrain core f s
  | .drainStart core => Sys2Proof.Machine.execDrainStart core s
  | .drainComplete core => Sys2Proof.Machine.execDrainComplete core s
  | .reds core f => Sys2Proof.Machine.execReds core f s
  | .redsComplete core => Sys2Proof.Machine.execRedsComplete core s
  | .redw core t => Sys2Proof.Machine.execRedw core t s
  | .vop core f => Sys2Proof.Machine.execVop core f s
  | .vopExecute core => Sys2Proof.Machine.execVopExecute core s
  | .atb core f => Sys2Proof.Machine.execAtb core f s
  | .atbExecute core => Sys2Proof.Machine.execAtbExecute core s
  | .rowOpCopy v f => Sys2Proof.Machine.execRowOpCopy v f s
  | .rowOpZero v f => Sys2Proof.Machine.execRowOpZero v f s
  | .rowOpOne v f => Sys2Proof.Machine.execRowOpOne v f s
  | .rowOpNot v f => Sys2Proof.Machine.execRowOpNot v f s
  | .rowOpXor v f => Sys2Proof.Machine.execRowOpXor v f s
  | .rowOpAnd v f => Sys2Proof.Machine.execRowOpAnd v f s
  | .rowOpOr v f => Sys2Proof.Machine.execRowOpOr v f s
  | .rowOpMaj3 v f => Sys2Proof.Machine.execRowOpMaj3 v f s
  | .rowOpRecode v chk f => Sys2Proof.Machine.execRowOpRecode v chk f s
  | .rowBankOperation v bank => Sys2Proof.Machine.execRowBankOperation v bank s
  | .rowEnd v => Sys2Proof.Machine.execRowEnd v s
  | .rowSet v counter ci param val => Sys2Proof.Machine.execRowSet v counter ci param val s
  | .rowAdd v ci imm => Sys2Proof.Machine.execRowAdd v ci imm s
  | .rowLoop v ci target => Sys2Proof.Machine.execRowLoop v ci target s
  | .pguCtrlInit sheaf => Sys2Proof.Machine.execPguCtrlInit sheaf s
  | .pguInitComplete sheaf => Sys2Proof.Machine.execPguInitComplete sheaf s
  | .w1cClearWrite path mask hwSet => Sys2Proof.Machine.execW1cClearWrite path mask hwSet s
  | .registerWrite path width value => Sys2Proof.Machine.execRegisterWrite path width value s
  | .timNowRead => Sys2Proof.Machine.execTimNowRead s
  | .hubDtimeRead => Sys2Proof.Machine.execHubDtimeRead s
  | .ptmDialogue root => Sys2Proof.Machine.execPtmDialogue root s
  | .bar2Access r => Sys2Proof.Machine.execBar2Access r s
  | .hostCompletion txn a => Sys2Proof.Machine.execHostCompletion txn a s
  | .ringPacketInject stop ring => Sys2Proof.Machine.execRingPacketInject stop ring s
  | .emptySlotRequest stop ring => Sys2Proof.Machine.execEmptySlotRequest stop ring s
  | .packetTurnedAway id => Sys2Proof.Machine.execPacketTurnedAway id s
  | .ringFlitUe id e => Sys2Proof.Machine.execRingFlitUe id e s
  | .rdReqArrival id upsets => Sys2Proof.Machine.execRdReqArrival id upsets s
  | .rdRespArrival id => Sys2Proof.Machine.execRdRespArrival id s
  | .mcRespDelivery id core => Sys2Proof.Machine.execMcRespDelivery id core s
  | .mcRespGateway id sheaf => Sys2Proof.Machine.execMcRespGateway id sheaf s
  | .wrArrival id => Sys2Proof.Machine.execWrArrival id s
  | .wrAckArrival id => Sys2Proof.Machine.execWrAckArrival id s
  | .reducePassStop id stop => Sys2Proof.Machine.execReducePassStop id stop s
  | .reduceHoldRelease stop entry => Sys2Proof.Machine.execReduceHoldRelease stop entry s
  | .reduceDestinationAdd id => Sys2Proof.Machine.execReduceDestinationAdd id s
  | .tagNoticeArrival id => Sys2Proof.Machine.execTagNoticeArrival id s
  | .reduceTimeout stop tag => Sys2Proof.Machine.execReduceTimeout stop tag s
  | .signalArrival id => Sys2Proof.Machine.execSignalArrival id s
  | .sigAckArrival id => Sys2Proof.Machine.execSigAckArrival id s
  | .msgArrival id => Sys2Proof.Machine.execMsgArrival id s
  | .bridgeFlitCrcError sheaf gatewayB ring => Sys2Proof.Machine.execBridgeFlitCrcError sheaf gatewayB ring s
  | .bridgeLaneRetrain sheaf gatewayB ring badWires => Sys2Proof.Machine.execBridgeLaneRetrain sheaf gatewayB ring badWires s
  | .vaultRequestPerform v upsets => Sys2Proof.Machine.execVaultRequestPerform v upsets s
  | .mergeReadData v entry => Sys2Proof.Machine.execMergeReadData v entry s
  | .refreshCommand v layer window16 => Sys2Proof.Machine.execRefreshCommand v layer window16 s
  | .scrubWord v upset => Sys2Proof.Machine.execScrubWord v upset s
  | .stobyOperationSend stop => Sys2Proof.Machine.execStobyOperationSend stop s
  | .stobyWrite link f => Sys2Proof.Machine.execStobyWrite link f s
  | .stobyRead link f => Sys2Proof.Machine.execStobyRead link f s
  | .stobyReadResp link f => Sys2Proof.Machine.execStobyReadResp link f s
  | .stobyReduceWrite link f => Sys2Proof.Machine.execStobyReduceWrite link f s
  | .stobyAtomic link f => Sys2Proof.Machine.execStobyAtomic link f s
  | .stobyDoorbell link f => Sys2Proof.Machine.execStobyDoorbell link f s
  | .stobyAck link f => Sys2Proof.Machine.execStobyAck link f s
  | .stobyAckSend ctx => Sys2Proof.Machine.execStobyAckSend ctx s
  | .stobyRetxTimer ctx psn => Sys2Proof.Machine.execStobyRetxTimer ctx psn s
  | .stobyPeerTimeout ctx => Sys2Proof.Machine.execStobyPeerTimeout ctx s
  | .stobyContextClose ctx => Sys2Proof.Machine.execStobyContextClose ctx s
  | .stobyRateUpdate ctx => Sys2Proof.Machine.execStobyRateUpdate ctx s
  | .linkBringup link b => Sys2Proof.Machine.execLinkBringup link b s
  | .linkRetryTimer link => Sys2Proof.Machine.execLinkRetryTimer link s
  | .linkDown d => Sys2Proof.Machine.execLinkDown d s
  | .linksReady timeout => Sys2Proof.Machine.execLinksReady timeout s
  | .pfcFrameReceive link prios quanta => Sys2Proof.Machine.execPfcFrameReceive link prios quanta s
  | .arpRequest link q => Sys2Proof.Machine.execArpRequest link q s
  | .neighbourSolicitation link q => Sys2Proof.Machine.execNeighbourSolicitation link q s
  | .ptpAnnounce link ds => Sys2Proof.Machine.execPtpAnnounce link ds s
  | .ptpSync link m => Sys2Proof.Machine.execPtpSync link m s
  | .ptpFollowUp link m => Sys2Proof.Machine.execPtpFollowUp link m s
  | .ptpDelayReq => Sys2Proof.Machine.execPtpDelayReq s
  | .ptpDelayResp link m => Sys2Proof.Machine.execPtpDelayResp link m s
  | .announceTimeout => Sys2Proof.Machine.execAnnounceTimeout s
  | .ppsInEdge => Sys2Proof.Machine.execPpsInEdge s
  | .timerefLoss => Sys2Proof.Machine.execTimerefLoss s
  | .ppsOutPulse => Sys2Proof.Machine.execPpsOutPulse s
  | .sleepTickCalibration period => Sys2Proof.Machine.execSleepTickCalibration period s
  | .holdoverBoundExceeded => Sys2Proof.Machine.execHoldoverBoundExceeded s
  | .avsbusSample rs => Sys2Proof.Machine.execAvsbusSample rs s
  | .avsbusReadingMissing sheaf rail => Sys2Proof.Machine.execAvsbusReadingMissing sheaf rail s
  | .pmbusPoll boostMw aonMw ioMw faults => Sys2Proof.Machine.execPmbusPoll boostMw aonMw ioMw faults s
  | .pmbAlert faults => Sys2Proof.Machine.execPmbAlert faults s
  | .powerUpdate => Sys2Proof.Machine.execPowerUpdate s
  | .oppChangeEnd sheaf => Sys2Proof.Machine.execOppChangeEnd sheaf s
  | .governorRound sheaf used => Sys2Proof.Machine.execGovernorRound sheaf used s
  | .hintRampStart core => Sys2Proof.Machine.execHintRampStart core s
  | .hintExpiry core => Sys2Proof.Machine.execHintExpiry core s
  | .droopDetect core => Sys2Proof.Machine.execDroopDetect core s
  | .droopRecovery core => Sys2Proof.Machine.execDroopRecovery core s
  | .clampEngage core engaged => Sys2Proof.Machine.execClampEngage core engaged s
  | .cellSelfTest sheaf fails => Sys2Proof.Machine.execCellSelfTest sheaf fails s
  | .pwrWarnFall => Sys2Proof.Machine.execPwrWarnFall s
  | .pwrWarnRise => Sys2Proof.Machine.execPwrWarnRise s
  | .holdupReturn => Sys2Proof.Machine.execHoldupReturn s
  | .idleTimerExpiry d => Sys2Proof.Machine.execIdleTimerExpiry d s
  | .sleepRequestAccept d => Sys2Proof.Machine.execSleepRequestAccept d s
  | .entryWindowEnd d => Sys2Proof.Machine.execEntryWindowEnd d s
  | .domainTransitionEnd d => Sys2Proof.Machine.execDomainTransitionEnd d s
  | .offtimerExpiry d => Sys2Proof.Machine.execOfftimerExpiry d s
  | .domainWake d src => Sys2Proof.Machine.execDomainWake d src s
  | .retentionReevaluation sheaf => Sys2Proof.Machine.execRetentionReevaluation sheaf s
  | .keepBrownout sheaf => Sys2Proof.Machine.execKeepBrownout sheaf s
  | .keepSelfTest sheaf pass => Sys2Proof.Machine.execKeepSelfTest sheaf pass s
  | .registerAccessNotOn a => Sys2Proof.Machine.execRegisterAccessNotOn a s
  | .sensorSample sheaf rs => Sys2Proof.Machine.execSensorSample sheaf rs s
  | .hardwareTrip sheaf r => Sys2Proof.Machine.execHardwareTrip sheaf r s
  | .traySensorPoll kind r => Sys2Proof.Machine.execTraySensorPoll kind r s
  | .flowEmergencyEnd => Sys2Proof.Machine.execFlowEmergencyEnd s
  | .flowComputation => Sys2Proof.Machine.execFlowComputation s
  | .flowWarningClear level => Sys2Proof.Machine.execFlowWarningClear level s
  | .heatMismatch => Sys2Proof.Machine.execHeatMismatch s
  | .thermalAllowanceUpdate sheaf => Sys2Proof.Machine.execThermalAllowanceUpdate sheaf s
  | .coreCeilingUpdate core => Sys2Proof.Machine.execCoreCeilingUpdate core s
  | .thermalCycleSample sheaf => Sys2Proof.Machine.execThermalCycleSample sheaf s
  | .wearSample rs => Sys2Proof.Machine.execWearSample rs s
  | .snapshotTick => Sys2Proof.Machine.execSnapshotTick s
  | .jobFaultQuiesce hw => Sys2Proof.Machine.execJobFaultQuiesce hw s
  | .pfcPauseExpiry link cls => Sys2Proof.Machine.execPfcPauseExpiry link cls s
  | .bridgeLaneRetrainEnd sheaf gatewayB ring => Sys2Proof.Machine.execBridgeLaneRetrainEnd sheaf gatewayB ring s
  | .timeSlewEnd => Sys2Proof.Machine.execTimeSlewEnd s
  | .pcieCompletionTimeout txn => Sys2Proof.Machine.execPcieCompletionTimeout txn s
  | .msixVectorUnmask vec => Sys2Proof.Machine.execMsixVectorUnmask vec s
  | .receivedFrameDiscard link why => Sys2Proof.Machine.execReceivedFrameDiscard link why s
  | .addressResolutionReply link mac => Sys2Proof.Machine.execAddressResolutionReply link mac s
  | .testAccessPortInstruction t => Sys2Proof.Machine.execTestAccessPortInstruction t s
  | .keepRegulatorRecovery sheaf => Sys2Proof.Machine.execKeepRegulatorRecovery sheaf s

end Sys2Proof.Machine
end

