-- ==== Sys2Proof/Safety.lean ====
section
/-! DEFINITION. The terms that the statements use: what a safe step is, when a command completes and with what,
what an update leaves unchanged, and when the pails, the queues, the cores and the row units take their commands. -/

namespace Sys2Proof.Machine

/-! ### Steps and completion -/

/-- The step of a state ends in a next state. -/
def SafeStep (s : State) : Prop := ∃ t, step s = .next t

/-- A command ends in a next state of which `P` holds. -/
def Completes (i : Instr) (s : State) (P : State → Prop) : Prop := ∃ t, exec i s = .next t ∧ P t

/-- A command ends in a named undefined case (Table 18.7). -/
def Undefined (i : Instr) (s : State) (n : Nat) : Prop := exec i s = .fault (.undefinedCase n)

/-- A command that does not happen leaves every part of the state as it was. -/
def Waits (i : Instr) (s : State) : Prop := exec i s = .next s

/-! ### Frames -/

/-- Every register but those listed reads as before. -/
def RegsKept (s t : State) (l : List Nat) : Prop := ∀ a, a ∉ l → regGet t a = regGet s a

/-- Every byte of memory outside a range of keys is as before. -/
def MemKept (s t : State) (lo n : Nat) : Prop := ∀ k, (k < lo ∨ lo + n ≤ k) → FMap.find t.mem k = FMap.find s.mem k

/-- Every core but one is as before. -/
def OtherCores (s t : State) (c : Nat) : Prop := ∀ d, d ≠ c → coreAt t d = coreAt s d

/-- Memory in its one canonical form: keys strictly rising. A byte that no entry lists is a free value, so no entry
can equal what an unlisted address reads as. -/
def Memory.wf (m : List Host.Cell) : Bool := FMap.wf m

/-! ### Pails (R275 to R280) -/

/-- The firmware takes a pail command at once: its pail can be reached, no command executes or waits, and the device has left
BOOT. -/
def Takes (s : State) (r : PailReq) : Prop := pailReachable s r.pail = true ∧ pailIdle s = true ∧ s.boot.dev ≠ .boot

/-- The state in which a pail command that runs to an end begins: its page holds it, and STATUS shows PENDING. -/
def pailBegun (s : State) (r : PailReq) (i : Instr) : State := setPending (writePage s r i) r

/-- A pail holds an answer. -/
def Answered (t : State) (r : PailReq) (status : Nat) (resp : List Byte) : Prop :=
  (pageAt t r.pail).status = status ∧ (pageAt t r.pail).rseq = r.seq ∧ (pageAt t r.pail).rlen = resp.length
    ∧ (pageAt t r.pail).resp = resp

/-- From `s` to `t` only the answer of a pail came: its page, and the message that the host may get of it, or its count
where the message is blocked. -/
def OnlyAnswered (s t : State) (r : PailReq) : Prop :=
  t = { s with pails := t.pails, host := t.host, regs := t.regs }
    ∧ (∀ p, p ≠ r.pail → pageAt t p = pageAt s p)
    ∧ t.pails.busy = s.pails.busy ∧ t.pails.deferred = s.pails.deferred ∧ RegsKept s t [hubReg 0x60]

/-- A pail command completes with an answer. -/
def Answers (i : Instr) (s : State) (r : PailReq) (status : Nat) (resp : List Byte) : Prop :=
  Completes i s fun t => Answered t r status resp ∧ OnlyAnswered s t r

/-- Pail commands that a user pail may carry (R279). -/
def userMay : Instr → Bool
  | .devInfo _ => true
  | .floorplanGet _ _ _ => true
  | .licenceList _ _ => true
  | .wearReportSummary _ => true
  | .wearReportDetail _ _ _ => true
  | .faultRecordGet _ _ => true
  | _ => false

/-! ### Commands of the work queues (R297, R300) -/

/-- The queue engine may run an item's command: state JOB, and the item is dispatched and has not begun. -/
def Begins (s : State) (q idx : Nat) (i : Item) : Prop :=
  powered s = true ∧ s.boot.dev = .job ∧ itemAt s q idx = some i ∧ i.phase = .dispatched

/-- An item's command runs. -/
def Runs (s : State) (q idx : Nat) (i : Item) : Prop :=
  powered s = true ∧ s.boot.dev = .job ∧ itemAt s q idx = some i ∧ i.phase = .running

/-- An item's command has ended with a status, and its record is still to be written. -/
def Ended (t : State) (q idx status : Nat) : Prop :=
  ∃ y, itemAt t q idx = some y ∧ y.phase = .ended ∧ y.status = status

/-- Every work queue but one is as before. -/
def OtherQueues (s t : State) (q : Nat) : Prop := ∀ p, p ≠ q → queueAt t p = queueAt s p

/-- From `s` to `t` a command came to its end, with no other effect. -/
def OnlyEnded (s t : State) (q idx status : Nat) : Prop := t = endItem s q idx status ∧ Ended t q idx status

/-- A range of whole code words of a vault is plain memory: the vault is in service and in MEMORY mode, no word carries an error
or lies in a row with invalid check bits, no program rewrote its rows without a fence, and no page unit, command or step keeps
a part of it. -/
def PlainWords (s : State) (v off n : Nat) : Prop :=
  vaultInService s v = true ∧ processorMode s v = false ∧ off % 32 = 0 ∧ n % 32 = 0 ∧ off + n ≤ tillerBase
    ∧ badChecks s v off n = false
    ∧ (∀ k, off ≤ k → k < off + n →
      FMap.find s.marks (vaultKey v k) = none ∧ inMeta s v k = false ∧ (vaultAt s v).row.unfenced.contains (rowKey k) = false)
    ∧ ∀ k m, off ≤ k → k + m ≤ off + n → writeBarred s (vaultKey v k) m = none

/-- Plain memory of a vault whose inputs hold no request. -/
def PlainVault (s : State) (v off n : Nat) : Prop :=
  PlainWords s v off n ∧ (vaultAt s v).shaftQ = [] ∧ (vaultAt s v).ringQ = []

/-- From `s` to `t` the work queues changed in nothing but the outputs that items have noted (R104). -/
def SameWork (s t : State) : Prop :=
  t.wq = { s.wq with queues := t.wq.queues }
    ∧ ∀ q, queueAt t q = { queueAt s q with items := (queueAt t q).items }
      ∧ (queueAt t q).items.map (fun i => { i with outs := [] }) = (queueAt s q).items.map fun i => { i with outs := [] }

/-- A range of device addresses lies in the host memory window, and its bus addresses do not wrap. -/
def InHost (s : State) (a n : Nat) : Prop :=
  0x40000000000 ≤ a ∧ a + n ≤ 0x80000000000 ∧ regGet s (hubReg 0x40) < 2 ^ 63

/-- No command that keeps memory to itself is in a queue, and no step is open or held (R165, R173, R182, R192). -/
def NoKeepers (s : State) : Prop :=
  s.guard.steps = [] ∧ ∀ e ∈ s.wq.queues, ∀ i ∈ e.2.items, match i.cmd with
    | .pageOp _ => False
    | .tiller _ => False
    | .winnow _ => False
    | _ => True

/-! ### Tile programs (R103, R109) -/

/-- The core runs a kernel, and the word at its program counter is the instruction. -/
def Issues (s : State) (c : Nat) (i : TileInstr) : Prop :=
  powered s = true ∧ (coreAt s c).running = true ∧ (coreAt s c).pc % 8 = 0
    ∧ ((coreAt s c).code[(coreAt s c).pc / 8]?).bind (fun w => decodeTile w.toNat) = some i

/-- From `s` to `t` core `c` wrote a scalar register and went to the next instruction; s0 stays zero. -/
def WritesSreg (s t : State) (c d v : Nat) : Prop :=
  OtherCores s t c
    ∧ coreAt t c = { coreAt s c with pc := ((coreAt s c).pc + 8) % 2 ^ 64, sregs := (coreAt t c).sregs }
    ∧ ∀ n, sreg (coreAt t c) n = if n = d ∧ n ≠ 0 then v % 2 ^ 64 else sreg (coreAt s c) n

/-- From `s` to `t` core `c` went to the next instruction, with no scalar or tile register changed. -/
def NextInstr (s t : State) (c : Nat) : Prop :=
  OtherCores s t c ∧ (coreAt t c).pc = ((coreAt s c).pc + 8) % 2 ^ 64 ∧ (coreAt t c).sregs = (coreAt s c).sregs
    ∧ (coreAt t c).tregs = (coreAt s c).tregs ∧ (coreAt t c).code = (coreAt s c).code ∧ (coreAt t c).running = true

/-- The row unit of a vault as its next micro-instruction finds it: a ROW_RUN that waits has been loaded. -/
def rowUnitAt (s : State) (v : Nat) : RowUnit := (vaultAt (startRow s v) v).row

/-- A vault's program has the micro-instruction next (R240). -/
def IssuesRow (s : State) (v : Nat) (i : RowInstr) : Prop := powered s = true ∧ rowNext (rowUnitAt s v) = .ok (some i)

/-- Every vault but one is as before. -/
def OtherVaults (s t : State) (v : Nat) : Prop := ∀ w, w ≠ v → vaultAt t w = vaultAt s w

/-- No word of a row carries an error, a poison marker or invalid check bits. -/
def RowClean (s : State) (v bl row : Nat) : Prop := ∀ w, w < 64 → FMap.find s.marks (rowKeyAt v bl row + 32 * w) = none

/-! ### Packets on the rings (R256, R259) -/

/-- A packet of a type is on the rings, its destination accepts it now, and the core that it is for takes it past the stop's
ejection queue at once. -/
def Arrives (s : State) (id : Nat) (p : Packet) (ty : PType) : Prop :=
  powered s = true ∧ flightAt s id = some p ∧ p.ty = ty ∧ accepts s id p = true ∧ ejected s id p = false
    ∧ ∀ c, toCore s p = some c → direct s c p = true

/-- From `s` to `t` a packet joined the end of a stop's queue for its ring. -/
def Sends (s t : State) (stop : Nat) (p : Packet) : Prop := injectQ t stop p.ring = injectQ s stop p.ring ++ [p]

/-- No code word of a range of a core's SRAM carries an error. -/
def PlainSram (s : State) (c off n : Nat) : Prop := ∀ w ∈ wordsOf 16 off n, FMap.find s.marks (sramKey c w) = none

/-! ### Links and their frames (R313, R315, R328) -/

/-- A link sends a frame at once: it is up and On, no frame waits on it, and with ROUTED it knows the switch's address. -/
def LinkReady (s : State) (l : Nat) : Prop :=
  linkUp s l = true ∧ domOn s ⟨.link, l⟩ = true ∧ (domAt s ⟨.link, l⟩).sleep = .none ∧ (linkAt s l).waiting = []
    ∧ (s.links.cfg.routed = true → (linkAt s l).switchMac.isSome = true)

/-- The link that a received frame's command names, and the frame. -/
def rxOf : Instr → Option (Nat × RxFrame)
  | .stobyWrite l f => if f.op = 1 then some (l, .stoby f) else none
  | .stobyRead l f => if f.op = 2 then some (l, .stoby f) else none
  | .stobyReadResp l f => if f.op = 3 then some (l, .stoby f) else none
  | .stobyReduceWrite l f => if f.op = 4 then some (l, .stoby f) else none
  | .stobyAtomic l f => if f.op = 5 then some (l, .stoby f) else none
  | .stobyDoorbell l f => if f.op = 6 then some (l, .stoby f) else none
  | .stobyAck l f => if f.op = 7 then some (l, .stoby f) else none
  | .pfcFrameReceive l p q => some (l, .pfc p q)
  | .arpRequest l q => some (l, .arp q.ip q.mac)
  | .neighbourSolicitation l q => some (l, .solicit q.ip q.mac)
  | .addressResolutionReply l mac => some (l, .resolved mac)
  | .ptpAnnounce l d => some (l, .announce d)
  | .ptpSync l m => some (l, .sync m)
  | .ptpFollowUp l m => some (l, .followUp m)
  | .ptpDelayResp l m => some (l, .delayResp m)
  | .receivedFrameDiscard l w => some (l, .bad w)
  | _ => none

/-- A frame reaches a link that is up and On, with room for it in the receive buffer. -/
def Reaches (s : State) (l : Nat) (x : RxFrame) : Prop :=
  powered s = true ∧ l < 32 ∧ linkUp s l = true ∧ domOn s ⟨.link, l⟩ = true ∧ rxFull s l (rxBytes s x) = false

/-- A frame reaches a link whose engines take frames. -/
def LinkTakes (s : State) (l : Nat) (x : RxFrame) : Prop := Reaches s l x ∧ framesTaken s = true

/-! ### Stoby frames (R320 to R322) -/

/-- A received frame is the next one of its receive context `c`, in state `x`: the one to start next, neither performed nor held,
with no later one ready behind it. A frame with SYN opens its context. -/
def NextFrame (s : State) (l c : Nat) (x : RecvCtx) (f : Frame) : Prop :=
  (findRecv s f.srcDev f.srcSheaf f.dstSheaf f.cls = some (c, x)
      ∨ (findRecv s f.srcDev f.srcSheaf f.dstSheaf f.cls = none ∧ f.syn = true ∧ recvRoom s f.dstSheaf = true
          ∧ c = s.stoby.nextCtx ∧ x = newRecv l f))
    ∧ psnDist f.psn x.next < psnWindow ∧ f.psn ∉ x.finished ∧ receivedPsn x f.psn = false ∧ x.start = f.psn
    ∧ FMap.find x.window (psnNext f.psn) = none

/-- The state in which a link's frame is looked at: counted, with the acknowledgement that it carries taken. -/
def frameSeen (s : State) (l : Nat) (f : Frame) : State := piggyback (rxFrame s l (frameBytes s f)) f

/-- The commands of the received data frames, by OP. -/
def frameCmds (l : Nat) (f : Frame) : List (Nat × Instr) :=
  [(1, .stobyWrite l f), (2, .stobyRead l f), (3, .stobyReadResp l f), (4, .stobyReduceWrite l f), (5, .stobyAtomic l f),
    (6, .stobyDoorbell l f)]

end Sys2Proof.Machine
end

