-- ==== Sys2Proof/WellFormed.lean ====
section
/-! DEFINITION. Which commands are well formed: every operand within the width that its field has. -/

namespace Sys2Proof

def ScalarF.wf (f : ScalarF) : Bool :=
  decide (f.d < 32) && decide (f.a < 32) && decide (f.b < 32) && decide (f.fn < 512) && decide (f.imm < 2 ^ 32)

def DmaF.wf (f : DmaF) : Bool :=
  decide (f.a < 32) && decide (f.b < 32) && decide (f.c < 32) && decide (f.ch < 4) && decide (f.evt < 64)
    && decide (f.dstride < 2 ^ 16) && decide (f.sstride < 2 ^ 16)

def WaitcF.wf (f : WaitcF) : Bool := decide (f.m < 32) && decide (f.d < 32)

def SignalF.wf (f : SignalF) : Bool := decide (f.a < 32) && decide (f.ev < 64)

def TdescF.wf (f : TdescF) : Bool := decide (f.t < 16) && decide (f.a < 32) && decide (f.imm < 2 ^ 32)

def TadjF.wf (f : TadjF) : Bool := decide (f.t < 16) && decide (f.a < 32) && decide (f.b < 32)

def FeedF.wf (f : FeedF) : Bool :=
  decide (f.ta < 16) && decide (f.tb < 16) && decide (f.k < 32) && decide (f.x < 32) && decide (f.plan < 16)
    && decide (f.cplx < 4) && decide (f.h < 16)

def DrainF.wf (f : DrainF) : Bool :=
  decide (f.t < 16) && decide (f.p < 32) && decide (f.s < 32) && decide (f.c < 32) && decide (f.w < 32)
    && decide (f.round < 4) && decide (f.gslot < 256)

def RedsF.wf (f : RedsF) : Bool :=
  decide (f.a < 32) && decide (f.tag < 32) && decide (f.t < 16) && decide (f.efmt < 8) && decide (f.p < 32)
    && decide (f.ch < 4) && decide (f.evt < 64)

def VopF.wf (f : VopF) : Bool :=
  decide (f.d < 16) && decide (f.a < 16) && decide (f.b < 16) && decide (f.s < 32) && decide (f.fn < 64)

def AtbF.wf (f : AtbF) : Bool :=
  decide (f.q < 16) && decide (f.k < 16) && decide (f.v < 16) && decide (f.o < 16) && decide (f.m < 32)
    && decide (f.mask < 32) && decide (f.pfmt < 4) && decide (f.kind < 16) && decide (f.c < 32)

/-- Fields of a tile instruction fit their places. -/
def TileInstr.wf : TileInstr → Bool
  | .alu f | .alui f | .li f | .lih f | .ld f | .sq f | .br f | .call f | .jr f | .csrr f | .csrw f => f.wf
  | .endk => true
  | .dmv f | .dms f | .dmr f | .dmh f => f.wf
  | .fence k => decide (k < 256)
  | .waitc f => f.wf
  | .signal f => f.wf
  | .phint i l => decide (i < 16) && decide (l < 2 ^ 16)
  | .tdesc f => f.wf
  | .tadj f => f.wf
  | .feed f => f.wf
  | .drain f => f.wf
  | .reds f => f.wf
  | .redw t => decide (t < 32)
  | .vop f => f.wf
  | .atb f => f.wf

def RowF.wf (f : RowF) : Bool :=
  decide (f.d < 8) && decide (f.a < 8) && decide (f.b < 8) && decide (f.c < 8) && decide (f.bs < 4)

/-- Fields of a micro-instruction fit their places. -/
def RowInstr.wf : RowInstr → Bool
  | .endp => true
  | .op _ f => f.wf
  | .set _ i _ v => decide (i < 8) && decide (v < 2 ^ 16)
  | .add i imm => decide (i < 8) && decide (imm < 2 ^ 16)
  | .loop i t => decide (i < 4) && decide (t < 256)

def PailReq.wf (r : PailReq) : Bool :=
  decide (r.pail < 72) && decide (r.seq < 2 ^ 32) && decide (r.vector < 2048)

/-- A core number. -/
def coreOk (c : Nat) : Bool := decide (c < 1024)
/-- A queue number and the index of one of its items. -/
def itemOk (q idx : Nat) : Bool := decide (q < 65536) && decide (idx < 65536)

def Dom.wf (d : Dom) : Bool := match d.kind with
  | .core | .vault => decide (d.num < 1024)
  | .link => decide (d.num < 32)
  | .fabric => decide (d.num < 8)
  | .time | .host => d.num == 0

def Sensor.wf : Sensor → Bool
  | .array c k => decide (c < 128) && decide (k < 4)
  | .store c k => decide (c < 128) && decide (k < 2)
  | .dram v l => decide (v < 128) && decide (l < 5)

def Frame.wf (f : Frame) : Bool :=
  decide (f.srcDev < 4096) && decide (f.srcSheaf < 8) && decide (f.dstDev < 4096) && decide (f.dstSheaf < 8)
    && decide (f.cls < 4) && decide (f.psn < 2 ^ 32) && decide (f.apsn < 2 ^ 32) && decide (f.addr < 2 ^ 64)
    && decide (f.bytes ≤ 256) && decide (f.value < 2 ^ 64) && decide (f.payload.length ≤ 256)
    && decide (f.rtag < 2 ^ 32) && decide (f.rcount < 2 ^ 16) && decide (f.relems < 2 ^ 16)
    && decide (f.contrib < 2 ^ 16) && decide (f.srcLink < 32)

/-- A device address of 56 bits, or an offset of BAR0, whose size is 64 MiB (R341). -/
def RegPath.wf : RegPath → Bool
  | .addr a => decide (a < 2 ^ 56)
  | .bar0 off => decide (off < 2 ^ 26)

/-- Every operand of a command fits its field. -/
def Instr.wf : Instr → Bool
  | .pwrokRise p => decide (p.straps.bmcAddr < 4) && p.wires.all fun w => decide (w.sheaf < 8) && decide (w.ring < 4) && w.bad.length == 9
  | .pwrokFall | .perstAssert | .perstDeassert | .bootImageAuthenticate | .bootFallbackTimeout => true
  | .vaultTraining f => f.all coreOk
  | .configReady => true
  | .knownAnswerTest f cl => f.all coreOk && cl.all fun p => coreOk p.1 && decide (p.2 < 4)
  | .readyEntry => true
  | .hostSideReset _ => true
  | .pcieConfigRequest r => match r with
    | .read off => off % 4 == 0 && decide (off < 4096)
    | .write off v => off % 4 == 0 && decide (off < 4096) && decide (v < 2 ^ 32)
    | _ => true
  | .watchdogExpiry c => decide (c < 4)
  | .firmwareRestartDone => true
  | .devInfo r => r.wf
  | .floorplanGet r a n => r.wf && decide (a < 2 ^ 64) && decide (n < 2 ^ 32)
  | .jobOpen r p => r.wf && decide (p.c0Cores < 256) && decide (p.c0Burst < 256)
      && decide (p.c0Interval < 2 ^ 32) && decide (p.fpaddr < 2 ^ 64) && decide (p.fplen < 2 ^ 32)
  | .jobClose r => r.wf
  | .queueCreate r p => r.wf && decide (p.queue < 65536) && decide (p.cls < 256) && decide (p.log2depth < 256)
      && decide (p.weight < 256) && decide (p.cq < 65536) && decide (p.base < 2 ^ 64)
      && decide (p.tset < 2 ^ 64) && decide (p.group < 256) && decide (p.vector < 2 ^ 16)
  | .queueDestroy r q | .queueFlush r q | .queueFlushAbort r q => r.wf && decide (q < 65536)
  | .powerSetCap r p => r.wf && decide (p.cap < 2 ^ 32) && decide (p.window < 2 ^ 32)
      && decide (p.holdup < 2 ^ 32) && decide (p.slope < 2 ^ 32)
  | .powerSetOppAuto r h => r.wf && decide (h < 256)
  | .powerSetOppPin r o h => r.wf && decide (o < 256) && decide (h < 256)
  | .domainPolicyTimers r p => r.wf && decide (p.timer < 2 ^ 32) && decide (p.offtimer < 2 ^ 32)
      && decide (p.set < 2 ^ 64)
  | .domainPolicyRetain r _ b set => r.wf && decide (b < 2 ^ 16) && decide (set < 2 ^ 64)
  | .domainPolicyWake r _ _ set => r.wf && decide (set < 2 ^ 64)
  | .domainPolicyAdmit r _ => r.wf
  | .licenceInstall r p => r.wf && decide (p.record.magic < 2 ^ 32) && decide (p.record.version < 2 ^ 16)
      && decide (p.record.deviceId < 2 ^ 64) && decide (p.record.features < 2 ^ 32) && decide (p.record.serial < 2 ^ 32)
      && decide (p.record.issued < 2 ^ 64) && decide (p.record.sig < 2 ^ 768)
  | .licenceList r f => r.wf && decide (f < 2 ^ 16)
  | .timeConfig r _ => r.wf
  | .timeConfigSet r _ t => r.wf && decide (t < 2 ^ 64)
  | .linkConfig r p => r.wf && decide (p.cfg.devid < 2 ^ 16) && decide (p.cfg.linkmask < 2 ^ 32)
  | .counterAccessUser r h => r.wf && decide (h < 256)
  | .counterAccessSelect r p => r.wf && decide (p.ctr < 256) && decide (p.event < 256) && decide (p.set < 2 ^ 64)
  | .snapshotConfigStart r p => r.wf && decide (p.mask < 32) && decide (p.period < 2 ^ 64)
      && decide (p.start < 2 ^ 64) && decide (p.base < 2 ^ 64) && decide (p.entries < 2 ^ 32)
  | .snapshotConfigStop r => r.wf
  | .guardConfigPolicy r a => r.wf && decide (a < 2 ^ 32)
  | .guardConfigSlot r p => r.wf && decide (p.slot < 256) && decide (p.scfg < 2 ^ 32)
      && decide (p.ratio < 2 ^ 64) && decide (p.scale < 2 ^ 64)
  | .guardConfigLog r b e v => r.wf && decide (b < 2 ^ 64) && decide (e < 2 ^ 32) && decide (v < 2 ^ 16)
  | .guardConfigResolveCommit r q | .guardConfigResolveDiscard r q => r.wf && decide (q < 65536)
  | .wearReportSummary r => r.wf
  | .wearReportDetail r n a => r.wf && decide (n < 2 ^ 32) && decide (a < 2 ^ 64)
  | .faultRecordGet r f => r.wf && decide (f < 2 ^ 32)
  | .fwUpdate r p => r.wf && decide (p.src < 2 ^ 64) && decide (p.len < 2 ^ 32)
  | .katRun r f => r.wf && f.all coreOk
  | .pldmRequest _ => true
  | .wqDoorbell q v | .cqDoorbell q v => decide (q < 65536) && decide (v < 2 ^ 64)
  | .c0TokenRefill g => decide (g < 256)
  | .wqFetch q | .wqDispatch q => decide (q < 65536)
  | .commandCompletion q i | .kernel q i | .gemm q i | .attend q i | .reduce q i | .copy q i | .fill q i
  | .pageOpAlloc q i | .pageOpShare q i | .pageOpCow q i | .pageOpFree q i | .tillerLookup q i
  | .tillerInsert q i | .tillerRemove q i | .winnow q i | .vaultModeProcessor q i | .vaultModeMemory q i
  | .rowRun q i | .rowFence q i | .stepBegin q i | .stepCommit q i | .phaseHint q i | .wqFence q i
  | .wqSignal q i | .wqSignalDoorbell q i | .wait q i | .waitPoll q i | .timeWait q i | .timeWaitReached q i
  | .abort q i => itemOk q i
  | .kernelCoreStart c => coreOk c
  | .stepEvaluation q => decide (q < 65536)
  | .guardReport => true
  | .alu c f | .alui c f | .li c f | .lih c f | .ld c f | .sq c f | .br c f | .call c f | .jr c f
  | .csrr c f | .csrw c f => coreOk c && f.wf
  | .endk c => coreOk c
  | .dmv c f | .dms c f | .dmr c f | .dmh c f => coreOk c && f.wf
  | .dmaDescriptorStart c ch _ => coreOk c && decide (ch < 4)
  | .fence c k => coreOk c && decide (k < 256)
  | .waitc c f => coreOk c && f.wf
  | .signal c f => coreOk c && f.wf
  | .phint c i l => coreOk c && decide (i < 16) && decide (l < 2 ^ 16)
  | .tdesc c f => coreOk c && f.wf
  | .tadj c f => coreOk c && f.wf
  | .feed c f => coreOk c && f.wf
  | .feedStart c _ => coreOk c
  | .passBlockClose c i j | .churnLaneRead c i j => coreOk c && decide (i < 128) && decide (j < 128)
  | .drain c f => coreOk c && f.wf
  | .drainStart c | .drainComplete c | .redsComplete c | .vopExecute c | .atbExecute c => coreOk c
  | .reds c f => coreOk c && f.wf
  | .redw c t => coreOk c && decide (t < 32)
  | .vop c f => coreOk c && f.wf
  | .atb c f => coreOk c && f.wf
  | .rowOpCopy v f | .rowOpZero v f | .rowOpOne v f | .rowOpNot v f | .rowOpXor v f | .rowOpAnd v f
  | .rowOpOr v f | .rowOpMaj3 v f => coreOk v && f.wf
  | .rowOpRecode v _ f => coreOk v && f.wf
  | .rowBankOperation v b => coreOk v && decide (b < 80)
  | .rowEnd v => coreOk v
  | .rowSet v _ i _ x => coreOk v && decide (i < 8) && decide (x < 2 ^ 16)
  | .rowAdd v i x => coreOk v && decide (i < 8) && decide (x < 2 ^ 16)
  | .rowLoop v i t => coreOk v && decide (i < 4) && decide (t < 256)
  | .pguCtrlInit h | .pguInitComplete h => decide (h < 8)
  | .w1cClearWrite p _ _ => p.wf
  | .registerWrite p w _ => p.wf && decide (0 < w) && decide (w ≤ 8)
  | .timNowRead | .hubDtimeRead => true
  | .ptmDialogue t => decide (t < 2 ^ 64)
  | .bar2Access r => match r with
    | .read off n => decide (off < 2 ^ 39) && decide (n ≤ 4096)
    | .write off d => decide (off < 2 ^ 39) && decide (d.length ≤ 4096)
  | .hostCompletion _ _ => true
  | .ringPacketInject st r | .emptySlotRequest st r => decide (st < 2048) && decide (r < 4)
  | .packetTurnedAway _ => true
  | .ringFlitUe _ e => decide (e.stop < 2048) && (e.wrongBits == 1 || e.wrongBits == 2)
  | .rdReqArrival _ _ | .rdRespArrival _ | .mcRespGateway _ _ | .wrArrival _ | .wrAckArrival _ => true
  | .mcRespDelivery _ c => coreOk c
  | .reducePassStop _ st => decide (st < 2048)
  | .reduceHoldRelease st _ => decide (st < 2048)
  | .reduceDestinationAdd _ | .tagNoticeArrival _ => true
  | .reduceTimeout st t => decide (st < 2048) && decide (t < 2 ^ 32)
  | .signalArrival _ | .sigAckArrival _ | .msgArrival _ => true
  | .bridgeFlitCrcError h _ r | .bridgeLaneRetrainEnd h _ r => decide (h < 8) && decide (r < 4)
  | .bridgeLaneRetrain h _ r w => decide (h < 8) && decide (r < 4) && decide (w.length ≤ 9)
  | .vaultRequestPerform v _ => coreOk v
  | .mergeReadData v _ => coreOk v
  | .refreshCommand v l _ => coreOk v && decide (l < 5)
  | .scrubWord v _ => coreOk v
  | .stobyOperationSend st => decide (st < 2048)
  | .stobyWrite l f | .stobyRead l f | .stobyReadResp l f | .stobyReduceWrite l f | .stobyAtomic l f
  | .stobyDoorbell l f | .stobyAck l f => decide (l < 32) && f.wf
  | .stobyAckSend _ | .stobyRetxTimer _ _ | .stobyPeerTimeout _ | .stobyContextClose _
  | .stobyRateUpdate _ => true
  | .linkBringup l b => decide (l < 32) && decide (b.badLanes < 256)
  | .linkRetryTimer l => decide (l < 32)
  | .linkDown d => decide (d.link < 32)
  | .linksReady _ => true
  | .pfcFrameReceive l c q => decide (l < 32) && decide (c < 256) && decide (q < 2 ^ 16)
  | .arpRequest l q => decide (l < 32) && decide (q.ip < 2 ^ 32) && decide (q.mac < 2 ^ 48)
  | .neighbourSolicitation l q => decide (l < 32) && decide (q.ip < 2 ^ 128) && decide (q.mac < 2 ^ 48)
  | .ptpAnnounce l _ | .ptpSync l _ | .ptpFollowUp l _ | .ptpDelayResp l _ => decide (l < 32)
  | .ptpDelayReq | .announceTimeout | .ppsInEdge | .timerefLoss | .ppsOutPulse => true
  | .sleepTickCalibration _ | .holdoverBoundExceeded => true
  | .avsbusSample rs => rs.all fun r => decide (r.sheaf < 8) && decide (r.rail < 7)
  | .avsbusReadingMissing h r => decide (h < 8) && decide (r < 7)
  | .pmbusPoll _ _ _ fs | .pmbAlert fs => fs.all fun f => decide (f.rail < 10) && decide (f.zone < 8)
  | .powerUpdate => true
  | .oppChangeEnd h => decide (h < 8)
  | .governorRound h _ => decide (h < 8)
  | .hintRampStart c | .hintExpiry c | .droopDetect c | .droopRecovery c => coreOk c
  | .clampEngage c _ => coreOk c
  | .cellSelfTest h fs => decide (h < 8) && fs.all fun f => decide (f.core < 128)
  | .pwrWarnFall | .pwrWarnRise | .holdupReturn => true
  | .idleTimerExpiry d | .sleepRequestAccept d | .entryWindowEnd d | .domainTransitionEnd d
  | .offtimerExpiry d => d.wf
  | .domainWake d _ => d.wf
  | .retentionReevaluation h | .keepBrownout h => decide (h < 8)
  | .keepSelfTest h _ => decide (h < 8)
  | .registerAccessNotOn a => a.path.wf
  | .sensorSample h rs => decide (h < 8) && rs.all fun r => r.sensor.wf
  | .hardwareTrip h r => decide (h < 8) && r.sensor.wf
  | .traySensorPoll _ _ | .flowEmergencyEnd | .flowComputation => true
  | .flowWarningClear n => n == 1 || n == 2
  | .heatMismatch => true
  | .thermalAllowanceUpdate h | .thermalCycleSample h => decide (h < 8)
  | .coreCeilingUpdate c => coreOk c
  | .wearSample _ | .snapshotTick => true
  | .jobFaultQuiesce f => match f with
    | some (.parity c) => coreOk c
    | some (.queueEngine k) => decide (k < 2)
    | none => true
  | .pfcPauseExpiry l c => decide (l < 32) && decide (c < 4)
  | .timeSlewEnd | .pcieCompletionTimeout _ => true
  | .msixVectorUnmask v => decide (v < 2048)
  | .receivedFrameDiscard l _ | .addressResolutionReply l _ => decide (l < 32)
  | .testAccessPortInstruction _ => true
  | .keepRegulatorRecovery h => decide (h < 8)

end Sys2Proof
end

