-- ==== Sys2Proof/Certificates/Slice0/Obligations.lean ====
section
/-! DEFINITION. The statements for the provers. -/

open Sys2Proof Sys2Proof.Machine

/-- A step runs the front command on the rest of the queue (the model's own queue of commands).
Clauses that rest on the model's choices: log entries 1, 4. -/
def Obligations.StepRunsFront : Prop :=
  ∀ (c : Instr) (s : State), step { s with pending := c :: s.pending } = exec c s

/-- With no command waiting one nanosecond passes. That an idle step is a tick is the model's choice (log entry 3);
that DTIME counts nanoseconds is R330. -/
def Obligations.IdleTick : Prop :=
  ∀ s : State, s.pending = [] →
    (∃ t, step s = .next t ∧ t = { s with time := t.time, free := t.free, board := t.board })
    ∧ (powered s = false → step s = .next s)
    ∧ (powered s = true → s.time.asleep = none → s.time.slewing = false → s.time.servo = 0 →
        s.time.dtime + 2 ^ 16 < 2 ^ 80 → ∃ t, step s = .next t ∧ t.time.dtime = s.time.dtime + 2 ^ 16)
    ∧ (powered s = true → s.time.asleep = none → s.time.slewing = true → s.time.slewTick % 5000 = 4999 →
        0 < s.time.slewLeft →
        ∃ t, step s = .next t ∧ t.time.dtime = (s.time.dtime + 2 * 2 ^ 16) % 2 ^ 80 ∧ t.time.slewLeft = s.time.slewLeft - 1)
    ∧ (powered s = true → s.time.asleep = none → s.time.slewing = true → s.time.slewTick % 5000 = 4999 →
        s.time.slewLeft < 0 →
        ∃ t, step s = .next t ∧ t.time.dtime = s.time.dtime % 2 ^ 80 ∧ t.time.slewLeft = s.time.slewLeft + 1)
    ∧ (∀ a b n, powered s = true → s.time.asleep = some (a, b, n) →
        ∃ t, step s = .next t ∧ t.time.dtime = (a + sleepTicks (n + 1) * sleepPeriod s) % 2 ^ 80
          ∧ t.time.asleep = some (a, b, n + 1))

/-- While PWROK is low, or after a hardware trip, no command but PWROK_RISE and PWROK_FALL changes anything.
Clauses that rest on the model's choices: log entries 3, 12. -/
def Obligations.NothingWithoutPower : Prop :=
  ∀ (i : Instr) (s : State), powered s = false → (∀ st w, i ≠ .pwrokRise ⟨st, w⟩) → i ≠ .pwrokFall → exec i s = .next s

/-- No command touches the queue of commands: exec's effect is on everything but it.
Clauses that rest on the model's choices: log entry 1. -/
def Obligations.QueueUntouched : Prop :=
  ∀ (i : Instr) (s t : State), exec i s = .next t → t.pending = s.pending

/-- Every step keeps memory in its canonical form, in states that no run reaches as well.
Clauses that rest on the model's choices: log entry 7. -/
def Obligations.MemoryCanonicalStep : Prop :=
  ∀ s t : State, Memory.wf s.mem = true → step s = .next t → Memory.wf t.mem = true

/-- The state at reset: nothing waits, memory is canonical and undefined throughout, registers read the reset values of
their tables, the device is in BOOT with no job, queue, answer or record, and with the licences it shipped with.
Clauses that rest on the model's choices: log entries 5, 6. -/
def Obligations.ResetState : Prop :=
  State.reset.pending = [] ∧ Memory.wf State.reset.mem = true ∧ (∀ k, FMap.find State.reset.mem k = none)
    ∧ (∀ a, regGet State.reset a = regReset a)
    ∧ State.reset.boot.pwrok = false ∧ State.reset.boot.dev = .boot ∧ State.reset.boot.phase = .off
    ∧ State.reset.time.st = .unset ∧ State.reset.job.isOpen = false
    ∧ (∀ q, (queueAt State.reset q).st = .free) ∧ (∀ p, pageAt State.reset p = .reset)
    ∧ State.reset.fault.records = [] ∧ State.reset.flash.licences = factoryLicences Config.licencesPreinstalled
    ∧ regReset (coreReg 5 0x108) = 2 ^ 64 - 1 ∧ regReset (pwrReg 0 0x100) % 65536 = 4000
    ∧ regReset (hubReg 0x40008) = 2

/-- PWROK_RISE is a power-on reset; PWROK_FALL stops the clocks and releases THERMTRIP_N.
Clauses that rest on the model's choices: log entries 2, 6, 12. -/
def Obligations.PowerPins : Prop :=
  (∀ (st : Straps) (w : List WireTest) (s : State), s.boot.pwrok = false →
    Completes (.pwrokRise ⟨st, w⟩) s fun t =>
      t.boot.pwrok = true ∧ t.boot.straps = st ∧ t.boot.dev = .boot
        ∧ t.boot.phase = (if st.testmode then .stuck else .rom)
        ∧ (∀ k, FMap.find t.mem k = if k < 2 ^ 64 then none else FMap.find s.mem k)
        ∧ t.flash.boots = s.flash.boots + 1
        ∧ t.flash.retired = s.flash.retired ++ (s.flash.marked.filter fun r =>
            !s.flash.retired.any (sameUnit r)).map (fun r => { r with boot := s.flash.boots + 1 })
        ∧ t.flash.imageA = s.flash.imageA ∧ t.flash.imageB = s.flash.imageB ∧ t.flash.licences = s.flash.licences
        ∧ t.flash.fuses = s.flash.fuses ∧ t.wear = s.wear ∧ t.job.isOpen = false ∧ t.time.st = .unset
        ∧ t.pending = s.pending
        ∧ ((∀ x ∈ w, ∀ n ∈ x.bad, n ≤ 2) → (∀ a, regGet t a = regReset a) ∧ t.flash.marked = [])
        ∧ (∀ x ∈ w, x.sheaf < 8 → x.ring < 4 → (∃ n ∈ x.bad, 2 < n) →
          (laneAt t (recvKey x.sheaf x.gatewayB x.ring)).up = false))
  ∧ (∀ s : State, s.boot.pwrok = true →
    Completes .pwrokFall s fun t =>
      t = { s with boot := t.boot, board := t.board, time := t.time }
        ∧ powered t = false ∧ t.boot.tripped = false ∧ t.boot.dev = .boot ∧ t.board.alert = false
        ∧ t.time = { s.time with ppsOut := false })
  ∧ (∀ (st : Straps) (w : List WireTest) (s : State), s.boot.pwrok = true → Waits (.pwrokRise ⟨st, w⟩) s)
  ∧ (∀ s : State, s.boot.pwrok = false → Waits .pwrokFall s)

/-- PERST_ASSERT keeps vault contents, counters, DTIME, the wear log and the fault records of flash, and resets the rest;
PERST_DEASSERT releases the PCI Express controller.
Clauses that rest on the model's choices: log entry 12. -/
def Obligations.ConventionalReset : Prop :=
  (∀ s : State, powered s = true → s.boot.perst = false → s.boot.straps.testmode = false →
    Completes .perstAssert s fun t =>
      t.boot.perst = true ∧ t.boot.pcieHeld = true ∧ t.boot.phase = .rom ∧ t.boot.dev = .boot
        ∧ (∀ k, FMap.find t.mem k = if 0x20000000000 ≤ k ∧ k < 2 ^ 64 then none else FMap.find (discardWork s).mem k)
        ∧ ((∀ q ∈ workQueues s, ∀ i ∈ (queueAt s q).items, itemOwed i = false) → discardWork s = s)
        ∧ (∀ a, regGet t a = if isCounter a then regGet s a else regReset a)
        ∧ t.time.dtime = s.time.dtime ∧ t.wear = s.wear
        ∧ t.fault.records = s.fault.flash.drop (s.fault.flash.length - 1024)
        ∧ t.fault.flash = s.fault.flash ∧ t.flash.boots = s.flash.boots + 1
        ∧ t.flash.imageA = s.flash.imageA ∧ t.flash.imageB = s.flash.imageB
        ∧ t.cores = [] ∧ t.wq.queues = [] ∧ t.rings.inject = [] ∧ t.rings.flight = [] ∧ t.job.isOpen = false
        ∧ t.pending = s.pending)
  ∧ (∀ s : State, powered s = true → s.boot.perst = true →
    Completes .perstDeassert s fun t => t = { s with boot := { s.boot with perst := false, pcieHeld := false } })

/-- BOOT_IMAGE_AUTHENTICATE and BOOT_FALLBACK_TIMEOUT try the images in the order of R437.
Clauses that rest on the model's choices: log entries 6, 19. -/
def Obligations.BootImages : Prop :=
  (∀ s : State, powered s = true → s.boot.phase = .rom → s.flash.boardOk = true →
    imageOk s (mainImage s s.flash.activeB) = true →
    Completes .bootImageAuthenticate s fun t =>
      t.boot.phase = .firmware ∧ t.boot.image = b2n s.flash.activeB ∧ t.boot.fallback = false ∧ t.boot.dev = s.boot.dev
        ∧ t.flash = s.flash ∧ t.boot.effective = s.flash.licences.foldl (fun a r => a ||| r.features % 16) 0)
  ∧ (∀ s : State, powered s = true → s.boot.phase = .rom → s.flash.boardOk = true →
    imageOk s (mainImage s s.flash.activeB) = false → imageOk s (mainImage s (!s.flash.activeB)) = true →
    Completes .bootImageAuthenticate s fun t =>
      t.boot.phase = .firmware ∧ t.boot.image = b2n (!s.flash.activeB) ∧ t.boot.fallback = true)
  ∧ (∀ s : State, powered s = true → s.boot.phase = .rom →
    imageOk s (mainImage s false) = false → imageOk s (mainImage s true) = false → imageOk s s.flash.recovery = true →
    Completes .bootImageAuthenticate s fun t => t.boot.phase = .done ∧ t.boot.dev = .safe ∧ t.boot.image = 2)
  ∧ (∀ s : State, powered s = true → s.boot.phase = .rom →
    imageOk s (mainImage s false) = false → imageOk s (mainImage s true) = false → imageOk s s.flash.recovery = false →
    Completes .bootImageAuthenticate s fun t => t = { s with boot := { s.boot with phase := .stuck } })
  ∧ (∀ s : State, powered s = true → s.boot.phase = .rom → s.flash.boardOk = false →
    imageOk s (mainImage s s.flash.activeB) = true →
    Completes .bootImageAuthenticate s fun t => t.boot.phase = .done ∧ t.boot.dev = .safe)
  ∧ (∀ s : State, powered s = true → (s.boot.phase = .firmware ∨ s.boot.phase = .trained) → s.boot.image ≠ 2 →
    s.flash.boardOk = true → s.boot.fallback = false → imageOk s (mainImage s (!s.flash.activeB)) = true →
    Completes .bootFallbackTimeout s fun t =>
      t.boot.phase = .firmware ∧ t.boot.image = b2n (!s.flash.activeB) ∧ t.boot.fallback = true)
  ∧ (∀ s : State, powered s = true → (s.boot.phase = .firmware ∨ s.boot.phase = .trained) → s.boot.image ≠ 2 →
    s.flash.boardOk = true → s.boot.fallback = true → imageOk s s.flash.recovery = true →
    Completes .bootFallbackTimeout s fun t => t.boot.phase = .done ∧ t.boot.dev = .safe ∧ t.boot.image = 2)
  ∧ (∀ (s : State) (i : FlashImage), imageOk s i = true →
    i.magicOk = true ∧ i.sigOk = true ∧ s.flash.fuses ≤ i.svn)

/-- The boot steps 4 to 8 of R436.
Clauses that rest on the model's choices: log entry 6. -/
def Obligations.BootToReady : Prop :=
  (∀ (l : List Nat) (s : State), powered s = true → s.boot.phase = .firmware →
    Completes (.vaultTraining l) s fun t =>
      t.boot.phase = .trained
        ∧ (∀ v, vaultInService t v = (vaultInService s v && !l.contains v))
        ∧ (∀ v ∈ l, vaultInService s v = true → ∃ r ∈ t.flash.retired, r.kind = 1 ∧ r.number = v)
        ∧ t.regs = s.regs ∧ t.mem = s.mem)
  ∧ (∀ s : State, powered s = true → s.boot.phase = .trained →
    Completes .configReady s fun t =>
      t.boot.dev = .configReady ∧ t.boot.phase = .configReady ∧ t.boot.stripe = vaultsInService s
        ∧ t.mem = s.mem ∧ t.job = s.job)
  ∧ (∀ (l : List Nat) (cl : List (Nat × Nat)) (s : State), powered s = true → s.boot.phase = .configReady →
    s.boot.katDone = false →
    Completes (.knownAnswerTest l cl) s fun t =>
      t.boot.katDone = true ∧ (∀ c, coreEnabled t c = (coreEnabled s c && !l.contains c))
        ∧ (∀ c ∈ l, coreEnabled s c = true → ∃ r ∈ t.flash.retired, r.kind = 0 ∧ r.number = c)
        ∧ (∀ k, 0x20000000000 ≤ k → k < 0x20400000000 → FMap.find t.mem k = none))
  ∧ (∀ s : State, powered s = true → s.boot.phase = .configReady → s.boot.katDone = true → s.boot.linksReady = true →
    Completes .readyEntry s fun t =>
      t.boot.dev = .ready ∧ t.boot.phase = .done ∧ t.flash = { s.flash with fuses := max s.flash.fuses (runningSvn s) })

/-- HOST_SIDE_RESET, WATCHDOG_EXPIRY and FIRMWARE_RESTART_DONE.
Clauses that rest on the model's choices: log entries 16, 77. -/
def Obligations.HostResetAndWatchdog : Prop :=
  (∀ (k : HostReset) (s : State), powered s = true → s.boot.pcieHeld = false → s.boot.dev ≠ .job → s.boot.dev ≠ .faulted →
    closable s = true →
    Completes (.hostSideReset k) s fun t =>
      (∀ q, (queueAt t q).st = .free ∧ (queueAt t q).gen = (queueAt s q).gen)
        ∧ (∀ b ∈ t.pails.busy, 64 ≤ busyPail b) ∧ (∀ e ∈ t.pails.deferred, 64 ≤ e.1.pail)
        ∧ t.boot = s.boot ∧ t.mem = s.mem ∧ t.host = { State.reset.host with sent := s.host.sent }
        ∧ (∀ o ∈ [0x10000, 0x48, 0x50, 0x58, 0x40], regGet t (hubReg o) = regReset (hubReg o))
        ∧ RegsKept s t ([0x10000, 0x48, 0x50, 0x58, 0x40].map hubReg))
  ∧ (∀ (k : HostReset) (s u : State), powered s = true → s.boot.pcieHeld = false →
    (s.boot.dev = .job ∨ s.boot.dev = .faulted) → closable s = true → resetClose s = .ok u →
    Completes (.hostSideReset k) s fun t =>
      t.boot.dev = .ready ∧ t.job.isOpen = false ∧ (∀ q, (queueAt t q).st = .free)
        ∧ t.host = { State.reset.host with sent := u.host.sent } ∧ t.mem = u.mem)
  ∧ (∀ (c : Nat) (s : State), powered s = true → s.boot.phase ≠ .rom → s.boot.phase ≠ .stuck → s.boot.dev ≠ .job →
    s.fault.primary = none → s.fault.detected = [] →
    Completes (.watchdogExpiry c) s fun t =>
      t.pails.restarting = true ∧ t.pails.busy = none ∧ t.boot = s.boot ∧ t.mem = s.mem
        ∧ t.fault.nextSeq = s.fault.nextSeq + 1
        ∧ (∃ r, t.fault.records.getLast? = some r ∧ r.cause = 0x06 ∧ r.unit = c ∧ r.kind = 0 ∧ r.seq = s.fault.nextSeq)
        ∧ (∀ r q n, s.pails.busy = some (.flush r q n) → Answered t r stFault (leBytes 4 n ++ leBytes 2 (queueAt s q).gen)))
  ∧ (∀ s : State, powered s = true → s.pails.restarting = true → s.pails.busy = none → s.pails.deferred = [] →
    Completes .firmwareRestartDone s fun t => t = { s with pails := { s.pails with restarting := false } })

/-- The checks that every pail command passes before its effect.
Clauses that rest on the model's choices: log entries 2, 13, 14. -/
def Obligations.PailGate : Prop :=
  ∀ (i : Instr) (r : PailReq) (s : State), pailReqOf i = some r →
    (pailReachable s r.pail = false → Waits i s)
    ∧ (pailReachable s r.pail = true → pailTaken s r.pail = true → r.pail < 64 → Undefined i s 49)
    ∧ (pailReachable s r.pail = true → pailTaken s r.pail = true → 64 ≤ r.pail → Answers i s r stBusy [])
    ∧ (pailReachable s r.pail = true → pailTaken s r.pail = false →
        (∀ t, exec i s = .next t → (pageAt t r.pail).host = pageRung (pageAt s r.pail).host r i)
        ∧ (pailWaits s i = true → exec i s = .next (deferPail (writePage s r i) r i))
        ∧ (pailWaits s i = false → s.boot.dev = .boot → Answers i s r stBadState []))
    ∧ (Takes s r → userMay i = false → pailKind s r.pail = .user → Answers i s r stUnknown [])

/-- Pail commands that report: the answer, and nothing else.
Clauses that rest on the model's choices: log entries 13, 20, 73. -/
def Obligations.ReportingPails : Prop :=
  (∀ (r : PailReq) (s : State), Takes s r →
    Answers (.devInfo r) s r stOk (devInfoBytes s) ∧ (devInfoBytes s).length = 64
      ∧ (devInfoBytes s)[16]? = some (BitVec.ofNat 8 Config.grade.val)
      ∧ (devInfoBytes s)[17]? = some (BitVec.ofNat 8 (devCode s.boot.dev)))
  ∧ (∀ (r : PailReq) (n : Nat) (s : State), Takes s r →
    Answers (.licenceList r n) s r stOk (leBytes 2 s.flash.licences.length ++ licBytes s ++ zeros 4
      ++ ((s.flash.licences.drop n).take 63).flatMap licEntry))
  ∧ (∀ (r : PailReq) (n : Nat) (s : State), Takes s r →
    Answers (.faultRecordGet r n) s r stOk (faultRecordBytes s n)
      ∧ (faultRecordBytes s n).length = 16 + 64 * min 31 ((availRecords s).filter fun f => decide (n ≤ f.seq)).length)
  ∧ (∀ (r : PailReq) (s : State), Takes s r → s.boot.dev ≠ .safe → Answers (.wearReportSummary r) s r stOk (wearSummary s))
  ∧ (∀ (r : PailReq) (n : Nat) (s : State), Takes s r → s.boot.dev ∈ [.ready, .job, .faulted] →
    Answers (.floorplanGet r 0 n) s r stOk (leBytes 4 0))
  ∧ (∀ (r : PailReq) (a n : Nat) (s u : State), Takes s r → s.boot.dev ∈ [.ready, .job, .faulted] → a ≠ 0 → a % 32 = 0 →
    planSize s ≤ n → devWrite (writePage s r (.floorplanGet r a n)) a (floorPlan s) = .ok u →
    Completes (.floorplanGet r a n) s fun t => Answered t r stOk (leBytes 4 (planSize s)) ∧ OnlyAnswered u t r)
  ∧ (∀ (r : PailReq) (a n : Nat) (s u : State), Takes s r → s.boot.dev ≠ .safe → a % 32 = 0 → 12416 ≤ n →
    devWrite (writePage s r (.wearReportDetail r n a)) a (wearDetail s) = .ok u →
    Completes (.wearReportDetail r n a) s fun t => Answered t r stOk (leBytes 4 12416) ∧ OnlyAnswered u t r)
  ∧ (∀ (r : PailReq) (a n : Nat) (s : State), Takes s r → s.boot.dev ≠ .safe → n < 12416 →
    Answers (.wearReportDetail r n a) s r stBadState [])

/-- JOB_OPEN and JOB_CLOSE.
Clauses that rest on the model's choices: log entries 13, 15, 27. -/
def Obligations.JobPails : Prop :=
  (∀ (r : PailReq) (p : JobOpenP) (s : State), Takes s r → pailKind s r.pail = .admin → s.boot.dev = .ready →
    s.thermal.emerg = false → jobOpenOk p = true → p.fpaddr = 0 →
    Completes (.jobOpen r p) s fun t =>
      t.boot.dev = .job ∧ t.job.isOpen = true ∧ t.job.jobid = s.job.nextJobid ∧ t.job.nextJobid = s.job.nextJobid + 1
        ∧ t.job.c0Cores = (if p.c0Cores = 0xFF then 8 else p.c0Cores)
        ∧ t.job.c0Burst = (if p.c0Burst = 0 then 1 else p.c0Burst)
        ∧ t.job.c0Interval = (if p.c0Interval = 0 then 1000 else p.c0Interval)
        ∧ t.wq.spent = [] ∧ t.wq.queues = s.wq.queues ∧ t.mem = s.mem
        ∧ (p.keepMap = true → t.job.rotmap = s.job.rotmap)
        ∧ Answered t r stOk (leBytes 4 s.job.nextJobid ++ leBytes 4 0))
  ∧ (∀ (r : PailReq) (p : JobOpenP) (s : State), Takes s r → pailKind s r.pail = .admin → s.boot.dev = .ready →
    s.thermal.emerg = true → Answers (.jobOpen r p) s r stBadState [])
  ∧ (∀ (r : PailReq) (p : JobOpenP) (s : State), Takes s r → pailKind s r.pail = .admin → s.boot.dev = .ready →
    s.thermal.emerg = false → jobOpenOk p = false → Undefined (.jobOpen r p) s 48)
  ∧ (∀ (r : PailReq) (s u : State), Takes s r → pailKind s r.pail = .admin →
    (s.boot.dev = .job ∨ s.boot.dev = .faulted) → startClose (pailBegun s r (.jobClose r)) = .ok u →
    (∀ v, closeReady { u with pails := { u.pails with busy := some (.close r) } } = true →
      finishClose { u with pails := { u.pails with busy := some (.close r) } } (u.boot.dev == .job) = .ok v →
      Completes (.jobClose r) s fun t =>
        t.boot.dev = .ready ∧ t.job.isOpen = false ∧ t.pails.busy = none ∧ Answered t r stOk [] ∧ t.mem = v.mem)
    ∧ (closeReady { u with pails := { u.pails with busy := some (.close r) } } = false →
      Completes (.jobClose r) s fun t =>
        t = { u with pails := { u.pails with busy := some (.close r) } } ∧ (pageAt u r.pail).status = stPending))

/-- QUEUE_CREATE, QUEUE_DESTROY, QUEUE_FLUSH and QUEUE_FLUSH_ABORT.
Clauses that rest on the model's choices: log entries 13, 26. -/
def Obligations.QueuePails : Prop :=
  (∀ (r : PailReq) (p : QueueCreateP) (s u : State) (set : Nat), Takes s r → pailKind s r.pail = .admin →
    (s.boot.dev = .ready ∨ s.boot.dev = .job) → createBad s p = false → createOk s p = true →
    (if p.completion then set = 0 else devNat (writePage s r (.queueCreate r p)) p.tset 128 = .ok (set, u)) →
    Completes (.queueCreate r p) s fun t =>
      (queueAt t p.queue).st = .active ∧ (queueAt t p.queue).completion = p.completion
        ∧ (queueAt t p.queue).cls = p.cls ∧ (queueAt t p.queue).log2depth = p.log2depth
        ∧ (queueAt t p.queue).weight = (if p.weight = 0 then 1 else p.weight) ∧ (queueAt t p.queue).cq = p.cq
        ∧ (queueAt t p.queue).base = p.base ∧ (queueAt t p.queue).tset = set
        ∧ (queueAt t p.queue).group = p.group ∧ (queueAt t p.queue).vector = p.vector
        ∧ (queueAt t p.queue).items = [] ∧ (queueAt t p.queue).head = 0 ∧ (queueAt t p.queue).tail = 0
        ∧ (queueAt t p.queue).gen = (if (queueAt s p.queue).created then ((queueAt s p.queue).gen + 1) % 65536 else 0)
        ∧ Answered t r stOk (leBytes 2 (queueAt t p.queue).gen)
        ∧ (∀ q, q ≠ p.queue → queueAt t q = queueAt s q))
  ∧ (∀ (r : PailReq) (p : QueueCreateP) (s : State), Takes s r → pailKind s r.pail = .admin →
    (s.boot.dev = .ready ∨ s.boot.dev = .job) →
    (createBad s p = true → Answers (.queueCreate r p) s r stBadState [])
      ∧ (createBad s p = false → createOk s p = false → Undefined (.queueCreate r p) s 48))
  ∧ (∀ (r : PailReq) (q : Nat) (s : State), Takes s r → pailKind s r.pail = .admin →
    s.boot.dev ∈ [.ready, .job, .faulted] → destroyBad s q = false →
    Completes (.queueDestroy r q) s fun t =>
      (queueAt t q).st = .free ∧ (queueAt t q).gen = (queueAt s q).gen ∧ Answered t r stOk []
        ∧ (∀ k, k ≠ q → queueAt t k = queueAt s k) ∧ t.mem = s.mem)
  ∧ (∀ (r : PailReq) (q : Nat) (s : State), Takes s r → pailKind s r.pail = .admin →
    s.boot.dev ∈ [.ready, .job, .faulted] → destroyBad s q = true → Answers (.queueDestroy r q) s r stBadState [])
  ∧ (∀ (r : PailReq) (q : Nat) (s : State) (i : Instr), (i = .queueFlush r q ∨ i = .queueFlushAbort r q) →
    Takes s r → pailKind s r.pail = .admin → (s.boot.dev = .ready ∨ s.boot.dev = .job) →
    (queueAt s q).st = .active → (queueAt s q).completion = false → (queueAt s q).items = [] →
    (queueAt s q).fetch = (queueAt s q).tail → stepAt s q = none →
    Completes i s fun t =>
      (queueAt t q).st = .active ∧ (queueAt t q).items = [] ∧ (queueAt t q).tail = (queueAt s q).head
        ∧ (queueAt t q).head = (queueAt s q).head ∧ (queueAt t q).gen = ((queueAt s q).gen + 1) % 65536
        ∧ t.pails.busy = none ∧ Answered t r stOk (leBytes 4 0 ++ leBytes 2 (queueAt t q).gen)
        ∧ (∀ k, k ≠ q → queueAt t k = queueAt s k) ∧ t.mem = s.mem)
  ∧ (∀ (r : PailReq) (q : Nat) (s : State) (i : Instr), (i = .queueFlush r q ∨ i = .queueFlushAbort r q) →
    Takes s r → pailKind s r.pail = .admin → (s.boot.dev = .ready ∨ s.boot.dev = .job) →
    (queueAt s q).completion = true → Answers i s r stBadState [])

/-- POWER_SET_CAP, POWER_SET_OPP AUTO and POWER_SET_OPP PIN.
Clauses that rest on the model's choices: log entry 13. -/
def Obligations.PowerPails : Prop :=
  (∀ (r : PailReq) (p : CapP) (s : State), Takes s r → adminOob (pailKind s r.pail) = true → s.boot.dev ≠ .safe →
    capOk p = true → (4000 < p.cap → licensed s 3 = true) →
    Completes (.powerSetCap r p) s fun t =>
      regFld t (pwrReg 0 0x100) 15 0 = (if p.cap = 0 then regFld s (pwrReg 0 0x100) 15 0 else p.cap)
        ∧ regFld t (pwrReg 0 0x100) 31 16 = (if p.window = 0 then regFld s (pwrReg 0 0x100) 31 16 else p.window)
        ∧ regFld t (pwrReg 0 0x100) 47 32 = (if p.holdup = 0 then regFld s (pwrReg 0 0x100) 47 32 else p.holdup)
        ∧ regFld t (pwrReg 0 0x100) 55 48 = (if p.slope = 0 then regFld s (pwrReg 0 0x100) 55 48 else p.slope)
        ∧ regFld t (pwrReg 0 0x108) 47 32
          = (if s.power.holdup = .none then regFld s (pwrReg 0 0x108) 47 32 else effCapOf t)
        ∧ RegsKept s t (hubReg 0x60 :: pwrReg 0 0x100 :: pwrReg 0 0x108 :: sheaves.map fun h => pwrReg h 0x10)
        ∧ (∃ bs, Answered t r stOk bs ∧ bs.length = 12)
        ∧ t = { s with regs := t.regs, pails := t.pails, host := t.host })
  ∧ (∀ (r : PailReq) (p : CapP) (s : State), Takes s r → adminOob (pailKind s r.pail) = true → 4000 < p.cap →
    licensed s 3 = false → Answers (.powerSetCap r p) s r stLicence [])
  ∧ (∀ (r : PailReq) (mask : Nat) (s : State), Takes s r → pailKind s r.pail = .admin →
    s.boot.dev ∈ [.configReady, .ready, .faulted] →
    Completes (.powerSetOppAuto r mask) s fun t =>
      (∀ h, h < 8 → (sheafPowerAt t h).pin = if bit mask h then none else (sheafPowerAt s h).pin)
        ∧ (∀ h, h < 8 → bit mask h = true → bit (regGet t (pwrReg h 0)) 4 = false)
        ∧ Answered t r stOk (oppBytes s) ∧ t = { s with regs := t.regs, pails := t.pails, host := t.host, power := t.power })
  ∧ (∀ (r : PailReq) (opp mask : Nat) (s : State), Takes s r → pailKind s r.pail = .admin →
    s.boot.dev ∈ [.configReady, .ready, .faulted] → opp ≤ 7 →
    Completes (.powerSetOppPin r opp mask) s fun t =>
      (∀ h, h < 8 → bit mask h = true → (sheafPowerAt t h).pin = some opp ∧ bit (regGet t (pwrReg h 0)) 4 = true)
        ∧ (if oppSettled (setPin (pailBegun s r (.powerSetOppPin r opp mask)) opp mask) mask
          then t.pails.busy = none ∧ ∃ bs, Answered t r stOk bs ∧ bs.length = 8
          else t.pails.busy = some (.pin r mask)))
  ∧ (∀ (r : PailReq) (opp mask : Nat) (s : State), Takes s r → pailKind s r.pail = .admin →
    s.boot.dev ∈ [.configReady, .ready, .faulted] → 7 < opp → Undefined (.powerSetOppPin r opp mask) s 48)

/-- DOMAIN_POLICY TIMERS, RETAIN, WAKE and ADMIT.
Clauses that rest on the model's choices: log entries 13, 17, 67. -/
def Obligations.PolicyPails : Prop :=
  (∀ (r : PailReq) (p : TimersP) (s u : State) (set : Nat), Takes s r → pailKind s r.pail = .admin →
    (s.boot.dev = .ready ∨ s.boot.dev = .job) → timersOk p = true → (p.logical = true → s.job.isOpen = true) →
    (p.dflt = true ∨ p.action ≠ .off ∨ (p.kind ≠ .fabric ∧ p.kind ≠ .time)) →
    readSet (writePage s r (.domainPolicyTimers r p)) p.set = .ok (set, u) → (p.kind = .time → set ≤ 1) →
    Completes (.domainPolicyTimers r p) s fun t =>
      (∀ d ∈ setDoms u p.kind p.logical set,
        (domAt t d).action = (if p.dflt then (DomRec.reset d.kind).action else p.action)
          ∧ (domAt t d).timer = (if p.dflt then (DomRec.reset d.kind).timer else p.timer)
          ∧ (domAt t d).offtimer = (if p.dflt then (DomRec.reset d.kind).offtimer else p.offtimer))
        ∧ (∃ bs, Answered t r stOk bs ∧ bs.length = 16) ∧ t.mem = u.mem)
  ∧ (∀ (r : PailReq) (p : TimersP) (s : State), Takes s r → pailKind s r.pail = .admin →
    (s.boot.dev = .ready ∨ s.boot.dev = .job) → timersOk p = true → p.dflt = false → p.action = .off →
    (p.kind = .fabric ∨ p.kind = .time) → Answers (.domainPolicyTimers r p) s r stBadState [])
  ∧ (∀ (r : PailReq) (logical : Bool) (banks a : Nat) (s u : State) (m : Nat), Takes s r → pailKind s r.pail = .admin →
    (s.boot.dev = .ready ∨ s.boot.dev = .job) → (logical = true → s.job.isOpen = true) →
    readSet (writePage s r (.domainPolicyRetain r logical banks a)) a = .ok (m, u) →
    (overLimit u ((setCores u logical m).foldl (fun s c => selectBanks s c banks) u) = false →
      Completes (.domainPolicyRetain r logical banks a) s fun t =>
        (∀ c ∈ setCores u logical m, regFld t (retainReg c) (16 * (c % 4) + 15) (16 * (c % 4)) = banks % 65536)
          ∧ Answered t r stOk (policyAnswer ((setCores u logical m).foldl (fun s c => selectBanks s c banks) u))
          ∧ t = { u with regs := t.regs, pails := t.pails, host := t.host })
    ∧ (overLimit u ((setCores u logical m).foldl (fun s c => selectBanks s c banks) u) = true →
      Completes (.domainPolicyRetain r logical banks a) s fun t => Answered t r stBusy [] ∧ OnlyAnswered u t r))
  ∧ (∀ (r : PailReq) (kind : DomKind) (logical : Bool) (a : Nat) (s u : State) (m : Nat), Takes s r →
    pailKind s r.pail = .admin → (s.boot.dev = .ready ∨ s.boot.dev = .job) → kind ≠ .host →
    (logical = true → kind = .core ∧ s.job.isOpen = true) →
    readSet (writePage s r (.domainPolicyWake r kind logical a)) a = .ok (m, u) → (kind = .time → m ≤ 1) →
    Completes (.domainPolicyWake r kind logical a) s fun t =>
      (∃ bs, Answered t r stOk bs ∧ bs.length = 16) ∧ t.doms = ((setDoms u kind logical m).foldl pulseWake u).doms
        ∧ t.mem = ((setDoms u kind logical m).foldl pulseWake u).mem)
  ∧ (∀ (r : PailReq) (aggr : Bool) (s : State), Takes s r → pailKind s r.pail = .admin →
    (s.boot.dev = .ready ∨ s.boot.dev = .job) → (aggr = true ∨ ∀ h, h < 8 → sheafSel s h ≤ 62) →
    Completes (.domainPolicyAdmit r aggr) s fun t =>
      t.doms.aggressive = aggr ∧ (∀ h, h < 8 → bit (regGet t (pwrReg h 0x800)) 4 = aggr)
        ∧ Answered t r stOk (policyAnswer s)
        ∧ t = { s with doms := { s.doms with aggressive := aggr }, regs := t.regs, pails := t.pails, host := t.host })
  ∧ (∀ (r : PailReq) (s : State) (h : Nat), Takes s r → pailKind s r.pail = .admin →
    (s.boot.dev = .ready ∨ s.boot.dev = .job) → h < 8 → 62 < sheafSel s h →
    Answers (.domainPolicyAdmit r false) s r stBusy [])

/-- LICENCE_INSTALL, TIME_CONFIG, TIME_CONFIG SET and LINK_CONFIG.
Clauses that rest on the model's choices: log entries 13, 18, 20, 85. -/
def Obligations.ConfigPails : Prop :=
  (∀ (r : PailReq) (x : LicenceRec) (ok : Bool) (s : State), Takes s r → pailKind s r.pail = .admin →
    s.boot.dev ∈ [.configReady, .ready, .job] → Config.licenceSigOk x = true → x.deviceId = Config.deviceId.toNat →
    (∀ y ∈ s.flash.licences, y.serial ≠ x.serial) → s.flash.licences.length < 256 →
    (ok = true → Completes (.licenceInstall r ⟨x, ok⟩) s fun t =>
      t.flash.licences = s.flash.licences ++ [x]
        ∧ (s.boot.dev ≠ .job → t.boot.effective = s.boot.effective ||| x.features % 16)
        ∧ (s.boot.dev = .job → t.boot.effective = s.boot.effective
          ∧ t.boot.pendingLic = s.boot.pendingLic ||| (x.features % 16 &&& (15 - s.boot.effective % 16)))
        ∧ (∃ bs, Answered t r stOk bs ∧ bs.length = 2) ∧ t.mem = s.mem)
    ∧ (ok = false → Completes (.licenceInstall r ⟨x, ok⟩) s fun t =>
      Answered t r stFault [] ∧ t.flash = s.flash ∧ t.boot = s.boot
        ∧ (∃ f, t.fault.records.getLast? = some f ∧ f.kind = 6 ∧ f.cause = 0x60)))
  ∧ (∀ (r : PailReq) (x : LicenceRec) (ok : Bool) (s : State), Takes s r → pailKind s r.pail = .admin →
    s.boot.dev ∈ [.configReady, .ready, .job] → (Config.licenceSigOk x = false ∨ x.deviceId ≠ Config.deviceId.toNat) →
    Completes (.licenceInstall r ⟨x, ok⟩) s fun t =>
      Answered t r stFault [] ∧ t.flash = s.flash ∧ t.boot = s.boot ∧ t.fault.nextSeq = s.fault.nextSeq + 1
        ∧ (∃ f, t.fault.records.getLast? = some f ∧ f.kind = 6 ∧ f.cause = 0x61))
  ∧ (∀ (r : PailReq) (p : TimeP) (s : State), Takes s r → pailKind s r.pail = .admin →
    s.boot.dev ∈ [.configReady, .ready, .job] → timeOk p = true →
    Completes (.timeConfig r p) s fun t =>
      t.time.cfg = timeDefaults p ∧ t.time.dtime = s.time.dtime ∧ Answered t r stOk []
        ∧ t = { s with time := t.time, regs := t.regs, board := t.board, pails := t.pails, host := t.host })
  ∧ (∀ (r : PailReq) (p : TimeP) (tod : Nat) (s : State), Takes s r → pailKind s r.pail = .admin →
    s.boot.dev ∈ [.configReady, .ready, .job] → timeOk p = true →
    (s.time.dtime ≤ tod * 2 ^ 16 → Completes (.timeConfigSet r p tod) s fun t =>
      t.time.cfg = timeDefaults p ∧ t.time.dtime = tod * 2 ^ 16 ∧ t.time.st = .freerun ∧ Answered t r stOk [])
    ∧ (tod * 2 ^ 16 < s.time.dtime → Answers (.timeConfigSet r p tod) s r stBadState []))
  ∧ (∀ (r : PailReq) (p : LinkP) (ok : Bool) (s : State), Takes s r → pailKind s r.pail = .admin →
    (s.boot.dev = .configReady ∨ s.boot.dev = .ready) → linkOk p = true →
    Completes (.linkConfig r ⟨p, ok⟩) s fun t =>
      t.links.cfg = linkDefaults p ∧ t.mem = s.mem
        ∧ ((p.devid ≠ s.links.cfg.devid ∨ p.unassigned ≠ s.links.cfg.unassigned) → t.stoby.send = [] ∧ t.stoby.recv = [])
        ∧ (p.save = false → t.flash = s.flash ∧ Answered t r stOk [])
        ∧ (p.save = true → ok = true → t.flash = { s.flash with linkCfg := some (linkDefaults p) } ∧ Answered t r stOk [])
        ∧ (p.save = true → ok = false → t.flash = s.flash ∧ Answered t r stFault []
          ∧ (∃ f, t.fault.records.getLast? = some f ∧ f.kind = 6 ∧ f.cause = 0x60)))
  ∧ (∀ (r : PailReq) (p : LinkP) (ok : Bool) (s : State), Takes s r → pailKind s r.pail = .admin →
    (s.boot.dev = .configReady ∨ s.boot.dev = .ready) → linkOk p = false → Undefined (.linkConfig r ⟨p, ok⟩) s 48)

/-- COUNTER_ACCESS, SNAPSHOT_CONFIG and GUARD_CONFIG POLICY, SLOT and LOG.
Clauses that rest on the model's choices: log entries 13, 74. -/
def Obligations.ObservePails : Prop :=
  (∀ (r : PailReq) (mask : Nat) (s : State), Takes s r → pailKind s r.pail = .admin →
    s.boot.dev ∈ [.ready, .job, .faulted] → mask < 256 →
    Completes (.counterAccessUser r mask) s fun t =>
      regGet t (pmcReg 0 0) = mask ∧ RegsKept s t [pmcReg 0 0, hubReg 0x60] ∧ Answered t r stOk (leBytes 4 s.pmc.selgen)
        ∧ t = { s with regs := t.regs, pails := t.pails, host := t.host })
  ∧ (∀ (r : PailReq) (p : SelectP) (s u : State) (m : Nat), Takes s r → pailKind s r.pail = .admin →
    s.boot.dev ∈ [.ready, .job, .faulted] → 4 ≤ p.ctr → p.ctr ≤ 15 → p.event < 256 →
    readSet (writePage s r (.counterAccessSelect r p)) p.set = .ok (m, u) →
    Completes (.counterAccessSelect r p) s fun t =>
      (∀ c ∈ setCores u p.logical m,
        (p.ctr < 12 → regFld t (pmcReg (c / 128) (0x5000 + 0x10 * (c % 128))) (8 * (p.ctr - 4) + 7) (8 * (p.ctr - 4)) = p.event)
        ∧ (12 ≤ p.ctr →
          regFld t (pmcReg (c / 128) (0x5008 + 0x10 * (c % 128))) (8 * (p.ctr - 12) + 7) (8 * (p.ctr - 12)) = p.event))
        ∧ t.pmc.selgen = (u.pmc.selgen + 1) % 2 ^ 32 ∧ Answered t r stOk (leBytes 4 t.pmc.selgen) ∧ t.mem = u.mem)
  ∧ (∀ (r : PailReq) (p : SelectP) (s : State), Takes s r → pailKind s r.pail = .admin →
    s.boot.dev ∈ [.ready, .job, .faulted] → (p.ctr < 4 ∨ 15 < p.ctr) →
    Answers (.counterAccessSelect r p) s r stBadState (leBytes 4 s.pmc.selgen))
  ∧ (∀ (r : PailReq) (p : SnapP) (s : State), Takes s r → pailKind s r.pail = .admin →
    (s.boot.dev = .ready ∨ s.boot.dev = .job) → snapOk p = true → ringPlaced s p.base (snapSlot p.mask * p.entries) = true →
    Completes (.snapshotConfigStart r p) s fun t =>
      (∃ x, t.pmc.run = some x ∧ x.seq = 0 ∧ x.missed = 0 ∧ x.next = firstTick s p ∧ x.slot = snapSlot p.mask)
        ∧ regGet t (pmcReg 0 0x20) = p.base % 2 ^ 64 ∧ bit (regGet t (pmcReg 0 8)) 0 = true
        ∧ (p.start ≠ 0 → firstTick s p = p.start)
        ∧ Answered t r stOk (leBytes 4 (snapSlot p.mask) ++ leBytes 8 (firstTick s p))
        ∧ t = { s with regs := t.regs, pails := t.pails, host := t.host, pmc := t.pmc })
  ∧ (∀ (r : PailReq) (s : State) (x : SnapRun), Takes s r → pailKind s r.pail = .admin →
    (s.boot.dev = .ready ∨ s.boot.dev = .job) → s.pmc.run = some x →
    Completes (.snapshotConfigStop r) s fun t =>
      t.pmc.run = none ∧ bit (regGet t (pmcReg 0 8)) 0 = false ∧ Answered t r stOk (leBytes 4 x.slot ++ leBytes 8 x.p.start)
        ∧ t = { s with regs := t.regs, pails := t.pails, host := t.host, pmc := t.pmc })
  ∧ (∀ (r : PailReq) (a : Nat) (s : State), Takes s r → pailKind s r.pail = .admin →
    (s.boot.dev = .ready ∨ s.boot.dev = .job) →
    Completes (.guardConfigPolicy r a) s fun t =>
      regGet t (hubReg 0x40000) = bits a 2 0 ∧ regGet t (hubReg 0x40008) = bits a 10 8
        ∧ RegsKept s t [hubReg 0x40000, hubReg 0x40008, hubReg 0x60] ∧ Answered t r stOk [])
  ∧ (∀ (r : PailReq) (p : SlotP) (s : State), Takes s r → pailKind s r.pail = .admin →
    (s.boot.dev = .ready ∨ s.boot.dev = .job) → p.slot < 256 → p.scale % 32 = 0 → p.scale < 2 ^ 64 → p.ratio < 2 ^ 64 →
    p.scfg < 2 ^ 64 →
    (slotHeld s p.slot = false → Completes (.guardConfigSlot r p) s fun t =>
      regGet t (slotReg p.slot 0) = p.scfg ∧ regGet t (slotReg p.slot 8) = p.ratio
        ∧ regGet t (slotReg p.slot 0x10) = p.scale ∧ slotHeld t p.slot = false ∧ Answered t r stOk []
        ∧ (p.resetEma = true → regGet t (slotReg p.slot 0x20) = 0 ∧ regFld t (slotReg p.slot 0x28) 63 32 = 0))
    ∧ (slotHeld s p.slot = true → Answers (.guardConfigSlot r p) s r stBadState []))
  ∧ (∀ (r : PailReq) (base entries vector : Nat) (s : State), Takes s r → pailKind s r.pail = .admin →
    (s.boot.dev = .ready ∨ s.boot.dev = .job) → base % 32 = 0 → base < 2 ^ 64 → pow2In entries 16 65536 = true →
    Completes (.guardConfigLog r base entries vector) s fun t =>
      regGet t (hubReg 0x40020) = base ∧ regFld t (hubReg 0x40028) 31 0 = entries
        ∧ regFld t (hubReg 0x40028) 42 32 = vector % 2048 ∧ regGet t (hubReg 0x40030) = 0
        ∧ regGet t (hubReg 0x40038) = 0 ∧ Answered t r stOk [])

/-- RESOLVE, FW_UPDATE, KAT_RUN and PLDM_REQUEST.
Clauses that rest on the model's choices: log entries 13, 19, 33, 78. -/
def Obligations.ResolveFirmwareKat : Prop :=
  (∀ (r : PailReq) (q : Nat) (s u : State) (st : Step), Takes s r → pailKind s r.pail = .admin → s.boot.dev = .job →
    heldStep s q = some st →
    (commitStep (writePage s r (.guardConfigResolveCommit r q)) q st = .ok u →
      Completes (.guardConfigResolveCommit r q) s fun t =>
        (queueAt t q).st = .active ∧ Answered t r stOk [] ∧ t.guard = u.guard ∧ t.mem = u.mem)
    ∧ (discardStep (writePage s r (.guardConfigResolveDiscard r q)) q st = .ok u →
      Completes (.guardConfigResolveDiscard r q) s fun t =>
        (queueAt t q).st = .active ∧ Answered t r stOk [] ∧ t.guard = u.guard ∧ t.mem = u.mem))
  ∧ (∀ (r : PailReq) (q : Nat) (s : State), Takes s r → pailKind s r.pail = .admin → s.boot.dev = .job →
    heldStep s q = none →
    Answers (.guardConfigResolveCommit r q) s r stBadState []
      ∧ Answers (.guardConfigResolveDiscard r q) s r stBadState [])
  ∧ (∀ (r : PailReq) (p : FwP) (s u : State) (bs : List Byte) (bad : Bool), Takes s r → adminOob (pailKind s r.pail) = true →
    p.len ≤ (if p.recovery then 2 ^ 23 else 2 ^ 24) → p.src % 32 = 0 →
    devRead (writePage s r (.fwUpdate r p)) p.src p.len = .ok (bs, bad, u) →
    (bad = false → (imageOf bs).sigOk = true → (imageOf bs).magicOk = true → (imageOf bs).len = p.len →
      (u.flash.fuses ≤ (imageOf bs).svn → (imageOf bs).svn ≤ 64 → p.flashOk = true → Completes (.fwUpdate r p) s fun t =>
        Answered t r stOk []
          ∧ (p.recovery = true → t.flash = { u.flash with recovery := imageOf bs })
          ∧ (p.recovery = false →
              mainImage t (otherSlot u) = imageOf bs ∧ mainImage t (!otherSlot u) = mainImage u (!otherSlot u)
                ∧ t.flash.recovery = u.flash.recovery
                ∧ t.flash.activeB = if p.activate then otherSlot u else u.flash.activeB))
      ∧ ((imageOf bs).svn < u.flash.fuses → Completes (.fwUpdate r p) s fun t => Answered t r stBadState [] ∧ OnlyAnswered u t r))
    ∧ ((bad = true ∨ (imageOf bs).sigOk = false ∨ (imageOf bs).magicOk = false ∨ (imageOf bs).len ≠ p.len) →
      Completes (.fwUpdate r p) s fun t => Answered t r stFault [] ∧ t.flash = u.flash
        ∧ (∃ f, t.fault.records.getLast? = some f ∧ f.kind = 6 ∧ f.cause = 0x61)))
  ∧ (∀ (r : PailReq) (l : List Nat) (s : State), Takes s r → adminOob (pailKind s r.pail) = true → s.boot.dev = .ready →
    Completes (.katRun r l) s fun t =>
      (∀ c, coreEnabled t c = (coreEnabled s c && !l.contains c)) ∧ t.boot.dev = .ready
        ∧ (∀ c ∈ l, coreEnabled s c = true → ∃ x ∈ t.flash.retired, x.kind = 0 ∧ x.number = c)
        ∧ (∀ k, 0x20000000000 ≤ k → k < 0x20400000000 → FMap.find t.mem k = none)
        ∧ Answered t r stOk
          (leBytes 2 ((enabledCores s).length - (l.filter fun c => coreEnabled s c).eraseDups.length)
            ++ leBytes 2 (l.filter fun c => coreEnabled s c).eraseDups.length ++ zeros 4
            ++ leBytes 128 (maskOf (l.filter fun c => coreEnabled s c).eraseDups)))
  ∧ (∀ (q : PldmReq) (s : State), powered s = true → s.boot.phase ≠ .off → s.boot.phase ≠ .stuck →
    Completes (.pldmRequest q) s fun t =>
      t = { s with board := t.board }
        ∧ (q = .control → t.board.answer = [0x60 + s.boot.straps.bmcAddr] ∧ t.board.events = s.board.events)
        ∧ (∀ e es, q = .event → s.board.events = e :: es →
            t.board.answer = eventWords s.board.lost e ∧ t.board.events = es ∧ t.board.lost = 0 ∧ t.board.alert = !es.isEmpty)
        ∧ (∀ id, q = .sensor id → t.board.events = s.board.events
            ∧ t.board.answer = match sensorValue s id with
              | some v => [id, v]
              | none => [id]))

/-- WQ_DOORBELL, CQ_DOORBELL and C0_TOKEN_REFILL.
Clauses that rest on the model's choices: log entries 27, 28. -/
def Obligations.Doorbells : Prop :=
  (∀ (q v : Nat) (s : State), powered s = true → barUp s = true → (queueAt s q).completion = false →
    (queueAt s q).st ≠ .free → bits v 63 48 = (queueAt s q).gen → bits v 47 16 = 0 → bits v 15 0 < qDepth (queueAt s q) →
    qVisible (queueAt s q) ≤ (bits v 15 0 + qDepth (queueAt s q) - (queueAt s q).head) % qDepth (queueAt s q) →
    Completes (.wqDoorbell q v) s fun t =>
      queueAt t q = { queueAt s q with tail := bits v 15 0, bells := (queueAt t q).bells } ∧ OtherQueues s t q
        ∧ t = { s with wq := { s.wq with queues := t.wq.queues, spent := t.wq.spent } }
        ∧ ((queueAt s q).cls ≠ 0 → t.wq.spent = s.wq.spent)
        ∧ ((queueAt s q).cls = 0 → FMap.getD t.wq.spent (queueAt s q).group 0
            = if FMap.getD s.wq.spent (queueAt s q).group 0 < s.job.c0Burst then FMap.getD s.wq.spent (queueAt s q).group 0 + 1
              else FMap.getD s.wq.spent (queueAt s q).group 0))
  ∧ (∀ (q v : Nat) (s : State), powered s = true → barUp s = true → (queueAt s q).completion = false →
    ((queueAt s q).st = .free ∨ bits v 63 48 ≠ (queueAt s q).gen) →
    Completes (.wqDoorbell q v) s fun t =>
      t = { s with regs := t.regs } ∧ bit (regGet t (hubReg 0x20000)) 0 = true
        ∧ regGet t (hubReg 0x20008) = counterAdd (regGet s (hubReg 0x20008)) 1
        ∧ regGet t (hubReg 0x20018) = (bits v 63 48 * 2 ^ 16 + q) % 2 ^ 64
        ∧ RegsKept s t [hubReg 0x20000, hubReg 0x20008, hubReg 0x20018])
  ∧ (∀ (q v : Nat) (s : State), powered s = true → barUp s = true → (queueAt s q).completion = false →
    (queueAt s q).st ≠ .free → bits v 63 48 = (queueAt s q).gen →
    (bits v 47 16 ≠ 0 ∨ qDepth (queueAt s q) ≤ bits v 15 0
      ∨ (bits v 15 0 + qDepth (queueAt s q) - (queueAt s q).head) % qDepth (queueAt s q) < qVisible (queueAt s q)) →
    Undefined (.wqDoorbell q v) s 50)
  ∧ (∀ (q v : Nat) (s : State), powered s = true → barUp s = true → (queueAt s q).completion = true →
    bits v 63 48 = (queueAt s q).gen → bits v 47 16 = 0 → bits v 15 0 < qDepth (queueAt s q) →
    returned (queueAt s q) (bits v 15 0) ≤ (queueAt s q).written →
    Completes (.cqDoorbell q v) s fun t =>
      queueAt t q = { queueAt s q with
          head := bits v 15 0
          written := (queueAt s q).written - returned (queueAt s q) (bits v 15 0)
          used := (queueAt s q).used - returned (queueAt s q) (bits v 15 0) }
        ∧ OtherQueues s t q ∧ t = { s with wq := { s.wq with queues := t.wq.queues } })
  ∧ (∀ (q v : Nat) (s : State), powered s = true → barUp s = true → (queueAt s q).completion = true →
    bits v 63 48 ≠ (queueAt s q).gen →
    Completes (.cqDoorbell q v) s fun t =>
      t = { s with regs := t.regs } ∧ bit (regGet t (hubReg 0x20000)) 0 = true
        ∧ regGet t (hubReg 0x20008) = counterAdd (regGet s (hubReg 0x20008)) 1
        ∧ regGet t (hubReg 0x20018) = (bits v 63 48 * 2 ^ 16 + q) % 2 ^ 64)
  ∧ (∀ (q v : Nat) (s : State), powered s = true → barUp s = true → (queueAt s q).completion = true →
    bits v 63 48 = (queueAt s q).gen →
    (bits v 47 16 ≠ 0 ∨ qDepth (queueAt s q) ≤ bits v 15 0 ∨ (queueAt s q).written < returned (queueAt s q) (bits v 15 0)) →
    Undefined (.cqDoorbell q v) s 50)
  ∧ (∀ x : Queue, x.head < qDepth x → x.written = qDepth x → returned x x.head = qDepth x)
  ∧ (∀ (g : Nat) (s : State), powered s = true →
    Completes (.c0TokenRefill g) s fun t =>
      t = { s with wq := { s.wq with spent := t.wq.spent } }
        ∧ FMap.getD t.wq.spent g 0 = FMap.getD s.wq.spent g 0 - 1
        ∧ ∀ k, k ≠ g → FMap.getD t.wq.spent k 0 = FMap.getD s.wq.spent k 0)

/-- WQ_FETCH and WQ_DISPATCH.
Clauses that rest on the model's choices: log entries 2, 25. -/
def Obligations.FetchAndDispatch : Prop :=
  (∀ (q : Nat) (s u : State) (hdr : List Byte), powered s = true → s.boot.dev = .job → (queueAt s q).st = .active →
    (queueAt s q).completion = false →
    0 < ((queueAt s q).tail + qDepth (queueAt s q) - (queueAt s q).fetch) % qDepth (queueAt s q) →
    devRead s ((queueAt s q).base + 64 * (queueAt s q).fetch) 64 = .ok (hdr, false, u) → fieldAt hdr 1 1 % 4 = 0 →
    Completes (.wqFetch q) s fun t =>
      (queueAt t q).fetch = ((queueAt s q).fetch + 1) % qDepth (queueAt s q)
        ∧ (∃ i, (queueAt t q).items = (queueAt s q).items ++ [i]
          ∧ i = { parseItem (queueAt s q).fetch (bellTime (queueAt s q) 1) hdr with
                  skip := decide ((queueAt s q).skipping > 0), seen := imageSeen u i.cmd })
        ∧ (queueAt t q).head = (queueAt s q).head ∧ (queueAt t q).st = .active ∧ OtherQueues s t q
        ∧ t = { u with wq := { u.wq with queues := t.wq.queues } })
  ∧ (∀ (q : Nat) (s u : State) (hdr : List Byte), powered s = true → s.boot.dev = .job → (queueAt s q).st = .active →
    (queueAt s q).completion = false →
    0 < ((queueAt s q).tail + qDepth (queueAt s q) - (queueAt s q).fetch) % qDepth (queueAt s q) →
    devRead s ((queueAt s q).base + 64 * (queueAt s q).fetch) 64 = .ok (hdr, true, u) →
    Completes (.wqFetch q) s fun t => t = u ∧ queueAt t q = queueAt s q)
  ∧ (∀ (q : Nat) (s : State), (s.boot.dev ≠ .job ∨ (queueAt s q).st ≠ .active ∨ (queueAt s q).completion = true
      ∨ ((queueAt s q).tail + qDepth (queueAt s q) - (queueAt s q).fetch) % qDepth (queueAt s q) = 0) → Waits (.wqFetch q) s)
  ∧ (∀ (q : Nat) (s : State) (w : Wq) (i : Item), powered s = true → s.boot.dev = .job → serveNext s = some (q, w) →
    dispatchable s q = some i → refuses { s with wq := w } q i = none → i.clean = true → cmdTset i.cmd = none →
    Completes (.wqDispatch q) s fun t =>
      (∃ y, itemAt t q i.idx = some y ∧ y.phase = .dispatched ∧ y.slot = true) ∧ t.wq.last = w.last
        ∧ t.wq.qdeficit = w.qdeficit ∧ t.wq.cdeficit = w.cdeficit
        ∧ t = { s with wq := t.wq, guard := t.guard })
  ∧ (∀ (q st : Nat) (s : State) (w : Wq) (i : Item), powered s = true → s.boot.dev = .job → serveNext s = some (q, w) →
    dispatchable s q = some i → refuses { s with wq := w } q i = some st →
    Completes (.wqDispatch q) s fun t => Ended t q i.idx st ∧ t = { s with wq := t.wq, guard := t.guard })
  ∧ (∀ (q : Nat) (s : State) (w : Wq) (i : Item), powered s = true → s.boot.dev = .job → serveNext s = some (q, w) →
    dispatchable s q = some i → refuses { s with wq := w } q i = none → i.clean = true → cmdTset i.cmd = some 0 →
    (targetCores s (queueAt s q).tset ≠ [] →
      (∀ n ∈ targetCores s (queueAt s q).tset, isReserve s n = decide ((queueAt s q).cls = 0)) →
      Completes (.wqDispatch q) s fun t =>
        (∃ y, itemAt t q i.idx = some y ∧ y.phase = .dispatched
          ∧ y.targets = (targetCores s (queueAt s q).tset).filterMap (physOf s) ∧ y.waitCores = y.targets) ∧ t.mem = s.mem)
    ∧ ((targetCores s (queueAt s q).tset = []
        ∨ ∃ n ∈ targetCores s (queueAt s q).tset, isReserve s n ≠ decide ((queueAt s q).cls = 0)) →
      Completes (.wqDispatch q) s fun t => Ended t q i.idx stBadState))
  ∧ (∀ (q : Nat) (s : State), (serveNext s).map (·.1) ≠ some q → Waits (.wqDispatch q) s)

/-- COMMAND_COMPLETION and the layout of a record.
Clauses that rest on the model's choices: log entries 2, 26. -/
def Obligations.CompletionRecords : Prop :=
  (∀ (q idx : Nat) (s u : State) (i : Item), powered s = true → s.boot.dev = .job → itemAt s q idx = some i →
    i.phase = .ended → i.inStep = false → i.after = none → s.pails.busy = none → s.pails.deferred = [] →
    putRecord s q i i.status false 0 = .ok u → Completes (.commandCompletion q idx) s fun t => t = u)
  ∧ (∀ (q idx v off : Nat) (s : State) (i : Item), powered s = true → s.boot.dev = .job → itemAt s q idx = some i →
    i.phase = .ended → i.inStep = false → i.after = none → s.pails.busy = none → s.pails.deferred = [] →
    (queueAt s q).cq ≠ q → PlainVault s v off 32 → off % 256 ≤ 224 →
    (queueAt s (queueAt s q).cq).base + 32 * (queueAt s (queueAt s q).cq).tail = vaultAddr v off →
    Completes (.commandCompletion q idx) s fun t =>
      (queueAt t (queueAt s q).cq).written = (queueAt s (queueAt s q).cq).written + 1 ∧ MemKept s t (vaultKey v off) 32)
  ∧ (∀ (q idx : Nat) (s : State), itemAt s q idx = none → Waits (.commandCompletion q idx) s)
  ∧ (∀ (q idx : Nat) (s : State) (i : Item), itemAt s q idx = some i → i.phase ≠ .ended → Waits (.commandCompletion q idx) s)
  ∧ (∀ (s u : State) (q st d : Nat) (i : Item) (h : Bool), putRecord s q i st h d = .ok u →
      u.boot = s.boot ∧ u.pails = s.pails ∧ u.job = s.job ∧ u.guard = s.guard ∧ u.cores = s.cores ∧ u.pending = s.pending)
  ∧ (∀ (s : State) (cq v off : Nat) (f : Bool → List Byte), (∀ b, (f b).length = 32) →
      PlainVault s v off 32 → off % 256 ≤ 224 → (queueAt s cq).base + 32 * (queueAt s cq).tail = vaultAddr v off →
      ∃ u, writeCq s cq f = .ok u
        ∧ (∀ k, k < 32 → FMap.find u.mem (vaultKey v off + k) = (f (queueAt s cq).phase)[k]?) ∧ MemKept s u (vaultKey v off) 32
        ∧ (queueAt u cq).tail = ((queueAt s cq).tail + 1) % qDepth (queueAt s cq)
        ∧ (queueAt u cq).written = (queueAt s cq).written + 1
        ∧ ((queueAt u cq).phase = (queueAt s cq).phase ↔ (queueAt u cq).tail ≠ 0))
  ∧ (∀ cmdid status queue head flags attempt detail dtime result : Nat,
      let r := recordBytes cmdid status queue head flags attempt detail dtime result
      r.length = 32 ∧ fieldAt r 0 4 = cmdid % 2 ^ 32 ∧ fieldAt r 4 2 = status % 2 ^ 16 ∧ fieldAt r 6 2 = queue % 2 ^ 16
        ∧ fieldAt r 8 2 = head % 2 ^ 16 ∧ fieldAt r 10 1 = flags % 256 ∧ fieldAt r 11 1 = attempt % 256
        ∧ fieldAt r 12 4 = detail % 2 ^ 32 ∧ fieldAt r 16 8 = dtime % 2 ^ 64 ∧ fieldAt r 24 8 = result % 2 ^ 64)

/-- KERNEL and KERNEL_CORE_START.
Clauses that rest on the model's choices: log entries 2, 25, 81. -/
def Obligations.KernelStart : Prop :=
  (∀ (q idx : Nat) (s : State) (i : Item), Begins s q idx i → isKernel i.cmd = true →
    Completes (.kernel q idx) s fun t =>
      t = startItem s q idx ∧ (∃ y, itemAt t q idx = some y ∧ y.phase = .running ∧ y.waitCores = i.waitCores))
  ∧ (∀ (c q image a : Nat) (args : List Nat) (s s1 s2 s3 : State) (i : Item) (hb : List Byte) (p : Bool),
    powered s = true → s.boot.dev = .job → nextKernel s c = some (q, i) → itemAt s q i.idx = some i →
    i.cmd = .kernel image a args → (coreAt s c).running = false → domOn s ⟨.core, c⟩ = true → written s image 64 = true →
    imageChanged s i = false → kernRead s image 64 = .ok (hb, p, s1) → hdrOk (parseHdr hb) = true →
    loadCode s1 c image (parseHdr hb) = .ok s2 → loadData s2 c image (parseHdr hb) = .ok s3 →
    Completes (.kernelCoreStart c) s fun t =>
      (coreAt t c).running = true ∧ (coreAt t c).pc = (parseHdr hb).entry ∧ (coreAt t c).tregs = []
        ∧ (coreAt t c).code = (coreAt s3 c).code ∧ (coreAt t c).cmdid = i.cmdid ∧ (coreAt t c).cls = (queueAt s q).cls
        ∧ (coreAt t c).mode = i.mode ∧ (coreAt t c).count = i.targets.length ∧ (coreAt t c).owner = some (q, i.idx)
        ∧ (∀ n, sreg (coreAt t c) n
            = if 1 ≤ n ∧ n ≤ 8 ∧ n ≤ (parseHdr hb).nargs then ((args[n - 1]?).getD 0) % 2 ^ 64 else 0)
        ∧ regGet t (coreReg c 0x208) = 0 ∧ OtherCores s t c ∧ t.mem = s3.mem
        ∧ (∃ y, itemAt t q i.idx = some y ∧ c ∉ y.waitCores ∧ c ∈ y.runCores))
  ∧ (∀ (c q image a : Nat) (args : List Nat) (s : State) (i : Item),
    powered s = true → s.boot.dev = .job → nextKernel s c = some (q, i) → i.cmd = .kernel image a args →
    (coreAt s c).running = false → domOn s ⟨.core, c⟩ = true →
    (written s image 64 = false ∨ imageChanged s i = true
      ∨ ∃ hb p s1, kernRead s image 64 = .ok (hb, p, s1) ∧ hdrOk (parseHdr hb) = false) →
    Undefined (.kernelCoreStart c) s 13)
  ∧ (∀ (c : Nat) (s : State), nextKernel s c = none → Waits (.kernelCoreStart c) s)

/-- GEMM, ATTEND and REDUCE.
Clauses that rest on the model's choices: log entries 2, 40, 41, 81. -/
def Obligations.BuiltInKernels : Prop :=
  (∀ (q idx : Nat) (s u : State) (i : Item) (p : GemmP), Begins s q idx i → i.cmd = .gemm p → targetsFree s q idx = true →
    gemmEffect s q i p = .ok u →
    Completes (.gemm q idx) s fun t =>
      t = u ∧ OtherQueues s t q ∧ t.boot = s.boot ∧ t.job = s.job
        ∧ (∀ c ∈ i.targets, (coreAt t c).imageKept = false ∧ (coreAt t c).tregs = [])
        ∧ (p.gslot = 0xFF → Ended t q idx stOk ∧ t.guard = s.guard)
        ∧ (p.gslot ≠ 0xFF → (∃ y, itemAt t q idx = some y ∧ y.phase = .running)
          ∧ ∃ r, t.guard.reports = s.guard.reports ++ [r] ∧ r.slot = p.gslot ∧ r.item = some (q, idx)))
  ∧ (∀ (q idx : Nat) (s : State) (i : Item) (p : GemmP), Begins s q idx i → i.cmd = .gemm p → targetsFree s q idx = true →
    gemmOk p (outFmt i p.fc) = true → (gemmPasses p).isSome = true → gemmScaled p.fa p.asc = false →
    gemmScaled p.fb p.bsc = false → outFmt i p.fc ≠ 2 → outFmt i p.fc ≠ 3 →
    (∀ l, l < p.m → InHost s (p.a + l * p.lda) (p.k * fmtBits p.fa / 8)) →
    (∀ l, l < p.n → InHost s (p.b + l * p.ldb) (p.k * fmtBits p.fb / 8)) →
    (∀ l, l < p.m → InHost s (p.c + l * p.ldc) (elemBytes (outFmt i p.fc) p.n)) → NoKeepers s →
    ∃ u, gemmEffect s q i p = .ok u)
  ∧ (∀ (q idx : Nat) (s u : State) (i : Item) (p : AttendP), Begins s q idx i → i.cmd = .attend p →
    targetsFree s q idx = true → attendEffect s q i p = .ok u →
    Completes (.attend q idx) s fun t =>
      t = u ∧ Ended t q idx stOk ∧ OtherQueues s t q ∧ t.boot = s.boot ∧ t.job = s.job ∧ t.guard = s.guard
        ∧ (∀ c ∈ i.targets, (coreAt t c).imageKept = false ∧ (coreAt t c).tregs = []))
  ∧ (∀ (q idx : Nat) (s : State) (i : Item) (p : AttendP), Begins s q idx i → i.cmd = .attend p →
    targetsFree s q idx = true → attendOk p = true → attendPlans p = true → p.nseq = 0 →
    Completes (.attend q idx) s fun t => Ended t q idx stOk)
  ∧ (∀ (q idx : Nat) (s u : State) (i : Item) (p : ReduceP), Begins s q idx i → i.cmd = .reduce p →
    targetsFree s q idx = true → p.elems ≠ 0 → reduceEffect s q i p = .ok u →
    Completes (.reduce q idx) s fun t =>
      t = u ∧ (∃ y, itemAt t q idx = some y ∧ y.phase = .running ∧ y.waitCores = [] ∧ y.runCores = y.targets)
        ∧ OtherQueues s t q ∧ t.boot = s.boot ∧ t.job = s.job ∧ (∀ c ∈ i.targets, (coreAt t c).running = true))
  ∧ (∀ (q idx : Nat) (s : State) (i : Item) (p : ReduceP), Begins s q idx i → i.cmd = .reduce p →
    targetsFree s q idx = true → p.nsrc ≠ 0 → p.efmt ≤ 3 → p.elems ≠ 0 → reduceDst s p = .ok () →
    (∀ k, k < p.nsrc → InHost s (p.src + k * p.sstride) (p.elems * slotBytes p.efmt)) → ∃ u, reduceEffect s q i p = .ok u)
  ∧ (∀ (q idx : Nat) (s : State) (i : Item) (p : ReduceP), Begins s q idx i → i.cmd = .reduce p →
    targetsFree s q idx = true → p.nsrc ≠ 0 → p.efmt ≤ 3 → p.elems = 0 →
    Completes (.reduce q idx) s fun t => OnlyEnded s t q idx stOk)
  ∧ (∀ (q idx : Nat) (s : State) (i : Item), Begins s q idx i → targetsFree s q idx = true →
    (∀ p, i.cmd = .gemm p → gemmOk p (outFmt i p.fc) = false → Undefined (.gemm q idx) s 48)
    ∧ (∀ p, i.cmd = .gemm p → gemmOk p (outFmt i p.fc) = true → gemmPasses p = none → Undefined (.gemm q idx) s 11)
    ∧ (∀ p, i.cmd = .attend p → attendOk p = false → Undefined (.attend q idx) s 48)
    ∧ (∀ p, i.cmd = .reduce p → (p.nsrc = 0 ∨ 3 < p.efmt) → Undefined (.reduce q idx) s 48))
  ∧ (∀ (q idx : Nat) (s : State), targetsFree s q idx = false →
    Waits (.gemm q idx) s ∧ Waits (.attend q idx) s ∧ Waits (.reduce q idx) s)

/-- COPY and FILL.
Clauses that rest on the model's choices: log entries 9, 81. -/
def Obligations.CopyAndFill : Prop :=
  (∀ (q idx v off w dst n : Nat) (s : State) (i : Item), Begins s q idx i →
    i.cmd = .copy (vaultAddr v off) (vaultAddr w dst) n → PlainVault s v off n → PlainVault s w dst n →
    off % 256 + n ≤ 256 → dst % 256 + n ≤ 256 → (v ≠ w ∨ off + n ≤ dst ∨ dst + n ≤ off) →
    (∀ k, k < n → (FMap.find s.mem (vaultKey v off + k)).isSome = true) →
    Completes (.copy q idx) s fun t =>
      (∀ k, k < n → FMap.find t.mem (vaultKey w dst + k) = FMap.find s.mem (vaultKey v off + k))
        ∧ MemKept s t (vaultKey w dst) n ∧ Ended t q idx stOk ∧ OtherQueues s t q
        ∧ t = { s with
            mem := t.mem, marks := t.marks, wq := t.wq, regs := t.regs, doms := t.doms, vaults := t.vaults, free := t.free })
  ∧ (∀ (q idx src dst n : Nat) (s u : State) (i : Item), Begins s q idx i → i.cmd = .copy src dst n → src % 32 = 0 →
    dst % 32 = 0 → n % 32 = 0 → rangesMeet s src dst n = false → copyBytes s src dst n = .ok u →
    Completes (.copy q idx) s fun t => OnlyEnded u t q idx stOk)
  ∧ (∀ (q idx src dst n : Nat) (s : State) (i : Item), Begins s q idx i → i.cmd = .copy src dst n →
    ((src % 32 ≠ 0 ∨ dst % 32 ≠ 0 ∨ n % 32 ≠ 0) → Undefined (.copy q idx) s 48)
    ∧ (src % 32 = 0 → dst % 32 = 0 → n % 32 = 0 → rangesMeet s src dst n = true → Undefined (.copy q idx) s 51))
  ∧ (∀ (q idx v off n : Nat) (p : List Byte) (s : State) (i : Item), Begins s q idx i →
    i.cmd = .fill (vaultAddr v off) n p → p.length = 32 → 0 < n → PlainVault s v off n → off % 2048 + n ≤ 2048 →
    Completes (.fill q idx) s fun t =>
      (∀ k, k < n → FMap.find t.mem (vaultKey v off + k) = p[k % 32]?)
        ∧ MemKept s t (vaultKey v off) n ∧ Ended t q idx stOk ∧ OtherQueues s t q
        ∧ t = { s with mem := t.mem, marks := t.marks, wq := t.wq, regs := t.regs, doms := t.doms, vaults := t.vaults })
  ∧ (∀ (q idx dst n : Nat) (p : List Byte) (s u : State) (i : Item), Begins s q idx i → i.cmd = .fill dst n p → 0 < n →
    dst % 32 = 0 → n % 32 = 0 → (rowParts (n / 2048 + 2) dst n).foldlM (fillPart p) s = .ok u →
    Completes (.fill q idx) s fun t => OnlyEnded u t q idx stOk)
  ∧ (∀ (q idx dst : Nat) (p : List Byte) (s : State) (i : Item), Begins s q idx i → i.cmd = .fill dst 0 p →
    Completes (.fill q idx) s fun t => OnlyEnded s t q idx stOk)
  ∧ (∀ (q idx dst n : Nat) (p : List Byte) (s : State) (i : Item), Begins s q idx i → i.cmd = .fill dst n p → 0 < n →
    (dst % 32 ≠ 0 ∨ n % 32 ≠ 0) → Undefined (.fill q idx) s 48)

/-- PGU_CTRL_INIT, PGU_INIT_COMPLETE and the four sub-operations of PAGE_OP.
Clauses that rest on the model's choices: log entries 2, 29, 31, 84. -/
def Obligations.PageOperations : Prop :=
  (∀ (q idx : Nat) (s : State) (i : Item) (p : PageOpP), Begins s q idx i → i.cmd = .pageOp p → unitTurn s q idx = true →
    (pageOpOk p = true → pageUnitDown s p.sheaf = true →
      (p.sub = 0 → Completes (.pageOpAlloc q idx) s fun t => OnlyEnded s t q idx stBadState)
      ∧ (p.sub = 1 → Completes (.pageOpShare q idx) s fun t => OnlyEnded s t q idx stBadState)
      ∧ (p.sub = 2 → Completes (.pageOpCow q idx) s fun t => OnlyEnded s t q idx stBadState)
      ∧ (p.sub = 3 → Completes (.pageOpFree q idx) s fun t => OnlyEnded s t q idx stBadState))
    ∧ (pageOpOk p = false →
      (p.sub = 0 → Undefined (.pageOpAlloc q idx) s 48) ∧ (p.sub = 1 → Undefined (.pageOpShare q idx) s 48)
        ∧ (p.sub = 2 → Undefined (.pageOpCow q idx) s 48) ∧ (p.sub = 3 → Undefined (.pageOpFree q idx) s 48)))
  ∧ (∀ (q idx : Nat) (s s1 : State) (i : Item) (p : PageOpP), Begins s q idx i → i.cmd = .pageOp p →
    unitTurn s q idx = true → pageOpOk p = true → unitsTogether s = true → unitsCross s q idx (.pageOp p) = false →
    namesStep s (.pageOp p) = false → p.count = 1 →
    let stop := some (pageStop p.sheaf)
    (p.sub = 0 → getEntry stop s p.table = .ok (noPage, s1) →
      (freePages s1 p.sheaf = 0 → Completes (.pageOpAlloc q idx) s fun t => OnlyEnded s1 t q idx stBusy)
      ∧ (∀ (w : Nat) (u : State), 0 < freePages s1 p.sheaf → pickAlloc s1 p.sheaf p.vhint = some w →
        putEntry stop (undefPage (takePage s1 w) w) p.table w = .ok u →
        Completes (.pageOpAlloc q idx) s fun t =>
          OnlyEnded u t q idx stOk ∧ refCount t w = 1 ∧ (∀ x, x ≠ w → x < 2 ^ 32 → refCount t x = refCount s x)))
    ∧ (∀ (x : Nat) (u : State), p.sub = 1 → getEntry stop s p.src = .ok (x, s1) → x ≠ noPage → x < 2 ^ 32 →
      pagesOk s1 p.sheaf [x] = .ok () → refCount s1 x < 65535 → putEntry stop (addRef s1 x) p.table x = .ok u →
      Completes (.pageOpShare q idx) s fun t =>
        OnlyEnded u t q idx stOk ∧ refCount t x = refCount s x + 1
          ∧ (∀ y, y ≠ x → y < 2 ^ 32 → refCount t y = refCount s y))
    ∧ (∀ (x : Nat) (s2 : State), p.sub = 2 → getEntry stop s p.table = .ok (x, s1) → x ≠ noPage →
      pagesOk s1 p.sheaf [x] = .ok () → getEntry stop s1 p.table = .ok (x, s2) →
      (refCount s x ≤ 1 → Completes (.pageOpCow q idx) s fun t =>
        OnlyEnded s2 t q idx stOk ∧ t.pages = s.pages ∧ t.mem = s2.mem)
      ∧ (∀ (w : Nat) (s3 u : State), 1 < refCount s x → 0 < freePages s1 p.sheaf → pickCow s2 x = some w → w ≠ x →
        x < 2 ^ 32 → w < 2 ^ 32 → copyPage stop (takePage s2 w) x w = .ok s3 → putEntry stop (dropRef s3 x) p.table w = .ok u →
        Completes (.pageOpCow q idx) s fun t =>
          OnlyEnded u t q idx stOk ∧ refCount t w = 1 ∧ refCount t x = refCount s x - 1))
    ∧ (∀ (x : Nat) (u : State), p.sub = 3 → getEntry stop s p.table = .ok (x, s1) → x ≠ noPage → x < 2 ^ 32 →
      pagesOk s1 p.sheaf [x] = .ok () → putEntry stop (dropRef s1 x) p.table noPage = .ok u →
      Completes (.pageOpFree q idx) s fun t =>
        OnlyEnded u t q idx stOk ∧ refCount t x = refCount s x - 1
          ∧ (∀ y, y ≠ x → y < 2 ^ 32 → refCount t y = refCount s y)))
  ∧ (∀ (s : State) (h hint w : Nat), h < 8 → (∀ k, FMap.wf (unitAt s k).refs = true) → (unitAt s h).count ≤ 2 ^ 22 →
    pickAlloc s h hint = some w →
    pageSheaf w = h ∧ pageValid s w = true ∧ refCount s w = 0 ∧ processorMode s (pageVault w) = false)
  ∧ (∀ (h : Nat) (s : State), powered s = true → s.boot.dev ≠ .boot → h < 8 → pageUnitsBusy s = false → poolOk s h = true →
    Completes (.pguCtrlInit h) s fun t =>
      unitAt t h = { count := regFld s (pguReg h 0) 54 32, slot := regFld s (pguReg h 0) 26 18,
                     base := regFld s (pguReg h 0) 17 0, refs := [] }
        ∧ bit (regGet t (pguReg h 0x10)) 0 = true ∧ RegsKept s t [pguReg h 0x10] ∧ pageUnitDown t h = true
        ∧ (∀ k, k ≠ h → unitAt t k = unitAt s k)
        ∧ t = { s with pages := t.pages, mem := t.mem, marks := t.marks, regs := t.regs })
  ∧ (∀ (h : Nat) (s : State), powered s = true → s.boot.dev ≠ .boot → h < 8 → pageUnitsBusy s = true →
    Undefined (.pguCtrlInit h) s 1)
  ∧ (∀ (h : Nat) (s : State), powered s = true → s.boot.dev ≠ .boot → h < 8 → pageUnitsBusy s = false →
    poolOk s h = false → Undefined (.pguCtrlInit h) s 24)
  ∧ (∀ (h : Nat) (s : State), powered s = true → bit (regGet s (pguReg h 0x10)) 0 = true →
    Completes (.pguInitComplete h) s fun t =>
      pageUnitDown t h = false ∧ h ∉ t.pages.lost ∧ t.pages.units = s.pages.units ∧ RegsKept s t [pguReg h 0x10]
        ∧ t = { s with pages := t.pages, regs := t.regs })
  ∧ (∀ (h : Nat) (s : State), bit (regGet s (pguReg h 0x10)) 0 = false → Waits (.pguInitComplete h) s)

/-- TILLER_LOOKUP, TILLER_INSERT, TILLER_REMOVE and WINNOW.
Clauses that rest on the model's choices: log entries 29, 30, 84. -/
def Obligations.TillerAndWinnow : Prop :=
  (∀ (q idx : Nat) (s : State) (i : Item) (p : TillerP), Begins s q idx i → i.cmd = .tiller p → unitTurn s q idx = true →
    tillerOk p = true → pageUnitDown s 0 = true →
    (p.sub = 0 → Completes (.tillerLookup q idx) s fun t => OnlyEnded s t q idx stBadState)
    ∧ (p.sub = 1 → Completes (.tillerInsert q idx) s fun t => OnlyEnded s t q idx stBadState)
    ∧ (p.sub = 2 → Completes (.tillerRemove q idx) s fun t => OnlyEnded s t q idx stBadState))
  ∧ (∀ (q idx x : Nat) (s s1 u : State) (i : Item) (p : TillerP), Begins s q idx i → i.cmd = .tiller p →
    unitTurn s q idx = true → tillerOk p = true → unitsTogether s = true → unitsCross s q idx (.tiller p) = false →
    tillerHashes (endItem s q idx stOk) p = .ok ([x], s1) →
    let stop := some (pageStop 0)
    let record := fun n => leBytes 4 n ++ zeros 4 ++ leBytes 8 x ++ zeros 16
    (p.sub = 0 → ∀ h k v, bucketOf s1 x = some (h, k, v) → bucketReady s1 h v = .ok () → findHash s1 h k x = none →
      stopWrite s1 stop p.result (record 0) = .ok u →
      Completes (.tillerLookup q idx) s fun t => t = u ∧ Ended t q idx stOk ∧ t.pages = s.pages)
    ∧ (p.sub = 0 → ∀ h k v w e s2, bucketOf s1 x = some (h, k, v) → bucketReady s1 h v = .ok () →
      findHash s1 h k x = some (w, e) → refCount s1 e.page < 65535 →
      putEntry stop (addRef (setTiller (nextStamp s1).2 (wayKey h k w) (some { e with stamp := s1.pages.stamp })) e.page)
        p.table e.page = .ok s2 →
      stopWrite s2 stop p.result (record 1) = .ok u →
      Completes (.tillerLookup q idx) s fun t =>
        t = u ∧ Ended t q idx stOk ∧ refCount t e.page = refCount s e.page + 1)
    ∧ (p.sub = 1 → ∀ h k v pg s2, getEntry stop s1 p.table = .ok (pg, s2) → bucketOf s2 x = some (h, k, v) →
      bucketReady s2 h v = .ok () → findHash s2 h k x = none → (bucketWays s2 h k).length < 8 → pageValid s2 pg = true →
      refCount s2 pg < 65535 →
      stopWrite (addRef (setTiller (nextStamp s2).2 (wayKey h k (makeRoom s2 h k).1) (some ⟨x, pg, s2.pages.stamp⟩)) pg)
        stop p.result (record 1) = .ok u →
      Completes (.tillerInsert q idx) s fun t =>
        t = u ∧ Ended t q idx stOk ∧ refCount t pg = refCount s pg + 1
          ∧ (∃ w e, findHash t h k x = some (w, e) ∧ e.page = pg))
    ∧ (p.sub = 2 → ∀ h k v pg w e s2, getEntry stop s1 p.table = .ok (pg, s2) → bucketOf s2 x = some (h, k, v) →
      bucketReady s2 h v = .ok () → findHash s2 h k x = some (w, e) → e.page = pg →
      stopWrite (dropRef (setTiller s2 (wayKey h k w) none) pg) stop p.result (record 1) = .ok u →
      Completes (.tillerRemove q idx) s fun t =>
        t = u ∧ Ended t q idx stOk ∧ refCount t pg = refCount s pg - 1 ∧ FMap.find t.pages.tiller (wayKey h k w) = none))
  ∧ (∀ (q idx : Nat) (s s1 s2 u : State) (i : Item) (p : WinnowP) (bs : List Byte) (b : Bool), Begins s q idx i →
    i.cmd = .winnow p → unitTurn s q idx = true → winnowOk p = true → ascending (p.bound.take (p.nb - 1)) = true →
    winnowPlaced s p = true →
    let stop := some (pageStop p.sheaf)
    let batch := sortSeqs ((List.range p.n).map fun n =>
      ⟨fieldAt bs (8 * n) 4, fieldAt bs (8 * n + 4) 4, n, bucketFor p (fieldAt bs (8 * n + 4) 4)⟩)
    stopRead (endItem s q idx stOk) stop p.input (8 * p.n) = .ok (bs, b, s1) →
    stopWrite s1 stop p.output (batch.flatMap seqBytes ++ zeros (roundUp (16 * p.n) 32 - 16 * p.n)) = .ok s2 →
    stopWrite s2 stop p.summary (winnowSummary p batch) = .ok u →
    Completes (.winnow q idx) s fun t => t = u ∧ Ended t q idx stOk)
  ∧ (∀ (q idx : Nat) (s : State) (i : Item) (p : WinnowP), Begins s q idx i → i.cmd = .winnow p → unitTurn s q idx = true →
    (winnowOk p = false → Undefined (.winnow q idx) s 48)
    ∧ (winnowOk p = true → ascending (p.bound.take (p.nb - 1)) = false → Undefined (.winnow q idx) s 30)
    ∧ (winnowOk p = true → ascending (p.bound.take (p.nb - 1)) = true → winnowPlaced s p = false →
      Undefined (.winnow q idx) s 1))
  ∧ (∀ l : List Seq, (sortSeqs l).Perm l ∧ (sortSeqs l).Pairwise fun a b => seqBefore b a = false)

/-- VAULT_MODE_PROCESSOR, VAULT_MODE_MEMORY, ROW_RUN and ROW_FENCE.
Clauses that rest on the model's choices: log entries 2, 43, 44, 82. -/
def Obligations.VaultModesAndFences : Prop :=
  (∀ (q idx a : Nat) (vs : List Nat) (s s1 : State) (i : Item), Begins s q idx i → i.cmd = .vaultMode 1 a →
    readVaults s a = .ok (vs, s1) →
    (vs.any (modeBarred s1) = false → (∀ v ∈ vs, processorMode s1 v = false → inputsEmpty s1 v = true) →
      Completes (.vaultModeProcessor q idx) s fun t =>
      Ended t q idx stOk ∧ (∀ v ∈ vs, processorMode t v = true ∧ (processorMode s v = false → (vaultAt t v).openRows = []))
        ∧ (∀ v, v < 1024 → v ∉ vs → processorMode t v = processorMode s v)
        ∧ ((∀ v ∈ vs, (vaultAt s v).merges = []) → t.mem = s1.mem) ∧ OtherQueues s t q)
    ∧ (vs.any (modeBarred s1) = false → (∃ v ∈ vs, processorMode s1 v = false ∧ inputsEmpty s1 v = false) →
      Waits (.vaultModeProcessor q idx) s)
    ∧ (vs.any (modeBarred s1) = true → Completes (.vaultModeProcessor q idx) s fun t => OnlyEnded s1 t q idx stBadState))
  ∧ (∀ (q idx a : Nat) (vs : List Nat) (s s1 : State) (i : Item), Begins s q idx i → i.cmd = .vaultMode 0 a →
    readVaults s a = .ok (vs, s1) →
    Completes (.vaultModeMemory q idx) s fun t =>
      (∀ v, v < 1024 → processorMode t v = (processorMode s v && !(vs.contains v && rowQuiet s1 v)))
        ∧ t.mem = s1.mem ∧ OtherQueues s t q
        ∧ ((∀ v ∈ vs, processorMode s1 v = true → rowQuiet s1 v = true) → Ended t q idx stOk)
        ∧ ((∃ v ∈ vs, processorMode s1 v = true ∧ rowQuiet s1 v = false) → ∃ y, itemAt t q idx = some y ∧ y.phase = .running
            ∧ y.waitVaults = vs.filter fun v => processorMode s1 v && !rowQuiet s1 v))
  ∧ (∀ (q idx a : Nat) (s : State) (i : Item), Runs s q idx i → i.cmd = .vaultMode 0 a → (∀ v ∈ i.waitVaults, v < 1024) →
    Completes (.vaultModeMemory q idx) s fun t =>
      (∀ v, v < 1024 → processorMode t v = (processorMode s v && !(i.waitVaults.contains v && rowQuiet s v)))
        ∧ t.mem = s.mem ∧ OtherQueues s t q
        ∧ ((∀ v ∈ i.waitVaults, rowQuiet s v = true) → Ended t q idx stOk)
        ∧ ((∃ v ∈ i.waitVaults, rowQuiet s v = false) → ∃ y, itemAt t q idx = some y ∧ y.phase = .running
            ∧ y.waitVaults = i.waitVaults.filter fun v => !rowQuiet s v))
  ∧ (∀ (q idx m a : Nat) (s : State) (i : Item), Begins s q idx i → i.cmd = .vaultMode m a → m ≠ 0 → m ≠ 1 →
    Undefined (.vaultModeMemory q idx) s 48)
  ∧ (∀ (q idx prog len vset param : Nat) (vs gone : List Nat) (s s1 s2 : State) (i : Item), Begins s q idx i →
    i.cmd = .rowRun prog len vset param → 0 < len → len ≤ 256 → rowOperandOk s prog = true → rowOperandOk s param = true →
    readVaults s vset = .ok (vs, s1) → leavingVaults s1 = .ok (gone, s2) →
    ((∃ v ∈ vs, processorMode s2 v = false ∨ v ∈ gone) → Completes (.rowRun q idx) s fun t => OnlyEnded s2 t q idx stBadState)
    ∧ (∀ (j : RowJob) (s3 : State), (∀ v ∈ vs, processorMode s2 v = true ∧ v ∉ gone) →
      readProgram s2 q idx prog len param = .ok (j, s3) →
      (vs = [] → Completes (.rowRun q idx) s fun t => Ended t q idx stOk ∧ t.vaults = s3.vaults)
      ∧ (vs ≠ [] → Completes (.rowRun q idx) s fun t =>
          (∃ y, itemAt t q idx = some y ∧ y.phase = .running ∧ y.waitVaults = vs) ∧ j.queue = q ∧ j.idx = idx
            ∧ j.prog.length = len ∧ (∀ v ∈ vs, (vaultAt t v).row.job.isSome = true)
            ∧ (∀ v, v ∉ vs → vaultAt t v = vaultAt s3 v) ∧ t.mem = s3.mem)))
  ∧ (∀ (q idx a : Nat) (vs : List Nat) (s s1 : State) (i : Item), Begins s q idx i → i.cmd = .rowFence a →
    readVaults s a = .ok (vs, s1) →
    (vs.any (processorMode s1) = true → Completes (.rowFence q idx) s fun t => OnlyEnded s1 t q idx stBadState)
    ∧ (vs.any (processorMode s1) = false → Completes (.rowFence q idx) s fun t =>
      Ended t q idx stOk ∧ (∀ v ∈ vs, (vaultAt t v).row.unfenced = [] ∧ (vaultAt t v).openRows = [])
        ∧ ((∀ v ∈ vs, (vaultAt s v).merges = []) → t.mem = s1.mem) ∧ OtherQueues s t q))

/-- R167: the C function of the rule in 64-bit words, one pair of tokens a turn of its loop, and the chain over the blocks of
256 bytes, little-endian 32-bit tokens. A TILLER command hashes what it reads at INPUT. -/
def Obligations.TillerHash : Prop :=
  let turn : BitVec 64 → BitVec 32 × BitVec 32 → BitVec 64 := fun h p =>
    let w := (p.2 ++ p.1) * 0xBF58476D1CE4E5B9#64
    let w := w ^^^ (w >>> 31)
    ((h ^^^ w) * 0x94D049BB133111EB#64).rotateLeft 27
  let finish : BitVec 64 → BitVec 64 := fun h =>
    let h := (h ^^^ (h >>> 33)) * 0xFF51AFD7ED558CCD#64
    let h := h ^^^ (h >>> 33)
    if h = 0 then 1 else h
  (∀ (prev : BitVec 64) (ps : List (BitVec 32 × BitVec 32)), ps.length = 32 →
    tillerHash prev.toNat (ps.flatMap fun p => [p.1.toNat, p.2.toNat])
      = (finish (ps.foldl turn (prev ^^^ 0x9E3779B97F4A7C15#64))).toNat)
  ∧ (∀ (prev : Nat) (tok : List Nat), tillerHash prev tok ≠ 0)
  ∧ (∀ (n salt : Nat) (bs : List Byte), (hashChain n salt bs).length = n)
  ∧ (∀ (n b salt : Nat) (bs : List Byte), b < n →
    (hashChain n salt bs)[b]? = some (tillerHash (if b = 0 then salt else ((hashChain n salt bs)[b - 1]?).getD 0)
      ((List.range 64).map fun i => fieldAt bs (4 * (64 * b + i)) 4)))
  ∧ (∀ (s s1 : State) (p : TillerP) (bs : List Byte) (x : Bool), p.hashed = false →
    stopRead s (some (pageStop 0)) p.input (256 * p.blocks) = .ok (bs, x, s1) →
    tillerHashes s p = .ok (hashChain p.blocks p.salt bs, s1))

/-- STEP_BEGIN, STEP_COMMIT, STEP_EVALUATION and GUARD_REPORT.
Clauses that rest on the model's choices: log entries 2, 32, 33. -/
def Obligations.GuardedSteps : Prop :=
  (∀ (q idx bm : Nat) (rs : List Region) (s s1 s2 : State) (i : Item) (p : StepBeginP), Begins s q idx i →
    i.cmd = .stepBegin p → stepBeginOk p = true → devNat s p.slots 32 = .ok (bm, s1) →
    readRegions s1 p.regions p.nreg = .ok (rs, s2) → rs.all regionOk = true →
    (stepAllowed s2 q p (bitList bm 256) rs = false →
      Completes (.stepBegin q idx) s fun t => OnlyEnded s2 t q idx stBadState)
    ∧ (∀ s3, stepAllowed s2 q p (bitList bm 256) rs = true → shadowsFit s2 rs = .ok (false, s3) →
      Completes (.stepBegin q idx) s fun t => OnlyEnded s3 t q idx stBusy)
    ∧ (∀ s3 u, stepAllowed s2 q p (bitList bm 256) rs = true → shadowsFit s2 rs = .ok (true, s3) →
      stepEntries p - 1 ≤ slotsLeft s3 (queueAt s3 q).cq → openStep s3 q idx p (bitList bm 256) rs = .ok u →
      Completes (.stepBegin q idx) s fun t =>
        OnlyEnded u t q idx stOk
          ∧ (∃ st, stepAt t q = some st ∧ st.stepid = p.stepid ∧ st.tag = s.guard.nextTag ∧ st.beginIdx = idx
            ∧ st.entries = stepEntries p ∧ st.attempt = 1 ∧ st.phase = .running ∧ st.reserved = stepEntries p - 1
            ∧ st.regions = rs ∧ st.slots = bitList bm 256)
          ∧ t.guard.nextTag = s.guard.nextTag + 1
          ∧ (∀ n ∈ bitList bm 256, slotHeld t n = true ∧ regFld t (slotReg n 0x30) 31 16 = q % 2 ^ 16)))
  ∧ (∀ (q idx : Nat) (s : State) (i : Item) (p : StepBeginP), Begins s q idx i → i.cmd = .stepBegin p →
    (stepBeginOk p = false → Undefined (.stepBegin q idx) s 48)
    ∧ (∀ bm rs s1 s2, stepBeginOk p = true → devNat s p.slots 32 = .ok (bm, s1) →
      readRegions s1 p.regions p.nreg = .ok (rs, s2) → rs.all regionOk = false → Undefined (.stepBegin q idx) s 48))
  ∧ (∀ (q idx n : Nat) (s : State) (i : Item), Begins s q idx i → i.cmd = .stepCommit n →
    (∀ st, stepAt s q = some st → st.phase ≠ .held → st.stepid = n → Completes (.stepCommit q idx) s fun t =>
      stepAt t q = some { st with phase := .committing, commitIdx := idx }
        ∧ (∃ y, itemAt t q idx = some y ∧ y.phase = .running) ∧ t = { s with wq := t.wq, guard := t.guard })
    ∧ (∀ st, stepAt s q = some st → (st.phase = .held ∨ st.stepid ≠ n) →
      Completes (.stepCommit q idx) s fun t => OnlyEnded s t q idx stBadState)
    ∧ (stepAt s q = none → Completes (.stepCommit q idx) s fun t => OnlyEnded s t q idx stBadState))
  ∧ (∀ (q : Nat) (s u : State) (st : Step), powered s = true → s.boot.dev = .job → stepAt s q = some st →
    stepReady s q st = true → s.pails.busy = none → s.pails.deferred = [] → evaluateStep s q st = .ok u →
    Completes (.stepEvaluation q) s fun t => t = passHead u q)
  ∧ (∀ (q : Nat) (s u : State) (st : Step), evaluateStep s q st = .ok u →
    let s1 := st.slots.foldl (evalSlot st) s
    let again := st.slots.any fun n => decide (lastCauses s1 n ≠ 0) && bit (regGet s1 (slotReg n 0)) 1
    (again = false → stepAt u q = none)
    ∧ (again = true → st.attempt ≤ st.limit →
        ∃ x, stepAt u q = some x ∧ x.attempt = st.attempt + 1 ∧ x.phase = .running ∧ x.tag = st.tag)
    ∧ (again = true → st.limit < st.attempt → (∃ x, stepAt u q = some x ∧ x.attempt = st.attempt ∧ x.phase = .held)
        ∧ (queueAt u q).st = (if (queueAt s q).st = .flushing then .flushing else .held)))
  ∧ (∀ (q : Nat) (s : State), stepAt s q = none → Waits (.stepEvaluation q) s)
  ∧ (∀ (s : State) (r : Report) (rs : List Report), powered s = true → s.guard.reports = r :: rs →
    Completes .guardReport s fun t =>
      t.guard.reports = rs ∧ t.guard.steps = s.guard.steps ∧ t.mem = s.mem
        ∧ (reportTaken s r = true →
          (slotAt t r.slot).sumsq = ((slotAt s r.slot).sumsq + r.sumsq) % 2 ^ 640
            ∧ (slotAt t r.slot).amax = max (slotAt s r.slot).amax r.amax
            ∧ (slotAt t r.slot).nonfinite = (slotAt s r.slot).nonfinite + r.nonfinite
            ∧ (slotAt t r.slot).overflow = ((slotAt s r.slot).overflow || r.overflow)
            ∧ (∀ n, n ≠ r.slot → slotAt t n = slotAt s n) ∧ t.regs = s.regs)
        ∧ (reportTaken s r = false →
          t.guard.slots = s.guard.slots ∧ bit (regGet t (hubReg 0x40010)) 8 = true
            ∧ regGet t (hubReg 0x40018) = counterAdd (regGet s (hubReg 0x40018)) 1
            ∧ RegsKept s t [hubReg 0x40010, hubReg 0x40018])
        ∧ (r.item = none → t.wq = s.wq ∧ ∃ p : Packet, Sends s t hubStop p ∧ p.ty = .msg ∧ p.dst = coreStop r.core
            ∧ p.owner = some (r.core, r.seq))
        ∧ (∀ q idx i, r.item = some (q, idx) → itemAt s q idx = some i → Ended t q idx stOk ∧ t.rings = s.rings))
  ∧ (∀ s : State, s.guard.reports = [] → Waits .guardReport s)

/-- WQ_FENCE, TIME_WAIT, TIME_WAIT_REACHED, WAIT, WAIT_POLL and PHASE_HINT.
Clauses that rest on the model's choices: log entry 2. -/
def Obligations.WaitsAndHints : Prop :=
  (∀ (q idx : Nat) (s : State) (i : Item), Begins s q idx i → i.cmd = .fence →
    Completes (.wqFence q idx) s fun t => OnlyEnded s t q idx stOk)
  ∧ (∀ (q idx n : Nat) (s : State) (i : Item), Begins s q idx i → i.cmd = .timeWait n →
    (n ≤ nowNs s → Completes (.timeWait q idx) s fun t => OnlyEnded s t q idx stOk)
    ∧ (nowNs s < n → Completes (.timeWait q idx) s fun t =>
        t = startItem s q idx ∧ ∃ y, itemAt t q idx = some y ∧ y.phase = .running))
  ∧ (∀ (q idx n : Nat) (s : State) (i : Item), Runs s q idx i → i.cmd = .timeWait n →
    (n ≤ nowNs s → Completes (.timeWaitReached q idx) s fun t => OnlyEnded s t q idx stOk)
    ∧ (nowNs s < n → Waits (.timeWaitReached q idx) s))
  ∧ (∀ (q idx a v x : Nat) (s u : State) (i : Item), i.cmd = .wait a v → bit a 55 = false → a % 32 = 0 →
    devNat s a 8 = .ok (x, u) →
    (Begins s q idx i →
      (v ≤ x → Completes (.wait q idx) s fun t =>
        Ended t q idx stOk ∧ (∃ y, itemAt t q idx = some y ∧ y.result = x) ∧ t = { u with wq := t.wq } ∧ OtherQueues s t q)
      ∧ (x < v → Completes (.wait q idx) s fun t => t = startItem u q idx))
    ∧ (Runs s q idx i →
      (v ≤ x → Completes (.waitPoll q idx) s fun t =>
        Ended t q idx stOk ∧ (∃ y, itemAt t q idx = some y ∧ y.result = x) ∧ t = { u with wq := t.wq } ∧ OtherQueues s t q)
      ∧ (x < v → Completes (.waitPoll q idx) s fun t => t = startItem u q idx)))
  ∧ (∀ (q idx a v : Nat) (s : State) (i : Item), i.cmd = .wait a v → (bit a 55 = true ∨ a % 32 ≠ 0) →
    (Begins s q idx i → Undefined (.wait q idx) s 48) ∧ (Runs s q idx i → Undefined (.waitPoll q idx) s 48))
  ∧ (∀ (q idx n lead : Nat) (s : State) (i : Item), Begins s q idx i → i.cmd = .phaseHint n lead →
    (n < 16 → Completes (.phaseHint q idx) s fun t =>
      Ended t q idx stOk
        ∧ (∀ c ∈ hintCores s q, (govAt t c).hint = (if n = 0 then none else some (hintPermit n))
            ∧ (govAt t c).lead = nowNs s + lead ∧ (govAt t c).ramping = false)
        ∧ (∀ c, c ∉ hintCores s q → govAt t c = govAt s c)
        ∧ t = { s with wq := t.wq, power := t.power, doms := t.doms } ∧ OtherQueues s t q)
    ∧ (16 ≤ n → Undefined (.phaseHint q idx) s 48))
  ∧ (∀ n : Nat, 16 * n ≤ 15 * hintPermit n ∧ 15 * hintPermit n < 16 * n + 15)

/-- WQ_SIGNAL, WQ_SIGNAL_DOORBELL and ABORT.
Clauses that rest on the model's choices: log entries 26, 85. -/
def Obligations.SignalsAndAborts : Prop :=
  (∀ (q idx a v vec : Nat) (s : State) (i : Item), Begins s q idx i → i.cmd = .signal a v vec → bellForm a vec = false →
    a % 32 = 0 → (∀ k, resolve s a ≠ .none k) → (∀ r, resolve s a ≠ .reg r) →
    Completes (.wqSignal q idx) s fun t =>
      (∃ y, itemAt t q idx = some y ∧ y.phase = .running)
        ∧ (∃ p : Packet, Sends s t hubStop p ∧ p.ring = addrRing a ∧ p.ty = .wr ∧ p.addr = a ∧ p.data = leBytes 8 v ++ zeros 24
            ∧ p.ackreq = true ∧ FMap.find t.rings.out p.txn = some (.sync q idx))
        ∧ t = { s with wq := t.wq, rings := t.rings } ∧ OtherQueues s t q)
  ∧ (∀ (q idx a v vec : Nat) (s : State) (i : Item), Begins s q idx i → i.cmd = .signal a v vec → bellForm a vec = false →
    a % 32 ≠ 0 → Undefined (.wqSignal q idx) s 48)
  ∧ (∀ (q idx a v vec : Nat) (s : State) (i : Item), Begins s q idx i → i.cmd = .signal a v vec → bellForm a vec = true →
    bits a 42 21 = 0 → a % 32 = 0 → bits vec 13 11 = 0 →
    (∀ u, ownId s (bits a 54 43) = true → ringBell s (bits a 20 5) v (nowNs s) = .ok u → Completes (.wqSignalDoorbell q idx) s fun t =>
      Ended t q idx stOk ∧ t.mem = s.mem ∧ t.rings = s.rings ∧ (queueAt t (bits a 20 5)).tail = (queueAt u (bits a 20 5)).tail)
    ∧ (ownId s (bits a 54 43) = false → Completes (.wqSignalDoorbell q idx) s fun t =>
      (∃ y, itemAt t q idx = some y ∧ y.phase = .running)
        ∧ (∃ p : Packet, Sends s t hubStop p ∧ p.ring = 0 ∧ p.ty = .signal ∧ p.addr = a ∧ p.data = leBytes 8 v
            ∧ p.dst = linkStop (outLink s 0 0) ∧ FMap.find t.rings.out p.txn = some (.sync q idx))
        ∧ t = { s with wq := t.wq, rings := t.rings }))
  ∧ (∀ (q idx qt cmdid : Nat) (s : State) (i : Item), Begins s q idx i → i.cmd = .abort qt cmdid →
    abortLook s qt = .ok (s, s) →
    (abortTarget s q idx qt cmdid = none → Completes (.abort q idx) s fun t =>
      Ended t q idx stAlready ∧ t = { s with wq := t.wq } ∧ OtherQueues s t q)
    ∧ (∀ y, abortTarget s q idx qt cmdid = some y → inOpenStep s qt y = false → s.pails.busy = none →
      s.pails.deferred = [] →
      (y.phase = .fetched → Completes (.abort q idx) s fun t =>
        Ended t q idx stOk ∧ (∃ z, itemAt t qt y.idx = some z ∧ z.skip = true) ∧ t = { s with wq := t.wq })
      ∧ (itemLive y = true → stoppable y.cmd = true → Completes (.abort q idx) s fun t =>
        Ended t q idx stOk ∧ Ended t qt y.idx stAborted)
      ∧ ((y.phase = .recorded ∨ y.phase = .ended ∨ (itemLive y = true ∧ stoppable y.cmd = false)) → Completes (.abort q idx) s fun t =>
        Ended t q idx stAlready ∧ t = { s with wq := t.wq })))

/-- The scalar registers and the scalar arithmetic instructions; the functions are stated as operations on 64-bit words. -/
def Obligations.ScalarArithmetic : Prop :=
  (∀ (x : CoreSt) (n : Nat), sreg x n < 2 ^ 64 ∧ sreg x 0 = 0 ∧ ∀ v, setSreg x 0 v = x)
  ∧ (∀ (c : Nat) (f : ScalarF) (s : State), Issues s c (.call f) → Completes (.call c f) s fun t =>
    sreg (coreAt t c) 31 = ((coreAt s c).pc + 8) % 2 ^ 64)
  ∧ (∀ (c : Nat) (f : ScalarF) (s : State), Issues s c (.alu f) → Completes (.alu c f) s fun t =>
    WritesSreg s t c f.d (aluOp f.fn (sval s c f.a) (sval s c f.b)) ∧ t = { s with cores := t.cores })
  ∧ (∀ (c : Nat) (f : ScalarF) (s : State), Issues s c (.alui f) → Completes (.alui c f) s fun t =>
    WritesSreg s t c f.d (aluOp f.fn (sval s c f.a) (immExt f.imm)) ∧ t = { s with cores := t.cores })
  ∧ (∀ (c : Nat) (f : ScalarF) (s : State), Issues s c (.li f) → Completes (.li c f) s fun t =>
    WritesSreg s t c f.d (immExt f.imm) ∧ t = { s with cores := t.cores })
  ∧ (∀ (c : Nat) (f : ScalarF) (s : State), Issues s c (.lih f) → Completes (.lih c f) s fun t =>
    WritesSreg s t c f.d (f.imm * 2 ^ 32 + sval s c f.d % 2 ^ 32) ∧ t = { s with cores := t.cores })
  ∧ (∀ n : Nat, n < 2 ^ 32 → BitVec.ofNat 64 (immExt n) = (BitVec.ofNat 32 n).signExtend 64)
  ∧ (∀ a b : BitVec 64,
      BitVec.ofNat 64 (aluOp 0 a.toNat b.toNat) = a + b ∧ BitVec.ofNat 64 (aluOp 1 a.toNat b.toNat) = a - b
        ∧ BitVec.ofNat 64 (aluOp 2 a.toNat b.toNat) = a &&& b ∧ BitVec.ofNat 64 (aluOp 3 a.toNat b.toNat) = a ||| b
        ∧ BitVec.ofNat 64 (aluOp 4 a.toNat b.toNat) = a ^^^ b
        ∧ BitVec.ofNat 64 (aluOp 5 a.toNat b.toNat) = a <<< (b.toNat % 64)
        ∧ BitVec.ofNat 64 (aluOp 6 a.toNat b.toNat) = a >>> (b.toNat % 64)
        ∧ BitVec.ofNat 64 (aluOp 7 a.toNat b.toNat) = a.sshiftRight (b.toNat % 64)
        ∧ BitVec.ofNat 64 (aluOp 8 a.toNat b.toNat) = a * b
        ∧ aluOp 9 a.toNat b.toNat = a.toNat * b.toNat / 2 ^ 64
        ∧ aluOp 10 a.toNat b.toNat = (if a.slt b then 1 else 0) ∧ aluOp 11 a.toNat b.toNat = (if a.ult b then 1 else 0)
        ∧ aluOp 12 a.toNat b.toNat = (if a.sle b then a else b).toNat
        ∧ aluOp 13 a.toNat b.toNat = (if a.sle b then b else a).toNat
        ∧ aluOp 14 a.toNat b.toNat = min a.toNat b.toNat ∧ aluOp 15 a.toNat b.toNat = max a.toNat b.toNat)

/-- LD and SQ, with their frames over memory.
Clauses that rest on the model's choices: log entries 7, 9, 80. -/
def Obligations.ScalarMemory : Prop :=
  (∀ (c : Nat) (f : ScalarF) (s : State), Issues s c (.ld f) → memOff s c f < 0x800000 → memOff s c f % 8 = 0 →
    unordered (coreAt s c) none [(memOff s c f, 8)] [] = none → Completes (.ld c f) s fun t =>
      WritesSreg (readSram s c (memOff s c f) 8 0).2.2 t c f.d (leNat (readSram s c (memOff s c f) 8 0).1)
        ∧ (FMap.find s.marks (sramKey c (memOff s c f / 16 * 16)) = none →
          WritesSreg s t c f.d (leNat (bytesAt s (sramKey c (memOff s c f)) 8))
            ∧ t = { s with cores := t.cores, free := t.free }))
  ∧ (∀ (c : Nat) (f : ScalarF) (s : State), Issues s c (.sq f) → memOff s c f < 0x800000 → memOff s c f % 16 = 0 →
    f.b % 2 = 0 → f.b ≤ 30 → unordered (coreAt s c) none [] [(memOff s c f, 16)] = none →
    Completes (.sq c f) s fun t =>
      NextInstr s t c ∧ MemKept s t (sramKey c (memOff s c f)) 16
        ∧ (∀ k, k < 16 → FMap.find t.mem (sramKey c (memOff s c f) + k)
            = (leBytes 8 (sval s c f.b) ++ leBytes 8 (sval s c (f.b + 1)))[k]?)
        ∧ SameWork s t ∧ t = { s with cores := t.cores, mem := t.mem, marks := t.marks, wq := t.wq })
  ∧ (∀ (c : Nat) (f : ScalarF) (s : State),
    (Issues s c (.ld f) → 0x800000 ≤ memOff s c f → Undefined (.ld c f) s 17)
    ∧ (Issues s c (.sq f) → 0x800000 ≤ memOff s c f → Undefined (.sq c f) s 17)
    ∧ (Issues s c (.ld f) → memOff s c f < 0x800000 → memOff s c f % 8 ≠ 0 → Undefined (.ld c f) s 1)
    ∧ (Issues s c (.sq f) → memOff s c f < 0x800000 → (memOff s c f % 16 ≠ 0 ∨ f.b % 2 ≠ 0) → Undefined (.sq c f) s 1)
    ∧ (∀ k, Issues s c (.ld f) → memOff s c f < 0x800000 → memOff s c f % 8 = 0 →
      unordered (coreAt s c) none [(memOff s c f, 8)] [] = some k → Undefined (.ld c f) s k)
    ∧ (∀ k, Issues s c (.sq f) → memOff s c f < 0x800000 → memOff s c f % 16 = 0 → f.b % 2 = 0 → f.b ≤ 30 →
      unordered (coreAt s c) none [] [(memOff s c f, 16)] = some k → Undefined (.sq c f) s k))

/-- The control instructions.
Clauses that rest on the model's choices: log entry 2. -/
def Obligations.ControlFlow : Prop :=
  (∀ (c : Nat) (f : ScalarF) (s : State), Issues s c (.br f) → Completes (.br c f) s fun t =>
    OtherCores s t c ∧ t = { s with cores := t.cores }
      ∧ coreAt t c = { coreAt s c with pc :=
          (if brCond f.fn (sval s c f.a) (sval s c f.b) then unsigned 64 (((coreAt s c).pc : Int) + signed 32 f.imm * 8)
           else ((coreAt s c).pc + 8) % 2 ^ 64) })
  ∧ (∀ a b : BitVec 64, brCond 0 a.toNat b.toNat = (a == b) ∧ brCond 1 a.toNat b.toNat = (a != b)
      ∧ brCond 2 a.toNat b.toNat = a.slt b ∧ brCond 3 a.toNat b.toNat = b.sle a ∧ brCond 4 a.toNat b.toNat = a.ult b
      ∧ brCond 5 a.toNat b.toNat = b.ule a)
  ∧ (∀ (c : Nat) (f : ScalarF) (s : State), Issues s c (.call f) → Completes (.call c f) s fun t =>
    OtherCores s t c ∧ t = { s with cores := t.cores }
      ∧ coreAt t c = { coreAt s c with
          pc := unsigned 64 (((coreAt s c).pc : Int) + signed 32 f.imm * 8), sregs := (coreAt t c).sregs }
      ∧ ∀ n, sreg (coreAt t c) n = if n = 31 then ((coreAt s c).pc + 8) % 2 ^ 64 else sreg (coreAt s c) n)
  ∧ (∀ (c : Nat) (f : ScalarF) (s : State), Issues s c (.jr f) → Completes (.jr c f) s fun t =>
    OtherCores s t c ∧ t = { s with cores := t.cores } ∧ coreAt t c = { coreAt s c with pc := sval s c f.a })
  ∧ (∀ (c : Nat) (s : State), Issues s c .endk →
    (kindsDone (coreAt s c) 0xFF = true → Completes (.endk c) s fun t =>
      (coreAt t c).running = false ∧ (coreAt t c).owner = none ∧ OtherCores s t c
        ∧ t = { s with cores := t.cores, wq := t.wq }
        ∧ (∀ q idx i, (coreAt s c).owner = some (q, idx) → itemAt s q idx = some i → i.phase = .running →
            i.waitCores = [] → i.runCores = [c] → Ended t q idx stOk))
    ∧ (kindsDone (coreAt s c) 0xFF = false → Waits (.endk c) s))
  ∧ (∀ (c k : Nat) (s : State), Issues s c (.fence k) →
    (kindsDone (coreAt s c) k = true → Completes (.fence c k) s fun t =>
      NextInstr s t c ∧ t = { s with cores := t.cores })
    ∧ (kindsDone (coreAt s c) k = false → Waits (.fence c k) s))
  ∧ (∀ (c : Nat) (f : WaitcF) (s : State), Issues s c (.waitc f) →
    (eventsReady (coreAt s c).events (BitVec.ofNat 64 (sval s c f.m)) f.any = true → Completes (.waitc c f) s fun t =>
      OtherCores s t c ∧ t = { s with cores := t.cores }
        ∧ (coreAt t c).pc = ((coreAt s c).pc + 8) % 2 ^ 64
        ∧ (coreAt t c).events = (if f.clr then (coreAt s c).events &&& ~~~(BitVec.ofNat 64 (sval s c f.m)) else (coreAt s c).events)
        ∧ ∀ n, sreg (coreAt t c) n = if n = f.d ∧ n ≠ 0 then (coreAt s c).events.toNat else sreg (coreAt s c) n)
    ∧ (eventsReady (coreAt s c).events (BitVec.ofNat 64 (sval s c f.m)) f.any = false → Waits (.waitc c f) s))
  ∧ (∀ ev m : BitVec 64, (eventsReady ev m false = true ↔ ev &&& m = m)
      ∧ (eventsReady ev m true = true ↔ m = 0 ∨ ev &&& m ≠ 0))

/-- Core control registers, SIGNAL and PHINT.
Clauses that rest on the model's choices: log entries 8, 10, 11. -/
def Obligations.CoreControlRegisters : Prop :=
  (∀ (c : Nat) (f : ScalarF) (s : State), Issues s c (.csrr f) → Completes (.csrr c f) s fun t =>
    WritesSreg s t c f.d (csrRead s c f.imm) ∧ t = { s with cores := t.cores, free := t.free })
  ∧ (∀ (c : Nat) (s : State),
      csrRead s c 0x000 = coreId s c
        ∧ csrRead s c 0x001 = b2n (coreAt s c).sens * 2 ^ 36 + (coreAt s c).mode * 2 ^ 34 + (coreAt s c).cls * 2 ^ 32
            + (coreAt s c).cmdid
        ∧ csrRead s c 0x002 = (coreAt s c).count * 2 ^ 16 + (coreAt s c).rank
        ∧ csrRead s c 0x030 = regGet s (coreCtr c 0) % 2 ^ 48
        ∧ csrRead s c 0x031 = nowNs s ∧ csrRead s c 0x040 = (coreAt s c).events.toNat
        ∧ csrRead s c 0x041 = (coreAt s c).events.toNat ∧ csrRead s c 0x042 = coreQueues (coreAt s c)
        ∧ (∀ p ∈ [(0x010, 0x108), (0x011, 0x110), (0x012, 0x118), (0x013, 0x120), (0x014, 0x128), (0x020, 0x200),
            (0x021, 0x208), (0x022, 0x210)], csrRead s c p.1 = regGet s (coreReg c p.2))
        ∧ (∀ n, n ∉ [0x000, 0x001, 0x002, 0x010, 0x011, 0x012, 0x013, 0x014, 0x020, 0x021, 0x022, 0x030, 0x031, 0x040, 0x041,
            0x042] → csrRead s c n = 0))
  ∧ (∀ (c : Nat) (f : ScalarF) (s : State), Issues s c (.csrw f) →
    (f.imm = 0x041 → Completes (.csrw c f) s fun t =>
      NextInstr s t c ∧ (coreAt t c).events = (coreAt s c).events ||| BitVec.ofNat 64 (sval s c f.a)
        ∧ t = { s with cores := t.cores })
    ∧ (f.imm = 0x040 → Completes (.csrw c f) s fun t =>
      NextInstr s t c ∧ (coreAt t c).events = (coreAt s c).events &&& ~~~BitVec.ofNat 64 (sval s c f.a)
        ∧ t = { s with cores := t.cores })
    ∧ (∀ p ∈ [(0x010, 0x108), (0x011, 0x110), (0x012, 0x118), (0x013, 0x120)], f.imm = p.1 → c < 1024 →
      Completes (.csrw c f) s fun t =>
        NextInstr s t c ∧ regGet t (coreReg c p.2) = sval s c f.a ∧ RegsKept s t [coreReg c p.2]
          ∧ t = { s with cores := t.cores, regs := t.regs })
    ∧ (f.imm ∈ [0x014, 0x021] → c < 1024 → Completes (.csrw c f) s fun t =>
      NextInstr s t c ∧ RegsKept s t [] ∧ t = { s with cores := t.cores, regs := t.regs })
    ∧ (f.imm ∉ [0x010, 0x011, 0x012, 0x013, 0x014, 0x020, 0x021, 0x022, 0x040, 0x041] →
      Completes (.csrw c f) s fun t => NextInstr s t c ∧ t = { s with cores := t.cores }))
  ∧ (∀ (c d off : Nat) (f : SignalF) (s : State), Issues s c (.signal f) → resolve s (sval s c f.a) = .sram d off →
    Completes (.signal c f) s fun t =>
      NextInstr s t c ∧ t = { s with cores := t.cores, rings := t.rings }
        ∧ (coreAt t c).outgoing = (coreAt s c).outgoing ++ [⟨(coreAt s c).nextSeq, 1, 7, 0⟩]
        ∧ (∃ p : Packet, Sends s t (coreStop c) p ∧ p.ring = 0 ∧ p.ty = .signal ∧ p.dst = coreStop d ∧ p.ev = f.ev
            ∧ p.addr = sval s c f.a ∧ FMap.find t.rings.out p.txn = some (.signal c (coreAt s c).nextSeq)))
  ∧ (∀ (c n lead : Nat) (s : State), Issues s c (.phint n lead) → Completes (.phint c n lead) s fun t =>
    NextInstr s t c ∧ (govAt t c).hint = (if n = 0 then none else some (hintPermit n))
      ∧ (govAt t c).lead = nowNs s + 10 * lead ∧ t = { s with cores := t.cores, power := t.power, doms := t.doms })

/-- The DMA instructions and DMA_DESCRIPTOR_START.
Clauses that rest on the model's choices: log entries 2, 42, 80. -/
def Obligations.DmaTransfers : Prop :=
  (∀ (c : Nat) (f : DmaF) (s : State) (k : DmaKind),
    let i := match k with
      | .dmv => Instr.dmv c f
      | .dms => Instr.dms c f
      | .dmr => Instr.dmr c f
      | .dmh => Instr.dmh c f
    let w := match k with
      | .dmv => TileInstr.dmv f
      | .dms => TileInstr.dms f
      | .dmr => TileInstr.dmr f
      | .dmh => TileInstr.dmh f
    Issues s c w →
    ((dmaOp s c k f).bytes = 0 → Completes i s fun t =>
      NextInstr s t c ∧ (coreAt t c).events.getLsbD (f.evt % 64) = true ∧ (∀ ch, channel t c ch = channel s c ch)
        ∧ t = { s with cores := t.cores })
    ∧ ((dmaOp s c k f).bytes ≠ 0 → (channel s c f.ch).length < 8 →
      let o := dmaOp s c k f
      let reads := if o.write then dmaSpans o else []
      let writes := if o.write then [] else dmaSpans o
      (∀ n, unordered (coreAt s c) (some (.dma f.ch)) reads writes = some n → Undefined i s n)
      ∧ (unordered (coreAt s c) (some (.dma f.ch)) reads writes = none → Completes i s fun t =>
      NextInstr s t c ∧ channel t c f.ch = channel s c f.ch ++ [dmaOp s c k f]
        ∧ (∀ ch, ch ≠ f.ch → channel t c ch = channel s c ch) ∧ (coreAt t c).nextSeq = (coreAt s c).nextSeq + 1
        ∧ t = { s with cores := t.cores }))
    ∧ ((dmaOp s c k f).bytes ≠ 0 → 8 ≤ (channel s c f.ch).length → Waits i s))
  ∧ (∀ (c : Nat) (k : DmaKind) (f : DmaF) (s : State),
      (dmaOp s c k f).addr = sval s c f.a ∧ (dmaOp s c k f).sram = sval s c f.b
        ∧ (dmaOp s c k f).bytes = sval s c f.c % 2 ^ 32 ∧ (dmaOp s c k f).dstride = 32 * f.dstride
        ∧ (dmaOp s c k f).sstride = 32 * f.sstride ∧ 1 ≤ (dmaOp s c k f).lines ∧ (dmaOp s c k f).started = false)
  ∧ (∀ (c ch : Nat) (ups : List (Nat × Upset)) (o : DmaOp) (s : State), powered s = true → domOn s ⟨.core, c⟩ = true →
    nextDma s c ch = some o →
    (dmaOk s c o = true → dmaRaces s c ch o = true → Undefined (.dmaDescriptorStart c ch ups) s 22)
    ∧ (dmaOk s c o = true → dmaRaces s c ch o = false → Completes (.dmaDescriptorStart c ch ups) s fun t =>
      (∃ d ∈ channel t c ch, d = { o with
          started := true, left := if o.kind = .dmh ∧ o.write = true then 1 else (dmaParts o).length })
        ∧ OtherCores s t c ∧ SameWork s t ∧ t.boot = s.boot
        ∧ (∀ x, x ≠ ch → channel t c x = channel s c x))
    ∧ (dmaOk s c o = false → Undefined (.dmaDescriptorStart c ch ups) s 20))
  ∧ (∀ (c ch : Nat) (ups : List (Nat × Upset)) (s : State), nextDma s c ch = none → Waits (.dmaDescriptorStart c ch ups) s)
  ∧ (∀ o : DmaOp, (∀ r ∈ dmaParts o, r.bytes ≤ 256 ∧ r.addr / 256 = (r.addr + r.bytes - 1) / 256)
      ∧ ((dmaParts o).map (·.bytes)).sum = o.lines * o.bytes)

/-- TDESC, TADJ, FEED and FEED_START.
Clauses that rest on the model's choices: log entries 2, 34, 80. -/
def Obligations.FeedIssue : Prop :=
  (∀ (c : Nat) (f : TdescF) (s : State), Issues s c (.tdesc f) →
    add64 (sval s c f.a) (immExt f.imm) + 32 ≤ 0x800000 → add64 (sval s c f.a) (immExt f.imm) % 32 = 0 →
    unordered (coreAt s c) none [(add64 (sval s c f.a) (immExt f.imm), 32)] [] = none → Completes (.tdesc c f) s fun t =>
      treg t c f.t = parseDesc (readSram s c (add64 (sval s c f.a) (immExt f.imm)) 32 0).1
        ∧ (coreAt t c).pc = ((coreAt s c).pc + 8) % 2 ^ 64 ∧ (coreAt t c).sregs = (coreAt s c).sregs ∧ OtherCores s t c
        ∧ (∀ n, n ≠ f.t → FMap.find (coreAt t c).tregs n = FMap.find (coreAt s c).tregs n))
  ∧ (∀ (c : Nat) (f : TdescF) (s : State), Issues s c (.tdesc f) →
    (0x800000 < add64 (sval s c f.a) (immExt f.imm) + 32 → Undefined (.tdesc c f) s 17)
    ∧ (add64 (sval s c f.a) (immExt f.imm) + 32 ≤ 0x800000 → add64 (sval s c f.a) (immExt f.imm) % 32 ≠ 0 →
      Undefined (.tdesc c f) s 1))
  ∧ (∀ (c : Nat) (f : TadjF) (s : State), Issues s c (.tadj f) → Completes (.tadj c f) s fun t =>
    treg t c f.t = { treg s c f.t with
        base := ((treg s c f.t).base + sval s c f.a) % 2 ^ 32, sbase := ((treg s c f.t).sbase + sval s c f.b) % 2 ^ 32 }
      ∧ (coreAt t c).pc = ((coreAt s c).pc + 8) % 2 ^ 64 ∧ (coreAt t c).sregs = (coreAt s c).sregs ∧ OtherCores s t c
      ∧ t = { s with cores := t.cores, free := t.free })
  ∧ (∀ (c : Nat) (f : FeedF) (s : State), Issues s c (.feed f) →
    ((coreAt s c).feedQ.length < 4 →
      unordered (coreAt s c) (some .feed) (feedSpans (if f.accumulate then issueMode s c else f.fullcream) (feedOp s c f)) []
        = none →
      Completes (.feed c f) s fun t =>
      NextInstr s t c ∧ (coreAt t c).feedQ = (coreAt s c).feedQ ++ [.feed (feedOp s c f)]
        ∧ t = { s with cores := t.cores, free := t.free })
    ∧ (4 ≤ (coreAt s c).feedQ.length → Waits (.feed c f) s))
  ∧ (∀ (c : Nat) (ups : List (Nat × Upset)) (o : FeedOp) (s : State), powered s = true → nextFeed s c = some o →
    (∀ ps, fmtOperand o.a.fmt = true → fmtOperand o.b.fmt = true → feedOk o = true → feedPasses o = some ps →
      Completes (.feedStart c ups) s fun t =>
        (coreAt t c).feedQ = (coreAt s c).feedQ.drop 1 ∧ OtherCores s t c ∧ t.wq = s.wq
          ∧ (coreAt t c).feedRun
            = (if feedBlocks o * ps.length = 0 ∨ feedRows o = [] ∨ feedCols (feedMode s c o) o = [] then none
               else some ⟨o, feedBlocks o * ps.length⟩))
    ∧ ((fmtOperand o.a.fmt = false ∨ fmtOperand o.b.fmt = false) → Undefined (.feedStart c ups) s 10)
    ∧ (fmtOperand o.a.fmt = true → fmtOperand o.b.fmt = true → feedOk o = false → Undefined (.feedStart c ups) s 18)
    ∧ (fmtOperand o.a.fmt = true → fmtOperand o.b.fmt = true → feedOk o = true → feedPasses o = none →
      Undefined (.feedStart c ups) s 11))
  ∧ (∀ (c : Nat) (ups : List (Nat × Upset)) (s : State), nextFeed s c = none → Waits (.feedStart c ups) s)

/-- PASS_BLOCK_CLOSE, CHURN_LANE_READ, DRAIN, DRAIN_START and DRAIN_COMPLETE.
Clauses that rest on the model's choices: log entries 2, 34, 35, 36. -/
def Obligations.DigitArrayAndDrain : Prop :=
  (∀ (c i j : Nat) (r : FeedRun) (s : State), powered s = true → (coreAt s c).feedRun = some r →
    blockReady s c i j = true → Completes (.passBlockClose c i j) s fun t =>
      cellAt (coreAt t c) i j
          = { setBuf (cellAt (coreAt s c) i j) (cellAt (coreAt s c) i j).closed
                (some (toPartial (cellFields s c r.op i j (cellAt (coreAt s c) i j).closed))) with
              closed := (cellAt (coreAt s c) i j).closed + 1 }
        ∧ (∀ k, k ≠ 128 * i + j → FMap.find (coreAt t c).cells k = FMap.find (coreAt s c).cells k)
        ∧ OtherCores s t c ∧ (coreAt t c).churn = (coreAt s c).churn ∧ RegsKept s t [coreCtr c 1]
        ∧ t = { s with cores := t.cores, regs := t.regs, free := t.free })
  ∧ (∀ (c i j : Nat) (s : State), blockReady s c i j = false → Waits (.passBlockClose c i j) s)
  ∧ (∀ (c i j : Nat) (r : FeedRun) (b : Partial) (s : State), powered s = true → (coreAt s c).feedRun = some r →
    laneBuf (coreAt s c) i j = some b →
    (accHeld s c r.op.seq (feedMode s c r.op) i j = true → Waits (.churnLaneRead c i j) s)
    ∧ (accHeld s c r.op.seq (feedMode s c r.op) i j = false → Completes (.churnLaneRead c i j) s fun t =>
      OtherCores s t c ∧ (∀ d, d ≠ c → govAt t d = govAt s d)
        ∧ t = { s with cores := t.cores, regs := t.regs, free := t.free, power := { s.power with gov := t.power.gov } }
        ∧ (((coreAt t c).feedRun = some r ∧ t.power = s.power
              ∧ cellAt (coreAt t c) i j
                = { setBuf (cellAt (coreAt s c) i j) (cellAt (coreAt s c) i j).done none with
                    done := (cellAt (coreAt s c) i j).done + 1 })
            ∨ ((coreAt t c).feedRun = none ∧ (coreAt t c).cells = [] ∧ govAt t c = { govAt s c with fed := nowNs s }))))
  ∧ (∀ (c i j : Nat) (s : State), laneBuf (coreAt s c) i j = none → Waits (.churnLaneRead c i j) s)
  ∧ (∀ (s : State) (c i j : Nat) (p : Pass) (a b : KLine) (fields : List Int) (sb4 : Bool),
      (a.bad = true ∨ b.bad = true) → (accAt (addPass s c false sb4 i j p a b fields) c false i j).nan = true)
  ∧ (∀ (c : Nat) (f : DrainF) (s : State), Issues s c (.drain f) →
    ((coreAt s c).drainQ.length < 4 →
      unordered (coreAt s c) (some .drain) (wheySpan s (drainOp s c f)) (drainSpans s (drainOp s c f)) = none →
      Completes (.drain c f) s fun t =>
      NextInstr s t c ∧ (coreAt t c).drainQ = (coreAt s c).drainQ ++ [.drain (drainOp s c f)]
        ∧ t = { s with cores := t.cores, free := t.free })
    ∧ (4 ≤ (coreAt s c).drainQ.length → Waits (.drain c f) s))
  ∧ (∀ (c : Nat) (o : DrainOp) (s : State), powered s = true → nextDrain s c = some (.drain o) →
    (fmtOperand o.d.fmt = true → drainOk s (tileOf s c o.seq).fc o = true → Completes (.drainStart c) s fun t =>
      (coreAt t c).drainWait = some ⟨o.seq, o.gslot.isNone⟩ ∧ (coreAt t c).drainQ = (coreAt s c).drainQ.drop 1
        ∧ OtherCores s t c ∧ ((coreAt s c).toClear = [] → (coreAt t c).churn = (coreAt s c).churn) ∧ SameWork s t
        ∧ (∀ k, (k < sramKey c 0 ∨ sramKey c 0x800000 ≤ k) → FMap.find t.mem k = FMap.find s.mem k))
    ∧ (fmtOperand o.d.fmt = false → Undefined (.drainStart c) s 10)
    ∧ (fmtOperand o.d.fmt = true → drainOk s (tileOf s c o.seq).fc o = false → Undefined (.drainStart c) s 18))
  ∧ (∀ (c : Nat) (s : State), powered s = true → drainEnds s c = true → Completes (.drainComplete c) s fun t =>
      (coreAt t c) = { coreAt s c with drainWait := none } ∧ OtherCores s t c ∧ t = { s with cores := t.cores })
  ∧ (∀ (c : Nat) (s : State), drainEnds s c = false → Waits (.drainComplete c) s)

/-- REDS, REDS_COMPLETE, REDW, VOP, VOP_EXECUTE, ATB and ATB_EXECUTE.
Clauses that rest on the model's choices: log entries 2, 37, 38, 39, 80. -/
def Obligations.ReduceVectorAttention : Prop :=
  (∀ (c : Nat) (f : RedsF) (s u : State), Issues s c (.reds f) →
    (f.churn = false → redsTile s c (redsOp s c f) (treg s c f.t) = .ok u → Completes (.reds c f) s fun t =>
      NextInstr s t c
        ∧ (∃ o : Outgoing, (coreAt t c).outgoing = (coreAt s c).outgoing ++ [o] ∧ o.seq = (coreAt s c).nextSeq ∧ o.evt = f.evt
            ∧ o.fence = f.ch
            ∧ ∃ l : List Packet, injectQ t (coreStop c) f.ch = injectQ s (coreStop c) f.ch ++ l ∧ l.length = o.left
              ∧ ∀ p ∈ l, p.ty = .reduce ∧ p.owner = some (c, (coreAt s c).nextSeq))
        ∧ t.rings = u.rings)
    ∧ (f.churn = true → (coreAt s c).drainQ.length < 4 → Completes (.reds c f) s fun t =>
      NextInstr s t c ∧ (coreAt t c).drainQ = (coreAt s c).drainQ ++ [.reds (redsOp s c f)] ∧ t = { s with cores := t.cores })
    ∧ (f.churn = true → 4 ≤ (coreAt s c).drainQ.length → Waits (.reds c f) s))
  ∧ (∀ (c : Nat) (o : Outgoing) (s : State), powered s = true → redsEnded s c = some o →
    Completes (.redsComplete c) s fun t =>
      (coreAt t c).events.getLsbD (o.evt % 64) = true ∧ (∀ y ∈ (coreAt t c).outgoing, y.seq ≠ o.seq)
        ∧ OtherCores s t c ∧ t = { s with cores := t.cores })
  ∧ (∀ (c : Nat) (s : State), redsEnded s c = none → Waits (.redsComplete c) s)
  ∧ (∀ (c r : Nat) (s : State), Issues s c (.redw r) →
    (sval s c r % 2 ^ 32 ∈ (coreAt s c).tags → Completes (.redw c r) s fun t =>
      NextInstr s t c ∧ t = { s with cores := t.cores }
        ∧ ((coreAt s c).heldTags = [] → (coreAt t c).tags = (coreAt s c).tags.erase (sval s c r % 2 ^ 32)))
    ∧ (sval s c r % 2 ^ 32 ∉ (coreAt s c).tags → Waits (.redw c r) s))
  ∧ (∀ (c : Nat) (f : VopF) (s : State), Issues s c (.vop f) →
    ((coreAt s c).vopQ.length < 8 →
      (let o := vopOp s c f
       unordered (coreAt s c) (some .vector) (if vopOk o then vopSpans o else []) (if vopOk o then tileSpans o.d else []) = none) →
      Completes (.vop c f) s fun t =>
      NextInstr s t c ∧ (∃ o : VopOp, (coreAt t c).vopQ = (coreAt s c).vopQ ++ [o] ∧ o.fn = f.fn ∧ o.d = treg s c f.d ∧ o.a = treg s c f.a)
        ∧ t = { s with cores := t.cores, free := t.free })
    ∧ (8 ≤ (coreAt s c).vopQ.length → Waits (.vop c f) s))
  ∧ (∀ (c : Nat) (o : VopOp) (l : List VopOp) (s : State), powered s = true → domOn s ⟨.core, c⟩ = true →
    (coreAt s c).vopQ = o :: l →
    (vopOk o = true → Completes (.vopExecute c) s fun t =>
      (coreAt t c).vopQ = l ∧ OtherCores s t c ∧ SameWork s t
        ∧ (∀ k, (k < sramKey c 0 ∨ sramKey c 0x800000 ≤ k) → FMap.find t.mem k = FMap.find s.mem k))
    ∧ (vopOk o = false → Undefined (.vopExecute c) s 18))
  ∧ (∀ (c : Nat) (f : AtbF) (s : State), Issues s c (.atb f) →
    ((coreAt s c).feedQ.length < 4 →
      (let o := atbOp s c f
       unordered (coreAt s c) (some .feed) (if atbOk o && maskOk o (atbMask s c o) then atbSpans o (atbMask s c o) else [])
        (if atbOk o then atbOuts o else []) = none) →
      Completes (.atb c f) s fun t =>
      NextInstr s t c ∧ (∃ o : AtbOp, (coreAt t c).feedQ = (coreAt s c).feedQ ++ [.atb o] ∧ o.q = treg s c f.q ∧ o.kind = f.kind)
        ∧ t = { s with cores := t.cores, free := t.free })
    ∧ (4 ≤ (coreAt s c).feedQ.length → Waits (.atb c f) s))
  ∧ (∀ (c : Nat) (o : AtbOp) (s : State), powered s = true → nextAtb s c = some o →
    (atbOk o = true → maskOk o (atbMask s c o) = true → Completes (.atbExecute c) s fun t =>
      (coreAt t c).churn = [] ∧ (coreAt t c).feedQ = (coreAt s c).feedQ.drop 1 ∧ OtherCores s t c ∧ SameWork s t)
    ∧ ((atbOk o = false ∨ maskOk o (atbMask s c o) = false) → Undefined (.atbExecute c) s 23))
  ∧ (∀ (c : Nat) (s : State), nextAtb s c = none → Waits (.atbExecute c) s)
  ∧ (∀ (pf scale l : Nat) (sc : List Nat) (masked : Nat → Bool), (∀ j, j < 64 → masked j = true) →
      (statRow pf scale sc masked 0xFF800000 l).corr = 0x3F800000 ∧ (statRow pf scale sc masked 0xFF800000 l).m = 0xFF800000)

/-- The nine row operations at issue.
Clauses that rest on the model's choices: log entry 43. -/
def Obligations.RowIssue : Prop :=
  ∀ (v : Nat) (o : RowOp) (f : RowF) (s : State),
    let i := match o with
      | .copy => Instr.rowOpCopy v f
      | .zero => Instr.rowOpZero v f
      | .one => Instr.rowOpOne v f
      | .not => Instr.rowOpNot v f
      | .xor => Instr.rowOpXor v f
      | .and => Instr.rowOpAnd v f
      | .or => Instr.rowOpOr v f
      | .maj3 => Instr.rowOpMaj3 v f
      | .recode c => Instr.rowOpRecode v c f
    let u := rowUnitAt s v
    let p : RowPend := ⟨o, rowReg u f.d, rowReg u f.a, rowReg u f.b, rowReg u f.c⟩
    IssuesRow s v (.op o f) →
      (rowInRange o p = true → rowRoom u f.bs = true → Completes i s fun t =>
        (vaultAt t v).row = { u with pc := (u.pc + 1) % 256, banks := (vaultAt t v).row.banks }
          ∧ (∀ k ∈ rowBanks u f.bs, FMap.getD (vaultAt t v).row.banks k [] = FMap.getD u.banks k [] ++ [p])
          ∧ (∀ k, k ∉ rowBanks u f.bs → FMap.getD (vaultAt t v).row.banks k [] = FMap.getD u.banks k [])
          ∧ OtherVaults s t v ∧ t = { s with vaults := t.vaults })
      ∧ (rowInRange o p = true → rowRoom u f.bs = false → Completes i s fun t => t = startRow s v)
      ∧ (rowInRange o p = false → Undefined i s 41)

/-- ROW_BANK_OPERATION.
Clauses that rest on the model's choices: log entries 2, 43. -/
def Obligations.RowBanksCompute : Prop :=
  (∀ (v bl : Nat) (p : RowPend) (ps : List RowPend) (s u : State), powered s = true →
    FMap.getD (vaultAt s v).row.banks bl [] = p :: ps → applyRow s v bl p = .ok u →
    Completes (.rowBankOperation v bl) s fun t =>
      t.mem = u.mem ∧ FMap.getD (vaultAt t v).row.banks bl [] = ps
        ∧ (∀ k, k ≠ bl → FMap.getD (vaultAt t v).row.banks k [] = FMap.getD (vaultAt s v).row.banks k [])
        ∧ bl * 3072 + p.d ∈ (vaultAt t v).row.unfenced ∧ OtherVaults s t v)
  ∧ (∀ (v bl : Nat) (s : State), FMap.getD (vaultAt s v).row.banks bl [] = [] → Waits (.rowBankOperation v bl) s)
  ∧ (∀ (v bl : Nat) (p : RowPend) (s : State),
    (p.op = .zero → ∃ u, applyRow s v bl p = .ok u ∧ MemKept s u (rowKeyAt v bl p.d) 2048
      ∧ ∀ i, i < 2048 → FMap.find u.mem (rowKeyAt v bl p.d + i) = some 0)
    ∧ (p.op = .one → ∃ u, applyRow s v bl p = .ok u ∧ MemKept s u (rowKeyAt v bl p.d) 2048
      ∧ ∀ i, i < 2048 → FMap.find u.mem (rowKeyAt v bl p.d + i) = some 0xFF)
    ∧ (p.op = .copy → Memory.wf s.mem = true → ∃ u, applyRow s v bl p = .ok u ∧ MemKept s u (rowKeyAt v bl p.d) 2048
      ∧ ∀ i, i < 2048 → FMap.find u.mem (rowKeyAt v bl p.d + i) = FMap.find s.mem (rowKeyAt v bl p.a + i))
    ∧ (∀ c, p.op = .recode c → RowClean s v bl p.d → ∃ u, applyRow s v bl p = .ok u
      ∧ ∀ k, FMap.find u.mem k = FMap.find s.mem k))
  ∧ (∀ (v bl : Nat) (p : RowPend) (a b c : Nat → Byte) (s : State), RowClean s v bl p.a →
    (∀ i, i < 2048 → FMap.find s.mem (rowKeyAt v bl p.a + i) = some (a i)) →
    (p.op = .not → ∃ u, applyRow s v bl p = .ok u ∧ MemKept s u (rowKeyAt v bl p.d) 2048
      ∧ ∀ i, i < 2048 → FMap.find u.mem (rowKeyAt v bl p.d + i) = some (~~~(a i)))
    ∧ (RowClean s v bl p.b → (∀ i, i < 2048 → FMap.find s.mem (rowKeyAt v bl p.b + i) = some (b i)) →
      (p.op = .xor → ∃ u, applyRow s v bl p = .ok u ∧ MemKept s u (rowKeyAt v bl p.d) 2048
        ∧ ∀ i, i < 2048 → FMap.find u.mem (rowKeyAt v bl p.d + i) = some (a i ^^^ b i))
      ∧ (p.op = .and → ∃ u, applyRow s v bl p = .ok u ∧ MemKept s u (rowKeyAt v bl p.d) 2048
        ∧ ∀ i, i < 2048 → FMap.find u.mem (rowKeyAt v bl p.d + i) = some (a i &&& b i))
      ∧ (p.op = .or → ∃ u, applyRow s v bl p = .ok u ∧ MemKept s u (rowKeyAt v bl p.d) 2048
        ∧ ∀ i, i < 2048 → FMap.find u.mem (rowKeyAt v bl p.d + i) = some (a i ||| b i))
      ∧ (p.op = .maj3 → RowClean s v bl p.c → (∀ i, i < 2048 → FMap.find s.mem (rowKeyAt v bl p.c + i) = some (c i)) →
        ∃ u, applyRow s v bl p = .ok u ∧ MemKept s u (rowKeyAt v bl p.d) 2048
          ∧ ∀ i, i < 2048 → FMap.find u.mem (rowKeyAt v bl p.d + i)
              = some ((a i &&& b i) ||| (a i &&& c i) ||| (b i &&& c i)))))
  ∧ (∀ (v bl : Nat) (p : RowPend) (ps : List RowPend) (s : State), powered s = true →
    FMap.getD (vaultAt s v).row.banks bl [] = p :: ps →
    (p.op ≠ .copy → (∃ r ∈ rowSources p.op p, poisonedRow s (rowKeyAt v bl r) = true) →
      Undefined (.rowBankOperation v bl) s 38)
    ∧ (p.op = .recode true → poisonedRow s (rowKeyAt v bl p.d) = false → invalidRow s (rowKeyAt v bl p.d) = true →
      Undefined (.rowBankOperation v bl) s 40))

/-- ROW_SET, ROW_ADD, ROW_LOOP and ROW_END.
Clauses that rest on the model's choices: log entries 2, 43, 44. -/
def Obligations.RowProgramControl : Prop :=
  (∀ (v i val : Nat) (param : Bool) (s : State),
    let u := rowUnitAt s v
    let x := if param then rowParam u (val % 8) else val
    (IssuesRow s v (.set false i param val) → i < u.r.length → Completes (.rowSet v false i param val) s fun t =>
      (vaultAt t v).row = { u with pc := (u.pc + 1) % 256, r := u.r.set i (x % 2 ^ 12) } ∧ rowReg (vaultAt t v).row i = x % 2 ^ 12
        ∧ OtherVaults s t v ∧ t = { s with vaults := t.vaults })
    ∧ (IssuesRow s v (.set true i param val) → i < u.c.length → Completes (.rowSet v true i param val) s fun t =>
      (vaultAt t v).row = { u with pc := (u.pc + 1) % 256, c := u.c.set i (x % 2 ^ 16) } ∧ rowCtr (vaultAt t v).row i = x % 2 ^ 16
        ∧ OtherVaults s t v ∧ t = { s with vaults := t.vaults }))
  ∧ (∀ (v i imm : Nat) (s : State), IssuesRow s v (.add i imm) → i < (rowUnitAt s v).r.length →
    Completes (.rowAdd v i imm) s fun t =>
      rowReg (vaultAt t v).row i = unsigned 12 ((rowReg (rowUnitAt s v) i : Int) + signed 16 imm)
        ∧ (∀ j, j ≠ i → rowReg (vaultAt t v).row j = rowReg (rowUnitAt s v) j)
        ∧ (vaultAt t v).row.pc = ((rowUnitAt s v).pc + 1) % 256 ∧ OtherVaults s t v ∧ t = { s with vaults := t.vaults })
  ∧ (∀ (v i target : Nat) (s : State), IssuesRow s v (.loop i target) → i < (rowUnitAt s v).c.length →
    Completes (.rowLoop v i target) s fun t =>
      (rowCtr (rowUnitAt s v) i = 0 → (vaultAt t v).row = { rowUnitAt s v with pc := ((rowUnitAt s v).pc + 1) % 256 })
        ∧ (rowCtr (rowUnitAt s v) i ≠ 0 → (vaultAt t v).row.pc = target
            ∧ rowCtr (vaultAt t v).row i = rowCtr (rowUnitAt s v) i - 1
            ∧ (vaultAt t v).row.r = (rowUnitAt s v).r)
        ∧ OtherVaults s t v ∧ t = { s with vaults := t.vaults })
  ∧ (∀ (v q idx : Nat) (i : Item) (s : State), IssuesRow s v .endp → (rowUnitAt s v).job = some (q, idx) →
    ((rowUnitAt s v).banks = [] → Completes (.rowEnd v) s fun t =>
      (vaultAt t v).row.job = none ∧ regGet t (vltReg v 0x1018) = counterAdd (regGet s (vltReg v 0x1018)) 1
        ∧ RegsKept s t [vltReg v 0x1018] ∧ OtherVaults s t v ∧ t.mem = s.mem
        ∧ (itemAt s q idx = some i → i.phase = .running → i.waitVaults = [v] → Ended t q idx stOk)
        ∧ (itemAt s q idx = some i → i.phase = .running → (∃ w ∈ i.waitVaults, w ≠ v) →
            ∃ y, itemAt t q idx = some y ∧ y.phase = .running ∧ v ∉ y.waitVaults))
    ∧ ((rowUnitAt s v).banks ≠ [] → Completes (.rowEnd v) s fun t => t = startRow s v))
  ∧ (∀ (v : Nat) (s : State), rowNext (rowUnitAt s v) = .ok none → Waits (.rowEnd v) s)

/-- Decoding and encoding of the tile-program instructions agree, both ways. -/
def Obligations.TileWordsRoundTrip : Prop :=
  (∀ i : TileInstr, i.wf = true → tileAllowed i = true → decodeTile (encodeTile i) = some i)
  ∧ (∀ (x : Nat) (i : TileInstr), decodeTile x = some i → (i ≠ .endk → encodeTile i = x) ∧ i.wf = true ∧ tileAllowed i = true)
  ∧ (∀ x : Nat, decodeTile x = some .endk ↔ x / 2 ^ 56 % 256 = 0x0F)
  ∧ (∀ i : TileInstr, encodeTile i < 2 ^ 64)

/-- Decoding and encoding of the row micro-instructions agree, both ways. -/
def Obligations.RowWordsRoundTrip : Prop :=
  (∀ i : RowInstr, i.wf = true → rowAllowed i = true → decodeRow (encodeRow i) = some i)
  ∧ (∀ (x : Nat) (i : RowInstr), decodeRow x = some i → encodeRow i = x ∧ i.wf = true ∧ rowAllowed i = true)
  ∧ (∀ i : RowInstr, encodeRow i < 2 ^ 32)

/-- REGISTER_WRITE, W1C_CLEAR_WRITE, REGISTER_ACCESS_NOT_ON, TIM_NOW_READ, HUB_DTIME_READ and PTM_DIALOGUE. -/
def Obligations.RegisterAccesses : Prop :=
  (∀ (p : RegPath) (a w : Nat) (v : Word) (s : State) (r : RegSpec), powered s = true → barUp s = true →
    pathReg s p = some a → (w = 4 ∨ w = 8) → a % w = 0 → blockOff s a = false → regSpec (a / 8 * 8) = some r →
    writeBars (crossFabric s a) a = none → a / 8 * 8 ≠ pguReg (regSheaf a) 8 →
    let x := v.toNat * 2 ^ laneShift a w % 2 ^ 64
    let m := laneSpec r a w
    let new := fun i => ((if bit m.rw i then bit x i else bit (regGet s (a / 8 * 8)) i) && !(bit m.w1c i && bit x i))
      || (bit m.w1s i && bit x i)
    Completes (.registerWrite p w v) s fun t =>
      ((isLogEntry (a / 8 * 8) = false ∨ new 63 = true) → ∀ i, i < 64 → bit (regGet t (a / 8 * 8)) i = new i)
        ∧ (isLogEntry (a / 8 * 8) = true → new 63 = false → regGet t (a / 8 * 8) = 0)
        ∧ RegsKept s t [a / 8 * 8] ∧ t = { s with regs := t.regs, doms := t.doms })
  ∧ (∀ (p : RegPath) (a : Nat) (v h : Word) (s : State) (r : RegSpec), powered s = true → barUp s = true →
    pathReg s p = some a → a % 8 = 0 → blockOff s a = false → regSpec a = some r → writeBars (crossFabric s a) a = none →
    a ≠ pguReg (regSheaf a) 8 →
    Completes (.w1cClearWrite p v h) s fun t =>
      (∀ i, i < 64 → bit r.w1c i = true → isLogEntry a = false →
        (bit h.toNat i = true → bit (regGet s a) i = true → bit (regGet t a) i = true)
          ∧ (bit h.toNat i = false → bit r.rw i = false → bit r.w1s i = false →
              bit (regGet t a) i = (bit (regGet s a) i && !bit v.toNat i)))
        ∧ RegsKept s t [a] ∧ t = { s with regs := t.regs, doms := t.doms })
  ∧ (∀ (p : RegPath) (a w : Nat) (v : Word) (s : State), powered s = true → barUp s = true → pathReg s p = some a →
    (((w ≠ 4 ∧ w ≠ 8) ∨ a % w ≠ 0) → Undefined (.registerWrite p w v) s 3)
    ∧ ((w = 4 ∨ w = 8) → a % w = 0 → blockOff s a = false →
      (regSpec (a / 8 * 8) = none → Undefined (.registerWrite p w v) s 2)
      ∧ (∀ r k, regSpec (a / 8 * 8) = some r → writeBars (crossFabric s a) a = some k → Undefined (.registerWrite p w v) s k)
      ∧ (∀ r u, regSpec (a / 8 * 8) = some r → writeBars (crossFabric s a) a = none →
          a / 8 * 8 = pguReg (regSheaf a) 8 → a % 8 = 0 → bit v.toNat 0 = true →
          initUnit (crossFabric s a) (regSheaf a) = .ok u →
          Completes (.registerWrite p w v) s fun t => t = u)
      ∧ (∀ r, regSpec (a / 8 * 8) = some r → writeBars (crossFabric s a) a = none → a / 8 * 8 = pguReg (regSheaf a) 8 →
          (a % 8 ≠ 0 ∨ bit v.toNat 0 = false) → Completes (.registerWrite p w v) s fun t => t = crossFabric s a)))
  ∧ (∀ (p : RegPath) (a w : Nat) (v : Word) (s : State), powered s = true → barUp s = true → pathReg s p = some a →
    blockOff s a = true → inRegs a = true →
    let h := regSheaf a
    let noted := fun (t : State) (wr : Nat) => bit (regGet t (pwrReg h 0x800)) 1 = true
      ∧ regGet t (pwrReg h 0x818) = counterAdd (regGet s (pwrReg h 0x818)) 1
      ∧ regGet t (pwrReg h 0x820) = 2 ^ 34 + wr * 2 ^ 33 + regOff a
      ∧ RegsKept s t [pwrReg h 0x800, pwrReg h 0x818, pwrReg h 0x820]
    ((w = 4 ∨ w = 8) → a % w = 0 → Completes (.registerWrite p w v) s fun t =>
      noted t 1 ∧ t = { s with regs := t.regs, doms := t.doms })
    ∧ (Completes (.registerAccessNotOn ⟨p, true⟩) s fun t => noted t 1 ∧ t = { s with regs := t.regs, doms := t.doms })
    ∧ (Completes (.registerAccessNotOn ⟨p, false⟩) s fun t =>
      noted t 0 ∧ t.host.readData = 2 ^ 64 - 1 ∧ t = { s with regs := t.regs, doms := t.doms, host := t.host }))
  ∧ (∀ (off w : Nat) (v : Word) (s : State), powered s = true → barUp s = true →
    (bar0 s off = .nothing ∨ (∃ x, bar0 s off = .status x) ∨ ∃ h x, bar0 s off = .counters h x) →
    Completes (.registerWrite (.bar0 off) w v) s fun t => t = s)
  ∧ (∀ (a off : Nat) (s : State), inRegs a = true → (pathReg s (.addr a) = some a)
    ∧ (0x1000000 ≤ off → off < 0x2000000 →
        pathReg s (.bar0 off) = some (0x30000000000 + (off / 0x200000 - 8) * 0x200000000 + 0x1000000 + off % 0x200000))
    ∧ (0x2000000 ≤ off → off < 0x4000000 → pathReg s (.bar0 off)
        = some (0x30000000000 + (if off < 0x3000000 then regFld s (hubReg 0x48) 2 0 else regFld s (hubReg 0x48) 6 4) * 0x200000000
            + off % 0x1000000)))
  ∧ (∀ s : State, powered s = true → barUp s = true → blockOff s (hubReg 0x50008) = false →
    Completes .timNowRead s fun t =>
      t.host.readData = nowNs s ∧ regGet t (hubReg 0x50010) = s.time.dtime % 2 ^ 16 ∧ RegsKept s t [hubReg 0x50010]
        ∧ t = { s with regs := t.regs, doms := t.doms, host := { s.host with readData := nowNs s } })
  ∧ (∀ s : State, powered s = true → barUp s = true → blockOff s (hubReg 0x50008) = true →
    Completes .timNowRead s fun t => t.host.readData = 2 ^ 64 - 1 ∧ bit (regGet t (pwrReg 0 0x800)) 1 = true)
  ∧ (∀ s : State, powered s = true → barUp s = true →
    Completes .hubDtimeRead s fun t => t = { s with host := { s.host with readData := nowNs s } })
  ∧ (∀ (n : Nat) (s : State), powered s = true → s.boot.pcieHeld = false → s.host.ptmEnable = true →
    Completes (.ptmDialogue n) s fun t => t.host.ptmRoot = n % 2 ^ 64 ∧ t.host.ptmLocal = nowNs s
      ∧ t.host.ptmSeq = (s.host.ptmSeq + 1) % 2 ^ 32 ∧ t = { s with host := t.host })
  ∧ (∀ (n : Nat) (s : State), s.host.ptmEnable = false → Waits (.ptmDialogue n) s)
  ∧ (∀ (p : RegPath) (w : Nat) (v h : Word) (o : OffAccess) (s : State), barUp s = false →
    Waits (.registerWrite p w v) s ∧ Waits (.w1cClearWrite p v h) s ∧ Waits (.registerAccessNotOn o) s ∧ Waits .timNowRead s
      ∧ Waits .hubDtimeRead s)

/-- SNAPSHOT_TICK, JOB_FAULT_QUIESCE and TEST_ACCESS_PORT_INSTRUCTION.
Clauses that rest on the model's choices: log entries 2, 74, 75, 76. -/
def Obligations.ObservationAndFault : Prop :=
  (∀ (s : State) (r : SnapRun), powered s = true → s.pmc.run = some r → r.next ≤ nowNs s →
    let tail := regFld s (pmcReg 0 0x30) 15 0
    let new := (tail + 1) % r.p.entries
    let k := (nowNs s - r.next) / r.p.period
    let next := r.next + (k + 1) * r.p.period
    (new = regFld s (pmcReg 0 0x38) 15 0 → Completes .snapshotTick s fun t =>
      t.pmc.run = some { r with next := next, missed := r.missed + 1 + k }
        ∧ bit (regGet t (pmcReg 0 8)) 2 = true
        ∧ regGet t (pmcReg 0 0x18) = counterAdd (regGet s (pmcReg 0 0x18)) 1
        ∧ regGet t (pmcReg 0 0x40) = next % 2 ^ 64 ∧ t = { s with regs := t.regs, pmc := t.pmc })
    ∧ (∀ u, new ≠ regFld s (pmcReg 0 0x38) 15 0 → devWrite s (r.p.base + r.slot * tail) (snapRecord s r) = .ok u →
      Completes .snapshotTick s fun t =>
        t.pmc.run = some { r with next := next, seq := r.seq + 1, missed := k }
          ∧ regFld t (pmcReg 0 0x30) 15 0 = new % 2 ^ 16 ∧ regGet t (pmcReg 0 0x40) = next % 2 ^ 64
          ∧ t = { u with regs := t.regs, pmc := t.pmc, host := t.host }))
  ∧ (∀ s : State, s.pmc.run = none → Waits .snapshotTick s)
  ∧ (∀ (s : State) (r : SnapRun), s.pmc.run = some r → nowNs s < r.next → Waits .snapshotTick s)
  ∧ (∀ s u : State, powered s = true → s.fault.detected ≠ [] → takeCauses s = .ok u → u.pails.busy = none →
    u.pails.deferred = [] → Completes (.jobFaultQuiesce none) s fun t => t = u)
  ∧ (∀ s : State, s.fault.detected = [] → Waits (.jobFaultQuiesce none) s)
  ∧ (∀ (s u : State) (c : Nat), powered s = true → coreEnabled s c = true →
    takeCauses (detect (regFlag s (coreReg c 8) 4 true) ⟨0x02, 0, c, 0, 0, 0xFFFF, 0⟩) = .ok u → u.pails.busy = none →
    u.pails.deferred = [] → Completes (.jobFaultQuiesce (some (.parity c))) s fun t => t = u)
  ∧ (∀ (s u : State) (n : Nat), powered s = true → n < 2 →
    takeCauses (detect s ⟨0x07, n, 0xFFFF, 0, 0, 0xFFFF, 0⟩) = .ok u → u.pails.busy = none →
    u.pails.deferred = [] → Completes (.jobFaultQuiesce (some (.queueEngine n))) s fun t => t = u)
  ∧ (∀ (s u : State) (c : Cause), s.fault.primary = none → s.boot.dev = .job → c.code < 256 → takeCause s c = .ok u →
    u.boot.dev = .faulted ∧ u.fault.primary.isSome ∧ u.fault.secondaries = 0
      ∧ regFld u (hubReg 0x70) 15 8 = c.code ∧ bit (regGet u (hubReg 0x70)) 1 = true)
  ∧ (∀ (s : State) (c : Cause) (p : Nat), s.fault.primary = some p →
    ∃ u, takeCause s c = .ok u ∧ bit (regGet u (hubReg 0x70)) 0 = true
      ∧ regGet u (hubReg 0x78) = counterAdd (regGet s (hubReg 0x78)) 1
      ∧ u.fault.secondaries = (if s.fault.secondaries < 15 then s.fault.secondaries + 1 else s.fault.secondaries)
      ∧ u.fault.primary = some p ∧ u.boot.dev = s.boot.dev)
  ∧ (∀ s : State, powered s = true →
    (Completes (.testAccessPortInstruction .bypass) s fun t => t = { s with board := { s.board with tap := .bypass } })
    ∧ (Completes (.testAccessPortInstruction .idcode) s fun t => t = { s with board := { s.board with tap := .idcode } })
    ∧ (∀ x, (x = .extest ∨ x = .acExtest) → s.boot.perst = true → anyLinkOn s = false →
        Completes (.testAccessPortInstruction x) s fun t => t = { s with board := { s.board with tap := x } })
    ∧ (∀ x, (x = .extest ∨ x = .acExtest) → (s.boot.perst = false ∨ anyLinkOn s = true) →
        Undefined (.testAccessPortInstruction x) s 57)
    ∧ (s.boot.straps.testmode = true →
        exec (.testAccessPortInstruction .manufacturing) s = .refused (.notDescribed "manufacturing test functions"))
    ∧ (s.boot.straps.testmode = false → Waits (.testAccessPortInstruction .manufacturing) s))

/-- PCIE_CONFIG_REQUEST, BAR2_ACCESS, HOST_COMPLETION, PCIE_COMPLETION_TIMEOUT and MSIX_VECTOR_UNMASK.
Clauses that rest on the model's choices: log entries 2, 21, 23, 24. -/
def Obligations.HostAccesses : Prop :=
  (∀ (r : CfgReq) (s : State), powered s = true → s.boot.pcieHeld = false →
    (s.boot.dev = .boot → Completes (.pcieConfigRequest r) s fun t =>
      t = { s with host := { s.host with cfgAnswer := none } })
    ∧ (s.boot.dev ≠ .boot → Completes (.pcieConfigRequest r) s fun t =>
      t.host.cfgAnswer.isSome
        ∧ (match r with
          | .read off => (off / 4 = 2 → ∃ x, t.host.cfgAnswer = some x ∧ x / 2 ^ 8 = 0x120000)
              ∧ t = { s with host := { s.host with cfgAnswer := t.host.cfgAnswer }, free := s.free + 1 }
          | .write off v => FMap.find t.host.cfg (off / 4 * 4) = some (v % 2 ^ 32)
              ∧ t = { s with host := { s.host with cfgAnswer := some 0, cfg := t.host.cfg } }
          | .busMaster b => t = { s with host := { s.host with cfgAnswer := some 0, busMaster := b } }
          | .relaxedOrdering b => t = { s with host := { s.host with cfgAnswer := some 0, relaxedOrdering := b } }
          | .msixEnable b => t = { s with host := { s.host with cfgAnswer := some 0, msixEnable := b } }
          | .bar2Size n => t = { s with host := { s.host with
              cfgAnswer := some 0, bar2Log := (if 30 ≤ n ∧ n < 40 then n else s.host.bar2Log) } }
          | .ptmEnable b => t = { s with host := { s.host with cfgAnswer := some 0, ptmEnable := b } }
          | .lowPower b => domOn t ⟨.host, 0⟩ = !b
              ∧ t = { s with host := { s.host with cfgAnswer := some 0 }, doms := t.doms })))
  ∧ (∀ (off n : Nat) (s s1 : State) (bs : List Byte) (p : Bool), powered s = true → barUp s = true → bar2Ok s = true →
    off + n ≤ 2 ^ s.host.bar2Log →
    stopRead s (some hostStop) (0x10000000000 + regFld s (hubReg 0x50) 8 0 * 2 ^ 30 + off) n = .ok (bs, p, s1) →
    Completes (.bar2Access (.read off n)) s fun t => t = { s1 with host := { s1.host with bar2Data := (bs, p) } })
  ∧ (∀ (off : Nat) (d : List Byte) (s u : State), powered s = true → barUp s = true → bar2Ok s = true →
    off + d.length ≤ 2 ^ s.host.bar2Log →
    stopWrite s (some hostStop) (0x10000000000 + regFld s (hubReg 0x50) 8 0 * 2 ^ 30 + off) d = .ok u →
    Completes (.bar2Access (.write off d)) s fun t => t = u)
  ∧ (∀ (r : Bar2Req) (s : State), powered s = true → barUp s = true →
    ((bar2Span r).1 + (bar2Span r).2 ≤ 2 ^ s.host.bar2Log → bar2Ok s = false → Undefined (.bar2Access r) s 55)
    ∧ (2 ^ s.host.bar2Log < (bar2Span r).1 + (bar2Span r).2 → Waits (.bar2Access r) s))
  ∧ (∀ (txn c ch seq sram bus n : Nat) (bs : List Byte) (s : State), powered s = true →
    FMap.find s.rings.out txn = some (.host c ch seq sram bus n false) → bs.length = n →
    Completes (.hostCompletion txn (.data bs)) s fun t =>
      t.mem = storeBytes s.mem (2 ^ 64 + bus) bs
        ∧ FMap.find t.rings.out txn = some (.dma c ch seq (hostAddr s bus) sram n false)
        ∧ (∃ p : Packet, Sends s t hostStop p ∧ p.ring < 4 ∧ p.ty = .rdResp ∧ p.dst = coreStop c ∧ p.data = bs ∧ p.poison = false ∧ p.txn = txn)
        ∧ t = { s with mem := t.mem, rings := t.rings })
  ∧ (∀ (txn c ch seq sram bus n : Nat) (bs : List Byte) (s : State), powered s = true →
    FMap.find s.rings.out txn = some (.host c ch seq sram bus n true) →
    Completes (.hostCompletion txn (.data bs)) s fun t =>
      FMap.find t.rings.out txn = some (.dma c ch seq (hostAddr s bus) sram n true)
        ∧ (∃ p : Packet, Sends s t hostStop p ∧ p.ty = .wrAck ∧ p.dst = coreStop c ∧ p.txn = txn)
        ∧ t = { s with rings := t.rings })
  ∧ (∀ (txn c ch seq sram bus n : Nat) (wr : Bool) (i : Instr) (s : State), powered s = true →
    FMap.find s.rings.out txn = some (.host c ch seq sram bus n wr) →
    (i = .hostCompletion txn .failed ∨ i = .pcieCompletionTimeout txn) →
    Completes i s fun t =>
      (∃ d : Cause, t.fault.detected = s.fault.detected ++ [d] ∧ d.code = 1 ∧ d.sub = 2)
        ∧ (∃ p : Packet, Sends s t hostStop p ∧ p.dst = coreStop c
            ∧ (wr = false → p.ty = .rdResp ∧ p.poison = true ∧ p.bytes = n) ∧ (wr = true → p.ty = .wrAck))
        ∧ t = { s with rings := t.rings, fault := { s.fault with detected := t.fault.detected } })
  ∧ (∀ (txn : Nat) (a : HostAnswer) (s : State), FMap.find s.rings.out txn = none →
    Waits (.hostCompletion txn a) s ∧ Waits (.pcieCompletionTimeout txn) s)
  ∧ (∀ (v : Nat) (s : State), powered s = true → barUp s = true → v < 2048 →
    (v ∈ s.host.pendingBits → s.host.msixEnable = true → s.host.busMaster = true →
      Completes (.msixVectorUnmask v) s fun t => t.host.sent = s.host.sent ++ [v] ∧ v ∉ t.host.pendingBits
        ∧ v ∈ t.host.unmasked ∧ t = { s with host := t.host })
    ∧ (v ∈ s.host.pendingBits → s.host.msixEnable = true → s.host.busMaster = false →
      Completes (.msixVectorUnmask v) s fun t => t.host.sent = s.host.sent ∧ v ∉ t.host.pendingBits ∧ v ∈ t.host.unmasked
        ∧ regGet t (hubReg 0x60) = counterAdd (regGet s (hubReg 0x60)) 1 ∧ t = { s with host := t.host, regs := t.regs })
    ∧ ((v ∉ s.host.pendingBits ∨ s.host.msixEnable = false) → Completes (.msixVectorUnmask v) s fun t => t.host.sent = s.host.sent ∧ v ∈ t.host.unmasked
        ∧ t = { s with host := { s.host with unmasked := t.host.unmasked } }))

/-- RING_PACKET_INJECT, EMPTY_SLOT_REQUEST, PACKET_TURNED_AWAY, RING_FLIT_UE, BRIDGE_FLIT_CRC_ERROR, BRIDGE_LANE_RETRAIN and
BRIDGE_LANE_RETRAIN_END.
Clauses that rest on the model's choices: log entries 2, 47, 48, 49, 51, 85. -/
def Obligations.RingMovement : Prop :=
  (∀ (stop ring : Nat) (s : State) (q : Packet) (d : FMap Nat), powered s = true → stopLive stop = true → ring < 4 →
    leavesSlots s stop ring = false → serveStop s stop ring = some (q, d) →
    let p := aimPacket s stop q
    (domOn s ⟨.fabric, stop / 256⟩ = true →
      (∀ r, steerPacket s stop p = some r → Completes (.ringPacketInject stop ring) s fun t => ∃ u : State,
        FMap.find u.rings.flight s.rings.nextId = some { p with
            ring := r.1, back := r.2, entered := stop, release := none, owner := (if p.ty = .msg then p.owner else none) }
          ∧ (∀ k, k ≠ s.rings.nextId → flightAt u k = flightAt s k) ∧ u.rings.nextId = s.rings.nextId + 1
          ∧ injectQ u stop ring = (injectQ s stop ring).erase q
          ∧ (∀ a b, 4 * a + b ≠ 4 * stop + ring → injectQ u a b = injectQ s a b)
          ∧ 4 * stop + ring ∉ u.rings.slotReq ∧ u.rings.deficit = d
          ∧ regGet u (stopCtr (stop / 256) (stop % 256) 0) = counterAdd (regGet s (stopCtr (stop / 256) (stop % 256) 0)) 1
          ∧ RegsKept s u [stopCtr (stop / 256) (stop % 256) 0] ∧ (q.ty ≠ .reduce → u.cores = s.cores)
          ∧ u = { s with rings := u.rings, regs := u.regs, cores := u.cores }
          ∧ t = afterInject u stop ∧ (stopLink stop = none → t = u))
      ∧ (steerPacket s stop p = none → Completes (.ringPacketInject stop ring) s fun t => ∃ u : State,
        u.rings.flight = s.rings.flight ∧ injectQ u stop ring = (injectQ s stop ring).erase q
          ∧ bit (regGet u (rngReg (stop / 256) 8)) 1 = true
          ∧ regGet u (rngReg (stop / 256) 0x28) = counterAdd (regGet s (rngReg (stop / 256) 0x28)) 1
          ∧ (∃ c : Cause, u.fault.detected = s.fault.detected ++ [c] ∧ c.code = 3 ∧ c.sub = 1 ∧ c.unit = stop ∧ c.addr = p.addr)
          ∧ u = { s with rings := u.rings, regs := u.regs, cores := u.cores, fault := u.fault }
          ∧ t = afterInject u stop ∧ (stopLink stop = none → t = u)))
    ∧ (domOn s ⟨.fabric, stop / 256⟩ = false → Completes (.ringPacketInject stop ring) s fun t =>
        t = levelWake s ⟨.fabric, stop / 256⟩)
    ∧ (∀ x ∈ atStop s stop ring, x.cls = 0 → mayLeave s x = true → q.cls = 0)
    ∧ q ∈ atStop s stop ring ∧ mayLeave s q = true)
  ∧ (∀ (stop ring : Nat) (s : State), (serveStop s stop ring = none ∨ leavesSlots s stop ring = true) →
    Waits (.ringPacketInject stop ring) s)
  ∧ (∀ (stop ring : Nat) (s : State), leavesSlots s stop ring = true →
    4 * stop + ring ∉ s.rings.slotReq ∧ ∃ k ∈ s.rings.slotReq, k % 4 = ring ∧ k / 1024 = stop / 256)
  ∧ (∀ (stop : Nat) (p : Packet) (s : State), s.rings.lanes = [] → p.ring < 4 → steerPacket s stop p = some (p.ring, false))
  ∧ (∀ (stop : Nat) (p : Packet) (s : State) (d o : Nat), resolve s p.addr = .remote d o →
    (p.ty = .rdReq ∨ p.ty = .wr ∨ p.ty = .reduce ∨ p.ty = .signal) →
    aimPacket s stop p = { p with dst := linkStop (outLink s (stop / 256) p.ring) })
  ∧ (∀ (stop ring : Nat) (s : State), powered s = true → stopLive stop = true → ring < 4 → injectQ s stop ring ≠ [] →
    (4 * stop + ring ∉ s.rings.slotReq → Completes (.emptySlotRequest stop ring) s fun t =>
      t = { s with rings := { s.rings with slotReq := s.rings.slotReq ++ [4 * stop + ring] } })
    ∧ (4 * stop + ring ∈ s.rings.slotReq → Waits (.emptySlotRequest stop ring) s))
  ∧ (∀ (id : Nat) (p : Packet) (s : State), powered s = true → flightAt s id = some p → p.ty ≠ .mcResp →
    (ejected s id p = false → accepts s id p = false → Completes (.packetTurnedAway id) s fun t => ∃ u : State,
      u.rings.flight = s.rings.flight
        ∧ ((turnedOn s p.dst p.ring).length < 16 → tripleOf p ∈ turnedOn u p.dst p.ring)
        ∧ (∀ x, x ∈ turnedOn s p.dst p.ring → x ∈ turnedOn u p.dst p.ring)
        ∧ u = { s with rings := { s.rings with turned := u.rings.turned } } ∧ t = wakeFor u p)
    ∧ ((ejected s id p = true ∨ accepts s id p = true) → Waits (.packetTurnedAway id) s))
  ∧ (∀ (p : Packet) (s : State), p.cls = 0 → listFull s p = true → ∃ x ∈ turnedOn s p.dst p.ring, x.2.1 = 0)
  ∧ (∀ (id stop : Nat) (p : Packet) (s : State), powered s = true → flightAt s id = some p → stop / 256 < 8 →
    stop % 256 < 137 →
    (ejected s id p = false → Completes (.ringFlitUe id ⟨stop, 2⟩) s fun t =>
      flightAt t id = none ∧ (∀ k, k ≠ id → flightAt t k = flightAt s k) ∧ bit (regGet t (rngReg (stop / 256) 8)) 1 = true
        ∧ regGet t (rngReg (stop / 256) 0x28) = counterAdd (regGet s (rngReg (stop / 256) 0x28)) 1
        ∧ (∃ c : Cause, t.fault.detected = s.fault.detected ++ [c] ∧ c.code = 3 ∧ c.sub = 0 ∧ c.unit = stop ∧ c.addr = p.addr)
        ∧ RegsKept s t [rngReg (stop / 256) 8, rngReg (stop / 256) 0x28]
        ∧ t = { s with rings := t.rings, regs := t.regs, fault := t.fault })
    ∧ (ejected s id p = false → Completes (.ringFlitUe id ⟨stop, 1⟩) s fun t =>
        regGet t (rngReg (stop / 256) 0x38) = counterAdd (regGet s (rngReg (stop / 256) 0x38)) 1
          ∧ RegsKept s t [rngReg (stop / 256) 0x38] ∧ t = { s with regs := t.regs })
    ∧ (∀ n, (ejected s id p = true ∨ (n ≠ 1 ∧ n ≠ 2)) → Waits (.ringFlitUe id ⟨stop, n⟩) s))
  ∧ (∀ (id : Nat) (s : State), flightAt s id = none → Waits (.packetTurnedAway id) s ∧ ∀ stop n, Waits (.ringFlitUe id ⟨stop, n⟩) s)
  ∧ (∀ (h k : Nat) (g : Bool) (s : State), powered s = true → laneUsed s h g k = true →
    let x := laneAt s (recvKey h g k)
    let c := rngReg h (if g then 0x148 else 0x108)
    (Completes (.bridgeFlitCrcError h g k) s fun t => laneAt t (recvKey h g k) = { x with replays := x.replays + 1 }
        ∧ regGet t c = counterAdd (regGet s c) 1 ∧ RegsKept s t [c] ∧ t = { s with rings := t.rings, regs := t.regs })
    ∧ (∀ bad, x.retrain = false → 16 < x.replays →
      ((∀ n ∈ bad, n ≤ 2) → Completes (.bridgeLaneRetrain h g k bad) s fun t =>
        (laneAt t (recvKey h g k)).retrain = true ∧ (laneAt t (recvKey h g k)).up = true
          ∧ (laneAt t (recvKey h g k)).spared = (bad.take 9).foldl (· + ·) 0
          ∧ (∀ j, j ≠ recvKey h g k → laneAt t j = laneAt s j) ∧ t = { s with rings := t.rings })
      ∧ ((∃ n ∈ bad, 2 < n) → Completes (.bridgeLaneRetrain h g k bad) s fun t =>
        (laneAt t (recvKey h g k)).up = false ∧ bit (regGet t (rngReg h 8)) 0 = true
          ∧ regGet t (rngReg h 0x20) = counterAdd (regGet s (rngReg h 0x20)) 1
          ∧ (∃ m ∈ t.flash.marked, m.kind = 3 ∧ m.number = laneBridge h g ∧ m.sub = k + 4 * b2n g)
          ∧ t = { s with rings := t.rings, regs := t.regs, flash := t.flash }))
    ∧ (∀ bad, (x.retrain = true ∨ x.replays ≤ 16) → Waits (.bridgeLaneRetrain h g k bad) s)
    ∧ (x.retrain = true → Completes (.bridgeLaneRetrainEnd h g k) s fun t =>
        laneAt t (recvKey h g k) = { x with retrain := false, replays := 0 }
          ∧ (∀ j, j ≠ recvKey h g k → laneAt t j = laneAt s j) ∧ t = { s with rings := t.rings }))

/-- RD_REQ_ARRIVAL, RD_RESP_ARRIVAL, MC_RESP_DELIVERY, MC_RESP_GATEWAY, WR_ARRIVAL, WR_ACK_ARRIVAL, VAULT_REQUEST_PERFORM,
MERGE_READ_DATA, REFRESH_COMMAND and SCRUB_WORD.
Clauses that rest on the model's choices: log entries 2, 45, 46, 85. -/
def Obligations.RequestsAtTargets : Prop :=
  (∀ (id : Nat) (ups : List (Nat × Upset)) (p : Packet) (s : State), Arrives s id p .rdReq → notLink p = true →
    (∀ v off, resolve s p.addr = .vault v off → Completes (.rdReqArrival id ups) s fun t => ∃ u : State,
      flightAt u id = none ∧ (∃ r : VReq, (vaultAt u v).ringQ = (vaultAt s v).ringQ ++ [r] ∧ r.write = false ∧ r.off = off
            ∧ r.bytes = p.bytes ∧ r.merge = p.merge ∧ r.src = .ring p.src p.ring p.cls p.txn p.remote
            ∧ r.num = (vaultAt s v).nextNum)
        ∧ (vaultAt u v).nextNum = (vaultAt s v).nextNum + 1
        ∧ u = { s with rings := u.rings, vaults := u.vaults } ∧ OtherVaults s u v ∧ t = levelWake u ⟨.vault, v⟩)
    ∧ (∀ c off, resolve s p.addr = .sram c off → Completes (.rdReqArrival id ups) s fun t =>
      t = readAtCore (accept s id p) p c off ups)
    ∧ (∀ c off, resolve s p.addr = .sram c off → ups = [] → PlainSram s c off p.bytes →
      Completes (.rdReqArrival id ups) s fun t =>
        (∃ q : Packet, Sends s t p.dst q ∧ q.ty = .rdResp ∧ q.dst = p.src ∧ q.ring = p.ring ∧ q.txn = p.txn ∧ q.poison = false
          ∧ q.data = bytesAt s (sramKey c off) p.bytes)
        ∧ flightAt t id = none ∧ t = { s with rings := t.rings, free := t.free })
    ∧ (∀ bus, resolve s p.addr = .host bus →
      (∀ c ch seq a sram n b, s.host.busMaster = true → FMap.find s.rings.out p.txn = some (.dma c ch seq a sram n b) →
        Completes (.rdReqArrival id ups) s fun t =>
          FMap.find t.rings.out p.txn = some (.host c ch seq sram bus n false) ∧ t = { s with rings := t.rings })
      ∧ (s.host.busMaster = false → Completes (.rdReqArrival id ups) s fun t =>
          (∃ q : Packet, Sends s t p.dst q ∧ q.ty = .rdResp ∧ q.dst = p.src ∧ q.data = List.replicate p.bytes 0xFF)
            ∧ regGet t (hubReg 0x60) = counterAdd (regGet s (hubReg 0x60)) 1
            ∧ t = { s with rings := t.rings, regs := t.regs }))
    ∧ (∀ r, resolve s p.addr = .reg r → Undefined (.rdReqArrival id ups) s 3)
    ∧ (∀ k, resolve s p.addr = .none k → Undefined (.rdReqArrival id ups) s k))
  ∧ (∀ (id c ch seq a sram n : Nat) (p : Packet) (s : State), Arrives s id p .rdResp → notLink p = true →
    FMap.find s.rings.out p.txn = some (.dma c ch seq a sram n false) → Completes (.rdRespArrival id) s fun t =>
      t.mem = (if p.poison then (undefMem s 16 (sramKey c sram) p.data.length).mem
          else (writeMem s 16 (sramKey c sram) p.data).mem)
        ∧ FMap.find t.rings.out p.txn = none ∧ flightAt t id = none ∧ t.cores = (dmaPart s c ch seq).cores
        ∧ t = { s with rings := t.rings, mem := t.mem, marks := t.marks, cores := t.cores })
  ∧ (∀ (id : Nat) (p : Packet) (s : State), Arrives s id p .rdResp → notLink p = true → FMap.find s.rings.out p.txn = none →
    Completes (.rdRespArrival id) s fun t => t = accept s id p)
  ∧ (∀ (c ch seq : Nat) (s : State) (d : DmaOp), (channel s c ch).find? (fun e => e.seq == seq) = some d →
    (d.left ≤ 1 → (∀ e ∈ channel (dmaPart s c ch seq) c ch, e.seq ≠ seq)
      ∧ (coreAt (dmaPart s c ch seq) c).events = (coreAt s c).events ||| BitVec.ofNat 64 (2 ^ (d.evt % 64)))
    ∧ (1 < d.left → (channel (dmaPart s c ch seq) c ch).find? (fun e => e.seq == seq) = some { d with left := d.left - 1 }
      ∧ (coreAt (dmaPart s c ch seq) c).events = (coreAt s c).events))
  ∧ (∀ (id : Nat) (p : Packet) (s : State), Arrives s id p .wr → notLink p = true →
    (∀ v off, resolve s p.addr = .vault v off → Completes (.wrArrival id) s fun t => ∃ u : State,
      (∃ r : VReq, (vaultAt u v).ringQ = (vaultAt s v).ringQ ++ [r] ∧ r.write = true ∧ r.off = off ∧ r.data = p.data
          ∧ r.num = (vaultAt s v).nextNum ∧ r.src = .ring p.src p.ring p.cls p.txn p.remote)
        ∧ flightAt u id = none ∧ u = { s with rings := u.rings, vaults := u.vaults } ∧ OtherVaults s u v
        ∧ t = levelWake u ⟨.vault, v⟩)
    ∧ (∀ c off, resolve s p.addr = .sram c off → sramTaken s c off p.data.length = none → Completes (.wrArrival id) s fun t =>
      let w := writeMem s 16 (sramKey c off) p.data
      t.mem = (if p.poison then (undefMem w 16 (sramKey c off) p.data.length).mem else w.mem) ∧ flightAt t id = none
        ∧ (p.ackreq = true → ∃ q : Packet, Sends s t p.dst q ∧ q.ty = .wrAck ∧ q.dst = p.src ∧ q.txn = p.txn)
        ∧ t = { s with rings := t.rings, mem := t.mem, marks := t.marks })
    ∧ (∀ c off k, resolve s p.addr = .sram c off → sramTaken s c off p.data.length = some k → Undefined (.wrArrival id) s k)
    ∧ (∀ bus, resolve s p.addr = .host bus → writeBarred s (hostKey bus) p.data.length = none →
      (s.host.busMaster = true → Completes (.wrArrival id) s fun t =>
        t.mem = storeBytes s.mem (hostKey bus) p.data ∧ t.host.writes = (bus, s.host.relaxedOrdering) :: s.host.writes
          ∧ t = { s with rings := t.rings, mem := t.mem, host := { s.host with writes := t.host.writes } }
          ∧ (∀ c ch seq a sram n, p.ackreq = true → FMap.find s.rings.out p.txn = some (.dma c ch seq a sram n true) →
              FMap.find t.rings.out p.txn = some (.host c ch seq sram bus n true)))
      ∧ (s.host.busMaster = false → Completes (.wrArrival id) s fun t =>
        regGet t (hubReg 0x60) = counterAdd (regGet s (hubReg 0x60)) 1 ∧ RegsKept s t [hubReg 0x60]
          ∧ (p.ackreq = true → ∃ q : Packet, Sends s t p.dst q ∧ q.ty = .wrAck ∧ q.dst = p.src ∧ q.txn = p.txn)
          ∧ t = { s with rings := t.rings, regs := t.regs }))
    ∧ (∀ bus k, resolve s p.addr = .host bus → writeBarred s (hostKey bus) p.data.length = some k → Undefined (.wrArrival id) s k)
    ∧ (∀ r, resolve s p.addr = .reg r → Undefined (.wrArrival id) s 3)
    ∧ (∀ k, resolve s p.addr = .none k → Undefined (.wrArrival id) s k))
  ∧ (∀ (id : Nat) (p : Packet) (s : State), Arrives s id p .wrAck →
    (∀ c ch seq a sram n, FMap.find s.rings.out p.txn = some (.dma c ch seq a sram n true) →
      Completes (.wrAckArrival id) s fun t => FMap.find t.rings.out p.txn = none ∧ t.cores = (dmaPart s c ch seq).cores
        ∧ t = { s with rings := t.rings, cores := t.cores })
    ∧ (∀ q idx, FMap.find s.rings.out p.txn = some (.sync q idx) → Completes (.wrAckArrival id) s fun t =>
        FMap.find t.rings.out p.txn = none ∧ t.wq = (signalDone s q idx).wq ∧ t.mem = s.mem)
    ∧ (∀ c psn, FMap.find s.rings.out p.txn = some (.stoby c psn) → Completes (.wrAckArrival id) s fun t =>
        FMap.find t.rings.out p.txn = none ∧ t.stoby = (stobyPerformed s c psn).stoby
          ∧ t = { s with rings := t.rings, stoby := t.stoby })
    ∧ (FMap.find s.rings.out p.txn = none → Completes (.wrAckArrival id) s fun t => t = accept s id p))
  ∧ (∀ (id c : Nat) (p : Packet) (s : State) (i : Instr), powered s = true → flightAt s id = some p → notLink p = true →
    (p.ty, i) ∈ [(PType.rdReq, Instr.rdReqArrival id []), (.rdResp, .rdRespArrival id), (.wr, .wrArrival id),
      (.reduce, .reduceDestinationAdd id)] → toCore s p = some c →
    (ejected s id p = false → accepts s id p = true → direct s c p = false → Completes i s fun t => ∃ u : State,
      ejectQ u p.dst = ejectQ s p.dst ++ [id] ∧ flightAt u id = some p ∧ tripleOf p ∉ turnedOn u p.dst p.ring
        ∧ u = { s with rings := u.rings } ∧ t = wakeFor u p)
    ∧ (ejected s id p = true → ejectNext s id p = false → Waits i s))
  ∧ (∀ (id c off : Nat) (p : Packet) (s : State), powered s = true → flightAt s id = some p → notLink p = true → p.ty = .wr →
    resolve s p.addr = .sram c off → ejectNext s id p = true → sramTaken s c off p.data.length = none → p.poison = false →
    Completes (.wrArrival id) s fun t =>
      ejectQ t p.dst = (ejectQ s p.dst).drop 1 ∧ flightAt t id = none ∧ t.mem = (writeMem s 16 (sramKey c off) p.data).mem
        ∧ (p.ackreq = true → ∃ q : Packet, Sends s t p.dst q ∧ q.ty = .wrAck ∧ q.dst = p.src ∧ q.txn = p.txn)
        ∧ t = { s with rings := t.rings, mem := t.mem, marks := t.marks })
  ∧ (∀ (x : VaultSt) (a b : VReq) (as bs : List VReq), x.shaftQ = a :: as → x.ringQ = b :: bs →
    ((reqHeld x.shaftQ b = true ∨ (x.ringNext = false ∧ reqHeld x.ringQ a = false)) →
      takeReq x = some (a, takeShaft x as) ∧ (takeShaft x as).ringNext = true ∧ (takeShaft x as).ringQ = x.ringQ)
    ∧ (reqHeld x.shaftQ b = false → (x.ringNext = true ∨ reqHeld x.ringQ a = true) →
      takeReq x = some (b, { x with ringQ := bs, ringNext := false })))
  ∧ (∀ (l : List VReq) (r : VReq), reqHeld l r = true ↔ ∃ o ∈ l.take 32, o.num < r.num ∧ reqsMeet o r = true)
  ∧ (∀ (v : Nat) (ups : List (Nat × Upset)) (s : State) (r : VReq) (x : VaultSt), powered s = true → vaultInService s v = true →
    domOn s ⟨.vault, v⟩ = true → takeReq (vaultAt s v) = some (r, x) → replyRoom s v r = true → r.write = true → r.data ≠ [] →
    PlainWords s v r.off r.data.length →
    Completes (.vaultRequestPerform v ups) s fun t =>
      t.mem = storeBytes s.mem (vaultKey v r.off) r.data ∧ MemKept s t (vaultKey v r.off) r.data.length
        ∧ (vaultAt t v).shaftQ = x.shaftQ ∧ (vaultAt t v).ringQ = x.ringQ ∧ OtherVaults s t v
        ∧ (∀ m ∈ (vaultAt t v).merges, m.block = r.off / 256 → m.closed = true)
        ∧ (∀ c k cls txn rem, r.src = .ring c k cls txn rem →
            (∃ q : Packet, Sends s t (coreStop v) q ∧ q.ty = .wrAck ∧ q.dst = c ∧ q.ring = k ∧ q.txn = txn) ∧ t.cores = s.cores)
        ∧ (∀ ch seq sram, r.src = .shaft ch seq sram → t.rings = s.rings ∧ t.cores = (dmaPart s v ch seq).cores))
  ∧ (∀ (v : Nat) (s : State) (r : VReq) (x : VaultSt), powered s = true → vaultInService s v = true →
    domOn s ⟨.vault, v⟩ = true → takeReq (vaultAt s v) = some (r, x) → replyRoom s v r = true → r.write = false →
    PlainWords s v r.off r.bytes →
    let data := bytesAt s (vaultKey v r.off) r.bytes
    ((r.merge = false ∨ (mergeFor x (r.off / 256) = none ∧ freeMergeId x = none)) →
      Completes (.vaultRequestPerform v []) s fun t =>
        (vaultAt t v).shaftQ = x.shaftQ ∧ (vaultAt t v).ringQ = x.ringQ ∧ OtherVaults s t v
          ∧ (∀ c k cls txn rem, r.src = .ring c k cls txn rem → t.mem = s.mem ∧ t.cores = s.cores
              ∧ ∃ q : Packet, Sends s t (coreStop v) q ∧ q.ty = .rdResp ∧ q.dst = c ∧ q.ring = k ∧ q.txn = txn ∧ q.data = data
                ∧ q.poison = false)
          ∧ (∀ ch seq sram, r.src = .shaft ch seq sram → t.rings = s.rings
              ∧ ((∃ d ∈ channel s v ch, d.seq = seq) → t.mem = (writeMem s 16 (sramKey v sram) data).mem
                  ∧ t.cores = (dmaPart s v ch seq).cores)
              ∧ ((∀ d ∈ channel s v ch, d.seq ≠ seq) → t.mem = s.mem ∧ t.cores = s.cores)))
    ∧ (∀ m, r.merge = true → mergeFor x (r.off / 256) = some m → Completes (.vaultRequestPerform v []) s fun t =>
        (∃ n ∈ (vaultAt t v).merges, n = { m with reqs := m.reqs ++ [r] }) ∧ t.mem = s.mem ∧ t.rings = s.rings
          ∧ regGet t (vltCtr v 4) = counterAdd (regGet s (vltCtr v 4)) 1)
    ∧ (∀ k, r.merge = true → mergeFor x (r.off / 256) = none → freeMergeId x = some k →
      Completes (.vaultRequestPerform v []) s fun t =>
        (∃ m : Merge, (vaultAt t v).merges = x.merges ++ [m] ∧ m.id = k ∧ m.block = r.off / 256 ∧ m.closed = false
          ∧ m.data = data ∧ m.poison = false ∧ m.reqs = [r]) ∧ t.mem = s.mem ∧ t.rings = s.rings))
  ∧ (∀ (v : Nat) (ups : List (Nat × Upset)) (s : State),
    (vaultInService s v = false ∨ domOn s ⟨.vault, v⟩ = false ∨ takeReq (vaultAt s v) = none
      ∨ ∃ r x, takeReq (vaultAt s v) = some (r, x) ∧ replyRoom s v r = false) → Waits (.vaultRequestPerform v ups) s)
  ∧ (∀ (v k : Nat) (s : State) (m : Merge), powered s = true → (vaultAt s v).merges.find? (fun e => e.id == k) = some m →
    (∀ r c cls txn rem ring, m.reqs = [r] → r.src = .ring c ring cls txn rem → vaultOutRoom s v 5 = true →
      Completes (.mergeReadData v k) s fun t =>
      (∃ q : Packet, Sends s t (coreStop v) q ∧ q.ty = .rdResp ∧ q.dst = c ∧ q.txn = txn ∧ q.data = m.data ∧ q.poison = m.poison)
        ∧ (∀ e ∈ (vaultAt t v).merges, e.id ≠ k) ∧ t = { s with rings := t.rings, vaults := t.vaults })
    ∧ (2 ≤ m.reqs.length → (∀ r ∈ m.reqs, ∃ c txn, c < 1024 ∧ reqStop r = some (coreStop c, txn)) → v < 1024 →
      vaultOutRoom s v (mergedFlits v m) = true → Completes (.mergeReadData v k) s fun t => ∃ qs : List Packet,
        injectQ t (coreStop v) m.ring = injectQ s (coreStop v) m.ring ++ qs
          ∧ (∀ q ∈ qs, q.ty = .mcResp ∧ q.data = m.data ∧ q.poison = m.poison ∧ q.sheaf = v / 128
              ∧ q.addr = vaultAddr v (m.block * 256))
          ∧ (∀ r ∈ m.reqs, ∀ c txn, c < 1024 → reqStop r = some (coreStop c, txn) → ∃ q ∈ qs,
              (c / 128 = v / 128 → c % 128 ∈ q.stopmask)
              ∧ (c / 128 ≠ v / 128 → ∃ l, (c / 128, l) ∈ q.sheafmask ∧ c % 128 ∈ l))
          ∧ regGet t (vltCtr v 5) = counterAdd (regGet s (vltCtr v 5)) 1
          ∧ (∀ e ∈ (vaultAt t v).merges, e.id ≠ k)
          ∧ t = { s with rings := t.rings, vaults := t.vaults, regs := t.regs })
    ∧ (mergedFlits v m ≠ 0 → vaultOutRoom s v (mergedFlits v m) = false → Waits (.mergeReadData v k) s))
  ∧ (∀ (v k : Nat) (s : State), (vaultAt s v).merges.find? (fun e => e.id == k) = none → Waits (.mergeReadData v k) s)
  ∧ (∀ (id c : Nat) (s : State) (p : Packet), powered s = true → flightAt s id = some p → p.ty = .mcResp →
    p.sheaf = c / 128 → c % 128 ∈ p.stopmask →
    (domOn s ⟨.core, c⟩ = true → Completes (.mcRespDelivery id c) s fun t =>
      (∀ q, flightAt t id = some q → c % 128 ∉ q.stopmask)
        ∧ (∀ x ch seq a sram n, (s.rings.out.filter fun e => readsBlock s c p e.2) = [(x, .dma c ch seq a sram n false)] →
            FMap.find s.rings.out x = some (.dma c ch seq a sram n false) →
            p.poison = false → t.mem = (writeMem s 16 (sramKey c sram) p.data).mem
              ∧ t.cores = (dmaPart s c ch seq).cores ∧ FMap.find t.rings.out x = none)
        ∧ ((s.rings.out.filter fun e => readsBlock s c p e.2) = [] → t.mem = s.mem ∧ t.cores = s.cores)
        ∧ t = { s with rings := t.rings, mem := t.mem, marks := t.marks, cores := t.cores })
    ∧ (domOn s ⟨.core, c⟩ = false → Completes (.mcRespDelivery id c) s fun t => t = levelWake s ⟨.core, c⟩))
  ∧ (∀ (c : Nat) (s : State) (p : Packet) (d ch seq a sram n : Nat) (w : Bool),
    readsBlock s c p (.dma d ch seq a sram n w) = true →
      d = c ∧ a = p.addr ∧ n = p.bytes ∧ w = false ∧ ∃ o ∈ channel s c ch, o.seq = seq ∧ o.merge = true)
  ∧ (∀ (id h : Nat) (s : State) (p : Packet) (l : List Nat), powered s = true → flightAt s id = some p → p.ty = .mcResp →
    FMap.find p.sheafmask h = some l → nextMc p h = true → Completes (.mcRespGateway id h) s fun t =>
      (∃ qs : List Packet, injectQ t (stopId h (if goesForward p.ring p.sheaf h != p.back then 0 else 1)) p.ring
            = injectQ s (stopId h (if goesForward p.ring p.sheaf h != p.back then 0 else 1)) p.ring ++ qs
          ∧ (∀ q ∈ qs, q.data = p.data ∧ q.addr = p.addr ∧ q.sheaf = h)
          ∧ (h < 8 → ∀ i ∈ l, i < 128 → ∃ q ∈ qs, i ∈ q.stopmask))
        ∧ (∀ q, flightAt t id = some q → FMap.find q.sheafmask h = none)
        ∧ t = { s with rings := t.rings })
  ∧ (∀ (v l : Nat) (w : Bool) (s : State), powered s = true → vaultInService s v = true → (domAt s ⟨.vault, v⟩).st ≠ .off → l < 5 →
    (windowOk s v w = true → Completes (.refreshCommand v l w) s fun t =>
      bit (regGet t (vltReg v 8)) 0 = w ∧ bit (regGet t (vltReg v 0)) 3 = w
        ∧ (domOn s ⟨.vault, v⟩ = true → regGet t (vltCtr v 6) = counterAdd (regGet s (vltCtr v 6)) 1)
        ∧ (domOn s ⟨.vault, v⟩ = false → regGet t (vltCtr v 6) = regGet s (vltCtr v 6))
        ∧ RegsKept s t [vltReg v 8, vltReg v 0, vltCtr v 6] ∧ t = { s with regs := t.regs })
    ∧ (windowOk s v w = false → Waits (.refreshCommand v l w) s))
  ∧ (∀ (v : Nat) (s : State), ((∃ x ∈ layerTemps s v, 84 < x) → windowOk s v false = false ∧ windowOk s v true = true)
    ∧ ((∀ x ∈ layerTemps s v, x ≤ 82) → windowOk s v false = true))
  ∧ (∀ (v : Nat) (u : Option Upset) (s : State), powered s = true → scrubRuns s v = true →
    let off := regFld s (vltReg v 0x38) 29 5 * 32
    (badChecks s v off 32 = true → Undefined (.scrubWord v u) s 40)
    ∧ (badChecks s v off 32 = false → Completes (.scrubWord v u) s fun t =>
      (off + 32 < 0x1E000000 → regFld t (vltReg v 0x38) 29 5 = off / 32 + 1)
        ∧ (0x1E000000 ≤ off + 32 → regFld t (vltReg v 0x38) 29 5 = 0
            ∧ regFld t (vltReg v 0x38) 63 32 = min (regFld s (vltReg v 0x38) 63 32 + 1) (2 ^ 32 - 1)))
    ∧ (badChecks s v off 32 = false → u = none → FMap.find s.marks (vaultKey v off) = none → Completes (.scrubWord v u) s fun t =>
        regGet t (vltCtr v 0) = counterAdd (regGet s (vltCtr v 0)) 1
          ∧ RegsKept s t [vltCtr v 0, vltReg v 0x38] ∧ t = { s with regs := t.regs })
    ∧ (∀ e, badChecks s v off 32 = false → u = none → FMap.find s.marks (vaultKey v off) = some (.err [e]) → Completes (.scrubWord v u) s fun t =>
        FMap.find t.marks (vaultKey v off) = none ∧ regGet t (vltReg v 0x10) = counterAdd (regGet s (vltReg v 0x10)) 1
          ∧ t.mem = s.mem))
  ∧ (∀ (v : Nat) (u : Option Upset) (s : State), scrubRuns s v = false → Waits (.scrubWord v u) s)

/-- REDUCE_PASS_STOP, REDUCE_HOLD_RELEASE, REDUCE_DESTINATION_ADD, TAG_NOTICE_ARRIVAL, REDUCE_TIMEOUT, SIGNAL_ARRIVAL,
SIG_ACK_ARRIVAL and MSG_ARRIVAL.
Clauses that rest on the model's choices: log entries 2, 47, 50. -/
def Obligations.RingReduceSignals : Prop :=
  (∀ (id stop : Nat) (p : Packet) (s : State), powered s = true → flightAt s id = some p → p.ty = .reduce →
    ejected s id p = false → passes s p stop = true →
    (∀ e, (heldAt s stop).find? (fun e => sameRun e.p p) = some e → Completes (.reducePassStop id stop) s fun t =>
      flightAt t id = none ∧ (∃ x ∈ heldAt t stop, x.id = e.id ∧ x.p = combine e.p p)
        ∧ (combine e.p p).contrib = e.p.contrib + p.contrib
        ∧ regGet t (stopCtr (stop / 256) (stop % 256) 2) = counterAdd (regGet s (stopCtr (stop / 256) (stop % 256) 2)) 1
        ∧ t = { s with rings := t.rings, regs := t.regs })
    ∧ ((heldAt s stop).find? (fun e => sameRun e.p p) = none →
      (∀ k, mayHold s stop p = true → freeHeld (heldAt s stop) = some k → Completes (.reducePassStop id stop) s fun t =>
        flightAt t id = none
          ∧ heldAt t stop = heldAt s stop ++ [⟨k, { p with held := (if stop % 256 < 2 then p.held else p.held + 1) }⟩]
          ∧ (∀ e ∈ heldAt s stop, e.id ≠ k) ∧ t = { s with rings := t.rings })
      ∧ ((mayHold s stop p = false ∨ freeHeld (heldAt s stop) = none) → Waits (.reducePassStop id stop) s)))
  ∧ (∀ (stop k : Nat) (s : State) (e : HeldRed), powered s = true → (heldAt s stop).find? (fun x => x.id == k) = some e →
    Completes (.reduceHoldRelease stop k) s fun t =>
      heldAt t stop = (heldAt s stop).filter (fun x => x.id != k) ∧ Sends s t stop e.p ∧ t = { s with rings := t.rings })
  ∧ (∀ (stop k : Nat) (s : State), (heldAt s stop).find? (fun x => x.id == k) = none → Waits (.reduceHoldRelease stop k) s)
  ∧ (∀ (id : Nat) (p : Packet) (s u : State), Arrives s id p .reduce → notLink p = true →
    addAtDest (accept s id p) p = .ok u →
    let e := (tagEntry s p.dst p.rtag).getD ⟨p.rtag, p.relems * p.rcount, 0, (stopCore p.dst).getD 0, p.ring⟩
    let got := e.received + redCount p * p.contrib
    (e.expected ≠ p.relems * p.rcount → Undefined (.reduceDestinationAdd id) s 44)
    ∧ (e.expected = p.relems * p.rcount → e.expected < got → Undefined (.reduceDestinationAdd id) s 46)
    ∧ (e.expected = p.relems * p.rcount → got < e.expected → Completes (.reduceDestinationAdd id) s fun t =>
        tagEntry t p.dst p.rtag = some { e with received := got } ∧ t = { u with rings := t.rings })
    ∧ (e.expected = p.relems * p.rcount → got = e.expected → Completes (.reduceDestinationAdd id) s fun t =>
        tagEntry t p.dst p.rtag = none ∧ t = { u with rings := t.rings }
          ∧ ∃ q : Packet, Sends s t p.dst q ∧ q.ty = .tagNotice ∧ q.dst = p.dst ∧ q.rtag = p.rtag))
  ∧ (∀ (p : Packet) (s : State) (c off : Nat), resolve s p.addr = .sram c off → 0 < redCount p →
    domOn s ⟨.core, c⟩ = true →
    let n := redCount p * slotBytes p.efmt
    let lo := off / 16 * 16
    let ws := addWords p (off - lo) (bytesAt s (sramKey c lo) (roundUp (off + n) 16 - lo))
    PlainSram s c lo (roundUp (off + n) 16 - lo) →
    (sramTaken s c lo ws.length = none → ∃ u, addAtDest s p = .ok u ∧ u.rings = s.rings
      ∧ u.mem = (writeMem s 16 (sramKey c lo) ws).mem)
    ∧ (∀ k, sramTaken s c lo ws.length = some k → addAtDest s p = .error (.undefinedCase k)))
  ∧ (∀ (p : Packet) (s : State) (k : Nat), resolve s p.addr = .none k → addAtDest s p = .error (.undefinedCase k))
  ∧ (∀ (id c : Nat) (p : Packet) (s : State), Arrives s id p .tagNotice → stopCore p.dst = some c →
    (coreEnabled s c = false → Completes (.tagNoticeArrival id) s fun t =>
      regGet t (stopCtr (p.dst / 256) (p.dst % 256) 3) = counterAdd (regGet s (stopCtr (p.dst / 256) (p.dst % 256) 3)) 1
        ∧ t = { s with rings := t.rings, regs := t.regs })
    ∧ (coreEnabled s c = true → reduceOf s c p.rtag = none → Completes (.tagNoticeArrival id) s fun t =>
      ((coreAt s c).tags.length < 64 → (coreAt t c).tags = (coreAt s c).tags ++ [p.rtag])
        ∧ (64 ≤ (coreAt s c).tags.length → (coreAt t c).heldTags = (coreAt s c).heldTags ++ [p.rtag])
        ∧ OtherCores s t c ∧ t = { s with rings := t.rings, cores := t.cores })
    ∧ (∀ q i, coreEnabled s c = true → reduceOf s c p.rtag = some (q, i) → Completes (.tagNoticeArrival id) s fun t =>
      t.wq = (endItem s q i.idx stOk).wq ∧ (∀ d ∈ i.runCores, (coreAt t d).running = false ∧ (coreAt t d).owner = none)
        ∧ t = { s with rings := t.rings, cores := t.cores, wq := t.wq }))
  ∧ (∀ (stop tag : Nat) (s : State), powered s = true →
    (∀ e, tagEntry s stop tag = some e → Completes (.reduceTimeout stop tag) s fun t =>
      tagEntry t stop tag = none ∧ bit (regGet t (rngReg (stop / 256) 8)) 2 = true
        ∧ regGet t (rngReg (stop / 256) 0x30) = counterAdd (regGet s (rngReg (stop / 256) 0x30)) 1
        ∧ (∃ c : Cause, t.fault.detected = s.fault.detected ++ [c] ∧ c.code = 4 ∧ c.sub = 0 ∧ c.unit = stop)
        ∧ t = { s with rings := t.rings, regs := t.regs, fault := t.fault })
    ∧ (tagEntry s stop tag = none →
      (redwStarves s stop tag = true → Completes (.reduceTimeout stop tag) s fun t =>
        (∃ c : Cause, t.fault.detected = s.fault.detected ++ [c] ∧ c.code = 4 ∧ c.sub = 1 ∧ c.unit = stop) ∧ t.rings = s.rings)
      ∧ ((redwStarves s stop tag = false ∨ noticeOut s stop tag = true) → Waits (.reduceTimeout stop tag) s)))
  ∧ (∀ (id c : Nat) (p : Packet) (s : State), Arrives s id p .signal → stopCore p.dst = some c →
    Completes (.signalArrival id) s fun t =>
      (coreAt t c).events = (coreAt s c).events ||| BitVec.ofNat 64 (2 ^ (p.ev % 64)) ∧ OtherCores s t c
        ∧ (∃ q : Packet, Sends s t p.dst q ∧ q.ty = .sigAck ∧ q.dst = p.src ∧ q.txn = p.txn)
        ∧ t = { s with rings := t.rings, cores := t.cores })
  ∧ (∀ (id : Nat) (p : Packet) (s : State), Arrives s id p .sigAck →
    (∀ c seq, FMap.find s.rings.out p.txn = some (.signal c seq) → Completes (.sigAckArrival id) s fun t =>
      FMap.find t.rings.out p.txn = none ∧ (∀ o ∈ (coreAt t c).outgoing, ¬(o.seq = seq ∧ o.fence = 7)) ∧ OtherCores s t c
        ∧ t = { s with rings := t.rings, cores := t.cores })
    ∧ (∀ q idx, FMap.find s.rings.out p.txn = some (.sync q idx) → Completes (.sigAckArrival id) s fun t =>
      FMap.find t.rings.out p.txn = none ∧ t.wq = (signalDone s q idx).wq ∧ t.mem = s.mem)
    ∧ (FMap.find s.rings.out p.txn = none → Completes (.sigAckArrival id) s fun t => t = accept s id p))
  ∧ (∀ (id : Nat) (p : Packet) (s : State), Arrives s id p .msg →
    (∀ r, p.report = some r → Completes (.msgArrival id) s fun t =>
      t.guard.reports = s.guard.reports ++ [r] ∧ t = { s with rings := t.rings, guard := { s.guard with reports := t.guard.reports } })
    ∧ (∀ c seq w, p.report = none → p.owner = some (c, seq) → (coreAt s c).drainWait = some w → w.seq = seq →
      Completes (.msgArrival id) s fun t => (coreAt t c).drainWait = some { w with acked := true } ∧ OtherCores s t c
        ∧ t = { s with rings := t.rings, cores := t.cores }))

/-- The commands of Stoby.
Clauses that rest on the model's choices: log entries 2, 53, 54, 55, 83. -/
def Obligations.Stoby : Prop :=
  (∀ (stop id c : Nat) (p : Packet) (h : OpHead) (x : SendCtx) (s s1 : State), powered s = true → (stopLink stop).isSome →
    nextAtLink s stop = some (id, p) → opHead s p = some h → openSend s (stop / 256) h p.cls = some (c, x, s1) →
    (x.unacked.length < 4096 → pathSet s1 x ≠ [] → Completes (.stobyOperationSend stop) s fun t =>
      flightAt t id = none ∧ t.mem = s.mem ∧ t.cores = s.cores
        ∧ ∃ (l d : Nat) (f : Frame) (y : SendCtx) (e : Sent), (l, d) ∈ pathSet s1 x ∧ l ∈ upLinks s (stop / 256)
          ∧ linkPaused s l p.cls = false
          ∧ f.op = h.op ∧ f.psn = x.nextPsn ∧ f.syn = x.syn ∧ f.addr = h.addr ∧ f.srcDev = ownDev s ∧ f.dstDev = h.dev
          ∧ f.dstSheaf = h.dsheaf ∧ f.srcSheaf = stop / 256 ∧ f.cls = p.cls ∧ f.srcLink = l
          ∧ f.payload = (if h.op = 6 then [] else p.data) ∧ sendAt t c = some y ∧ y.nextPsn = (x.nextPsn + 1) % 2 ^ 32
          ∧ y.entropy = (x.entropy + 1) % 2 ^ 14
          ∧ y.unacked = x.unacked ++ [e] ∧ e.frame = f ∧ e.path = (l, d)
          ∧ (LinkReady s l → ∃ o : OutFrame, t.links.tx = s.links.tx ++ [(l, o)] ∧ o.body = .stoby f ∧ o.cls = some p.cls
            ∧ o.tag = clsTag s p.cls ∧ o.etype = encapType s.links.cfg.encap s.links.cfg.ethertype
            ∧ (s.links.cfg.encap = 0 → o.ip = none)
            ∧ (s.links.cfg.encap ≠ 0 → ∃ g, o.ip = some g ∧ g.dport = s.links.cfg.udpport ∧ g.dscp = clsDscp s p.cls
              ∧ g.sport = 0xC000 + x.entropy % 2 ^ 14 ∧ g.ecn = (if s.links.cfg.ecn then 2 else 0))
            ∧ (macOk s = true → s.links.cfg.routed = false → o.dmac = s.links.cfg.macpfx ||| h.dev * 2 ^ 5 ||| d)
            ∧ (s.links.cfg.routed = true → some o.dmac = (linkAt s l).switchMac)))
    ∧ ((4096 ≤ x.unacked.length ∨ pathSet s1 x = []) → Waits (.stobyOperationSend stop) s)
    ∧ ((∃ e ∈ s.rings.flight, e.2.dst = stop ∧ (opHead s e.2).isSome ∧ e.2.cls = 0) → p.cls = 0))
  ∧ (∀ (stop id : Nat) (p : Packet) (h : OpHead) (s : State), powered s = true → (stopLink stop).isSome →
    nextAtLink s stop = some (id, p) → opHead s p = some h → openSend s (stop / 256) h p.cls = none →
    (p.held ≠ 8 → Completes (.stobyOperationSend stop) s fun t =>
      bit (regGet t (stbReg (stop / 256) 0)) 1 = true
        ∧ regGet t (stbReg (stop / 256) 0x38) = counterAdd (regGet s (stbReg (stop / 256) 0x38)) 1
        ∧ flightAt t id = some { p with held := 8 } ∧ t = { s with rings := t.rings, regs := t.regs })
    ∧ (p.held = 8 → Waits (.stobyOperationSend stop) s))
  ∧ (∀ (stop : Nat) (s : State), nextAtLink s stop = none → Waits (.stobyOperationSend stop) s)
  ∧ (∀ (s : State) (x : SendCtx) (ps : List (Nat × Nat)), ps ≠ [] → (ps.map pathKey).Nodup → ∃ (p : Nat × Nat) (y : SendCtx),
    pickPath s x ps = some (p, y) ∧ p ∈ ps ∧ y.entropy = (x.entropy + 1) % 2 ^ 14 ∧ y.unacked = x.unacked ∧ y.nextPsn = x.nextPsn
      ∧ (∀ q ∈ ps, FMap.getD x.spray (pathKey q) 0 + (pathWeight s x.dev q : Int)
          ≤ FMap.getD x.spray (pathKey p) 0 + (pathWeight s x.dev p : Int))
      ∧ FMap.getD y.spray (pathKey p) 0 = FMap.getD x.spray (pathKey p) 0 + (pathWeight s x.dev p : Int)
          - ((ps.map (pathWeight s x.dev)).foldl (· + ·) 0 : Nat)
      ∧ (∀ q ∈ ps, q ≠ p → FMap.getD y.spray (pathKey q) 0 = FMap.getD x.spray (pathKey q) 0 + (pathWeight s x.dev q : Int)))
  ∧ (∀ f : Frame, (stobyHeader f).length = 48 ∧ (reduceExt f).length = 32)
  ∧ (∀ (l op : Nat) (f : Frame) (i : Instr) (s : State), (op, i) ∈ frameCmds l f →
    (f.op ≠ op → Waits i s)
    ∧ (LinkTakes s l (.stoby f) → f.op = op → stobyOpen s l f = false → Completes i s fun t => t = rxFrame s l (frameBytes s f))
    ∧ (LinkTakes s l (.stoby f) → f.op = op → stobyOpen s l f = true →
      let r := frameSeen s l f
      (∀ u, takeFrame (rxFrame s l (frameBytes s f)) l f (nowNs s) = .ok u → Completes i s fun t => t = pfcCheck u l)
      ∧ (∀ c x, findRecv r f.srcDev f.srcSheaf f.dstSheaf f.cls = some (c, x) → recvAt r c = some x → opensAnew x f = false →
          (4096 ≤ psnDist f.psn x.next ∨ f.psn ∈ x.finished) → Completes i s fun t => ∃ u : State, t = pfcCheck u l
            ∧ regGet u (stbReg x.dsheaf 0x20) = counterAdd (regGet r (stbReg x.dsheaf 0x20)) 1
              ∧ (∃ y : RecvCtx, recvAt u c = some y ∧ y.ackNow = true ∧ y.next = x.next ∧ y.start = x.start ∧ y.window = x.window)
              ∧ u = { r with stoby := u.stoby, regs := u.regs })
      ∧ (∀ c x, findRecv r f.srcDev f.srcSheaf f.dstSheaf f.cls = some (c, x) → psnDist f.psn x.next < 4096 →
          f.psn ∉ x.finished → receivedPsn x f.psn = true → Completes i s fun t => ∃ u : State, t = pfcCheck u l
            ∧ (∃ y : RecvCtx, recvAt u c = some y ∧ y.next = x.next ∧ y.start = x.start ∧ y.window = x.window)
              ∧ u = { r with stoby := u.stoby })
      ∧ (∀ c x u, findRecv r f.srcDev f.srcSheaf f.dstSheaf f.cls = some (c, x) → opensAnew x f = true →
          intoContext (setRecv r c (newRecv l f)) c l (newRecv l f) f (nowNs s) = .ok u →
          Completes i s fun t => t = pfcCheck u l)
      ∧ (findRecv r f.srcDev f.srcSheaf f.dstSheaf f.cls = none → f.syn = false → Completes i s fun t => ∃ u : State,
          t = pfcCheck u l ∧ u.stoby = r.stoby ∧ u.mem = s.mem ∧ u.rings = r.rings
            ∧ (LinkReady r l → linkPaused r l f.cls = false → ∃ (o : OutFrame) (g : Frame),
              u.links.tx = r.links.tx ++ [(l, o)] ∧ o.body = .stoby g ∧ g.op = 7 ∧ g.reset = true ∧ g.dstDev = f.srcDev
                ∧ g.dstSheaf = f.srcSheaf ∧ g.cls = f.cls))
      ∧ (∀ c x, NextFrame r l c x f →
        (∀ v off k, (op = 1 ∨ op = 2 ∨ op = 4) → (localLoc r f.addr = .vault v off ∧ k = coreStop v
              ∨ localLoc r f.addr = .sram v off ∧ k = coreStop v) → Completes i s fun t => ∃ u : State, t = pfcCheck u l
          ∧ (∃ q : Packet, Sends r u (linkStop l) q ∧ q.dst = k ∧ q.cls = f.cls ∧ q.remote = true
              ∧ q.addr = packetAddr r f.addr
              ∧ (op = 1 → q.ty = .wr ∧ q.data = f.payload ∧ q.ackreq = true
                  ∧ FMap.find u.rings.out q.txn = some (.stoby c f.psn))
              ∧ (op = 2 → q.ty = .rdReq ∧ q.bytes = f.bytes ∧ q.merge = false
                  ∧ FMap.find u.rings.out q.txn
                    = some (.stobyRead (linkStop l) f.srcstop f.txn f.srcDev f.srcSheaf f.cls c f.psn))
              ∧ (op = 4 → q.ty = .reduce ∧ q.data = f.payload ∧ q.rtag = f.rtag ∧ q.contrib = f.contrib
                  ∧ q.anchor = f.anchor ∧ q.relems = f.relems))
            ∧ (∃ y : RecvCtx, recvAt u c = some y ∧ y.start = psnNext f.psn ∧ y.ackNow = (x.ackNow || f.acknow || f.syn))
            ∧ u = { r with rings := u.rings, stoby := u.stoby })
        ∧ (∀ k, (op = 1 ∨ op = 2 ∨ op = 4) → localLoc r f.addr = .none k → Undefined i s k)
        ∧ (op = 3 → Completes i s fun t => ∃ u : State, t = pfcCheck u l
          ∧ (∃ q : Packet, Sends r u (linkStop l) q ∧ q.ty = .rdResp ∧ q.dst = f.srcstop ∧ q.txn = f.txn ∧ q.data = f.payload
              ∧ q.poison = f.poison)
            ∧ (∃ y : RecvCtx, recvAt u c = some y ∧ y.start = psnNext f.psn) ∧ (f.poison = false → u.fault = s.fault) ∧ u.mem = s.mem)
        ∧ (∀ d off, op = 5 → localLoc r f.addr = .sram d off → Completes i s fun t => ∃ u : State, t = pfcCheck u l
          ∧ (coreAt u d).events = (coreAt s d).events ||| BitVec.ofNat 64 (2 ^ (f.aux % 64)) ∧ OtherCores s u d
            ∧ (∃ y : RecvCtx, recvAt u c = some y ∧ y.start = psnNext f.psn) ∧ u = { r with cores := u.cores, stoby := u.stoby })
        ∧ (∀ w, op = 6 → ringBell r (f.addr % 2 ^ 16) f.value (nowNs s) = .ok w → Completes i s fun t => ∃ u : State,
          t = pfcCheck u l ∧ u.wq = w.wq ∧ (∃ y : RecvCtx, recvAt u c = some y ∧ y.start = psnNext f.psn) ∧ u.mem = s.mem))))
  ∧ (∀ (l : Nat) (f : Frame) (s : State), LinkTakes s l (.stoby f) → stobyOpen s l f = true → f.op = 7 →
    let r := rxFrame s l (frameBytes s f)
    (findSend r f.dstSheaf f.srcDev f.srcSheaf f.cls = none → Completes (.stobyAck l f) s fun t => t = r)
    ∧ (∀ c x, findSend r f.dstSheaf f.srcDev f.srcSheaf f.cls = some (c, x) →
      (f.reset = true → x.unacked = [] → Completes (.stobyAck l f) s fun t =>
        (∃ y : SendCtx, sendAt t c = some y ∧ y.syn = true ∧ y.unacked = [] ∧ y.nextPsn < 2 ^ 32)
          ∧ t = { r with stoby := t.stoby, free := t.free })
      ∧ (f.reset = true → x.unacked ≠ [] → Completes (.stobyAck l f) s fun t =>
        bit (regGet t (stbReg x.sheaf 0)) 0 = true ∧ regGet t (stbReg x.sheaf 8) = x.dev % 2 ^ 12
          ∧ (∃ d : Cause, t.fault.detected = s.fault.detected ++ [d] ∧ d.code = 8 ∧ d.sub = 1))
      ∧ (f.reset = false → Completes (.stobyAck l f) s fun t => ∃ y : SendCtx, sendAt t c = some y ∧ y.syn = false
          ∧ y.acks = x.acks + 1 ∧ y.nextPsn = x.nextPsn ∧ f.srcLink ∈ y.ackedFrom
          ∧ (∀ e ∈ y.unacked, psnDist f.apsn e.frame.psn = 0 ∨ 4096 < psnDist f.apsn e.frame.psn)
          ∧ (∀ e ∈ x.unacked, (psnDist f.apsn e.frame.psn = 0 ∨ 4096 < psnDist f.apsn e.frame.psn) →
              ∃ d ∈ y.unacked, d.frame.psn = e.frame.psn) ∧ t.mem = s.mem)))
  ∧ (∀ (l : Nat) (f : Frame) (s : State),
    (f.op ≠ 7 → Waits (.stobyAck l f) s)
    ∧ (LinkTakes s l (.stoby f) → f.op = 7 → stobyOpen s l f = false →
        Completes (.stobyAck l f) s fun t => t = rxFrame s l (frameBytes s f)))
  ∧ (∀ (c : Nat) (x : RecvCtx) (s : State), powered s = true → recvAt s c = some x →
    ((0 < x.sinceAck ∨ x.ackNow = true) → linkUp s x.link.1 = true → Completes (.stobyAckSend c) s fun t =>
      recvAt t c = some { x with sinceAck := 0, ackNow := false, ece := false } ∧ t.mem = s.mem
        ∧ (LinkReady s x.link.1 → linkPaused s x.link.1 x.cls = false → ∃ (o : OutFrame) (g : Frame),
          t.links.tx = s.links.tx ++ [(x.link.1, o)] ∧ o.body = .stoby g ∧ o.cls = some x.cls ∧ g.op = 7 ∧ g.reset = false
            ∧ g.apsn = x.next ∧ g.tstamp = x.lastTs ∧ g.ece = x.ece ∧ g.dstDev = x.dev ∧ g.dstSheaf = x.sheaf ∧ g.cls = x.cls)
        ∧ (domOn s ⟨.link, x.link.1⟩ = false → s.links.cfg.routed = false → t.links.tx = s.links.tx
          ∧ ∃ (o : OutFrame) (g : Frame), (linkAt t x.link.1).waiting = (linkAt s x.link.1).waiting ++ [o] ∧ o.body = .stoby g
            ∧ g.op = 7 ∧ g.apsn = x.next))
    ∧ (((x.sinceAck = 0 ∧ x.ackNow = false) ∨ linkUp s x.link.1 = false) → Waits (.stobyAckSend c) s))
  ∧ (∀ (c psn : Nat) (x : SendCtx) (e : Sent) (s : State), powered s = true → sentOf s c psn = some (x, e) →
    (pathSet s x ≠ [] → Completes (.stobyRetxTimer c psn) s fun t => ∃ (l d : Nat) (f : Frame) (y : SendCtx) (g : Sent),
      (l, d) ∈ pathSet s x ∧ f.psn = psn ∧ f.retx = true ∧ f.payload = e.frame.payload
        ∧ f.op = e.frame.op ∧ sendAt t c = some y ∧ y.nextPsn = x.nextPsn ∧ g ∈ y.unacked ∧ g.frame = f
        ∧ g.rtoUs = min (2 * e.rtoUs) 6400 ∧ g.path = (l, d)
        ∧ ((∃ p ∈ pathSet s x, p ≠ e.path) → g.path ≠ e.path) ∧ t.mem = s.mem
        ∧ regGet t (stbReg x.sheaf 0x18) = counterAdd (regGet s (stbReg x.sheaf 0x18)) 1
        ∧ (LinkReady s l → linkPaused s l e.frame.cls = false →
          ∃ o : OutFrame, t.links.tx = s.links.tx ++ [(l, o)] ∧ o.body = .stoby f))
    ∧ (pathSet s x = [] → Waits (.stobyRetxTimer c psn) s))
  ∧ (∀ (c : Nat) (x : SendCtx) (s : State), powered s = true → sendAt s c = some x →
    (x.unacked ≠ [] → Completes (.stobyPeerTimeout c) s fun t =>
      bit (regGet t (stbReg x.sheaf 0)) 0 = true ∧ regGet t (stbReg x.sheaf 8) = x.dev % 2 ^ 12
        ∧ (∃ d : Cause, t.fault.detected = s.fault.detected ++ [d] ∧ d.code = 8 ∧ d.sub = 0)
        ∧ RegsKept s t [stbReg x.sheaf 0, stbReg x.sheaf 8] ∧ t = { s with regs := t.regs, fault := t.fault })
    ∧ (x.unacked = [] → Completes (.stobyContextClose c) s fun t =>
      sendAt t c = none ∧ (∀ k, k ≠ c → sendAt t k = sendAt s k) ∧ t = { s with stoby := t.stoby })
    ∧ (x.unacked = [] → Waits (.stobyPeerTimeout c) s) ∧ (x.unacked ≠ [] → Waits (.stobyContextClose c) s)
    ∧ (x.cls = 0 → Waits (.stobyRateUpdate c) s)
    ∧ (x.cls ≠ 0 → Completes (.stobyRateUpdate c) s fun t =>
      let m : Rat := if x.acks = 0 then 0 else (x.marked : Rat) / (x.acks : Rat)
      let a := x.alpha + (m - x.alpha) / 16
      sendAt t c = some { x with
          alpha := a, acks := 0, marked := 0,
          rate := (max 1 (if x.marked = 0 then min (x.rate + 5) (pathRate s x.sheaf x.cls) else x.rate * (1 - a / 2))) }
        ∧ (∀ k, k ≠ c → sendAt t k = sendAt s k) ∧ t = { s with stoby := t.stoby }))

/-- LINK_BRINGUP, LINK_RETRY_TIMER, LINK_DOWN, LINKS_READY, PFC_FRAME_RECEIVE, PFC_PAUSE_EXPIRY, ARP_REQUEST, NEIGHBOUR_SOLICITATION,
ADDRESS_RESOLUTION_REPLY and RECEIVED_FRAME_DISCARD.
Clauses that rest on the model's choices: log entries 2, 52, 53, 83, 85. -/
def Obligations.Links : Prop :=
  (∀ (l : Nat) (b : Bringup) (s : State), powered s = true → linkTries s l = true → (linkAt s l).training = true →
    let bad := regFld s (lnkReg l 0) 23 16 ||| b.badLanes % 256
    (∀ m, b.mode = some m → modeAllowed s bad m = true → Completes (.linkBringup l b) s fun t =>
      linkUp t l = true ∧ regFld t (lnkReg l 0) 11 8 = m % 16 ∧ regFld t (lnkReg l 0) 23 16 = bad
        ∧ (linkAt t l).training = false ∧ RegsKept s t [lnkReg l 0]
        ∧ t = { s with regs := t.regs, links := t.links, board := t.board })
    ∧ ((∀ m, b.mode = some m → modeAllowed s bad m = false) → Completes (.linkBringup l b) s fun t =>
      linkUp t l = false ∧ regFld t (lnkReg l 0) 23 16 = bad ∧ (linkAt t l).training = false
        ∧ RegsKept s t [lnkReg l 0] ∧ t = { s with regs := t.regs, links := t.links, board := t.board }))
  ∧ (∀ (l : Nat) (s : State), powered s = true → linkTries s l = true → (linkAt s l).training = false →
    Completes (.linkRetryTimer l) s fun t =>
      (linkAt t l).training = true ∧ (∀ k, k ≠ l → linkAt t k = linkAt s k) ∧ t = { s with links := t.links })
  ∧ (∀ (l : Nat) (b : Bringup) (s : State), linkTries s l = false → Waits (.linkBringup l b) s ∧ Waits (.linkRetryTimer l) s)
  ∧ (∀ (l n : Nat) (s : State), powered s = true → l < 32 → linkUp s l = true → Completes (.linkDown ⟨l, n⟩) s fun t =>
      linkUp t l = false ∧ regFld t (lnkReg l 0) 11 8 = 0xF ∧ bit (regGet t (lnkReg l 0)) 24 = true
        ∧ regGet t (lnkReg l 8) = counterAdd (regGet s (lnkReg l 8)) 1
        ∧ regGet t (lnkReg l 0x18) = counterAdd (regGet s (lnkReg l 0x18)) n
        ∧ (linkAt t l).training = true ∧ (linkAt t l).pauseQuanta = [] ∧ (linkAt t l).switchMac = none
        ∧ (linkAt t l).waiting = [] ∧ (linkAt t l).rxBuf = []
        ∧ FMap.find t.time.announces l = none ∧ t.fault = s.fault ∧ t.mem = s.mem)
  ∧ (∀ (l n : Nat) (s : State), linkUp s l = false → Waits (.linkDown ⟨l, n⟩) s)
  ∧ (∀ (i : Instr) (l : Nat) (x : RxFrame) (s : State), rxOf i = some (l, x) →
    ((32 ≤ l ∨ linkUp s l = false) → Waits i s)
    ∧ (powered s = true → l < 32 → linkUp s l = true →
      (rxFull s l (rxBytes s x) = true → Completes i s fun t => t = s)
      ∧ (rxFull s l (rxBytes s x) = false → domOn s ⟨.link, l⟩ = false → Completes i s fun t => ∃ u : State,
        (linkAt u l).rxBuf = (linkAt s l).rxBuf ++ [(x, nowNs s)] ∧ u = { s with links := u.links }
          ∧ t = levelWake (pfcCheck u l) ⟨.link, l⟩))
    ∧ (Reaches s l x → framesTaken s = false → isPfc x = false → Completes i s fun t =>
      regGet t (lnkReg l 0x10) = counterAdd (regGet s (lnkReg l 0x10)) 1
        ∧ regGet t (lnkCtr l 1) = counterAdd (regGet s (lnkCtr l 1)) 1 ∧ t = { s with regs := t.regs, free := t.free }))
  ∧ (∀ (l p n : Nat) (s : State), Reaches s l (.pfc p n) →
    (s.links.cfg.pfc = true → Completes (.pfcFrameReceive l p n) s fun t =>
      (∀ c, c < 4 → bit p (clsPrio s c) = true → linkPaused t l c = (n != 0))
        ∧ (∀ c, c < 4 → bit p (clsPrio s c) = false → linkPaused t l c = linkPaused s l c)
        ∧ (∀ o ∈ (linkAt t l).waiting, heldBack t l o = true) ∧ ((linkAt s l).waiting = [] → t.links.tx = s.links.tx)
        ∧ regGet t (lnkCtr l 5) = counterAdd (regGet s (lnkCtr l 5)) 1 ∧ t.mem = s.mem)
    ∧ (s.links.cfg.pfc = false → Completes (.pfcFrameReceive l p n) s fun t =>
      regGet t (lnkReg l 0x10) = counterAdd (regGet s (lnkReg l 0x10)) 1 ∧ t.links = s.links ∧ t.mem = s.mem))
  ∧ (∀ (l c : Nat) (s : State), powered s = true →
    (linkPaused s l c = true → Completes (.pfcPauseExpiry l c) s fun t =>
      linkPaused t l c = false ∧ (∀ d, d ≠ c → linkPaused t l d = linkPaused s l d)
        ∧ (∀ o ∈ (linkAt t l).waiting, heldBack t l o = true)
        ∧ ((linkAt s l).waiting = [] → t = { s with links := t.links }) ∧ t.mem = s.mem)
    ∧ (linkPaused s l c = false → Waits (.pfcPauseExpiry l c) s))
  ∧ (∀ (l : Nat) (s : State) (o : OutFrame), nextFrame s l = some o → o ∈ (linkAt s l).waiting ∧ heldBack s l o = false
    ∧ ((∃ w ∈ (linkAt s l).waiting, heldBack s l w = false ∧ w.cls = some 0) → o.cls = some 0))
  ∧ (∀ (l prio : Nat) (s : State), LinkReady s l →
    (prio ∉ (linkAt s l).xoff → 768 * 1024 < prioHeld s l prio →
      prio ∈ (linkAt (pfcPrio l s prio) l).xoff ∧ ∃ (o : OutFrame) (q : Nat), 0 < q ∧ q < 65536 ∧ o.body = .pfc (2 ^ prio) q
        ∧ (pfcPrio l s prio).links.tx = s.links.tx ++ [(l, o)])
    ∧ (prio ∈ (linkAt s l).xoff → prioHeld s l prio < 512 * 1024 →
      prio ∉ (linkAt (pfcPrio l s prio) l).xoff ∧ ∃ o : OutFrame, o.body = .pfc (2 ^ prio) 0
        ∧ (pfcPrio l s prio).links.tx = s.links.tx ++ [(l, o)])
    ∧ (((prio ∉ (linkAt s l).xoff ∧ prioHeld s l prio ≤ 768 * 1024) ∨ (prio ∈ (linkAt s l).xoff ∧ 512 * 1024 ≤ prioHeld s l prio)) →
      pfcPrio l s prio = s))
  ∧ (∀ (l ip mac : Nat) (s : State),
    (LinkTakes s l (.arp ip mac) →
      (ip = linkIp4 s l → LinkReady s l → Completes (.arpRequest l ⟨ip, mac⟩) s fun t =>
        (∃ (o : OutFrame) (m : Nat), t.links.tx = s.links.tx ++ [(l, o)] ∧ o.body = .arpReply ip m ∧ o.dmac = mac % 2 ^ 48
            ∧ o.etype = 0x0806 ∧ o.tag = none
            ∧ (macOk s = true → m = s.links.cfg.macpfx ||| s.links.cfg.devid * 2 ^ 5 ||| l)) ∧ t.mem = s.mem)
      ∧ (ip ≠ linkIp4 s l → Completes (.arpRequest l ⟨ip, mac⟩) s fun t => t = rxFrame s l 64))
    ∧ (LinkTakes s l (.solicit ip mac) →
      (ip = linkIp6 s l → LinkReady s l → Completes (.neighbourSolicitation l ⟨ip, mac⟩) s fun t =>
        (∃ (o : OutFrame) (m : Nat), t.links.tx = s.links.tx ++ [(l, o)] ∧ o.body = .neighbourAdvert ip m ∧ o.dmac = mac % 2 ^ 48
            ∧ o.etype = 0x86DD ∧ o.tag = none
            ∧ (macOk s = true → m = s.links.cfg.macpfx ||| s.links.cfg.devid * 2 ^ 5 ||| l)) ∧ t.mem = s.mem)
      ∧ (ip ≠ linkIp6 s l → Completes (.neighbourSolicitation l ⟨ip, mac⟩) s fun t => t = rxFrame s l 64))
    ∧ (LinkTakes s l (.resolved mac) →
      (s.links.cfg.routed = true → Completes (.addressResolutionReply l mac) s fun t =>
        (linkAt t l).switchMac = some (mac % 2 ^ 48) ∧ (∀ o ∈ (linkAt t l).waiting, heldBack t l o = true) ∧ t.mem = s.mem)
      ∧ (s.links.cfg.routed = false → Completes (.addressResolutionReply l mac) s fun t => t = rxFrame s l 64)))
  ∧ (∀ (l d n : Nat) (f : Frame) (s : State), linkUp s l = true → domOn s ⟨.link, l⟩ = true → (domAt s ⟨.link, l⟩).sleep = .none →
    (linkAt s l).waiting = [] → s.links.cfg.routed = true → (linkAt s l).switchMac = none →
    let t := sendStoby s l f d n
    (∃ o, (linkAt t l).waiting = [o] ∧ o.body = .stoby f)
      ∧ ∃ o, t.links.tx = s.links.tx ++ [(l, o)]
        ∧ o.body = (if s.links.cfg.encap = 2 then .neighbourSolicit (linkIp6 s l + 1) else .arpRequest (linkIp4 s l + 1)))
  ∧ (∀ (l : Nat) (w : BadFrame) (s : State), LinkTakes s l (.bad w) → Completes (.receivedFrameDiscard l w) s fun t =>
      t = { s with regs := t.regs, free := t.free }
        ∧ (w = .notAccepted → regGet t (lnkReg l 0x10) = counterAdd (regGet s (lnkReg l 0x10)) 1)
        ∧ (w = .badIcrc → regGet t (stbReg (l / 4) 0x28) = counterAdd (regGet s (stbReg (l / 4) 0x28)) 1)
        ∧ (w = .reservedOp → regGet t (stbReg (l / 4) 0x30) = counterAdd (regGet s (stbReg (l / 4) 0x30)) 1)
        ∧ regGet t (lnkCtr l 1) = counterAdd (regGet s (lnkCtr l 1)) 1)
  ∧ (∀ (b : Bool) (s : State), powered s = true → s.boot.dev ≠ .boot → s.boot.linksReady = false →
    (b = true ∨ min s.links.cfg.minlinks (linksOn s) ≤ linksUp s) → Completes (.linksReady b) s fun t =>
      t = { s with boot := { s.boot with linksReady := true } })
  ∧ (∀ (b : Bool) (s : State), (s.boot.linksReady = true ∨ s.boot.dev = .boot
      ∨ (b = false ∧ linksUp s < min s.links.cfg.minlinks (linksOn s))) → Waits (.linksReady b) s)

/-- PTP_ANNOUNCE, PTP_SYNC, PTP_FOLLOW_UP, PTP_DELAY_REQ, PTP_DELAY_RESP, ANNOUNCE_TIMEOUT, PPS_IN_EDGE, TIMEREF_LOSS,
PPS_OUT_PULSE, SLEEP_TICK_CALIBRATION, HOLDOVER_BOUND_EXCEEDED and TIME_SLEW_END.
Clauses that rest on the model's choices: log entries 2, 3, 56, 57, 58, 83. -/
def Obligations.DeviceTime : Prop :=
  (∀ (l : Nat) (s : State), ptpTaken s l s.time.cfg.domain s.time.cfg.encap = true →
    (∀ d : AnnounceDs, LinkTakes s l (.announce d) → d.domain = s.time.cfg.domain → d.encap = s.time.cfg.encap →
      (∀ x, FMap.find s.time.announces l = some x → x.sender = d.sender ∨ dsBetter d x = true) →
      Completes (.ptpAnnounce l d) s fun t =>
        FMap.find t.time.announces l = some d ∧ (∃ (p : Nat) (x : AnnounceDs), bestPort t = some (p, x) ∧ t.time.active = some p
            ∧ t.time.grandmaster = some x.identity)
          ∧ (∀ k, k ≠ l → FMap.find t.time.announces k = FMap.find s.time.announces k)
          ∧ t.time.dtime = s.time.dtime ∧ t.mem = s.mem)
    ∧ (∀ m : PtpStamp, m.domain = s.time.cfg.domain → m.encap = s.time.cfg.encap →
      (LinkTakes s l (.sync m) → stampOk m (nowNs s) = true → s.time.active = some l → Completes (.ptpSync l m) s fun t =>
        FMap.find t.time.sync l = some { m with local_ := m.local_ - asymOf s l }
          ∧ regGet t (lnkCtr l 7) = counterAdd (regGet s (lnkCtr l 7)) 1
          ∧ t = { s with regs := t.regs, free := t.free, time := { s.time with sync := t.time.sync } })
      ∧ (LinkTakes s l (.sync m) → stampOk m (nowNs s) = false → Completes (.ptpSync l m) s fun t => t = rxFrame s l 64)
      ∧ (∀ y, FMap.find s.time.sync l = some y → s.time.active = some l →
        (LinkTakes s l (.followUp m) →
          (y.twoStep = true → y.seqId = m.seqId → Completes (.ptpFollowUp l m) s fun t =>
            FMap.find t.time.sync l = some { y with
                origin := m.origin, correction := y.correction + m.correction, twoStep := false }
              ∧ t = { s with regs := t.regs, free := t.free, time := { s.time with sync := t.time.sync } })
          ∧ ((y.twoStep = false ∨ y.seqId ≠ m.seqId) → Completes (.ptpFollowUp l m) s fun t => t = rxFrame s l 64))
        ∧ (∀ sent, LinkTakes s l (.delayResp m) → s.time.delayReqAt = some sent → m.seqId = s.time.delayReqId →
          y.twoStep = false → Completes (.ptpDelayResp l m) s fun t =>
            t.time.delayReqAt = none ∧ s.time.dtime ≤ t.time.dtime
              ∧ t.time = (correct { rxFrame s l 64 with time := { s.time with delayReqAt := none } } (-(((y.local_ - y.origin
                  - y.correction) - (m.origin - m.correction - sent)) / 2))).time))
      ∧ (FMap.find s.time.sync l = none → LinkTakes s l (.delayResp m) →
        Completes (.ptpDelayResp l m) s fun t => t = rxFrame s l 64)))
  ∧ (∀ (i : Instr) (l : Nat) (s : State) (m : PtpStamp), ptpTaken s l m.domain m.encap = false →
    (i = .ptpSync l m ∨ i = .ptpFollowUp l m ∨ i = .ptpDelayResp l m) →
    (∀ x, rxOf i = some (l, x) → LinkTakes s l x → Completes i s fun t => t = rxFrame s l 64))
  ∧ (∀ (p : Nat) (s : State), powered s = true → s.time.active = some p → timeRuns s = true → candidate s p = true →
    linkPaused s p 0 = false →
    (LinkReady s p → Completes .ptpDelayReq s fun t =>
      t.time.delayReqId = (s.time.delayReqId + 1) % 2 ^ 16
        ∧ (∃ o : OutFrame, t.links.tx = s.links.tx ++ [(p, o)] ∧ o.body = .delayReq s.time.cfg.domain t.time.delayReqId
            ∧ o.tag = clsTag s 0 ∧ o.cls = some 0)
        ∧ (∃ a : Int, t.time.delayReqAt = some a ∧ (a + asymOf s p - (nowNs s : Int)).natAbs ≤ 4)
        ∧ regGet t (lnkCtr p 7) = counterAdd (regGet s (lnkCtr p 7)) 1 ∧ t.time.dtime = s.time.dtime ∧ t.mem = s.mem)
    ∧ (domOn s ⟨.link, p⟩ = false → Completes .ptpDelayReq s fun t => t = levelWake s ⟨.link, p⟩))
  ∧ (∀ (p : Nat) (s : State), s.time.active = some p → (timeRuns s = false ∨ candidate s p = false ∨ linkPaused s p 0 = true) →
    Waits .ptpDelayReq s)
  ∧ (∀ (p : Nat) (s : State), powered s = true → s.time.active = some p → Completes .announceTimeout s fun t =>
      FMap.find t.time.announces p = none ∧ t.time.active ≠ some p ∧ t.time.dtime = s.time.dtime ∧ t.mem = s.mem
        ∧ ((∀ e ∈ s.time.announces, candidate s e.1 = true → e.1 = p) → t.time.active = none
            ∧ (s.time.st = .locked → t.time.st = .holdover)))
  ∧ (∀ s : State, s.time.active = none → Waits .announceTimeout s ∧ Waits .ptpDelayReq s)
  ∧ (∀ (c : Int) (s : State), s.time.dtime ≤ (correct s c).time.dtime
    ∧ (s.time.slewing = true → (correct s c).time = { s.time with offset := c })
    ∧ (s.time.slewing = false → s.time.st = .unset → s.time.sourced = false → 0 < c →
        (correct s c).time.dtime = s.time.dtime + c.toNat * 2 ^ 16 ∧ (correct s c).time.sourced = true
          ∧ (correct s c).regs = s.regs)
    ∧ (s.time.slewing = false → s.time.st = .locked → c.natAbs ≤ s.time.cfg.stepThr →
        (correct s c).time.servo = c ∧ (correct s c).time.dtime = s.time.dtime
          ∧ (correct s c).time.st = .locked ∧ (correct s c).time.bound = 100 + c.natAbs)
    ∧ (s.time.slewing = false → (s.time.st ≠ .unset ∨ s.time.sourced = true ∨ c ≤ 0) →
      (c.natAbs ≤ 100 → c.natAbs ≤ s.time.cfg.stepThr → s.time.good = 15 → (correct s c).time.st = .locked)
      ∧ ((s.time.cfg.stepThr : Int) < c → s.time.cfg.stepOk = true →
        (correct s c).time.dtime = s.time.dtime + c.toNat * 2 ^ 16
          ∧ regGet (correct s c) (hubReg 0x50028) = counterAdd (regGet s (hubReg 0x50028)) 1)
      ∧ ((c < -(s.time.cfg.stepThr : Int) ∨ ((s.time.cfg.stepThr : Int) < c ∧ s.time.cfg.stepOk = false)) →
        (correct s c).time.slewing = true ∧ (correct s c).time.slewLeft = c ∧ (correct s c).time.st = .holdover
          ∧ (correct s c).time.dtime = s.time.dtime)))
  ∧ (∀ s : State, powered s = true → timeRuns s = true → s.time.cfg.pps = true → bestPort s = none →
    (s.time.st ≠ .unset → Completes .ppsInEdge s fun t =>
      t = correct { s with time := { s.time with ppsAt := some (nowNs s) } } (ppsOffset s))
    ∧ (s.time.st = .unset → Waits .ppsInEdge s))
  ∧ (∀ s : State, (ppsOffset s).natAbs ≤ 500000000 ∧ ((nowNs s : Int) + ppsOffset s) % 1000000000 = 0)
  ∧ (∀ s : State, powered s = true → s.time.cfg.timeref = true →
    (s.time.timerefLost = false → Completes .timerefLoss s fun t =>
      t.time = { s.time with timerefLost := true }
        ∧ regGet t (hubReg 0x50038) = counterAdd (regGet s (hubReg 0x50038)) 1 ∧ t = { s with time := t.time, regs := t.regs })
    ∧ (s.time.timerefLost = true → Waits .timerefLoss s))
  ∧ (∀ s : State, powered s = true → timeRuns s = true → s.time.cfg.ppsOut = true → atSecond s = true →
    ((s.time.cfg.ppsLock = false ∨ s.time.st = .locked) → Completes .ppsOutPulse s fun t =>
      t = { s with time := { s.time with ppsOut := true } })
    ∧ (s.time.cfg.ppsLock = true → s.time.st ≠ .locked → Waits .ppsOutPulse s))
  ∧ (∀ (n : Nat) (s : State), powered s = true → timeRuns s = true → 0 < n → n < 2 ^ 48 →
    Completes (.sleepTickCalibration n) s fun t =>
      t.time.periods.head? = some n ∧ sleepPeriod t = n ∧ t.time.periods.length ≤ 65
        ∧ t = { s with time := { s.time with periods := t.time.periods } })
  ∧ (∀ s : State, powered s = true → s.time.st = .holdover →
    (1000 * s.time.cfg.frBound < s.time.bound → Completes .holdoverBoundExceeded s fun t =>
      t.time = { s.time with st := .freerun, bound := noBound } ∧ t = { s with time := t.time, board := t.board })
    ∧ (s.time.bound ≤ 1000 * s.time.cfg.frBound → Waits .holdoverBoundExceeded s))
  ∧ (∀ s : State, powered s = true →
    (s.time.slewing = true → s.time.slewLeft = 0 → Completes .timeSlewEnd s fun t =>
      t = { s with time := { s.time with slewing := false, bound := 100 } })
    ∧ ((s.time.slewing = false ∨ s.time.slewLeft ≠ 0) → Waits .timeSlewEnd s))

/-- AVSBUS_SAMPLE, AVSBUS_READING_MISSING, PMBUS_POLL, PMB_ALERT, POWER_UPDATE, OPP_CHANGE_END, DROOP_DETECT, DROOP_RECOVERY,
CLAMP_ENGAGE, CELL_SELF_TEST, PWR_WARN_FALL, PWR_WARN_RISE and HOLDUP_RETURN.
Clauses that rest on the model's choices: log entries 2, 59, 60, 61, 64, 65, 85. -/
def Obligations.PowerManagement : Prop :=
  (∀ (rs : List RailReading) (s : State), powered s = true → Completes (.avsbusSample rs) s fun t =>
    (∀ r ∈ rs, onBus r.sheaf r.rail = true → (∀ x ∈ rs, x.sheaf = r.sheaf → x.rail = r.rail → x = r) →
        railMa t r.sheaf r.rail = r.ma)
      ∧ (∀ h k, (∀ x ∈ rs, ¬(x.sheaf = h ∧ x.rail = k)) → railMa t h k = railMa s h k)
      ∧ t.power.p10 = packageNowMw t ∧ t.power.n = s.power.n + 1 ∧ t.power.sum = s.power.sum + t.power.p10
      ∧ (∀ h, h < 8 → (sheafPowerAt t h).n = (sheafPowerAt s h).n + 1
          ∧ (sheafPowerAt t h).emergCeil
            = (if zoneNear t h then true else if zoneClear t h then false else (sheafPowerAt s h).emergCeil))
      ∧ t = { s with power := t.power, regs := t.regs })
  ∧ (∀ (h k : Nat) (s : State), powered s = true → onBus h k = true →
    (k ∉ (sheafPowerAt s h).missing → Completes (.avsbusReadingMissing h k) s fun t =>
      railMa t h k = railCeil k ∧ bit (regGet t (pwrReg h 0)) 11 = true
        ∧ regGet t (pwrReg h 0x38) = counterAdd (regGet s (pwrReg h 0x38)) 1
        ∧ (∃ (rs : List FaultRec) (r : FaultRec), t.fault.records = rs ++ [r] ∧ r.kind = 4 ∧ r.cause = 0x40 ∧ r.unit = 8 * k + zoneNo h k)
        ∧ t = { s with power := t.power, regs := t.regs, fault := t.fault, host := t.host, board := t.board })
    ∧ (k ∈ (sheafPowerAt s h).missing → Waits (.avsbusReadingMissing h k) s))
  ∧ (∀ (a b c : Nat) (fs : List PmbusFault) (s : State), powered s = true →
    (Completes (.pmbusPoll a b c fs) s fun t =>
      t.power = { s.power with boostMw := a, aonMw := b, ioMw := c }
        ∧ t.fault.nextSeq = s.fault.nextSeq + (fs.filter pmbusOk).length
        ∧ t = { s with power := t.power, regs := t.regs, fault := t.fault, host := t.host, board := t.board })
    ∧ (Completes (.pmbAlert fs) s fun t =>
      t.fault.nextSeq = s.fault.nextSeq + (fs.filter pmbusOk).length
        ∧ t = { s with regs := t.regs, fault := t.fault, host := t.host, board := t.board }))
  ∧ (∀ s : State, powered s = true → Completes .powerUpdate s fun t =>
    (∀ h, h < 8 → (sheafPowerAt s h).n ≠ 0 →
        regFld t (pwrReg h 8) 47 32 = min 65535 ((sheafPowerAt s h).sum / (sheafPowerAt s h).n / 1000))
      ∧ (s.power.n ≠ 0 → regFld t (pwrReg 0 0x108) 15 0 = min 65535 (s.power.sum / s.power.n / 1000))
      ∧ regFld t (pwrReg 0 0x108) 47 32 = effCapOf s
      ∧ (∀ h, h < 8 → bit (regGet t (pwrReg h 0)) 5 = capping t h)
      ∧ t = { s with power := t.power, regs := t.regs, free := t.free })
  ∧ (∀ s : State, effCapOf s ≤ regFld s (pwrReg 0 0x100) 15 0
      ∧ (regFld s (thmReg 0 0x110) 15 0 ≠ 0 → effCapOf s ≤ regFld s (thmReg 0 0x110) 15 0)
      ∧ (s.power.holdup ≠ .none → effCapOf s ≤ s.power.holdCap))
  ∧ (∀ (h o : Nat) (s : State), powered s = true → h < 8 → (sheafPowerAt s h).target = some o → o < 8 →
    s.pails.busy = none → s.pails.deferred = [] →
    ((sheafPowerAt s h).heldReq = none → Completes (.oppChangeEnd h) s fun t =>
      oppNow t h = o ∧ (sheafPowerAt t h).target = none ∧ regFld t (pwrReg h 0x10) 31 16 = oppUnit o
        ∧ RegsKept s t [pwrReg h 0, pwrReg h 0x10] ∧ t = { s with power := t.power, regs := t.regs })
    ∧ (∀ r, (sheafPowerAt s h).heldReq = some r → r < 8 → r ≠ o → Completes (.oppChangeEnd h) s fun t =>
      oppNow t h = min r o ∧ (sheafPowerAt t h).target = some r ∧ (sheafPowerAt t h).heldReq = none
        ∧ t = { s with power := t.power, regs := t.regs }))
  ∧ (∀ (h : Nat) (s : State), (sheafPowerAt s h).target = none → Waits (.oppChangeEnd h) s)
  ∧ (∀ (c : Nat) (s : State), powered s = true → c < 1024 →
    (c ∉ s.power.stretched → Completes (.droopDetect c) s fun t =>
      t.power.stretched = c :: s.power.stretched ∧ bit (regGet t (pwrReg (c / 128) 0)) 9 = true
        ∧ regGet t (pwrReg (c / 128) 0x28) = counterAdd (regGet s (pwrReg (c / 128) 0x28)) 1
        ∧ RegsKept s t [pwrReg (c / 128) 0, pwrReg (c / 128) 0x28] ∧ t = { s with power := t.power, regs := t.regs })
    ∧ (c ∈ s.power.stretched → Waits (.droopDetect c) s)
    ∧ (c ∈ s.power.stretched → Completes (.droopRecovery c) s fun t =>
      c ∉ t.power.stretched ∧ (∀ d, d ≠ c → (d ∈ t.power.stretched ↔ d ∈ s.power.stretched)) ∧ t = { s with power := t.power })
    ∧ (c ∉ s.power.stretched → Waits (.droopRecovery c) s)
    ∧ (∀ b, Completes (.clampEngage c b) s fun t => (c ∈ t.power.clamped ↔ b = true)
        ∧ (∀ d, d ≠ c → (d ∈ t.power.clamped ↔ d ∈ s.power.clamped)) ∧ t = { s with power := t.power }))
  ∧ (∀ (h n : Nat) (b : Bool) (s : State), powered s = true → h < 8 → n < 128 →
    let c := h * 128 + n
    let x := FMap.getD s.power.cells c (0, 0)
    (if b then x.2 < 2 else x.1 < 4) → Completes (.cellSelfTest h [⟨n, b⟩]) s fun t =>
      FMap.getD t.power.cells c (0, 0) = (if b then (x.1, x.2 + 1) else (x.1 + 1, x.2))
        ∧ coreCeil t c = (if coreCeil s c ≤ 4 then coreCeil s c else coreCeil s c - 1)
        ∧ bit (regGet t (pwrReg h 0)) 10 = true ∧ regGet t (pwrReg h 0x30) = counterAdd (regGet s (pwrReg h 0x30)) 1
        ∧ (3 ≤ (if b then x.1 else x.1 + 1) ∨ 2 ≤ (if b then x.2 + 1 else x.2) →
            ∃ m ∈ t.flash.marked, m.kind = 0 ∧ m.number = c)
        ∧ t.mem = s.mem ∧ t.cores = s.cores)
  ∧ (∀ s : State, powered s = true →
    (s.power.warnLow = false → Completes .pwrWarnFall s fun t =>
      t.power.warnLow = true ∧ t.power.holdup = .low
        ∧ (s.power.holdup = .none → t.power.holdCap = regFld s (pwrReg 0 0x100) 47 32)
        ∧ (s.power.holdup ≠ .none → t.power.holdCap = s.power.holdCap)
        ∧ (∀ h, h < 8 → bit (regGet t (pwrReg h 0)) 7 = true ∧ bit (regGet t (pwrReg h 0)) 6 = true)
        ∧ regFld t (pwrReg 0 0x108) 47 32 = effCapOf t ∧ t = { s with power := t.power, regs := t.regs })
    ∧ (s.power.warnLow = true → Waits .pwrWarnFall s)
    ∧ (s.power.warnLow = true → Completes .pwrWarnRise s fun t =>
      t = { s with power := { s.power with
              warnLow := false, holdup := (if s.power.holdup = .low then .returning else s.power.holdup) } })
    ∧ (s.power.warnLow = false → Waits .pwrWarnRise s)
    ∧ (s.power.holdup = .returning → Completes .holdupReturn s fun t =>
      t.power.holdup = .none ∧ (∀ h, h < 8 → bit (regGet t (pwrReg h 0)) 7 = false)
        ∧ regFld t (pwrReg 0 0x108) 47 32 = effCapOf t ∧ t = { s with power := t.power, regs := t.regs })
    ∧ (s.power.holdup ≠ .returning → Waits .holdupReturn s))

/-- GOVERNOR_ROUND, HINT_RAMP_START and HINT_EXPIRY.
Clauses that rest on the model's choices: log entries 2, 62, 63. -/
def Obligations.Governor : Prop :=
  (∀ (h : Nat) (us : List (Nat × Nat)) (s : State), powered s = true → h < 8 →
    let cs := (enabledLocal s h).map (h * 128 + ·)
    let mA := (sheafPowerAt s h).carry + regFld s (pwrReg h 0x10) 7 0 * 100
    let unit := oppUnit (oppNow s h)
    let total := fun (x : State) => (cs.map (permitOf x)).foldl (· + ·) 0
    Completes (.governorRound h us) s fun t =>
      total t ≤ total s + mA / unit
        ∧ (sheafPowerAt t h).carry = mA % unit
        ∧ (sheafPowerAt t h).activity = (cs.map (usedOf us)).foldl (· + ·) 0
        ∧ (∀ c, permitOf t c ≤ max (permitOf s c) (permitCeil s c))
        ∧ (emergOn s h = true → ∀ c, reserveCore s c = false → permitOf t c ≤ permitOf s c)
        ∧ (∀ c, c ∉ cs → permitOf t c = permitOf s c ∧ govAt t c = govAt s c)
        ∧ t = { s with power := t.power, regs := t.regs })
  ∧ (∀ (h : Nat) (us : List (Nat × Nat)) (s : State), 8 ≤ h → Waits (.governorRound h us) s)
  ∧ (∀ (c : Nat) (s : State), powered s = true → coreEnabled s c = true → domOn s ⟨.core, c⟩ = true →
    ((govAt s c).hint.isSome → (govAt s c).ramping = false → Completes (.hintRampStart c) s fun t =>
      govAt t c = { govAt s c with ramping := true, hold := none } ∧ hintForce (govAt t c) = (govAt s c).hint ∧ (∀ d, d ≠ c → govAt t d = govAt s d) ∧ t = { s with power := t.power })
    ∧ (((govAt s c).hint = none ∨ (govAt s c).ramping = true) → Waits (.hintRampStart c) s))
  ∧ (∀ (c : Nat) (s : State), powered s = true → (govAt s c).hint.isSome →
    (feeding s c = false → max (govAt s c).lead (govAt s c).fed + 10000 ≤ nowNs s → Completes (.hintExpiry c) s fun t =>
      govAt t c = { govAt s c with hint := none, ramping := false, hold := none } ∧ (∀ d, d ≠ c → govAt t d = govAt s d)
        ∧ t = { s with power := t.power })
    ∧ ((feeding s c = true ∨ nowNs s < max (govAt s c).lead (govAt s c).fed + 10000) → Waits (.hintExpiry c) s))

/-- IDLE_TIMER_EXPIRY, SLEEP_REQUEST_ACCEPT, ENTRY_WINDOW_END, DOMAIN_TRANSITION_END, OFFTIMER_EXPIRY, DOMAIN_WAKE,
RETENTION_REEVALUATION, KEEP_BROWNOUT, KEEP_SELF_TEST and KEEP_REGULATOR_RECOVERY.
Clauses that rest on the model's choices: log entries 2, 66, 67, 68. -/
def Obligations.PowerDomains : Prop :=
  (∀ (d : Dom) (s : State), powered s = true → domExists d = true → domUsable s d = true → domOn s d = true →
    (domAt s d).sleep = .none → (domAt s d).action ≠ .none →
    (domActive s d = false → Completes (.idleTimerExpiry d) s fun t =>
      domAt t d = { domAt s d with sleep := .raised } ∧ (∀ e, domKey e ≠ domKey d → domAt t e = domAt s e)
        ∧ t = { s with doms := t.doms })
    ∧ (domActive s d = true → Waits (.idleTimerExpiry d) s))
  ∧ (∀ (d : Dom) (s : State), powered s = true → domExists d = true →
    ((domAt s d).sleep = .raised → Completes (.sleepRequestAccept d) s fun t =>
      domAt t d = { domAt s d with sleep := .window } ∧ (∀ e, domKey e ≠ domKey d → domAt t e = domAt s e)
        ∧ t = { s with doms := t.doms })
    ∧ ((domAt s d).sleep ≠ .raised → Waits (.sleepRequestAccept d) s)
    ∧ ((domAt s d).sleep ≠ .window → Waits (.entryWindowEnd d) s)
    ∧ ((domAt s d).sleep = .window → (levelNow s d = true ∨ admits s d = false) → Completes (.entryWindowEnd d) s fun t =>
      domAt t d = { domAt s d with sleep := .none, level := false } ∧ t = { s with doms := t.doms })
    ∧ ((domAt s d).sleep = .window → levelNow s d = false → admits s d = true → Completes (.entryWindowEnd d) s fun t =>
      domAt t d = { domAt s d with trans := some (lowGoal s d), sleep := .none, level := false }
        ∧ (d.kind = .core →
          let kept := if lowGoal s d = .retention ∧ keeps s (d.num / 128) = true then banksSel s d.num else 0
          coreAt t d.num = { CoreSt.reset with
              events := (coreAt s d.num).events, tags := (coreAt s d.num).tags, heldTags := (coreAt s d.num).heldTags }
            ∧ (∀ k, FMap.find t.mem k = (if sramKey d.num 0 ≤ k ∧ k < sramKey d.num 0 + 2 ^ 24
                  ∧ bit kept ((k - sramKey d.num 0) / 2 ^ 19) = false then none else FMap.find s.mem k))
            ∧ OtherCores s t d.num)
        ∧ (d.kind = .vault → lowGoal s d = .off →
          (∀ k, FMap.find t.mem k = (if k / 2 ^ 30 = d.num then none else FMap.find s.mem k))
            ∧ processorMode t d.num = false ∧ (vaultAt t d.num).shaftQ = (vaultAt s d.num).shaftQ
            ∧ (vaultAt t d.num).ringQ = (vaultAt s d.num).ringQ ∧ OtherVaults s t d.num)
        ∧ (d.kind = .vault → lowGoal s d = .retention → t = { s with doms := t.doms })
        ∧ (d.kind = .link → lowGoal s d = .off → linkUp t d.num = false)
        ∧ (d.kind = .time → t.time.asleep = some (s.time.dtime, s.time.bound, 0))))
  ∧ (∀ (d : Dom) (x : DomSt) (s : State), powered s = true → domExists d = true → (domAt s d).trans = some x →
    d.kind ≠ .link → d.kind ≠ .time →
    (nextRequest (domAt s d) x = none → Completes (.domainTransitionEnd d) s fun t =>
      domAt t d = { domAt s d with st := x, trans := none, heldReq := none, level := ((domAt s d).level && x != .on) }
        ∧ (∀ e, domKey e ≠ domKey d → domAt t e = domAt s e) ∧ t = { s with doms := t.doms, regs := t.regs })
    ∧ (nextRequest (domAt s d) x = some .on → x ≠ .on → domUsable s d = true → Completes (.domainTransitionEnd d) s fun t =>
        (domAt t d).st = x ∧ (domAt t d).trans = some .on ∧ t.mem = s.mem))
  ∧ (∀ (s : State) (b n : Nat) (p : Nat), powered s = true → (domAt s ⟨.time, 0⟩).trans = some .on →
    s.time.asleep = some (p, b, n) → s.time.st = .locked → (domAt s ⟨.time, 0⟩).heldReq = none →
    Completes (.domainTransitionEnd ⟨.time, 0⟩) s fun t =>
      domOn t ⟨.time, 0⟩ = true ∧ t.time.asleep = none ∧ t.time.st = .holdover ∧ t.time.dtime = s.time.dtime
        ∧ t.time.bound = wakeBound s b n)
  ∧ (∀ (l : Nat) (s : State), powered s = true → l < 32 → (domAt s ⟨.link, l⟩).trans = some .on →
    (domAt s ⟨.link, l⟩).heldReq = none →
    let u := endTrans s ⟨.link, l⟩ .on
    domOn u ⟨.link, l⟩ = true
      ∧ ((domAt s ⟨.link, l⟩).st = .off → (linkAt s l).rxBuf = [] → Completes (.domainTransitionEnd ⟨.link, l⟩) s fun t =>
        domOn t ⟨.link, l⟩ = true ∧ (linkAt t l).training = true ∧ t.mem = s.mem)
      ∧ (∀ w, drainRx l (linkAt s l).rxBuf (setLink u l { linkAt u l with rxBuf := [] }) = .ok w →
        Completes (.domainTransitionEnd ⟨.link, l⟩) s fun t => t = noteLink s (flushLink (pfcCheck w l) l) l))
  ∧ (∀ (d : Dom) (s : State), (domAt s d).trans = none → Waits (.domainTransitionEnd d) s)
  ∧ (∀ (d : Dom) (s : State), powered s = true → domExists d = true → (d.kind = .core ∨ d.kind = .vault ∨ d.kind = .link) →
    (domAt s d).st = .retention → (domAt s d).trans = none → (domAt s d).action = .retention → (domAt s d).offtimer ≠ 0 →
    Completes (.offtimerExpiry d) s fun t =>
      (domAt t d).trans = some .off ∧ (domAt t d).st = .retention
        ∧ (d.kind = .vault → (∀ k, k / 2 ^ 30 = d.num → FMap.find t.mem k = none)
          ∧ (vaultAt t d.num).shaftQ = (vaultAt s d.num).shaftQ ∧ (vaultAt t d.num).ringQ = (vaultAt s d.num).ringQ)
        ∧ (d.kind = .core → ∀ k, sramKey d.num 0 ≤ k → k < sramKey d.num 0 + 2 ^ 24 → FMap.find t.mem k = none)
        ∧ (d.kind = .link → linkUp t d.num = false))
  ∧ (∀ (d : Dom) (s : State), (domAt s d).offtimer = 0 → Waits (.offtimerExpiry d) s)
  ∧ (∀ (d : Dom) (w : WakeSrc) (s : State), powered s = true → domExists d = true → domUsable s d = true → wakeOk s d w = true →
    ((domAt s d).st ≠ .on → (domAt s d).trans = none → Completes (.domainWake d w) s fun t =>
      (domAt t d).trans = some .on ∧ (w ≠ .poke → (domAt t d).level = true) ∧ (∀ e ∈ t.doms.retained, d.kind = .core → e.1 ≠ d.num)
        ∧ t = { s with doms := t.doms })
    ∧ (∀ x, (domAt s d).trans = some x → Completes (.domainWake d w) s fun t =>
      (domAt t d).heldReq = some .on ∧ (domAt t d).trans = some x ∧ (w ≠ .poke → (domAt t d).level = true)
        ∧ t = { s with doms := t.doms })
    ∧ (domOn s d = true → (domAt s d).sleep = .none → Completes (.domainWake d w) s fun t => t = s)
    ∧ (domOn s d = true → (domAt s d).sleep = .raised → w = .poke → Completes (.domainWake d w) s fun t =>
      domAt t d = { domAt s d with sleep := .none } ∧ t = { s with doms := t.doms })
    ∧ (domOn s d = true → (domAt s d).sleep = .window → w ≠ .poke → Completes (.domainWake d w) s fun t =>
      levelNow t d = true ∧ t = { s with doms := t.doms }))
  ∧ (∀ (h : Nat) (s : State), powered s = true → h < 8 →
    (s.doms.aggressive = true → Completes (.retentionReevaluation h) s fun t =>
      sheafRetained t h ≤ banksWithin (hotStore s h + 5)
        ∧ (∀ e ∈ t.doms.retained, e ∈ s.doms.retained) ∧ (∀ e ∈ s.doms.retained, e.1 / 128 ≠ h → e ∈ t.doms.retained)
        ∧ (sheafRetained s h ≤ banksWithin (hotStore s h + 5) → t = s) ∧ t = { s with doms := t.doms })
    ∧ (s.doms.aggressive = false → Waits (.retentionReevaluation h) s))
  ∧ (∀ (h : Nat) (s : State), powered s = true → h < 8 → Completes (.keepBrownout h) s fun t =>
      keeps t h = false ∧ bit (regGet t (pwrReg h 0x800)) 0 = true
        ∧ regGet t (pwrReg h 0x810) = counterAdd (regGet s (pwrReg h 0x810)) 1
        ∧ (∀ c, c / 128 = h → coreEnabled s c = true → inRetention s c = true →
            (∀ e ∈ t.doms.retained, e.1 ≠ c)
              ∧ (∀ k, sramKey c 0 ≤ k → k < sramKey c 0 + 2 ^ 24 → FMap.find t.mem k = none)
              ∧ ((domAt s ⟨.core, c⟩).trans = none → (domAt t ⟨.core, c⟩).st = .off)
              ∧ ((∃ e ∈ s.doms.retained, e.1 = c) →
                  bit (regGet t (pwrReg h (0x880 + 8 * (c % 128 / 64)))) (c % 64) = true))
        ∧ (2 ≤ ((FMap.getD s.doms.brownTimes h []).filter fun n => decide (nowNs s < n + 1000000000)).length →
            keepFailed t h = true))
  ∧ (∀ (h : Nat) (s : State), powered s = true → h < 8 →
    (Completes (.keepSelfTest h true) s fun t => t = s)
    ∧ (keepFailed s h = false → Completes (.keepSelfTest h false) s fun t =>
      keepFailed t h = true ∧ keepBudget t h = 0
        ∧ (∃ (rs : List FaultRec) (r : FaultRec), t.fault.records = rs ++ [r] ∧ r.kind = 3 ∧ r.cause = 0x32 ∧ r.unit = h) ∧ t.mem = s.mem)
    ∧ (h ∈ s.doms.brownout → Completes (.keepRegulatorRecovery h) s fun t =>
      (keeps t h = !keepFailed s h) ∧ (∀ g, g ≠ h → keeps t g = keeps s g) ∧ t = { s with doms := t.doms })
    ∧ (h ∉ s.doms.brownout → Waits (.keepRegulatorRecovery h) s))

/-- R396, with I in µA: (I − I₀)(T₁ − T₀) = (I₁ − I₀)(T − T₀) between two points of Table 14.5, and its last column. -/
def Obligations.RetentionCurrent : Prop :=
  (∀ t : Int, t ≤ 50 → bankUa t = 4000)
  ∧ (∀ t : Int, 50 ≤ t → t ≤ 75 → (bankUa t - 4000) * (75 - 50) = (9000 - 4000) * (t - 50))
  ∧ (∀ t : Int, 75 ≤ t → t ≤ 95 → (bankUa t - 9000) * (95 - 75) = (16000 - 9000) * (t - 75))
  ∧ (∀ t : Int, 95 ≤ t → bankUa t = 16000 + 350 * (t - 95))
  ∧ banksWithin 50 = 250 ∧ banksWithin 75 = 111 ∧ banksWithin 95 = 62
  ∧ (∀ t u : Int, t ≤ u → bankUa t ≤ bankUa u ∧ banksWithin u ≤ banksWithin t)

/-- SENSOR_SAMPLE, HARDWARE_TRIP, TRAY_SENSOR_POLL, FLOW_EMERGENCY_END, FLOW_COMPUTATION, FLOW_WARNING_CLEAR, HEAT_MISMATCH,
THERMAL_ALLOWANCE_UPDATE, CORE_CEILING_UPDATE, THERMAL_CYCLE_SAMPLE and WEAR_SAMPLE.
Clauses that rest on the model's choices: log entries 2, 69, 70, 71, 72, 73. -/
def Obligations.ThermalAndWear : Prop :=
  (∀ (h : Nat) (rs : List SensorReading) (s : State), powered s = true → h < 8 →
    let c := checkSensors s h rs
    Completes (.sensorSample h rs) s fun t =>
      (∀ r ∈ rs, ∀ n, sensorNo r.sensor = some n → badReading r.celsius = true →
        excluded t h n = true ∧ (excluded s h n = false → bit (regGet t (thmReg h 0)) 3 = true))
        ∧ (∀ n, excluded s h n = true → excluded t h n = true)
        ∧ (∀ x y z, hottest c h allArray = some x → hottest c h allStore = some y → hottest c h allDram = some z →
            FMap.find t.thermal.hotArray h = some x.1 ∧ FMap.find t.thermal.hotStore h = some y.1
              ∧ FMap.find t.thermal.hotDram h = some z.1 ∧ regFld t (thmReg h 8) 7 0 = temp8 x.1
              ∧ regFld t (thmReg h 8) 15 8 = temp8 y.1 ∧ regFld t (thmReg h 8) 23 16 = temp8 z.1)
        ∧ (∀ v x, v ∈ sheafVaults s h → hottestIn c h (dramNos (v % 128)) allDram = some x →
            (95 < x.1 → bit (regGet t (vltReg v 0)) 4 = true ∧ rowLimit t v ≤ 4)
              ∧ (x.1 ≤ 93 → bit (regGet t (vltReg v 0)) 4 = false)
              ∧ (93 < x.1 → x.1 ≤ 95 → bit (regGet t (vltReg v 0)) 4 = bit (regGet s (vltReg v 0)) 4))
        ∧ t = { s with thermal := t.thermal, regs := t.regs, flash := t.flash })
  ∧ (∀ (s : State) (h : Nat) (ns kind : List Nat) (x : Int × Nat), hottestIn s h ns kind = some x →
    x.2 ∈ ns ∧ countsAs s h x.2 (maxTemp (liveTemps s h kind)) = some x.1
      ∧ ∀ n ∈ ns, ∀ y, countsAs s h n (maxTemp (liveTemps s h kind)) = some y → y ≤ x.1)
  ∧ (∀ (s : State) (h n : Nat) (hot : Int), excluded s h n = true → liveTemps s h (groupNos n) = [] →
    countsAs s h n (some hot) = some (hot + 5))
  ∧ (∀ (h n : Nat) (a : Sensor) (x : Int) (s : State), powered s = true → h < 8 → sensorNo a = some n →
    (tripAt a ≤ x → Completes (.hardwareTrip h ⟨a, some x⟩) s fun t =>
      powered t = false ∧ t.fault.tripEntry = some (sensorStop h a, x)
        ∧ t = { s with boot := { s.boot with tripped := true }, fault := { s.fault with tripEntry := t.fault.tripEntry } })
    ∧ (x < tripAt a → Waits (.hardwareTrip h ⟨a, some x⟩) s))
  ∧ (∀ (x : TrayTrack) (d : BitVec 32),
    (trayValid d = true → (x.seq ≠ some (traySeq d) ∨ x.same < 9) →
      (trayStep x (.reply d)).2 = some (trayValue d) ∧ (trayStep x (.reply d)).1.missed = 0)
    ∧ ((trayValid d = false ∨ (x.seq = some (traySeq d) ∧ 9 ≤ x.same)) →
      (trayStep x (.reply d)).2 = none ∧ (trayStep x (.reply d)).1.missed = x.missed + 1)
    ∧ (trayStep x .nack).2 = none ∧ (trayStep x .nack).1.missed = x.missed + 1)
  ∧ (∀ (k : TrayKind) (r : TrayReply) (s : State), powered s = true → firmwareRuns s = true →
    let x := trayStep (trayAt s k) r
    Completes (.traySensorPoll k r) s fun t =>
      trayAt t k = x.1 ∧ (∀ j, j ≠ k → trayAt t j = trayAt s j)
        ∧ (match k, x.2 with
          | .inlet, some v =>
            t.thermal = { s.thermal with inlet := v, inletSilent := false, tray := t.thermal.tray }
              ∧ regFld t (thmReg 0 0x108) 15 0 = unsigned 16 v ∧ bit (regGet t (thmReg 0 0)) 6 = decide (v < 1920)
              ∧ t = { s with thermal := t.thermal, regs := t.regs }
          | .inlet, none =>
            if 20 ≤ x.1.missed then
              t.thermal = { s.thermal with inletSilent := true, tray := t.thermal.tray } ∧ inletNow t = 45 * 128
                ∧ bit (regGet t (thmReg 0 0)) 6 = false ∧ t = { s with thermal := t.thermal, regs := t.regs }
            else t = { s with thermal := { s.thermal with tray := t.thermal.tray } }
          | .outlet, some v =>
            t.thermal = { s.thermal with outlet := v, outletSilent := false, tray := t.thermal.tray }
              ∧ regFld t (thmReg 0 0x108) 31 16 = unsigned 16 v ∧ t = { s with thermal := t.thermal, regs := t.regs }
          | .outlet, none => t = { s with thermal := { s.thermal with
              outletSilent := (s.thermal.outletSilent || decide (20 ≤ x.1.missed)), tray := t.thermal.tray } }
          | .flow, some v =>
            t.thermal.flow = v ∧ regFld t (thmReg 0 0x108) 47 32 = unsigned 16 v
              ∧ t.thermal.lowPolls = (if v < 160 then s.thermal.lowPolls + 1 else 0)
              ∧ t.thermal.emerg = (s.thermal.emerg || (decide (v < 160)
                  && (decide (400 ≤ s.thermal.lowPolls) || (match s.thermal.sinceHigh with
                    | some n => decide (n < 400)
                    | none => false))))
              ∧ t = { s with thermal := t.thermal, regs := t.regs, power := t.power, fault := t.fault, board := t.board }
          | .flow, none =>
            t.thermal.flow = s.thermal.flow ∧ t.thermal.okPolls = 0 ∧ t.thermal.ok2Polls = 0
              ∧ (20 ≤ x.1.missed → t.thermal.emerg = true ∧ bit (regGet t (thmReg 0 0x110)) 32 = true
                  ∧ (s.thermal.emerg = false → bit (regGet t (thmReg 0 0x110)) 33 = true
                      ∧ ∃ d : Cause, t.fault.detected = s.fault.detected ++ [d] ∧ d.code = 5 ∧ d.sub = 2))
              ∧ t = { s with thermal := t.thermal, regs := t.regs, power := t.power, fault := t.fault, board := t.board }))
  ∧ (∀ s : State, powered s = true →
    (s.thermal.emerg = true → 1001 ≤ s.thermal.okPolls → Completes .flowEmergencyEnd s fun t =>
      t.thermal = { s.thermal with emerg := false } ∧ bit (regGet t (thmReg 0 0x110)) 33 = false
        ∧ t = { s with thermal := t.thermal, regs := t.regs, board := t.board })
    ∧ ((s.thermal.emerg = false ∨ s.thermal.okPolls < 1001) → Waits .flowEmergencyEnd s))
  ∧ (∀ s : State, powered s = true → firmwareRuns s = true → Completes .flowComputation s fun t =>
      regFld t (thmReg 0 0x110) 15 0 = min 65535 (pFlow s)
        ∧ (s.thermal.outletSilent = false → regFld t (thmReg 0 0x110) 31 16 = min 65535 (heatQ s))
        ∧ t.thermal.warn1 = (s.thermal.warn1 || decide (s.thermal.flow < 680))
        ∧ t.thermal.warn2 = (s.thermal.warn2 || decide (s.thermal.flow < 480))
        ∧ t.thermal.heatPolls = (if heatShort t then s.thermal.heatPolls + 1 else 0)
        ∧ t.thermal.heat = (s.thermal.heat && heatShort t) ∧ t.mem = s.mem ∧ t.power = s.power)
  ∧ (∀ s : State, (s.thermal.flow < 320 ∨ 5760 < inletNow s → pFlow s = 1500)
    ∧ (∀ n : Nat, s.thermal.flow = n → 320 ≤ n → inletNow s ≤ 35 * 128 →
        pFlow s = 575 * n * coolFactor (coolant s) / 100000)
    ∧ (∀ n : Nat, s.thermal.flow = n → 320 ≤ n → 35 * 128 < inletNow s → inletNow s ≤ 45 * 128 →
        pFlow s = 575 * n * (3200 - (inletNow s - 4480)).toNat * coolFactor (coolant s) / 320000000))
  ∧ (∀ s : State, powered s = true →
    (s.thermal.warn1 = true → 1001 ≤ s.thermal.okPolls → Completes (.flowWarningClear 1) s fun t =>
      t = { s with thermal := { s.thermal with warn1 := false }, board := t.board })
    ∧ (s.thermal.warn2 = true → 1001 ≤ s.thermal.ok2Polls → Completes (.flowWarningClear 2) s fun t =>
      t = { s with thermal := { s.thermal with warn2 := false }, board := t.board })
    ∧ (s.thermal.warn1 = false → Waits (.flowWarningClear 1) s) ∧ (s.thermal.warn2 = false → Waits (.flowWarningClear 2) s)
    ∧ (∀ k, k ≠ 1 → k ≠ 2 → Waits (.flowWarningClear k) s)
    ∧ (2001 ≤ s.thermal.heatPolls → s.thermal.heat = false → Completes .heatMismatch s fun t =>
      t.thermal.heat = true ∧ bit (regGet t (thmReg 0 0)) 5 = true
        ∧ regGet t (thmReg 0 0x120) = counterAdd (regGet s (thmReg 0 0x120)) 1
        ∧ (∃ (rs : List FaultRec) (r : FaultRec), t.fault.records = rs ++ [r] ∧ r.kind = 4 ∧ r.cause = 0x42) ∧ t.mem = s.mem)
    ∧ ((s.thermal.heatPolls < 2001 ∨ s.thermal.heat = true) → Waits .heatMismatch s))
  ∧ (∀ (h : Nat) (s : State), powered s = true → h < 8 →
    let p := sheafMw s h
    let a := FMap.find s.thermal.allow h
    Completes (.thermalAllowanceUpdate h) s fun t =>
      (thermalEmergency s h = true → FMap.find t.thermal.allow h = some (min (a.getD p) p * 90 / 100))
        ∧ (thermalEmergency s h = false → 0 < excess s h → FMap.find t.thermal.allow h = some (min (a.getD p) p * 98 / 100))
        ∧ (thermalEmergency s h = false → excess s h ≤ 0 → -2 ≤ excess s h → FMap.find t.thermal.allow h = a)
        ∧ (thermalEmergency s h = false → excess s h < -2 → ∀ x, a = some x → FMap.find t.thermal.allow h
            = (if effCapMw s / 8 < x + p / 100 then none else some (x + p / 100)))
        ∧ (a = none → thermalEmergency s h = false → excess s h ≤ 0 → FMap.find t.thermal.allow h = none)
        ∧ bit (regGet t (thmReg h 0)) 0 = (FMap.find t.thermal.allow h).isSome
        ∧ bit (regGet t (thmReg h 0)) 1 = thermalEmergency s h
        ∧ (∀ g, g ≠ h → FMap.find t.thermal.allow g = FMap.find s.thermal.allow g)
        ∧ t = { s with thermal := { s.thermal with allow := t.thermal.allow }, regs := t.regs, board := t.board })
  ∧ (∀ (c : Nat) (x : Int) (s : State), powered s = true → coreEnabled s c = true →
    hottestOf s (c / 128) (arrayNos (c % 128)) allArray = some x →
    Completes (.coreCeilingUpdate c) s fun t =>
      (reserveCore s c = true → bit (regGet s (thmReg (c / 128) 0)) 1 = false → (govAt t c).thermCeil = 16)
        ∧ ((reserveCore s c = false ∨ bit (regGet s (thmReg (c / 128) 0)) 1 = true) →
          (throttleTarget s + 3 < x → (govAt t c).thermCeil = max 4 ((govAt s c).thermCeil - 2))
            ∧ (x ≤ throttleTarget s - 2 → (govAt t c).thermCeil = min 16 ((govAt s c).thermCeil + 1))
            ∧ (throttleTarget s - 2 < x → x ≤ throttleTarget s + 3 → (govAt t c).thermCeil = (govAt s c).thermCeil))
        ∧ permitOf t c ≤ permitCeil t c ∧ RegsKept s t [coreReg c 0x128] ∧ (∀ d, d ≠ c → govAt t d = govAt s d)
        ∧ t = { s with power := t.power, regs := t.regs })
  ∧ (∀ (c : Nat) (s : State), hottestOf s (c / 128) (arrayNos (c % 128)) allArray = none → Waits (.coreCeilingUpdate c) s)
  ∧ (∀ (h : Nat) (x lo hi : Int) (s : State), powered s = true → h < 8 → FMap.find s.thermal.hotStore h = some x →
    FMap.find s.wear.tmin h = some lo → FMap.find s.wear.tpeak h = some hi → Completes (.thermalCycleSample h) s fun t =>
      h ∈ t.thermal.cycled
        ∧ (x ≤ max hi x - 25 → (h ∉ s.thermal.cycled ∨ lo + 25 ≤ max hi x) → sheafCycles t h = sheafCycles s h + 1
            ∧ FMap.find t.wear.tmin h = some x ∧ FMap.find t.wear.tpeak h = some x)
        ∧ (x < lo → (max hi x - 25 < x ∨ (h ∈ s.thermal.cycled ∧ max hi x < lo + 25)) → sheafCycles t h = sheafCycles s h
            ∧ FMap.find t.wear.tmin h = some x ∧ FMap.find t.wear.tpeak h = some x)
        ∧ (max hi x - 25 < x → lo ≤ x → sheafCycles t h = sheafCycles s h ∧ FMap.find t.wear.tmin h = some lo
            ∧ FMap.find t.wear.tpeak h = some (max hi x))
        ∧ t = { s with thermal := { s.thermal with cycled := t.thermal.cycled }, wear := t.wear })
  ∧ (∀ (h : Nat) (x : Int) (s : State), powered s = true → h < 8 → FMap.find s.thermal.hotStore h = some x →
    FMap.find s.wear.tmin h = none → Completes (.thermalCycleSample h) s fun t =>
      h ∈ t.thermal.cycled ∧ FMap.find t.wear.tmin h = some x ∧ FMap.find t.wear.tpeak h = some x ∧ sheafCycles t h = sheafCycles s h)
  ∧ (∀ (h : Nat) (s : State), FMap.find s.thermal.hotStore h = none → Waits (.thermalCycleSample h) s)
  ∧ (∀ (r : WearReading) (s : State), powered s = true → wearOk r = true → Completes (.wearSample [r]) s fun t =>
      (match r with
        | .ageing c m n => FMap.find t.wear.ageing (4 * c + m) = some (n / 3)
        | .resistance h m n => FMap.find t.wear.resist (64 * h + m) = some (n / 20)
        | .eye l k n => FMap.find t.wear.eye (8 * l + k) = some ((1000000 - n) / 60)
            ∧ (n ≤ 400000 → ∃ u ∈ t.flash.marked, u.kind = 2 ∧ u.number = l ∧ u.sub = k)
        | .hours n => t.wear.hours = n)
        ∧ (∃ (e : WearSnap) (es : List WearSnap), t.wear.log = e :: es ∧ e.hours = t.wear.hours ∧ e.dtime = nowNs s)
        ∧ (∀ e ∈ t.wear.log, t.wear.hours ≤ e.hours + 720) ∧ t = { s with wear := t.wear, flash := t.flash })
end

