-- ==== Sys2Proof/Laws/Maps.lean ====
section
/-! SUPPORT. Sparse tables and bit fields: reads after writes, and the order of the keys. -/

namespace Sys2Proof.Machine

variable {α : Type}

/-! ### Reads after writes -/

@[simp] theorem FMap.find_nil (a : Nat) : FMap.find ([] : FMap α) a = none := rfl

@[simp] theorem FMap.find_set_same (m : FMap α) (a : Nat) (x : α) : FMap.find (FMap.set m a x) a = some x := by
  induction m with
  | nil => simp [FMap.set, FMap.find]
  | cons e m ih =>
    simp only [FMap.set]
    split
    · simp [FMap.find]
    · split <;> simp [FMap.find, *]

theorem FMap.find_set_ne (m : FMap α) {a b : Nat} (x : α) (h : b ≠ a) :
    FMap.find (FMap.set m a x) b = FMap.find m b := by
  induction m with
  | nil => simp [FMap.set, FMap.find, h]
  | cons e m ih =>
    simp only [FMap.set]
    split
    · simp_all [FMap.find]
    · split <;> simp [FMap.find, *]

@[simp] theorem FMap.find_drop_same (m : FMap α) (a : Nat) : FMap.find (FMap.drop m a) a = none := by
  induction m with
  | nil => rfl
  | cons e m ih =>
    simp only [FMap.drop]
    split
    · exact ih
    · simp [FMap.find, *]

theorem FMap.find_drop_ne (m : FMap α) {a b : Nat} (h : b ≠ a) : FMap.find (FMap.drop m a) b = FMap.find m b := by
  induction m with
  | nil => rfl
  | cons e m ih =>
    simp only [FMap.drop]
    split
    · simp_all [FMap.find]
    · simp [FMap.find, ih]

@[simp] theorem FMap.getD_set_same (m : FMap α) (a : Nat) (x d : α) : FMap.getD (FMap.set m a x) a d = x := by
  simp [FMap.getD]

theorem FMap.getD_set_ne (m : FMap α) {a b : Nat} (x d : α) (h : b ≠ a) :
    FMap.getD (FMap.set m a x) b d = FMap.getD m b d := by
  simp [FMap.getD, FMap.find_set_ne m x h]

/-! ### The order of the keys -/

/-- Every key of a table is above a bound. -/
def FMap.above (m : FMap α) (k : Nat) : Prop := ∀ e ∈ m, k < e.1

theorem FMap.wf_cons (k : Nat) (v : α) (m : FMap α) :
    FMap.wf ((k, v) :: m) = true ↔ FMap.above m k ∧ FMap.wf m = true := by
  induction m generalizing k v with
  | nil => simp [FMap.wf, FMap.above]
  | cons e m ih =>
    obtain ⟨b, y⟩ := e
    simp only [FMap.wf, Bool.and_eq_true, decide_eq_true_eq]
    constructor
    · rintro ⟨h, hw⟩
      refine ⟨?_, hw⟩
      intro e he
      rcases List.mem_cons.1 he with rfl | he
      · exact h
      · exact lt_trans h ((ih b y).1 hw |>.1 e he)
    · rintro ⟨h, hw⟩
      exact ⟨h (b, y) (by simp), hw⟩

theorem FMap.above_set (m : FMap α) {a k : Nat} (x : α) (h : FMap.above m k) (ha : k < a) :
    FMap.above (FMap.set m a x) k := by
  induction m with
  | nil => intro e he; simp only [FMap.set, List.mem_singleton] at he; subst he; exact ha
  | cons e m ih =>
    have h1 : k < e.1 := h e (by simp)
    have h2 : FMap.above m k := fun e' he => h e' (by simp [he])
    simp only [FMap.set]
    split
    · intro e' he
      rcases List.mem_cons.1 he with rfl | he
      · exact ha
      · exact h2 e' he
    · split
      · intro e' he
        rcases List.mem_cons.1 he with rfl | he
        · exact ha
        · exact h e' he
      · intro e' he
        rcases List.mem_cons.1 he with rfl | he
        · exact h1
        · exact ih h2 e' he

theorem FMap.wf_set (m : FMap α) (a : Nat) (x : α) (h : FMap.wf m = true) : FMap.wf (FMap.set m a x) = true := by
  induction m with
  | nil => rfl
  | cons e m ih =>
    obtain ⟨k, v⟩ := e
    obtain ⟨ha, hw⟩ := (FMap.wf_cons k v m).1 h
    simp only [FMap.set]
    split
    · subst_vars
      exact (FMap.wf_cons _ _ _).2 ⟨ha, hw⟩
    · split
      · refine (FMap.wf_cons _ _ _).2 ⟨?_, h⟩
        intro e he
        rcases List.mem_cons.1 he with rfl | he
        · assumption
        · exact lt_trans ‹_› (ha e he)
      · exact (FMap.wf_cons _ _ _).2 ⟨FMap.above_set m x ha (by omega), ih hw⟩

theorem FMap.wf_filter (m : FMap α) (p : Nat × α → Bool) (h : FMap.wf m = true) : FMap.wf (m.filter p) = true := by
  induction m with
  | nil => rfl
  | cons e m ih =>
    obtain ⟨k, v⟩ := e
    obtain ⟨ha, hw⟩ := (FMap.wf_cons k v m).1 h
    simp only [List.filter]
    split
    · exact (FMap.wf_cons _ _ _).2 ⟨fun e he => ha e (List.mem_filter.1 he).1, ih hw⟩
    · exact ih hw

theorem FMap.drop_eq_filter (m : FMap α) (a : Nat) : FMap.drop m a = m.filter fun e => decide (a ≠ e.1) := by
  induction m with
  | nil => rfl
  | cons e m ih =>
    simp only [FMap.drop, List.filter]
    split <;> simp_all

theorem FMap.wf_drop (m : FMap α) (a : Nat) (h : FMap.wf m = true) : FMap.wf (FMap.drop m a) = true := by
  rw [FMap.drop_eq_filter]; exact FMap.wf_filter m _ h

/-! ### Bit fields -/

theorem bits_lt (x hi lo : Nat) : bits x hi lo < 2 ^ (hi + 1 - lo) := Nat.mod_lt _ (by positivity)

theorem bits_le (x hi lo : Nat) : bits x hi lo * 2 ^ lo ≤ x :=
  le_trans (Nat.mul_le_mul_right _ (Nat.mod_le _ _)) (Nat.div_mul_le_self x _)

/-- A number is what lies above a field, the field, and what lies below it. -/
theorem setBits_eq (x hi lo v : Nat) (h : lo ≤ hi + 1) :
    setBits x hi lo v = x / 2 ^ (hi + 1) * 2 ^ (hi + 1) + v % 2 ^ (hi + 1 - lo) * 2 ^ lo + x % 2 ^ lo := by
  have e : (2 : Nat) ^ (hi + 1) = 2 ^ lo * 2 ^ (hi + 1 - lo) := by rw [← pow_add]; congr 1; omega
  have h1 := Nat.div_add_mod x (2 ^ lo)
  have h2 := Nat.div_add_mod (x / 2 ^ lo) (2 ^ (hi + 1 - lo))
  have h3 : x / 2 ^ (hi + 1) = x / 2 ^ lo / 2 ^ (hi + 1 - lo) := by rw [e, Nat.div_div_eq_div_mul]
  have h4 : x = x / 2 ^ (hi + 1) * 2 ^ (hi + 1) + bits x hi lo * 2 ^ lo + x % 2 ^ lo := by
    unfold bits
    rw [h3, e]
    nth_rewrite 1 [← h1, ← h2]
    ring
  unfold setBits
  omega

@[simp] theorem bits_setBits_same (x hi lo v : Nat) (h : lo ≤ hi + 1) :
    bits (setBits x hi lo v) hi lo = v % 2 ^ (hi + 1 - lo) := by
  have e : (2 : Nat) ^ (hi + 1) = 2 ^ lo * 2 ^ (hi + 1 - lo) := by rw [← pow_add]; congr 1; omega
  rw [setBits_eq x hi lo v h]
  unfold bits
  have hp : 0 < (2 : Nat) ^ lo := by positivity
  have : (x / 2 ^ (hi + 1) * 2 ^ (hi + 1) + v % 2 ^ (hi + 1 - lo) * 2 ^ lo + x % 2 ^ lo) / 2 ^ lo
      = x / 2 ^ (hi + 1) * 2 ^ (hi + 1 - lo) + v % 2 ^ (hi + 1 - lo) := by
    rw [show x / 2 ^ (hi + 1) * 2 ^ (hi + 1) + v % 2 ^ (hi + 1 - lo) * 2 ^ lo + x % 2 ^ lo
        = x % 2 ^ lo + 2 ^ lo * (x / 2 ^ (hi + 1) * 2 ^ (hi + 1 - lo) + v % 2 ^ (hi + 1 - lo)) by rw [e]; ring,
      Nat.add_mul_div_left _ _ hp, Nat.div_eq_of_lt (Nat.mod_lt x hp), Nat.zero_add]
  rw [this, Nat.mul_add_mod_self_right, Nat.mod_mod]

theorem bits_setBits_below (x hi lo v hi' lo' : Nat) (h : lo ≤ hi + 1) (hd : hi' < lo) :
    bits (setBits x hi lo v) hi' lo' = bits x hi' lo' := by
  by_cases hl : lo' ≤ hi' + 1
  · have e : (2 : Nat) ^ (hi + 1) = 2 ^ lo * 2 ^ (hi + 1 - lo) := by rw [← pow_add]; congr 1; omega
    have hp : 0 < (2 : Nat) ^ lo := by positivity
    have hm : setBits x hi lo v % 2 ^ lo = x % 2 ^ lo := by
      rw [setBits_eq x hi lo v h, show x / 2 ^ (hi + 1) * 2 ^ (hi + 1) + v % 2 ^ (hi + 1 - lo) * 2 ^ lo + x % 2 ^ lo
        = x % 2 ^ lo + 2 ^ lo * (x / 2 ^ (hi + 1) * 2 ^ (hi + 1 - lo) + v % 2 ^ (hi + 1 - lo)) by rw [e]; ring,
        Nat.add_mul_mod_self_left, Nat.mod_mod]
    have key : ∀ y, bits y hi' lo' = y % 2 ^ lo % 2 ^ (hi' + 1) / 2 ^ lo' := by
      intro y
      rw [Nat.mod_mod_of_dvd y (pow_dvd_pow 2 (by omega : hi' + 1 ≤ lo))]
      unfold bits
      rw [show (2 : Nat) ^ (hi' + 1) = 2 ^ lo' * 2 ^ (hi' + 1 - lo') by rw [← pow_add]; congr 1; omega,
        Nat.mod_mul_right_div_self]
    rw [key, key, hm]
  · have : hi' + 1 - lo' = 0 := by omega
    simp [bits, this, Nat.mod_one]

theorem bits_setBits_above (x hi lo v hi' lo' : Nat) (h : lo ≤ hi + 1) (hd : hi < lo') :
    bits (setBits x hi lo v) hi' lo' = bits x hi' lo' := by
  have e : (2 : Nat) ^ (hi + 1) = 2 ^ lo * 2 ^ (hi + 1 - lo) := by rw [← pow_add]; congr 1; omega
  have hp : 0 < (2 : Nat) ^ (hi + 1) := by positivity
  have hs : v % 2 ^ (hi + 1 - lo) * 2 ^ lo + x % 2 ^ lo < 2 ^ (hi + 1) := by
    have h1 : v % 2 ^ (hi + 1 - lo) + 1 ≤ 2 ^ (hi + 1 - lo) := Nat.mod_lt _ (by positivity)
    have h2 : x % 2 ^ lo < 2 ^ lo := Nat.mod_lt _ (by positivity)
    calc _ < v % 2 ^ (hi + 1 - lo) * 2 ^ lo + 2 ^ lo := by omega
      _ = (v % 2 ^ (hi + 1 - lo) + 1) * 2 ^ lo := by ring
      _ ≤ 2 ^ (hi + 1 - lo) * 2 ^ lo := Nat.mul_le_mul_right _ h1
      _ = 2 ^ (hi + 1) := by rw [e]; ring
  have hq : setBits x hi lo v / 2 ^ (hi + 1) = x / 2 ^ (hi + 1) := by
    rw [setBits_eq x hi lo v h, add_assoc, Nat.mul_comm, Nat.mul_add_div hp, Nat.div_eq_of_lt hs, Nat.add_zero]
  have key : ∀ y, y / 2 ^ lo' = y / 2 ^ (hi + 1) / 2 ^ (lo' - (hi + 1)) := by
    intro y
    rw [Nat.div_div_eq_div_mul, ← pow_add]; congr 2; omega
  unfold bits
  rw [key, key x, hq]

theorem setBits_lt (x hi lo v n : Nat) (h : lo ≤ hi + 1) (hn : hi < n) (hx : x < 2 ^ n) : setBits x hi lo v < 2 ^ n := by
  have e : (2 : Nat) ^ (hi + 1) = 2 ^ lo * 2 ^ (hi + 1 - lo) := by rw [← pow_add]; congr 1; omega
  have en : (2 : Nat) ^ n = 2 ^ (hi + 1) * 2 ^ (n - (hi + 1)) := by rw [← pow_add]; congr 1; omega
  rw [setBits_eq x hi lo v h]
  have h1 : v % 2 ^ (hi + 1 - lo) + 1 ≤ 2 ^ (hi + 1 - lo) := Nat.mod_lt _ (by positivity)
  have h2 : x % 2 ^ lo < 2 ^ lo := Nat.mod_lt _ (by positivity)
  have hs : v % 2 ^ (hi + 1 - lo) * 2 ^ lo + x % 2 ^ lo < 2 ^ (hi + 1) := by
    calc _ < v % 2 ^ (hi + 1 - lo) * 2 ^ lo + 2 ^ lo := by omega
      _ = (v % 2 ^ (hi + 1 - lo) + 1) * 2 ^ lo := by ring
      _ ≤ 2 ^ (hi + 1 - lo) * 2 ^ lo := Nat.mul_le_mul_right _ h1
      _ = 2 ^ (hi + 1) := by rw [e]; ring
  have h3 : x / 2 ^ (hi + 1) + 1 ≤ 2 ^ (n - (hi + 1)) := by
    have : x / 2 ^ (hi + 1) < 2 ^ (n - (hi + 1)) := by
      rw [Nat.div_lt_iff_lt_mul (by positivity)]; rw [en] at hx; linarith [Nat.mul_comm (2 ^ (hi + 1)) (2 ^ (n - (hi + 1)))]
    exact this
  calc _ < x / 2 ^ (hi + 1) * 2 ^ (hi + 1) + 2 ^ (hi + 1) := by omega
    _ = (x / 2 ^ (hi + 1) + 1) * 2 ^ (hi + 1) := by ring
    _ ≤ 2 ^ (n - (hi + 1)) * 2 ^ (hi + 1) := Nat.mul_le_mul_right _ h3
    _ = 2 ^ n := by rw [en]; ring

/-- One bit is a field of one bit. -/
theorem bit_eq_bits (x i : Nat) : bit x i = (bits x i i == 1) := by
  simp [bit, bits]

theorem b2n_lt (b : Bool) : b2n b < 2 := by cases b <;> decide

theorem b2n_mod (b : Bool) : b2n b % 2 = b2n b := by cases b <;> rfl

end Sys2Proof.Machine
end

