-- ==== Sys2Proof/Laws/State.lean ====
section
/-! SUPPORT. What each named update leaves unchanged: one lemma per field per update. -/

namespace Sys2Proof.Machine

/-- A fold of steps that each keep a view of the state keeps it. -/
theorem foldl_keep {α β : Type} (g : State → β) (f : State → α → State) (h : ∀ s a, g (f s a) = g s) (l : List α) (s : State) :
    g (l.foldl f s) = g s := by
  induction l generalizing s with
  | nil => rfl
  | cons a l ih => rw [List.foldl_cons, ih, h]

/-- The same for steps that may end in a fault. -/
theorem foldlM_keep {α β : Type} (g : State → β) (f : State → α → Except Fault State)
    (h : ∀ s a t, f s a = .ok t → g t = g s) (l : List α) (s t : State) (ht : l.foldlM f s = .ok t) : g t = g s := by
  induction l generalizing s with
  | nil => cases ht; rfl
  | cons a l ih =>
    rw [List.foldlM_cons] at ht
    cases hf : f s a with
    | error e => rw [hf] at ht; cases ht
    | ok u => rw [hf] at ht; rw [ih u ht, h s a u hf]

/-! ### `bump` -/

@[simp] theorem bump_pending (s : State) : (bump s).pending = s.pending := (rfl)
@[simp] theorem bump_mem (s : State) : (bump s).mem = s.mem := (rfl)
@[simp] theorem bump_marks (s : State) : (bump s).marks = s.marks := (rfl)
@[simp] theorem bump_regs (s : State) : (bump s).regs = s.regs := (rfl)
@[simp] theorem bump_boot (s : State) : (bump s).boot = s.boot := (rfl)
@[simp] theorem bump_flash (s : State) : (bump s).flash = s.flash := (rfl)
@[simp] theorem bump_fault (s : State) : (bump s).fault = s.fault := (rfl)
@[simp] theorem bump_job (s : State) : (bump s).job = s.job := (rfl)
@[simp] theorem bump_cores (s : State) : (bump s).cores = s.cores := (rfl)
@[simp] theorem bump_vaults (s : State) : (bump s).vaults = s.vaults := (rfl)
@[simp] theorem bump_rings (s : State) : (bump s).rings = s.rings := (rfl)
@[simp] theorem bump_pages (s : State) : (bump s).pages = s.pages := (rfl)
@[simp] theorem bump_guard (s : State) : (bump s).guard = s.guard := (rfl)
@[simp] theorem bump_pails (s : State) : (bump s).pails = s.pails := (rfl)
@[simp] theorem bump_wq (s : State) : (bump s).wq = s.wq := (rfl)
@[simp] theorem bump_links (s : State) : (bump s).links = s.links := (rfl)
@[simp] theorem bump_stoby (s : State) : (bump s).stoby = s.stoby := (rfl)
@[simp] theorem bump_time (s : State) : (bump s).time = s.time := (rfl)
@[simp] theorem bump_host (s : State) : (bump s).host = s.host := (rfl)
@[simp] theorem bump_board (s : State) : (bump s).board = s.board := (rfl)
@[simp] theorem bump_power (s : State) : (bump s).power = s.power := (rfl)
@[simp] theorem bump_doms (s : State) : (bump s).doms = s.doms := (rfl)
@[simp] theorem bump_thermal (s : State) : (bump s).thermal = s.thermal := (rfl)
@[simp] theorem bump_wear (s : State) : (bump s).wear = s.wear := (rfl)
@[simp] theorem bump_pmc (s : State) : (bump s).pmc = s.pmc := (rfl)

/-! ### `regSet` -/

@[simp] theorem regSet_pending (s : State) (a v : Nat) : (regSet s a v).pending = s.pending := (rfl)
@[simp] theorem regSet_free (s : State) (a v : Nat) : (regSet s a v).free = s.free := (rfl)
@[simp] theorem regSet_mem (s : State) (a v : Nat) : (regSet s a v).mem = s.mem := (rfl)
@[simp] theorem regSet_marks (s : State) (a v : Nat) : (regSet s a v).marks = s.marks := (rfl)
@[simp] theorem regSet_boot (s : State) (a v : Nat) : (regSet s a v).boot = s.boot := (rfl)
@[simp] theorem regSet_flash (s : State) (a v : Nat) : (regSet s a v).flash = s.flash := (rfl)
@[simp] theorem regSet_fault (s : State) (a v : Nat) : (regSet s a v).fault = s.fault := (rfl)
@[simp] theorem regSet_job (s : State) (a v : Nat) : (regSet s a v).job = s.job := (rfl)
@[simp] theorem regSet_cores (s : State) (a v : Nat) : (regSet s a v).cores = s.cores := (rfl)
@[simp] theorem regSet_vaults (s : State) (a v : Nat) : (regSet s a v).vaults = s.vaults := (rfl)
@[simp] theorem regSet_rings (s : State) (a v : Nat) : (regSet s a v).rings = s.rings := (rfl)
@[simp] theorem regSet_pages (s : State) (a v : Nat) : (regSet s a v).pages = s.pages := (rfl)
@[simp] theorem regSet_guard (s : State) (a v : Nat) : (regSet s a v).guard = s.guard := (rfl)
@[simp] theorem regSet_pails (s : State) (a v : Nat) : (regSet s a v).pails = s.pails := (rfl)
@[simp] theorem regSet_wq (s : State) (a v : Nat) : (regSet s a v).wq = s.wq := (rfl)
@[simp] theorem regSet_links (s : State) (a v : Nat) : (regSet s a v).links = s.links := (rfl)
@[simp] theorem regSet_stoby (s : State) (a v : Nat) : (regSet s a v).stoby = s.stoby := (rfl)
@[simp] theorem regSet_time (s : State) (a v : Nat) : (regSet s a v).time = s.time := (rfl)
@[simp] theorem regSet_host (s : State) (a v : Nat) : (regSet s a v).host = s.host := (rfl)
@[simp] theorem regSet_board (s : State) (a v : Nat) : (regSet s a v).board = s.board := (rfl)
@[simp] theorem regSet_power (s : State) (a v : Nat) : (regSet s a v).power = s.power := (rfl)
@[simp] theorem regSet_doms (s : State) (a v : Nat) : (regSet s a v).doms = s.doms := (rfl)
@[simp] theorem regSet_thermal (s : State) (a v : Nat) : (regSet s a v).thermal = s.thermal := (rfl)
@[simp] theorem regSet_wear (s : State) (a v : Nat) : (regSet s a v).wear = s.wear := (rfl)
@[simp] theorem regSet_pmc (s : State) (a v : Nat) : (regSet s a v).pmc = s.pmc := (rfl)

/-! ### `regSetFld` -/

@[simp] theorem regSetFld_pending (s : State) (a hi lo v : Nat) : (regSetFld s a hi lo v).pending = s.pending := (rfl)
@[simp] theorem regSetFld_free (s : State) (a hi lo v : Nat) : (regSetFld s a hi lo v).free = s.free := (rfl)
@[simp] theorem regSetFld_mem (s : State) (a hi lo v : Nat) : (regSetFld s a hi lo v).mem = s.mem := (rfl)
@[simp] theorem regSetFld_marks (s : State) (a hi lo v : Nat) : (regSetFld s a hi lo v).marks = s.marks := (rfl)
@[simp] theorem regSetFld_boot (s : State) (a hi lo v : Nat) : (regSetFld s a hi lo v).boot = s.boot := (rfl)
@[simp] theorem regSetFld_flash (s : State) (a hi lo v : Nat) : (regSetFld s a hi lo v).flash = s.flash := (rfl)
@[simp] theorem regSetFld_fault (s : State) (a hi lo v : Nat) : (regSetFld s a hi lo v).fault = s.fault := (rfl)
@[simp] theorem regSetFld_job (s : State) (a hi lo v : Nat) : (regSetFld s a hi lo v).job = s.job := (rfl)
@[simp] theorem regSetFld_cores (s : State) (a hi lo v : Nat) : (regSetFld s a hi lo v).cores = s.cores := (rfl)
@[simp] theorem regSetFld_vaults (s : State) (a hi lo v : Nat) : (regSetFld s a hi lo v).vaults = s.vaults := (rfl)
@[simp] theorem regSetFld_rings (s : State) (a hi lo v : Nat) : (regSetFld s a hi lo v).rings = s.rings := (rfl)
@[simp] theorem regSetFld_pages (s : State) (a hi lo v : Nat) : (regSetFld s a hi lo v).pages = s.pages := (rfl)
@[simp] theorem regSetFld_guard (s : State) (a hi lo v : Nat) : (regSetFld s a hi lo v).guard = s.guard := (rfl)
@[simp] theorem regSetFld_pails (s : State) (a hi lo v : Nat) : (regSetFld s a hi lo v).pails = s.pails := (rfl)
@[simp] theorem regSetFld_wq (s : State) (a hi lo v : Nat) : (regSetFld s a hi lo v).wq = s.wq := (rfl)
@[simp] theorem regSetFld_links (s : State) (a hi lo v : Nat) : (regSetFld s a hi lo v).links = s.links := (rfl)
@[simp] theorem regSetFld_stoby (s : State) (a hi lo v : Nat) : (regSetFld s a hi lo v).stoby = s.stoby := (rfl)
@[simp] theorem regSetFld_time (s : State) (a hi lo v : Nat) : (regSetFld s a hi lo v).time = s.time := (rfl)
@[simp] theorem regSetFld_host (s : State) (a hi lo v : Nat) : (regSetFld s a hi lo v).host = s.host := (rfl)
@[simp] theorem regSetFld_board (s : State) (a hi lo v : Nat) : (regSetFld s a hi lo v).board = s.board := (rfl)
@[simp] theorem regSetFld_power (s : State) (a hi lo v : Nat) : (regSetFld s a hi lo v).power = s.power := (rfl)
@[simp] theorem regSetFld_doms (s : State) (a hi lo v : Nat) : (regSetFld s a hi lo v).doms = s.doms := (rfl)
@[simp] theorem regSetFld_thermal (s : State) (a hi lo v : Nat) : (regSetFld s a hi lo v).thermal = s.thermal := (rfl)
@[simp] theorem regSetFld_wear (s : State) (a hi lo v : Nat) : (regSetFld s a hi lo v).wear = s.wear := (rfl)
@[simp] theorem regSetFld_pmc (s : State) (a hi lo v : Nat) : (regSetFld s a hi lo v).pmc = s.pmc := (rfl)

/-! ### `regFlag` -/

@[simp] theorem regFlag_pending (s : State) (a i : Nat) (b : Bool) : (regFlag s a i b).pending = s.pending := (rfl)
@[simp] theorem regFlag_free (s : State) (a i : Nat) (b : Bool) : (regFlag s a i b).free = s.free := (rfl)
@[simp] theorem regFlag_mem (s : State) (a i : Nat) (b : Bool) : (regFlag s a i b).mem = s.mem := (rfl)
@[simp] theorem regFlag_marks (s : State) (a i : Nat) (b : Bool) : (regFlag s a i b).marks = s.marks := (rfl)
@[simp] theorem regFlag_boot (s : State) (a i : Nat) (b : Bool) : (regFlag s a i b).boot = s.boot := (rfl)
@[simp] theorem regFlag_flash (s : State) (a i : Nat) (b : Bool) : (regFlag s a i b).flash = s.flash := (rfl)
@[simp] theorem regFlag_fault (s : State) (a i : Nat) (b : Bool) : (regFlag s a i b).fault = s.fault := (rfl)
@[simp] theorem regFlag_job (s : State) (a i : Nat) (b : Bool) : (regFlag s a i b).job = s.job := (rfl)
@[simp] theorem regFlag_cores (s : State) (a i : Nat) (b : Bool) : (regFlag s a i b).cores = s.cores := (rfl)
@[simp] theorem regFlag_vaults (s : State) (a i : Nat) (b : Bool) : (regFlag s a i b).vaults = s.vaults := (rfl)
@[simp] theorem regFlag_rings (s : State) (a i : Nat) (b : Bool) : (regFlag s a i b).rings = s.rings := (rfl)
@[simp] theorem regFlag_pages (s : State) (a i : Nat) (b : Bool) : (regFlag s a i b).pages = s.pages := (rfl)
@[simp] theorem regFlag_guard (s : State) (a i : Nat) (b : Bool) : (regFlag s a i b).guard = s.guard := (rfl)
@[simp] theorem regFlag_pails (s : State) (a i : Nat) (b : Bool) : (regFlag s a i b).pails = s.pails := (rfl)
@[simp] theorem regFlag_wq (s : State) (a i : Nat) (b : Bool) : (regFlag s a i b).wq = s.wq := (rfl)
@[simp] theorem regFlag_links (s : State) (a i : Nat) (b : Bool) : (regFlag s a i b).links = s.links := (rfl)
@[simp] theorem regFlag_stoby (s : State) (a i : Nat) (b : Bool) : (regFlag s a i b).stoby = s.stoby := (rfl)
@[simp] theorem regFlag_time (s : State) (a i : Nat) (b : Bool) : (regFlag s a i b).time = s.time := (rfl)
@[simp] theorem regFlag_host (s : State) (a i : Nat) (b : Bool) : (regFlag s a i b).host = s.host := (rfl)
@[simp] theorem regFlag_board (s : State) (a i : Nat) (b : Bool) : (regFlag s a i b).board = s.board := (rfl)
@[simp] theorem regFlag_power (s : State) (a i : Nat) (b : Bool) : (regFlag s a i b).power = s.power := (rfl)
@[simp] theorem regFlag_doms (s : State) (a i : Nat) (b : Bool) : (regFlag s a i b).doms = s.doms := (rfl)
@[simp] theorem regFlag_thermal (s : State) (a i : Nat) (b : Bool) : (regFlag s a i b).thermal = s.thermal := (rfl)
@[simp] theorem regFlag_wear (s : State) (a i : Nat) (b : Bool) : (regFlag s a i b).wear = s.wear := (rfl)
@[simp] theorem regFlag_pmc (s : State) (a i : Nat) (b : Bool) : (regFlag s a i b).pmc = s.pmc := (rfl)

/-! ### `count` -/

@[simp] theorem count_pending (s : State) (a n : Nat) : (count s a n).pending = s.pending := (rfl)
@[simp] theorem count_free (s : State) (a n : Nat) : (count s a n).free = s.free := (rfl)
@[simp] theorem count_mem (s : State) (a n : Nat) : (count s a n).mem = s.mem := (rfl)
@[simp] theorem count_marks (s : State) (a n : Nat) : (count s a n).marks = s.marks := (rfl)
@[simp] theorem count_boot (s : State) (a n : Nat) : (count s a n).boot = s.boot := (rfl)
@[simp] theorem count_flash (s : State) (a n : Nat) : (count s a n).flash = s.flash := (rfl)
@[simp] theorem count_fault (s : State) (a n : Nat) : (count s a n).fault = s.fault := (rfl)
@[simp] theorem count_job (s : State) (a n : Nat) : (count s a n).job = s.job := (rfl)
@[simp] theorem count_cores (s : State) (a n : Nat) : (count s a n).cores = s.cores := (rfl)
@[simp] theorem count_vaults (s : State) (a n : Nat) : (count s a n).vaults = s.vaults := (rfl)
@[simp] theorem count_rings (s : State) (a n : Nat) : (count s a n).rings = s.rings := (rfl)
@[simp] theorem count_pages (s : State) (a n : Nat) : (count s a n).pages = s.pages := (rfl)
@[simp] theorem count_guard (s : State) (a n : Nat) : (count s a n).guard = s.guard := (rfl)
@[simp] theorem count_pails (s : State) (a n : Nat) : (count s a n).pails = s.pails := (rfl)
@[simp] theorem count_wq (s : State) (a n : Nat) : (count s a n).wq = s.wq := (rfl)
@[simp] theorem count_links (s : State) (a n : Nat) : (count s a n).links = s.links := (rfl)
@[simp] theorem count_stoby (s : State) (a n : Nat) : (count s a n).stoby = s.stoby := (rfl)
@[simp] theorem count_time (s : State) (a n : Nat) : (count s a n).time = s.time := (rfl)
@[simp] theorem count_host (s : State) (a n : Nat) : (count s a n).host = s.host := (rfl)
@[simp] theorem count_board (s : State) (a n : Nat) : (count s a n).board = s.board := (rfl)
@[simp] theorem count_power (s : State) (a n : Nat) : (count s a n).power = s.power := (rfl)
@[simp] theorem count_doms (s : State) (a n : Nat) : (count s a n).doms = s.doms := (rfl)
@[simp] theorem count_thermal (s : State) (a n : Nat) : (count s a n).thermal = s.thermal := (rfl)
@[simp] theorem count_wear (s : State) (a n : Nat) : (count s a n).wear = s.wear := (rfl)
@[simp] theorem count_pmc (s : State) (a n : Nat) : (count s a n).pmc = s.pmc := (rfl)

/-! ### `event` -/

@[simp] theorem event_pending (s : State) (a i n : Nat) : (event s a i n).pending = s.pending := (rfl)
@[simp] theorem event_free (s : State) (a i n : Nat) : (event s a i n).free = s.free := (rfl)
@[simp] theorem event_mem (s : State) (a i n : Nat) : (event s a i n).mem = s.mem := (rfl)
@[simp] theorem event_marks (s : State) (a i n : Nat) : (event s a i n).marks = s.marks := (rfl)
@[simp] theorem event_boot (s : State) (a i n : Nat) : (event s a i n).boot = s.boot := (rfl)
@[simp] theorem event_flash (s : State) (a i n : Nat) : (event s a i n).flash = s.flash := (rfl)
@[simp] theorem event_fault (s : State) (a i n : Nat) : (event s a i n).fault = s.fault := (rfl)
@[simp] theorem event_job (s : State) (a i n : Nat) : (event s a i n).job = s.job := (rfl)
@[simp] theorem event_cores (s : State) (a i n : Nat) : (event s a i n).cores = s.cores := (rfl)
@[simp] theorem event_vaults (s : State) (a i n : Nat) : (event s a i n).vaults = s.vaults := (rfl)
@[simp] theorem event_rings (s : State) (a i n : Nat) : (event s a i n).rings = s.rings := (rfl)
@[simp] theorem event_pages (s : State) (a i n : Nat) : (event s a i n).pages = s.pages := (rfl)
@[simp] theorem event_guard (s : State) (a i n : Nat) : (event s a i n).guard = s.guard := (rfl)
@[simp] theorem event_pails (s : State) (a i n : Nat) : (event s a i n).pails = s.pails := (rfl)
@[simp] theorem event_wq (s : State) (a i n : Nat) : (event s a i n).wq = s.wq := (rfl)
@[simp] theorem event_links (s : State) (a i n : Nat) : (event s a i n).links = s.links := (rfl)
@[simp] theorem event_stoby (s : State) (a i n : Nat) : (event s a i n).stoby = s.stoby := (rfl)
@[simp] theorem event_time (s : State) (a i n : Nat) : (event s a i n).time = s.time := (rfl)
@[simp] theorem event_host (s : State) (a i n : Nat) : (event s a i n).host = s.host := (rfl)
@[simp] theorem event_board (s : State) (a i n : Nat) : (event s a i n).board = s.board := (rfl)
@[simp] theorem event_power (s : State) (a i n : Nat) : (event s a i n).power = s.power := (rfl)
@[simp] theorem event_doms (s : State) (a i n : Nat) : (event s a i n).doms = s.doms := (rfl)
@[simp] theorem event_thermal (s : State) (a i n : Nat) : (event s a i n).thermal = s.thermal := (rfl)
@[simp] theorem event_wear (s : State) (a i n : Nat) : (event s a i n).wear = s.wear := (rfl)
@[simp] theorem event_pmc (s : State) (a i n : Nat) : (event s a i n).pmc = s.pmc := (rfl)

/-! ### `coreEvent` -/

@[simp] theorem coreEvent_pending (s : State) (c k n : Nat) : (coreEvent s c k n).pending = s.pending := by
  unfold coreEvent; apply foldl_keep (fun s => s.pending); intro s k; dsimp only; (repeat' split) <;> simp
@[simp] theorem coreEvent_free (s : State) (c k n : Nat) : (coreEvent s c k n).free = s.free := by
  unfold coreEvent; apply foldl_keep (fun s => s.free); intro s k; dsimp only; (repeat' split) <;> simp
@[simp] theorem coreEvent_mem (s : State) (c k n : Nat) : (coreEvent s c k n).mem = s.mem := by
  unfold coreEvent; apply foldl_keep (fun s => s.mem); intro s k; dsimp only; (repeat' split) <;> simp
@[simp] theorem coreEvent_marks (s : State) (c k n : Nat) : (coreEvent s c k n).marks = s.marks := by
  unfold coreEvent; apply foldl_keep (fun s => s.marks); intro s k; dsimp only; (repeat' split) <;> simp
@[simp] theorem coreEvent_boot (s : State) (c k n : Nat) : (coreEvent s c k n).boot = s.boot := by
  unfold coreEvent; apply foldl_keep (fun s => s.boot); intro s k; dsimp only; (repeat' split) <;> simp
@[simp] theorem coreEvent_flash (s : State) (c k n : Nat) : (coreEvent s c k n).flash = s.flash := by
  unfold coreEvent; apply foldl_keep (fun s => s.flash); intro s k; dsimp only; (repeat' split) <;> simp
@[simp] theorem coreEvent_fault (s : State) (c k n : Nat) : (coreEvent s c k n).fault = s.fault := by
  unfold coreEvent; apply foldl_keep (fun s => s.fault); intro s k; dsimp only; (repeat' split) <;> simp
@[simp] theorem coreEvent_job (s : State) (c k n : Nat) : (coreEvent s c k n).job = s.job := by
  unfold coreEvent; apply foldl_keep (fun s => s.job); intro s k; dsimp only; (repeat' split) <;> simp
@[simp] theorem coreEvent_cores (s : State) (c k n : Nat) : (coreEvent s c k n).cores = s.cores := by
  unfold coreEvent; apply foldl_keep (fun s => s.cores); intro s k; dsimp only; (repeat' split) <;> simp
@[simp] theorem coreEvent_vaults (s : State) (c k n : Nat) : (coreEvent s c k n).vaults = s.vaults := by
  unfold coreEvent; apply foldl_keep (fun s => s.vaults); intro s k; dsimp only; (repeat' split) <;> simp
@[simp] theorem coreEvent_rings (s : State) (c k n : Nat) : (coreEvent s c k n).rings = s.rings := by
  unfold coreEvent; apply foldl_keep (fun s => s.rings); intro s k; dsimp only; (repeat' split) <;> simp
@[simp] theorem coreEvent_pages (s : State) (c k n : Nat) : (coreEvent s c k n).pages = s.pages := by
  unfold coreEvent; apply foldl_keep (fun s => s.pages); intro s k; dsimp only; (repeat' split) <;> simp
@[simp] theorem coreEvent_guard (s : State) (c k n : Nat) : (coreEvent s c k n).guard = s.guard := by
  unfold coreEvent; apply foldl_keep (fun s => s.guard); intro s k; dsimp only; (repeat' split) <;> simp
@[simp] theorem coreEvent_pails (s : State) (c k n : Nat) : (coreEvent s c k n).pails = s.pails := by
  unfold coreEvent; apply foldl_keep (fun s => s.pails); intro s k; dsimp only; (repeat' split) <;> simp
@[simp] theorem coreEvent_wq (s : State) (c k n : Nat) : (coreEvent s c k n).wq = s.wq := by
  unfold coreEvent; apply foldl_keep (fun s => s.wq); intro s k; dsimp only; (repeat' split) <;> simp
@[simp] theorem coreEvent_links (s : State) (c k n : Nat) : (coreEvent s c k n).links = s.links := by
  unfold coreEvent; apply foldl_keep (fun s => s.links); intro s k; dsimp only; (repeat' split) <;> simp
@[simp] theorem coreEvent_stoby (s : State) (c k n : Nat) : (coreEvent s c k n).stoby = s.stoby := by
  unfold coreEvent; apply foldl_keep (fun s => s.stoby); intro s k; dsimp only; (repeat' split) <;> simp
@[simp] theorem coreEvent_time (s : State) (c k n : Nat) : (coreEvent s c k n).time = s.time := by
  unfold coreEvent; apply foldl_keep (fun s => s.time); intro s k; dsimp only; (repeat' split) <;> simp
@[simp] theorem coreEvent_host (s : State) (c k n : Nat) : (coreEvent s c k n).host = s.host := by
  unfold coreEvent; apply foldl_keep (fun s => s.host); intro s k; dsimp only; (repeat' split) <;> simp
@[simp] theorem coreEvent_board (s : State) (c k n : Nat) : (coreEvent s c k n).board = s.board := by
  unfold coreEvent; apply foldl_keep (fun s => s.board); intro s k; dsimp only; (repeat' split) <;> simp
@[simp] theorem coreEvent_power (s : State) (c k n : Nat) : (coreEvent s c k n).power = s.power := by
  unfold coreEvent; apply foldl_keep (fun s => s.power); intro s k; dsimp only; (repeat' split) <;> simp
@[simp] theorem coreEvent_doms (s : State) (c k n : Nat) : (coreEvent s c k n).doms = s.doms := by
  unfold coreEvent; apply foldl_keep (fun s => s.doms); intro s k; dsimp only; (repeat' split) <;> simp
@[simp] theorem coreEvent_thermal (s : State) (c k n : Nat) : (coreEvent s c k n).thermal = s.thermal := by
  unfold coreEvent; apply foldl_keep (fun s => s.thermal); intro s k; dsimp only; (repeat' split) <;> simp
@[simp] theorem coreEvent_wear (s : State) (c k n : Nat) : (coreEvent s c k n).wear = s.wear := by
  unfold coreEvent; apply foldl_keep (fun s => s.wear); intro s k; dsimp only; (repeat' split) <;> simp
@[simp] theorem coreEvent_pmc (s : State) (c k n : Nat) : (coreEvent s c k n).pmc = s.pmc := by
  unfold coreEvent; apply foldl_keep (fun s => s.pmc); intro s k; dsimp only; (repeat' split) <;> simp

/-! ### `setCore` -/

@[simp] theorem setCore_pending (s : State) (c : Nat) (x : CoreSt) : (setCore s c x).pending = s.pending := (rfl)
@[simp] theorem setCore_free (s : State) (c : Nat) (x : CoreSt) : (setCore s c x).free = s.free := (rfl)
@[simp] theorem setCore_mem (s : State) (c : Nat) (x : CoreSt) : (setCore s c x).mem = s.mem := (rfl)
@[simp] theorem setCore_marks (s : State) (c : Nat) (x : CoreSt) : (setCore s c x).marks = s.marks := (rfl)
@[simp] theorem setCore_regs (s : State) (c : Nat) (x : CoreSt) : (setCore s c x).regs = s.regs := (rfl)
@[simp] theorem setCore_boot (s : State) (c : Nat) (x : CoreSt) : (setCore s c x).boot = s.boot := (rfl)
@[simp] theorem setCore_flash (s : State) (c : Nat) (x : CoreSt) : (setCore s c x).flash = s.flash := (rfl)
@[simp] theorem setCore_fault (s : State) (c : Nat) (x : CoreSt) : (setCore s c x).fault = s.fault := (rfl)
@[simp] theorem setCore_job (s : State) (c : Nat) (x : CoreSt) : (setCore s c x).job = s.job := (rfl)
@[simp] theorem setCore_vaults (s : State) (c : Nat) (x : CoreSt) : (setCore s c x).vaults = s.vaults := (rfl)
@[simp] theorem setCore_rings (s : State) (c : Nat) (x : CoreSt) : (setCore s c x).rings = s.rings := (rfl)
@[simp] theorem setCore_pages (s : State) (c : Nat) (x : CoreSt) : (setCore s c x).pages = s.pages := (rfl)
@[simp] theorem setCore_guard (s : State) (c : Nat) (x : CoreSt) : (setCore s c x).guard = s.guard := (rfl)
@[simp] theorem setCore_pails (s : State) (c : Nat) (x : CoreSt) : (setCore s c x).pails = s.pails := (rfl)
@[simp] theorem setCore_wq (s : State) (c : Nat) (x : CoreSt) : (setCore s c x).wq = s.wq := (rfl)
@[simp] theorem setCore_links (s : State) (c : Nat) (x : CoreSt) : (setCore s c x).links = s.links := (rfl)
@[simp] theorem setCore_stoby (s : State) (c : Nat) (x : CoreSt) : (setCore s c x).stoby = s.stoby := (rfl)
@[simp] theorem setCore_time (s : State) (c : Nat) (x : CoreSt) : (setCore s c x).time = s.time := (rfl)
@[simp] theorem setCore_host (s : State) (c : Nat) (x : CoreSt) : (setCore s c x).host = s.host := (rfl)
@[simp] theorem setCore_board (s : State) (c : Nat) (x : CoreSt) : (setCore s c x).board = s.board := (rfl)
@[simp] theorem setCore_power (s : State) (c : Nat) (x : CoreSt) : (setCore s c x).power = s.power := (rfl)
@[simp] theorem setCore_doms (s : State) (c : Nat) (x : CoreSt) : (setCore s c x).doms = s.doms := (rfl)
@[simp] theorem setCore_thermal (s : State) (c : Nat) (x : CoreSt) : (setCore s c x).thermal = s.thermal := (rfl)
@[simp] theorem setCore_wear (s : State) (c : Nat) (x : CoreSt) : (setCore s c x).wear = s.wear := (rfl)
@[simp] theorem setCore_pmc (s : State) (c : Nat) (x : CoreSt) : (setCore s c x).pmc = s.pmc := (rfl)

/-! ### `updCore` -/

@[simp] theorem updCore_pending (s : State) (c : Nat) (f : CoreSt → CoreSt) : (updCore s c f).pending = s.pending := (rfl)
@[simp] theorem updCore_free (s : State) (c : Nat) (f : CoreSt → CoreSt) : (updCore s c f).free = s.free := (rfl)
@[simp] theorem updCore_mem (s : State) (c : Nat) (f : CoreSt → CoreSt) : (updCore s c f).mem = s.mem := (rfl)
@[simp] theorem updCore_marks (s : State) (c : Nat) (f : CoreSt → CoreSt) : (updCore s c f).marks = s.marks := (rfl)
@[simp] theorem updCore_regs (s : State) (c : Nat) (f : CoreSt → CoreSt) : (updCore s c f).regs = s.regs := (rfl)
@[simp] theorem updCore_boot (s : State) (c : Nat) (f : CoreSt → CoreSt) : (updCore s c f).boot = s.boot := (rfl)
@[simp] theorem updCore_flash (s : State) (c : Nat) (f : CoreSt → CoreSt) : (updCore s c f).flash = s.flash := (rfl)
@[simp] theorem updCore_fault (s : State) (c : Nat) (f : CoreSt → CoreSt) : (updCore s c f).fault = s.fault := (rfl)
@[simp] theorem updCore_job (s : State) (c : Nat) (f : CoreSt → CoreSt) : (updCore s c f).job = s.job := (rfl)
@[simp] theorem updCore_vaults (s : State) (c : Nat) (f : CoreSt → CoreSt) : (updCore s c f).vaults = s.vaults := (rfl)
@[simp] theorem updCore_rings (s : State) (c : Nat) (f : CoreSt → CoreSt) : (updCore s c f).rings = s.rings := (rfl)
@[simp] theorem updCore_pages (s : State) (c : Nat) (f : CoreSt → CoreSt) : (updCore s c f).pages = s.pages := (rfl)
@[simp] theorem updCore_guard (s : State) (c : Nat) (f : CoreSt → CoreSt) : (updCore s c f).guard = s.guard := (rfl)
@[simp] theorem updCore_pails (s : State) (c : Nat) (f : CoreSt → CoreSt) : (updCore s c f).pails = s.pails := (rfl)
@[simp] theorem updCore_wq (s : State) (c : Nat) (f : CoreSt → CoreSt) : (updCore s c f).wq = s.wq := (rfl)
@[simp] theorem updCore_links (s : State) (c : Nat) (f : CoreSt → CoreSt) : (updCore s c f).links = s.links := (rfl)
@[simp] theorem updCore_stoby (s : State) (c : Nat) (f : CoreSt → CoreSt) : (updCore s c f).stoby = s.stoby := (rfl)
@[simp] theorem updCore_time (s : State) (c : Nat) (f : CoreSt → CoreSt) : (updCore s c f).time = s.time := (rfl)
@[simp] theorem updCore_host (s : State) (c : Nat) (f : CoreSt → CoreSt) : (updCore s c f).host = s.host := (rfl)
@[simp] theorem updCore_board (s : State) (c : Nat) (f : CoreSt → CoreSt) : (updCore s c f).board = s.board := (rfl)
@[simp] theorem updCore_power (s : State) (c : Nat) (f : CoreSt → CoreSt) : (updCore s c f).power = s.power := (rfl)
@[simp] theorem updCore_doms (s : State) (c : Nat) (f : CoreSt → CoreSt) : (updCore s c f).doms = s.doms := (rfl)
@[simp] theorem updCore_thermal (s : State) (c : Nat) (f : CoreSt → CoreSt) : (updCore s c f).thermal = s.thermal := (rfl)
@[simp] theorem updCore_wear (s : State) (c : Nat) (f : CoreSt → CoreSt) : (updCore s c f).wear = s.wear := (rfl)
@[simp] theorem updCore_pmc (s : State) (c : Nat) (f : CoreSt → CoreSt) : (updCore s c f).pmc = s.pmc := (rfl)

/-! ### `setVault` -/

@[simp] theorem setVault_pending (s : State) (v : Nat) (x : VaultSt) : (setVault s v x).pending = s.pending := (rfl)
@[simp] theorem setVault_free (s : State) (v : Nat) (x : VaultSt) : (setVault s v x).free = s.free := (rfl)
@[simp] theorem setVault_mem (s : State) (v : Nat) (x : VaultSt) : (setVault s v x).mem = s.mem := (rfl)
@[simp] theorem setVault_marks (s : State) (v : Nat) (x : VaultSt) : (setVault s v x).marks = s.marks := (rfl)
@[simp] theorem setVault_regs (s : State) (v : Nat) (x : VaultSt) : (setVault s v x).regs = s.regs := (rfl)
@[simp] theorem setVault_boot (s : State) (v : Nat) (x : VaultSt) : (setVault s v x).boot = s.boot := (rfl)
@[simp] theorem setVault_flash (s : State) (v : Nat) (x : VaultSt) : (setVault s v x).flash = s.flash := (rfl)
@[simp] theorem setVault_fault (s : State) (v : Nat) (x : VaultSt) : (setVault s v x).fault = s.fault := (rfl)
@[simp] theorem setVault_job (s : State) (v : Nat) (x : VaultSt) : (setVault s v x).job = s.job := (rfl)
@[simp] theorem setVault_cores (s : State) (v : Nat) (x : VaultSt) : (setVault s v x).cores = s.cores := (rfl)
@[simp] theorem setVault_rings (s : State) (v : Nat) (x : VaultSt) : (setVault s v x).rings = s.rings := (rfl)
@[simp] theorem setVault_pages (s : State) (v : Nat) (x : VaultSt) : (setVault s v x).pages = s.pages := (rfl)
@[simp] theorem setVault_guard (s : State) (v : Nat) (x : VaultSt) : (setVault s v x).guard = s.guard := (rfl)
@[simp] theorem setVault_pails (s : State) (v : Nat) (x : VaultSt) : (setVault s v x).pails = s.pails := (rfl)
@[simp] theorem setVault_wq (s : State) (v : Nat) (x : VaultSt) : (setVault s v x).wq = s.wq := (rfl)
@[simp] theorem setVault_links (s : State) (v : Nat) (x : VaultSt) : (setVault s v x).links = s.links := (rfl)
@[simp] theorem setVault_stoby (s : State) (v : Nat) (x : VaultSt) : (setVault s v x).stoby = s.stoby := (rfl)
@[simp] theorem setVault_time (s : State) (v : Nat) (x : VaultSt) : (setVault s v x).time = s.time := (rfl)
@[simp] theorem setVault_host (s : State) (v : Nat) (x : VaultSt) : (setVault s v x).host = s.host := (rfl)
@[simp] theorem setVault_board (s : State) (v : Nat) (x : VaultSt) : (setVault s v x).board = s.board := (rfl)
@[simp] theorem setVault_power (s : State) (v : Nat) (x : VaultSt) : (setVault s v x).power = s.power := (rfl)
@[simp] theorem setVault_doms (s : State) (v : Nat) (x : VaultSt) : (setVault s v x).doms = s.doms := (rfl)
@[simp] theorem setVault_thermal (s : State) (v : Nat) (x : VaultSt) : (setVault s v x).thermal = s.thermal := (rfl)
@[simp] theorem setVault_wear (s : State) (v : Nat) (x : VaultSt) : (setVault s v x).wear = s.wear := (rfl)
@[simp] theorem setVault_pmc (s : State) (v : Nat) (x : VaultSt) : (setVault s v x).pmc = s.pmc := (rfl)

/-! ### `updVault` -/

@[simp] theorem updVault_pending (s : State) (v : Nat) (f : VaultSt → VaultSt) : (updVault s v f).pending = s.pending := (rfl)
@[simp] theorem updVault_free (s : State) (v : Nat) (f : VaultSt → VaultSt) : (updVault s v f).free = s.free := (rfl)
@[simp] theorem updVault_mem (s : State) (v : Nat) (f : VaultSt → VaultSt) : (updVault s v f).mem = s.mem := (rfl)
@[simp] theorem updVault_marks (s : State) (v : Nat) (f : VaultSt → VaultSt) : (updVault s v f).marks = s.marks := (rfl)
@[simp] theorem updVault_regs (s : State) (v : Nat) (f : VaultSt → VaultSt) : (updVault s v f).regs = s.regs := (rfl)
@[simp] theorem updVault_boot (s : State) (v : Nat) (f : VaultSt → VaultSt) : (updVault s v f).boot = s.boot := (rfl)
@[simp] theorem updVault_flash (s : State) (v : Nat) (f : VaultSt → VaultSt) : (updVault s v f).flash = s.flash := (rfl)
@[simp] theorem updVault_fault (s : State) (v : Nat) (f : VaultSt → VaultSt) : (updVault s v f).fault = s.fault := (rfl)
@[simp] theorem updVault_job (s : State) (v : Nat) (f : VaultSt → VaultSt) : (updVault s v f).job = s.job := (rfl)
@[simp] theorem updVault_cores (s : State) (v : Nat) (f : VaultSt → VaultSt) : (updVault s v f).cores = s.cores := (rfl)
@[simp] theorem updVault_rings (s : State) (v : Nat) (f : VaultSt → VaultSt) : (updVault s v f).rings = s.rings := (rfl)
@[simp] theorem updVault_pages (s : State) (v : Nat) (f : VaultSt → VaultSt) : (updVault s v f).pages = s.pages := (rfl)
@[simp] theorem updVault_guard (s : State) (v : Nat) (f : VaultSt → VaultSt) : (updVault s v f).guard = s.guard := (rfl)
@[simp] theorem updVault_pails (s : State) (v : Nat) (f : VaultSt → VaultSt) : (updVault s v f).pails = s.pails := (rfl)
@[simp] theorem updVault_wq (s : State) (v : Nat) (f : VaultSt → VaultSt) : (updVault s v f).wq = s.wq := (rfl)
@[simp] theorem updVault_links (s : State) (v : Nat) (f : VaultSt → VaultSt) : (updVault s v f).links = s.links := (rfl)
@[simp] theorem updVault_stoby (s : State) (v : Nat) (f : VaultSt → VaultSt) : (updVault s v f).stoby = s.stoby := (rfl)
@[simp] theorem updVault_time (s : State) (v : Nat) (f : VaultSt → VaultSt) : (updVault s v f).time = s.time := (rfl)
@[simp] theorem updVault_host (s : State) (v : Nat) (f : VaultSt → VaultSt) : (updVault s v f).host = s.host := (rfl)
@[simp] theorem updVault_board (s : State) (v : Nat) (f : VaultSt → VaultSt) : (updVault s v f).board = s.board := (rfl)
@[simp] theorem updVault_power (s : State) (v : Nat) (f : VaultSt → VaultSt) : (updVault s v f).power = s.power := (rfl)
@[simp] theorem updVault_doms (s : State) (v : Nat) (f : VaultSt → VaultSt) : (updVault s v f).doms = s.doms := (rfl)
@[simp] theorem updVault_thermal (s : State) (v : Nat) (f : VaultSt → VaultSt) : (updVault s v f).thermal = s.thermal := (rfl)
@[simp] theorem updVault_wear (s : State) (v : Nat) (f : VaultSt → VaultSt) : (updVault s v f).wear = s.wear := (rfl)
@[simp] theorem updVault_pmc (s : State) (v : Nat) (f : VaultSt → VaultSt) : (updVault s v f).pmc = s.pmc := (rfl)

/-! ### `updRow` -/

@[simp] theorem updRow_pending (s : State) (v : Nat) (f : RowUnit → RowUnit) : (updRow s v f).pending = s.pending := (rfl)
@[simp] theorem updRow_free (s : State) (v : Nat) (f : RowUnit → RowUnit) : (updRow s v f).free = s.free := (rfl)
@[simp] theorem updRow_mem (s : State) (v : Nat) (f : RowUnit → RowUnit) : (updRow s v f).mem = s.mem := (rfl)
@[simp] theorem updRow_marks (s : State) (v : Nat) (f : RowUnit → RowUnit) : (updRow s v f).marks = s.marks := (rfl)
@[simp] theorem updRow_regs (s : State) (v : Nat) (f : RowUnit → RowUnit) : (updRow s v f).regs = s.regs := (rfl)
@[simp] theorem updRow_boot (s : State) (v : Nat) (f : RowUnit → RowUnit) : (updRow s v f).boot = s.boot := (rfl)
@[simp] theorem updRow_flash (s : State) (v : Nat) (f : RowUnit → RowUnit) : (updRow s v f).flash = s.flash := (rfl)
@[simp] theorem updRow_fault (s : State) (v : Nat) (f : RowUnit → RowUnit) : (updRow s v f).fault = s.fault := (rfl)
@[simp] theorem updRow_job (s : State) (v : Nat) (f : RowUnit → RowUnit) : (updRow s v f).job = s.job := (rfl)
@[simp] theorem updRow_cores (s : State) (v : Nat) (f : RowUnit → RowUnit) : (updRow s v f).cores = s.cores := (rfl)
@[simp] theorem updRow_rings (s : State) (v : Nat) (f : RowUnit → RowUnit) : (updRow s v f).rings = s.rings := (rfl)
@[simp] theorem updRow_pages (s : State) (v : Nat) (f : RowUnit → RowUnit) : (updRow s v f).pages = s.pages := (rfl)
@[simp] theorem updRow_guard (s : State) (v : Nat) (f : RowUnit → RowUnit) : (updRow s v f).guard = s.guard := (rfl)
@[simp] theorem updRow_pails (s : State) (v : Nat) (f : RowUnit → RowUnit) : (updRow s v f).pails = s.pails := (rfl)
@[simp] theorem updRow_wq (s : State) (v : Nat) (f : RowUnit → RowUnit) : (updRow s v f).wq = s.wq := (rfl)
@[simp] theorem updRow_links (s : State) (v : Nat) (f : RowUnit → RowUnit) : (updRow s v f).links = s.links := (rfl)
@[simp] theorem updRow_stoby (s : State) (v : Nat) (f : RowUnit → RowUnit) : (updRow s v f).stoby = s.stoby := (rfl)
@[simp] theorem updRow_time (s : State) (v : Nat) (f : RowUnit → RowUnit) : (updRow s v f).time = s.time := (rfl)
@[simp] theorem updRow_host (s : State) (v : Nat) (f : RowUnit → RowUnit) : (updRow s v f).host = s.host := (rfl)
@[simp] theorem updRow_board (s : State) (v : Nat) (f : RowUnit → RowUnit) : (updRow s v f).board = s.board := (rfl)
@[simp] theorem updRow_power (s : State) (v : Nat) (f : RowUnit → RowUnit) : (updRow s v f).power = s.power := (rfl)
@[simp] theorem updRow_doms (s : State) (v : Nat) (f : RowUnit → RowUnit) : (updRow s v f).doms = s.doms := (rfl)
@[simp] theorem updRow_thermal (s : State) (v : Nat) (f : RowUnit → RowUnit) : (updRow s v f).thermal = s.thermal := (rfl)
@[simp] theorem updRow_wear (s : State) (v : Nat) (f : RowUnit → RowUnit) : (updRow s v f).wear = s.wear := (rfl)
@[simp] theorem updRow_pmc (s : State) (v : Nat) (f : RowUnit → RowUnit) : (updRow s v f).pmc = s.pmc := (rfl)

/-! ### `setQueue` -/

@[simp] theorem setQueue_pending (s : State) (q : Nat) (x : Queue) : (setQueue s q x).pending = s.pending := (rfl)
@[simp] theorem setQueue_free (s : State) (q : Nat) (x : Queue) : (setQueue s q x).free = s.free := (rfl)
@[simp] theorem setQueue_mem (s : State) (q : Nat) (x : Queue) : (setQueue s q x).mem = s.mem := (rfl)
@[simp] theorem setQueue_marks (s : State) (q : Nat) (x : Queue) : (setQueue s q x).marks = s.marks := (rfl)
@[simp] theorem setQueue_regs (s : State) (q : Nat) (x : Queue) : (setQueue s q x).regs = s.regs := (rfl)
@[simp] theorem setQueue_boot (s : State) (q : Nat) (x : Queue) : (setQueue s q x).boot = s.boot := (rfl)
@[simp] theorem setQueue_flash (s : State) (q : Nat) (x : Queue) : (setQueue s q x).flash = s.flash := (rfl)
@[simp] theorem setQueue_fault (s : State) (q : Nat) (x : Queue) : (setQueue s q x).fault = s.fault := (rfl)
@[simp] theorem setQueue_job (s : State) (q : Nat) (x : Queue) : (setQueue s q x).job = s.job := (rfl)
@[simp] theorem setQueue_cores (s : State) (q : Nat) (x : Queue) : (setQueue s q x).cores = s.cores := (rfl)
@[simp] theorem setQueue_vaults (s : State) (q : Nat) (x : Queue) : (setQueue s q x).vaults = s.vaults := (rfl)
@[simp] theorem setQueue_rings (s : State) (q : Nat) (x : Queue) : (setQueue s q x).rings = s.rings := (rfl)
@[simp] theorem setQueue_pages (s : State) (q : Nat) (x : Queue) : (setQueue s q x).pages = s.pages := (rfl)
@[simp] theorem setQueue_guard (s : State) (q : Nat) (x : Queue) : (setQueue s q x).guard = s.guard := (rfl)
@[simp] theorem setQueue_pails (s : State) (q : Nat) (x : Queue) : (setQueue s q x).pails = s.pails := (rfl)
@[simp] theorem setQueue_links (s : State) (q : Nat) (x : Queue) : (setQueue s q x).links = s.links := (rfl)
@[simp] theorem setQueue_stoby (s : State) (q : Nat) (x : Queue) : (setQueue s q x).stoby = s.stoby := (rfl)
@[simp] theorem setQueue_time (s : State) (q : Nat) (x : Queue) : (setQueue s q x).time = s.time := (rfl)
@[simp] theorem setQueue_host (s : State) (q : Nat) (x : Queue) : (setQueue s q x).host = s.host := (rfl)
@[simp] theorem setQueue_board (s : State) (q : Nat) (x : Queue) : (setQueue s q x).board = s.board := (rfl)
@[simp] theorem setQueue_power (s : State) (q : Nat) (x : Queue) : (setQueue s q x).power = s.power := (rfl)
@[simp] theorem setQueue_doms (s : State) (q : Nat) (x : Queue) : (setQueue s q x).doms = s.doms := (rfl)
@[simp] theorem setQueue_thermal (s : State) (q : Nat) (x : Queue) : (setQueue s q x).thermal = s.thermal := (rfl)
@[simp] theorem setQueue_wear (s : State) (q : Nat) (x : Queue) : (setQueue s q x).wear = s.wear := (rfl)
@[simp] theorem setQueue_pmc (s : State) (q : Nat) (x : Queue) : (setQueue s q x).pmc = s.pmc := (rfl)

/-! ### `updQueue` -/

@[simp] theorem updQueue_pending (s : State) (q : Nat) (f : Queue → Queue) : (updQueue s q f).pending = s.pending := (rfl)
@[simp] theorem updQueue_free (s : State) (q : Nat) (f : Queue → Queue) : (updQueue s q f).free = s.free := (rfl)
@[simp] theorem updQueue_mem (s : State) (q : Nat) (f : Queue → Queue) : (updQueue s q f).mem = s.mem := (rfl)
@[simp] theorem updQueue_marks (s : State) (q : Nat) (f : Queue → Queue) : (updQueue s q f).marks = s.marks := (rfl)
@[simp] theorem updQueue_regs (s : State) (q : Nat) (f : Queue → Queue) : (updQueue s q f).regs = s.regs := (rfl)
@[simp] theorem updQueue_boot (s : State) (q : Nat) (f : Queue → Queue) : (updQueue s q f).boot = s.boot := (rfl)
@[simp] theorem updQueue_flash (s : State) (q : Nat) (f : Queue → Queue) : (updQueue s q f).flash = s.flash := (rfl)
@[simp] theorem updQueue_fault (s : State) (q : Nat) (f : Queue → Queue) : (updQueue s q f).fault = s.fault := (rfl)
@[simp] theorem updQueue_job (s : State) (q : Nat) (f : Queue → Queue) : (updQueue s q f).job = s.job := (rfl)
@[simp] theorem updQueue_cores (s : State) (q : Nat) (f : Queue → Queue) : (updQueue s q f).cores = s.cores := (rfl)
@[simp] theorem updQueue_vaults (s : State) (q : Nat) (f : Queue → Queue) : (updQueue s q f).vaults = s.vaults := (rfl)
@[simp] theorem updQueue_rings (s : State) (q : Nat) (f : Queue → Queue) : (updQueue s q f).rings = s.rings := (rfl)
@[simp] theorem updQueue_pages (s : State) (q : Nat) (f : Queue → Queue) : (updQueue s q f).pages = s.pages := (rfl)
@[simp] theorem updQueue_guard (s : State) (q : Nat) (f : Queue → Queue) : (updQueue s q f).guard = s.guard := (rfl)
@[simp] theorem updQueue_pails (s : State) (q : Nat) (f : Queue → Queue) : (updQueue s q f).pails = s.pails := (rfl)
@[simp] theorem updQueue_links (s : State) (q : Nat) (f : Queue → Queue) : (updQueue s q f).links = s.links := (rfl)
@[simp] theorem updQueue_stoby (s : State) (q : Nat) (f : Queue → Queue) : (updQueue s q f).stoby = s.stoby := (rfl)
@[simp] theorem updQueue_time (s : State) (q : Nat) (f : Queue → Queue) : (updQueue s q f).time = s.time := (rfl)
@[simp] theorem updQueue_host (s : State) (q : Nat) (f : Queue → Queue) : (updQueue s q f).host = s.host := (rfl)
@[simp] theorem updQueue_board (s : State) (q : Nat) (f : Queue → Queue) : (updQueue s q f).board = s.board := (rfl)
@[simp] theorem updQueue_power (s : State) (q : Nat) (f : Queue → Queue) : (updQueue s q f).power = s.power := (rfl)
@[simp] theorem updQueue_doms (s : State) (q : Nat) (f : Queue → Queue) : (updQueue s q f).doms = s.doms := (rfl)
@[simp] theorem updQueue_thermal (s : State) (q : Nat) (f : Queue → Queue) : (updQueue s q f).thermal = s.thermal := (rfl)
@[simp] theorem updQueue_wear (s : State) (q : Nat) (f : Queue → Queue) : (updQueue s q f).wear = s.wear := (rfl)
@[simp] theorem updQueue_pmc (s : State) (q : Nat) (f : Queue → Queue) : (updQueue s q f).pmc = s.pmc := (rfl)

/-! ### `setUnit` -/

@[simp] theorem setUnit_pending (s : State) (h : Nat) (x : PageUnit) : (setUnit s h x).pending = s.pending := (rfl)
@[simp] theorem setUnit_free (s : State) (h : Nat) (x : PageUnit) : (setUnit s h x).free = s.free := (rfl)
@[simp] theorem setUnit_mem (s : State) (h : Nat) (x : PageUnit) : (setUnit s h x).mem = s.mem := (rfl)
@[simp] theorem setUnit_marks (s : State) (h : Nat) (x : PageUnit) : (setUnit s h x).marks = s.marks := (rfl)
@[simp] theorem setUnit_regs (s : State) (h : Nat) (x : PageUnit) : (setUnit s h x).regs = s.regs := (rfl)
@[simp] theorem setUnit_boot (s : State) (h : Nat) (x : PageUnit) : (setUnit s h x).boot = s.boot := (rfl)
@[simp] theorem setUnit_flash (s : State) (h : Nat) (x : PageUnit) : (setUnit s h x).flash = s.flash := (rfl)
@[simp] theorem setUnit_fault (s : State) (h : Nat) (x : PageUnit) : (setUnit s h x).fault = s.fault := (rfl)
@[simp] theorem setUnit_job (s : State) (h : Nat) (x : PageUnit) : (setUnit s h x).job = s.job := (rfl)
@[simp] theorem setUnit_cores (s : State) (h : Nat) (x : PageUnit) : (setUnit s h x).cores = s.cores := (rfl)
@[simp] theorem setUnit_vaults (s : State) (h : Nat) (x : PageUnit) : (setUnit s h x).vaults = s.vaults := (rfl)
@[simp] theorem setUnit_rings (s : State) (h : Nat) (x : PageUnit) : (setUnit s h x).rings = s.rings := (rfl)
@[simp] theorem setUnit_guard (s : State) (h : Nat) (x : PageUnit) : (setUnit s h x).guard = s.guard := (rfl)
@[simp] theorem setUnit_pails (s : State) (h : Nat) (x : PageUnit) : (setUnit s h x).pails = s.pails := (rfl)
@[simp] theorem setUnit_wq (s : State) (h : Nat) (x : PageUnit) : (setUnit s h x).wq = s.wq := (rfl)
@[simp] theorem setUnit_links (s : State) (h : Nat) (x : PageUnit) : (setUnit s h x).links = s.links := (rfl)
@[simp] theorem setUnit_stoby (s : State) (h : Nat) (x : PageUnit) : (setUnit s h x).stoby = s.stoby := (rfl)
@[simp] theorem setUnit_time (s : State) (h : Nat) (x : PageUnit) : (setUnit s h x).time = s.time := (rfl)
@[simp] theorem setUnit_host (s : State) (h : Nat) (x : PageUnit) : (setUnit s h x).host = s.host := (rfl)
@[simp] theorem setUnit_board (s : State) (h : Nat) (x : PageUnit) : (setUnit s h x).board = s.board := (rfl)
@[simp] theorem setUnit_power (s : State) (h : Nat) (x : PageUnit) : (setUnit s h x).power = s.power := (rfl)
@[simp] theorem setUnit_doms (s : State) (h : Nat) (x : PageUnit) : (setUnit s h x).doms = s.doms := (rfl)
@[simp] theorem setUnit_thermal (s : State) (h : Nat) (x : PageUnit) : (setUnit s h x).thermal = s.thermal := (rfl)
@[simp] theorem setUnit_wear (s : State) (h : Nat) (x : PageUnit) : (setUnit s h x).wear = s.wear := (rfl)
@[simp] theorem setUnit_pmc (s : State) (h : Nat) (x : PageUnit) : (setUnit s h x).pmc = s.pmc := (rfl)

/-! ### `setSlot` -/

@[simp] theorem setSlot_pending (s : State) (n : Nat) (x : SlotSt) : (setSlot s n x).pending = s.pending := (rfl)
@[simp] theorem setSlot_free (s : State) (n : Nat) (x : SlotSt) : (setSlot s n x).free = s.free := (rfl)
@[simp] theorem setSlot_mem (s : State) (n : Nat) (x : SlotSt) : (setSlot s n x).mem = s.mem := (rfl)
@[simp] theorem setSlot_marks (s : State) (n : Nat) (x : SlotSt) : (setSlot s n x).marks = s.marks := (rfl)
@[simp] theorem setSlot_regs (s : State) (n : Nat) (x : SlotSt) : (setSlot s n x).regs = s.regs := (rfl)
@[simp] theorem setSlot_boot (s : State) (n : Nat) (x : SlotSt) : (setSlot s n x).boot = s.boot := (rfl)
@[simp] theorem setSlot_flash (s : State) (n : Nat) (x : SlotSt) : (setSlot s n x).flash = s.flash := (rfl)
@[simp] theorem setSlot_fault (s : State) (n : Nat) (x : SlotSt) : (setSlot s n x).fault = s.fault := (rfl)
@[simp] theorem setSlot_job (s : State) (n : Nat) (x : SlotSt) : (setSlot s n x).job = s.job := (rfl)
@[simp] theorem setSlot_cores (s : State) (n : Nat) (x : SlotSt) : (setSlot s n x).cores = s.cores := (rfl)
@[simp] theorem setSlot_vaults (s : State) (n : Nat) (x : SlotSt) : (setSlot s n x).vaults = s.vaults := (rfl)
@[simp] theorem setSlot_rings (s : State) (n : Nat) (x : SlotSt) : (setSlot s n x).rings = s.rings := (rfl)
@[simp] theorem setSlot_pages (s : State) (n : Nat) (x : SlotSt) : (setSlot s n x).pages = s.pages := (rfl)
@[simp] theorem setSlot_pails (s : State) (n : Nat) (x : SlotSt) : (setSlot s n x).pails = s.pails := (rfl)
@[simp] theorem setSlot_wq (s : State) (n : Nat) (x : SlotSt) : (setSlot s n x).wq = s.wq := (rfl)
@[simp] theorem setSlot_links (s : State) (n : Nat) (x : SlotSt) : (setSlot s n x).links = s.links := (rfl)
@[simp] theorem setSlot_stoby (s : State) (n : Nat) (x : SlotSt) : (setSlot s n x).stoby = s.stoby := (rfl)
@[simp] theorem setSlot_time (s : State) (n : Nat) (x : SlotSt) : (setSlot s n x).time = s.time := (rfl)
@[simp] theorem setSlot_host (s : State) (n : Nat) (x : SlotSt) : (setSlot s n x).host = s.host := (rfl)
@[simp] theorem setSlot_board (s : State) (n : Nat) (x : SlotSt) : (setSlot s n x).board = s.board := (rfl)
@[simp] theorem setSlot_power (s : State) (n : Nat) (x : SlotSt) : (setSlot s n x).power = s.power := (rfl)
@[simp] theorem setSlot_doms (s : State) (n : Nat) (x : SlotSt) : (setSlot s n x).doms = s.doms := (rfl)
@[simp] theorem setSlot_thermal (s : State) (n : Nat) (x : SlotSt) : (setSlot s n x).thermal = s.thermal := (rfl)
@[simp] theorem setSlot_wear (s : State) (n : Nat) (x : SlotSt) : (setSlot s n x).wear = s.wear := (rfl)
@[simp] theorem setSlot_pmc (s : State) (n : Nat) (x : SlotSt) : (setSlot s n x).pmc = s.pmc := (rfl)

/-! ### `setLink` -/

@[simp] theorem setLink_pending (s : State) (l : Nat) (x : LinkSt) : (setLink s l x).pending = s.pending := (rfl)
@[simp] theorem setLink_free (s : State) (l : Nat) (x : LinkSt) : (setLink s l x).free = s.free := (rfl)
@[simp] theorem setLink_mem (s : State) (l : Nat) (x : LinkSt) : (setLink s l x).mem = s.mem := (rfl)
@[simp] theorem setLink_marks (s : State) (l : Nat) (x : LinkSt) : (setLink s l x).marks = s.marks := (rfl)
@[simp] theorem setLink_regs (s : State) (l : Nat) (x : LinkSt) : (setLink s l x).regs = s.regs := (rfl)
@[simp] theorem setLink_boot (s : State) (l : Nat) (x : LinkSt) : (setLink s l x).boot = s.boot := (rfl)
@[simp] theorem setLink_flash (s : State) (l : Nat) (x : LinkSt) : (setLink s l x).flash = s.flash := (rfl)
@[simp] theorem setLink_fault (s : State) (l : Nat) (x : LinkSt) : (setLink s l x).fault = s.fault := (rfl)
@[simp] theorem setLink_job (s : State) (l : Nat) (x : LinkSt) : (setLink s l x).job = s.job := (rfl)
@[simp] theorem setLink_cores (s : State) (l : Nat) (x : LinkSt) : (setLink s l x).cores = s.cores := (rfl)
@[simp] theorem setLink_vaults (s : State) (l : Nat) (x : LinkSt) : (setLink s l x).vaults = s.vaults := (rfl)
@[simp] theorem setLink_rings (s : State) (l : Nat) (x : LinkSt) : (setLink s l x).rings = s.rings := (rfl)
@[simp] theorem setLink_pages (s : State) (l : Nat) (x : LinkSt) : (setLink s l x).pages = s.pages := (rfl)
@[simp] theorem setLink_guard (s : State) (l : Nat) (x : LinkSt) : (setLink s l x).guard = s.guard := (rfl)
@[simp] theorem setLink_pails (s : State) (l : Nat) (x : LinkSt) : (setLink s l x).pails = s.pails := (rfl)
@[simp] theorem setLink_wq (s : State) (l : Nat) (x : LinkSt) : (setLink s l x).wq = s.wq := (rfl)
@[simp] theorem setLink_stoby (s : State) (l : Nat) (x : LinkSt) : (setLink s l x).stoby = s.stoby := (rfl)
@[simp] theorem setLink_time (s : State) (l : Nat) (x : LinkSt) : (setLink s l x).time = s.time := (rfl)
@[simp] theorem setLink_host (s : State) (l : Nat) (x : LinkSt) : (setLink s l x).host = s.host := (rfl)
@[simp] theorem setLink_board (s : State) (l : Nat) (x : LinkSt) : (setLink s l x).board = s.board := (rfl)
@[simp] theorem setLink_power (s : State) (l : Nat) (x : LinkSt) : (setLink s l x).power = s.power := (rfl)
@[simp] theorem setLink_doms (s : State) (l : Nat) (x : LinkSt) : (setLink s l x).doms = s.doms := (rfl)
@[simp] theorem setLink_thermal (s : State) (l : Nat) (x : LinkSt) : (setLink s l x).thermal = s.thermal := (rfl)
@[simp] theorem setLink_wear (s : State) (l : Nat) (x : LinkSt) : (setLink s l x).wear = s.wear := (rfl)
@[simp] theorem setLink_pmc (s : State) (l : Nat) (x : LinkSt) : (setLink s l x).pmc = s.pmc := (rfl)

/-! ### `setSheafPower` -/

@[simp] theorem setSheafPower_pending (s : State) (h : Nat) (x : SheafPower) : (setSheafPower s h x).pending = s.pending := (rfl)
@[simp] theorem setSheafPower_free (s : State) (h : Nat) (x : SheafPower) : (setSheafPower s h x).free = s.free := (rfl)
@[simp] theorem setSheafPower_mem (s : State) (h : Nat) (x : SheafPower) : (setSheafPower s h x).mem = s.mem := (rfl)
@[simp] theorem setSheafPower_marks (s : State) (h : Nat) (x : SheafPower) : (setSheafPower s h x).marks = s.marks := (rfl)
@[simp] theorem setSheafPower_regs (s : State) (h : Nat) (x : SheafPower) : (setSheafPower s h x).regs = s.regs := (rfl)
@[simp] theorem setSheafPower_boot (s : State) (h : Nat) (x : SheafPower) : (setSheafPower s h x).boot = s.boot := (rfl)
@[simp] theorem setSheafPower_flash (s : State) (h : Nat) (x : SheafPower) : (setSheafPower s h x).flash = s.flash := (rfl)
@[simp] theorem setSheafPower_fault (s : State) (h : Nat) (x : SheafPower) : (setSheafPower s h x).fault = s.fault := (rfl)
@[simp] theorem setSheafPower_job (s : State) (h : Nat) (x : SheafPower) : (setSheafPower s h x).job = s.job := (rfl)
@[simp] theorem setSheafPower_cores (s : State) (h : Nat) (x : SheafPower) : (setSheafPower s h x).cores = s.cores := (rfl)
@[simp] theorem setSheafPower_vaults (s : State) (h : Nat) (x : SheafPower) : (setSheafPower s h x).vaults = s.vaults := (rfl)
@[simp] theorem setSheafPower_rings (s : State) (h : Nat) (x : SheafPower) : (setSheafPower s h x).rings = s.rings := (rfl)
@[simp] theorem setSheafPower_pages (s : State) (h : Nat) (x : SheafPower) : (setSheafPower s h x).pages = s.pages := (rfl)
@[simp] theorem setSheafPower_guard (s : State) (h : Nat) (x : SheafPower) : (setSheafPower s h x).guard = s.guard := (rfl)
@[simp] theorem setSheafPower_pails (s : State) (h : Nat) (x : SheafPower) : (setSheafPower s h x).pails = s.pails := (rfl)
@[simp] theorem setSheafPower_wq (s : State) (h : Nat) (x : SheafPower) : (setSheafPower s h x).wq = s.wq := (rfl)
@[simp] theorem setSheafPower_links (s : State) (h : Nat) (x : SheafPower) : (setSheafPower s h x).links = s.links := (rfl)
@[simp] theorem setSheafPower_stoby (s : State) (h : Nat) (x : SheafPower) : (setSheafPower s h x).stoby = s.stoby := (rfl)
@[simp] theorem setSheafPower_time (s : State) (h : Nat) (x : SheafPower) : (setSheafPower s h x).time = s.time := (rfl)
@[simp] theorem setSheafPower_host (s : State) (h : Nat) (x : SheafPower) : (setSheafPower s h x).host = s.host := (rfl)
@[simp] theorem setSheafPower_board (s : State) (h : Nat) (x : SheafPower) : (setSheafPower s h x).board = s.board := (rfl)
@[simp] theorem setSheafPower_doms (s : State) (h : Nat) (x : SheafPower) : (setSheafPower s h x).doms = s.doms := (rfl)
@[simp] theorem setSheafPower_thermal (s : State) (h : Nat) (x : SheafPower) : (setSheafPower s h x).thermal = s.thermal := (rfl)
@[simp] theorem setSheafPower_wear (s : State) (h : Nat) (x : SheafPower) : (setSheafPower s h x).wear = s.wear := (rfl)
@[simp] theorem setSheafPower_pmc (s : State) (h : Nat) (x : SheafPower) : (setSheafPower s h x).pmc = s.pmc := (rfl)

/-! ### `setGov` -/

@[simp] theorem setGov_pending (s : State) (c : Nat) (x : GovCore) : (setGov s c x).pending = s.pending := (rfl)
@[simp] theorem setGov_free (s : State) (c : Nat) (x : GovCore) : (setGov s c x).free = s.free := (rfl)
@[simp] theorem setGov_mem (s : State) (c : Nat) (x : GovCore) : (setGov s c x).mem = s.mem := (rfl)
@[simp] theorem setGov_marks (s : State) (c : Nat) (x : GovCore) : (setGov s c x).marks = s.marks := (rfl)
@[simp] theorem setGov_regs (s : State) (c : Nat) (x : GovCore) : (setGov s c x).regs = s.regs := (rfl)
@[simp] theorem setGov_boot (s : State) (c : Nat) (x : GovCore) : (setGov s c x).boot = s.boot := (rfl)
@[simp] theorem setGov_flash (s : State) (c : Nat) (x : GovCore) : (setGov s c x).flash = s.flash := (rfl)
@[simp] theorem setGov_fault (s : State) (c : Nat) (x : GovCore) : (setGov s c x).fault = s.fault := (rfl)
@[simp] theorem setGov_job (s : State) (c : Nat) (x : GovCore) : (setGov s c x).job = s.job := (rfl)
@[simp] theorem setGov_cores (s : State) (c : Nat) (x : GovCore) : (setGov s c x).cores = s.cores := (rfl)
@[simp] theorem setGov_vaults (s : State) (c : Nat) (x : GovCore) : (setGov s c x).vaults = s.vaults := (rfl)
@[simp] theorem setGov_rings (s : State) (c : Nat) (x : GovCore) : (setGov s c x).rings = s.rings := (rfl)
@[simp] theorem setGov_pages (s : State) (c : Nat) (x : GovCore) : (setGov s c x).pages = s.pages := (rfl)
@[simp] theorem setGov_guard (s : State) (c : Nat) (x : GovCore) : (setGov s c x).guard = s.guard := (rfl)
@[simp] theorem setGov_pails (s : State) (c : Nat) (x : GovCore) : (setGov s c x).pails = s.pails := (rfl)
@[simp] theorem setGov_wq (s : State) (c : Nat) (x : GovCore) : (setGov s c x).wq = s.wq := (rfl)
@[simp] theorem setGov_links (s : State) (c : Nat) (x : GovCore) : (setGov s c x).links = s.links := (rfl)
@[simp] theorem setGov_stoby (s : State) (c : Nat) (x : GovCore) : (setGov s c x).stoby = s.stoby := (rfl)
@[simp] theorem setGov_time (s : State) (c : Nat) (x : GovCore) : (setGov s c x).time = s.time := (rfl)
@[simp] theorem setGov_host (s : State) (c : Nat) (x : GovCore) : (setGov s c x).host = s.host := (rfl)
@[simp] theorem setGov_board (s : State) (c : Nat) (x : GovCore) : (setGov s c x).board = s.board := (rfl)
@[simp] theorem setGov_doms (s : State) (c : Nat) (x : GovCore) : (setGov s c x).doms = s.doms := (rfl)
@[simp] theorem setGov_thermal (s : State) (c : Nat) (x : GovCore) : (setGov s c x).thermal = s.thermal := (rfl)
@[simp] theorem setGov_wear (s : State) (c : Nat) (x : GovCore) : (setGov s c x).wear = s.wear := (rfl)
@[simp] theorem setGov_pmc (s : State) (c : Nat) (x : GovCore) : (setGov s c x).pmc = s.pmc := (rfl)

/-! ### `setDom` -/

@[simp] theorem setDom_pending (s : State) (d : Dom) (x : DomRec) : (setDom s d x).pending = s.pending := (rfl)
@[simp] theorem setDom_free (s : State) (d : Dom) (x : DomRec) : (setDom s d x).free = s.free := (rfl)
@[simp] theorem setDom_mem (s : State) (d : Dom) (x : DomRec) : (setDom s d x).mem = s.mem := (rfl)
@[simp] theorem setDom_marks (s : State) (d : Dom) (x : DomRec) : (setDom s d x).marks = s.marks := (rfl)
@[simp] theorem setDom_regs (s : State) (d : Dom) (x : DomRec) : (setDom s d x).regs = s.regs := (rfl)
@[simp] theorem setDom_boot (s : State) (d : Dom) (x : DomRec) : (setDom s d x).boot = s.boot := (rfl)
@[simp] theorem setDom_flash (s : State) (d : Dom) (x : DomRec) : (setDom s d x).flash = s.flash := (rfl)
@[simp] theorem setDom_fault (s : State) (d : Dom) (x : DomRec) : (setDom s d x).fault = s.fault := (rfl)
@[simp] theorem setDom_job (s : State) (d : Dom) (x : DomRec) : (setDom s d x).job = s.job := (rfl)
@[simp] theorem setDom_cores (s : State) (d : Dom) (x : DomRec) : (setDom s d x).cores = s.cores := (rfl)
@[simp] theorem setDom_vaults (s : State) (d : Dom) (x : DomRec) : (setDom s d x).vaults = s.vaults := (rfl)
@[simp] theorem setDom_rings (s : State) (d : Dom) (x : DomRec) : (setDom s d x).rings = s.rings := (rfl)
@[simp] theorem setDom_pages (s : State) (d : Dom) (x : DomRec) : (setDom s d x).pages = s.pages := (rfl)
@[simp] theorem setDom_guard (s : State) (d : Dom) (x : DomRec) : (setDom s d x).guard = s.guard := (rfl)
@[simp] theorem setDom_pails (s : State) (d : Dom) (x : DomRec) : (setDom s d x).pails = s.pails := (rfl)
@[simp] theorem setDom_wq (s : State) (d : Dom) (x : DomRec) : (setDom s d x).wq = s.wq := (rfl)
@[simp] theorem setDom_links (s : State) (d : Dom) (x : DomRec) : (setDom s d x).links = s.links := (rfl)
@[simp] theorem setDom_stoby (s : State) (d : Dom) (x : DomRec) : (setDom s d x).stoby = s.stoby := (rfl)
@[simp] theorem setDom_time (s : State) (d : Dom) (x : DomRec) : (setDom s d x).time = s.time := (rfl)
@[simp] theorem setDom_host (s : State) (d : Dom) (x : DomRec) : (setDom s d x).host = s.host := (rfl)
@[simp] theorem setDom_board (s : State) (d : Dom) (x : DomRec) : (setDom s d x).board = s.board := (rfl)
@[simp] theorem setDom_power (s : State) (d : Dom) (x : DomRec) : (setDom s d x).power = s.power := (rfl)
@[simp] theorem setDom_thermal (s : State) (d : Dom) (x : DomRec) : (setDom s d x).thermal = s.thermal := (rfl)
@[simp] theorem setDom_wear (s : State) (d : Dom) (x : DomRec) : (setDom s d x).wear = s.wear := (rfl)
@[simp] theorem setDom_pmc (s : State) (d : Dom) (x : DomRec) : (setDom s d x).pmc = s.pmc := (rfl)

/-! ### `updDom` -/

@[simp] theorem updDom_pending (s : State) (d : Dom) (f : DomRec → DomRec) : (updDom s d f).pending = s.pending := (rfl)
@[simp] theorem updDom_free (s : State) (d : Dom) (f : DomRec → DomRec) : (updDom s d f).free = s.free := (rfl)
@[simp] theorem updDom_mem (s : State) (d : Dom) (f : DomRec → DomRec) : (updDom s d f).mem = s.mem := (rfl)
@[simp] theorem updDom_marks (s : State) (d : Dom) (f : DomRec → DomRec) : (updDom s d f).marks = s.marks := (rfl)
@[simp] theorem updDom_regs (s : State) (d : Dom) (f : DomRec → DomRec) : (updDom s d f).regs = s.regs := (rfl)
@[simp] theorem updDom_boot (s : State) (d : Dom) (f : DomRec → DomRec) : (updDom s d f).boot = s.boot := (rfl)
@[simp] theorem updDom_flash (s : State) (d : Dom) (f : DomRec → DomRec) : (updDom s d f).flash = s.flash := (rfl)
@[simp] theorem updDom_fault (s : State) (d : Dom) (f : DomRec → DomRec) : (updDom s d f).fault = s.fault := (rfl)
@[simp] theorem updDom_job (s : State) (d : Dom) (f : DomRec → DomRec) : (updDom s d f).job = s.job := (rfl)
@[simp] theorem updDom_cores (s : State) (d : Dom) (f : DomRec → DomRec) : (updDom s d f).cores = s.cores := (rfl)
@[simp] theorem updDom_vaults (s : State) (d : Dom) (f : DomRec → DomRec) : (updDom s d f).vaults = s.vaults := (rfl)
@[simp] theorem updDom_rings (s : State) (d : Dom) (f : DomRec → DomRec) : (updDom s d f).rings = s.rings := (rfl)
@[simp] theorem updDom_pages (s : State) (d : Dom) (f : DomRec → DomRec) : (updDom s d f).pages = s.pages := (rfl)
@[simp] theorem updDom_guard (s : State) (d : Dom) (f : DomRec → DomRec) : (updDom s d f).guard = s.guard := (rfl)
@[simp] theorem updDom_pails (s : State) (d : Dom) (f : DomRec → DomRec) : (updDom s d f).pails = s.pails := (rfl)
@[simp] theorem updDom_wq (s : State) (d : Dom) (f : DomRec → DomRec) : (updDom s d f).wq = s.wq := (rfl)
@[simp] theorem updDom_links (s : State) (d : Dom) (f : DomRec → DomRec) : (updDom s d f).links = s.links := (rfl)
@[simp] theorem updDom_stoby (s : State) (d : Dom) (f : DomRec → DomRec) : (updDom s d f).stoby = s.stoby := (rfl)
@[simp] theorem updDom_time (s : State) (d : Dom) (f : DomRec → DomRec) : (updDom s d f).time = s.time := (rfl)
@[simp] theorem updDom_host (s : State) (d : Dom) (f : DomRec → DomRec) : (updDom s d f).host = s.host := (rfl)
@[simp] theorem updDom_board (s : State) (d : Dom) (f : DomRec → DomRec) : (updDom s d f).board = s.board := (rfl)
@[simp] theorem updDom_power (s : State) (d : Dom) (f : DomRec → DomRec) : (updDom s d f).power = s.power := (rfl)
@[simp] theorem updDom_thermal (s : State) (d : Dom) (f : DomRec → DomRec) : (updDom s d f).thermal = s.thermal := (rfl)
@[simp] theorem updDom_wear (s : State) (d : Dom) (f : DomRec → DomRec) : (updDom s d f).wear = s.wear := (rfl)
@[simp] theorem updDom_pmc (s : State) (d : Dom) (f : DomRec → DomRec) : (updDom s d f).pmc = s.pmc := (rfl)

/-! ### `releaseBanks` -/

@[simp] theorem releaseBanks_pending (s : State) (d : Dom) : (releaseBanks s d).pending = s.pending := by unfold releaseBanks; (repeat' split) <;> rfl
@[simp] theorem releaseBanks_free (s : State) (d : Dom) : (releaseBanks s d).free = s.free := by unfold releaseBanks; (repeat' split) <;> rfl
@[simp] theorem releaseBanks_mem (s : State) (d : Dom) : (releaseBanks s d).mem = s.mem := by unfold releaseBanks; (repeat' split) <;> rfl
@[simp] theorem releaseBanks_marks (s : State) (d : Dom) : (releaseBanks s d).marks = s.marks := by unfold releaseBanks; (repeat' split) <;> rfl
@[simp] theorem releaseBanks_regs (s : State) (d : Dom) : (releaseBanks s d).regs = s.regs := by unfold releaseBanks; (repeat' split) <;> rfl
@[simp] theorem releaseBanks_boot (s : State) (d : Dom) : (releaseBanks s d).boot = s.boot := by unfold releaseBanks; (repeat' split) <;> rfl
@[simp] theorem releaseBanks_flash (s : State) (d : Dom) : (releaseBanks s d).flash = s.flash := by unfold releaseBanks; (repeat' split) <;> rfl
@[simp] theorem releaseBanks_fault (s : State) (d : Dom) : (releaseBanks s d).fault = s.fault := by unfold releaseBanks; (repeat' split) <;> rfl
@[simp] theorem releaseBanks_job (s : State) (d : Dom) : (releaseBanks s d).job = s.job := by unfold releaseBanks; (repeat' split) <;> rfl
@[simp] theorem releaseBanks_cores (s : State) (d : Dom) : (releaseBanks s d).cores = s.cores := by unfold releaseBanks; (repeat' split) <;> rfl
@[simp] theorem releaseBanks_vaults (s : State) (d : Dom) : (releaseBanks s d).vaults = s.vaults := by unfold releaseBanks; (repeat' split) <;> rfl
@[simp] theorem releaseBanks_rings (s : State) (d : Dom) : (releaseBanks s d).rings = s.rings := by unfold releaseBanks; (repeat' split) <;> rfl
@[simp] theorem releaseBanks_pages (s : State) (d : Dom) : (releaseBanks s d).pages = s.pages := by unfold releaseBanks; (repeat' split) <;> rfl
@[simp] theorem releaseBanks_guard (s : State) (d : Dom) : (releaseBanks s d).guard = s.guard := by unfold releaseBanks; (repeat' split) <;> rfl
@[simp] theorem releaseBanks_pails (s : State) (d : Dom) : (releaseBanks s d).pails = s.pails := by unfold releaseBanks; (repeat' split) <;> rfl
@[simp] theorem releaseBanks_wq (s : State) (d : Dom) : (releaseBanks s d).wq = s.wq := by unfold releaseBanks; (repeat' split) <;> rfl
@[simp] theorem releaseBanks_links (s : State) (d : Dom) : (releaseBanks s d).links = s.links := by unfold releaseBanks; (repeat' split) <;> rfl
@[simp] theorem releaseBanks_stoby (s : State) (d : Dom) : (releaseBanks s d).stoby = s.stoby := by unfold releaseBanks; (repeat' split) <;> rfl
@[simp] theorem releaseBanks_time (s : State) (d : Dom) : (releaseBanks s d).time = s.time := by unfold releaseBanks; (repeat' split) <;> rfl
@[simp] theorem releaseBanks_host (s : State) (d : Dom) : (releaseBanks s d).host = s.host := by unfold releaseBanks; (repeat' split) <;> rfl
@[simp] theorem releaseBanks_board (s : State) (d : Dom) : (releaseBanks s d).board = s.board := by unfold releaseBanks; (repeat' split) <;> rfl
@[simp] theorem releaseBanks_power (s : State) (d : Dom) : (releaseBanks s d).power = s.power := by unfold releaseBanks; (repeat' split) <;> rfl
@[simp] theorem releaseBanks_thermal (s : State) (d : Dom) : (releaseBanks s d).thermal = s.thermal := by unfold releaseBanks; (repeat' split) <;> rfl
@[simp] theorem releaseBanks_wear (s : State) (d : Dom) : (releaseBanks s d).wear = s.wear := by unfold releaseBanks; (repeat' split) <;> rfl
@[simp] theorem releaseBanks_pmc (s : State) (d : Dom) : (releaseBanks s d).pmc = s.pmc := by unfold releaseBanks; (repeat' split) <;> rfl

/-! ### `countExit` -/

@[simp] theorem countExit_pending (s : State) (d : Dom) : (countExit s d).pending = s.pending := by unfold countExit; (try dsimp only); (repeat' split) <;> (first | rfl | simp)
@[simp] theorem countExit_free (s : State) (d : Dom) : (countExit s d).free = s.free := by unfold countExit; (try dsimp only); (repeat' split) <;> (first | rfl | simp)
@[simp] theorem countExit_mem (s : State) (d : Dom) : (countExit s d).mem = s.mem := by unfold countExit; (try dsimp only); (repeat' split) <;> (first | rfl | simp)
@[simp] theorem countExit_marks (s : State) (d : Dom) : (countExit s d).marks = s.marks := by unfold countExit; (try dsimp only); (repeat' split) <;> (first | rfl | simp)
@[simp] theorem countExit_boot (s : State) (d : Dom) : (countExit s d).boot = s.boot := by unfold countExit; (try dsimp only); (repeat' split) <;> (first | rfl | simp)
@[simp] theorem countExit_flash (s : State) (d : Dom) : (countExit s d).flash = s.flash := by unfold countExit; (try dsimp only); (repeat' split) <;> (first | rfl | simp)
@[simp] theorem countExit_fault (s : State) (d : Dom) : (countExit s d).fault = s.fault := by unfold countExit; (try dsimp only); (repeat' split) <;> (first | rfl | simp)
@[simp] theorem countExit_job (s : State) (d : Dom) : (countExit s d).job = s.job := by unfold countExit; (try dsimp only); (repeat' split) <;> (first | rfl | simp)
@[simp] theorem countExit_cores (s : State) (d : Dom) : (countExit s d).cores = s.cores := by unfold countExit; (try dsimp only); (repeat' split) <;> (first | rfl | simp)
@[simp] theorem countExit_vaults (s : State) (d : Dom) : (countExit s d).vaults = s.vaults := by unfold countExit; (try dsimp only); (repeat' split) <;> (first | rfl | simp)
@[simp] theorem countExit_rings (s : State) (d : Dom) : (countExit s d).rings = s.rings := by unfold countExit; (try dsimp only); (repeat' split) <;> (first | rfl | simp)
@[simp] theorem countExit_pages (s : State) (d : Dom) : (countExit s d).pages = s.pages := by unfold countExit; (try dsimp only); (repeat' split) <;> (first | rfl | simp)
@[simp] theorem countExit_guard (s : State) (d : Dom) : (countExit s d).guard = s.guard := by unfold countExit; (try dsimp only); (repeat' split) <;> (first | rfl | simp)
@[simp] theorem countExit_pails (s : State) (d : Dom) : (countExit s d).pails = s.pails := by unfold countExit; (try dsimp only); (repeat' split) <;> (first | rfl | simp)
@[simp] theorem countExit_wq (s : State) (d : Dom) : (countExit s d).wq = s.wq := by unfold countExit; (try dsimp only); (repeat' split) <;> (first | rfl | simp)
@[simp] theorem countExit_links (s : State) (d : Dom) : (countExit s d).links = s.links := by unfold countExit; (try dsimp only); (repeat' split) <;> (first | rfl | simp)
@[simp] theorem countExit_stoby (s : State) (d : Dom) : (countExit s d).stoby = s.stoby := by unfold countExit; (try dsimp only); (repeat' split) <;> (first | rfl | simp)
@[simp] theorem countExit_time (s : State) (d : Dom) : (countExit s d).time = s.time := by unfold countExit; (try dsimp only); (repeat' split) <;> (first | rfl | simp)
@[simp] theorem countExit_host (s : State) (d : Dom) : (countExit s d).host = s.host := by unfold countExit; (try dsimp only); (repeat' split) <;> (first | rfl | simp)
@[simp] theorem countExit_board (s : State) (d : Dom) : (countExit s d).board = s.board := by unfold countExit; (try dsimp only); (repeat' split) <;> (first | rfl | simp)
@[simp] theorem countExit_power (s : State) (d : Dom) : (countExit s d).power = s.power := by unfold countExit; (try dsimp only); (repeat' split) <;> (first | rfl | simp)
@[simp] theorem countExit_doms (s : State) (d : Dom) : (countExit s d).doms = s.doms := by unfold countExit; (try dsimp only); (repeat' split) <;> (first | rfl | simp)
@[simp] theorem countExit_thermal (s : State) (d : Dom) : (countExit s d).thermal = s.thermal := by unfold countExit; (try dsimp only); (repeat' split) <;> (first | rfl | simp)
@[simp] theorem countExit_wear (s : State) (d : Dom) : (countExit s d).wear = s.wear := by unfold countExit; (try dsimp only); (repeat' split) <;> (first | rfl | simp)
@[simp] theorem countExit_pmc (s : State) (d : Dom) : (countExit s d).pmc = s.pmc := by unfold countExit; (try dsimp only); (repeat' split) <;> (first | rfl | simp)

/-! ### `wakeDom` -/

@[simp] theorem wakeDom_pending (s : State) (d : Dom) : (wakeDom s d).pending = s.pending := by unfold wakeDom; (try dsimp only); (repeat' split) <;> simp
@[simp] theorem wakeDom_free (s : State) (d : Dom) : (wakeDom s d).free = s.free := by unfold wakeDom; (try dsimp only); (repeat' split) <;> simp
@[simp] theorem wakeDom_mem (s : State) (d : Dom) : (wakeDom s d).mem = s.mem := by unfold wakeDom; (try dsimp only); (repeat' split) <;> simp
@[simp] theorem wakeDom_marks (s : State) (d : Dom) : (wakeDom s d).marks = s.marks := by unfold wakeDom; (try dsimp only); (repeat' split) <;> simp
@[simp] theorem wakeDom_boot (s : State) (d : Dom) : (wakeDom s d).boot = s.boot := by unfold wakeDom; (try dsimp only); (repeat' split) <;> simp
@[simp] theorem wakeDom_flash (s : State) (d : Dom) : (wakeDom s d).flash = s.flash := by unfold wakeDom; (try dsimp only); (repeat' split) <;> simp
@[simp] theorem wakeDom_fault (s : State) (d : Dom) : (wakeDom s d).fault = s.fault := by unfold wakeDom; (try dsimp only); (repeat' split) <;> simp
@[simp] theorem wakeDom_job (s : State) (d : Dom) : (wakeDom s d).job = s.job := by unfold wakeDom; (try dsimp only); (repeat' split) <;> simp
@[simp] theorem wakeDom_cores (s : State) (d : Dom) : (wakeDom s d).cores = s.cores := by unfold wakeDom; (try dsimp only); (repeat' split) <;> simp
@[simp] theorem wakeDom_vaults (s : State) (d : Dom) : (wakeDom s d).vaults = s.vaults := by unfold wakeDom; (try dsimp only); (repeat' split) <;> simp
@[simp] theorem wakeDom_rings (s : State) (d : Dom) : (wakeDom s d).rings = s.rings := by unfold wakeDom; (try dsimp only); (repeat' split) <;> simp
@[simp] theorem wakeDom_pages (s : State) (d : Dom) : (wakeDom s d).pages = s.pages := by unfold wakeDom; (try dsimp only); (repeat' split) <;> simp
@[simp] theorem wakeDom_guard (s : State) (d : Dom) : (wakeDom s d).guard = s.guard := by unfold wakeDom; (try dsimp only); (repeat' split) <;> simp
@[simp] theorem wakeDom_pails (s : State) (d : Dom) : (wakeDom s d).pails = s.pails := by unfold wakeDom; (try dsimp only); (repeat' split) <;> simp
@[simp] theorem wakeDom_wq (s : State) (d : Dom) : (wakeDom s d).wq = s.wq := by unfold wakeDom; (try dsimp only); (repeat' split) <;> simp
@[simp] theorem wakeDom_links (s : State) (d : Dom) : (wakeDom s d).links = s.links := by unfold wakeDom; (try dsimp only); (repeat' split) <;> simp
@[simp] theorem wakeDom_stoby (s : State) (d : Dom) : (wakeDom s d).stoby = s.stoby := by unfold wakeDom; (try dsimp only); (repeat' split) <;> simp
@[simp] theorem wakeDom_time (s : State) (d : Dom) : (wakeDom s d).time = s.time := by unfold wakeDom; (try dsimp only); (repeat' split) <;> simp
@[simp] theorem wakeDom_host (s : State) (d : Dom) : (wakeDom s d).host = s.host := by unfold wakeDom; (try dsimp only); (repeat' split) <;> simp
@[simp] theorem wakeDom_board (s : State) (d : Dom) : (wakeDom s d).board = s.board := by unfold wakeDom; (try dsimp only); (repeat' split) <;> simp
@[simp] theorem wakeDom_power (s : State) (d : Dom) : (wakeDom s d).power = s.power := by unfold wakeDom; (try dsimp only); (repeat' split) <;> simp
@[simp] theorem wakeDom_thermal (s : State) (d : Dom) : (wakeDom s d).thermal = s.thermal := by unfold wakeDom; (try dsimp only); (repeat' split) <;> simp
@[simp] theorem wakeDom_wear (s : State) (d : Dom) : (wakeDom s d).wear = s.wear := by unfold wakeDom; (try dsimp only); (repeat' split) <;> simp
@[simp] theorem wakeDom_pmc (s : State) (d : Dom) : (wakeDom s d).pmc = s.pmc := by unfold wakeDom; (try dsimp only); (repeat' split) <;> simp

/-! ### `writeMem` -/

@[simp] theorem writeMem_pending (s : State) (g k : Nat) (bs : List Byte) : (writeMem s g k bs).pending = s.pending := by unfold writeMem; (try dsimp only); (repeat' split) <;> (first | rfl | simp)
@[simp] theorem writeMem_free (s : State) (g k : Nat) (bs : List Byte) : (writeMem s g k bs).free = s.free := by unfold writeMem; (try dsimp only); (repeat' split) <;> (first | rfl | simp)
@[simp] theorem writeMem_regs (s : State) (g k : Nat) (bs : List Byte) : (writeMem s g k bs).regs = s.regs := by unfold writeMem; (try dsimp only); (repeat' split) <;> (first | rfl | simp)
@[simp] theorem writeMem_boot (s : State) (g k : Nat) (bs : List Byte) : (writeMem s g k bs).boot = s.boot := by unfold writeMem; (try dsimp only); (repeat' split) <;> (first | rfl | simp)
@[simp] theorem writeMem_flash (s : State) (g k : Nat) (bs : List Byte) : (writeMem s g k bs).flash = s.flash := by unfold writeMem; (try dsimp only); (repeat' split) <;> (first | rfl | simp)
@[simp] theorem writeMem_fault (s : State) (g k : Nat) (bs : List Byte) : (writeMem s g k bs).fault = s.fault := by unfold writeMem; (try dsimp only); (repeat' split) <;> (first | rfl | simp)
@[simp] theorem writeMem_job (s : State) (g k : Nat) (bs : List Byte) : (writeMem s g k bs).job = s.job := by unfold writeMem; (try dsimp only); (repeat' split) <;> (first | rfl | simp)
@[simp] theorem writeMem_cores (s : State) (g k : Nat) (bs : List Byte) : (writeMem s g k bs).cores = s.cores := by unfold writeMem; (try dsimp only); (repeat' split) <;> (first | rfl | simp)
@[simp] theorem writeMem_vaults (s : State) (g k : Nat) (bs : List Byte) : (writeMem s g k bs).vaults = s.vaults := by unfold writeMem; (try dsimp only); (repeat' split) <;> (first | rfl | simp)
@[simp] theorem writeMem_rings (s : State) (g k : Nat) (bs : List Byte) : (writeMem s g k bs).rings = s.rings := by unfold writeMem; (try dsimp only); (repeat' split) <;> (first | rfl | simp)
@[simp] theorem writeMem_pages (s : State) (g k : Nat) (bs : List Byte) : (writeMem s g k bs).pages = s.pages := by unfold writeMem; (try dsimp only); (repeat' split) <;> (first | rfl | simp)
@[simp] theorem writeMem_guard (s : State) (g k : Nat) (bs : List Byte) : (writeMem s g k bs).guard = s.guard := by unfold writeMem; (try dsimp only); (repeat' split) <;> (first | rfl | simp)
@[simp] theorem writeMem_pails (s : State) (g k : Nat) (bs : List Byte) : (writeMem s g k bs).pails = s.pails := by unfold writeMem; (try dsimp only); (repeat' split) <;> (first | rfl | simp)
@[simp] theorem writeMem_wq (s : State) (g k : Nat) (bs : List Byte) : (writeMem s g k bs).wq = s.wq := by unfold writeMem; (try dsimp only); (repeat' split) <;> (first | rfl | simp)
@[simp] theorem writeMem_links (s : State) (g k : Nat) (bs : List Byte) : (writeMem s g k bs).links = s.links := by unfold writeMem; (try dsimp only); (repeat' split) <;> (first | rfl | simp)
@[simp] theorem writeMem_stoby (s : State) (g k : Nat) (bs : List Byte) : (writeMem s g k bs).stoby = s.stoby := by unfold writeMem; (try dsimp only); (repeat' split) <;> (first | rfl | simp)
@[simp] theorem writeMem_time (s : State) (g k : Nat) (bs : List Byte) : (writeMem s g k bs).time = s.time := by unfold writeMem; (try dsimp only); (repeat' split) <;> (first | rfl | simp)
@[simp] theorem writeMem_host (s : State) (g k : Nat) (bs : List Byte) : (writeMem s g k bs).host = s.host := by unfold writeMem; (try dsimp only); (repeat' split) <;> (first | rfl | simp)
@[simp] theorem writeMem_board (s : State) (g k : Nat) (bs : List Byte) : (writeMem s g k bs).board = s.board := by unfold writeMem; (try dsimp only); (repeat' split) <;> (first | rfl | simp)
@[simp] theorem writeMem_power (s : State) (g k : Nat) (bs : List Byte) : (writeMem s g k bs).power = s.power := by unfold writeMem; (try dsimp only); (repeat' split) <;> (first | rfl | simp)
@[simp] theorem writeMem_doms (s : State) (g k : Nat) (bs : List Byte) : (writeMem s g k bs).doms = s.doms := by unfold writeMem; (try dsimp only); (repeat' split) <;> (first | rfl | simp)
@[simp] theorem writeMem_thermal (s : State) (g k : Nat) (bs : List Byte) : (writeMem s g k bs).thermal = s.thermal := by unfold writeMem; (try dsimp only); (repeat' split) <;> (first | rfl | simp)
@[simp] theorem writeMem_wear (s : State) (g k : Nat) (bs : List Byte) : (writeMem s g k bs).wear = s.wear := by unfold writeMem; (try dsimp only); (repeat' split) <;> (first | rfl | simp)
@[simp] theorem writeMem_pmc (s : State) (g k : Nat) (bs : List Byte) : (writeMem s g k bs).pmc = s.pmc := by unfold writeMem; (try dsimp only); (repeat' split) <;> (first | rfl | simp)

/-! ### `undefMem` -/

@[simp] theorem undefMem_pending (s : State) (g k n : Nat) : (undefMem s g k n).pending = s.pending := (rfl)
@[simp] theorem undefMem_free (s : State) (g k n : Nat) : (undefMem s g k n).free = s.free := (rfl)
@[simp] theorem undefMem_regs (s : State) (g k n : Nat) : (undefMem s g k n).regs = s.regs := (rfl)
@[simp] theorem undefMem_boot (s : State) (g k n : Nat) : (undefMem s g k n).boot = s.boot := (rfl)
@[simp] theorem undefMem_flash (s : State) (g k n : Nat) : (undefMem s g k n).flash = s.flash := (rfl)
@[simp] theorem undefMem_fault (s : State) (g k n : Nat) : (undefMem s g k n).fault = s.fault := (rfl)
@[simp] theorem undefMem_job (s : State) (g k n : Nat) : (undefMem s g k n).job = s.job := (rfl)
@[simp] theorem undefMem_cores (s : State) (g k n : Nat) : (undefMem s g k n).cores = s.cores := (rfl)
@[simp] theorem undefMem_vaults (s : State) (g k n : Nat) : (undefMem s g k n).vaults = s.vaults := (rfl)
@[simp] theorem undefMem_rings (s : State) (g k n : Nat) : (undefMem s g k n).rings = s.rings := (rfl)
@[simp] theorem undefMem_pages (s : State) (g k n : Nat) : (undefMem s g k n).pages = s.pages := (rfl)
@[simp] theorem undefMem_guard (s : State) (g k n : Nat) : (undefMem s g k n).guard = s.guard := (rfl)
@[simp] theorem undefMem_pails (s : State) (g k n : Nat) : (undefMem s g k n).pails = s.pails := (rfl)
@[simp] theorem undefMem_wq (s : State) (g k n : Nat) : (undefMem s g k n).wq = s.wq := (rfl)
@[simp] theorem undefMem_links (s : State) (g k n : Nat) : (undefMem s g k n).links = s.links := (rfl)
@[simp] theorem undefMem_stoby (s : State) (g k n : Nat) : (undefMem s g k n).stoby = s.stoby := (rfl)
@[simp] theorem undefMem_time (s : State) (g k n : Nat) : (undefMem s g k n).time = s.time := (rfl)
@[simp] theorem undefMem_host (s : State) (g k n : Nat) : (undefMem s g k n).host = s.host := (rfl)
@[simp] theorem undefMem_board (s : State) (g k n : Nat) : (undefMem s g k n).board = s.board := (rfl)
@[simp] theorem undefMem_power (s : State) (g k n : Nat) : (undefMem s g k n).power = s.power := (rfl)
@[simp] theorem undefMem_doms (s : State) (g k n : Nat) : (undefMem s g k n).doms = s.doms := (rfl)
@[simp] theorem undefMem_thermal (s : State) (g k n : Nat) : (undefMem s g k n).thermal = s.thermal := (rfl)
@[simp] theorem undefMem_wear (s : State) (g k n : Nat) : (undefMem s g k n).wear = s.wear := (rfl)
@[simp] theorem undefMem_pmc (s : State) (g k n : Nat) : (undefMem s g k n).pmc = s.pmc := (rfl)

/-! ### `hostWrite` -/

@[simp] theorem hostWrite_pending (s : State) (b : Nat) (bs : List Byte) : (hostWrite s b bs).pending = s.pending := by unfold hostWrite; (try dsimp only); (repeat' split) <;> simp
@[simp] theorem hostWrite_free (s : State) (b : Nat) (bs : List Byte) : (hostWrite s b bs).free = s.free := by unfold hostWrite; (try dsimp only); (repeat' split) <;> simp
@[simp] theorem hostWrite_marks (s : State) (b : Nat) (bs : List Byte) : (hostWrite s b bs).marks = s.marks := by unfold hostWrite; (try dsimp only); (repeat' split) <;> simp
@[simp] theorem hostWrite_boot (s : State) (b : Nat) (bs : List Byte) : (hostWrite s b bs).boot = s.boot := by unfold hostWrite; (try dsimp only); (repeat' split) <;> simp
@[simp] theorem hostWrite_flash (s : State) (b : Nat) (bs : List Byte) : (hostWrite s b bs).flash = s.flash := by unfold hostWrite; (try dsimp only); (repeat' split) <;> simp
@[simp] theorem hostWrite_fault (s : State) (b : Nat) (bs : List Byte) : (hostWrite s b bs).fault = s.fault := by unfold hostWrite; (try dsimp only); (repeat' split) <;> simp
@[simp] theorem hostWrite_job (s : State) (b : Nat) (bs : List Byte) : (hostWrite s b bs).job = s.job := by unfold hostWrite; (try dsimp only); (repeat' split) <;> simp
@[simp] theorem hostWrite_cores (s : State) (b : Nat) (bs : List Byte) : (hostWrite s b bs).cores = s.cores := by unfold hostWrite; (try dsimp only); (repeat' split) <;> simp
@[simp] theorem hostWrite_vaults (s : State) (b : Nat) (bs : List Byte) : (hostWrite s b bs).vaults = s.vaults := by unfold hostWrite; (try dsimp only); (repeat' split) <;> simp
@[simp] theorem hostWrite_rings (s : State) (b : Nat) (bs : List Byte) : (hostWrite s b bs).rings = s.rings := by unfold hostWrite; (try dsimp only); (repeat' split) <;> simp
@[simp] theorem hostWrite_pages (s : State) (b : Nat) (bs : List Byte) : (hostWrite s b bs).pages = s.pages := by unfold hostWrite; (try dsimp only); (repeat' split) <;> simp
@[simp] theorem hostWrite_guard (s : State) (b : Nat) (bs : List Byte) : (hostWrite s b bs).guard = s.guard := by unfold hostWrite; (try dsimp only); (repeat' split) <;> simp
@[simp] theorem hostWrite_pails (s : State) (b : Nat) (bs : List Byte) : (hostWrite s b bs).pails = s.pails := by unfold hostWrite; (try dsimp only); (repeat' split) <;> simp
@[simp] theorem hostWrite_wq (s : State) (b : Nat) (bs : List Byte) : (hostWrite s b bs).wq = s.wq := by unfold hostWrite; (try dsimp only); (repeat' split) <;> simp
@[simp] theorem hostWrite_links (s : State) (b : Nat) (bs : List Byte) : (hostWrite s b bs).links = s.links := by unfold hostWrite; (try dsimp only); (repeat' split) <;> simp
@[simp] theorem hostWrite_stoby (s : State) (b : Nat) (bs : List Byte) : (hostWrite s b bs).stoby = s.stoby := by unfold hostWrite; (try dsimp only); (repeat' split) <;> simp
@[simp] theorem hostWrite_time (s : State) (b : Nat) (bs : List Byte) : (hostWrite s b bs).time = s.time := by unfold hostWrite; (try dsimp only); (repeat' split) <;> simp
@[simp] theorem hostWrite_board (s : State) (b : Nat) (bs : List Byte) : (hostWrite s b bs).board = s.board := by unfold hostWrite; (try dsimp only); (repeat' split) <;> simp
@[simp] theorem hostWrite_power (s : State) (b : Nat) (bs : List Byte) : (hostWrite s b bs).power = s.power := by unfold hostWrite; (try dsimp only); (repeat' split) <;> simp
@[simp] theorem hostWrite_doms (s : State) (b : Nat) (bs : List Byte) : (hostWrite s b bs).doms = s.doms := by unfold hostWrite; (try dsimp only); (repeat' split) <;> simp
@[simp] theorem hostWrite_thermal (s : State) (b : Nat) (bs : List Byte) : (hostWrite s b bs).thermal = s.thermal := by unfold hostWrite; (try dsimp only); (repeat' split) <;> simp
@[simp] theorem hostWrite_wear (s : State) (b : Nat) (bs : List Byte) : (hostWrite s b bs).wear = s.wear := by unfold hostWrite; (try dsimp only); (repeat' split) <;> simp
@[simp] theorem hostWrite_pmc (s : State) (b : Nat) (bs : List Byte) : (hostWrite s b bs).pmc = s.pmc := by unfold hostWrite; (try dsimp only); (repeat' split) <;> simp

/-! ### `msix` -/

@[simp] theorem msix_pending (s : State) (v : Nat) : (msix s v).pending = s.pending := by unfold msix; (repeat' split) <;> rfl
@[simp] theorem msix_free (s : State) (v : Nat) : (msix s v).free = s.free := by unfold msix; (repeat' split) <;> rfl
@[simp] theorem msix_mem (s : State) (v : Nat) : (msix s v).mem = s.mem := by unfold msix; (repeat' split) <;> rfl
@[simp] theorem msix_marks (s : State) (v : Nat) : (msix s v).marks = s.marks := by unfold msix; (repeat' split) <;> rfl
@[simp] theorem msix_boot (s : State) (v : Nat) : (msix s v).boot = s.boot := by unfold msix; (repeat' split) <;> rfl
@[simp] theorem msix_flash (s : State) (v : Nat) : (msix s v).flash = s.flash := by unfold msix; (repeat' split) <;> rfl
@[simp] theorem msix_fault (s : State) (v : Nat) : (msix s v).fault = s.fault := by unfold msix; (repeat' split) <;> rfl
@[simp] theorem msix_job (s : State) (v : Nat) : (msix s v).job = s.job := by unfold msix; (repeat' split) <;> rfl
@[simp] theorem msix_cores (s : State) (v : Nat) : (msix s v).cores = s.cores := by unfold msix; (repeat' split) <;> rfl
@[simp] theorem msix_vaults (s : State) (v : Nat) : (msix s v).vaults = s.vaults := by unfold msix; (repeat' split) <;> rfl
@[simp] theorem msix_rings (s : State) (v : Nat) : (msix s v).rings = s.rings := by unfold msix; (repeat' split) <;> rfl
@[simp] theorem msix_pages (s : State) (v : Nat) : (msix s v).pages = s.pages := by unfold msix; (repeat' split) <;> rfl
@[simp] theorem msix_guard (s : State) (v : Nat) : (msix s v).guard = s.guard := by unfold msix; (repeat' split) <;> rfl
@[simp] theorem msix_pails (s : State) (v : Nat) : (msix s v).pails = s.pails := by unfold msix; (repeat' split) <;> rfl
@[simp] theorem msix_wq (s : State) (v : Nat) : (msix s v).wq = s.wq := by unfold msix; (repeat' split) <;> rfl
@[simp] theorem msix_links (s : State) (v : Nat) : (msix s v).links = s.links := by unfold msix; (repeat' split) <;> rfl
@[simp] theorem msix_stoby (s : State) (v : Nat) : (msix s v).stoby = s.stoby := by unfold msix; (repeat' split) <;> rfl
@[simp] theorem msix_time (s : State) (v : Nat) : (msix s v).time = s.time := by unfold msix; (repeat' split) <;> rfl
@[simp] theorem msix_board (s : State) (v : Nat) : (msix s v).board = s.board := by unfold msix; (repeat' split) <;> rfl
@[simp] theorem msix_power (s : State) (v : Nat) : (msix s v).power = s.power := by unfold msix; (repeat' split) <;> rfl
@[simp] theorem msix_doms (s : State) (v : Nat) : (msix s v).doms = s.doms := by unfold msix; (repeat' split) <;> rfl
@[simp] theorem msix_thermal (s : State) (v : Nat) : (msix s v).thermal = s.thermal := by unfold msix; (repeat' split) <;> rfl
@[simp] theorem msix_wear (s : State) (v : Nat) : (msix s v).wear = s.wear := by unfold msix; (repeat' split) <;> rfl
@[simp] theorem msix_pmc (s : State) (v : Nat) : (msix s v).pmc = s.pmc := by unfold msix; (repeat' split) <;> rfl

/-! ### `devEvent` -/

@[simp] theorem devEvent_pending (s : State) : (devEvent s).pending = s.pending := by unfold devEvent; (try dsimp only); (repeat' split) <;> simp
@[simp] theorem devEvent_free (s : State) : (devEvent s).free = s.free := by unfold devEvent; (try dsimp only); (repeat' split) <;> simp
@[simp] theorem devEvent_mem (s : State) : (devEvent s).mem = s.mem := by unfold devEvent; (try dsimp only); (repeat' split) <;> simp
@[simp] theorem devEvent_marks (s : State) : (devEvent s).marks = s.marks := by unfold devEvent; (try dsimp only); (repeat' split) <;> simp
@[simp] theorem devEvent_boot (s : State) : (devEvent s).boot = s.boot := by unfold devEvent; (try dsimp only); (repeat' split) <;> simp
@[simp] theorem devEvent_flash (s : State) : (devEvent s).flash = s.flash := by unfold devEvent; (try dsimp only); (repeat' split) <;> simp
@[simp] theorem devEvent_fault (s : State) : (devEvent s).fault = s.fault := by unfold devEvent; (try dsimp only); (repeat' split) <;> simp
@[simp] theorem devEvent_job (s : State) : (devEvent s).job = s.job := by unfold devEvent; (try dsimp only); (repeat' split) <;> simp
@[simp] theorem devEvent_cores (s : State) : (devEvent s).cores = s.cores := by unfold devEvent; (try dsimp only); (repeat' split) <;> simp
@[simp] theorem devEvent_vaults (s : State) : (devEvent s).vaults = s.vaults := by unfold devEvent; (try dsimp only); (repeat' split) <;> simp
@[simp] theorem devEvent_rings (s : State) : (devEvent s).rings = s.rings := by unfold devEvent; (try dsimp only); (repeat' split) <;> simp
@[simp] theorem devEvent_pages (s : State) : (devEvent s).pages = s.pages := by unfold devEvent; (try dsimp only); (repeat' split) <;> simp
@[simp] theorem devEvent_guard (s : State) : (devEvent s).guard = s.guard := by unfold devEvent; (try dsimp only); (repeat' split) <;> simp
@[simp] theorem devEvent_pails (s : State) : (devEvent s).pails = s.pails := by unfold devEvent; (try dsimp only); (repeat' split) <;> simp
@[simp] theorem devEvent_wq (s : State) : (devEvent s).wq = s.wq := by unfold devEvent; (try dsimp only); (repeat' split) <;> simp
@[simp] theorem devEvent_links (s : State) : (devEvent s).links = s.links := by unfold devEvent; (try dsimp only); (repeat' split) <;> simp
@[simp] theorem devEvent_stoby (s : State) : (devEvent s).stoby = s.stoby := by unfold devEvent; (try dsimp only); (repeat' split) <;> simp
@[simp] theorem devEvent_time (s : State) : (devEvent s).time = s.time := by unfold devEvent; (try dsimp only); (repeat' split) <;> simp
@[simp] theorem devEvent_board (s : State) : (devEvent s).board = s.board := by unfold devEvent; (try dsimp only); (repeat' split) <;> simp
@[simp] theorem devEvent_power (s : State) : (devEvent s).power = s.power := by unfold devEvent; (try dsimp only); (repeat' split) <;> simp
@[simp] theorem devEvent_doms (s : State) : (devEvent s).doms = s.doms := by unfold devEvent; (try dsimp only); (repeat' split) <;> simp
@[simp] theorem devEvent_thermal (s : State) : (devEvent s).thermal = s.thermal := by unfold devEvent; (try dsimp only); (repeat' split) <;> simp
@[simp] theorem devEvent_wear (s : State) : (devEvent s).wear = s.wear := by unfold devEvent; (try dsimp only); (repeat' split) <;> simp
@[simp] theorem devEvent_pmc (s : State) : (devEvent s).pmc = s.pmc := by unfold devEvent; (try dsimp only); (repeat' split) <;> simp

/-! ### `pldmEvent` -/

@[simp] theorem pldmEvent_pending (s : State) (e : PldmEvt) : (pldmEvent s e).pending = s.pending := (rfl)
@[simp] theorem pldmEvent_free (s : State) (e : PldmEvt) : (pldmEvent s e).free = s.free := (rfl)
@[simp] theorem pldmEvent_mem (s : State) (e : PldmEvt) : (pldmEvent s e).mem = s.mem := (rfl)
@[simp] theorem pldmEvent_marks (s : State) (e : PldmEvt) : (pldmEvent s e).marks = s.marks := (rfl)
@[simp] theorem pldmEvent_regs (s : State) (e : PldmEvt) : (pldmEvent s e).regs = s.regs := (rfl)
@[simp] theorem pldmEvent_boot (s : State) (e : PldmEvt) : (pldmEvent s e).boot = s.boot := (rfl)
@[simp] theorem pldmEvent_flash (s : State) (e : PldmEvt) : (pldmEvent s e).flash = s.flash := (rfl)
@[simp] theorem pldmEvent_fault (s : State) (e : PldmEvt) : (pldmEvent s e).fault = s.fault := (rfl)
@[simp] theorem pldmEvent_job (s : State) (e : PldmEvt) : (pldmEvent s e).job = s.job := (rfl)
@[simp] theorem pldmEvent_cores (s : State) (e : PldmEvt) : (pldmEvent s e).cores = s.cores := (rfl)
@[simp] theorem pldmEvent_vaults (s : State) (e : PldmEvt) : (pldmEvent s e).vaults = s.vaults := (rfl)
@[simp] theorem pldmEvent_rings (s : State) (e : PldmEvt) : (pldmEvent s e).rings = s.rings := (rfl)
@[simp] theorem pldmEvent_pages (s : State) (e : PldmEvt) : (pldmEvent s e).pages = s.pages := (rfl)
@[simp] theorem pldmEvent_guard (s : State) (e : PldmEvt) : (pldmEvent s e).guard = s.guard := (rfl)
@[simp] theorem pldmEvent_pails (s : State) (e : PldmEvt) : (pldmEvent s e).pails = s.pails := (rfl)
@[simp] theorem pldmEvent_wq (s : State) (e : PldmEvt) : (pldmEvent s e).wq = s.wq := (rfl)
@[simp] theorem pldmEvent_links (s : State) (e : PldmEvt) : (pldmEvent s e).links = s.links := (rfl)
@[simp] theorem pldmEvent_stoby (s : State) (e : PldmEvt) : (pldmEvent s e).stoby = s.stoby := (rfl)
@[simp] theorem pldmEvent_time (s : State) (e : PldmEvt) : (pldmEvent s e).time = s.time := (rfl)
@[simp] theorem pldmEvent_host (s : State) (e : PldmEvt) : (pldmEvent s e).host = s.host := (rfl)
@[simp] theorem pldmEvent_power (s : State) (e : PldmEvt) : (pldmEvent s e).power = s.power := (rfl)
@[simp] theorem pldmEvent_doms (s : State) (e : PldmEvt) : (pldmEvent s e).doms = s.doms := (rfl)
@[simp] theorem pldmEvent_thermal (s : State) (e : PldmEvt) : (pldmEvent s e).thermal = s.thermal := (rfl)
@[simp] theorem pldmEvent_wear (s : State) (e : PldmEvt) : (pldmEvent s e).wear = s.wear := (rfl)
@[simp] theorem pldmEvent_pmc (s : State) (e : PldmEvt) : (pldmEvent s e).pmc = s.pmc := (rfl)

/-! ### `setDev` -/

@[simp] theorem setDev_pending (s : State) (d : DevState) : (setDev s d).pending = s.pending := by unfold setDev; (try dsimp only); (repeat' split) <;> simp
@[simp] theorem setDev_free (s : State) (d : DevState) : (setDev s d).free = s.free := by unfold setDev; (try dsimp only); (repeat' split) <;> simp
@[simp] theorem setDev_mem (s : State) (d : DevState) : (setDev s d).mem = s.mem := by unfold setDev; (try dsimp only); (repeat' split) <;> simp
@[simp] theorem setDev_marks (s : State) (d : DevState) : (setDev s d).marks = s.marks := by unfold setDev; (try dsimp only); (repeat' split) <;> simp
@[simp] theorem setDev_flash (s : State) (d : DevState) : (setDev s d).flash = s.flash := by unfold setDev; (try dsimp only); (repeat' split) <;> simp
@[simp] theorem setDev_fault (s : State) (d : DevState) : (setDev s d).fault = s.fault := by unfold setDev; (try dsimp only); (repeat' split) <;> simp
@[simp] theorem setDev_job (s : State) (d : DevState) : (setDev s d).job = s.job := by unfold setDev; (try dsimp only); (repeat' split) <;> simp
@[simp] theorem setDev_cores (s : State) (d : DevState) : (setDev s d).cores = s.cores := by unfold setDev; (try dsimp only); (repeat' split) <;> simp
@[simp] theorem setDev_vaults (s : State) (d : DevState) : (setDev s d).vaults = s.vaults := by unfold setDev; (try dsimp only); (repeat' split) <;> simp
@[simp] theorem setDev_rings (s : State) (d : DevState) : (setDev s d).rings = s.rings := by unfold setDev; (try dsimp only); (repeat' split) <;> simp
@[simp] theorem setDev_pages (s : State) (d : DevState) : (setDev s d).pages = s.pages := by unfold setDev; (try dsimp only); (repeat' split) <;> simp
@[simp] theorem setDev_guard (s : State) (d : DevState) : (setDev s d).guard = s.guard := by unfold setDev; (try dsimp only); (repeat' split) <;> simp
@[simp] theorem setDev_pails (s : State) (d : DevState) : (setDev s d).pails = s.pails := by unfold setDev; (try dsimp only); (repeat' split) <;> simp
@[simp] theorem setDev_wq (s : State) (d : DevState) : (setDev s d).wq = s.wq := by unfold setDev; (try dsimp only); (repeat' split) <;> simp
@[simp] theorem setDev_links (s : State) (d : DevState) : (setDev s d).links = s.links := by unfold setDev; (try dsimp only); (repeat' split) <;> simp
@[simp] theorem setDev_stoby (s : State) (d : DevState) : (setDev s d).stoby = s.stoby := by unfold setDev; (try dsimp only); (repeat' split) <;> simp
@[simp] theorem setDev_time (s : State) (d : DevState) : (setDev s d).time = s.time := by unfold setDev; (try dsimp only); (repeat' split) <;> simp
@[simp] theorem setDev_power (s : State) (d : DevState) : (setDev s d).power = s.power := by unfold setDev; (try dsimp only); (repeat' split) <;> simp
@[simp] theorem setDev_doms (s : State) (d : DevState) : (setDev s d).doms = s.doms := by unfold setDev; (try dsimp only); (repeat' split) <;> simp
@[simp] theorem setDev_thermal (s : State) (d : DevState) : (setDev s d).thermal = s.thermal := by unfold setDev; (try dsimp only); (repeat' split) <;> simp
@[simp] theorem setDev_wear (s : State) (d : DevState) : (setDev s d).wear = s.wear := by unfold setDev; (try dsimp only); (repeat' split) <;> simp
@[simp] theorem setDev_pmc (s : State) (d : DevState) : (setDev s d).pmc = s.pmc := by unfold setDev; (try dsimp only); (repeat' split) <;> simp

/-! ### `writeRecord` -/

@[simp] theorem writeRecord_pending (s : State) (k : Nat) (c : Cause) (b : Bool) (p : Nat) : (writeRecord s k c b p).pending = s.pending := by simp [writeRecord]
@[simp] theorem writeRecord_free (s : State) (k : Nat) (c : Cause) (b : Bool) (p : Nat) : (writeRecord s k c b p).free = s.free := by simp [writeRecord]
@[simp] theorem writeRecord_mem (s : State) (k : Nat) (c : Cause) (b : Bool) (p : Nat) : (writeRecord s k c b p).mem = s.mem := by simp [writeRecord]
@[simp] theorem writeRecord_marks (s : State) (k : Nat) (c : Cause) (b : Bool) (p : Nat) : (writeRecord s k c b p).marks = s.marks := by simp [writeRecord]
@[simp] theorem writeRecord_boot (s : State) (k : Nat) (c : Cause) (b : Bool) (p : Nat) : (writeRecord s k c b p).boot = s.boot := by simp [writeRecord]
@[simp] theorem writeRecord_flash (s : State) (k : Nat) (c : Cause) (b : Bool) (p : Nat) : (writeRecord s k c b p).flash = s.flash := by simp [writeRecord]
@[simp] theorem writeRecord_job (s : State) (k : Nat) (c : Cause) (b : Bool) (p : Nat) : (writeRecord s k c b p).job = s.job := by simp [writeRecord]
@[simp] theorem writeRecord_cores (s : State) (k : Nat) (c : Cause) (b : Bool) (p : Nat) : (writeRecord s k c b p).cores = s.cores := by simp [writeRecord]
@[simp] theorem writeRecord_vaults (s : State) (k : Nat) (c : Cause) (b : Bool) (p : Nat) : (writeRecord s k c b p).vaults = s.vaults := by simp [writeRecord]
@[simp] theorem writeRecord_rings (s : State) (k : Nat) (c : Cause) (b : Bool) (p : Nat) : (writeRecord s k c b p).rings = s.rings := by simp [writeRecord]
@[simp] theorem writeRecord_pages (s : State) (k : Nat) (c : Cause) (b : Bool) (p : Nat) : (writeRecord s k c b p).pages = s.pages := by simp [writeRecord]
@[simp] theorem writeRecord_guard (s : State) (k : Nat) (c : Cause) (b : Bool) (p : Nat) : (writeRecord s k c b p).guard = s.guard := by simp [writeRecord]
@[simp] theorem writeRecord_pails (s : State) (k : Nat) (c : Cause) (b : Bool) (p : Nat) : (writeRecord s k c b p).pails = s.pails := by simp [writeRecord]
@[simp] theorem writeRecord_wq (s : State) (k : Nat) (c : Cause) (b : Bool) (p : Nat) : (writeRecord s k c b p).wq = s.wq := by simp [writeRecord]
@[simp] theorem writeRecord_links (s : State) (k : Nat) (c : Cause) (b : Bool) (p : Nat) : (writeRecord s k c b p).links = s.links := by simp [writeRecord]
@[simp] theorem writeRecord_stoby (s : State) (k : Nat) (c : Cause) (b : Bool) (p : Nat) : (writeRecord s k c b p).stoby = s.stoby := by simp [writeRecord]
@[simp] theorem writeRecord_time (s : State) (k : Nat) (c : Cause) (b : Bool) (p : Nat) : (writeRecord s k c b p).time = s.time := by simp [writeRecord]
@[simp] theorem writeRecord_power (s : State) (k : Nat) (c : Cause) (b : Bool) (p : Nat) : (writeRecord s k c b p).power = s.power := by simp [writeRecord]
@[simp] theorem writeRecord_doms (s : State) (k : Nat) (c : Cause) (b : Bool) (p : Nat) : (writeRecord s k c b p).doms = s.doms := by simp [writeRecord]
@[simp] theorem writeRecord_thermal (s : State) (k : Nat) (c : Cause) (b : Bool) (p : Nat) : (writeRecord s k c b p).thermal = s.thermal := by simp [writeRecord]
@[simp] theorem writeRecord_wear (s : State) (k : Nat) (c : Cause) (b : Bool) (p : Nat) : (writeRecord s k c b p).wear = s.wear := by simp [writeRecord]
@[simp] theorem writeRecord_pmc (s : State) (k : Nat) (c : Cause) (b : Bool) (p : Nat) : (writeRecord s k c b p).pmc = s.pmc := by simp [writeRecord]

/-! ### `noteRecord` -/

@[simp] theorem noteRecord_pending (s : State) (k c u d : Nat) : (noteRecord s k c u d).pending = s.pending := by simp [noteRecord]
@[simp] theorem noteRecord_free (s : State) (k c u d : Nat) : (noteRecord s k c u d).free = s.free := by simp [noteRecord]
@[simp] theorem noteRecord_mem (s : State) (k c u d : Nat) : (noteRecord s k c u d).mem = s.mem := by simp [noteRecord]
@[simp] theorem noteRecord_marks (s : State) (k c u d : Nat) : (noteRecord s k c u d).marks = s.marks := by simp [noteRecord]
@[simp] theorem noteRecord_boot (s : State) (k c u d : Nat) : (noteRecord s k c u d).boot = s.boot := by simp [noteRecord]
@[simp] theorem noteRecord_flash (s : State) (k c u d : Nat) : (noteRecord s k c u d).flash = s.flash := by simp [noteRecord]
@[simp] theorem noteRecord_job (s : State) (k c u d : Nat) : (noteRecord s k c u d).job = s.job := by simp [noteRecord]
@[simp] theorem noteRecord_cores (s : State) (k c u d : Nat) : (noteRecord s k c u d).cores = s.cores := by simp [noteRecord]
@[simp] theorem noteRecord_vaults (s : State) (k c u d : Nat) : (noteRecord s k c u d).vaults = s.vaults := by simp [noteRecord]
@[simp] theorem noteRecord_rings (s : State) (k c u d : Nat) : (noteRecord s k c u d).rings = s.rings := by simp [noteRecord]
@[simp] theorem noteRecord_pages (s : State) (k c u d : Nat) : (noteRecord s k c u d).pages = s.pages := by simp [noteRecord]
@[simp] theorem noteRecord_guard (s : State) (k c u d : Nat) : (noteRecord s k c u d).guard = s.guard := by simp [noteRecord]
@[simp] theorem noteRecord_pails (s : State) (k c u d : Nat) : (noteRecord s k c u d).pails = s.pails := by simp [noteRecord]
@[simp] theorem noteRecord_wq (s : State) (k c u d : Nat) : (noteRecord s k c u d).wq = s.wq := by simp [noteRecord]
@[simp] theorem noteRecord_links (s : State) (k c u d : Nat) : (noteRecord s k c u d).links = s.links := by simp [noteRecord]
@[simp] theorem noteRecord_stoby (s : State) (k c u d : Nat) : (noteRecord s k c u d).stoby = s.stoby := by simp [noteRecord]
@[simp] theorem noteRecord_time (s : State) (k c u d : Nat) : (noteRecord s k c u d).time = s.time := by simp [noteRecord]
@[simp] theorem noteRecord_power (s : State) (k c u d : Nat) : (noteRecord s k c u d).power = s.power := by simp [noteRecord]
@[simp] theorem noteRecord_doms (s : State) (k c u d : Nat) : (noteRecord s k c u d).doms = s.doms := by simp [noteRecord]
@[simp] theorem noteRecord_thermal (s : State) (k c u d : Nat) : (noteRecord s k c u d).thermal = s.thermal := by simp [noteRecord]
@[simp] theorem noteRecord_wear (s : State) (k c u d : Nat) : (noteRecord s k c u d).wear = s.wear := by simp [noteRecord]
@[simp] theorem noteRecord_pmc (s : State) (k c u d : Nat) : (noteRecord s k c u d).pmc = s.pmc := by simp [noteRecord]

/-! ### `detect` -/

@[simp] theorem detect_pending (s : State) (c : Cause) : (detect s c).pending = s.pending := (rfl)
@[simp] theorem detect_free (s : State) (c : Cause) : (detect s c).free = s.free := (rfl)
@[simp] theorem detect_mem (s : State) (c : Cause) : (detect s c).mem = s.mem := (rfl)
@[simp] theorem detect_marks (s : State) (c : Cause) : (detect s c).marks = s.marks := (rfl)
@[simp] theorem detect_regs (s : State) (c : Cause) : (detect s c).regs = s.regs := (rfl)
@[simp] theorem detect_boot (s : State) (c : Cause) : (detect s c).boot = s.boot := (rfl)
@[simp] theorem detect_flash (s : State) (c : Cause) : (detect s c).flash = s.flash := (rfl)
@[simp] theorem detect_job (s : State) (c : Cause) : (detect s c).job = s.job := (rfl)
@[simp] theorem detect_cores (s : State) (c : Cause) : (detect s c).cores = s.cores := (rfl)
@[simp] theorem detect_vaults (s : State) (c : Cause) : (detect s c).vaults = s.vaults := (rfl)
@[simp] theorem detect_rings (s : State) (c : Cause) : (detect s c).rings = s.rings := (rfl)
@[simp] theorem detect_pages (s : State) (c : Cause) : (detect s c).pages = s.pages := (rfl)
@[simp] theorem detect_guard (s : State) (c : Cause) : (detect s c).guard = s.guard := (rfl)
@[simp] theorem detect_pails (s : State) (c : Cause) : (detect s c).pails = s.pails := (rfl)
@[simp] theorem detect_wq (s : State) (c : Cause) : (detect s c).wq = s.wq := (rfl)
@[simp] theorem detect_links (s : State) (c : Cause) : (detect s c).links = s.links := (rfl)
@[simp] theorem detect_stoby (s : State) (c : Cause) : (detect s c).stoby = s.stoby := (rfl)
@[simp] theorem detect_time (s : State) (c : Cause) : (detect s c).time = s.time := (rfl)
@[simp] theorem detect_host (s : State) (c : Cause) : (detect s c).host = s.host := (rfl)
@[simp] theorem detect_board (s : State) (c : Cause) : (detect s c).board = s.board := (rfl)
@[simp] theorem detect_power (s : State) (c : Cause) : (detect s c).power = s.power := (rfl)
@[simp] theorem detect_doms (s : State) (c : Cause) : (detect s c).doms = s.doms := (rfl)
@[simp] theorem detect_thermal (s : State) (c : Cause) : (detect s c).thermal = s.thermal := (rfl)
@[simp] theorem detect_wear (s : State) (c : Cause) : (detect s c).wear = s.wear := (rfl)
@[simp] theorem detect_pmc (s : State) (c : Cause) : (detect s c).pmc = s.pmc := (rfl)

/-! ### `detectUe` -/

@[simp] theorem detectUe_pending (s : State) (k u a : Nat) : (detectUe s k u a).pending = s.pending := (rfl)
@[simp] theorem detectUe_free (s : State) (k u a : Nat) : (detectUe s k u a).free = s.free := (rfl)
@[simp] theorem detectUe_mem (s : State) (k u a : Nat) : (detectUe s k u a).mem = s.mem := (rfl)
@[simp] theorem detectUe_marks (s : State) (k u a : Nat) : (detectUe s k u a).marks = s.marks := (rfl)
@[simp] theorem detectUe_regs (s : State) (k u a : Nat) : (detectUe s k u a).regs = s.regs := (rfl)
@[simp] theorem detectUe_boot (s : State) (k u a : Nat) : (detectUe s k u a).boot = s.boot := (rfl)
@[simp] theorem detectUe_flash (s : State) (k u a : Nat) : (detectUe s k u a).flash = s.flash := (rfl)
@[simp] theorem detectUe_job (s : State) (k u a : Nat) : (detectUe s k u a).job = s.job := (rfl)
@[simp] theorem detectUe_cores (s : State) (k u a : Nat) : (detectUe s k u a).cores = s.cores := (rfl)
@[simp] theorem detectUe_vaults (s : State) (k u a : Nat) : (detectUe s k u a).vaults = s.vaults := (rfl)
@[simp] theorem detectUe_rings (s : State) (k u a : Nat) : (detectUe s k u a).rings = s.rings := (rfl)
@[simp] theorem detectUe_pages (s : State) (k u a : Nat) : (detectUe s k u a).pages = s.pages := (rfl)
@[simp] theorem detectUe_guard (s : State) (k u a : Nat) : (detectUe s k u a).guard = s.guard := (rfl)
@[simp] theorem detectUe_pails (s : State) (k u a : Nat) : (detectUe s k u a).pails = s.pails := (rfl)
@[simp] theorem detectUe_wq (s : State) (k u a : Nat) : (detectUe s k u a).wq = s.wq := (rfl)
@[simp] theorem detectUe_links (s : State) (k u a : Nat) : (detectUe s k u a).links = s.links := (rfl)
@[simp] theorem detectUe_stoby (s : State) (k u a : Nat) : (detectUe s k u a).stoby = s.stoby := (rfl)
@[simp] theorem detectUe_time (s : State) (k u a : Nat) : (detectUe s k u a).time = s.time := (rfl)
@[simp] theorem detectUe_host (s : State) (k u a : Nat) : (detectUe s k u a).host = s.host := (rfl)
@[simp] theorem detectUe_board (s : State) (k u a : Nat) : (detectUe s k u a).board = s.board := (rfl)
@[simp] theorem detectUe_power (s : State) (k u a : Nat) : (detectUe s k u a).power = s.power := (rfl)
@[simp] theorem detectUe_doms (s : State) (k u a : Nat) : (detectUe s k u a).doms = s.doms := (rfl)
@[simp] theorem detectUe_thermal (s : State) (k u a : Nat) : (detectUe s k u a).thermal = s.thermal := (rfl)
@[simp] theorem detectUe_wear (s : State) (k u a : Nat) : (detectUe s k u a).wear = s.wear := (rfl)
@[simp] theorem detectUe_pmc (s : State) (k u a : Nat) : (detectUe s k u a).pmc = s.pmc := (rfl)

/-! ### `upsetWords` -/

@[simp] theorem upsetWords_pending (s : State) (l : List (Nat × Upset)) : (upsetWords s l).pending = s.pending := (rfl)
@[simp] theorem upsetWords_free (s : State) (l : List (Nat × Upset)) : (upsetWords s l).free = s.free := (rfl)
@[simp] theorem upsetWords_mem (s : State) (l : List (Nat × Upset)) : (upsetWords s l).mem = s.mem := (rfl)
@[simp] theorem upsetWords_regs (s : State) (l : List (Nat × Upset)) : (upsetWords s l).regs = s.regs := (rfl)
@[simp] theorem upsetWords_boot (s : State) (l : List (Nat × Upset)) : (upsetWords s l).boot = s.boot := (rfl)
@[simp] theorem upsetWords_flash (s : State) (l : List (Nat × Upset)) : (upsetWords s l).flash = s.flash := (rfl)
@[simp] theorem upsetWords_fault (s : State) (l : List (Nat × Upset)) : (upsetWords s l).fault = s.fault := (rfl)
@[simp] theorem upsetWords_job (s : State) (l : List (Nat × Upset)) : (upsetWords s l).job = s.job := (rfl)
@[simp] theorem upsetWords_cores (s : State) (l : List (Nat × Upset)) : (upsetWords s l).cores = s.cores := (rfl)
@[simp] theorem upsetWords_vaults (s : State) (l : List (Nat × Upset)) : (upsetWords s l).vaults = s.vaults := (rfl)
@[simp] theorem upsetWords_rings (s : State) (l : List (Nat × Upset)) : (upsetWords s l).rings = s.rings := (rfl)
@[simp] theorem upsetWords_pages (s : State) (l : List (Nat × Upset)) : (upsetWords s l).pages = s.pages := (rfl)
@[simp] theorem upsetWords_guard (s : State) (l : List (Nat × Upset)) : (upsetWords s l).guard = s.guard := (rfl)
@[simp] theorem upsetWords_pails (s : State) (l : List (Nat × Upset)) : (upsetWords s l).pails = s.pails := (rfl)
@[simp] theorem upsetWords_wq (s : State) (l : List (Nat × Upset)) : (upsetWords s l).wq = s.wq := (rfl)
@[simp] theorem upsetWords_links (s : State) (l : List (Nat × Upset)) : (upsetWords s l).links = s.links := (rfl)
@[simp] theorem upsetWords_stoby (s : State) (l : List (Nat × Upset)) : (upsetWords s l).stoby = s.stoby := (rfl)
@[simp] theorem upsetWords_time (s : State) (l : List (Nat × Upset)) : (upsetWords s l).time = s.time := (rfl)
@[simp] theorem upsetWords_host (s : State) (l : List (Nat × Upset)) : (upsetWords s l).host = s.host := (rfl)
@[simp] theorem upsetWords_board (s : State) (l : List (Nat × Upset)) : (upsetWords s l).board = s.board := (rfl)
@[simp] theorem upsetWords_power (s : State) (l : List (Nat × Upset)) : (upsetWords s l).power = s.power := (rfl)
@[simp] theorem upsetWords_doms (s : State) (l : List (Nat × Upset)) : (upsetWords s l).doms = s.doms := (rfl)
@[simp] theorem upsetWords_thermal (s : State) (l : List (Nat × Upset)) : (upsetWords s l).thermal = s.thermal := (rfl)
@[simp] theorem upsetWords_wear (s : State) (l : List (Nat × Upset)) : (upsetWords s l).wear = s.wear := (rfl)
@[simp] theorem upsetWords_pmc (s : State) (l : List (Nat × Upset)) : (upsetWords s l).pmc = s.pmc := (rfl)

/-! ### `logCorrected` -/

@[simp] theorem logCorrected_pending (s : State) (a n : Nat) (p : Nat → Bool) (e o b k : Nat) : (logCorrected s a n p e o b k).pending = s.pending := by unfold logCorrected; (try dsimp only); (repeat' split) <;> simp
@[simp] theorem logCorrected_free (s : State) (a n : Nat) (p : Nat → Bool) (e o b k : Nat) : (logCorrected s a n p e o b k).free = s.free := by unfold logCorrected; (try dsimp only); (repeat' split) <;> simp
@[simp] theorem logCorrected_mem (s : State) (a n : Nat) (p : Nat → Bool) (e o b k : Nat) : (logCorrected s a n p e o b k).mem = s.mem := by unfold logCorrected; (try dsimp only); (repeat' split) <;> simp
@[simp] theorem logCorrected_marks (s : State) (a n : Nat) (p : Nat → Bool) (e o b k : Nat) : (logCorrected s a n p e o b k).marks = s.marks := by unfold logCorrected; (try dsimp only); (repeat' split) <;> simp
@[simp] theorem logCorrected_boot (s : State) (a n : Nat) (p : Nat → Bool) (e o b k : Nat) : (logCorrected s a n p e o b k).boot = s.boot := by unfold logCorrected; (try dsimp only); (repeat' split) <;> simp
@[simp] theorem logCorrected_flash (s : State) (a n : Nat) (p : Nat → Bool) (e o b k : Nat) : (logCorrected s a n p e o b k).flash = s.flash := by unfold logCorrected; (try dsimp only); (repeat' split) <;> simp
@[simp] theorem logCorrected_fault (s : State) (a n : Nat) (p : Nat → Bool) (e o b k : Nat) : (logCorrected s a n p e o b k).fault = s.fault := by unfold logCorrected; (try dsimp only); (repeat' split) <;> simp
@[simp] theorem logCorrected_job (s : State) (a n : Nat) (p : Nat → Bool) (e o b k : Nat) : (logCorrected s a n p e o b k).job = s.job := by unfold logCorrected; (try dsimp only); (repeat' split) <;> simp
@[simp] theorem logCorrected_cores (s : State) (a n : Nat) (p : Nat → Bool) (e o b k : Nat) : (logCorrected s a n p e o b k).cores = s.cores := by unfold logCorrected; (try dsimp only); (repeat' split) <;> simp
@[simp] theorem logCorrected_vaults (s : State) (a n : Nat) (p : Nat → Bool) (e o b k : Nat) : (logCorrected s a n p e o b k).vaults = s.vaults := by unfold logCorrected; (try dsimp only); (repeat' split) <;> simp
@[simp] theorem logCorrected_rings (s : State) (a n : Nat) (p : Nat → Bool) (e o b k : Nat) : (logCorrected s a n p e o b k).rings = s.rings := by unfold logCorrected; (try dsimp only); (repeat' split) <;> simp
@[simp] theorem logCorrected_pages (s : State) (a n : Nat) (p : Nat → Bool) (e o b k : Nat) : (logCorrected s a n p e o b k).pages = s.pages := by unfold logCorrected; (try dsimp only); (repeat' split) <;> simp
@[simp] theorem logCorrected_guard (s : State) (a n : Nat) (p : Nat → Bool) (e o b k : Nat) : (logCorrected s a n p e o b k).guard = s.guard := by unfold logCorrected; (try dsimp only); (repeat' split) <;> simp
@[simp] theorem logCorrected_pails (s : State) (a n : Nat) (p : Nat → Bool) (e o b k : Nat) : (logCorrected s a n p e o b k).pails = s.pails := by unfold logCorrected; (try dsimp only); (repeat' split) <;> simp
@[simp] theorem logCorrected_wq (s : State) (a n : Nat) (p : Nat → Bool) (e o b k : Nat) : (logCorrected s a n p e o b k).wq = s.wq := by unfold logCorrected; (try dsimp only); (repeat' split) <;> simp
@[simp] theorem logCorrected_links (s : State) (a n : Nat) (p : Nat → Bool) (e o b k : Nat) : (logCorrected s a n p e o b k).links = s.links := by unfold logCorrected; (try dsimp only); (repeat' split) <;> simp
@[simp] theorem logCorrected_stoby (s : State) (a n : Nat) (p : Nat → Bool) (e o b k : Nat) : (logCorrected s a n p e o b k).stoby = s.stoby := by unfold logCorrected; (try dsimp only); (repeat' split) <;> simp
@[simp] theorem logCorrected_time (s : State) (a n : Nat) (p : Nat → Bool) (e o b k : Nat) : (logCorrected s a n p e o b k).time = s.time := by unfold logCorrected; (try dsimp only); (repeat' split) <;> simp
@[simp] theorem logCorrected_host (s : State) (a n : Nat) (p : Nat → Bool) (e o b k : Nat) : (logCorrected s a n p e o b k).host = s.host := by unfold logCorrected; (try dsimp only); (repeat' split) <;> simp
@[simp] theorem logCorrected_board (s : State) (a n : Nat) (p : Nat → Bool) (e o b k : Nat) : (logCorrected s a n p e o b k).board = s.board := by unfold logCorrected; (try dsimp only); (repeat' split) <;> simp
@[simp] theorem logCorrected_power (s : State) (a n : Nat) (p : Nat → Bool) (e o b k : Nat) : (logCorrected s a n p e o b k).power = s.power := by unfold logCorrected; (try dsimp only); (repeat' split) <;> simp
@[simp] theorem logCorrected_doms (s : State) (a n : Nat) (p : Nat → Bool) (e o b k : Nat) : (logCorrected s a n p e o b k).doms = s.doms := by unfold logCorrected; (try dsimp only); (repeat' split) <;> simp
@[simp] theorem logCorrected_thermal (s : State) (a n : Nat) (p : Nat → Bool) (e o b k : Nat) : (logCorrected s a n p e o b k).thermal = s.thermal := by unfold logCorrected; (try dsimp only); (repeat' split) <;> simp
@[simp] theorem logCorrected_wear (s : State) (a n : Nat) (p : Nat → Bool) (e o b k : Nat) : (logCorrected s a n p e o b k).wear = s.wear := by unfold logCorrected; (try dsimp only); (repeat' split) <;> simp
@[simp] theorem logCorrected_pmc (s : State) (a n : Nat) (p : Nat → Bool) (e o b k : Nat) : (logCorrected s a n p e o b k).pmc = s.pmc := by unfold logCorrected; (try dsimp only); (repeat' split) <;> simp

/-! ### `noteWeak` -/

@[simp] theorem noteWeak_pending (s : State) (v o k : Nat) : (noteWeak s v o k).pending = s.pending := by unfold noteWeak; (try dsimp only); (repeat' split) <;> (first | rfl | simp)
@[simp] theorem noteWeak_free (s : State) (v o k : Nat) : (noteWeak s v o k).free = s.free := by unfold noteWeak; (try dsimp only); (repeat' split) <;> (first | rfl | simp)
@[simp] theorem noteWeak_mem (s : State) (v o k : Nat) : (noteWeak s v o k).mem = s.mem := by unfold noteWeak; (try dsimp only); (repeat' split) <;> (first | rfl | simp)
@[simp] theorem noteWeak_marks (s : State) (v o k : Nat) : (noteWeak s v o k).marks = s.marks := by unfold noteWeak; (try dsimp only); (repeat' split) <;> (first | rfl | simp)
@[simp] theorem noteWeak_regs (s : State) (v o k : Nat) : (noteWeak s v o k).regs = s.regs := by unfold noteWeak; (try dsimp only); (repeat' split) <;> (first | rfl | simp)
@[simp] theorem noteWeak_boot (s : State) (v o k : Nat) : (noteWeak s v o k).boot = s.boot := by unfold noteWeak; (try dsimp only); (repeat' split) <;> (first | rfl | simp)
@[simp] theorem noteWeak_flash (s : State) (v o k : Nat) : (noteWeak s v o k).flash = s.flash := by unfold noteWeak; (try dsimp only); (repeat' split) <;> (first | rfl | simp)
@[simp] theorem noteWeak_fault (s : State) (v o k : Nat) : (noteWeak s v o k).fault = s.fault := by unfold noteWeak; (try dsimp only); (repeat' split) <;> (first | rfl | simp)
@[simp] theorem noteWeak_job (s : State) (v o k : Nat) : (noteWeak s v o k).job = s.job := by unfold noteWeak; (try dsimp only); (repeat' split) <;> (first | rfl | simp)
@[simp] theorem noteWeak_cores (s : State) (v o k : Nat) : (noteWeak s v o k).cores = s.cores := by unfold noteWeak; (try dsimp only); (repeat' split) <;> (first | rfl | simp)
@[simp] theorem noteWeak_vaults (s : State) (v o k : Nat) : (noteWeak s v o k).vaults = s.vaults := by unfold noteWeak; (try dsimp only); (repeat' split) <;> (first | rfl | simp)
@[simp] theorem noteWeak_rings (s : State) (v o k : Nat) : (noteWeak s v o k).rings = s.rings := by unfold noteWeak; (try dsimp only); (repeat' split) <;> (first | rfl | simp)
@[simp] theorem noteWeak_pages (s : State) (v o k : Nat) : (noteWeak s v o k).pages = s.pages := by unfold noteWeak; (try dsimp only); (repeat' split) <;> (first | rfl | simp)
@[simp] theorem noteWeak_guard (s : State) (v o k : Nat) : (noteWeak s v o k).guard = s.guard := by unfold noteWeak; (try dsimp only); (repeat' split) <;> (first | rfl | simp)
@[simp] theorem noteWeak_pails (s : State) (v o k : Nat) : (noteWeak s v o k).pails = s.pails := by unfold noteWeak; (try dsimp only); (repeat' split) <;> (first | rfl | simp)
@[simp] theorem noteWeak_wq (s : State) (v o k : Nat) : (noteWeak s v o k).wq = s.wq := by unfold noteWeak; (try dsimp only); (repeat' split) <;> (first | rfl | simp)
@[simp] theorem noteWeak_links (s : State) (v o k : Nat) : (noteWeak s v o k).links = s.links := by unfold noteWeak; (try dsimp only); (repeat' split) <;> (first | rfl | simp)
@[simp] theorem noteWeak_stoby (s : State) (v o k : Nat) : (noteWeak s v o k).stoby = s.stoby := by unfold noteWeak; (try dsimp only); (repeat' split) <;> (first | rfl | simp)
@[simp] theorem noteWeak_time (s : State) (v o k : Nat) : (noteWeak s v o k).time = s.time := by unfold noteWeak; (try dsimp only); (repeat' split) <;> (first | rfl | simp)
@[simp] theorem noteWeak_host (s : State) (v o k : Nat) : (noteWeak s v o k).host = s.host := by unfold noteWeak; (try dsimp only); (repeat' split) <;> (first | rfl | simp)
@[simp] theorem noteWeak_board (s : State) (v o k : Nat) : (noteWeak s v o k).board = s.board := by unfold noteWeak; (try dsimp only); (repeat' split) <;> (first | rfl | simp)
@[simp] theorem noteWeak_power (s : State) (v o k : Nat) : (noteWeak s v o k).power = s.power := by unfold noteWeak; (try dsimp only); (repeat' split) <;> (first | rfl | simp)
@[simp] theorem noteWeak_doms (s : State) (v o k : Nat) : (noteWeak s v o k).doms = s.doms := by unfold noteWeak; (try dsimp only); (repeat' split) <;> (first | rfl | simp)
@[simp] theorem noteWeak_thermal (s : State) (v o k : Nat) : (noteWeak s v o k).thermal = s.thermal := by unfold noteWeak; (try dsimp only); (repeat' split) <;> (first | rfl | simp)
@[simp] theorem noteWeak_pmc (s : State) (v o k : Nat) : (noteWeak s v o k).pmc = s.pmc := by unfold noteWeak; (try dsimp only); (repeat' split) <;> (first | rfl | simp)

/-! ### `vaultCe` -/

@[simp] theorem vaultCe_pending (s : State) (v o x k : Nat) : (vaultCe s v o x k).pending = s.pending := by simp [vaultCe]
@[simp] theorem vaultCe_free (s : State) (v o x k : Nat) : (vaultCe s v o x k).free = s.free := by simp [vaultCe]
@[simp] theorem vaultCe_mem (s : State) (v o x k : Nat) : (vaultCe s v o x k).mem = s.mem := by simp [vaultCe]
@[simp] theorem vaultCe_marks (s : State) (v o x k : Nat) : (vaultCe s v o x k).marks = s.marks := by simp [vaultCe]
@[simp] theorem vaultCe_boot (s : State) (v o x k : Nat) : (vaultCe s v o x k).boot = s.boot := by simp [vaultCe]
@[simp] theorem vaultCe_flash (s : State) (v o x k : Nat) : (vaultCe s v o x k).flash = s.flash := by simp [vaultCe]
@[simp] theorem vaultCe_fault (s : State) (v o x k : Nat) : (vaultCe s v o x k).fault = s.fault := by simp [vaultCe]
@[simp] theorem vaultCe_job (s : State) (v o x k : Nat) : (vaultCe s v o x k).job = s.job := by simp [vaultCe]
@[simp] theorem vaultCe_cores (s : State) (v o x k : Nat) : (vaultCe s v o x k).cores = s.cores := by simp [vaultCe]
@[simp] theorem vaultCe_vaults (s : State) (v o x k : Nat) : (vaultCe s v o x k).vaults = s.vaults := by simp [vaultCe]
@[simp] theorem vaultCe_rings (s : State) (v o x k : Nat) : (vaultCe s v o x k).rings = s.rings := by simp [vaultCe]
@[simp] theorem vaultCe_pages (s : State) (v o x k : Nat) : (vaultCe s v o x k).pages = s.pages := by simp [vaultCe]
@[simp] theorem vaultCe_guard (s : State) (v o x k : Nat) : (vaultCe s v o x k).guard = s.guard := by simp [vaultCe]
@[simp] theorem vaultCe_pails (s : State) (v o x k : Nat) : (vaultCe s v o x k).pails = s.pails := by simp [vaultCe]
@[simp] theorem vaultCe_wq (s : State) (v o x k : Nat) : (vaultCe s v o x k).wq = s.wq := by simp [vaultCe]
@[simp] theorem vaultCe_links (s : State) (v o x k : Nat) : (vaultCe s v o x k).links = s.links := by simp [vaultCe]
@[simp] theorem vaultCe_stoby (s : State) (v o x k : Nat) : (vaultCe s v o x k).stoby = s.stoby := by simp [vaultCe]
@[simp] theorem vaultCe_time (s : State) (v o x k : Nat) : (vaultCe s v o x k).time = s.time := by simp [vaultCe]
@[simp] theorem vaultCe_host (s : State) (v o x k : Nat) : (vaultCe s v o x k).host = s.host := by simp [vaultCe]
@[simp] theorem vaultCe_board (s : State) (v o x k : Nat) : (vaultCe s v o x k).board = s.board := by simp [vaultCe]
@[simp] theorem vaultCe_power (s : State) (v o x k : Nat) : (vaultCe s v o x k).power = s.power := by simp [vaultCe]
@[simp] theorem vaultCe_doms (s : State) (v o x k : Nat) : (vaultCe s v o x k).doms = s.doms := by simp [vaultCe]
@[simp] theorem vaultCe_thermal (s : State) (v o x k : Nat) : (vaultCe s v o x k).thermal = s.thermal := by simp [vaultCe]
@[simp] theorem vaultCe_pmc (s : State) (v o x k : Nat) : (vaultCe s v o x k).pmc = s.pmc := by simp [vaultCe]

/-! ### `sramCe` -/

@[simp] theorem sramCe_pending (s : State) (c o x k : Nat) : (sramCe s c o x k).pending = s.pending := by simp [sramCe]
@[simp] theorem sramCe_free (s : State) (c o x k : Nat) : (sramCe s c o x k).free = s.free := by simp [sramCe]
@[simp] theorem sramCe_mem (s : State) (c o x k : Nat) : (sramCe s c o x k).mem = s.mem := by simp [sramCe]
@[simp] theorem sramCe_marks (s : State) (c o x k : Nat) : (sramCe s c o x k).marks = s.marks := by simp [sramCe]
@[simp] theorem sramCe_boot (s : State) (c o x k : Nat) : (sramCe s c o x k).boot = s.boot := by simp [sramCe]
@[simp] theorem sramCe_flash (s : State) (c o x k : Nat) : (sramCe s c o x k).flash = s.flash := by simp [sramCe]
@[simp] theorem sramCe_fault (s : State) (c o x k : Nat) : (sramCe s c o x k).fault = s.fault := by simp [sramCe]
@[simp] theorem sramCe_job (s : State) (c o x k : Nat) : (sramCe s c o x k).job = s.job := by simp [sramCe]
@[simp] theorem sramCe_cores (s : State) (c o x k : Nat) : (sramCe s c o x k).cores = s.cores := by simp [sramCe]
@[simp] theorem sramCe_vaults (s : State) (c o x k : Nat) : (sramCe s c o x k).vaults = s.vaults := by simp [sramCe]
@[simp] theorem sramCe_rings (s : State) (c o x k : Nat) : (sramCe s c o x k).rings = s.rings := by simp [sramCe]
@[simp] theorem sramCe_pages (s : State) (c o x k : Nat) : (sramCe s c o x k).pages = s.pages := by simp [sramCe]
@[simp] theorem sramCe_guard (s : State) (c o x k : Nat) : (sramCe s c o x k).guard = s.guard := by simp [sramCe]
@[simp] theorem sramCe_pails (s : State) (c o x k : Nat) : (sramCe s c o x k).pails = s.pails := by simp [sramCe]
@[simp] theorem sramCe_wq (s : State) (c o x k : Nat) : (sramCe s c o x k).wq = s.wq := by simp [sramCe]
@[simp] theorem sramCe_links (s : State) (c o x k : Nat) : (sramCe s c o x k).links = s.links := by simp [sramCe]
@[simp] theorem sramCe_stoby (s : State) (c o x k : Nat) : (sramCe s c o x k).stoby = s.stoby := by simp [sramCe]
@[simp] theorem sramCe_time (s : State) (c o x k : Nat) : (sramCe s c o x k).time = s.time := by simp [sramCe]
@[simp] theorem sramCe_host (s : State) (c o x k : Nat) : (sramCe s c o x k).host = s.host := by simp [sramCe]
@[simp] theorem sramCe_board (s : State) (c o x k : Nat) : (sramCe s c o x k).board = s.board := by simp [sramCe]
@[simp] theorem sramCe_power (s : State) (c o x k : Nat) : (sramCe s c o x k).power = s.power := by simp [sramCe]
@[simp] theorem sramCe_doms (s : State) (c o x k : Nat) : (sramCe s c o x k).doms = s.doms := by simp [sramCe]
@[simp] theorem sramCe_thermal (s : State) (c o x k : Nat) : (sramCe s c o x k).thermal = s.thermal := by simp [sramCe]
@[simp] theorem sramCe_wear (s : State) (c o x k : Nat) : (sramCe s c o x k).wear = s.wear := by simp [sramCe]
@[simp] theorem sramCe_pmc (s : State) (c o x k : Nat) : (sramCe s c o x k).pmc = s.pmc := by simp [sramCe]

/-! ### `checkSramWord` -/

@[simp] theorem checkSramWord_pending (s : State) (c o k : Nat) : (checkSramWord s c o k).2.pending = s.pending := by unfold checkSramWord; split <;> simp
@[simp] theorem checkSramWord_free (s : State) (c o k : Nat) : (checkSramWord s c o k).2.free = s.free := by unfold checkSramWord; split <;> simp
@[simp] theorem checkSramWord_marks (s : State) (c o k : Nat) : (checkSramWord s c o k).2.marks = s.marks := by unfold checkSramWord; split <;> simp
@[simp] theorem checkSramWord_boot (s : State) (c o k : Nat) : (checkSramWord s c o k).2.boot = s.boot := by unfold checkSramWord; split <;> simp
@[simp] theorem checkSramWord_flash (s : State) (c o k : Nat) : (checkSramWord s c o k).2.flash = s.flash := by unfold checkSramWord; split <;> simp
@[simp] theorem checkSramWord_fault (s : State) (c o k : Nat) : (checkSramWord s c o k).2.fault = s.fault := by unfold checkSramWord; split <;> simp
@[simp] theorem checkSramWord_job (s : State) (c o k : Nat) : (checkSramWord s c o k).2.job = s.job := by unfold checkSramWord; split <;> simp
@[simp] theorem checkSramWord_cores (s : State) (c o k : Nat) : (checkSramWord s c o k).2.cores = s.cores := by unfold checkSramWord; split <;> simp
@[simp] theorem checkSramWord_vaults (s : State) (c o k : Nat) : (checkSramWord s c o k).2.vaults = s.vaults := by unfold checkSramWord; split <;> simp
@[simp] theorem checkSramWord_rings (s : State) (c o k : Nat) : (checkSramWord s c o k).2.rings = s.rings := by unfold checkSramWord; split <;> simp
@[simp] theorem checkSramWord_pages (s : State) (c o k : Nat) : (checkSramWord s c o k).2.pages = s.pages := by unfold checkSramWord; split <;> simp
@[simp] theorem checkSramWord_guard (s : State) (c o k : Nat) : (checkSramWord s c o k).2.guard = s.guard := by unfold checkSramWord; split <;> simp
@[simp] theorem checkSramWord_pails (s : State) (c o k : Nat) : (checkSramWord s c o k).2.pails = s.pails := by unfold checkSramWord; split <;> simp
@[simp] theorem checkSramWord_wq (s : State) (c o k : Nat) : (checkSramWord s c o k).2.wq = s.wq := by unfold checkSramWord; split <;> simp
@[simp] theorem checkSramWord_links (s : State) (c o k : Nat) : (checkSramWord s c o k).2.links = s.links := by unfold checkSramWord; split <;> simp
@[simp] theorem checkSramWord_stoby (s : State) (c o k : Nat) : (checkSramWord s c o k).2.stoby = s.stoby := by unfold checkSramWord; split <;> simp
@[simp] theorem checkSramWord_time (s : State) (c o k : Nat) : (checkSramWord s c o k).2.time = s.time := by unfold checkSramWord; split <;> simp
@[simp] theorem checkSramWord_host (s : State) (c o k : Nat) : (checkSramWord s c o k).2.host = s.host := by unfold checkSramWord; split <;> simp
@[simp] theorem checkSramWord_board (s : State) (c o k : Nat) : (checkSramWord s c o k).2.board = s.board := by unfold checkSramWord; split <;> simp
@[simp] theorem checkSramWord_power (s : State) (c o k : Nat) : (checkSramWord s c o k).2.power = s.power := by unfold checkSramWord; split <;> simp
@[simp] theorem checkSramWord_doms (s : State) (c o k : Nat) : (checkSramWord s c o k).2.doms = s.doms := by unfold checkSramWord; split <;> simp
@[simp] theorem checkSramWord_thermal (s : State) (c o k : Nat) : (checkSramWord s c o k).2.thermal = s.thermal := by unfold checkSramWord; split <;> simp
@[simp] theorem checkSramWord_wear (s : State) (c o k : Nat) : (checkSramWord s c o k).2.wear = s.wear := by unfold checkSramWord; split <;> simp
@[simp] theorem checkSramWord_pmc (s : State) (c o k : Nat) : (checkSramWord s c o k).2.pmc = s.pmc := by unfold checkSramWord; split <;> simp

/-! ### `coreStore` -/

@[simp] theorem coreStore_pending (s : State) (c o : Nat) (bs : List Byte) : (coreStore s c o bs).pending = s.pending := by
  unfold coreStore; apply foldl_keep (fun s => s.pending); intro s k; dsimp only; (repeat' split) <;> simp
@[simp] theorem coreStore_free (s : State) (c o : Nat) (bs : List Byte) : (coreStore s c o bs).free = s.free := by
  unfold coreStore; apply foldl_keep (fun s => s.free); intro s k; dsimp only; (repeat' split) <;> simp
@[simp] theorem coreStore_boot (s : State) (c o : Nat) (bs : List Byte) : (coreStore s c o bs).boot = s.boot := by
  unfold coreStore; apply foldl_keep (fun s => s.boot); intro s k; dsimp only; (repeat' split) <;> simp
@[simp] theorem coreStore_flash (s : State) (c o : Nat) (bs : List Byte) : (coreStore s c o bs).flash = s.flash := by
  unfold coreStore; apply foldl_keep (fun s => s.flash); intro s k; dsimp only; (repeat' split) <;> simp
@[simp] theorem coreStore_job (s : State) (c o : Nat) (bs : List Byte) : (coreStore s c o bs).job = s.job := by
  unfold coreStore; apply foldl_keep (fun s => s.job); intro s k; dsimp only; (repeat' split) <;> simp
@[simp] theorem coreStore_cores (s : State) (c o : Nat) (bs : List Byte) : (coreStore s c o bs).cores = s.cores := by
  unfold coreStore; apply foldl_keep (fun s => s.cores); intro s k; dsimp only; (repeat' split) <;> simp
@[simp] theorem coreStore_vaults (s : State) (c o : Nat) (bs : List Byte) : (coreStore s c o bs).vaults = s.vaults := by
  unfold coreStore; apply foldl_keep (fun s => s.vaults); intro s k; dsimp only; (repeat' split) <;> simp
@[simp] theorem coreStore_rings (s : State) (c o : Nat) (bs : List Byte) : (coreStore s c o bs).rings = s.rings := by
  unfold coreStore; apply foldl_keep (fun s => s.rings); intro s k; dsimp only; (repeat' split) <;> simp
@[simp] theorem coreStore_pages (s : State) (c o : Nat) (bs : List Byte) : (coreStore s c o bs).pages = s.pages := by
  unfold coreStore; apply foldl_keep (fun s => s.pages); intro s k; dsimp only; (repeat' split) <;> simp
@[simp] theorem coreStore_guard (s : State) (c o : Nat) (bs : List Byte) : (coreStore s c o bs).guard = s.guard := by
  unfold coreStore; apply foldl_keep (fun s => s.guard); intro s k; dsimp only; (repeat' split) <;> simp
@[simp] theorem coreStore_pails (s : State) (c o : Nat) (bs : List Byte) : (coreStore s c o bs).pails = s.pails := by
  unfold coreStore; apply foldl_keep (fun s => s.pails); intro s k; dsimp only; (repeat' split) <;> simp
@[simp] theorem coreStore_wq (s : State) (c o : Nat) (bs : List Byte) : (coreStore s c o bs).wq = s.wq := by
  unfold coreStore; apply foldl_keep (fun s => s.wq); intro s k; dsimp only; (repeat' split) <;> simp
@[simp] theorem coreStore_links (s : State) (c o : Nat) (bs : List Byte) : (coreStore s c o bs).links = s.links := by
  unfold coreStore; apply foldl_keep (fun s => s.links); intro s k; dsimp only; (repeat' split) <;> simp
@[simp] theorem coreStore_stoby (s : State) (c o : Nat) (bs : List Byte) : (coreStore s c o bs).stoby = s.stoby := by
  unfold coreStore; apply foldl_keep (fun s => s.stoby); intro s k; dsimp only; (repeat' split) <;> simp
@[simp] theorem coreStore_time (s : State) (c o : Nat) (bs : List Byte) : (coreStore s c o bs).time = s.time := by
  unfold coreStore; apply foldl_keep (fun s => s.time); intro s k; dsimp only; (repeat' split) <;> simp
@[simp] theorem coreStore_host (s : State) (c o : Nat) (bs : List Byte) : (coreStore s c o bs).host = s.host := by
  unfold coreStore; apply foldl_keep (fun s => s.host); intro s k; dsimp only; (repeat' split) <;> simp
@[simp] theorem coreStore_board (s : State) (c o : Nat) (bs : List Byte) : (coreStore s c o bs).board = s.board := by
  unfold coreStore; apply foldl_keep (fun s => s.board); intro s k; dsimp only; (repeat' split) <;> simp
@[simp] theorem coreStore_power (s : State) (c o : Nat) (bs : List Byte) : (coreStore s c o bs).power = s.power := by
  unfold coreStore; apply foldl_keep (fun s => s.power); intro s k; dsimp only; (repeat' split) <;> simp
@[simp] theorem coreStore_doms (s : State) (c o : Nat) (bs : List Byte) : (coreStore s c o bs).doms = s.doms := by
  unfold coreStore; apply foldl_keep (fun s => s.doms); intro s k; dsimp only; (repeat' split) <;> simp
@[simp] theorem coreStore_thermal (s : State) (c o : Nat) (bs : List Byte) : (coreStore s c o bs).thermal = s.thermal := by
  unfold coreStore; apply foldl_keep (fun s => s.thermal); intro s k; dsimp only; (repeat' split) <;> simp
@[simp] theorem coreStore_wear (s : State) (c o : Nat) (bs : List Byte) : (coreStore s c o bs).wear = s.wear := by
  unfold coreStore; apply foldl_keep (fun s => s.wear); intro s k; dsimp only; (repeat' split) <;> simp
@[simp] theorem coreStore_pmc (s : State) (c o : Nat) (bs : List Byte) : (coreStore s c o bs).pmc = s.pmc := by
  unfold coreStore; apply foldl_keep (fun s => s.pmc); intro s k; dsimp only; (repeat' split) <;> simp

/-! ### `vaultUeCount` -/

@[simp] theorem vaultUeCount_pending (s : State) (v o k : Nat) : (vaultUeCount s v o k).pending = s.pending := by unfold vaultUeCount; (try dsimp only); (repeat' split) <;> simp
@[simp] theorem vaultUeCount_free (s : State) (v o k : Nat) : (vaultUeCount s v o k).free = s.free := by unfold vaultUeCount; (try dsimp only); (repeat' split) <;> simp
@[simp] theorem vaultUeCount_mem (s : State) (v o k : Nat) : (vaultUeCount s v o k).mem = s.mem := by unfold vaultUeCount; (try dsimp only); (repeat' split) <;> simp
@[simp] theorem vaultUeCount_marks (s : State) (v o k : Nat) : (vaultUeCount s v o k).marks = s.marks := by unfold vaultUeCount; (try dsimp only); (repeat' split) <;> simp
@[simp] theorem vaultUeCount_boot (s : State) (v o k : Nat) : (vaultUeCount s v o k).boot = s.boot := by unfold vaultUeCount; (try dsimp only); (repeat' split) <;> simp
@[simp] theorem vaultUeCount_flash (s : State) (v o k : Nat) : (vaultUeCount s v o k).flash = s.flash := by unfold vaultUeCount; (try dsimp only); (repeat' split) <;> simp
@[simp] theorem vaultUeCount_fault (s : State) (v o k : Nat) : (vaultUeCount s v o k).fault = s.fault := by unfold vaultUeCount; (try dsimp only); (repeat' split) <;> simp
@[simp] theorem vaultUeCount_job (s : State) (v o k : Nat) : (vaultUeCount s v o k).job = s.job := by unfold vaultUeCount; (try dsimp only); (repeat' split) <;> simp
@[simp] theorem vaultUeCount_cores (s : State) (v o k : Nat) : (vaultUeCount s v o k).cores = s.cores := by unfold vaultUeCount; (try dsimp only); (repeat' split) <;> simp
@[simp] theorem vaultUeCount_vaults (s : State) (v o k : Nat) : (vaultUeCount s v o k).vaults = s.vaults := by unfold vaultUeCount; (try dsimp only); (repeat' split) <;> simp
@[simp] theorem vaultUeCount_rings (s : State) (v o k : Nat) : (vaultUeCount s v o k).rings = s.rings := by unfold vaultUeCount; (try dsimp only); (repeat' split) <;> simp
@[simp] theorem vaultUeCount_pages (s : State) (v o k : Nat) : (vaultUeCount s v o k).pages = s.pages := by unfold vaultUeCount; (try dsimp only); (repeat' split) <;> simp
@[simp] theorem vaultUeCount_guard (s : State) (v o k : Nat) : (vaultUeCount s v o k).guard = s.guard := by unfold vaultUeCount; (try dsimp only); (repeat' split) <;> simp
@[simp] theorem vaultUeCount_pails (s : State) (v o k : Nat) : (vaultUeCount s v o k).pails = s.pails := by unfold vaultUeCount; (try dsimp only); (repeat' split) <;> simp
@[simp] theorem vaultUeCount_wq (s : State) (v o k : Nat) : (vaultUeCount s v o k).wq = s.wq := by unfold vaultUeCount; (try dsimp only); (repeat' split) <;> simp
@[simp] theorem vaultUeCount_links (s : State) (v o k : Nat) : (vaultUeCount s v o k).links = s.links := by unfold vaultUeCount; (try dsimp only); (repeat' split) <;> simp
@[simp] theorem vaultUeCount_stoby (s : State) (v o k : Nat) : (vaultUeCount s v o k).stoby = s.stoby := by unfold vaultUeCount; (try dsimp only); (repeat' split) <;> simp
@[simp] theorem vaultUeCount_time (s : State) (v o k : Nat) : (vaultUeCount s v o k).time = s.time := by unfold vaultUeCount; (try dsimp only); (repeat' split) <;> simp
@[simp] theorem vaultUeCount_host (s : State) (v o k : Nat) : (vaultUeCount s v o k).host = s.host := by unfold vaultUeCount; (try dsimp only); (repeat' split) <;> simp
@[simp] theorem vaultUeCount_board (s : State) (v o k : Nat) : (vaultUeCount s v o k).board = s.board := by unfold vaultUeCount; (try dsimp only); (repeat' split) <;> simp
@[simp] theorem vaultUeCount_power (s : State) (v o k : Nat) : (vaultUeCount s v o k).power = s.power := by unfold vaultUeCount; (try dsimp only); (repeat' split) <;> simp
@[simp] theorem vaultUeCount_doms (s : State) (v o k : Nat) : (vaultUeCount s v o k).doms = s.doms := by unfold vaultUeCount; (try dsimp only); (repeat' split) <;> simp
@[simp] theorem vaultUeCount_thermal (s : State) (v o k : Nat) : (vaultUeCount s v o k).thermal = s.thermal := by unfold vaultUeCount; (try dsimp only); (repeat' split) <;> simp
@[simp] theorem vaultUeCount_wear (s : State) (v o k : Nat) : (vaultUeCount s v o k).wear = s.wear := by unfold vaultUeCount; (try dsimp only); (repeat' split) <;> simp
@[simp] theorem vaultUeCount_pmc (s : State) (v o k : Nat) : (vaultUeCount s v o k).pmc = s.pmc := by unfold vaultUeCount; (try dsimp only); (repeat' split) <;> simp

/-! ### `poisonRow` -/

@[simp] theorem poisonRow_pending (s : State) (v o : Nat) : (poisonRow s v o).pending = s.pending := by simp [poisonRow]
@[simp] theorem poisonRow_free (s : State) (v o : Nat) : (poisonRow s v o).free = s.free := by simp [poisonRow]
@[simp] theorem poisonRow_regs (s : State) (v o : Nat) : (poisonRow s v o).regs = s.regs := by simp [poisonRow]
@[simp] theorem poisonRow_boot (s : State) (v o : Nat) : (poisonRow s v o).boot = s.boot := by simp [poisonRow]
@[simp] theorem poisonRow_flash (s : State) (v o : Nat) : (poisonRow s v o).flash = s.flash := by simp [poisonRow]
@[simp] theorem poisonRow_fault (s : State) (v o : Nat) : (poisonRow s v o).fault = s.fault := by simp [poisonRow]
@[simp] theorem poisonRow_job (s : State) (v o : Nat) : (poisonRow s v o).job = s.job := by simp [poisonRow]
@[simp] theorem poisonRow_cores (s : State) (v o : Nat) : (poisonRow s v o).cores = s.cores := by simp [poisonRow]
@[simp] theorem poisonRow_vaults (s : State) (v o : Nat) : (poisonRow s v o).vaults = s.vaults := by simp [poisonRow]
@[simp] theorem poisonRow_rings (s : State) (v o : Nat) : (poisonRow s v o).rings = s.rings := by simp [poisonRow]
@[simp] theorem poisonRow_pages (s : State) (v o : Nat) : (poisonRow s v o).pages = s.pages := by simp [poisonRow]
@[simp] theorem poisonRow_guard (s : State) (v o : Nat) : (poisonRow s v o).guard = s.guard := by simp [poisonRow]
@[simp] theorem poisonRow_pails (s : State) (v o : Nat) : (poisonRow s v o).pails = s.pails := by simp [poisonRow]
@[simp] theorem poisonRow_wq (s : State) (v o : Nat) : (poisonRow s v o).wq = s.wq := by simp [poisonRow]
@[simp] theorem poisonRow_links (s : State) (v o : Nat) : (poisonRow s v o).links = s.links := by simp [poisonRow]
@[simp] theorem poisonRow_stoby (s : State) (v o : Nat) : (poisonRow s v o).stoby = s.stoby := by simp [poisonRow]
@[simp] theorem poisonRow_time (s : State) (v o : Nat) : (poisonRow s v o).time = s.time := by simp [poisonRow]
@[simp] theorem poisonRow_host (s : State) (v o : Nat) : (poisonRow s v o).host = s.host := by simp [poisonRow]
@[simp] theorem poisonRow_board (s : State) (v o : Nat) : (poisonRow s v o).board = s.board := by simp [poisonRow]
@[simp] theorem poisonRow_power (s : State) (v o : Nat) : (poisonRow s v o).power = s.power := by simp [poisonRow]
@[simp] theorem poisonRow_doms (s : State) (v o : Nat) : (poisonRow s v o).doms = s.doms := by simp [poisonRow]
@[simp] theorem poisonRow_thermal (s : State) (v o : Nat) : (poisonRow s v o).thermal = s.thermal := by simp [poisonRow]
@[simp] theorem poisonRow_wear (s : State) (v o : Nat) : (poisonRow s v o).wear = s.wear := by simp [poisonRow]
@[simp] theorem poisonRow_pmc (s : State) (v o : Nat) : (poisonRow s v o).pmc = s.pmc := by simp [poisonRow]

/-! ### `vaultUe` -/

@[simp] theorem vaultUe_pending (s : State) (v o k : Nat) : (vaultUe s v o k).pending = s.pending := by simp [vaultUe]
@[simp] theorem vaultUe_free (s : State) (v o k : Nat) : (vaultUe s v o k).free = s.free := by simp [vaultUe]
@[simp] theorem vaultUe_boot (s : State) (v o k : Nat) : (vaultUe s v o k).boot = s.boot := by simp [vaultUe]
@[simp] theorem vaultUe_flash (s : State) (v o k : Nat) : (vaultUe s v o k).flash = s.flash := by simp [vaultUe]
@[simp] theorem vaultUe_fault (s : State) (v o k : Nat) : (vaultUe s v o k).fault = s.fault := by simp [vaultUe]
@[simp] theorem vaultUe_job (s : State) (v o k : Nat) : (vaultUe s v o k).job = s.job := by simp [vaultUe]
@[simp] theorem vaultUe_cores (s : State) (v o k : Nat) : (vaultUe s v o k).cores = s.cores := by simp [vaultUe]
@[simp] theorem vaultUe_vaults (s : State) (v o k : Nat) : (vaultUe s v o k).vaults = s.vaults := by simp [vaultUe]
@[simp] theorem vaultUe_rings (s : State) (v o k : Nat) : (vaultUe s v o k).rings = s.rings := by simp [vaultUe]
@[simp] theorem vaultUe_pages (s : State) (v o k : Nat) : (vaultUe s v o k).pages = s.pages := by simp [vaultUe]
@[simp] theorem vaultUe_guard (s : State) (v o k : Nat) : (vaultUe s v o k).guard = s.guard := by simp [vaultUe]
@[simp] theorem vaultUe_pails (s : State) (v o k : Nat) : (vaultUe s v o k).pails = s.pails := by simp [vaultUe]
@[simp] theorem vaultUe_wq (s : State) (v o k : Nat) : (vaultUe s v o k).wq = s.wq := by simp [vaultUe]
@[simp] theorem vaultUe_links (s : State) (v o k : Nat) : (vaultUe s v o k).links = s.links := by simp [vaultUe]
@[simp] theorem vaultUe_stoby (s : State) (v o k : Nat) : (vaultUe s v o k).stoby = s.stoby := by simp [vaultUe]
@[simp] theorem vaultUe_time (s : State) (v o k : Nat) : (vaultUe s v o k).time = s.time := by simp [vaultUe]
@[simp] theorem vaultUe_host (s : State) (v o k : Nat) : (vaultUe s v o k).host = s.host := by simp [vaultUe]
@[simp] theorem vaultUe_board (s : State) (v o k : Nat) : (vaultUe s v o k).board = s.board := by simp [vaultUe]
@[simp] theorem vaultUe_power (s : State) (v o k : Nat) : (vaultUe s v o k).power = s.power := by simp [vaultUe]
@[simp] theorem vaultUe_doms (s : State) (v o k : Nat) : (vaultUe s v o k).doms = s.doms := by simp [vaultUe]
@[simp] theorem vaultUe_thermal (s : State) (v o k : Nat) : (vaultUe s v o k).thermal = s.thermal := by simp [vaultUe]
@[simp] theorem vaultUe_wear (s : State) (v o k : Nat) : (vaultUe s v o k).wear = s.wear := by simp [vaultUe]
@[simp] theorem vaultUe_pmc (s : State) (v o k : Nat) : (vaultUe s v o k).pmc = s.pmc := by simp [vaultUe]

/-! ### `sendPacket` -/

@[simp] theorem sendPacket_pending (s : State) (n : Nat) (p : Packet) : (sendPacket s n p).pending = s.pending := (rfl)
@[simp] theorem sendPacket_free (s : State) (n : Nat) (p : Packet) : (sendPacket s n p).free = s.free := (rfl)
@[simp] theorem sendPacket_mem (s : State) (n : Nat) (p : Packet) : (sendPacket s n p).mem = s.mem := (rfl)
@[simp] theorem sendPacket_marks (s : State) (n : Nat) (p : Packet) : (sendPacket s n p).marks = s.marks := (rfl)
@[simp] theorem sendPacket_regs (s : State) (n : Nat) (p : Packet) : (sendPacket s n p).regs = s.regs := (rfl)
@[simp] theorem sendPacket_boot (s : State) (n : Nat) (p : Packet) : (sendPacket s n p).boot = s.boot := (rfl)
@[simp] theorem sendPacket_flash (s : State) (n : Nat) (p : Packet) : (sendPacket s n p).flash = s.flash := (rfl)
@[simp] theorem sendPacket_fault (s : State) (n : Nat) (p : Packet) : (sendPacket s n p).fault = s.fault := (rfl)
@[simp] theorem sendPacket_job (s : State) (n : Nat) (p : Packet) : (sendPacket s n p).job = s.job := (rfl)
@[simp] theorem sendPacket_cores (s : State) (n : Nat) (p : Packet) : (sendPacket s n p).cores = s.cores := (rfl)
@[simp] theorem sendPacket_vaults (s : State) (n : Nat) (p : Packet) : (sendPacket s n p).vaults = s.vaults := (rfl)
@[simp] theorem sendPacket_pages (s : State) (n : Nat) (p : Packet) : (sendPacket s n p).pages = s.pages := (rfl)
@[simp] theorem sendPacket_guard (s : State) (n : Nat) (p : Packet) : (sendPacket s n p).guard = s.guard := (rfl)
@[simp] theorem sendPacket_pails (s : State) (n : Nat) (p : Packet) : (sendPacket s n p).pails = s.pails := (rfl)
@[simp] theorem sendPacket_wq (s : State) (n : Nat) (p : Packet) : (sendPacket s n p).wq = s.wq := (rfl)
@[simp] theorem sendPacket_links (s : State) (n : Nat) (p : Packet) : (sendPacket s n p).links = s.links := (rfl)
@[simp] theorem sendPacket_stoby (s : State) (n : Nat) (p : Packet) : (sendPacket s n p).stoby = s.stoby := (rfl)
@[simp] theorem sendPacket_time (s : State) (n : Nat) (p : Packet) : (sendPacket s n p).time = s.time := (rfl)
@[simp] theorem sendPacket_host (s : State) (n : Nat) (p : Packet) : (sendPacket s n p).host = s.host := (rfl)
@[simp] theorem sendPacket_board (s : State) (n : Nat) (p : Packet) : (sendPacket s n p).board = s.board := (rfl)
@[simp] theorem sendPacket_power (s : State) (n : Nat) (p : Packet) : (sendPacket s n p).power = s.power := (rfl)
@[simp] theorem sendPacket_doms (s : State) (n : Nat) (p : Packet) : (sendPacket s n p).doms = s.doms := (rfl)
@[simp] theorem sendPacket_thermal (s : State) (n : Nat) (p : Packet) : (sendPacket s n p).thermal = s.thermal := (rfl)
@[simp] theorem sendPacket_wear (s : State) (n : Nat) (p : Packet) : (sendPacket s n p).wear = s.wear := (rfl)
@[simp] theorem sendPacket_pmc (s : State) (n : Nat) (p : Packet) : (sendPacket s n p).pmc = s.pmc := (rfl)

/-! ### `closeTxn` -/

@[simp] theorem closeTxn_pending (s : State) (t : Nat) : (closeTxn s t).pending = s.pending := (rfl)
@[simp] theorem closeTxn_free (s : State) (t : Nat) : (closeTxn s t).free = s.free := (rfl)
@[simp] theorem closeTxn_mem (s : State) (t : Nat) : (closeTxn s t).mem = s.mem := (rfl)
@[simp] theorem closeTxn_marks (s : State) (t : Nat) : (closeTxn s t).marks = s.marks := (rfl)
@[simp] theorem closeTxn_regs (s : State) (t : Nat) : (closeTxn s t).regs = s.regs := (rfl)
@[simp] theorem closeTxn_boot (s : State) (t : Nat) : (closeTxn s t).boot = s.boot := (rfl)
@[simp] theorem closeTxn_flash (s : State) (t : Nat) : (closeTxn s t).flash = s.flash := (rfl)
@[simp] theorem closeTxn_fault (s : State) (t : Nat) : (closeTxn s t).fault = s.fault := (rfl)
@[simp] theorem closeTxn_job (s : State) (t : Nat) : (closeTxn s t).job = s.job := (rfl)
@[simp] theorem closeTxn_cores (s : State) (t : Nat) : (closeTxn s t).cores = s.cores := (rfl)
@[simp] theorem closeTxn_vaults (s : State) (t : Nat) : (closeTxn s t).vaults = s.vaults := (rfl)
@[simp] theorem closeTxn_pages (s : State) (t : Nat) : (closeTxn s t).pages = s.pages := (rfl)
@[simp] theorem closeTxn_guard (s : State) (t : Nat) : (closeTxn s t).guard = s.guard := (rfl)
@[simp] theorem closeTxn_pails (s : State) (t : Nat) : (closeTxn s t).pails = s.pails := (rfl)
@[simp] theorem closeTxn_wq (s : State) (t : Nat) : (closeTxn s t).wq = s.wq := (rfl)
@[simp] theorem closeTxn_links (s : State) (t : Nat) : (closeTxn s t).links = s.links := (rfl)
@[simp] theorem closeTxn_stoby (s : State) (t : Nat) : (closeTxn s t).stoby = s.stoby := (rfl)
@[simp] theorem closeTxn_time (s : State) (t : Nat) : (closeTxn s t).time = s.time := (rfl)
@[simp] theorem closeTxn_host (s : State) (t : Nat) : (closeTxn s t).host = s.host := (rfl)
@[simp] theorem closeTxn_board (s : State) (t : Nat) : (closeTxn s t).board = s.board := (rfl)
@[simp] theorem closeTxn_power (s : State) (t : Nat) : (closeTxn s t).power = s.power := (rfl)
@[simp] theorem closeTxn_doms (s : State) (t : Nat) : (closeTxn s t).doms = s.doms := (rfl)
@[simp] theorem closeTxn_thermal (s : State) (t : Nat) : (closeTxn s t).thermal = s.thermal := (rfl)
@[simp] theorem closeTxn_wear (s : State) (t : Nat) : (closeTxn s t).wear = s.wear := (rfl)
@[simp] theorem closeTxn_pmc (s : State) (t : Nat) : (closeTxn s t).pmc = s.pmc := (rfl)

/-! ### `remoteWrite` -/

@[simp] theorem remoteWrite_pending (s : State) (p a : Nat) (bs : List Byte) : (remoteWrite s p a bs).pending = s.pending := by simp [remoteWrite]
@[simp] theorem remoteWrite_mem (s : State) (p a : Nat) (bs : List Byte) : (remoteWrite s p a bs).mem = s.mem := by simp [remoteWrite]
@[simp] theorem remoteWrite_marks (s : State) (p a : Nat) (bs : List Byte) : (remoteWrite s p a bs).marks = s.marks := by simp [remoteWrite]
@[simp] theorem remoteWrite_regs (s : State) (p a : Nat) (bs : List Byte) : (remoteWrite s p a bs).regs = s.regs := by simp [remoteWrite]
@[simp] theorem remoteWrite_boot (s : State) (p a : Nat) (bs : List Byte) : (remoteWrite s p a bs).boot = s.boot := by simp [remoteWrite]
@[simp] theorem remoteWrite_flash (s : State) (p a : Nat) (bs : List Byte) : (remoteWrite s p a bs).flash = s.flash := by simp [remoteWrite]
@[simp] theorem remoteWrite_fault (s : State) (p a : Nat) (bs : List Byte) : (remoteWrite s p a bs).fault = s.fault := by simp [remoteWrite]
@[simp] theorem remoteWrite_job (s : State) (p a : Nat) (bs : List Byte) : (remoteWrite s p a bs).job = s.job := by simp [remoteWrite]
@[simp] theorem remoteWrite_cores (s : State) (p a : Nat) (bs : List Byte) : (remoteWrite s p a bs).cores = s.cores := by simp [remoteWrite]
@[simp] theorem remoteWrite_vaults (s : State) (p a : Nat) (bs : List Byte) : (remoteWrite s p a bs).vaults = s.vaults := by simp [remoteWrite]
@[simp] theorem remoteWrite_pages (s : State) (p a : Nat) (bs : List Byte) : (remoteWrite s p a bs).pages = s.pages := by simp [remoteWrite]
@[simp] theorem remoteWrite_guard (s : State) (p a : Nat) (bs : List Byte) : (remoteWrite s p a bs).guard = s.guard := by simp [remoteWrite]
@[simp] theorem remoteWrite_pails (s : State) (p a : Nat) (bs : List Byte) : (remoteWrite s p a bs).pails = s.pails := by simp [remoteWrite]
@[simp] theorem remoteWrite_wq (s : State) (p a : Nat) (bs : List Byte) : (remoteWrite s p a bs).wq = s.wq := by simp [remoteWrite]
@[simp] theorem remoteWrite_links (s : State) (p a : Nat) (bs : List Byte) : (remoteWrite s p a bs).links = s.links := by simp [remoteWrite]
@[simp] theorem remoteWrite_stoby (s : State) (p a : Nat) (bs : List Byte) : (remoteWrite s p a bs).stoby = s.stoby := by simp [remoteWrite]
@[simp] theorem remoteWrite_time (s : State) (p a : Nat) (bs : List Byte) : (remoteWrite s p a bs).time = s.time := by simp [remoteWrite]
@[simp] theorem remoteWrite_host (s : State) (p a : Nat) (bs : List Byte) : (remoteWrite s p a bs).host = s.host := by simp [remoteWrite]
@[simp] theorem remoteWrite_board (s : State) (p a : Nat) (bs : List Byte) : (remoteWrite s p a bs).board = s.board := by simp [remoteWrite]
@[simp] theorem remoteWrite_power (s : State) (p a : Nat) (bs : List Byte) : (remoteWrite s p a bs).power = s.power := by simp [remoteWrite]
@[simp] theorem remoteWrite_doms (s : State) (p a : Nat) (bs : List Byte) : (remoteWrite s p a bs).doms = s.doms := by simp [remoteWrite]
@[simp] theorem remoteWrite_thermal (s : State) (p a : Nat) (bs : List Byte) : (remoteWrite s p a bs).thermal = s.thermal := by simp [remoteWrite]
@[simp] theorem remoteWrite_wear (s : State) (p a : Nat) (bs : List Byte) : (remoteWrite s p a bs).wear = s.wear := by simp [remoteWrite]
@[simp] theorem remoteWrite_pmc (s : State) (p a : Nat) (bs : List Byte) : (remoteWrite s p a bs).pmc = s.pmc := by simp [remoteWrite]

/-! ### `setPage` -/

@[simp] theorem setPage_pending (s : State) (p : Nat) (x : PailPage) : (setPage s p x).pending = s.pending := (rfl)
@[simp] theorem setPage_free (s : State) (p : Nat) (x : PailPage) : (setPage s p x).free = s.free := (rfl)
@[simp] theorem setPage_mem (s : State) (p : Nat) (x : PailPage) : (setPage s p x).mem = s.mem := (rfl)
@[simp] theorem setPage_marks (s : State) (p : Nat) (x : PailPage) : (setPage s p x).marks = s.marks := (rfl)
@[simp] theorem setPage_regs (s : State) (p : Nat) (x : PailPage) : (setPage s p x).regs = s.regs := (rfl)
@[simp] theorem setPage_boot (s : State) (p : Nat) (x : PailPage) : (setPage s p x).boot = s.boot := (rfl)
@[simp] theorem setPage_flash (s : State) (p : Nat) (x : PailPage) : (setPage s p x).flash = s.flash := (rfl)
@[simp] theorem setPage_fault (s : State) (p : Nat) (x : PailPage) : (setPage s p x).fault = s.fault := (rfl)
@[simp] theorem setPage_job (s : State) (p : Nat) (x : PailPage) : (setPage s p x).job = s.job := (rfl)
@[simp] theorem setPage_cores (s : State) (p : Nat) (x : PailPage) : (setPage s p x).cores = s.cores := (rfl)
@[simp] theorem setPage_vaults (s : State) (p : Nat) (x : PailPage) : (setPage s p x).vaults = s.vaults := (rfl)
@[simp] theorem setPage_rings (s : State) (p : Nat) (x : PailPage) : (setPage s p x).rings = s.rings := (rfl)
@[simp] theorem setPage_pages (s : State) (p : Nat) (x : PailPage) : (setPage s p x).pages = s.pages := (rfl)
@[simp] theorem setPage_guard (s : State) (p : Nat) (x : PailPage) : (setPage s p x).guard = s.guard := (rfl)
@[simp] theorem setPage_wq (s : State) (p : Nat) (x : PailPage) : (setPage s p x).wq = s.wq := (rfl)
@[simp] theorem setPage_links (s : State) (p : Nat) (x : PailPage) : (setPage s p x).links = s.links := (rfl)
@[simp] theorem setPage_stoby (s : State) (p : Nat) (x : PailPage) : (setPage s p x).stoby = s.stoby := (rfl)
@[simp] theorem setPage_time (s : State) (p : Nat) (x : PailPage) : (setPage s p x).time = s.time := (rfl)
@[simp] theorem setPage_host (s : State) (p : Nat) (x : PailPage) : (setPage s p x).host = s.host := (rfl)
@[simp] theorem setPage_board (s : State) (p : Nat) (x : PailPage) : (setPage s p x).board = s.board := (rfl)
@[simp] theorem setPage_power (s : State) (p : Nat) (x : PailPage) : (setPage s p x).power = s.power := (rfl)
@[simp] theorem setPage_doms (s : State) (p : Nat) (x : PailPage) : (setPage s p x).doms = s.doms := (rfl)
@[simp] theorem setPage_thermal (s : State) (p : Nat) (x : PailPage) : (setPage s p x).thermal = s.thermal := (rfl)
@[simp] theorem setPage_wear (s : State) (p : Nat) (x : PailPage) : (setPage s p x).wear = s.wear := (rfl)
@[simp] theorem setPage_pmc (s : State) (p : Nat) (x : PailPage) : (setPage s p x).pmc = s.pmc := (rfl)

/-! ### `answer` -/

@[simp] theorem answer_pending (s : State) (r : PailReq) (k : Nat) (bs : List Byte) : (answer s r k bs).pending = s.pending := by unfold answer; (try dsimp only); (repeat' split) <;> simp
@[simp] theorem answer_free (s : State) (r : PailReq) (k : Nat) (bs : List Byte) : (answer s r k bs).free = s.free := by unfold answer; (try dsimp only); (repeat' split) <;> simp
@[simp] theorem answer_mem (s : State) (r : PailReq) (k : Nat) (bs : List Byte) : (answer s r k bs).mem = s.mem := by unfold answer; (try dsimp only); (repeat' split) <;> simp
@[simp] theorem answer_marks (s : State) (r : PailReq) (k : Nat) (bs : List Byte) : (answer s r k bs).marks = s.marks := by unfold answer; (try dsimp only); (repeat' split) <;> simp
@[simp] theorem answer_boot (s : State) (r : PailReq) (k : Nat) (bs : List Byte) : (answer s r k bs).boot = s.boot := by unfold answer; (try dsimp only); (repeat' split) <;> simp
@[simp] theorem answer_flash (s : State) (r : PailReq) (k : Nat) (bs : List Byte) : (answer s r k bs).flash = s.flash := by unfold answer; (try dsimp only); (repeat' split) <;> simp
@[simp] theorem answer_fault (s : State) (r : PailReq) (k : Nat) (bs : List Byte) : (answer s r k bs).fault = s.fault := by unfold answer; (try dsimp only); (repeat' split) <;> simp
@[simp] theorem answer_job (s : State) (r : PailReq) (k : Nat) (bs : List Byte) : (answer s r k bs).job = s.job := by unfold answer; (try dsimp only); (repeat' split) <;> simp
@[simp] theorem answer_cores (s : State) (r : PailReq) (k : Nat) (bs : List Byte) : (answer s r k bs).cores = s.cores := by unfold answer; (try dsimp only); (repeat' split) <;> simp
@[simp] theorem answer_vaults (s : State) (r : PailReq) (k : Nat) (bs : List Byte) : (answer s r k bs).vaults = s.vaults := by unfold answer; (try dsimp only); (repeat' split) <;> simp
@[simp] theorem answer_rings (s : State) (r : PailReq) (k : Nat) (bs : List Byte) : (answer s r k bs).rings = s.rings := by unfold answer; (try dsimp only); (repeat' split) <;> simp
@[simp] theorem answer_pages (s : State) (r : PailReq) (k : Nat) (bs : List Byte) : (answer s r k bs).pages = s.pages := by unfold answer; (try dsimp only); (repeat' split) <;> simp
@[simp] theorem answer_guard (s : State) (r : PailReq) (k : Nat) (bs : List Byte) : (answer s r k bs).guard = s.guard := by unfold answer; (try dsimp only); (repeat' split) <;> simp
@[simp] theorem answer_wq (s : State) (r : PailReq) (k : Nat) (bs : List Byte) : (answer s r k bs).wq = s.wq := by unfold answer; (try dsimp only); (repeat' split) <;> simp
@[simp] theorem answer_links (s : State) (r : PailReq) (k : Nat) (bs : List Byte) : (answer s r k bs).links = s.links := by unfold answer; (try dsimp only); (repeat' split) <;> simp
@[simp] theorem answer_stoby (s : State) (r : PailReq) (k : Nat) (bs : List Byte) : (answer s r k bs).stoby = s.stoby := by unfold answer; (try dsimp only); (repeat' split) <;> simp
@[simp] theorem answer_time (s : State) (r : PailReq) (k : Nat) (bs : List Byte) : (answer s r k bs).time = s.time := by unfold answer; (try dsimp only); (repeat' split) <;> simp
@[simp] theorem answer_board (s : State) (r : PailReq) (k : Nat) (bs : List Byte) : (answer s r k bs).board = s.board := by unfold answer; (try dsimp only); (repeat' split) <;> simp
@[simp] theorem answer_power (s : State) (r : PailReq) (k : Nat) (bs : List Byte) : (answer s r k bs).power = s.power := by unfold answer; (try dsimp only); (repeat' split) <;> simp
@[simp] theorem answer_doms (s : State) (r : PailReq) (k : Nat) (bs : List Byte) : (answer s r k bs).doms = s.doms := by unfold answer; (try dsimp only); (repeat' split) <;> simp
@[simp] theorem answer_thermal (s : State) (r : PailReq) (k : Nat) (bs : List Byte) : (answer s r k bs).thermal = s.thermal := by unfold answer; (try dsimp only); (repeat' split) <;> simp
@[simp] theorem answer_wear (s : State) (r : PailReq) (k : Nat) (bs : List Byte) : (answer s r k bs).wear = s.wear := by unfold answer; (try dsimp only); (repeat' split) <;> simp
@[simp] theorem answer_pmc (s : State) (r : PailReq) (k : Nat) (bs : List Byte) : (answer s r k bs).pmc = s.pmc := by unfold answer; (try dsimp only); (repeat' split) <;> simp

end Sys2Proof.Machine
end

