-- ==== Sys2Proof/Laws/Memory.lean ====
section
/-! SUPPORT. Memory: what a read gives after a store or an erasure, and that every operation on memory keeps its
keys strictly rising (R18, R62, R204, R206). -/

namespace Sys2Proof.Machine

/-! ### Lookups in a part of a table -/

theorem FMap.find_filter_key {α : Type} (m : FMap α) (p : Nat → Bool) (a : Nat) :
    FMap.find (m.filter fun e => p e.1) a = if p a then FMap.find m a else none := by
  induction m with
  | nil => simp
  | cons e m ih =>
    obtain ⟨k, v⟩ := e
    by_cases hk : a = k
    · subst hk
      by_cases hp : p a = true
      · simp [FMap.find, hp]
      · simp only [List.filter_cons, hp]; simpa [hp] using ih
    · by_cases hp : p k = true
      · simp only [List.filter_cons, hp, if_true, FMap.find, hk, if_false, ih]
      · simp only [List.filter_cons, hp, FMap.find, hk, if_false]; exact ih

/-! ### Stores and erasures -/

/-- A store changes the bytes it stores and no other. -/
theorem find_storeBytes (bs : List Byte) (m : List Host.Cell) (k a : Nat) :
    FMap.find (storeBytes m k bs) a = if k ≤ a ∧ a < k + bs.length then bs[a - k]? else FMap.find m a := by
  induction bs generalizing m k with
  | nil => rw [storeBytes, if_neg]; simp only [List.length_nil]; omega
  | cons b bs ih =>
    rw [storeBytes, ih, List.length_cons]
    by_cases h : a = k
    · subst h
      rw [if_neg (by omega), if_pos (by omega), Nat.sub_self, FMap.find_set_same]; rfl
    · by_cases h2 : k + 1 ≤ a ∧ a < k + 1 + bs.length
      · rw [if_pos h2, if_pos (by omega)]
        obtain ⟨j, rfl⟩ : ∃ j, a = k + 1 + j := ⟨a - (k + 1), by omega⟩
        rw [show k + 1 + j - (k + 1) = j by omega, show k + 1 + j - k = j + 1 by omega, List.getElem?_cons_succ]
      · rw [if_neg h2, if_neg (by omega), FMap.find_set_ne _ _ h]

theorem find_storeBytes_out (bs : List Byte) (m : List Host.Cell) {k a : Nat} (h : a < k ∨ k + bs.length ≤ a) :
    FMap.find (storeBytes m k bs) a = FMap.find m a := by
  rw [find_storeBytes, if_neg (by omega)]

/-- An erasure removes the bytes of its range and no other. -/
theorem find_eraseBytes (m : List Host.Cell) (k n a : Nat) :
    FMap.find (eraseBytes m k n) a = if k ≤ a ∧ a < k + n then none else FMap.find m a := by
  have := FMap.find_filter_key m (fun x => !(decide (k ≤ x) && decide (x < k + n))) a
  rw [eraseBytes, this]
  by_cases h : k ≤ a ∧ a < k + n
  · simp [h]
  · rw [if_neg h, if_pos]; simp only [Bool.not_eq_true', Bool.and_eq_false_iff, decide_eq_false_iff_not]; omega

/-! ### The canonical form -/

theorem wf_storeBytes (bs : List Byte) (m : List Host.Cell) (k : Nat) (h : FMap.wf m = true) :
    FMap.wf (storeBytes m k bs) = true := by
  induction bs generalizing m k with
  | nil => exact h
  | cons b bs ih => exact ih _ _ (FMap.wf_set m k b h)

theorem wf_eraseBytes (m : List Host.Cell) (k n : Nat) (h : FMap.wf m = true) : FMap.wf (eraseBytes m k n) = true :=
  FMap.wf_filter m _ h

theorem wf_writeMem (s : State) (g k : Nat) (bs : List Byte) (h : FMap.wf s.mem = true) :
    FMap.wf (writeMem s g k bs).mem = true := by
  unfold writeMem
  dsimp only
  split
  · exact h
  · apply wf_storeBytes
    split
    · split
      · exact h
      · exact wf_eraseBytes _ _ _ h
    · apply wf_eraseBytes
      split
      · exact h
      · exact wf_eraseBytes _ _ _ h

theorem wf_checkSramWord (s : State) (c off src : Nat) (h : FMap.wf s.mem = true) :
    FMap.wf (checkSramWord s c off src).2.mem = true := by
  unfold checkSramWord
  split
  · exact h
  · rw [sramCe_mem]; exact h
  · rw [event_mem]; exact wf_eraseBytes _ _ _ h

/-- The store of an array's or a vector unit's output, with the checks of the words it merges into. -/
theorem wf_coreStore (s : State) (c off : Nat) (bs : List Byte) (h : FMap.wf s.mem = true) :
    FMap.wf (coreStore s c off bs).mem = true := by
  refine wf_storeBytes _ _ _ ?_
  generalize (wordsOf 16 off bs.length).filter _ = l
  induction l generalizing s with
  | nil => exact h
  | cons w l ih =>
    rw [List.foldl_cons]
    refine ih _ ?_
    dsimp only
    split
    · rw [detectUe_mem]; exact wf_checkSramWord s c w 0 h
    · exact wf_checkSramWord s c w 0 h

theorem wf_undefMem (s : State) (g k n : Nat) (h : FMap.wf s.mem = true) : FMap.wf (undefMem s g k n).mem = true :=
  wf_eraseBytes _ _ _ h

theorem wf_hostWrite (s : State) (bus : Nat) (bs : List Byte) (h : FMap.wf s.mem = true) :
    FMap.wf (hostWrite s bus bs).mem = true := by
  unfold hostWrite
  split
  · exact wf_storeBytes _ _ _ h
  · rw [count_mem]; exact h

/-! ### Whole code words -/

/-- A write that covers whole code words stores its bytes and changes no other. -/
theorem find_writeMem_whole (s : State) (g k : Nat) (bs : List Byte) (a : Nat) (hg : 0 < g) (hk : k % g = 0)
    (hn : bs.length % g = 0) :
    FMap.find (writeMem s g k bs).mem a
      = if k ≤ a ∧ a < k + bs.length then bs[a - k]? else FMap.find s.mem a := by
  have hkn : (k + bs.length) % g = 0 := by rw [Nat.add_mod, hk, hn]; simp
  unfold writeMem
  by_cases h0 : bs.length = 0
  · simp only [h0, if_true]; rw [if_neg (by omega)]
  · have hlo : (k + g - 1) / g * g = k := by
      obtain ⟨q, rfl⟩ := Nat.dvd_of_mod_eq_zero hk
      rw [show g * q + g - 1 = g - 1 + g * q by omega, Nat.add_mul_div_left _ _ hg,
        Nat.div_eq_of_lt (by omega), Nat.zero_add, Nat.mul_comm]
    have hhi : (k + bs.length) / g * g = k + bs.length := Nat.div_mul_cancel (Nat.dvd_of_mod_eq_zero hkn)
    simp only [h0, if_false, hk, hkn, if_true, hlo, hhi, Nat.sub_self, List.drop_zero]
    rw [show k + bs.length - k = bs.length by omega, List.take_length, find_storeBytes]

end Sys2Proof.Machine
end

