-- ==== Sys2Proof/Laws/Outcomes.lean ====
section
/-! SUPPORT. Everything that the shapes of a meaning can answer: the effect when the command happens, the state as it
was when it does not, and the fault of an undefined case. -/

namespace Sys2Proof.Machine

/-! ### Commands that always have a next state -/

theorem act_pos {s t : State} {c : Bool} (hp : powered s = true) (hc : c = true) : act s c t = .next t := by
  unfold act; rw [hp, hc]; rfl

theorem act_neg {s t : State} {c : Bool} (hc : c = false) : act s c t = .next s := by
  unfold act; rw [hc, Bool.and_false]; rfl

theorem act_off {s t : State} {c : Bool} (hp : powered s = false) : act s c t = .next s := by
  unfold act; rw [hp]; rfl

theorem act_cases {s t u : State} {c : Bool} (h : act s c t = .next u) :
    (powered s = true ∧ c = true ∧ u = t) ∨ ((powered s = false ∨ c = false) ∧ u = s) := by
  cases hp : powered s with
  | false => rw [act_off hp] at h; cases h; exact .inr ⟨.inl rfl, rfl⟩
  | true =>
    cases c with
    | false => rw [act_neg rfl] at h; cases h; exact .inr ⟨.inr rfl, rfl⟩
    | true => rw [act_pos hp rfl] at h; cases h; exact .inl ⟨rfl, rfl, rfl⟩

/-! ### Effects that may meet an undefined case -/

theorem toOut_ok {s t : State} : toOut s (.ok t) = .next t := rfl

theorem toOut_wait {s : State} : toOut s (.error .wait) = .next s := rfl

/-- A next state is the effect's, or the state as it was where the command has to wait. -/
theorem toOut_next {s t : State} {e : Except Halt State} (h : toOut s e = .next t) :
    e = .ok t ∨ (e = .error .wait ∧ t = s) := by
  cases e with
  | ok u => cases h; exact .inl rfl
  | error f =>
    cases f with
    | undefinedCase n => cases h
    | wait => cases h; exact .inr ⟨rfl, rfl⟩

theorem toOut_fault {s : State} {e : Except Halt State} {f : Fault} (h : toOut s e = .fault f) :
    ∃ n, f = .undefinedCase n ∧ e = .error (.undefinedCase n) := by
  cases e with
  | ok u => cases h
  | error g =>
    cases g with
    | undefinedCase n => cases h; exact ⟨n, rfl, rfl⟩
    | wait => cases h

theorem toOut_not_refused {s : State} {e : Except Halt State} {r : Refusal} : toOut s e ≠ .refused r := by
  cases e with
  | ok u => intro h; cases h
  | error g => cases g <;> (intro h; cases h)

theorem actE_pos {s : State} {c : Bool} {e : Except Halt State} (hp : powered s = true) (hc : c = true) :
    actE s c e = toOut s e := by unfold actE; rw [hp, hc]; rfl

theorem actE_neg {s : State} {c : Bool} {e : Except Halt State} (hc : c = false) : actE s c e = .next s := by
  unfold actE; rw [hc, Bool.and_false]; rfl

theorem actE_off {s : State} {c : Bool} {e : Except Halt State} (hp : powered s = false) : actE s c e = .next s := by
  unfold actE; rw [hp]; rfl

theorem actE_cases {s u : State} {c : Bool} {e : Except Halt State} (h : actE s c e = .next u) :
    (powered s = true ∧ c = true ∧ e = .ok u)
      ∨ ((powered s = false ∨ c = false ∨ e = .error .wait) ∧ u = s) := by
  cases hp : powered s with
  | false => rw [actE_off hp] at h; cases h; exact .inr ⟨.inl rfl, rfl⟩
  | true =>
    cases c with
    | false => rw [actE_neg rfl] at h; cases h; exact .inr ⟨.inr (.inl rfl), rfl⟩
    | true =>
      rw [actE_pos hp rfl] at h
      rcases toOut_next h with he | ⟨he, hu⟩
      · exact .inl ⟨rfl, rfl, he⟩
      · exact .inr ⟨.inr (.inr he), hu⟩

theorem orUndef_pos {c : Bool} {n : Nat} {e : Except Halt State} (hc : c = true) : orUndef c n e = e := by
  unfold orUndef; rw [hc]; rfl

theorem orUndef_neg {c : Bool} {n : Nat} {e : Except Halt State} (hc : c = false) :
    orUndef c n e = .error (.undefinedCase n) := by unfold orUndef; rw [hc]; rfl

theorem orUndef_ok {c : Bool} {n : Nat} {e : Except Halt State} {t : State} (h : orUndef c n e = .ok t) :
    c = true ∧ e = .ok t := by
  cases c with
  | false => rw [orUndef_neg rfl] at h; cases h
  | true => rw [orUndef_pos rfl] at h; exact ⟨rfl, h⟩

/-! ### Pail commands -/

/-- Nothing happens at a pail that cannot be reached; an out-of-band pail with an unanswered command says BUSY; else the
command waits for its turn, or has its effect from the state in which its page holds it. -/
theorem pailOut_cases {s u : State} {r : PailReq} {i : Instr} {e : State → Except Halt State}
    (h : pailOut s r i e = .next u) :
    (pailReachable s r.pail = false ∧ u = s)
      ∨ (pailReachable s r.pail = true ∧ pailTaken s r.pail = true ∧ 64 ≤ r.pail ∧ u = answer s r stBusy [])
      ∨ (pailReachable s r.pail = true ∧ pailTaken s r.pail = false
          ∧ ((pailWaits (writePage s r i) i = true ∧ u = deferPail (writePage s r i) r i)
            ∨ (pailWaits (writePage s r i) i = false
                ∧ (e (writePage s r i) = .ok u ∨ (e (writePage s r i) = .error .wait ∧ u = s))))) := by
  unfold pailOut at h
  cases hr : pailReachable s r.pail with
  | false => rw [hr] at h; cases h; exact .inl ⟨rfl, rfl⟩
  | true =>
    cases ht : pailTaken s r.pail with
    | true =>
      rw [hr, ht] at h
      by_cases h64 : 64 ≤ r.pail
      · rw [if_pos h64] at h; cases h; exact .inr (.inl ⟨rfl, rfl, h64, rfl⟩)
      · rw [if_neg h64] at h; cases h
    | false =>
      rw [hr, ht] at h
      refine .inr (.inr ⟨rfl, rfl, ?_⟩)
      cases hw : pailWaits (writePage s r i) i with
      | true =>
        simp only [takeRing, hw] at h
        cases h; exact .inl ⟨rfl, rfl⟩
      | false =>
        simp only [takeRing, hw] at h
        exact .inr ⟨rfl, toOut_next h⟩

theorem pailIdle_parts {s : State} (h : pailIdle s = true) :
    s.pails.restarting = false ∧ s.pails.busy = none ∧ s.pails.deferred = [] := by
  simpa [pailIdle, and_assoc] using h

theorem pailTaken_idle {s : State} {p : Nat} (h : pailIdle s = true) : pailTaken s p = false := by
  obtain ⟨-, hb, hd⟩ := pailIdle_parts h
  simp [pailTaken, hb, hd]

theorem pailWaits_idle {s : State} {i : Instr} (h : pailIdle s = true) : pailWaits s i = false := by
  obtain ⟨hr, hb, hd⟩ := pailIdle_parts h
  simp [pailWaits, hr, hb, hd]

theorem pailIdle_writePage {s : State} {r : PailReq} {i : Instr} : pailIdle (writePage s r i) = pailIdle s := rfl

/-- A command that the firmware takes at once has its effect from the state in which its page holds it. -/
theorem pailOut_takes {s : State} {r : PailReq} {i : Instr} {e : State → Except Halt State} (h : Takes s r) :
    pailOut s r i e = toOut s (e (writePage s r i)) := by
  have hw : pailWaits (writePage s r i) i = false := pailWaits_idle (pailIdle_writePage.trans h.2.1)
  simp [pailOut, takeRing, h.1, pailTaken_idle h.2.1, hw]

theorem gated_pos {s : State} {r : PailReq} {k : PailKind → Bool} {l : List DevState} {e : Except Halt State}
    (hd : s.boot.dev ≠ .boot) (hk : k (pailKind s r.pail) = true) (hl : s.boot.dev ∈ l) : gated s r k l e = e := by
  unfold gated
  rw [if_neg hd, hk]
  simp [hl]

/-! ### Instructions of cores and micro-instructions of vaults -/

theorem tileOut_cases {s u : State} {c : Nat} {i : TileInstr} {e : Except Halt State} (h : tileOut s c i e = .next u) :
    (powered s = true ∧ atInstr s c i = .ok true ∧ e = .ok u)
      ∨ ((powered s = false ∨ atInstr s c i = .ok false ∨ atInstr s c i = .error .wait ∨ e = .error .wait) ∧ u = s) := by
  unfold tileOut at h
  cases hp : powered s with
  | false => rw [hp] at h; cases h; exact .inr ⟨.inl rfl, rfl⟩
  | true =>
    rw [hp] at h
    cases ha : atInstr s c i with
    | error f =>
      rw [ha] at h
      cases f with
      | undefinedCase n => cases h
      | wait => cases h; exact .inr ⟨.inr (.inr (.inl rfl)), rfl⟩
    | ok b =>
      rw [ha] at h
      cases b with
      | false => cases h; exact .inr ⟨.inr (.inl rfl), rfl⟩
      | true =>
        rcases toOut_next h with he | ⟨he, hu⟩
        · exact .inl ⟨rfl, rfl, he⟩
        · exact .inr ⟨.inr (.inr (.inr he)), hu⟩

theorem rowOut_cases {s u : State} {v : Nat} {i : RowInstr} {e : State → Except Halt State} (h : rowOut s v i e = .next u) :
    (powered s = true ∧ rowNext (vaultAt (startRow s v) v).row = .ok (some i) ∧ e (startRow s v) = .ok u) ∨ u = s := by
  unfold rowOut at h
  cases hp : powered s with
  | false => rw [hp] at h; cases h; exact .inr rfl
  | true =>
    rw [hp] at h
    dsimp only at h
    cases hn : rowNext (vaultAt (startRow s v) v).row with
    | error f =>
      rw [hn] at h
      cases f with
      | undefinedCase n => cases h
      | wait => cases h; exact .inr rfl
    | ok n =>
      rw [hn] at h
      by_cases hi : n = some i
      · simp only [hi, if_true] at h
        rcases toOut_next h with he | ⟨he, hu⟩
        · exact .inl ⟨rfl, by rw [hi], he⟩
        · exact .inr hu
      · simp only [hi, if_false] at h
        cases h; exact .inr rfl

/-! ### A step -/

theorem step_front (c : Instr) (s : State) : step { s with pending := c :: s.pending } = exec c s := rfl

theorem step_idle {s : State} (h : s.pending = []) : step s = .next (tick s) := by unfold step; rw [h]

end Sys2Proof.Machine
end

