-- ==== Sys2Proof/Laws/Regs.lean ====
section
/-! SUPPORT. Registers, their fields and counters: what a read gives after a write (R11, R419, R421). -/

namespace Sys2Proof.Machine

theorem regReset_lt (a : Nat) : regReset a < 2 ^ 64 := by
  unfold regReset
  split
  · exact Nat.mod_lt _ (by positivity)
  · positivity

theorem regGet_lt (s : State) (a : Nat) : regGet s a < 2 ^ 64 := by
  unfold regGet
  split
  · exact BitVec.isLt _
  · exact regReset_lt a

/-- A read depends on the list of registers alone. -/
theorem regGet_congr {s t : State} (h : t.regs = s.regs) (a : Nat) : regGet t a = regGet s a := by
  unfold regGet; rw [h]

theorem regFld_congr {s t : State} (h : t.regs = s.regs) (a hi lo : Nat) : regFld t a hi lo = regFld s a hi lo := by
  unfold regFld; rw [regGet_congr h]

@[simp] theorem regGet_regSet_same (s : State) (a v : Nat) : regGet (regSet s a v) a = v % 2 ^ 64 := by
  unfold regGet regSet
  by_cases h : v % 2 ^ 64 = regReset a
  · simp only [h, if_true]; rw [FMap.find_drop_same]
  · simp only [h, if_false]; rw [FMap.find_set_same]; exact BitVec.toNat_ofNat v 64

theorem regGet_regSet_ne (s : State) {a b : Nat} (v : Nat) (h : b ≠ a) : regGet (regSet s a v) b = regGet s b := by
  unfold regGet regSet
  by_cases hv : v % 2 ^ 64 = regReset a
  · simp only [hv, if_true]; rw [FMap.find_drop_ne _ h]
  · simp only [hv, if_false]; rw [FMap.find_set_ne _ _ h]

theorem regGet_regSetFld_same (s : State) (a hi lo v : Nat) (h : lo ≤ hi + 1) (hh : hi < 64) :
    regGet (regSetFld s a hi lo v) a = setBits (regGet s a) hi lo v := by
  unfold regSetFld
  rw [regGet_regSet_same, Nat.mod_eq_of_lt (setBits_lt _ _ _ _ _ h hh (regGet_lt s a))]

theorem regGet_regSetFld_ne (s : State) {a b : Nat} (hi lo v : Nat) (h : b ≠ a) :
    regGet (regSetFld s a hi lo v) b = regGet s b := regGet_regSet_ne s _ h

theorem regFld_regSetFld_same (s : State) (a hi lo v : Nat) (h : lo ≤ hi + 1) (hh : hi < 64) :
    regFld (regSetFld s a hi lo v) a hi lo = v % 2 ^ (hi + 1 - lo) := by
  unfold regFld
  rw [regGet_regSetFld_same s a hi lo v h hh, bits_setBits_same _ _ _ _ h]

theorem regFld_regSetFld_below (s : State) (a hi lo v hi' lo' : Nat) (h : lo ≤ hi + 1) (hh : hi < 64) (hd : hi' < lo) :
    regFld (regSetFld s a hi lo v) a hi' lo' = regFld s a hi' lo' := by
  unfold regFld
  rw [regGet_regSetFld_same s a hi lo v h hh, bits_setBits_below _ _ _ _ _ _ h hd]

theorem regFld_regSetFld_above (s : State) (a hi lo v hi' lo' : Nat) (h : lo ≤ hi + 1) (hh : hi < 64) (hd : hi < lo') :
    regFld (regSetFld s a hi lo v) a hi' lo' = regFld s a hi' lo' := by
  unfold regFld
  rw [regGet_regSetFld_same s a hi lo v h hh, bits_setBits_above _ _ _ _ _ _ h hd]

theorem regFld_regSetFld_ne (s : State) {a b : Nat} (hi lo v hi' lo' : Nat) (h : b ≠ a) :
    regFld (regSetFld s a hi lo v) b hi' lo' = regFld s b hi' lo' := by
  unfold regFld; rw [regGet_regSetFld_ne s hi lo v h]

theorem bit_regFlag_same (s : State) (a i : Nat) (b : Bool) (h : i < 64) : bit (regGet (regFlag s a i b) a) i = b := by
  have := regFld_regSetFld_same s a i i (b2n b) (by omega) h
  unfold regFld at this
  unfold regFlag
  rw [bit_eq_bits, this]
  cases b <;> simp [b2n]

theorem bit_regFlag_ne (s : State) (a i j : Nat) (b : Bool) (h : i < 64) (hj : j ≠ i) :
    bit (regGet (regFlag s a i b) a) j = bit (regGet s a) j := by
  unfold regFlag
  rw [bit_eq_bits, bit_eq_bits]
  rcases Nat.lt_or_gt_of_ne hj with hj | hj
  · have := regFld_regSetFld_below s a i i (b2n b) j j (by omega) h hj
    unfold regFld at this; rw [this]
  · have := regFld_regSetFld_above s a i i (b2n b) j j (by omega) h hj
    unfold regFld at this; rw [this]

theorem regGet_regFlag_ne (s : State) {a c : Nat} (i : Nat) (b : Bool) (h : c ≠ a) :
    regGet (regFlag s a i b) c = regGet s c := regGet_regSet_ne s _ h

/-! ### Counters -/

theorem counterAdd_lt (v n : Nat) : counterAdd v n < 2 ^ 64 := by
  unfold counterAdd
  dsimp only
  have : (v % 2 ^ 48 + n) % 2 ^ 48 < 2 ^ 48 := Nat.mod_lt _ (by positivity)
  split <;> omega

@[simp] theorem regGet_count_same (s : State) (a n : Nat) : regGet (count s a n) a = counterAdd (regGet s a) n := by
  unfold count
  rw [regGet_regSet_same, Nat.mod_eq_of_lt (counterAdd_lt _ _)]

theorem regGet_count_ne (s : State) {a b : Nat} (n : Nat) (h : b ≠ a) : regGet (count s a n) b = regGet s b :=
  regGet_regSet_ne s _ h

/-- COUNT advances modulo 2⁴⁸. -/
theorem counterAdd_count (v n : Nat) : bits (counterAdd v n) 47 0 = (bits v 47 0 + n) % 2 ^ 48 := by
  unfold counterAdd bits
  dsimp only
  split <;> omega

/-- A wrap sets OVF, and OVF stays set. -/
theorem counterAdd_ovf (v n : Nat) :
    bit (counterAdd v n) 48 = (decide (2 ^ 48 ≤ bits v 47 0 + n) || bit v 48) := by
  unfold counterAdd bits
  dsimp only
  have h1 : (v % 2 ^ 48 + n) % 2 ^ 48 < 2 ^ 48 := Nat.mod_lt _ (by positivity)
  by_cases h : (decide (v % 2 ^ 48 + n ≥ 2 ^ 48) || bit v 48) = true
  · simp only [h, if_true]
    have h2 : ((v % 2 ^ 48 + n) % 2 ^ 48 + 2 ^ 48) / 2 ^ 48 = 1 := by omega
    simp only [bit, h2]
    simpa [bit] using h.symm
  · simp only [h]
    have h2 : ((v % 2 ^ 48 + n) % 2 ^ 48 + 0) / 2 ^ 48 = 0 := by omega
    simp only [Bool.not_eq_true] at h
    simp [bit] at h ⊢
    constructor
    · omega
    · omega

theorem event_flag (s : State) (f i c : Nat) (hi : i < 64) (h : f ≠ c) : bit (regGet (event s f i c) f) i = true := by
  unfold event
  rw [regGet_count_ne _ _ h, bit_regFlag_same _ _ _ _ hi]

theorem event_count (s : State) (f i c : Nat) (h : c ≠ f) :
    regGet (event s f i c) c = counterAdd (regGet s c) 1 := by
  unfold event
  rw [regGet_count_same, regGet_regFlag_ne _ _ _ h]

theorem regGet_event_ne (s : State) {f c a : Nat} (i : Nat) (h1 : a ≠ f) (h2 : a ≠ c) :
    regGet (event s f i c) a = regGet s a := by
  unfold event
  rw [regGet_count_ne _ _ h2, regGet_regFlag_ne _ _ _ h1]

end Sys2Proof.Machine
end

