-- ==== Sys2Proof/Tests/Slice0.lean ====
section
/-! SUPPORT. Tests: for each statement, states and operands that meet its hypotheses; terms that well-formedness refuses; words written
out from the encoding tables; and single steps with results taken from the specification. -/

namespace Sys2Proof.Tests

open Sys2Proof Sys2Proof.Machine

set_option Elab.async false

/-! ### States that the tests share -/

/-- An effect ends without an undefined case, in a result that satisfies a test. -/
def okAnd {α : Type} (e : Except Halt α) (p : α → Bool) : Bool := match e with
  | .ok x => p x
  | .error _ => false

/-- The effect has an end. -/
def good {α : Type} (e : Except Halt α) : Bool := okAnd e fun _ => true

/-- The state at reset with power good, in a boot phase. -/
def booting (ph : BootPhase) : State :=
  { State.reset with boot := { State.reset.boot with pwrok := true, perst := false, pcieHeld := false, phase := ph } }

/-- A device that has booted, in a device state. -/
def up (d : DevState) : State :=
  { booting .done with boot := { (booting .done).boot with dev := d, katDone := true, linksReady := true } }

/-- The same with a job open. -/
def inJob : State := { up .job with job := { (up .job).job with isOpen := true, jobid := 1 } }

/-- A pail request on pail 0, and on a user pail. -/
def req : PailReq := ⟨0, 7, false, 0⟩
def userReq : PailReq := ⟨5, 7, true, 3⟩

/-- An address of the host window, which answers all ones while Bus Master Enable is 0. -/
def hostAddr : Nat := 0x40000000000

/-- The host lets the device master the bus, and serves its window from bus address 0. -/
def mastered (s : State) : State := { s with host := { s.host with busMaster := true } }

/-- A work queue on completion queue 2, with items. -/
def workQ (is : List Item) : Queue :=
  { Queue.reset with st := .active, cls := 1, cq := 2, created := true, items := is, tset := 3 }

/-- A completion queue in host memory. -/
def complQ : Queue := { Queue.reset with st := .active, completion := true, base := hostAddr, created := true }

/-- An item with a command, in a phase. -/
def item (c : WqCmd) (ph : ItemPhase) : Item :=
  { idx := 0, entries := 1, sens := false, ordered := false, intr := false, wfmt := 0, cmdid := 9, xbound := 0, cmd := c,
    phase := ph, status := 0, skip := false, mode := 0, attempt := 1, result := 0, inStep := false, after := none, slot := true,
    targets := [], waitCores := [], runCores := [], waitVaults := [], t0 := 0, outs := [], clean := true, seen := none, rows := none }

/-- A job whose work queue 1 and completion queue 2 exist. -/
def withQueue (q : Queue) : State :=
  { inJob with wq := { inJob.wq with queues := [(1, q), (2, { complQ with used := q.items.length })] } }

/-- A job whose queue 1 holds one item. -/
def withItem (c : WqCmd) (ph : ItemPhase) : State := withQueue { workQ [item c ph] with tail := 1, fetch := 1 }

/-! ### Hypotheses that can be met: resets and boot -/

/-- A time unit of a device that runs. -/
def withTime (f : Time → Time) : State := { up .ready with time := f (up .ready).time }

/-- The time unit slews, at the nanosecond in which a step of the slew falls. -/
def slews (left : Int) : State := withTime fun x => { x with slewing := true, slewTick := 4999, slewLeft := left }

theorem test_witness_IdleTick :
    State.reset.pending = [] ∧ powered State.reset = false
      ∧ (let s := withTime fun x => { x with dtime := 2 ^ 80 - 2 ^ 16 - 1 };
          s.pending = [] ∧ powered s = true ∧ s.time.asleep = none ∧ s.time.slewing = false ∧ s.time.servo = 0
          ∧ s.time.dtime + 2 ^ 16 < 2 ^ 80)
      ∧ (∀ d ∈ [(1 : Int), -1], let s := slews d;
          s.pending = [] ∧ powered s = true ∧ s.time.asleep = none ∧ s.time.slewing = true ∧ s.time.slewTick % 5000 = 4999)
      ∧ 0 < (slews 1).time.slewLeft ∧ (slews (-1)).time.slewLeft < 0
      ∧ (let s := withTime fun x => { x with asleep := some (5, 6, 7) };
          s.pending = [] ∧ powered s = true ∧ s.time.asleep = some (5, 6, 7)) := by decide +kernel

theorem test_witness_NothingWithoutPower :
    powered State.reset = false ∧ powered { up .job with boot := { (up .job).boot with tripped := true } } = false
      ∧ Instr.powerUpdate ≠ .pwrokFall ∧ ∀ st w, Instr.powerUpdate ≠ .pwrokRise ⟨st, w⟩ :=
  ⟨by decide +kernel, by decide +kernel, by decide, fun _ _ => by simp⟩

theorem test_witness_MemoryCanonicalStep :
    Memory.wf State.reset.mem = true ∧ (∃ t, step State.reset = .next t) := ⟨by decide +kernel, _, rfl⟩

/-- A test of bridge lane wires that one group fails. -/
def failedWires (n : Nat) : WireTest := ⟨7, true, 3, [0, n]⟩

theorem test_witness_PowerPins :
    State.reset.boot.pwrok = false ∧ (up .ready).boot.pwrok = true
      ∧ (∀ x ∈ [failedWires 2], ∀ n ∈ x.bad, n ≤ 2)
      ∧ (failedWires 3).sheaf < 8 ∧ (failedWires 3).ring < 4 ∧ ∃ n ∈ (failedWires 3).bad, 2 < n := by decide +kernel

theorem test_witness_ConventionalReset :
    (let s := up .job; powered s = true ∧ s.boot.perst = false ∧ s.boot.straps.testmode = false
        ∧ ∀ q ∈ workQueues s, ∀ i ∈ (queueAt s q).items, itemOwed i = false)
      ∧ (let s := { booting .rom with boot := { (booting .rom).boot with perst := true } };
          powered s = true ∧ s.boot.perst = true) := by decide +kernel

/-- The boot ROM runs, over two main images and a recovery image. -/
def rom (a b r : FlashImage) : State :=
  { booting .rom with flash := { (booting .rom).flash with imageA := a, imageB := b, recovery := r } }

/-- An image whose SVN lies above the largest, and one at the largest. -/
def badImage : FlashImage := { FlashImage.reset with svn := 65 }
def topImage : FlashImage := { FlashImage.reset with svn := 64 }

theorem test_witness_BootImages :
    (let s := rom topImage .reset .reset;
      powered s = true ∧ s.boot.phase = .rom ∧ s.flash.boardOk = true ∧ imageOk s (mainImage s s.flash.activeB) = true)
    ∧ (let s := rom badImage topImage .reset;
      powered s = true ∧ s.boot.phase = .rom ∧ s.flash.boardOk = true ∧ imageOk s (mainImage s s.flash.activeB) = false
        ∧ imageOk s (mainImage s (!s.flash.activeB)) = true)
    ∧ (let s := rom badImage badImage topImage;
      powered s = true ∧ s.boot.phase = .rom ∧ imageOk s (mainImage s false) = false ∧ imageOk s (mainImage s true) = false
        ∧ imageOk s s.flash.recovery = true)
    ∧ (let s := rom badImage badImage badImage;
      powered s = true ∧ s.boot.phase = .rom ∧ imageOk s (mainImage s false) = false ∧ imageOk s (mainImage s true) = false
        ∧ imageOk s s.flash.recovery = false)
    ∧ (let s := booting .firmware;
      powered s = true ∧ s.boot.phase = .firmware ∧ s.boot.image ≠ 2 ∧ s.flash.boardOk = true ∧ s.boot.fallback = false
        ∧ imageOk s (mainImage s (!s.flash.activeB)) = true)
    ∧ (let s := { booting .trained with boot := { (booting .trained).boot with fallback := true } };
      powered s = true ∧ s.boot.phase = .trained ∧ s.boot.image ≠ 2 ∧ s.flash.boardOk = true ∧ s.boot.fallback = true
        ∧ imageOk s s.flash.recovery = true)
    ∧ (let s := { booting .rom with flash := { (booting .rom).flash with boardOk := false } };
      powered s = true ∧ s.boot.phase = .rom ∧ s.flash.boardOk = false ∧ imageOk s (mainImage s s.flash.activeB) = true) := by
  decide +kernel

theorem test_witness_BootToReady :
    (let s := booting .firmware; powered s = true ∧ s.boot.phase = .firmware ∧ vaultInService s 1023 = true)
    ∧ (let s := booting .trained; powered s = true ∧ s.boot.phase = .trained)
    ∧ (let s := booting .configReady;
      powered s = true ∧ s.boot.phase = .configReady ∧ s.boot.katDone = false ∧ coreEnabled s 1023 = true)
    ∧ (let s := { booting .configReady with boot := { (booting .configReady).boot with katDone := true, linksReady := true } };
      powered s = true ∧ s.boot.phase = .configReady ∧ s.boot.katDone = true ∧ s.boot.linksReady = true) := by decide +kernel

theorem test_witness_HostResetAndWatchdog :
    (let s := up .ready;
      powered s = true ∧ s.boot.pcieHeld = false ∧ s.boot.dev ≠ .job ∧ s.boot.dev ≠ .faulted ∧ closable s = true)
    ∧ (let s := withItem (.wait hostAddr 0) .running;
      powered s = true ∧ s.boot.pcieHeld = false ∧ s.boot.dev = .job ∧ closable s = true ∧ good (resetClose s) = true)
    ∧ (let s := up .ready;
      powered s = true ∧ s.boot.phase ≠ .rom ∧ s.boot.phase ≠ .stuck ∧ s.boot.dev ≠ .job ∧ s.fault.primary = none
        ∧ s.fault.detected = [])
    ∧ (let s := { up .ready with pails := { (up .ready).pails with restarting := true } };
      powered s = true ∧ s.pails.restarting = true ∧ s.pails.busy = none ∧ s.pails.deferred = []) := by decide +kernel

/-! ### Pails -/

/-- The conditions under which a pail command is taken, as one test. -/
def takes (s : State) (r : PailReq) : Bool := pailReachable s r.pail && pailIdle s && s.boot.dev != .boot

theorem takes_spec {s : State} {r : PailReq} (h : takes s r = true) : Takes s r := by
  simp [takes] at h
  exact ⟨h.1.1, h.1.2, h.2⟩

/-- An administrator's command is taken in a device state. -/
def admin (s : State) (d : DevState) : Bool := takes s req && pailKind s req.pail == .admin && s.boot.dev == d

/-- A flush for a pail has not ended. -/
def flushing (s : State) (p : Nat) : State := { s with pails := { s.pails with busy := some (.flush { req with pail := p } 1 0) } }

/-- An out-of-band request. -/
def oobReq : PailReq := ⟨64, 1, false, 0⟩

theorem test_witness_PailGate :
    pailReqOf (.jobClose req) = some req ∧ pailReachable State.reset req.pail = false
      ∧ (let s := flushing (up .ready) 0; pailReachable s req.pail = true ∧ pailTaken s req.pail = true ∧ req.pail < 64)
      ∧ (let s := flushing (up .ready) 64;
          pailReqOf (.jobClose oobReq) = some oobReq ∧ pailReachable s oobReq.pail = true ∧ pailTaken s oobReq.pail = true)
      ∧ (let s := { up .ready with pails := { (up .ready).pails with restarting := true } };
          pailReachable s req.pail = true ∧ pailTaken s req.pail = false ∧ pailWaits s (.jobClose req) = true)
      ∧ (let s := booting .firmware;
          pailReachable s oobReq.pail = true ∧ pailTaken s oobReq.pail = false ∧ pailWaits s (.jobClose oobReq) = false
            ∧ s.boot.dev = .boot)
      ∧ takes (up .ready) userReq = true ∧ userMay (.jobClose userReq) = false ∧ pailKind (up .ready) userReq.pail = .user := by
  decide +kernel

/-- A pail's page holds the command. -/
def rung (s : State) (i : Instr) : State := writePage s req i

theorem test_witness_ReportingPails :
    takes (up .safe) userReq = true ∧ takes (up .ready) userReq = true ∧ (up .ready).boot.dev ≠ .safe
      ∧ (up .job).boot.dev ∈ [DevState.ready, .job, .faulted] ∧ takes (mastered (up .job)) req = true
      ∧ hostAddr ≠ 0 ∧ hostAddr % 32 = 0 ∧ planSize (mastered (up .job)) ≤ 3136
      ∧ good (devWrite (rung (mastered (up .job)) (.floorplanGet req hostAddr 3136)) hostAddr (floorPlan (mastered (up .job)))) = true
      ∧ good (devWrite (rung (mastered (up .job)) (.wearReportDetail req 12416 hostAddr)) hostAddr (wearDetail (mastered (up .job))))
        = true := by decide +kernel

theorem test_witness_JobPails :
    admin (up .ready) .ready = true ∧ (up .ready).thermal.emerg = false ∧ jobOpenOk ⟨16, true, 255, 10 ^ 9, 0, 0⟩ = true
      ∧ jobOpenOk ⟨0xFF, false, 0, 0, 0, 0⟩ = true ∧ jobOpenOk ⟨17, false, 0, 0, 0, 0⟩ = false
      ∧ (let s := { up .ready with thermal := { (up .ready).thermal with emerg := true } };
          admin s .ready = true ∧ s.thermal.emerg = true)
      ∧ admin inJob .job = true
      ∧ okAnd (startClose (pailBegun inJob req (.jobClose req))) (fun u =>
          let v := { u with pails := { u.pails with busy := some (.close req) } }
          closeReady v && good (finishClose v (u.boot.dev == .job))) = true
      ∧ (let s := withItem (.pageOp ⟨0, 0, 1, 0, 0, 0⟩) .running; admin s .job = true
        ∧ okAnd (startClose (pailBegun s req (.jobClose req))) (fun u =>
          !closeReady { u with pails := { u.pails with busy := some (.close req) } }) = true) := by
  decide +kernel

/-- The smallest completion queue, and the largest work queue on it. -/
def newCq : QueueCreateP := ⟨2, true, 0, 6, 0, 0, hostAddr, 0, 0, 2047⟩
def newWq : QueueCreateP := ⟨65535, false, 3, 16, 255, 2, hostAddr, hostAddr, 255, 0⟩

theorem test_witness_QueuePails :
    (let s := up .ready; admin s .ready = true ∧ createBad s newCq = false ∧ createOk s newCq = true)
    ∧ (let s := withItem .fence .running;
      admin s .job = true ∧ createBad s newWq = false ∧ createOk s newWq = true
        ∧ good (devNat (rung s (.queueCreate req newWq)) newWq.tset 128) = true
        ∧ createBad s newCq = true ∧ createBad s { newWq with cls := 4 } = false ∧ createOk s { newWq with cls := 4 } = false
        ∧ destroyBad s 1 = true ∧ destroyBad s 2 = true ∧ destroyBad (withQueue (workQ [])) 1 = false
        ∧ (queueAt s 2).completion = true)
    ∧ (let s := withQueue (workQ []);
      admin s .job = true ∧ (queueAt s 1).st = .active ∧ (queueAt s 1).completion = false ∧ (queueAt s 1).items = []
        ∧ (queueAt s 1).fetch = (queueAt s 1).tail ∧ (queueAt s 1).tail < 2 ^ (queueAt s 1).log2depth
        ∧ stepAt s 1 = none) := by decide +kernel

theorem test_witness_PowerPails :
    (let s := up .ready;
      takes s req = true ∧ adminOob (pailKind s req.pail) = true ∧ s.boot.dev ≠ .safe ∧ capOk ⟨4000, 500, 1500, 60⟩ = true
        ∧ licensed s 3 = false ∧ admin s .ready = true ∧ oppSettled (setPin (pailBegun s req (.powerSetOppPin req 7 0)) 7 0) 0 = true)
    ∧ (let s := { up .ready with boot := { (up .ready).boot with effective := 8 } };
      takes s req = true ∧ capOk ⟨4600, 0, 0, 0⟩ = true ∧ licensed s 3 = true) := by decide +kernel

/-- A job with the set of cores 0 to 3 written at the start of the SRAM of core 0. -/
def withSet : State := { inJob with mem := (List.range 128).map fun i => (0x20000000000 + i, if i = 0 then 15 else 0) }

theorem test_witness_PolicyPails :
    (let s := withSet;
      admin s .job = true ∧ timersOk ⟨.core, true, false, .off, 10 ^ 9, 0, 0x20000000000⟩ = true ∧ s.job.isOpen = true
        ∧ timersOk ⟨.time, false, false, .off, 1, 0, 0⟩ = true
        ∧ good (readSet (rung s (.domainPolicyTimers req ⟨.core, true, false, .off, 10 ^ 9, 0, 0x20000000000⟩)) 0x20000000000) = true
        ∧ good (readSet (rung s (.domainPolicyWake req .core true 0x20000000000)) 0x20000000000) = true
        ∧ okAnd (readSet (rung s (.domainPolicyRetain req true 0xFFFF 0x20000000000)) 0x20000000000) (fun x => x.1 == 15
            && overLimit x.2 ((setCores x.2 true x.1).foldl (fun s c => selectBanks s c 0xFFFF) x.2)
            && !overLimit x.2 ((setCores x.2 true x.1).foldl (fun s c => selectBanks s c 0x7FFF) x.2)) = true
        ∧ ∀ h ∈ sheaves, sheafSel s h ≤ 62)
    ∧ (let s := (List.range 4).foldl (fun s c => selectBanks s c 0xFFFF) (up .ready);
      admin s .ready = true ∧ 62 < sheafSel s 0) := by decide +kernel

/-- A licence record for this device. -/
def licence : LicenceRec := ⟨0, 1, Config.deviceId.toNat, 15, 3, 0, 0⟩

/-- Whether the record's signature verifies is the part's; one of the two clauses on LICENCE_INSTALL applies to it. -/
theorem test_witness_ConfigPails :
    admin (up .ready) .ready = true ∧ admin inJob .job = true
      ∧ (Config.licenceSigOk licence = true ∧ licence.deviceId = Config.deviceId.toNat
          ∨ Config.licenceSigOk licence = false ∨ licence.deviceId ≠ Config.deviceId.toNat)
      ∧ (let s := { up .ready with flash := { (up .ready).flash with licences := [] } };
        admin s .ready = true ∧ (∀ y ∈ s.flash.licences, y.serial ≠ licence.serial) ∧ s.flash.licences.length < 256) ∧ timeOk { TimeP.reset with domain := 127, encap := 2, annTmo := 255 } = true
      ∧ (up .ready).time.dtime ≤ 0 * 2 ^ 16
      ∧ (let s := { up .ready with time := { (up .ready).time with dtime := 1 } };
          admin s .ready = true ∧ 0 * 2 ^ 16 < s.time.dtime)
      ∧ linkOk { LinkP.reset with devid := 4095, minlinks := 32, fmode := 5 } = true
      ∧ linkOk { LinkP.reset with devid := 4096 } = false := by
  refine ⟨by decide +kernel, by decide +kernel, ?_, by decide +kernel⟩
  cases h : Config.licenceSigOk licence with
  | true => exact .inl ⟨rfl, rfl⟩
  | false => exact .inr (.inl rfl)

/-- A snapshot run of one section, of two records. -/
def snap : SnapP := ⟨16, 0, 1, 10000, 0, hostAddr, 2⟩

theorem test_witness_ObservePails :
    (let s := up .ready;
      admin s .ready = true ∧ good (readSet (rung (mastered s) (.counterAccessSelect req ⟨false, 15, 255, hostAddr⟩)) hostAddr) = true
        ∧ snapOk snap = true ∧ ringPlaced s snap.base (snapSlot snap.mask * snap.entries) = true
        ∧ slotHeld s 255 = false ∧ pow2In 16 16 65536 = true ∧ pow2In 65536 16 65536 = true)
    ∧ (let s := { up .ready with pmc := ⟨0, some ⟨snap, 640, 10000, 0, 0⟩⟩ };
      admin s .ready = true ∧ s.pmc.run.isSome = true)
    ∧ (let s := regFlag (up .ready) (slotReg 255 0x30) 0 true; admin s .ready = true ∧ slotHeld s 255 = true) := by decide +kernel

/-- A held step of queue 1, without regions and slots, and an open one. -/
def aStep (ph : StepPhase) : Step := ⟨7, 0, 0, 2, 0, [], [], 3, 1, ph, 0, 1⟩
def withStep (ph : StepPhase) (s : State) : State := { s with guard := { s.guard with steps := [(1, aStep ph)], nextTag := 1 } }

/-- Bytes at memory keys. -/
def cells (k : Nat) (bs : List Byte) : List Host.Cell := ((List.range bs.length).map (k + ·)).zip bs

/-- Whether an image's signature verifies is the part's; every other hypothesis on FW_UPDATE is met. -/
theorem test_witness_ResolveFirmwareKat :
    (let s := withStep .held (withQueue (workQ []));
      admin s .job = true ∧ (heldStep s 1).isSome = true ∧ good (commitStep (rung s (.guardConfigResolveCommit req 1)) 1 (aStep .held)) = true
        ∧ good (discardStep (rung s (.guardConfigResolveDiscard req 1)) 1 (aStep .held)) = true ∧ heldStep s 2 = none)
    ∧ (let bs := leBytes 4 0x4548524D ++ leBytes 8 0 ++ leBytes 4 64 ++ zeros 48;
      let s := { up .ready with mem := cells 0 bs };
      admin s .ready = true ∧ adminOob (pailKind s req.pail) = true ∧ okAnd (devRead (rung s (.fwUpdate req ⟨0, 64, false, true, true⟩)) 0 64) (fun r => r.1 == bs && !r.2.1) = true
        ∧ (imageOf bs).magicOk = true ∧ (imageOf bs).len = 64 ∧ (imageOf bs).svn ≤ 64 ∧ s.flash.fuses ≤ (imageOf bs).svn
        ∧ (let u := { s with flash := { s.flash with fuses := 1 } }; (imageOf bs).svn < u.flash.fuses))
    ∧ (let s := { up .ready with board := { (up .ready).board with events := [.sensor 1 2] } };
      powered s = true ∧ s.boot.phase ≠ .off ∧ s.boot.phase ≠ .stuck ∧ s.board.events = .sensor 1 2 :: []) := by
  decide +kernel

/-! ### Work queues -/

/-- The conditions under which an item's command begins, and runs, as tests. -/
def beginsNow (s : State) (c : WqCmd) : Bool :=
  powered s && s.boot.dev == .job && itemAt s 1 0 == some (item c .dispatched)
def runsNow (s : State) (c : WqCmd) : Bool := powered s && s.boot.dev == .job && itemAt s 1 0 == some (item c .running)

theorem beginsNow_spec {s : State} {c : WqCmd} (h : beginsNow s c = true) : Begins s 1 0 (item c .dispatched) := by
  simp [beginsNow] at h
  exact ⟨h.1.1, h.1.2, h.2, rfl⟩

theorem runsNow_spec {s : State} {c : WqCmd} (h : runsNow s c = true) : Runs s 1 0 (item c .running) := by
  simp [runsNow] at h
  exact ⟨h.1.1, h.1.2, h.2, rfl⟩

/-- A completion queue of 64 slots of which the host still holds every one. -/
def fullCq : Queue := { complQ with written := 64, used := 64 }

theorem test_witness_Doorbells :
    (let s := withQueue (workQ []);
      powered s = true ∧ barUp s = true ∧ (queueAt s 1).completion = false ∧ (queueAt s 1).st ≠ .free
        ∧ bits 63 63 48 = (queueAt s 1).gen ∧ bits 63 47 16 = 0 ∧ bits 63 15 0 < qDepth (queueAt s 1)
        ∧ qVisible (queueAt s 1) ≤ (bits 63 15 0 + qDepth (queueAt s 1) - (queueAt s 1).head) % qDepth (queueAt s 1)
        ∧ bits (2 ^ 48) 63 48 ≠ (queueAt s 1).gen ∧ (queueAt s 3).st = .free ∧ (queueAt s 3).completion = false
        ∧ bits (2 ^ 16) 47 16 ≠ 0 ∧ bits (2 ^ 16) 63 48 = (queueAt s 1).gen ∧ qDepth (queueAt s 1) ≤ bits 64 15 0)
    ∧ (let s := { inJob with wq := { inJob.wq with queues := [(2, fullCq)] } };
      powered s = true ∧ barUp s = true ∧ (queueAt s 2).completion = true ∧ bits 0 63 48 = (queueAt s 2).gen ∧ bits 0 47 16 = 0
        ∧ bits 0 15 0 < qDepth (queueAt s 2) ∧ returned (queueAt s 2) (bits 0 15 0) ≤ (queueAt s 2).written
        ∧ bits (2 ^ 48) 63 48 ≠ (queueAt s 2).gen)
    ∧ (let s := withQueue { workQ [] with tail := 3 };
      (queueAt s 1).completion = false ∧ (queueAt s 1).st ≠ .free ∧ bits 2 63 48 = (queueAt s 1).gen
        ∧ (bits 2 15 0 + qDepth (queueAt s 1) - (queueAt s 1).head) % qDepth (queueAt s 1) < qVisible (queueAt s 1)
        ∧ qVisible (queueAt s 1) ≤ (bits 3 15 0 + qDepth (queueAt s 1) - (queueAt s 1).head) % qDepth (queueAt s 1))
    ∧ (let s := withQueue { workQ [] with cls := 0 };
      powered s = true ∧ barUp s = true ∧ (queueAt s 1).completion = false ∧ (queueAt s 1).st ≠ .free ∧ (queueAt s 1).cls = 0)
    ∧ (let s := withQueue (workQ []);
      (queueAt s 2).completion = true ∧ bits (2 ^ 16) 63 48 = (queueAt s 2).gen ∧ bits (2 ^ 16) 47 16 ≠ 0
        ∧ qDepth (queueAt s 2) ≤ bits 64 15 0 ∧ (queueAt s 2).written < returned (queueAt s 2) (bits 1 15 0))
    ∧ 0 < qDepth fullCq ∧ fullCq.head < qDepth fullCq ∧ fullCq.written = qDepth fullCq := by decide +kernel

/-- A job whose queue 1 shows one entry at the start of vault 0, a header of one entry. -/
def unfetched : State :=
  let s := withQueue { workQ [] with tail := 1 }
  { s with mem := cells 0 (leBytes 1 0x50 ++ zeros 63) }

/-- The item waits to be dispatched. -/
def freshItem (c : WqCmd) : Item := { item c .fetched with slot := false }

theorem test_witness_FetchAndDispatch :
    (let s := unfetched;
      powered s = true ∧ s.boot.dev = .job ∧ (queueAt s 1).st = .active ∧ (queueAt s 1).completion = false
        ∧ 0 < ((queueAt s 1).tail + qDepth (queueAt s 1) - (queueAt s 1).fetch) % qDepth (queueAt s 1)
        ∧ okAnd (devRead s ((queueAt s 1).base + 64 * (queueAt s 1).fetch) 64) (fun r => !r.2.1 && fieldAt r.1 1 1 % 4 == 0) = true)
    ∧ (let s := { unfetched with marks := [(0, Mark.poison)] };
      okAnd (devRead s ((queueAt s 1).base + 64 * (queueAt s 1).fetch) 64) (fun r => r.2.1) = true)
    ∧ (queueAt unfetched 2).completion = true
    ∧ (let s := withQueue (workQ [freshItem .fence]);
      (match serveNext s, dispatchable s 1 with
        | some (q, w), some i => q == 1 && (refuses { s with wq := w } 1 i).isNone && i.clean && (cmdTset i.cmd).isNone
        | _, _ => false) = true ∧ (serveNext s).map (·.1) ≠ some 2)
    ∧ (let s := withQueue (workQ [freshItem (.tiller ⟨0, true, 1, 0, 0, 0, 0⟩)]);
      (match serveNext s, dispatchable s 1 with
        | some (q, w), some i => q == 1 && refuses { s with wq := w } 1 i == some stLicence
        | _, _ => false) = true)
    ∧ (let s := withQueue (workQ [freshItem (.kernel 0 0 [])]);
      (match serveNext s, dispatchable s 1 with
        | some (q, w), some i => q == 1 && (refuses { s with wq := w } 1 i).isNone && i.clean && cmdTset i.cmd == some 0
        | _, _ => false) = true
      ∧ targetCores s (queueAt s 1).tset ≠ []
      ∧ (∀ n ∈ targetCores s (queueAt s 1).tset, isReserve s n = decide ((queueAt s 1).cls = 0))
      ∧ targetCores (withQueue { workQ [freshItem (.kernel 0 0 [])] with tset := 0 }) 0 = []) := by decide +kernel

/-- Plain words from a test of each byte. -/
theorem words_spec {s : State} {v off n : Nat}
    (h : vaultInService s v = true ∧ processorMode s v = false ∧ off % 32 = 0 ∧ n % 32 = 0 ∧ off + n ≤ tillerBase
      ∧ badChecks s v off n = false)
    (h' : ∀ k ∈ List.range n, FMap.find s.marks (vaultKey v (off + k)) = none ∧ inMeta s v (off + k) = false
      ∧ (vaultAt s v).row.unfenced.contains (rowKey (off + k)) = false)
    (h'' : ∀ k m, off ≤ k → k + m ≤ off + n → writeBarred s (vaultKey v k) m = none) : PlainWords s v off n := by
  refine ⟨h.1, h.2.1, h.2.2.1, h.2.2.2.1, h.2.2.2.2.1, h.2.2.2.2.2, fun k h1 h2 => ?_, h''⟩
  have := h' (k - off) (List.mem_range.mpr (by omega))
  rwa [show off + (k - off) = k by omega] at this

theorem plain_spec {s : State} {v off n : Nat}
    (h : vaultInService s v = true ∧ processorMode s v = false ∧ off % 32 = 0 ∧ n % 32 = 0 ∧ off + n ≤ tillerBase
      ∧ badChecks s v off n = false)
    (h' : ∀ k ∈ List.range n, FMap.find s.marks (vaultKey v (off + k)) = none ∧ inMeta s v (off + k) = false
      ∧ (vaultAt s v).row.unfenced.contains (rowKey (off + k)) = false)
    (h'' : ∀ k m, off ≤ k → k + m ≤ off + n → writeBarred s (vaultKey v k) m = none)
    (hq : (vaultAt s v).shaftQ = [] ∧ (vaultAt s v).ringQ = []) : PlainVault s v off n := ⟨words_spec h h' h'', hq⟩

/-- A job whose completion queue lies in vault 0. -/
def cqInVault : State :=
  { inJob with wq := { inJob.wq with queues := [(1, workQ [item .fence .ended]), (2, { complQ with base := 0, used := 1 })] } }

theorem test_witness_CompletionRecords :
    (let s := cqInVault;
      powered s = true ∧ s.boot.dev = .job ∧ itemAt s 1 0 = some (item .fence .ended) ∧ s.pails.busy = none ∧ s.pails.deferred = []
        ∧ good (putRecord s 1 (item .fence .ended) stOk false 0) = true ∧ itemAt s 1 1 = none ∧ (queueAt s 1).cq ≠ 1
        ∧ (queueAt s 2).base + 32 * (queueAt s 2).tail = vaultAddr 0 0
        ∧ good (writeCq s 2 fun _ => zeros 32) = true ∧ ∀ b : Bool, ((fun _ => zeros 32) b : List Byte).length = 32)
    ∧ itemAt (withItem .fence .running) 1 0 = some (item .fence .running)
    ∧ PlainVault cqInVault 0 0 32 :=
  ⟨by decide +kernel, by decide +kernel, plain_spec (by decide +kernel) (by decide +kernel) (fun _ _ _ _ => rfl) (by decide +kernel)⟩

/-- Core 0 is On. -/
def coreOn (s : State) : State := setDom s ⟨.core, 0⟩ { DomRec.reset .core with st := .on }

/-- A kernel image of one END at the start of vault 0, with two argument words. -/
def endImage : List Byte :=
  leBytes 4 0x4E524B54 ++ leBytes 2 1 ++ leBytes 2 2 ++ leBytes 4 64 ++ leBytes 4 8 ++ zeros 16 ++ leBytes 4 5 ++ leBytes 1 2
    ++ zeros 27 ++ leBytes 8 (0x0A * 2 ^ 58)

/-- A KERNEL of queue 1 waits for core 0. -/
def kernelWaits (bs : List Byte) : State :=
  let i := { item (.kernel 0 0 [3, 4]) .running with targets := [0], waitCores := [0] }
  coreOn { withQueue (workQ [i]) with mem := cells 0 bs }

theorem test_witness_KernelStart :
    beginsNow (withItem (.kernel 0 0 []) .dispatched) (.kernel 0 0 []) = true ∧ isKernel (.kernel 0 0 []) = true
    ∧ (let s := kernelWaits endImage;
      powered s = true ∧ s.boot.dev = .job
        ∧ (nextKernel s 0).map (fun x => (x.1, x.2.idx, x.2.cmd)) = some (1, 0, .kernel 0 0 [3, 4])
        ∧ (coreAt s 0).running = false ∧ domOn s ⟨.core, 0⟩ = true ∧ written s 0 64 = true
        ∧ (nextKernel s 0).all (fun x => !imageChanged s x.2 && itemAt s 1 x.2.idx == some x.2) = true
        ∧ okAnd (kernRead s 0 64) (fun r => hdrOk (parseHdr r.1)
            && okAnd (loadCode r.2.2 0 0 (parseHdr r.1)) (fun u => good (loadData u 0 0 (parseHdr r.1)))) = true)
    ∧ (let s := kernelWaits (zeros 64);
      written s 0 64 = true ∧ okAnd (kernRead s 0 64) (fun r => !hdrOk (parseHdr r.1)) = true
        ∧ (nextKernel s 0).isSome = true ∧ (nextKernel s 1).isNone = true)
    ∧ written (kernelWaits []) 0 64 = false
    ∧ (let s := kernelWaits endImage;
      imageChanged s { item (.kernel 0 0 [3, 4]) .running with seen := some (5, []) } = true) := by decide +kernel

/-- GEMM of one output element over 32 products, its operands read and written at the host window. -/
def gemm1 : GemmP :=
  ⟨1, 1, 32, 4, 4, 12, 0, false, false, 0, hostAddr, 0, hostAddr, 0, hostAddr, 0, 32, 32, 4, 0xFF, 0, 0⟩

/-- ATTEND of no sequence, and REDUCE of one element that lies in another device. -/
def attend0 : AttendP :=
  ⟨hostAddr, 0, 0, hostAddr, 0, 64, hostAddr, 0, 32, 0, 1, hostAddr, 0, 6, 10, 1, 0, 0, 0, 0, 1, 6, 0⟩
def reduce1 : ReduceP := ⟨2 ^ 55, 0, 32, 1, 1, 0, 5⟩

/-- A dispatched built-in kernel on core 0, which is On. -/
def builtIn (c : WqCmd) : State := coreOn (withQueue (workQ [{ item c .dispatched with targets := [0], waitCores := [0] }]))

/-- The built-in kernel can run. -/
def builtInFree (c : WqCmd) : Bool :=
  let s := builtIn c
  powered s && s.boot.dev == .job && (itemAt s 1 0).map (fun i => (i.cmd, i.phase)) == some (c, .dispatched) && targetsFree s 1 0

/-- The operands of a built-in kernel lie in the host window. -/
theorem inHost_spec {s : State} {a n : Nat} (h : 0x40000000000 ≤ a ∧ a + n ≤ 0x80000000000) (h' : regGet s (hubReg 0x40) < 2 ^ 63) :
    InHost s a n := ⟨h.1, h.2, h'⟩

/-- REDUCE of one element from the host window. -/
def reduceHost : ReduceP := { reduce1 with src := hostAddr }

theorem test_witness_BuiltInKernels :
    builtInFree (.gemm gemm1) = true
    ∧ good (gemmEffect (builtIn (.gemm gemm1)) 1 (item (.gemm gemm1) .dispatched) gemm1) = true
    ∧ gemmOk gemm1 12 = true ∧ (gemmPasses gemm1).isSome = true ∧ gemmScaled 4 0 = false ∧ outFmt (item (.gemm gemm1) .dispatched) 12 = 12
    ∧ (∀ l < 1, InHost (builtIn (.gemm gemm1)) (hostAddr + l * 32) (32 * fmtBits 4 / 8)) ∧ NoKeepers (builtIn (.gemm gemm1))
    ∧ builtInFree (.gemm { gemm1 with gslot := 254 }) = true
    ∧ good (gemmEffect (builtIn (.gemm { gemm1 with gslot := 254 })) 1 (item (.gemm gemm1) .dispatched) { gemm1 with gslot := 254 })
      = true
    ∧ builtInFree (.attend attend0) = true ∧ attendOk attend0 = true ∧ attendPlans attend0 = true ∧ attend0.nseq = 0
    ∧ good (attendEffect (builtIn (.attend attend0)) 1 (item (.attend attend0) .dispatched) attend0) = true
    ∧ builtInFree (.reduce reduceHost) = true ∧ reduceHost.elems ≠ 0
    ∧ (let p := { reduce1 with src := 0x20000000000 }; let s := builtIn (.reduce p);
      targetsFree s 1 0 = true ∧ okAnd (reduceEffect s 1 { item (.reduce p) .dispatched with targets := [0] } p)
      (fun u => (itemAt u 1 0).isSome) = true)
    ∧ good (reduceDst (builtIn (.reduce reduceHost)) reduceHost) = true
    ∧ (∀ k < reduceHost.nsrc, InHost (builtIn (.reduce reduceHost)) (hostAddr + k * reduceHost.sstride) (slotBytes 0))
    ∧ builtInFree (.reduce { reduce1 with elems := 0 }) = true ∧ reduce1.nsrc ≠ 0 ∧ reduce1.efmt ≤ 3
    ∧ builtInFree (.gemm { gemm1 with k := 33 }) = true ∧ gemmOk { gemm1 with k := 33 } 12 = false
    ∧ builtInFree (.gemm { gemm1 with fa := 0, fb := 10 }) = true ∧ gemmOk { gemm1 with fa := 0, fb := 10 } 12 = true
    ∧ gemmPasses { gemm1 with fa := 0, fb := 10 } = none
    ∧ builtInFree (.attend { attend0 with head := 1 }) = true ∧ attendOk { attend0 with head := 1 } = false
    ∧ builtInFree (.reduce { reduce1 with efmt := 4 }) = true ∧ builtInFree (.reduce { reduce1 with nsrc := 0 }) = true
    ∧ targetsFree (withItem (.gemm gemm1) .dispatched) 1 1 = false := by
  refine ⟨by decide +kernel, by decide +kernel, by decide +kernel, by decide +kernel, by decide +kernel, by decide +kernel,
    fun l h => inHost_spec ?_ (by decide +kernel), ⟨by decide +kernel, ?_⟩, by decide +kernel, by decide +kernel,
    by decide +kernel, by decide +kernel, by decide +kernel, by decide +kernel, by decide +kernel, by decide +kernel, by decide +kernel,
    by decide +kernel, by decide +kernel, fun k h => inHost_spec ?_ (by decide +kernel), by decide +kernel⟩
  · obtain rfl : l = 0 := by omega
    decide +kernel
  · simp [builtIn, coreOn, setDom, updDom, withQueue, workQ, item, gemm1, complQ, Queue.reset]
  · obtain rfl : k = 0 := by simp [reduceHost, reduce1] at h; omega
    decide +kernel

/-- The 32 bytes at the start of vault 0 are written. -/
def withWord (s : State) : State := { s with mem := cells 0 (zeros 32) }

theorem test_witness_CopyAndFill :
    (let s := withWord (withItem (.copy (vaultAddr 0 0) (vaultAddr 0 32) 32) .dispatched);
      beginsNow s (.copy (vaultAddr 0 0) (vaultAddr 0 32) 32) = true ∧ rangesMeet s 0 32 32 = false
        ∧ good (copyBytes s 0 32 32) = true ∧ ∀ k ∈ List.range 32, (FMap.find s.mem (vaultKey 0 0 + k)).isSome = true)
    ∧ PlainVault (withWord (withItem (.copy (vaultAddr 0 0) (vaultAddr 0 32) 32) .dispatched)) 0 0 32
    ∧ PlainVault (withWord (withItem (.copy (vaultAddr 0 0) (vaultAddr 0 32) 32) .dispatched)) 0 32 32
    ∧ (let s := withItem (.copy 0 0 32) .dispatched; beginsNow s (.copy 0 0 32) = true ∧ rangesMeet s 0 0 32 = true)
    ∧ beginsNow (withItem (.copy 1 0 32) .dispatched) (.copy 1 0 32) = true
    ∧ (let s := withItem (.fill (vaultAddr 0 2016) 32 (zeros 32)) .dispatched;
      beginsNow s (.fill (vaultAddr 0 2016) 32 (zeros 32)) = true ∧ (zeros 32).length = 32
        ∧ good ((rowParts (32 / 2048 + 2) 2016 32).foldlM (fillPart (zeros 32)) s) = true)
    ∧ PlainVault (withItem (.fill (vaultAddr 0 2016) 32 (zeros 32)) .dispatched) 0 2016 32
    ∧ beginsNow (withItem (.fill 0 0 []) .dispatched) (.fill 0 0 []) = true
    ∧ beginsNow (withItem (.fill 1 32 []) .dispatched) (.fill 1 32 []) = true := by
  refine ⟨by decide +kernel, plain_spec (by decide +kernel) (by decide +kernel) (fun _ _ _ _ => rfl) (by decide +kernel), plain_spec (by decide +kernel) (by decide +kernel) (fun _ _ _ _ => rfl) (by decide +kernel),
    by decide +kernel, by decide +kernel, by decide +kernel, plain_spec (by decide +kernel) (by decide +kernel) (fun _ _ _ _ => rfl) (by decide +kernel),
    by decide +kernel, by decide +kernel⟩

/-! ### Page units, tiller tree, winnow units, vault modes -/

/-- A dispatched command of queue 1 beside page units that are initialised: two pages in each vault of sheaf 0, page 0 with one
reference, and bytes at the start of vault 0. -/
def paged (c : WqCmd) (bs : List Byte) : State :=
  let s := sheaves.foldl (fun s h => regSet s (pguReg h 0x10) 0) (withItem c .dispatched)
  { s with mem := cells 0 bs, pages := { s.pages with units := [(0, ⟨2, 1, 16, [(0, 1)]⟩)] } }

/-- A PAGE_OP of one entry, whose source lies at offset 0 of vault 0 and whose table at an offset. -/
def pageOp1 (sub table : Nat) : PageOpP := ⟨sub, 0, 1, 0, table, 0⟩

/-- The page command is at its turn. -/
def pageTurn (s : State) (p : PageOpP) : Bool := beginsNow s (.pageOp p) && unitTurn s 1 0

/-- Nothing else outstanding names the entries of the page command, and the page-unit stop of sheaf 0 reads and writes them. -/
def pageAlone (s : State) (p : PageOpP) : Bool :=
  pageTurn s p && pageOpOk p && unitsTogether s && !unitsCross s 1 0 (.pageOp p) && !namesStep s (.pageOp p) && p.count == 1
def stop0 : Option Nat := some (pageStop 0)

/-- An entry that names no page, and one that names page 0. -/
def noEntry : List Byte := leBytes 4 noPage ++ zeros 28

/-- An ALLOC of one entry; of sheaf 0 only page 0 is free. -/
def allocState : State :=
  let s := paged (.pageOp (pageOp1 0 0)) noEntry
  { s with pages := { s.pages with units := [(0, ⟨1, 1, 16, (List.range 127).map fun i => (pageId (i + 1) 0, 1)⟩)] } }

/-- The state once the ALLOC has read its entry. -/
def allocRead : State := match getEntry stop0 allocState 0 with
  | .ok r => r.2
  | .error _ => allocState

theorem test_witness_pickAlloc_page : pickAlloc allocRead 0 0 = some 0 := by
  have h : pickAlloc allocRead 0 0 = some (pageId 0 (0 + 1 * (Config.choose allocRead.free 0 % 1))) := rfl
  rw [h, Nat.mod_one]
  rfl

/-- A COW of page 0, which has two references; vault 0 has one free page. -/
def cowState : State := addRef (paged (.pageOp (pageOp1 2 0)) (zeros 32)) 0

/-- The state once the COW has read its entry twice. -/
def cowRead : State := match getEntry stop0 cowState 0 with
  | .ok r => match getEntry stop0 r.2 0 with
    | .ok t => t.2
    | .error _ => cowState
  | .error _ => cowState

theorem test_witness_pickCow : pickCow cowRead 0 = some 1 := by
  have h : pickCow cowRead 0 = some (pageId 0 (0 + 1 * (Config.choose cowRead.free 0 % 1 + 1))) := rfl
  rw [h, Nat.mod_one]
  rfl

theorem test_witness_PageOperations :
    (∀ k ∈ [0, 1, 2, 3], let s := withItem (.pageOp (pageOp1 k 32)) .dispatched;
      pageTurn s (pageOp1 k 32) = true ∧ pageOpOk (pageOp1 k 32) = true ∧ pageUnitDown s 0 = true
        ∧ pageTurn (withItem (.pageOp (pageOp1 k 33)) .dispatched) (pageOp1 k 33) = true ∧ pageOpOk (pageOp1 k 33) = false)
    ∧ (pageAlone allocState (pageOp1 0 0) = true ∧ okAnd (getEntry stop0 allocState 0) (fun r => r.1 == noPage) = true
        ∧ 0 < freePages allocRead 0 ∧ good (putEntry stop0 (undefPage (takePage allocRead 0) 0) 0 0) = true)
    ∧ (let p := pageOp1 0 0; let s := { paged (.pageOp p) noEntry with pages := (up .job).pages };
      pageAlone s p = true ∧ okAnd (getEntry stop0 s p.table) (fun r => r.1 == noPage && freePages r.2 0 == 0) = true)
    ∧ (let p := pageOp1 1 32; let s := paged (.pageOp p) (zeros 64);
      pageAlone s p = true
        ∧ okAnd (getEntry stop0 s p.src) (fun r => r.1 == 0 && good (pagesOk r.2 0 [0]) && decide (refCount r.2 0 < 65535)
            && good (putEntry stop0 (addRef r.2 0) p.table 0)) = true)
    ∧ (let p := pageOp1 2 0; let s := paged (.pageOp p) (zeros 32);
      pageAlone s p = true
        ∧ okAnd (getEntry stop0 s p.table) (fun r => r.1 == 0 && good (pagesOk r.2 0 [0]) && decide (refCount r.2 0 ≤ 1)
            && okAnd (getEntry stop0 r.2 p.table) (fun t => t.1 == 0)) = true)
    ∧ (let s := cowState;
      pageAlone s (pageOp1 2 0) = true
        ∧ okAnd (getEntry stop0 s 0) (fun r => r.1 == 0 && good (pagesOk r.2 0 [0]) && decide (1 < refCount s 0)
            && decide (0 < freePages r.2 0) && okAnd (getEntry stop0 r.2 0) (fun t => t.1 == 0)) = true)
    ∧ okAnd (copyPage stop0 (takePage cowRead 1) 0 1) (fun u => good (putEntry stop0 (dropRef u 0) 0 1)) = true
    ∧ (let p := pageOp1 3 0; let s := paged (.pageOp p) (zeros 32);
      pageAlone s p = true
        ∧ okAnd (getEntry stop0 s p.table) (fun r => r.1 == 0 && good (pagesOk r.2 0 [0])
            && good (putEntry stop0 (dropRef r.2 0) p.table noPage)) = true)
    ∧ (let s := up .ready;
      powered s = true ∧ s.boot.dev ≠ .boot ∧ pageUnitsBusy s = false ∧ poolOk s 7 = true
        ∧ poolOk (regSet s (pguReg 7 0) (2 ^ 55 - 1)) 7 = false ∧ bit (regGet s (pguReg 7 0x10)) 0 = false)
    ∧ pageUnitsBusy (withItem (.pageOp (pageOp1 0 0)) .dispatched) = true
    ∧ bit (regGet (regFlag (up .ready) (pguReg 7 0x10) 0 true) (pguReg 7 0x10)) 0 = true := by decide +kernel

theorem test_witness_pickAlloc :
    let s := paged .fence [];
    (∀ k, FMap.wf (unitAt s k).refs = true) ∧ (unitAt s 0).count ≤ 2 ^ 22 ∧ (pickAlloc s 0 127).isSome = true := by
  refine ⟨fun k => ?_, by decide +kernel, by decide +kernel⟩
  by_cases h : k = 0
  · subst h; decide +kernel
  · simp [unitAt, paged, FMap.getD, FMap.find, h, PageUnit.reset, FMap.wf]

/-- A TILLER command on one hashed block, hash 5 at the start of vault 0, page 0 at offset 64, its result at 96. -/
def tiller1 (sub : Nat) : TillerP := ⟨sub, true, 1, 0, 64, 96, 0⟩
def tillerState (sub : Nat) (e : FMap TillerEntry) : State :=
  let s := paged (.tiller (tiller1 sub)) (leBytes 8 5 ++ zeros 88)
  { s with pages := { s.pages with tiller := e } }

/-- The command's hashes and its bucket as the test reads them. -/
def tillerTurn (s : State) (p : TillerP) (f : State → Bool) : Bool :=
  beginsNow s (.tiller p) && unitTurn s 1 0 && tillerOk p && unitsTogether s && !unitsCross s 1 0 (.tiller p)
    && okAnd (tillerHashes (endItem s 1 0 stOk) p) fun r => r.1 == [5] && bucketOf r.2 5 == some (0, 5, 0) && good (bucketReady r.2 0 0) && f r.2

/-- A result record can be written. -/
def resultFits (s : State) : Bool := good (stopWrite s stop0 96 (leBytes 4 1 ++ zeros 4 ++ leBytes 8 5 ++ zeros 16))

/-- A WINNOW of one sequence in the host window. -/
def winnow1 (nb : Nat) (bound : List Nat) : WinnowP := ⟨0, nb, 1, hostAddr, hostAddr + 32, hostAddr + 64, bound⟩
def winnowTurn (p : WinnowP) : Bool := beginsNow (withItem (.winnow p) .dispatched) (.winnow p) && unitTurn (withItem (.winnow p) .dispatched) 1 0

theorem test_witness_TillerAndWinnow :
    (∀ k ∈ [0, 1, 2], let s := withItem (.tiller (tiller1 k)) .dispatched;
      beginsNow s (.tiller (tiller1 k)) = true ∧ unitTurn s 1 0 = true ∧ tillerOk (tiller1 k) = true ∧ pageUnitDown s 0 = true)
    ∧ tillerTurn (tillerState 0 []) (tiller1 0) (fun s => (findHash s 0 5 5).isNone && resultFits s) = true
    ∧ tillerTurn (tillerState 0 [(wayKey 0 5 7, ⟨5, 0, 3⟩)]) (tiller1 0) (fun s => findHash s 0 5 5 == some (7, ⟨5, 0, 3⟩)
        && decide (refCount s 0 < 65535) && okAnd (putEntry stop0
          (addRef (setTiller (nextStamp s).2 (wayKey 0 5 7) (some ⟨5, 0, s.pages.stamp⟩)) 0) 64 0) resultFits) = true
    ∧ tillerTurn (tillerState 1 []) (tiller1 1) (fun s => okAnd (getEntry stop0 s 64) fun r => r.1 == 0 && (findHash r.2 0 5 5).isNone
        && decide ((bucketWays r.2 0 5).length < 8) && pageValid r.2 0 && decide (refCount r.2 0 < 65535)
        && resultFits (addRef (setTiller (nextStamp r.2).2 (wayKey 0 5 (makeRoom r.2 0 5).1) (some ⟨5, 0, r.2.pages.stamp⟩)) 0)) = true
    ∧ tillerTurn (tillerState 2 [(wayKey 0 5 7, ⟨5, 0, 3⟩)]) (tiller1 2) (fun s => okAnd (getEntry stop0 s 64) fun r => r.1 == 0
        && findHash r.2 0 5 5 == some (7, ⟨5, 0, 3⟩) && resultFits (dropRef (setTiller r.2 (wayKey 0 5 7) none) 0)) = true
    ∧ (let p := winnow1 1 []; let s := withItem (.winnow p) .dispatched;
      winnowTurn p = true ∧ winnowOk p = true ∧ ascending (p.bound.take (p.nb - 1)) = true ∧ winnowPlaced s p = true
        ∧ (let batch := sortSeqs ((List.range p.n).map fun n => ⟨fieldAt [] (8 * n) 4, fieldAt [] (8 * n + 4) 4, n, 0⟩)
        okAnd (stopRead (endItem s 1 0 stOk) stop0 p.input (8 * p.n)) (fun r =>
          okAnd (stopWrite r.2.2 stop0 p.output (batch.flatMap seqBytes ++ zeros (roundUp (16 * p.n) 32 - 16 * p.n)))
            (fun u => good (stopWrite u stop0 p.summary (winnowSummary p batch)))) = true))
    ∧ winnowTurn (winnow1 17 []) = true ∧ winnowOk (winnow1 17 []) = false
    ∧ winnowTurn (winnow1 3 [5, 5]) = true ∧ winnowOk (winnow1 3 [5, 5]) = true ∧ ascending ([5, 5].take 2) = false
    ∧ (let p : WinnowP := { winnow1 1 [] with output := hostAddr }; winnowTurn p = true ∧ winnowOk p = true
      ∧ ascending (p.bound.take (p.nb - 1)) = true ∧ winnowPlaced (withItem (.winnow p) .dispatched) p = false) := by
  decide +kernel

theorem test_witness_TillerHash :
    (List.replicate 32 (0#32, 0#32)).length = 32 ∧ 0 < 1
      ∧ (let p : TillerP := ⟨0, false, 1, hostAddr, 0, 0, 0⟩; p.hashed = false ∧ good (stopRead (up .job) stop0 p.input (256 * p.blocks)) = true) := by
  decide +kernel

/-- A dispatched command beside a vault set at the start of vault 1 that names vault 2, or none. -/
def withVaults (c : WqCmd) (b : Byte) : State := { withItem c .dispatched with mem := cells (2 ^ 30) (b :: zeros 127) }

/-- Vault 2 is in PROCESSOR mode. -/
def proc2 (s : State) : State := regFlag s (vltReg 2 0) 0 true

/-- What the test reads of a vault set. -/
def vaultSet (s : State) (f : List Nat → State → Bool) : Bool := okAnd (readVaults s (2 ^ 30)) fun r => f r.1 r.2

/-- The VAULT_MODE of queue 1 waits for vault 2. -/
def modeWaits (s : State) : State :=
  setQueue s 1 (workQ [{ item (.vaultMode 0 (2 ^ 30)) .running with waitVaults := [2] }])

theorem test_witness_VaultModesAndFences :
    (let s := withVaults (.vaultMode 1 (2 ^ 30)) 4;
      beginsNow s (.vaultMode 1 (2 ^ 30)) = true
        ∧ vaultSet s (fun vs t => vs == [2] && !vs.any (modeBarred t) && !processorMode t 2 && inputsEmpty t 2) = true
        ∧ vaultSet (updVault s 2 fun x => { x with ringQ := [⟨false, 0, 32, [], false, .ring 0 0 0 0 false, 0⟩] })
          (fun vs t => !vs.any (modeBarred t) && vs.any fun v => !processorMode t v && !inputsEmpty t v) = true
        ∧ vaultSet { s with boot := { s.boot with outVaults := [2] } } (fun vs t => vs.any (modeBarred t)) = true)
    ∧ (let s := proc2 (withVaults (.vaultMode 0 (2 ^ 30)) 4);
      beginsNow s (.vaultMode 0 (2 ^ 30)) = true
        ∧ vaultSet s (fun vs t => vs.all fun v => processorMode t v && rowQuiet t v) = true
        ∧ vaultSet (updRow s 2 fun u => { u with job := some (1, 0) }) (fun vs t => vs.any fun v => processorMode t v && !rowQuiet t v)
          = true)
    ∧ (let s := modeWaits (proc2 (withVaults (.vaultMode 0 (2 ^ 30)) 4));
      powered s = true ∧ s.boot.dev = .job
        ∧ (itemAt s 1 0).all (fun i => i.phase == .running && i.cmd == .vaultMode 0 (2 ^ 30) && i.waitVaults == [2]) = true
        ∧ rowQuiet s 2 = true ∧ rowQuiet (updRow s 2 fun u => { u with job := some (1, 0) }) 2 = false)
    ∧ beginsNow (withVaults (.vaultMode 2 0) 0) (.vaultMode 2 0) = true
    ∧ (let c : WqCmd := .rowRun hostAddr 256 (2 ^ 30) hostAddr; let s := withVaults c 4;
      beginsNow s c = true ∧ rowOperandOk s hostAddr = true
        ∧ vaultSet s (fun _ t => okAnd (leavingVaults t) fun g => !processorMode g.2 2) = true
        ∧ vaultSet (proc2 s) (fun vs t => okAnd (leavingVaults t) fun g => vs.all (fun v => processorMode g.2 v && !g.1.contains v)
            && good (readProgram g.2 1 0 hostAddr 256 hostAddr)) = true
        ∧ vaultSet (withVaults c 0) (fun vs _ => vs.isEmpty) = true)
    ∧ (let s := withVaults (.rowFence (2 ^ 30)) 4;
      beginsNow s (.rowFence (2 ^ 30)) = true ∧ vaultSet s (fun vs t => !vs.any (processorMode t)) = true
        ∧ vaultSet (proc2 s) (fun vs t => vs.any (processorMode t)) = true) := by decide +kernel

/-! ### Steps, waits, signals, aborts -/

/-- A STEP_BEGIN of two entries whose slot set lies at offset 0 of vault 0 and whose regions at offset 64. -/
def begin1 (nreg : Nat) : StepBeginP := ⟨7, 2, nreg, 64, 0, 7⟩

/-- A region of one page at offset 128 with its shadow at offset 160. -/
def region1 : List Byte := leBytes 8 128 ++ leBytes 8 160 ++ leBytes 2 1 ++ zeros 14

/-- The STEP_BEGIN beside enabled slot 0, its scale record at offset 256, and no free page in sheaf 0. -/
def stepState (nreg : Nat) : State :=
  let s := paged (.stepBegin (begin1 nreg)) (leBytes 4 1 ++ zeros 60 ++ region1 ++ zeros 192)
  let s := regSet (regSet s (slotReg 0 0) 3) (slotReg 0 0x10) 256
  { s with pages := { s.pages with units := [(0, ⟨1, 1, 16, (List.range 128).map fun i => (pageId i 0, 1)⟩)] } }

/-- What the test reads of a STEP_BEGIN's slots and regions. -/
def stepReads (s : State) (p : StepBeginP) (f : List Nat → List Region → State → Bool) : Bool :=
  beginsNow s (.stepBegin p) && stepBeginOk p && okAnd (devNat s p.slots 32) fun r =>
    okAnd (readRegions r.2 p.regions p.nreg) fun t => t.1.all regionOk && f (bitList r.1 256) t.1 t.2

/-- A step that waits for its evaluation, its STEP_COMMIT the one item, over completion queue 2 in an SRAM. -/
def evalState (nonfinite limit : Nat) : State :=
  let s := setQueue (withQueue (workQ [{ item (.stepCommit 7) .running with idx := 1, inStep := true }])) 2
    { complQ with base := 0x20000000000, used := 1 }
  let s := regSet (regSet s (slotReg 0 0) 3) (slotReg 0 0x10) 256
  { s with guard := { s.guard with
    steps := [(1, { aStep .committing with slots := [0], limit })], slots := [(0, { SlotSt.reset with nonfinite })] } }

/-- What the test reads of an evaluation: whether a slot asks for a replay. -/
def evaluates (nonfinite limit : Nat) (again : Bool) : Bool :=
  let s := evalState nonfinite limit
  match stepAt s 1 with
  | some st => stepReady s 1 st && good (evaluateStep s 1 st)
      && (st.slots.any fun n => decide (lastCauses (st.slots.foldl (evalSlot st) s) n ≠ 0)
        && bit (regGet (st.slots.foldl (evalSlot st) s) (slotReg n 0)) 1) == again
      && decide (st.attempt ≤ st.limit) == decide (1 ≤ limit)
  | none => false

/-- A report for slot 0 of the step with tag 0. -/
def report0 : Report := ⟨none, 0, 0, 0, some 0, 1, 2, 0, false, false, false⟩

theorem test_witness_GuardedSteps :
    stepReads { stepState 0 with regs := (paged .fence []).regs } (begin1 0) (fun b rs s => !stepAllowed s 1 (begin1 0) b rs) = true
    ∧ stepReads (stepState 1) (begin1 1) (fun b rs s => stepAllowed s 1 (begin1 1) b rs && okAnd (shadowsFit s rs) fun r => !r.1) = true
    ∧ stepReads (stepState 0) (begin1 0) (fun b rs s => b == [0] && stepAllowed s 1 (begin1 0) b rs
        && okAnd (shadowsFit s rs) fun r => r.1 && decide (1 ≤ slotsLeft r.2 (queueAt r.2 1).cq)
          && good (openStep r.2 1 0 (begin1 0) b rs)) = true
    ∧ (let p := { begin1 0 with entries := 1 }; beginsNow (withItem (.stepBegin p) .dispatched) (.stepBegin p) = true ∧ stepBeginOk p = false)
    ∧ (let s := stepState 1; let s := { s with mem := cells 0 (leBytes 4 1 ++ zeros 60 ++ leBytes 8 129 ++ zeros 248) };
      beginsNow s (.stepBegin (begin1 1)) = true ∧ okAnd (devNat s 0 32) (fun r => okAnd (readRegions r.2 64 1) fun t => !t.1.all regionOk) = true)
    ∧ (let s := withStep .running (withItem (.stepCommit 7) .dispatched);
      beginsNow s (.stepCommit 7) = true ∧ (stepAt s 1).all (fun st => st.phase != .held && st.stepid == 7) = true
        ∧ stepAt (withItem (.stepCommit 7) .dispatched) 1 = none
        ∧ beginsNow (withStep .running (withItem (.stepCommit 8) .dispatched)) (.stepCommit 8) = true
        ∧ beginsNow (withStep .held (withItem (.stepCommit 7) .dispatched)) (.stepCommit 7) = true)
    ∧ powered (evalState 0 3) = true ∧ (evalState 0 3).boot.dev = .job ∧ (evalState 0 3).pails.busy = none ∧ (evalState 0 3).pails.deferred = []
    ∧ evaluates 0 3 false = true ∧ evaluates 1 1 true = true ∧ evaluates 1 0 true = true
    ∧ (let s := { regFlag (evalState 0 3) (slotReg 0 0x30) 0 true with guard := { (evalState 0 3).guard with reports := [report0] } };
      reportTaken (regSetFld s (slotReg 0 0x30) 31 16 1) report0 = true ∧ reportTaken s report0 = false
        ∧ s.guard.reports = report0 :: [] ∧ (up .job).guard.reports = [])
    ∧ itemAt (withItem (.gemm gemm1) .running) 1 0 = some (item (.gemm gemm1) .running) := by decide +kernel

theorem test_witness_WaitsAndHints :
    beginsNow (withItem .fence .dispatched) .fence = true
    ∧ beginsNow (withItem (.timeWait 0) .dispatched) (.timeWait 0) = true ∧ nowNs (withItem (.timeWait 0) .dispatched) = 0
    ∧ beginsNow (withItem (.timeWait 1) .dispatched) (.timeWait 1) = true
    ∧ runsNow (withItem (.timeWait 0) .running) (.timeWait 0) = true ∧ runsNow (withItem (.timeWait 1) .running) (.timeWait 1) = true
    ∧ (∀ v ∈ [0, 1], let s := withWord (withItem (.wait 0 v) .dispatched); let t := withWord (withItem (.wait 0 v) .running);
      beginsNow s (.wait 0 v) = true ∧ runsNow t (.wait 0 v) = true ∧ bit 0 55 = false
        ∧ okAnd (devNat s 0 8) (fun r => r.1 == 0) = true ∧ okAnd (devNat t 0 8) (fun r => r.1 == 0) = true)
    ∧ beginsNow (withItem (.wait 1 0) .dispatched) (.wait 1 0) = true ∧ bit (2 ^ 55) 55 = true
    ∧ runsNow (withItem (.wait (2 ^ 55) 0) .running) (.wait (2 ^ 55) 0) = true
    ∧ (∀ n ∈ [0, 15, 16], beginsNow (withItem (.phaseHint n 0) .dispatched) (.phaseHint n 0) = true) := by decide +kernel

/-- A dispatched ABORT of queue 1 and an item with CMDID 7 behind it. -/
def withAbort (cmdid : Nat) (ph : ItemPhase) : State :=
  withQueue (workQ [item (.abort 1 cmdid) .dispatched, { item (.wait hostAddr 0) ph with idx := 1, cmdid := 7 }])

/-- What the test reads of an ABORT of CMDID 7. -/
def abortReads (ph : ItemPhase) (live : Bool) : Bool :=
  let s := withAbort 7 ph
  beginsNow s (.abort 1 7) && s.pails.busy.isNone && s.pails.deferred.isEmpty
    && (match abortTarget s 1 0 1 7 with
      | some y => y.phase == ph && !inOpenStep s 1 y && itemLive y == live && stoppable y.cmd
      | none => false)

/-- The search finds nothing new in a queue that shows nothing, and goes on from the same state. -/
theorem abortLook_none {s : State} {q : Nat}
    (h : ((queueAt s q).tail + qDepth (queueAt s q) - (queueAt s q).fetch) % qDepth (queueAt s q) = 0)
    (h' : (queueAt s q).st ≠ .flushing) : abortLook s q = .ok (s, s) := by
  have h1 : fetchOne s q = .ok s := by simp [fetchOne, h]
  have h2 : fetchAll 65536 s q = .ok s := by
    rw [show 65536 = 65535 + 1 from rfl, fetchAll, h1]
    simp [bind, Except.bind]
  by_cases hf : (queueAt s q).st = .free ∨ (queueAt s q).completion = true
  · simp [abortLook, hf]
  · simp [abortLook, hf, h2, h', bind, Except.bind, pure, Except.pure]

theorem test_witness_abortLook :
    (∀ ph ∈ [ItemPhase.fetched, .running, .recorded, .ended], abortLook (withAbort 7 ph) 1 = .ok (withAbort 7 ph, withAbort 7 ph))
      ∧ abortLook (withAbort 8 .fetched) 1 = .ok (withAbort 8 .fetched, withAbort 8 .fetched) := by
  refine ⟨fun ph h => ?_, abortLook_none (by decide +kernel) (by decide +kernel)⟩
  simp only [List.mem_cons, List.not_mem_nil, or_false] at h
  rcases h with rfl | rfl | rfl | rfl <;> exact abortLook_none (by decide +kernel) (by decide +kernel)

theorem test_witness_SignalsAndAborts :
    (let c : WqCmd := .signal 0x20000000000 1 0; let s := withItem c .dispatched;
      beginsNow s c = true ∧ bellForm 0x20000000000 0 = false ∧ resolve s 0x20000000000 = .sram 0 0)
    ∧ beginsNow (withItem (.signal 1 1 0) .dispatched) (.signal 1 1 0) = true ∧ bellForm 1 0 = false
    ∧ (let a := 2 ^ 55 + 5 * 2 ^ 43 + 32; let c : WqCmd := .signal a 1 (2 ^ 14); let s := withItem c .dispatched;
      let t := { s with links := { s.links with cfg := { s.links.cfg with devid := 5, unassigned := false } } };
      beginsNow s c = true ∧ bellForm a (2 ^ 14) = true ∧ bits a 42 21 = 0 ∧ a % 32 = 0 ∧ bits (2 ^ 14) 13 11 = 0
        ∧ ownId s (bits a 54 43) = false ∧ ownId t (bits a 54 43) = true ∧ bits a 20 5 = 1 ∧ good (ringBell t 1 1 (nowNs t)) = true)
    ∧ abortReads .fetched false = true ∧ abortReads .running true = true ∧ abortReads .recorded false = true ∧ abortReads .ended false = true
    ∧ (let s := withQueue (workQ [item (.abort 1 7) .dispatched, { item (.pageOp (pageOp1 0 0)) .running with idx := 1, cmdid := 7 }]);
      beginsNow s (.abort 1 7) = true ∧ (abortTarget s 1 0 1 7).all (fun y => itemLive y && !stoppable y.cmd) = true
        ∧ (abortTarget s 1 0 1 7).isSome = true)
    ∧ abortTarget (withAbort 8 .fetched) 1 0 1 8 = none ∧ beginsNow (withAbort 8 .fetched) (.abort 1 8) = true
    ∧ (queueAt (withAbort 8 .fetched) 3).st = .free ∧ (queueAt (withAbort 8 .fetched) 2).completion = true := by decide +kernel

/-! ### Tile programs -/

/-- A job whose core 0 is On and runs a kernel at the given instruction, with scalar and tile registers. -/
def running (i : TileInstr) (sr : FMap Word) (tr : FMap TileDesc) : State :=
  updCore (coreOn inJob) 0 fun x => { x with running := true, code := [BitVec.ofNat 64 (encodeTile i)], sregs := sr, tregs := tr }

/-- `Issues` as a test. -/
def issuesNow (s : State) (c : Nat) (i : TileInstr) : Bool :=
  powered s && (coreAt s c).running && (coreAt s c).pc % 8 == 0
    && ((coreAt s c).code[(coreAt s c).pc / 8]?).bind (fun w => decodeTile w.toNat) == some i

theorem issuesNow_spec {s : State} {c : Nat} {i : TileInstr} (h : issuesNow s c i = true) : Issues s c i := by
  simp only [issuesNow, Bool.and_eq_true, beq_iff_eq] at h
  exact ⟨h.1.1.1, h.1.1.2, h.1.2, h.2⟩

/-- The instruction issues on core 0 with no register written. -/
def issues0 (i : TileInstr) : Bool := issuesNow (running i [] []) 0 i

/-- Operand fields of a scalar instruction: s1 ← s2 op s3. -/
def sc (fn imm : Nat) : ScalarF := ⟨1, 2, 3, fn, imm⟩

theorem test_witness_ScalarArithmetic :
    issues0 (.alu (sc 9 0)) = true ∧ issues0 (.alui (sc 7 0xFFFFFFFF)) = true ∧ issues0 (.li (sc 0 0x80000000)) = true
      ∧ issues0 (.lih (sc 0 1)) = true ∧ issues0 (.call (sc 0 0xFFFFFFFF)) = true ∧ 0xFFFFFFFF < 2 ^ 32 := by decide +kernel

/-- Where no operation waits to be ordered, nothing is unordered. -/
theorem unordered_none {x : CoreSt} (h : x.order = []) (u : Option TileUnit) (rs ws : List (Nat × Nat)) :
    unordered x u rs ws = none := by
  simp [unordered, h]

/-- A DRAIN wrote the first 64 bytes of SRAM, and no FENCE ordered it. -/
def afterDrain (s : State) : State := updCore s 0 fun x => { x with order := [⟨1, .drain, false, none, [], [(0, 64)]⟩] }

/-- LD and SQ at an offset. -/
def ldAt (o : Nat) : State := running (.ld ⟨1, 0, 0, 0, o⟩) [] []
def sqAt (o b : Nat) : State := running (.sq ⟨0, 0, b, 0, o⟩) [] []

theorem test_witness_ScalarMemory :
    (∀ o ∈ [0, 0x7FFFF8], issuesNow (ldAt o) 0 (.ld ⟨1, 0, 0, 0, o⟩) = true ∧ memOff (ldAt o) 0 ⟨1, 0, 0, 0, o⟩ = o
        ∧ o < 0x800000 ∧ o % 8 = 0 ∧ FMap.find (ldAt o).marks (sramKey 0 (o / 16 * 16)) = none)
    ∧ (∀ o ∈ [0, 0x7FFFF0], issuesNow (sqAt o 30) 0 (.sq ⟨0, 0, 30, 0, o⟩) = true ∧ memOff (sqAt o 30) 0 ⟨0, 0, 30, 0, o⟩ = o
        ∧ o < 0x800000 ∧ o % 16 = 0 ∧ 30 % 2 = 0)
    ∧ (∀ o ∈ [0x800000], issuesNow (ldAt o) 0 (.ld ⟨1, 0, 0, 0, o⟩) = true ∧ memOff (ldAt o) 0 ⟨1, 0, 0, 0, o⟩ = 0x800000
        ∧ issuesNow (sqAt o 30) 0 (.sq ⟨0, 0, 30, 0, o⟩) = true ∧ memOff (sqAt o 30) 0 ⟨0, 0, 30, 0, o⟩ = 0x800000)
    ∧ issuesNow (ldAt 1) 0 (.ld ⟨1, 0, 0, 0, 1⟩) = true ∧ memOff (ldAt 1) 0 ⟨1, 0, 0, 0, 1⟩ = 1
    ∧ issuesNow (sqAt 8 30) 0 (.sq ⟨0, 0, 30, 0, 8⟩) = true ∧ memOff (sqAt 8 30) 0 ⟨0, 0, 30, 0, 8⟩ = 8
    ∧ issuesNow (sqAt 0 31) 0 (.sq ⟨0, 0, 31, 0, 0⟩) = true ∧ memOff (sqAt 0 31) 0 ⟨0, 0, 31, 0, 0⟩ = 0
    ∧ (coreAt (ldAt 0) 0).order = [] ∧ (coreAt (sqAt 0 30) 0).order = []
    ∧ (let s := afterDrain (ldAt 56);
      issuesNow s 0 (.ld ⟨1, 0, 0, 0, 56⟩) = true ∧ memOff s 0 ⟨1, 0, 0, 0, 56⟩ = 56 ∧ unordered (coreAt s 0) none [(56, 8)] [] = some 22)
    ∧ (let s := afterDrain (sqAt 48 30);
      issuesNow s 0 (.sq ⟨0, 0, 30, 0, 48⟩) = true ∧ memOff s 0 ⟨0, 0, 30, 0, 48⟩ = 48
        ∧ unordered (coreAt s 0) none [] [(48, 16)] = some 22 ∧ unordered (coreAt s 0) none [] [(64, 16)] = none) := by decide +kernel

/-- Core 0 runs END for item 0 of queue 1, or waits with a DMA descriptor outstanding. -/
def ends : State :=
  updCore { running .endk [] [] with wq := (withQueue (workQ [{ item (.kernel 0 0 []) .running with runCores := [0] }])).wq } 0
    fun x => { x with owner := some (1, 0) }

/-- A descriptor of one line. -/
def dma1 (k : DmaKind) (a : Nat) (w : Bool) : DmaOp := ⟨3, k, a, 0, 32, 1, w, false, 0, 0, 0, 1, false, 0⟩

/-- A channel 0 that holds descriptors. -/
def withDma (s : State) (l : List DmaOp) : State := updCore s 0 fun x => { x with dma := [(0, l)] }

theorem test_witness_ControlFlow :
    (∀ n ∈ List.range 6, issues0 (.br (sc n 0xFFFFFFFF)) = true)
    ∧ issues0 (.call (sc 0 1)) = true ∧ issues0 (.jr (sc 0 0)) = true
    ∧ issuesNow ends 0 .endk = true ∧ kindsDone (coreAt ends 0) 0xFF = true ∧ (coreAt ends 0).owner = some (1, 0)
    ∧ (itemAt ends 1 0).map (fun i => (i.phase, i.waitCores, i.runCores)) = some (.running, [], [0])
    ∧ (let s := withDma ends [dma1 .dmv 0 false]; issuesNow s 0 .endk = true ∧ kindsDone (coreAt s 0) 0xFF = false)
    ∧ issues0 (.fence 0xFF) = true ∧ kindsDone (coreAt (running (.fence 0xFF) [] []) 0) 0xFF = true
    ∧ (let s := withDma (running (.fence 1) [] []) [dma1 .dmv 0 false]; issuesNow s 0 (.fence 1) = true ∧ kindsDone (coreAt s 0) 1 = false)
    ∧ (∀ any ∈ [false, true], let f : WaitcF := ⟨2, 0, any, true⟩; let s := running (.waitc f) [(2, 5)] [];
      issuesNow s 0 (.waitc f) = true ∧ eventsReady (coreAt s 0).events (BitVec.ofNat 64 (sval s 0 2)) any = false
        ∧ (let t := updCore s 0 fun x => { x with events := 5 };
          issuesNow t 0 (.waitc f) = true ∧ eventsReady (coreAt t 0).events (BitVec.ofNat 64 (sval t 0 2)) any = true)) := by
  decide +kernel

theorem test_witness_CoreControlRegisters :
    issues0 (.csrr ⟨1, 0, 0, 0, 0x0FF⟩) = true
    ∧ (∀ n ∈ [0x041, 0x040, 0x010, 0x013, 0x014, 0x021, 0x000], issues0 (.csrw ⟨0, 1, 0, 0, n⟩) = true)
    ∧ 0x000 ∉ [0x010, 0x011, 0x012, 0x013, 0x014, 0x020, 0x021, 0x022, 0x040, 0x041]
    ∧ (let f : SignalF := ⟨2, 9, true⟩; let s := running (.signal f) [(2, 0x20000000000)] [];
      issuesNow s 0 (.signal f) = true ∧ resolve s (sval s 0 f.a) = .sram 0 0)
    ∧ issues0 (.phint 0 7) = true ∧ issues0 (.phint 15 0xFFFF) = true := by decide +kernel

/-- A DMA instruction with its length in s3, over a channel that holds descriptors. -/
def dmaNow (k : DmaKind) (n held : Nat) : Bool :=
  let f : DmaF := ⟨1, 2, 3, 0, 63, false, 0, 0⟩
  let w := match k with
    | .dmv => TileInstr.dmv f
    | .dms => TileInstr.dms f
    | .dmr => TileInstr.dmr f
    | .dmh => TileInstr.dmh f
  let s := withDma (running w [(3, BitVec.ofNat 64 n)] []) (List.replicate held (dma1 .dmv 0 false))
  issuesNow s 0 w && (dmaOp s 0 k f).bytes == n && (channel s 0 0).length == held && (coreAt s 0).order.isEmpty
    && (held != 0 || n == 0 || unordered (coreAt (afterDrain s) 0) (some (.dma 0)) [] (dmaSpans (dmaOp s 0 k f)) == some 22)

theorem test_witness_DmaTransfers :
    (∀ k ∈ [DmaKind.dmv, .dms, .dmr, .dmh], dmaNow k 0 8 = true ∧ dmaNow k 32 0 = true ∧ dmaNow k 32 7 = true ∧ dmaNow k 32 8 = true)
    ∧ (∀ o ∈ [dma1 .dmv 0 false, dma1 .dms 0 true, dma1 .dmr 0x20001000000 false, dma1 .dmh hostAddr true],
      let s := withDma (coreOn inJob) [o];
      powered s = true ∧ domOn s ⟨.core, 0⟩ = true ∧ nextDma s 0 0 = some o ∧ dmaOk s 0 o = true ∧ dmaRaces s 0 0 o = false)
    ∧ (let o := dma1 .dmv 1 false; let s := withDma (coreOn inJob) [o]; nextDma s 0 0 = some o ∧ dmaOk s 0 o = false)
    ∧ (let o := dma1 .dmv 0 false; let s := withDma (coreOn inJob) [{ o with seq := 2, started := true, left := 1 }, o];
      powered s = true ∧ domOn s ⟨.core, 0⟩ = true ∧ nextDma s 0 0 = some o ∧ dmaOk s 0 o = true ∧ dmaRaces s 0 0 o = true)
    ∧ nextDma inJob 0 0 = none := by decide +kernel

/-- A tile of one line of 32 elements at an offset. -/
def tile (fmt base : Nat) : TileDesc := ⟨base, 32, 1, fmt, false, 32, 0, 0, 0, false⟩

/-- A FEED of one row and one column over one K-block. -/
def feed1 (fa fb : Nat) : FeedOp := ⟨5, tile fa 0, tile fb 64, 0, 32, 0, 0, 0, false, false, false, 0, 1, 1⟩

/-- Core 0 with a feed queue. -/
def withFeedQ (s : State) (l : List FeedItem) : State := updCore s 0 fun x => { x with feedQ := l }

/-- What the test reads of FEED_START. -/
def feedStarts (o : FeedOp) : Bool × Bool × Bool :=
  let s := withFeedQ (coreOn inJob) [.feed o]
  (powered s && nextFeed s 0 == some o && fmtOperand o.a.fmt && fmtOperand o.b.fmt, feedOk o, (feedPasses o).isSome)

theorem test_witness_FeedIssue :
    (∀ o ∈ [0, 0x7FFFE0], issues0 (.tdesc ⟨15, 0, o⟩) = true ∧ add64 0 (immExt o) + 32 ≤ 0x800000 ∧ add64 0 (immExt o) % 32 = 0
        ∧ (coreAt (running (.tdesc ⟨15, 0, o⟩) [] []) 0).order = [])
    ∧ issues0 (.tdesc ⟨0, 0, 0x7FFFE8⟩) = true ∧ 0x800000 < add64 0 (immExt 0x7FFFE8) + 32
    ∧ issues0 (.tdesc ⟨0, 0, 16⟩) = true ∧ add64 0 (immExt 16) + 32 ≤ 0x800000 ∧ add64 0 (immExt 16) % 32 ≠ 0
    ∧ issues0 (.tadj ⟨3, 1, 2⟩) = true
    ∧ (let f : FeedF := ⟨0, 1, 0, 0, 0, 0, false, false, false, 0⟩;
      (∀ n ∈ [0, 3, 4], let s := withFeedQ (running (.feed f) [] [(0, tile 4 0), (1, tile 4 64)]) (List.replicate n (.feed (feed1 4 4)));
        issuesNow s 0 (.feed f) = true ∧ (coreAt s 0).feedQ.length = n ∧ (coreAt s 0).order = []))
    ∧ feedStarts (feed1 4 4) = (true, true, true) ∧ (feedStarts { feed1 4 4 with kn := 0 }) = (true, true, true)
    ∧ (feedStarts (feed1 14 4)).1 = false ∧ nextFeed (withFeedQ (coreOn inJob) [.feed (feed1 14 4)]) 0 = some (feed1 14 4)
    ∧ fmtOperand 14 = false
    ∧ feedStarts { feed1 4 4 with k0 := 1 } = (true, false, true) ∧ feedStarts (feed1 0 10) = (true, true, false)
    ∧ nextFeed inJob 0 = none := by decide +kernel

/-- Core 0 runs a FEED of one pass block, its cell in a state, under a permit of 16. -/
def feeding (e : Cell) : State :=
  updCore (regSet (coreOn inJob) (coreReg 0 0x128) 16) 0 fun x => { x with feedRun := some ⟨feed1 4 4, 1⟩, cells := [(0, e)] }

/-- A DRAIN of one row of FP32. -/
def drain1 (fmt row : Nat) : DrainOp := ⟨2, tile fmt 0, row, 0, 0, 0, 0, 0, none, none⟩

/-- Core 0 with a drain queue. -/
def withDrainQ (s : State) (l : List DrainItem) : State := updCore s 0 fun x => { x with drainQ := l }

theorem test_witness_DigitArrayAndDrain :
    (let s := feeding ⟨0, 0, none, none⟩;
      powered s = true ∧ (coreAt s 0).feedRun = some ⟨feed1 4 4, 1⟩ ∧ blockReady s 0 0 0 = true ∧ blockReady s 0 0 1 = false
        ∧ laneBuf (coreAt s 0) 0 0 = none)
    ∧ (let s := feeding ⟨1, 0, some ⟨7, 0, 0, 0⟩, none⟩;
      (coreAt s 0).feedRun = some ⟨feed1 4 4, 1⟩ ∧ laneBuf (coreAt s 0) 0 0 = some ⟨7, 0, 0, 0⟩ ∧ blockReady s 0 0 0 = false
        ∧ accHeld s 0 5 (feedMode s 0 (feed1 4 4)) 0 0 = false
        ∧ accHeld (withDrainQ s [.drain (drain1 12 0)]) 0 5 (feedMode s 0 (feed1 4 4)) 0 0 = true)
    ∧ (⟨[], [], [], true, false⟩ : KLine).bad = true
    ∧ (let f : DrainF := ⟨0, 0, 0, 0, 0, 0, false, false, 0⟩;
      (∀ n ∈ [0, 3, 4], let s := withDrainQ (running (.drain f) [] [(0, tile 12 0)]) (List.replicate n (.drain (drain1 12 0)));
        issuesNow s 0 (.drain f) = true ∧ (coreAt s 0).drainQ.length = n ∧ (coreAt s 0).order = []))
    ∧ (∀ o ∈ [drain1 12 0, drain1 12 127], let s := withDrainQ (coreOn inJob) [.drain o];
      powered s = true ∧ nextDrain s 0 = some (.drain o) ∧ fmtOperand o.d.fmt = true ∧ drainOk s (tileOf s 0 o.seq).fc o = true)
    ∧ (let o := drain1 14 0; let s := withDrainQ (coreOn inJob) [.drain o]; nextDrain s 0 = some (.drain o) ∧ fmtOperand o.d.fmt = false)
    ∧ (let o := { drain1 12 0 with row := 128 }; let s := withDrainQ (coreOn inJob) [.drain o];
      nextDrain s 0 = some (.drain o) ∧ fmtOperand o.d.fmt = true ∧ drainOk s (tileOf s 0 o.seq).fc o = false)
    ∧ (let s := updCore inJob 0 fun x => { x with drainWait := some ⟨2, true⟩ }; powered s = true ∧ drainEnds s 0 = true)
    ∧ drainEnds inJob 0 = false := by decide +kernel

/-- A REDS of one FP32 line of two elements to the SRAM of core 1, with the tag 7 of one contribution. -/
def redsState (f : RedsF) : State := running (.reds f) [(1, 0x20001000000), (2, 0x100000007)] [(0, { tile 12 0 with len := 2 })]

/-- A VOP that adds two FP32 tiles. -/
def vop1 (fn : Nat) : VopOp := ⟨4, tile 12 128, tile 12 0, tile 12 256, 0, fn, false⟩
def withVopQ (s : State) (l : List VopOp) : State := updCore s 0 fun x => { x with vopQ := l }

/-- An ATB of one row over head dimension 32: FP8 operands, and output and statistics apart from them. -/
def atb1 : AtbOp :=
  { seq := 4, q := ⟨0, 32, 1, 6, true, 32, 0x10000, 16, 0, false⟩, k := ⟨0x1000, 32, 64, 6, true, 32, 0x11000, 16, 0, false⟩
    v := ⟨0x2000, 64, 32, 6, true, 64, 0x12000, 16, 0, false⟩, o := ⟨0x3000, 32, 1, 12, false, 128, 0, 0, 0, false⟩
    m := 0x4000, maskAt := 0, pfmt := 0, kind := 0, scale := 0x3F800000, rowmask := 1, colmask := 1 }

/-- Core 0 with an ATB at the front of its feed queue, under a permit of 16. -/
def withAtb (o : AtbOp) : State := withFeedQ (regSet (coreOn inJob) (coreReg 0 0x128) 16) [.atb o]

theorem test_witness_ReduceVectorAttention :
    (let f : RedsF := ⟨1, 2, 0, false, 0, 0, 3, 5⟩; let s := redsState f;
      issuesNow s 0 (.reds f) = true ∧ good (redsTile s 0 (redsOp s 0 f) (treg s 0 f.t)) = true)
    ∧ (let f : RedsF := ⟨1, 2, 0, true, 2, 0, 3, 5⟩; ∀ n ∈ [0, 3, 4],
      let s := withDrainQ (redsState f) (List.replicate n (.drain (drain1 12 0)));
      issuesNow s 0 (.reds f) = true ∧ (coreAt s 0).drainQ.length = n)
    ∧ (let s := updCore inJob 0 fun x => { x with outgoing := [⟨1, 1, 7, 0⟩, ⟨2, 0, 3, 5⟩] };
      powered s = true ∧ redsEnded s 0 = some ⟨2, 0, 3, 5⟩)
    ∧ redsEnded inJob 0 = none
    ∧ (let s := running (.redw 2) [(2, 7)] []; let t := updCore s 0 fun x => { x with tags := [7] };
      issuesNow s 0 (.redw 2) = true ∧ sval s 0 2 % 2 ^ 32 ∉ (coreAt s 0).tags
        ∧ issuesNow t 0 (.redw 2) = true ∧ sval t 0 2 % 2 ^ 32 ∈ (coreAt t 0).tags ∧ (coreAt t 0).heldTags = [])
    ∧ (let f : VopF := ⟨0, 1, 2, 3, 0, false⟩; ∀ n ∈ [0, 7, 8],
      let s := withVopQ (running (.vop f) [] [(0, tile 12 128), (1, tile 12 0), (2, tile 12 256)]) (List.replicate n (vop1 0));
      issuesNow s 0 (.vop f) = true ∧ (coreAt s 0).vopQ.length = n ∧ (coreAt s 0).order = [])
    ∧ (∀ n ∈ [0, 11, 12, 16], let s := withVopQ (coreOn inJob) [vop1 n];
      powered s = true ∧ domOn s ⟨.core, 0⟩ = true ∧ (coreAt s 0).vopQ = [vop1 n] ∧ vopOk (vop1 n) = true)
    ∧ vopOk (vop1 14) = false ∧ vopOk { vop1 14 with d := { tile 12 128 with len := 1 } } = true
    ∧ (let f : AtbF := ⟨0, 1, 2, 3, 4, 5, 0, 0, 6⟩; ∀ n ∈ [0, 3, 4],
      let s := withFeedQ (running (.atb f) [] [(0, atb1.q), (1, atb1.k), (2, atb1.v), (3, atb1.o)]) (List.replicate n (.atb atb1));
      issuesNow s 0 (.atb f) = true ∧ (coreAt s 0).feedQ.length = n ∧ (coreAt s 0).order = [])
    ∧ powered (withAtb atb1) = true ∧ nextAtb (withAtb atb1) 0 = some atb1 ∧ atbOk atb1 = true
    ∧ (let o := { atb1 with m := 0x4001 }; nextAtb (withAtb o) 0 = some o ∧ atbOk o = false)
    ∧ (let o := { atb1 with kind := 1, maskAt := 16 }; nextAtb (withAtb o) 0 = some o ∧ atbOk o = true)
    ∧ nextAtb inJob 0 = none ∧ ∀ j, j < 64 → (fun _ : Nat => true) j = true := by
  refine ⟨?_, ?_, ?_, ?_, ?_, ?_, ?_, ?_, ?_, ?_, ?_, ?_, ?_, ?_, ?_, ?_, fun _ _ => rfl⟩ <;> decide +kernel

/-- No mask is read under the kind 0, and a mask operand must be aligned. -/
theorem test_witness_masks (m : MaskRec) : maskOk atb1 m = true ∧ maskOk { atb1 with kind := 1, maskAt := 16 } m = false := by
  simp [maskOk, atb1]

/-! ### Row programs -/

/-- A job whose vault 0 runs a row program of one micro-instruction for item 0 of queue 1, with bank 0 in its first bank set. -/
def rowState (i : RowInstr) : State :=
  updRow (withQueue (workQ [{ item (.rowRun hostAddr 256 0 hostAddr) .running with waitVaults := [0] }])) 0 fun u =>
    loadRow u ⟨1, 0, [BitVec.ofNat 32 (encodeRow i)], [], [1, 0, 0, 0]⟩

/-- `IssuesRow` on vault 0, as a test. -/
def rowNow (s : State) (i : RowInstr) : Bool := powered s && okAnd (rowNext (rowUnitAt s 0)) fun n => n == some i

theorem rowNow_spec {s : State} {i : RowInstr} (h : rowNow s i = true) : IssuesRow s 0 i := by
  simp only [rowNow, okAnd, Bool.and_eq_true] at h
  refine ⟨h.1, ?_⟩
  cases e : rowNext (rowUnitAt s 0) with
  | error f => rw [e] at h; simp at h
  | ok n => rw [e] at h; rw [beq_iff_eq.mp h.2]

/-- A pending row operation on row 0. -/
def pend (o : RowOp) : RowPend := ⟨o, 0, 0, 0, 0⟩

/-- The registers, the queues of the banks and the waiting program of vault 0. -/
def withRow (s : State) (f : RowUnit → RowUnit) : State := updRow s 0 f

theorem test_witness_RowIssue :
    (∀ o ∈ [RowOp.copy, .zero, .one, .not, .xor, .and, .or, .maj3, .recode false, .recode true],
      let i := RowInstr.op o ⟨0, 0, 0, 0, 0⟩;
      let s := rowState i;
      rowNow s i = true ∧ rowInRange o (pend o) = true ∧ rowRoom (rowUnitAt s 0) 0 = true ∧ rowBanks (rowUnitAt s 0) 0 = [0]
        ∧ (let t := withRow s fun u => { u with banks := [(0, List.replicate 8 (pend o))] };
          rowNow t i = true ∧ rowRoom (rowUnitAt t 0) 0 = false)
        ∧ (let t := withRow s fun u => { u with r := List.replicate 8 3072 };
          rowNow t i = true ∧ rowInRange o ⟨o, rowReg (rowUnitAt t 0) 0, 0, 0, 0⟩ = false)
        ∧ (let t := withRow s fun u => { u with r := List.replicate 8 3071 };
          rowInRange o ⟨o, rowReg (rowUnitAt t 0) 0, rowReg (rowUnitAt t 0) 0, rowReg (rowUnitAt t 0) 0, 0⟩ = true))
    ∧ (let s := updRow (rowState .endp) 0 fun u => { RowUnit.reset with waiting := [⟨1, 0, u.prog, [], []⟩] };
      rowNow s .endp = true ∧ (vaultAt s 0).row.job = none) := by decide +kernel

/-- Row 0 of bank 0 of vault 0 filled with a byte. -/
def filledRow (b : Byte) : State := { inJob with mem := storeBytes [] (rowKeyAt 0 0 0) (List.replicate 2048 b) }

theorem filledRow_find (b : Byte) (i : Nat) (h : i < 2048) : FMap.find (filledRow b).mem (rowKeyAt 0 0 0 + i) = some b := by
  rw [filledRow, find_storeBytes, List.length_replicate, if_pos (by omega), Nat.add_sub_cancel_left, List.getElem?_replicate,
    if_pos h]

/-- A pending operation at the front of bank 0 of vault 0, over a mark of its row. -/
def pends (o : RowOp) (m : Option Mark) : State :=
  let s := updRow inJob 0 fun u => { u with banks := [(0, [pend o])] }
  { s with marks := (m.map fun x => (rowKeyAt 0 0 0, x)).toList }

theorem test_witness_RowBanksCompute :
    (∀ o ∈ [RowOp.copy, .zero, .one, .not, .xor, .and, .or, .maj3, .recode false, .recode true],
      let s := pends o none;
      powered s = true ∧ FMap.getD (vaultAt s 0).row.banks 0 [] = [pend o] ∧ good (applyRow s 0 0 (pend o)) = true)
    ∧ FMap.getD (vaultAt inJob 0).row.banks 0 [] = []
    ∧ Memory.wf inJob.mem = true
    ∧ (∀ w ∈ List.range 64, FMap.find (filledRow 5).marks (rowKeyAt 0 0 0 + 32 * w) = none)
    ∧ (let s := pends .not (some .poison);
      FMap.getD (vaultAt s 0).row.banks 0 [] = [pend .not] ∧ 0 ∈ rowSources .not (pend .not)
        ∧ poisonedRow s (rowKeyAt 0 0 0) = true)
    ∧ (let s := pends (.recode true) (some .badCheck);
      FMap.getD (vaultAt s 0).row.banks 0 [] = [pend (.recode true)] ∧ poisonedRow s (rowKeyAt 0 0 0) = false
        ∧ invalidRow s (rowKeyAt 0 0 0) = true) := by decide +kernel

theorem test_witness_RowProgramControl :
    (∀ i ∈ [0, 7], let x := RowInstr.set false i true 7; rowNow (rowState x) x = true ∧ i < (rowUnitAt (rowState x) 0).r.length)
    ∧ (∀ i ∈ [0, 3], let x := RowInstr.set true i false 0xFFFF; rowNow (rowState x) x = true ∧ i < (rowUnitAt (rowState x) 0).c.length)
    ∧ (let x := RowInstr.add 7 0xFFFF; rowNow (rowState x) x = true ∧ 7 < (rowUnitAt (rowState x) 0).r.length)
    ∧ (let x := RowInstr.loop 3 0; let s := rowState x; let t := withRow s fun u => { u with c := List.replicate 4 1 };
      rowNow s x = true ∧ 3 < (rowUnitAt s 0).c.length ∧ rowCtr (rowUnitAt s 0) 3 = 0 ∧ rowNow t x = true ∧ rowCtr (rowUnitAt t 0) 3 ≠ 0)
    ∧ (let s := rowState .endp;
      rowNow s .endp = true ∧ (rowUnitAt s 0).job = some (1, 0) ∧ (rowUnitAt s 0).banks = []
        ∧ (itemAt s 1 0).map (fun i => (i.phase, i.waitVaults)) = some (.running, [0])
        ∧ (let t := withRow s fun u => { u with banks := [(0, [pend .zero])] };
          rowNow t .endp = true ∧ (rowUnitAt t 0).job = some (1, 0) ∧ (rowUnitAt t 0).banks ≠ []))
    ∧ (let s := updItem (rowState .endp) 1 0 fun i => { i with waitVaults := [0, 5] };
      rowNow s .endp = true ∧ (itemAt s 1 0).map (fun i => (i.phase, i.waitVaults)) = some (.running, [0, 5]))
    ∧ good (rowNext (rowUnitAt inJob 0)) = true ∧ (rowUnitAt inJob 0).job = none := by decide +kernel

theorem test_witness_wordsWellFormed :
    (TileInstr.alu ⟨31, 31, 31, 15, 0xFFFFFFFF⟩).wf = true ∧ tileAllowed (.alu ⟨31, 31, 31, 15, 0xFFFFFFFF⟩) = true
    ∧ decodeTile 0x0308000000000005 = some (.li ⟨1, 0, 0, 0, 5⟩)
    ∧ (RowInstr.loop 3 255).wf = true ∧ rowAllowed (.loop 3 255) = true ∧ decodeRow 0xCC010000 = some (.loop 3 1) := by decide +kernel

/-! ### Registers and the host -/

/-- The register's block is On, it exists, nothing bars the write, and it is not the initialisation of a page unit. -/
def writable (s : State) (a : Nat) : Bool :=
  powered s && barUp s && inRegs a && !blockOff s a && (regSpec (a / 8 * 8)).isSome && (writeBars (crossFabric s a) a).isNone
    && a / 8 * 8 != pguReg (regSheaf a) 8

theorem test_witness_RegisterAccesses :
    (∀ a ∈ [hubReg 0x48, hubReg 0x4C, sheafWin 7 0x1000018],
      writable (up .ready) a = true ∧ a % 4 = 0 ∧ pathReg (up .ready) (.addr a) = some a)
    ∧ writable (up .ready) (rngReg 7 8) = true ∧ rngReg 7 8 % 8 = 0 ∧ isLogEntry (rngReg 7 8) = false
    ∧ (let s := regSet (up .ready) (rngReg 7 8) 7; bit (regGet s (rngReg 7 8)) 1 = true)
    ∧ isLogEntry (slogReg 0 0x40) = true ∧ writable (up .ready) (slogReg 0 0x40) = true
    ∧ inRegs 0x30000000000 = true ∧ inRegs 0x30FFFFFFFFF = true ∧ 0x30000000001 % 4 ≠ 0
    ∧ (let s := up .ready; let a := hubReg 0x38; barUp s = true ∧ inRegs a = true ∧ blockOff s a = false ∧ regSpec a = none)
    ∧ (let s := inJob; let a := hubReg 0x44;
      barUp s = true ∧ inRegs a = true ∧ blockOff s a = false ∧ (regSpec (a / 8 * 8)).isSome = true ∧ writeBars (crossFabric s a) a = some 4)
    ∧ (let s := up .ready; let a := pguReg 7 8;
      barUp s = true ∧ inRegs a = true ∧ blockOff s a = false ∧ (regSpec (a / 8 * 8)).isSome = true
        ∧ writeBars (crossFabric s a) a = none ∧ a / 8 * 8 = pguReg (regSheaf a) 8 ∧ a % 8 = 0 ∧ bit 1 0 = true
        ∧ good (initUnit (crossFabric s a) (regSheaf a)) = true ∧ bit 2 0 = false) := by decide +kernel

/-- The offsets at the ends of what BAR0 holds, and the addresses that its apertures reach. -/
theorem test_witness_RegisterPaths :
    (∀ off ∈ [0x040000, 0x0FFFFF, 0x188100, 0x1FFFFF, 0x201000, 0x2FFFFF, 0x380000, 0xFFFFFF, 0x4000000], bar0 (up .ready) off = .nothing)
    ∧ bar0 (up .ready) 0x200FFF = .status 0xFFF ∧ bar0 (up .ready) 0x300000 = .counters 0 0 ∧ bar0 (up .ready) 0x37FFFF = .counters 7 0xFFFF
    ∧ pathReg (up .ready) (.bar0 0x1000000) = some (sheafWin 0 0x1000000) ∧ pathReg (up .ready) (.bar0 0x1FFFFFF) = some (sheafWin 7 0x11FFFFF)
    ∧ (let s := regSet (up .ready) (hubReg 0x48) 0x53;
      pathReg s (.bar0 0x2000000) = some (sheafWin 3 0) ∧ pathReg s (.bar0 0x2FFFFFF) = some (sheafWin 3 0xFFFFFF)
        ∧ pathReg s (.bar0 0x3000000) = some (sheafWin 5 0) ∧ pathReg s (.bar0 0x3FFFFFF) = some (sheafWin 5 0xFFFFFF))
    ∧ (let s := up .ready; let a := coreReg 1023 8; inRegs a = true ∧ blockOff s a = true ∧ a % 8 = 0)
    ∧ (let s := up .ready; powered s = true ∧ barUp s = true ∧ blockOff s (hubReg 0x50008) = false)
    ∧ (let s := setDom (up .ready) ⟨.time, 0⟩ { domAt (up .ready) ⟨.time, 0⟩ with st := .off };
      barUp s = true ∧ blockOff s (hubReg 0x50008) = true)
    ∧ (let s := { up .ready with host := { (up .ready).host with ptmEnable := true } };
      powered s = true ∧ s.boot.pcieHeld = false ∧ s.host.ptmEnable = true)
    ∧ (up .ready).host.ptmEnable = false ∧ barUp (booting .rom) = false := by decide +kernel

/-- A run of snapshots in the host window, of 4 slots, with the tail and the head. -/
def snapping (tail head : Nat) : State :=
  let s := regSetFld (regSetFld (up .ready) (pmcReg 0 0x30) 15 0 tail) (pmcReg 0 0x38) 15 0 head
  { s with pmc := { s.pmc with run := some ⟨⟨0, 0, 1, 1000, 0, hostAddr, 4⟩, 64, 0, 0, 0⟩ } }

/-- A cause. -/
def cause1 : Cause := ⟨3, 0, 5, 0, 0, 0xFFFF, 0⟩

/-- The device with a cause detected. -/
def detected1 (d : DevState) : State := { up d with fault := { (up d).fault with detected := [cause1] } }

theorem foldl_wq {α : Type} (f : State → α → State) (h : ∀ s a, (f s a).wq = s.wq) (l : List α) (s : State) : (l.foldl f s).wq = s.wq := by
  induction l generalizing s with
  | nil => rfl
  | cons a l ih => rw [List.foldl_cons, ih, h]

theorem ite_wq {c : Prop} [Decidable c] {a s : State} (h : a.wq = s.wq) : (if c then a else s).wq = s.wq := by
  split
  · exact h
  · rfl

theorem loseRow_wq (v : Nat) (s : State) (k : Nat) : (loseRow v s k).wq = s.wq := rfl

theorem loseRows_wq (s : State) (i : Item) : (loseRows s i).wq = s.wq := by
  rw [loseRows]
  split
  · rfl
  · exact foldl_wq _ (fun s v => foldl_wq _ (loseRow_wq v) _ s) _ s

theorem dropOwned_wq (s : State) (c : Nat) : (dropOwned s c).wq = s.wq := by
  simp [dropOwned, bump, updVault, setVault, setInjectQ]

theorem haltCore_wq (s : State) (c : Nat) : (haltCore s c).wq = s.wq := by rw [haltCore, dropOwned_wq]; rfl

theorem stopAt_wq (s : State) (v : Nat) : (updRow (stopRow s v) v fun r => { r with waiting := [] }).wq = s.wq := rfl

theorem staleAll_wq (s : State) : (staleAll s).wq = s.wq := by
  rw [staleAll]
  exact foldl_wq _ (by intros; rfl) _ s

/-- The quiesce of the units changes no queue. -/
theorem quiesceUnits_wq (s : State) : (quiesceUnits s).wq = s.wq := by
  rw [quiesceUnits, staleAll_wq]
  rw [foldl_wq, foldl_wq, foldl_wq]
  · exact fun s c => ite_wq (haltCore_wq s c)
  · exact fun s v => ite_wq (stopAt_wq s v)
  · exact fun s i => ite_wq (loseRows_wq s i)

/-- A primary fault without queues has an end. -/
theorem test_witness_primaryFault : good (takeCause (up .job) cause1) = true := by
  have h : workQueues (quiesceUnits (event (up .job) (hubReg 0x70) 0 (hubReg 0x78))) = [] := by
    rw [workQueues, quiesceUnits_wq]; rfl
  have e : (up .job).fault.primary = none ∧ (up .job).boot.dev = .job := ⟨rfl, rfl⟩
  simp only [takeCause, e, if_true, primaryFault, h, List.foldlM_nil]
  rfl

theorem test_witness_ObservationAndFault :
    (let s := snapping 3 0;
      powered s = true ∧ s.pmc.run.isSome = true ∧ 0 ≤ nowNs s ∧ (regFld s (pmcReg 0 0x30) 15 0 + 1) % 4 = regFld s (pmcReg 0 0x38) 15 0)
    ∧ (let s := snapping 3 1;
      (regFld s (pmcReg 0 0x30) 15 0 + 1) % 4 ≠ regFld s (pmcReg 0 0x38) 15 0 ∧ good (devWrite s (hostAddr + 192) (zeros 64)) = true)
    ∧ (up .ready).pmc.run = none
    ∧ (let s := detected1 .ready;
      powered s = true ∧ s.fault.detected ≠ [] ∧ okAnd (takeCauses s) (fun u => u.pails.busy.isNone && u.pails.deferred.isEmpty) = true)
    ∧ (up .ready).fault.detected = []
    ∧ (let s := up .ready;
      coreEnabled s 1023 = true ∧ okAnd (takeCauses (detect (regFlag s (coreReg 1023 8) 4 true) ⟨0x02, 0, 1023, 0, 0, 0xFFFF, 0⟩))
        (fun u => u.pails.busy.isNone && u.pails.deferred.isEmpty) = true)
    ∧ (∀ n ∈ [0, 1], okAnd (takeCauses (detect (up .ready) ⟨0x07, n, 0xFFFF, 0, 0, 0xFFFF, 0⟩))
        (fun u => u.pails.busy.isNone && u.pails.deferred.isEmpty) = true)
    ∧ (up .job).fault.primary = none ∧ (up .job).boot.dev = .job ∧ cause1.code < 256
    ∧ (let s := { up .faulted with fault := { (up .faulted).fault with primary := some 9 } }; s.fault.primary = some 9)
    ∧ (let s := { up .ready with boot := { (up .ready).boot with perst := true } };
      powered s = true ∧ s.boot.perst = true ∧ anyLinkOn s = false)
    ∧ (up .ready).boot.perst = false ∧ (up .ready).boot.straps.testmode = false
    ∧ (let s := { up .ready with boot := { (up .ready).boot with straps := { (up .ready).boot.straps with testmode := true } } };
      powered s = true ∧ s.boot.straps.testmode = true) := by decide +kernel

/-- A request of core 0 to the host waits for its completion. -/
def hostReq (wr : Bool) : State := { inJob with rings := { inJob.rings with out := [(3, .host 0 0 0 0 0 32 wr)] } }

theorem test_witness_HostAccesses :
    (let s := booting .configReady; powered s = true ∧ s.boot.pcieHeld = false ∧ s.boot.dev = .boot)
    ∧ (up .ready).boot.pcieHeld = false ∧ (up .ready).boot.dev ≠ .boot
    ∧ (let s := { up .ready with mem := cells 0 (zeros 32), boot := { (up .ready).boot with stripe := [0] } };
      powered s = true ∧ barUp s = true ∧ bar2Ok s = true ∧ 0 + 32 ≤ 2 ^ s.host.bar2Log)
    ∧ (let s := { up .ready with mem := cells 0 (zeros 32), boot := { (up .ready).boot with stripe := [0] } };
      let a := 0x10000000000 + regFld s (hubReg 0x50) 8 0 * 2 ^ 30;
      good (stopRead s (some hostStop) a 32) = true ∧ good (stopWrite s (some hostStop) a (zeros 32)) = true)
    ∧ (let s := { regSet (up .ready) (hubReg 0x50) 1 with host := { (up .ready).host with bar2Log := 31 } };
      powered s = true ∧ barUp s = true ∧ bar2Ok s = false ∧ (bar2Span (.read 0 32)).1 + (bar2Span (.read 0 32)).2 ≤ 2 ^ s.host.bar2Log)
    ∧ 2 ^ (up .ready).host.bar2Log < (bar2Span (.read (2 ^ 39) 32)).1 + (bar2Span (.read (2 ^ 39) 32)).2
    ∧ (∀ wr ∈ [false, true], FMap.find (hostReq wr).rings.out 3 = some (.host 0 0 0 0 0 32 wr) ∧ powered (hostReq wr) = true)
    ∧ (zeros 32).length = 32 ∧ FMap.find inJob.rings.out 3 = none
    ∧ (let s := { up .ready with host := { (up .ready).host with pendingBits := [2047], msixEnable := true, busMaster := true } };
      powered s = true ∧ barUp s = true ∧ 2047 ∈ s.host.pendingBits ∧ s.host.msixEnable = true ∧ s.host.busMaster = true)
    ∧ (let s := { up .ready with host := { (up .ready).host with pendingBits := [0], msixEnable := true } };
      powered s = true ∧ barUp s = true ∧ 0 ∈ s.host.pendingBits ∧ s.host.msixEnable = true ∧ s.host.busMaster = false)
    ∧ 2047 ∉ (up .ready).host.pendingBits := by decide +kernel

/-! ### Rings -/

/-- A packet of 32 bytes from core 1 to the stop of core 0, on ring 0 in class 0 under the tag 5. -/
def pkt (ty : PType) (a : Nat) : Packet := { plainPacket ty 0 0 (coreStop 1) (coreStop 0) 5 a 32 with data := zeros 32 }

/-- A packet on the rings, and what waits for its tag. -/
def fly (s : State) (p : Packet) (o : List (Nat × OutReq)) : State :=
  { s with rings := { s.rings with flight := [(3, p)], nextId := 4, out := o } }

/-- `Arrives` at a stop that is no link's, as a test. -/
def arrivesNow (s : State) (p : Packet) (ty : PType) : Bool :=
  powered s && flightAt s 3 == some p && p.ty == ty && accepts s 3 p && !ejected s 3 p
    && (toCore s p).all (fun c => direct s c p) && notLink p

theorem arrivesNow_spec {s : State} {p : Packet} {ty : PType} (h : arrivesNow s p ty = true) : Arrives s 3 p ty ∧ notLink p = true := by
  simp only [arrivesNow, Bool.and_eq_true, beq_iff_eq, Bool.not_eq_true'] at h
  obtain ⟨⟨⟨⟨⟨⟨a, b⟩, c⟩, d⟩, e⟩, f⟩, g⟩ := h
  refine ⟨⟨a, b, c, d, e, fun k hk => ?_⟩, g⟩
  simpa [hk] using f

/-- A packet waits at the stop of core 0. -/
def queued (p : Packet) : State := { up .job with rings := { (up .job).rings with inject := [(4 * coreStop 0, [p])] } }

/-- Every lane that enters sheaf 1 is retired. -/
def noLanes (s : State) : State :=
  { s with rings := { s.rings with lanes := (List.range 64).map fun k => (k, ⟨false, false, 0, 0⟩) } }

/-- A lane of sheaf 7, gateway B, ring 3 in a state. -/
def lane1 (x : Lane) : State := { up .ready with rings := { (up .ready).rings with lanes := [(63, x)] } }

/-- A packet waits at the stop of core 1, which has asked for empty slots, and another at the stop upstream of it. -/
def asking (also : List Nat) : State :=
  let p := { pkt .wr 0 with src := coreStop 1, dst := coreStop 5 }
  let q := { pkt .wr 0 with src := coreStop 1 - 1, dst := coreStop 6 }
  { up .job with rings := { (up .job).rings with
    inject := [(4 * (coreStop 1 - 1), [q]), (4 * coreStop 1, [p])], slotReq := 4 * coreStop 1 :: also } }

theorem test_witness_Injection :
    (let s := queued (pkt .wr 0); stopLive (coreStop 0) = true ∧ powered s = true
      ∧ serveStop s (coreStop 0) 0 = some (pkt .wr 0, []) ∧ domOn s ⟨.fabric, coreStop 0 / 256⟩ = true
      ∧ leavesSlots s (coreStop 0) 0 = false
      ∧ steerPacket s (coreStop 0) (pkt .wr 0) = some (0, false) ∧ s.rings.lanes = [] ∧ injectQ s (coreStop 0) 0 ≠ [] ∧ 4 * coreStop 0 ∉ s.rings.slotReq
      ∧ (pkt .wr 0 ∈ injectQ s (coreStop 0) 0) ∧ mayLeave s (pkt .wr 0) = true)
    ∧ (let p := { pkt .wr 0 with dst := coreStop 128 }; let s := noLanes (queued p);
      serveStop s (coreStop 0) 0 = some (p, []) ∧ leavesSlots s (coreStop 0) 0 = false
        ∧ domOn s ⟨.fabric, 0⟩ = true ∧ steerPacket s (coreStop 0) (aimPacket s (coreStop 0) p) = none)
    ∧ (let s := setDom (queued (pkt .wr 0)) ⟨.fabric, 0⟩ { DomRec.reset .fabric with st := .retention };
      (serveStop s (coreStop 0) 0).isSome = true ∧ domOn s ⟨.fabric, 0⟩ = false ∧ leavesSlots s (coreStop 0) 0 = false)
    ∧ serveStop (up .job) (coreStop 0) 0 = none
    ∧ leavesSlots (asking []) (coreStop 1 - 1) 0 = true ∧ stopLive (coreStop 1 - 1) = true
    ∧ leavesSlots (asking []) (coreStop 1) 0 = false ∧ leavesSlots (asking [4 * (coreStop 1 - 1)]) (coreStop 1 - 1) 0 = false
    ∧ (let s := { queued (pkt .wr 0) with rings := { (queued (pkt .wr 0)).rings with slotReq := [4 * coreStop 0] } };
      4 * coreStop 0 ∈ s.rings.slotReq)
    ∧ (let p := pkt .wr (2 ^ 55 + 9 * 2 ^ 43); resolve (up .job) p.addr = .remote 9 0 ∧ p.ty = .wr) := by decide +kernel

theorem test_witness_RingMovement :
    (let p := pkt .rdReq 0x20000000000; let s := setEject (fly (up .job) p []) (coreStop 0) [8, 9, 10, 11];
      let t := { s with rings := { s.rings with flight := (3, p) :: ([8, 9, 10, 11].map fun k => (k, { p with ty := .wr, bytes := 256, src := coreStop 7, data := zeros 256 })) } };
      powered t = true ∧ flightAt t 3 = some p ∧ p.ty ≠ .mcResp ∧ ejected t 3 p = false ∧ accepts t 3 p = false
        ∧ (turnedOn t p.dst p.ring).length < 16 ∧ ejected t 8 { p with ty := .wr } = true)
    ∧ (let p := pkt .rdReq 0x20000000000; let s := fly (up .job) p [];
      accepts (coreOn s) 3 p = true ∧ ejected s 3 p = false ∧ flightAt s 4 = none ∧ coreStop 0 / 256 < 8 ∧ coreStop 0 % 256 < 137)
    ∧ (let p := pkt .wr 0; let s := fly (up .job) p [];
      let t := { s with rings := { s.rings with turned := [(p.dst, (List.range 16).map fun k => (coreStop (k + 9), 0, 0))] } };
      p.cls = 0 ∧ listFull t p = true ∧ (turnedOn t p.dst p.ring).length = 16 ∧ accepts t 3 p = false ∧ ejected t 3 p = false)
    ∧ (∀ x ∈ [⟨true, false, 16, 0⟩, ⟨true, false, 17, 0⟩, (⟨true, true, 17, 0⟩ : Lane)],
      powered (lane1 x) = true ∧ laneUsed (lane1 x) 7 true 3 = true ∧ laneAt (lane1 x) (recvKey 7 true 3) = x)
    ∧ (∀ n ∈ [2, 2], n ≤ 2) ∧ (∃ n ∈ [0, 3], 2 < n) := by decide +kernel

/-- A job whose vault 0 holds requests on its two inputs. -/
def withReqs (a b : List VReq) (ms : List Merge) : State :=
  updVault (setDom inJob ⟨.vault, 0⟩ { DomRec.reset .vault with st := .on }) 0 fun x => { x with shaftQ := a, ringQ := b, merges := ms }

/-- A write of 32 bytes over the shaft, and a read of 32 or 256 bytes over the rings by core 5. -/
def vWrite : VReq := ⟨true, 0, 32, zeros 32, false, .shaft 0 0 0, 1⟩
def vRead (n : Nat) (merge : Bool) : VReq := ⟨false, 0, n, [], merge, .ring (coreStop 5) 0 0 4 false, 2⟩

/-- A merge entry of block 0. -/
def merge1 (k : Nat) (closed : Bool) (rs : List VReq) : Merge := ⟨k, 0, 0, closed, zeros 256, false, rs⟩

/-- A multicast reply in sheaf 0 for core 0 of it and for core 0 of sheaf 1. -/
def mcPkt : Packet := { pkt .mcResp 0 with sheaf := 0, stopmask := [0], sheafmask := [(1, [0])] }

/-- Vault 0 is On, with its hottest layer at a temperature. -/
def vaultOn (t : Int) : State :=
  let s := setDom (up .ready) ⟨.vault, 0⟩ { DomRec.reset .vault with st := .on }
  { s with thermal := { s.thermal with readings := [(768, t)] } }

/-- Scrub of vault 0 stands at a word. -/
def scrubbing (w : Nat) : State := regSetFld (regSet (vaultOn 40) (vltReg 0 0x30) 0x118) (vltReg 0 0x38) 29 5 w

theorem test_witness_Arrivals :
    (∀ ty ∈ [PType.rdReq, .wr],
      let v := pkt ty 0; let c := pkt ty 0x20000000000; let h := pkt ty hostAddr; let r := pkt ty 0x30000000000; let n := pkt ty 0x50000000000000;
      arrivesNow (fly inJob v []) v ty = true ∧ resolve (fly inJob v []) v.addr = .vault 0 0
      ∧ arrivesNow (fly (coreOn inJob) c []) c ty = true ∧ resolve (fly (coreOn inJob) c []) c.addr = .sram 0 0
      ∧ sramTaken (fly (coreOn inJob) c []) 0 0 32 = none
      ∧ (∀ w ∈ wordsOf 16 0 32, FMap.find (fly (coreOn inJob) c []).marks (sramKey 0 w) = none)
      ∧ arrivesNow (fly inJob h []) h ty = true ∧ resolve (fly inJob h []) h.addr = .host 0
      ∧ (fly inJob h []).host.busMaster = false ∧ writeBarred (fly inJob h []) (hostKey 0) 32 = none
      ∧ (let s := fly (mastered inJob) h [(5, .dma 0 0 0 0 0 32 (ty == .wr))];
        arrivesNow s h ty = true ∧ resolve s h.addr = .host 0 ∧ s.host.busMaster = true ∧ writeBarred s (hostKey 0) 32 = none
          ∧ FMap.find s.rings.out h.txn = some (.dma 0 0 0 0 0 32 (ty == .wr)))
      ∧ arrivesNow (fly inJob r []) r ty = true ∧ resolve (fly inJob r []) r.addr = .reg 0x30000000000
      ∧ arrivesNow (fly inJob n []) n ty = true ∧ resolve (fly inJob n []) n.addr = .none 2)
    ∧ (let p := pkt .wr 0x20000000000;
      let s := fly (updCore (coreOn inJob) 0 fun x => { x with
        dma := [(0, [{ dma1 .dmv 0 false with started := true }])], order := [⟨3, .dma 0, false, none, [], [(0, 32)]⟩] }) p [];
      arrivesNow s p .wr = true ∧ sramTaken s 0 0 32 = some 22)
    ∧ (let p := pkt .wr hostAddr;
      let s := fly (withItem (.winnow (winnow1 1 [])) .running) p [];
      arrivesNow s p .wr = true ∧ resolve s p.addr = .host 0 ∧ writeBarred s (hostKey 0) 32 = some 30)
    ∧ (let p := pkt .rdResp 0; let s := fly (coreOn inJob) p [(5, .dma 0 0 0 0 0 32 false)];
      arrivesNow s p .rdResp = true ∧ FMap.find s.rings.out p.txn = some (.dma 0 0 0 0 0 32 false))
    ∧ (let p := pkt .rdResp 0; arrivesNow (fly inJob p []) p .rdResp = true)
    ∧ (∀ n ∈ [1, 2], let s := withDma inJob [{ dma1 .dmv 0 false with left := n }];
      ((channel s 0 0).find? fun e => e.seq == 3).map (·.left) = some n)
    ∧ (let p := pkt .wrAck 0;
      arrivesNow (fly inJob p [(5, .dma 0 0 0 0 0 32 true)]) p .wrAck = true ∧ arrivesNow (fly inJob p [(5, .sync 1 0)]) p .wrAck = true
        ∧ arrivesNow (fly inJob p [(5, .stoby 0 7)]) p .wrAck = true ∧ arrivesNow (fly inJob p []) p .wrAck = true) := by decide +kernel

/-- Packets for the SRAM of core 0, which sleeps, enter its stop's ejection queue, and wait there until the core is On. -/
theorem test_witness_Ejection :
    (∀ x ∈ [(PType.rdReq, []), (.rdResp, [(5, .dma 0 0 0 0 0 32 false)]), (.wr, []), (.reduce, [])],
      let p := pkt x.1 0x20000000000; let s := fly inJob p x.2;
      powered s = true ∧ flightAt s 3 = some p ∧ notLink p = true ∧ toCore s p = some 0 ∧ ejected s 3 p = false ∧ accepts s 3 p = true
        ∧ direct s 0 p = false
        ∧ (let t := setEject s (coreStop 0) [3]; ejected t 3 p = true ∧ ejectNext t 3 p = false ∧ toCore t p = some 0))
    ∧ (let p := pkt .wr 0x20000000000; let s := setEject (fly (coreOn inJob) p []) (coreStop 0) [3];
      powered s = true ∧ flightAt s 3 = some p ∧ notLink p = true ∧ resolve s p.addr = .sram 0 0 ∧ ejectNext s 3 p = true
        ∧ sramTaken s 0 0 p.data.length = none ∧ p.poison = false) := by decide +kernel

/-- A read of another word, and of the same word that came first. -/
def vElse : VReq := { vRead 32 false with off := 64 }
def vFirst : VReq := { vRead 32 false with num := 0 }

/-- The two inputs, and whose turn it is. -/
def inputs (a b : VReq) (ring : Bool) : VaultSt := { vaultAt (withReqs [a] [b] []) 0 with ringNext := ring }

theorem test_witness_RequestOrder :
    (inputs vWrite (vRead 32 false) true).shaftQ = [vWrite] ∧ (inputs vWrite (vRead 32 false) true).ringQ = [vRead 32 false]
    ∧ reqHeld [vWrite] (vRead 32 false) = true
    ∧ (∀ b ∈ [false, true], (inputs vWrite vElse b).ringNext = b) ∧ reqHeld [vWrite] vElse = false ∧ reqHeld [vElse] vWrite = false
    ∧ reqHeld [vWrite] vFirst = false ∧ reqHeld [vFirst] vWrite = true := by decide +kernel

theorem test_witness_VaultControllers :
    (let s := withReqs [vWrite] [] []; powered s = true ∧ vaultInService s 0 = true ∧ domOn s ⟨.vault, 0⟩ = true ∧ (takeReq (vaultAt s 0)).map (·.1) = some vWrite ∧ vWrite.data ≠ []
      ∧ replyRoom s 0 vWrite = true)
    ∧ (let s := withReqs [] [vRead 32 false] []; (takeReq (vaultAt s 0)).map (·.1) = some (vRead 32 false) ∧ replyRoom s 0 (vRead 32 false) = true
      ∧ (let t := { s with rings := { s.rings with inject := [(4 * coreStop 0, List.replicate 3 { pkt .rdResp 0 with bytes := 256, data := zeros 256, src := coreStop 0 })] } };
        (takeReq (vaultAt t 0)).map (·.1) = some (vRead 32 false) ∧ replyRoom t 0 (vRead 32 false) = false ∧ vaultOutRoom t 0 5 = false
          ∧ vaultInService t 0 = true ∧ domOn t ⟨.vault, 0⟩ = true))
    ∧ (let s := withReqs [] [vRead 256 true] [merge1 0 false []];
      (takeReq (vaultAt s 0)).map (fun r => (r.1, (mergeFor r.2 0).map (·.id))) = some (vRead 256 true, some 0))
    ∧ (let s := withReqs [] [vRead 256 true] [merge1 0 true []];
      (takeReq (vaultAt s 0)).map (fun r => (r.1, (mergeFor r.2 0).isNone, freeMergeId r.2)) = some (vRead 256 true, true, some 1))
    ∧ (let s := withReqs [] [vRead 256 true] ((List.range 16).map fun k => merge1 k true []);
      (takeReq (vaultAt s 0)).map (fun r => (r.1, (mergeFor r.2 0).isNone, freeMergeId r.2)) = some (vRead 256 true, true, none))
    ∧ takeReq (vaultAt inJob 0) = none
    ∧ (let s := withReqs [] [] [merge1 3 false [vRead 256 true]];
      ((vaultAt s 0).merges.find? fun e => e.id == 3) = some (merge1 3 false [vRead 256 true]) ∧ vaultOutRoom s 0 5 = true
        ∧ mergedFlits 0 (merge1 3 false [vRead 256 true]) ≠ 0)
    ∧ (let m := merge1 3 false [vRead 256 true, ⟨false, 0, 256, [], true, .ring (coreStop 1023) 0 0 9 false, 3⟩];
      let s := withReqs [] [] [m];
      ((vaultAt s 0).merges.find? fun e => e.id == 3) = some m ∧ 2 ≤ m.reqs.length
        ∧ m.reqs.map reqStop = [some (coreStop 5, 4), some (coreStop 1023, 9)] ∧ vaultOutRoom s 0 (mergedFlits 0 m) = true)
    ∧ ((vaultAt inJob 0).merges.find? fun e => e.id == 3) = none := by decide +kernel

theorem test_witness_MulticastRefreshScrub :
    (let s := withDma (fly inJob mcPkt [(5, .dma 0 0 3 0 0 32 false)]) [{ dma1 .dmv 0 false with merge := true }];
      powered s = true ∧ flightAt s 3 = some mcPkt ∧ mcPkt.ty = .mcResp ∧ mcPkt.sheaf = 0 / 128 ∧ 0 % 128 ∈ mcPkt.stopmask
        ∧ domOn s ⟨.core, 0⟩ = false ∧ domOn (coreOn s) ⟨.core, 0⟩ = true ∧ FMap.find s.rings.out 5 = some (.dma 0 0 3 0 0 32 false)
        ∧ (s.rings.out.filter fun e => readsBlock s 0 mcPkt e.2) = [(5, .dma 0 0 3 0 0 32 false)] ∧ mcPkt.poison = false
        ∧ readsBlock s 0 { mcPkt with addr := 256 } (.dma 0 0 3 0 0 32 false) = false
        ∧ FMap.find mcPkt.sheafmask 1 = some [0] ∧ nextMc mcPkt 1 = true)
    ∧ (let s := vaultOn 40; vaultInService s 0 = true ∧ domOn s ⟨.vault, 0⟩ = true ∧ windowOk s 0 false = true ∧ windowOk s 0 true = false
        ∧ layerTemps s 0 = [40])
    ∧ (let s := setDom (vaultOn 40) ⟨.vault, 0⟩ { DomRec.reset .vault with st := .retention };
      vaultInService s 0 = true ∧ domOn s ⟨.vault, 0⟩ = false ∧ (domAt s ⟨.vault, 0⟩).st ≠ .off ∧ windowOk s 0 false = true)
    ∧ (let s := vaultOn 85; windowOk s 0 true = true ∧ windowOk s 0 false = false ∧ ∃ x ∈ layerTemps s 0, 84 < x)
    ∧ (∀ w ∈ [0, 0xEFFFFF], let s := scrubbing w;
      powered s = true ∧ scrubRuns s 0 = true ∧ regFld s (vltReg 0 0x38) 29 5 = w ∧ badChecks s 0 (w * 32) 32 = false)
    ∧ (let s := { scrubbing 1 with marks := [(32, Mark.err [(0, 1)])] };
      scrubRuns s 0 = true ∧ badChecks s 0 32 32 = false ∧ FMap.find s.marks (vaultKey 0 32) = some (.err [(0, 1)]))
    ∧ (let s := { scrubbing 1 with marks := [(0, Mark.badCheck)] }; scrubRuns s 0 = true ∧ badChecks s 0 32 32 = true)
    ∧ scrubRuns inJob 0 = false := by decide +kernel

/-- No item and no step keeps memory of these states. -/
theorem withReqs_free (a b : List VReq) (ms : List Merge) (k n : Nat) : writeBarred (withReqs a b ms) k n = none := rfl

theorem test_witness_plainRequests :
    PlainWords (withReqs [vWrite] [] []) 0 0 32 ∧ PlainWords (withReqs [] [vRead 256 true] []) 0 0 256 :=
  ⟨words_spec (by decide +kernel) (by decide +kernel) fun _ _ _ _ => withReqs_free _ _ _ _ _,
    words_spec (by decide +kernel) (by decide +kernel) fun _ _ _ _ => withReqs_free _ _ _ _ _⟩

/-- A REDUCE packet of one FP32 element from stop 9 of sheaf 0 to stop 12. -/
def red1 : Packet :=
  { plainPacket .reduce 0 0 (stopId 0 9) (stopId 0 12) 0 0x20003000000 32 with
    data := zeros 4, rtag := 7, rcount := 2, relems := 1, contrib := 1, entered := stopId 0 9 }

/-- Stop 10 of sheaf 0 holds packets. -/
def withHeld (p : Packet) (l : List HeldRed) : State :=
  let s := fly inJob p []
  { s with rings := { s.rings with combine := [(stopId 0 10, l)] } }

/-- The stop of core 3 has an entry for tag 7, and core 3 is On. -/
def withTag (p : Packet) (e : List TagEntry) : State :=
  let s := fly (setDom inJob ⟨.core, 3⟩ { DomRec.reset .core with st := .on }) p []
  { s with rings := { s.rings with tags := [(stopId 0 12, e)] } }

/-- What the test reads of a packet's contributions. -/
def tagNow (p : Packet) (e : List TagEntry) (expected got : Nat) : Bool :=
  let s := withTag p e
  let x := (tagEntry s p.dst p.rtag).getD ⟨p.rtag, p.relems * p.rcount, 0, (stopCore p.dst).getD 0, p.ring⟩
  arrivesNow s p .reduce && good (addAtDest (accept s 3 p) p) && x.expected == expected && x.received + redCount p * p.contrib == got

theorem test_witness_RingReduceSignals :
    (let s := withHeld red1 [⟨0, red1⟩];
      powered s = true ∧ flightAt s 3 = some red1 ∧ red1.ty = .reduce ∧ ejected s 3 red1 = false ∧ passes s red1 (stopId 0 10) = true
        ∧ ((heldAt s (stopId 0 10)).find? fun e => sameRun e.p red1) = some ⟨0, red1⟩
        ∧ ((heldAt s (stopId 0 10)).find? fun x => x.id == 0) = some ⟨0, red1⟩)
    ∧ (let s := withHeld red1 [⟨0, { red1 with rtag := 8 }⟩];
      ((heldAt s (stopId 0 10)).find? fun e => sameRun e.p red1) = none ∧ mayHold s (stopId 0 10) red1 = true
        ∧ freeHeld (heldAt s (stopId 0 10)) = some 1 ∧ mayHold s (stopId 0 10) { red1 with held := 4 } = false)
    ∧ (let s := withHeld red1 ((List.range 64).map fun k => ⟨k, { red1 with rtag := 100 + k }⟩);
      ((heldAt s (stopId 0 10)).find? fun e => sameRun e.p red1) = none ∧ freeHeld (heldAt s (stopId 0 10)) = none)
    ∧ heldAt inJob (stopId 0 10) = []
    ∧ tagNow red1 [⟨7, 9, 0, 3, 0⟩] 9 1 = true ∧ red1.relems * red1.rcount = 2
    ∧ tagNow red1 [⟨7, 2, 2, 3, 0⟩] 2 3 = true ∧ tagNow red1 [] 2 1 = true ∧ tagNow red1 [⟨7, 2, 1, 3, 0⟩] 2 2 = true
    ∧ (let s := withTag red1 []; resolve s red1.addr = .sram 3 0 ∧ 0 < redCount red1 ∧ domOn s ⟨.core, 3⟩ = true
      ∧ sramTaken s 3 0 (addWords red1 0 (bytesAt s (sramKey 3 0) (roundUp (0 + redCount red1 * slotBytes red1.efmt) 16))).length = none
      ∧ ∀ w ∈ wordsOf 16 0 (roundUp (0 + redCount red1 * slotBytes red1.efmt) 16), FMap.find s.marks (sramKey 3 w) = none)
    ∧ resolve inJob 0x50000000000000 = .none 2
    ∧ (let p := { pkt .tagNotice 0 with rtag := 7 }; let s := fly inJob p [];
      arrivesNow s p .tagNotice = true ∧ stopCore p.dst = some 0 ∧ coreEnabled s 0 = true ∧ reduceOf s 0 7 = none
        ∧ (coreAt s 0).tags.length < 64
        ∧ (let t := { s with boot := { s.boot with disabledCores := [0] } }; arrivesNow t p .tagNotice = true ∧ coreEnabled t 0 = false)
        ∧ (let t := updCore s 0 fun x => { x with tags := List.range 64 }; 64 ≤ (coreAt t 0).tags.length ∧ reduceOf t 0 7 = none)
        ∧ (let t := fly (withItem (.reduce { reduce1 with dst := 0x20000000000, tag := 7 }) .running) p [];
          arrivesNow t p .tagNotice = true ∧ (reduceOf t 0 7).map (·.1) = some 1))
    ∧ (let s := withTag red1 [⟨7, 2, 1, 3, 0⟩]; powered s = true ∧ tagEntry s (stopId 0 12) 7 = some ⟨7, 2, 1, 3, 0⟩)
    ∧ (let s := running (.redw 2) [(2, 7)] []; tagEntry s (coreStop 0) 7 = none ∧ redwStarves s (coreStop 0) 7 = true
        ∧ redwStarves s (coreStop 0) 8 = false
        ∧ (let t := fly s { pkt .tagNotice 0 with rtag := 7 } []; noticeOut t (coreStop 0) 7 = true ∧ tagEntry t (coreStop 0) 7 = none))
    ∧ (let p := pkt .signal 0; arrivesNow (fly inJob p []) p .signal = true ∧ stopCore p.dst = some 0)
    ∧ (let p := pkt .sigAck 0; arrivesNow (fly inJob p [(5, .signal 0 1)]) p .sigAck = true
        ∧ arrivesNow (fly inJob p [(5, .sync 1 0)]) p .sigAck = true ∧ arrivesNow (fly inJob p []) p .sigAck = true)
    ∧ (let p := { pkt .msg 0 with report := some report0 }; arrivesNow (fly inJob p []) p .msg = true)
    ∧ (let p := { pkt .msg 0 with owner := some (0, 2) };
      let s := fly (updCore inJob 0 fun x => { x with drainWait := some ⟨2, false⟩ }) p [];
      arrivesNow s p .msg = true ∧ p.report = none ∧ (coreAt s 0).drainWait = some ⟨2, false⟩) := by decide +kernel

/-! ### Links and Stoby -/

/-- Device 5 in a job with link 0 up and On. -/
def net : State :=
  let s := regSet (setDom (withQueue (workQ [])) ⟨.link, 0⟩ { DomRec.reset .link with st := .on }) (lnkReg 0 0) 3
  { s with links := { s.links with cfg := { s.links.cfg with devid := 5, unassigned := false } } }

/-- Link 0 with its state. -/
def netLink (x : LinkSt) : State := setLink net 0 x

/-- A pause of class 0 on link 0. -/
def paused : State := netLink ⟨false, [(0, 5)], none, [], [], []⟩

/-- A packet to the SRAM of core 0 of device 9 that has reached the stop of link 0. -/
def outPkt (held : Nat) : Packet :=
  { plainPacket .wr 0 0 (coreStop 0) (linkStop 0) 5 (2 ^ 55 + 9 * 2 ^ 43 + 0x20000000000) 32 with data := zeros 32, held }

/-- A frame of device 9 for this device, the first of its context. -/
def frame1 (op a : Nat) : Frame :=
  { blankFrame with op, syn := true, srcDev := 9, dstDev := 5, psn := 7, addr := a, bytes := 32, payload := zeros 32 }

/-- A frame sent to device 9 and not acknowledged. -/
def sent1 : Sent := ⟨{ blankFrame with op := 1, psn := 7 }, (0, 0), 100, 0, none⟩

/-- A send context toward sheaf 0 of device 9 in a class, and toward device 1. -/
def sendCtx (cls : Nat) (us : List Sent) : SendCtx := ⟨0, 9, 0, cls, 8, false, us, [], 0, [], 100, 0, 0, 0⟩
def otherCtx : SendCtx := ⟨0, 1, 0, 0, 8, false, [], [], 0, [], 100, 0, 0, 0⟩

def withSend (s : State) (l : FMap SendCtx) : State := { s with stoby := { s.stoby with send := l } }
def withRecv (s : State) (l : FMap RecvCtx) : State := { s with stoby := { s.stoby with recv := l } }

/-- What the test reads of an operation at the stop of link 0: its packet is the next, its context has room, and a path exists. -/
def opReads (s : State) (p : Packet) (room path : Bool) : Bool :=
  nextAtLink s (linkStop 0) == some (3, p) && match opHead s p with
    | some h => match openSend s (linkStop 0 / 256) h p.cls with
      | some (_, x, s1) => decide (x.unacked.length < 4096) == room && !(pathSet s1 x).isEmpty == path
      | none => false
    | none => false

theorem test_witness_StobySend :
    powered net = true ∧ (stopLink (linkStop 0)).isSome = true ∧ opReads (fly net (outPkt 0) []) (outPkt 0) true true = true
    ∧ opReads (fly (withSend net [(2, sendCtx 0 [])]) (outPkt 0) []) (outPkt 0) true true = true
    ∧ opReads (fly (withSend net [(2, sendCtx 0 (List.replicate 4096 sent1))]) (outPkt 0) []) (outPkt 0) false true = true
    ∧ opReads (fly paused (outPkt 0) []) (outPkt 0) true false = true ∧ nextAtLink net (linkStop 0) = none := by decide +kernel

/-- Send contexts of sheaf 0 toward device 1. -/
def fullCtx (n held : Nat) : State := fly (withSend net (List.replicate n (2, otherCtx))) (outPkt held) []

theorem fullCtx_none (n held : Nat) (h : ctxLimit ≤ n) : openSend (fullCtx n held) 0 ⟨1, 9, 0, 0x20000000000⟩ 0 = none := by
  have h1 : findSend (fullCtx n held) 0 9 0 0 = none := by simp [findSend, fullCtx, fly, withSend, otherCtx]
  have h2 : sendRoom (fullCtx n held) 0 = false := by
    simp only [sendRoom, fullCtx, fly, withSend, List.filter_replicate]
    simp [otherCtx, h]
  simp [openSend, h1, h2]

theorem test_witness_StobyFull :
    (∀ held ∈ [0, 8], nextAtLink (fullCtx 16384 held) (linkStop 0) = some (3, outPkt held)
      ∧ opHead (fullCtx 16384 held) (outPkt held) = some ⟨1, 9, 0, 0x20000000000⟩ ∧ (outPkt held).held = held)
    ∧ openSend (fullCtx 16384 0) 0 ⟨1, 9, 0, 0x20000000000⟩ 0 = none ∧ openSend (fullCtx 16384 8) 0 ⟨1, 9, 0, 0x20000000000⟩ 0 = none :=
  ⟨by decide +kernel, fullCtx_none _ _ (by decide), fullCtx_none _ _ (by decide)⟩

/-- `LinkReady` and `LinkTakes` on link 0, as tests. -/
def readyNow (s : State) : Bool :=
  linkUp s 0 && domOn s ⟨.link, 0⟩ && (domAt s ⟨.link, 0⟩).sleep == .none && (linkAt s 0).waiting.isEmpty
    && (!s.links.cfg.routed || (linkAt s 0).switchMac.isSome)

theorem readyNow_spec {s : State} (h : readyNow s = true) : LinkReady s 0 := by
  simp only [readyNow, Bool.and_eq_true, beq_iff_eq, List.isEmpty_iff, Bool.or_eq_true, Bool.not_eq_true'] at h
  obtain ⟨⟨⟨⟨a, b⟩, c⟩, d⟩, e⟩ := h
  exact ⟨a, b, c, d, fun r => e.resolve_left (by simp [r])⟩

def taken (s : State) (x : RxFrame) : Bool :=
  powered s && linkUp s 0 && domOn s ⟨.link, 0⟩ && !rxFull s 0 (rxBytes s x) && framesTaken s

theorem taken_spec {s : State} {x : RxFrame} (h : taken s x = true) : LinkTakes s 0 x := by
  simp only [taken, Bool.and_eq_true, Bool.not_eq_true'] at h
  exact ⟨⟨h.1.1.1.1, by decide, h.1.1.1.2, h.1.1.2, h.1.2⟩, h.2⟩

/-- The link takes the frame, and Stoby is open for it. -/
def heard (s : State) (f : Frame) : Bool := taken s (.stoby f) && stobyOpen s 0 f

/-- The conditions of `NextFrame` for a frame that opens its context, as a test. -/
def opensNext (s : State) (f : Frame) : Bool :=
  let r := frameSeen s 0 f
  (findRecv r f.srcDev f.srcSheaf f.dstSheaf f.cls).isNone && f.syn && recvRoom r f.dstSheaf
    && decide (psnDist f.psn (newRecv 0 f).next < psnWindow) && !(newRecv 0 f).finished.contains f.psn
    && !receivedPsn (newRecv 0 f) f.psn && (newRecv 0 f).start == f.psn && (FMap.find (newRecv 0 f).window (psnNext f.psn)).isNone

theorem opensNext_spec {s : State} {f : Frame} (h : opensNext s f = true) :
    NextFrame (frameSeen s 0 f) 0 (frameSeen s 0 f).stoby.nextCtx (newRecv 0 f) f := by
  simp only [opensNext, Bool.and_eq_true, Bool.not_eq_true', beq_iff_eq, decide_eq_true_eq, Option.isNone_iff_eq_none] at h
  obtain ⟨⟨⟨⟨⟨⟨⟨a, b⟩, c⟩, d⟩, e⟩, g⟩, i⟩, j⟩ := h
  exact ⟨.inr ⟨a, b, c, rfl, rfl⟩, d, by simpa using e, g, i, j⟩

/-- A frame of each OP with an address that suits it. -/
def frames : List Frame :=
  [frame1 1 0, frame1 2 0, frame1 3 0, frame1 4 0, frame1 5 0x20000000000, { frame1 6 1 with value := 0 }]

/-- A receive context of device 9 in a state. -/
def recvCtx (next start : Nat) (fin : List Nat) : RecvCtx := { newRecv 0 (frame1 1 0) with next, start, finished := fin }

/-- A frame without SYN. -/
def noSyn : Frame := { frame1 1 0 with syn := false }

theorem test_witness_StobyFrames :
    (∀ f ∈ frames, heard net f = true ∧ opensNext net f = true ∧ good (takeFrame (rxFrame net 0 (frameBytes net f)) 0 f (nowNs net)) = true)
    ∧ (let s := { net with boot := { net.boot with dev := .faulted } };
      taken s (.stoby (frame1 1 0)) = true ∧ stobyOpen s 0 (frame1 1 0) = false)
    ∧ (∀ op ∈ [1, 2, 4], let r := frameSeen net 0 (frame1 op 0);
      localLoc r 0 = .vault 0 0 ∧ localLoc r 0x20000000000 = .sram 0 0 ∧ localLoc r 0x1C000000000 = .none 2
        ∧ opensNext net (frame1 op 0x1C000000000) = true ∧ opensNext net (frame1 op 0x20000000000) = true)
    ∧ localLoc (frameSeen net 0 (frame1 5 0x20000000000)) 0x20000000000 = .sram 0 0
    ∧ good (ringBell (frameSeen net 0 { frame1 6 1 with value := 0 }) (1 % 2 ^ 16) 0 (nowNs net)) = true
    ∧ (findRecv (frameSeen net 0 noSyn) 9 0 0 0).isNone = true ∧ heard net noSyn = true := by decide +kernel

/-- The link that received the frame is still up. -/
theorem test_witness_StobyNoContext : LinkReady (frameSeen net 0 noSyn) 0 ∧ linkPaused (frameSeen net 0 noSyn) 0 0 = false := by
  have h : linkUp (frameSeen net 0 noSyn) 0 = true := by
    show bit (regGet (count (count net (lnkCtr 0 1) 1) (lnkCtr 0 3) _) (lnkReg 0 0)) 1 = true
    rw [regGet_count_ne _ _ (by decide), regGet_count_ne _ _ (by decide)]
    decide +kernel
  refine ⟨readyNow_spec ?_, by decide +kernel⟩
  rw [readyNow, h]
  decide +kernel

theorem test_witness_StobyReceived :
    (let s := withRecv net [(4, recvCtx 8 8 [])]; let f := frame1 1 0;
      (findRecv (frameSeen s 0 f) 9 0 0 0) = some (4, recvCtx 8 8 []) ∧ recvAt (frameSeen s 0 f) 4 = some (recvCtx 8 8 [])
        ∧ opensAnew (recvCtx 8 8 []) f = false ∧ 4096 ≤ psnDist f.psn 8)
    ∧ (let s := withRecv net [(4, recvCtx 6 7 [7])]; let f := frame1 1 0;
      (findRecv (frameSeen s 0 f) 9 0 0 0) = some (4, recvCtx 6 7 [7]) ∧ recvAt (frameSeen s 0 f) 4 = some (recvCtx 6 7 [7])
        ∧ opensAnew (recvCtx 6 7 [7]) f = false)
    ∧ (let s := withRecv net [(4, recvCtx 6 9 [])]; let f := frame1 1 0;
      (findRecv (frameSeen s 0 f) 9 0 0 0) = some (4, recvCtx 6 9 []) ∧ psnDist f.psn 6 < 4096 ∧ receivedPsn (recvCtx 6 9 []) f.psn = true)
    ∧ (∀ n ∈ [9000, 7 + 4097, 2 ^ 32 + 7 - 4096],
      let s := withRecv net [(4, recvCtx n n [])]; let f := frame1 1 0; let r := frameSeen s 0 f;
      (findRecv r 9 0 0 0) = some (4, recvCtx n n []) ∧ opensAnew (recvCtx n n []) f = true
        ∧ good (intoContext (setRecv r 4 (newRecv 0 f)) 4 0 (newRecv 0 f) f (nowNs s)) = true)
    ∧ opensAnew (recvCtx (7 + 4096) (7 + 4096) []) (frame1 1 0) = false
    ∧ opensAnew (recvCtx (2 ^ 32 + 7 - 4095) (2 ^ 32 + 7 - 4095) []) (frame1 1 0) = false := by decide +kernel

theorem test_witness_StobyContexts :
    (let f := frame1 7 0; let s := withSend net [(2, sendCtx 0 [sent1])]; let r := rxFrame s 0 (frameBytes s f);
      heard net f = true ∧ heard s f = true ∧ (findSend (rxFrame net 0 (frameBytes net f)) 0 9 0 0).isNone = true
        ∧ (findSend r 0 9 0 0).map (fun e => (e.1, e.2.unacked)) = some (2, [sent1])
        ∧ ({ f with reset := true } : Frame).reset = true ∧ f.reset = false)
    ∧ (let f := frame1 7 0; let s := withSend net [(2, sendCtx 0 [])]; let r := rxFrame s 0 (frameBytes s f);
      (findSend r 0 9 0 0).map (fun e => (e.1, e.2.unacked)) = some (2, []))
    ∧ (let s := { net with boot := { net.boot with dev := .faulted } };
      taken s (.stoby (frame1 7 0)) = true ∧ stobyOpen s 0 (frame1 7 0) = false)
    ∧ (∀ n ∈ [0, 1], let s := withRecv net [(4, { recvCtx 8 8 [] with sinceAck := n })];
      powered s = true ∧ (recvAt s 4).map (fun x => (x.sinceAck, x.ackNow, x.link.1, x.cls)) = some (n, false, 0, 0)
        ∧ linkUp s 0 = true ∧ readyNow s = true ∧ linkPaused s 0 0 = false)
    ∧ (let s := setDom (withRecv net [(4, { recvCtx 8 8 [] with sinceAck := 1 })]) ⟨.link, 0⟩ (DomRec.reset .link);
      linkUp s 0 = true ∧ domOn s ⟨.link, 0⟩ = false ∧ s.links.cfg.routed = false)
    ∧ (let s := regSet (withRecv net [(4, { recvCtx 8 8 [] with sinceAck := 1 })]) (lnkReg 0 0) 1; linkUp s 0 = false)
    ∧ (let s := withSend net [(2, sendCtx 0 [sent1])];
      (sentOf s 2 7).map (fun x => x.2) = some sent1 ∧ (sentOf s 2 7).map (fun x => (pathSet s x.1).isEmpty) = some false
        ∧ (sentOf s 2 7).map (fun x => (pathSet s x.1).any fun p => p != sent1.path) = some true ∧ readyNow s = true)
    ∧ (let s := withSend paused [(2, sendCtx 0 [sent1])]; (sentOf s 2 7).map (fun x => (pathSet s x.1).isEmpty) = some true)
    ∧ (let ps := pathSet net (sendCtx 0 []); ps ≠ [] ∧ (ps.map pathKey).Nodup)
    ∧ (∀ c ∈ [0, 1], ∀ us ∈ [[], [sent1]], let s := withSend net [(2, sendCtx c us)];
      (sendAt s 2).map (fun x => (x.cls, x.unacked)) = some (c, us)) := by decide +kernel

/-- Link 31 enabled and powered, and not up. -/
def tries (training : Bool) : State :=
  setLink (regSet (setDom (up .ready) ⟨.link, 31⟩ { DomRec.reset .link with st := .on }) (lnkReg 31 0) 1) 31 ⟨training, [], none, [], [], []⟩

/-- The network with a changed configuration. -/
def netCfg (f : LinkP → LinkP) : State := { net with links := { net.links with cfg := f net.links.cfg } }

/-- A frame that waits on link 0. -/
def waits1 (c : Nat) : OutFrame := ⟨0, 0, none, 0, none, some c, .stoby blankFrame⟩

theorem test_witness_Links :
    powered (tries true) = true ∧ linkTries (tries true) 31 = true ∧ (linkAt (tries true) 31).training = true
    ∧ linkTries (tries false) 31 = true ∧ (linkAt (tries false) 31).training = false
    ∧ regFld (tries true) (lnkReg 31 0) 23 16 = 0 ∧ modeAllowed (tries true) 0 0 = true ∧ modeAllowed (tries true) 1 0 = false
    ∧ modeAllowed (tries true) 1 1 = true
    ∧ linkTries net 0 = false ∧ linkUp net 0 = true ∧ linkUp (tries true) 31 = false ∧ domOn net ⟨.link, 0⟩ = true
    ∧ (let s := netCfg fun c => { c with pfc := true }; taken s (.pfc 1 5) = true ∧ s.links.cfg.pfc = true)
    ∧ taken net (.pfc 1 5) = true ∧ net.links.cfg.pfc = false
    ∧ linkPaused paused 0 0 = true ∧ linkPaused net 0 0 = false ∧ readyNow net = true
    ∧ (∀ x ∈ [RxFrame.arp 320 1, .solicit (linkIp6 net 0) 1, .resolved 1, .bad .notAccepted, .bad .badIcrc, .bad .reservedOp],
      taken net x = true)
    ∧ linkIp4 net 0 = 320 ∧ linkIp4 net 0 ≠ 0 ∧ linkIp6 net 0 ≠ 0
    ∧ (let s := netCfg fun c => { c with macpfx := 2 ^ 41 }; macOk s = true ∧ readyNow s = true)
    ∧ (let s := netCfg fun c => { c with routed := true };
      taken s (.resolved 1) = true ∧ (linkAt s 0).switchMac = none ∧ (linkAt s 0).waiting = [] ∧ s.links.cfg.routed = true
        ∧ linkUp s 0 = true ∧ domOn s ⟨.link, 0⟩ = true ∧ (domAt s ⟨.link, 0⟩).sleep = .none)
    ∧ net.links.cfg.routed = false
    ∧ (let s := setDom net ⟨.link, 0⟩ (DomRec.reset .link);
      linkUp s 0 = true ∧ domOn s ⟨.link, 0⟩ = false ∧ rxFull s 0 (rxBytes s (.stoby (frame1 1 0))) = false)
    ∧ (let s := netCfg fun c => { c with unassigned := true };
      framesTaken s = false ∧ powered s = true ∧ linkUp s 0 = true ∧ domOn s ⟨.link, 0⟩ = true
        ∧ rxFull s 0 (rxBytes s (.stoby (frame1 1 0))) = false ∧ isPfc (.stoby (frame1 1 0)) = false)
    ∧ (let s := netLink ⟨false, [], none, [waits1 1, waits1 0], [], []⟩; nextFrame s 0 = some (waits1 0))
    ∧ (let s := netLink ⟨false, [(0, 5)], none, [waits1 0, waits1 1], [], []⟩; nextFrame s 0 = some (waits1 1)) := by decide +kernel

/-- Link 0 holds one frame of a payload in its receive buffer. -/
def buffered (n : Nat) (off : List Nat) : State :=
  netLink ⟨false, [], none, [], [(.stoby { blankFrame with payload := List.replicate n 0 }, 0)], off⟩

theorem buffered_held (n : Nat) (off : List Nat) : rxHeld (buffered n off) 0 = [(0, 70 + n)] := by
  have h : rxHeld (buffered n off) 0 = [(0, 12 + 0 + 2 + 48 + 0 + (List.replicate n (0 : Byte)).length + 8)] := rfl
  rw [h, List.length_replicate]
  congr 2
  omega

/-- The boundaries of the thresholds of class 0's priority and of the buffer. -/
theorem test_witness_ReceiveBuffer (n : Nat) (off : List Nat) :
    (prioHeld (buffered n off) 0 6 = 70 + n) ∧ (4 * 2 ^ 20 = 69 + 64 + n → rxFull (buffered n off) 0 (rxBytes (buffered n off) (.bad .badIcrc)) = true)
    ∧ LinkReady (buffered n off) 0 ∧ (linkAt (buffered n off) 0).xoff = off := by
  refine ⟨?_, fun h => ?_, ?_, rfl⟩
  · rw [prioHeld, buffered_held]
    have : clsPrio (buffered n off) 0 = 6 := (by decide +kernel : clsPrio net 0 = 6)
    simp [heldBytes, this]
  · simp only [rxFull, buffered_held, heldBytes, rxBytes, rxBufBytes, List.map_cons, List.map_nil, List.foldl_cons, List.foldl_nil,
      decide_eq_true_eq]
    omega
  · exact ⟨(by decide +kernel : linkUp net 0 = true), (by decide +kernel : domOn net ⟨.link, 0⟩ = true),
      (by decide +kernel : (domAt net ⟨.link, 0⟩).sleep = .none), rfl,
      fun h => absurd (h : net.links.cfg.routed = true) (show ¬ net.links.cfg.routed = true by decide +kernel)⟩

/-- LINKS_READY at its boundary: link 0 is up of two enabled links, with MINLINKS 1 and 2. -/
def linksSet (n : Nat) (d : DevState) (r : Bool) : State :=
  let s := regSet (netCfg fun c => { c with minlinks := n }) (lnkReg 1 0) 1
  { s with boot := { s.boot with dev := d, linksReady := r } }

theorem test_witness_LinksReady :
    (∀ n ∈ [0, 1, 2, 28], let s := linksSet n .configReady false;
      powered s = true ∧ s.boot.dev ≠ .boot ∧ s.boot.linksReady = false ∧ linksOn s = 2 ∧ linksUp s = 1
        ∧ (min s.links.cfg.minlinks (linksOn s) ≤ linksUp s ↔ n ≤ 1))
    ∧ (linksSet 1 .configReady true).boot.linksReady = true ∧ (linksSet 1 .boot false).boot.dev = .boot := by decide +kernel

/-! ### Device time -/

/-- An Announce of domain 0, and a stamp at time 0. -/
def ann (id : Nat) : AnnounceDs := ⟨128, 6, 0x21, 0, 128, id, 0, id, 0, 0⟩
def stamp (two : Bool) : PtpStamp := ⟨0, 0, 1, 0, 0, 4, two⟩

/-- The network with link 0 a PTP port, and a changed time unit. -/
def ptp (f : Machine.Time → Machine.Time) : State :=
  { net with time := f { net.time with cfg := { net.time.cfg with ptp := true, portmask := 1 } } }

/-- The network with a changed time configuration. -/
def clock (f : TimeP → TimeP) : State := { net with time := { net.time with cfg := f net.time.cfg } }

theorem test_witness_DeviceTime :
    (let s := ptp id; powered s = true ∧ ptpTaken s 0 s.time.cfg.domain s.time.cfg.encap = true ∧ taken s (.announce (ann 3)) = true
      ∧ taken s (.sync (stamp true)) = true ∧ (ann 3).encap = s.time.cfg.encap ∧ (stamp true).encap = s.time.cfg.encap
      ∧ (ann 3).domain = s.time.cfg.domain ∧ FMap.find s.time.announces 0 = none ∧ nowNs s = 0 ∧ stampOk (stamp true) 0 = true
      ∧ stampOk { stamp true with local_ := 5 } 0 = false ∧ FMap.find s.time.sync 0 = none ∧ s.time.active = none
      ∧ taken s (.delayResp (stamp true)) = true ∧ ptpTaken s 0 1 s.time.cfg.encap = false ∧ ptpTaken s 0 s.time.cfg.domain 1 = false)
    ∧ (let s := ptp fun t => { t with announces := [(0, ann 4)] };
      FMap.find s.time.announces 0 = some (ann 4) ∧ (ann 4).sender ≠ (ann 3).sender ∧ dsBetter (ann 3) (ann 4) = true)
    ∧ (∀ two ∈ [false, true], let s := ptp fun t => { t with active := some 0, sync := [(0, stamp two)], delayReqAt := some 0, delayReqId := 1 };
      ptpTaken s 0 s.time.cfg.domain s.time.cfg.encap = true ∧ s.time.active = some 0 ∧ FMap.find s.time.sync 0 = some (stamp two)
        ∧ taken s (.followUp (stamp two)) = true ∧ taken s (.delayResp (stamp two)) = true
        ∧ s.time.delayReqAt = some 0 ∧ (stamp two).seqId = s.time.delayReqId ∧ timeRuns s = true ∧ candidate s 0 = true
        ∧ readyNow s = true ∧ linkPaused s 0 0 = false)
    ∧ (let s := setDom (ptp fun t => { t with active := some 0 }) ⟨.link, 0⟩ (DomRec.reset .link);
      timeRuns s = true ∧ candidate s 0 = true ∧ linkPaused s 0 0 = false ∧ domOn s ⟨.link, 0⟩ = false)
    ∧ (let s := setLink (ptp fun t => { t with active := some 0 }) 0 ⟨false, [(0, 5)], none, [], [], []⟩;
      s.time.active = some 0 ∧ linkPaused s 0 0 = true)
    ∧ (let s := ptp fun t => { t with active := some 0, announces := [(0, ann 3)], st := .locked };
      s.time.active = some 0 ∧ s.time.st = .locked ∧ ∀ e ∈ s.time.announces, candidate s e.1 = true → e.1 = 0) := by decide +kernel

theorem test_witness_Corrections :
    (ptp fun t => { t with slewing := true }).time.slewing = true
    ∧ (let s := ptp fun t => { t with st := .unset }; s.time.slewing = false ∧ s.time.st = .unset ∧ s.time.sourced = false ∧ (0 : Int) < 1)
    ∧ (let s := ptp fun t => { t with st := .unset, sourced := true, cfg := { t.cfg with stepOk := false, stepThr := 10 } };
      s.time.slewing = false ∧ s.time.sourced = true ∧ (s.time.cfg.stepThr : Int) < 11 ∧ s.time.cfg.stepOk = false)
    ∧ (let s := ptp fun t => { t with st := .locked };
      s.time.slewing = false ∧ s.time.st = .locked ∧ Int.natAbs 0 ≤ s.time.cfg.stepThr)
    ∧ (let s := ptp fun t => { t with st := .holdover, good := 15 };
      s.time.st ≠ .unset ∧ s.time.good = 15 ∧ s.time.slewing = false ∧ Int.natAbs (-100) ≤ 100 ∧ Int.natAbs (-100) ≤ s.time.cfg.stepThr)
    ∧ (let s := ptp fun t => { t with st := .locked, cfg := { t.cfg with stepOk := true, stepThr := 10 } };
      (s.time.cfg.stepThr : Int) < 11 ∧ s.time.cfg.stepOk = true ∧ s.time.st ≠ .unset)
    ∧ (let s := clock fun c => { c with stepOk := false, stepThr := 10 };
      -11 < -(s.time.cfg.stepThr : Int) ∧ (s.time.cfg.stepThr : Int) < 11 ∧ s.time.cfg.stepOk = false)
    ∧ (let s := clock fun c => { c with pps := true };
      powered s = true ∧ timeRuns s = true ∧ s.time.cfg.pps = true ∧ (bestPort s).isNone = true ∧ s.time.st = .unset)
    ∧ (let s := ptp fun t => { t with st := .freerun, cfg := { t.cfg with pps := true } };
      timeRuns s = true ∧ s.time.cfg.pps = true ∧ (bestPort s).isNone = true ∧ s.time.st ≠ .unset)
    ∧ (let s := clock fun c => { c with timeref := true }; s.time.cfg.timeref = true ∧ s.time.timerefLost = false)
    ∧ (ptp fun t => { t with timerefLost := true }).time.timerefLost = true
    ∧ (let s := clock fun c => { c with ppsOut := true, ppsLock := true };
      timeRuns s = true ∧ s.time.cfg.ppsOut = true ∧ atSecond s = true ∧ s.time.cfg.ppsLock = true ∧ s.time.st ≠ .locked)
    ∧ (let s := clock fun c => { c with ppsOut := true, ppsLock := false };
      s.time.cfg.ppsOut = true ∧ atSecond s = true ∧ s.time.cfg.ppsLock = false) := by decide +kernel

theorem test_witness_Holdover :
    (∀ b ∈ [0, 1, 1000 * net.time.cfg.frBound, 1000 * net.time.cfg.frBound + 1],
      let s := ptp fun t => { t with st := .holdover, bound := b }; powered s = true ∧ s.time.st = .holdover ∧ s.time.bound = b)
    ∧ timeRuns net = true ∧ 0 < 2 ^ 48 - 1 ∧ 2 ^ 48 - 1 < 2 ^ 48 ∧ (ptp id).time.slewing = false
    ∧ (∀ n ∈ [(0 : Int), 1], let s := ptp fun t => { t with slewing := true, slewLeft := n }; s.time.slewing = true ∧ s.time.slewLeft = n) := by
  decide +kernel

/-! ### Power, domains and cooling -/

/-- A device that is ready, with a part of its state changed. -/
def withPower (f : Machine.Power → Machine.Power) : State := { up .ready with power := f (up .ready).power }
def withZone (x : SheafPower) : State := setSheafPower (up .ready) 0 x
def withGov (x : GovCore) : State := setGov (coreOn inJob) 0 x
def withTherm (f : Machine.Thermal → Machine.Thermal) : State := { up .ready with thermal := f (up .ready).thermal }

/-- A change of point is under way. -/
def changing (held : Option Nat) : State := withZone { SheafPower.reset with target := some 3, heldReq := held }

/-- The window average and a millisecond's samples exist. -/
def sampled : State :=
  { withZone { SheafPower.reset with n := 4, sum := 8000 } with power := { (withZone { SheafPower.reset with n := 4 }).power with n := 4 } }

theorem test_witness_PowerManagement :
    powered (up .ready) = true ∧ onBus 0 0 = true ∧ onBus 6 6 = true ∧ onBus 7 4 = true ∧ onBus 7 5 = false
    ∧ zoneNear (withZone { SheafPower.reset with rails := [(0, 509600)] }) 0 = true ∧ zoneClear (up .ready) 0 = true
    ∧ 1 ∉ (sheafPowerAt (up .ready) 0).missing ∧ 1 ∈ (sheafPowerAt (withZone { SheafPower.reset with missing := [1] }) 0).missing
    ∧ pmbusOk ⟨6, 3⟩ = true ∧ pmbusOk ⟨6, 4⟩ = false
    ∧ (sheafPowerAt sampled 0).n ≠ 0 ∧ sampled.power.n ≠ 0
    ∧ regFld (regSetFld (up .ready) (thmReg 0 0x110) 15 0 900) (thmReg 0 0x110) 15 0 ≠ 0
    ∧ (changing none).pails.busy = none ∧ (changing none).pails.deferred = []
    ∧ (sheafPowerAt (changing none) 0).target = some 3 ∧ (sheafPowerAt (changing none) 0).heldReq = none
    ∧ (sheafPowerAt (changing (some 5)) 0).target = some 3 ∧ (sheafPowerAt (changing (some 5)) 0).heldReq = some 5
    ∧ (sheafPowerAt (up .ready) 0).target = none
    ∧ 1023 ∉ (up .ready).power.stretched ∧ 1023 ∈ (withPower fun p => { p with stretched := [1023] }).power.stretched := by decide +kernel

/-- Core 1023 has lost cells. -/
def cellsLost (x : Nat × Nat) : State := withPower fun p => { p with cells := [(1023, x)] }

theorem test_witness_CellsAndHoldup :
    powered (cellsLost (3, 1)) = true
    ∧ FMap.getD (cellsLost (0, 0)).power.cells 1023 (0, 0) = (0, 0) ∧ FMap.getD (cellsLost (3, 1)).power.cells 1023 (0, 0) = (3, 1)
    ∧ coreCeil (up .ready) 1023 = 7 ∧ coreCeil (regSetFld (up .ready) (ceilReg 1023) 62 60 4) 1023 = 4
    ∧ (up .ready).power.warnLow = false ∧ (up .ready).power.holdup = .none
    ∧ (withPower fun p => { p with holdup := .returning }).power.warnLow = false
    ∧ (withPower fun p => { p with holdup := .returning }).power.holdup = .returning
    ∧ (withPower fun p => { p with warnLow := true, holdup := .low }).power.warnLow = true
    ∧ (withPower fun p => { p with warnLow := true, holdup := .low }).power.holdup = .low := by decide +kernel

/-- A core with a hint, at a device time of 20 µs. -/
def hinted (ramping : Bool) (lead : Nat) : State :=
  let s := withGov { GovCore.reset with hint := some 8, ramping, lead };
  { s with time := { s.time with dtime := 20000 * 2 ^ 16 } }

theorem test_witness_Governor :
    powered (hinted false 0) = true ∧ coreEnabled (hinted false 0) 0 = true ∧ domOn (hinted false 0) ⟨.core, 0⟩ = true
    ∧ (∀ r ∈ [false, true], (govAt (hinted r 0) 0).hint.isSome = true ∧ (govAt (hinted r 0) 0).ramping = r)
    ∧ (govAt (coreOn inJob) 0).hint = none
    ∧ Machine.feeding (hinted true 10000) 0 = false ∧ max (govAt (hinted true 10000) 0).lead (govAt (hinted true 10000) 0).fed + 10000 ≤ nowNs (hinted true 10000)
    ∧ nowNs (hinted true 10001) < max (govAt (hinted true 10001) 0).lead (govAt (hinted true 10001) 0).fed + 10000
    ∧ Machine.feeding (withFeedQ (hinted true 0) [.feed (feed1 0 0)]) 0 = true
    ∧ emergOn (withPower fun p => { p with holdup := .low }) 7 = true ∧ emergOn (up .ready) 7 = false
    ∧ reserveCore (up .ready) 0 = false := by decide +kernel

/-- A domain's record in a state of its own. -/
def rec1 (k : DomKind) (st : DomSt) (trans : Option DomSt) (sleep : SleepReq) : DomRec := { DomRec.reset k with st, trans, sleep }

/-- Every link is enabled, and a domain has a record. -/
def withDom (d : Dom) (x : DomRec) : State := regSet (setDom (up .ready) d x) (lnkReg d.num 0) 1

/-- The last domain of each kind that has an idle state. -/
def doms1 : List Dom := [⟨.core, 1023⟩, ⟨.vault, 1023⟩, ⟨.link, 31⟩, ⟨.fabric, 7⟩]

theorem test_witness_DomainsSleep :
    (∀ d ∈ doms1, let s := withDom d (rec1 d.kind .on none .none);
      powered s = true ∧ domExists d = true ∧ domUsable s d = true ∧ domOn s d = true ∧ (domAt s d).sleep = .none
        ∧ (domAt s d).action ≠ .none ∧ domActive s d = false)
    ∧ (let s := setGov (withDom ⟨.core, 0⟩ (rec1 .core .on none .none)) 0 { GovCore.reset with hint := some 8 };
      domUsable s ⟨.core, 0⟩ = true ∧ domOn s ⟨.core, 0⟩ = true ∧ domActive s ⟨.core, 0⟩ = true)
    ∧ (∀ d ∈ doms1, ∀ q ∈ [SleepReq.none, .raised, .window], (domAt (withDom d (rec1 d.kind .on none q)) d).sleep = q)
    ∧ (∀ d ∈ doms1, let s := withDom d (rec1 d.kind .on none .window);
      levelNow s d = false ∧ admits s d = true ∧ lowGoal s d = .retention)
    ∧ (∀ d ∈ doms1, let s := withDom d { rec1 d.kind .on none .window with action := .off };
      levelNow s d = false ∧ admits s d = true ∧ lowGoal s d = .off)
    ∧ (let s := withDom ⟨.core, 5⟩ { rec1 .core .on none .window with level := true }; levelNow s ⟨.core, 5⟩ = true)
    ∧ (let s := withDom ⟨.time, 0⟩ { rec1 .time .on none .window with action := .retention };
      levelNow s ⟨.time, 0⟩ = false ∧ admits s ⟨.time, 0⟩ = true ∧ domExists ⟨.time, 0⟩ = true) := by decide +kernel

/-- AGGRESSIVE, with a hot store and retained banks in sheaf 0. -/
def aggressive (b : Bool) (ret : List (Nat × Nat)) : State :=
  let s := regSetFld (withDom ⟨.core, 5⟩ (rec1 .core .on none .window)) (retainReg 5) 31 16 65535;
  { s with doms := { s.doms with aggressive := b, retained := ret }, thermal := { s.thermal with hotStore := [(0, 90)] } }

theorem test_witness_Aggressive :
    admits (aggressive true ((List.range 4).map fun c => (c, 65535))) ⟨.core, 5⟩ = false
    ∧ banksSel (aggressive true []) 5 = 65535 ∧ keeps (aggressive true []) 0 = true ∧ lowGoal (aggressive true []) ⟨.core, 5⟩ = .retention
    ∧ admits (aggressive true []) ⟨.core, 5⟩ = true
    ∧ (aggressive true []).doms.aggressive = true ∧ (aggressive false []).doms.aggressive = false
    ∧ sheafRetained (aggressive true [(0, 65535)]) 0 ≤ banksWithin (hotStore (aggressive true [(0, 65535)]) 0 + 5)
    ∧ (129, 1) ∈ (aggressive true [(129, 1)]).doms.retained ∧ 129 / 128 ≠ 0 := by decide +kernel

theorem test_witness_DomainEnds :
    (∀ d ∈ doms1, (∀ x ∈ [DomSt.on, .retention, .off], let s := withDom d (rec1 d.kind .off (some x) .none);
      (domAt s d).trans = some x ∧ nextRequest (domAt s d) x = none)
      ∧ (∀ x ∈ [DomSt.retention, .off], let s := withDom d { rec1 d.kind .on (some x) .none with heldReq := some .on };
        (domAt s d).trans = some x ∧ nextRequest (domAt s d) x = some .on ∧ domUsable s d = true)
      ∧ (domAt (withDom d (rec1 d.kind .on none .none)) d).trans = none)
    ∧ (let s := setDom { up .ready with time := { (up .ready).time with asleep := some (0, 5, 7), st := .locked } } ⟨.time, 0⟩
        (rec1 .time .retention (some .on) .none);
      powered s = true ∧ (domAt s ⟨.time, 0⟩).trans = some .on ∧ s.time.asleep = some (0, 5, 7) ∧ s.time.st = .locked
        ∧ (domAt s ⟨.time, 0⟩).heldReq = none)
    ∧ (let s := withDom ⟨.link, 31⟩ (rec1 .link .off (some .on) .none);
      (domAt s ⟨.link, 31⟩).trans = some .on ∧ (domAt s ⟨.link, 31⟩).st = .off ∧ (domAt s ⟨.link, 31⟩).heldReq = none
        ∧ (linkAt s 31).rxBuf = [])
    ∧ (let s := setLink (withDom ⟨.link, 31⟩ (rec1 .link .retention (some .on) .none)) 31
        ⟨false, [], none, [], [(.bad .badIcrc, 0), (.pfc 1 0, 5)], []⟩;
      let u := endTrans s ⟨.link, 31⟩ .on;
      (domAt s ⟨.link, 31⟩).trans = some .on ∧ (domAt s ⟨.link, 31⟩).heldReq = none
        ∧ good (drainRx 31 (linkAt s 31).rxBuf (setLink u 31 { linkAt u 31 with rxBuf := [] })) = true)
    ∧ (domAt (up .ready) ⟨.core, 0⟩).offtimer = 0
    ∧ (∀ d ∈ [(⟨.core, 1023⟩ : Dom), ⟨.vault, 1023⟩, ⟨.link, 31⟩],
      let s := withDom d { rec1 d.kind .retention none .none with offtimer := 9 };
      (domAt s d).st = .retention ∧ (domAt s d).trans = none ∧ (domAt s d).action = .retention ∧ (domAt s d).offtimer ≠ 0) := by
  decide +kernel

theorem test_witness_Wakes :
    (∀ d ∈ doms1, ∀ w ∈ [WakeSrc.poke, if d.kind = .link then .txFrame else .packet],
      wakeOk (up .ready) d w = true ∧ domUsable (withDom d (rec1 d.kind .off none .none)) d = true
        ∧ (∀ st ∈ [DomSt.retention, .off], (domAt (withDom d (rec1 d.kind st none .none)) d).st ≠ .on)
        ∧ (∀ x ∈ [DomSt.on, .off], (domAt (withDom d (rec1 d.kind .retention (some x) .none)) d).trans = some x)
        ∧ (∀ q ∈ [SleepReq.none, .raised, .window], let s := withDom d (rec1 d.kind .on none q);
          domOn s d = true ∧ (domAt s d).sleep = q))
    ∧ wakeOk (withDom ⟨.link, 31⟩ (rec1 .link .retention none .none)) ⟨.link, 31⟩ .rxFrame = true
    ∧ wakeOk (up .ready) ⟨.link, 31⟩ .energy = true ∧ wakeOk (up .ready) ⟨.core, 0⟩ .hint = true ∧ wakeOk (up .ready) ⟨.core, 0⟩ .work = true
    ∧ wakeOk (up .ready) ⟨.time, 0⟩ .timeLink = true ∧ wakeOk (up .ready) ⟨.time, 0⟩ .policyNone = true
    ∧ wakeOk (up .ready) ⟨.host, 0⟩ .pcie = true := by decide +kernel

/-- Core 0 in Retention with a retained bank, after two brown-outs in the last second. -/
def browned (keepFail brownout : List Nat) : State :=
  let s := setDom (up .ready) ⟨.core, 0⟩ (rec1 .core .retention none .none);
  { s with doms := { s.doms with retained := [(0, 1)], brownTimes := [(0, [0, 0])], keepFail, brownout } }

theorem test_witness_KeepRegulators :
    powered (browned [] []) = true ∧ coreEnabled (browned [] []) 0 = true ∧ inRetention (browned [] []) 0 = true
    ∧ (domAt (browned [] []) ⟨.core, 0⟩).trans = none ∧ (0, 1) ∈ (browned [] []).doms.retained
    ∧ 2 ≤ ((FMap.getD (browned [] []).doms.brownTimes 0 []).filter fun n => decide (nowNs (browned [] []) < n + 1000000000)).length
    ∧ keepFailed (browned [] []) 0 = false ∧ keepFailed (browned [0] []) 0 = true
    ∧ 0 ∈ (browned [] [0]).doms.brownout ∧ 0 ∉ (browned [] []).doms.brownout := by decide +kernel

/-- The hottest array, store and DRAM readings of sheaf 0, with a vault's layers. -/
def hot (a b d : Int) : State :=
  withTherm fun t => { t with readings := [(0, a), (4, b), (768, d)], hotArray := [(0, a)], hotStore := [(0, b)], hotDram := [(0, d)] }

theorem test_witness_Sensors :
    powered (up .ready) = true ∧ sensorNo (.array 127 3) = some 765 ∧ sensorNo (.store 127 1) = some 767
    ∧ sensorNo (.dram 127 4) = some (dramSensor 127 4)
    ∧ badReading none = true ∧ badReading (some (-21)) = true ∧ badReading (some 151) = true ∧ badReading (some (-20)) = false
    ∧ badReading (some 150) = false ∧ excluded (up .ready) 0 0 = false
    ∧ excluded (withTherm fun t => { t with excluded := [0] }) 0 0 = true
    ∧ (∀ x ∈ [(93 : Int), 94, 95, 96], hottestIn (checkSensors (hot 70 70 x) 0 []) 0 (dramNos (0 % 128)) allDram = some (x, 768))
    ∧ 0 ∈ sheafVaults (hot 70 70 96) 0
    ∧ (let s := withTherm fun t => { t with readings := [(0, 80), (6, 90)], excluded := [0] };
      excluded s 0 0 = true ∧ liveTemps s 0 (groupNos 0) = [] ∧ countsAs s 0 0 (some 90) = some 95
        ∧ hottestIn s 0 (arrayNos 0) [0, 6] = some (95, 0))
    ∧ tripAt (.array 0 0) ≤ 115 ∧ 114 < tripAt (.array 0 0) ∧ tripAt (.dram 0 0) ≤ 105 ∧ 104 < tripAt (.dram 0 0) := by
  decide +kernel

theorem test_witness_HottestOfSheaf :
    hottest (checkSensors (hot 70 71 72) 0 []) 0 allArray = some (70, 0) ∧ hottest (checkSensors (hot 70 71 72) 0 []) 0 allStore = some (71, 4)
    ∧ hottest (checkSensors (hot 70 71 72) 0 []) 0 allDram = some (72, 768) := by decide +kernel

/-- Warnings and a flow emergency with a number of good polls. -/
def flowing (emerg : Bool) (ok : Nat) : State :=
  withTherm fun t => { t with emerg, okPolls := ok, ok2Polls := ok, warn1 := true, warn2 := true, flow := 320, inlet := 4480 }

/-- An outlet sensor after a number of polls without a reading. -/
def tracked (n : Nat) : State := withTherm fun t => { t with tray := [(1, ⟨none, 0, n⟩)] }

theorem test_witness_TrayReplies :
    trayValid 0x2A01FF80 = true ∧ (⟨some 41, 20, 0⟩ : TrayTrack).seq ≠ some (traySeq 0x2A01FF80) ∧ (⟨some 42, 8, 0⟩ : TrayTrack).same < 9
    ∧ trayValid 0x2AFEFF80 = false ∧ (⟨some 42, 9, 0⟩ : TrayTrack).seq = some (traySeq 0x2A01FF80) ∧ 9 ≤ (⟨some 42, 9, 0⟩ : TrayTrack).same
    ∧ powered (tracked 19) = true ∧ firmwareRuns (tracked 19) = true
    ∧ (∀ n ∈ [18, 19], trayStep (trayAt (tracked n) .outlet) .nack = (⟨none, 1, n + 1⟩, none))
    ∧ (∀ k ∈ [TrayKind.inlet, .outlet, .flow], (trayStep (trayAt (tracked 19) k) (.reply 0x2A01FF80)).2 = some (-128)) := by decide +kernel

/-- The package draws more heat than the flow carries away. -/
def short (heat : Bool) (n : Nat) : State :=
  regSetFld (withTherm fun t => { t with heat, heatPolls := n }) (pwrReg 0 0x108) 31 16 1001

theorem test_witness_Flow :
    firmwareRuns (flowing true 1001) = true ∧ powered (flowing true 1001) = true
    ∧ (flowing true 1001).thermal.emerg = true ∧ 1001 ≤ (flowing true 1001).thermal.okPolls
    ∧ (flowing false 1001).thermal.emerg = false ∧ (flowing true 1000).thermal.okPolls < 1001
    ∧ (flowing true 1001).thermal.outletSilent = false
    ∧ (flowing false 0).thermal.flow = ((320 : Nat) : Int) ∧ inletNow (flowing false 0) ≤ 35 * 128
    ∧ (withTherm fun t => { t with flow := 319 }).thermal.flow < 320
    ∧ 5760 < inletNow (withTherm fun t => { t with flow := 400, inlet := 5761, inletSilent := false })
    ∧ (flowing true 1001).thermal.warn1 = true ∧ (flowing true 1001).thermal.warn2 = true ∧ 1001 ≤ (flowing true 1001).thermal.ok2Polls
    ∧ (up .ready).thermal.warn1 = false ∧ (up .ready).thermal.warn2 = false
    ∧ heatShort (short false 0) = true ∧ 2001 ≤ (short false 2001).thermal.heatPolls ∧ (short false 2001).thermal.heat = false
    ∧ (short false 2000).thermal.heatPolls < 2001 ∧ (short true 2001).thermal.heat = true
    ∧ heatShort (up .ready) = false := by decide +kernel

/-- An allowance of sheaf 0, at some temperatures. -/
def allowed (a : Int) (l : FMap Nat) : State := withTherm fun t => { t with hotArray := [(0, a)], allow := l }

theorem test_witness_Allowance :
    (∀ l ∈ [[], [(0, 5000)]], ∀ a ∈ [(92 : Int), 93, 95, 96, 105], FMap.find (allowed a l).thermal.allow 0 = FMap.find l 0
      ∧ thermalEmergency (allowed a l) 0 = false)
    ∧ thermalEmergency (allowed 106 []) 0 = true ∧ throttleTarget (allowed 80 []) = 95
    ∧ 0 < excess (allowed 96 []) 0 ∧ excess (allowed 95 []) 0 = 0 ∧ excess (allowed 93 []) 0 = -2 ∧ excess (allowed 92 []) 0 < -2 := by
  decide +kernel

theorem test_witness_CeilingsAndWear :
    coreEnabled (hot 70 71 72) 0 = true ∧ reserveCore (hot 70 71 72) 0 = false
    ∧ (let s := { hot 70 71 72 with job := { (up .ready).job with isOpen := true, c0Cores := 1 } };
      reserveCore s 0 = true ∧ bit (regGet s (thmReg 0 0)) 1 = false)
    ∧ hottestOf (hot 70 71 72) 0 (arrayNos 0) allArray = some 70 ∧ hottestOf (hot 99 71 72) 0 (arrayNos 0) allArray = some 99
    ∧ hottestOf (hot 98 71 72) 0 (arrayNos 0) allArray = some 98 ∧ hottestOf (up .ready) 0 (arrayNos 0) allArray = none
    ∧ FMap.find (up .ready).thermal.hotStore 0 = none
    ∧ (∀ x ∈ [(30 : Int), 39, 40, 45, 46], ∀ c ∈ [[], [0]], ∀ hi ∈ [(60 : Int), 70],
      let s := { (withTherm fun t => { t with hotStore := [(0, x)], cycled := c }) with
        wear := { (up .ready).wear with tmin := [(0, 40)], tpeak := [(0, hi)] } };
      FMap.find s.thermal.hotStore 0 = some x ∧ FMap.find s.wear.tmin 0 = some 40 ∧ FMap.find s.wear.tpeak 0 = some hi ∧ s.thermal.cycled = c)
    ∧ (45 : Int) ≤ max 70 45 - 25 ∧ (40 : Int) + 25 ≤ max 70 45 ∧ max 70 46 - 25 < (46 : Int) ∧ (39 : Int) < 40 ∧ max 60 39 - 25 < (39 : Int)
    ∧ (30 : Int) ≤ max 60 30 - 25 ∧ max 60 30 < (40 : Int) + 25
    ∧ FMap.find (hot 0 45 0).wear.tmin 0 = none
    ∧ wearOk (.ageing 1023 3 65535) = true ∧ wearOk (.resistance 7 63 65535) = true ∧ wearOk (.eye 31 7 400000) = true
    ∧ wearOk (.hours 9) = true ∧ wearOk (.ageing 1024 0 0) = false := by decide +kernel

/-! ### Well-formedness refuses an operand outside its field -/

/-- Field records with every field zero. -/
def sc0 : ScalarF := ⟨0, 0, 0, 0, 0⟩
def dmaF0 : DmaF := ⟨0, 0, 0, 0, 0, false, 0, 0⟩
def feedF0 : FeedF := ⟨0, 0, 0, 0, 0, 0, false, false, false, 0⟩
def drainF0 : DrainF := ⟨0, 0, 0, 0, 0, 0, false, false, 0⟩
def redsF0 : RedsF := ⟨0, 0, 0, false, 0, 0, 0, 0⟩
def vopF0 : VopF := ⟨0, 0, 0, 0, 0, false⟩
def atbF0 : AtbF := ⟨0, 0, 0, 0, 0, 0, 0, 0, 0⟩
def rowF0 : RowF := ⟨0, 0, 0, 0, 0⟩

theorem test_wf_tile_fields :
    (∀ f ∈ [{ sc0 with d := 32 }, { sc0 with a := 32 }, { sc0 with b := 32 }, { sc0 with fn := 512 }, { sc0 with imm := 2 ^ 32 }],
      f.wf = false)
    ∧ (∀ f ∈ [{ dmaF0 with a := 32 }, { dmaF0 with b := 32 }, { dmaF0 with c := 32 }, { dmaF0 with ch := 4 }, { dmaF0 with evt := 64 },
      { dmaF0 with dstride := 2 ^ 16 }, { dmaF0 with sstride := 2 ^ 16 }], f.wf = false)
    ∧ (∀ f ∈ [(⟨32, 0, false, false⟩ : WaitcF), ⟨0, 32, false, false⟩], f.wf = false)
    ∧ (∀ f ∈ [(⟨32, 0, false⟩ : SignalF), ⟨0, 64, false⟩], f.wf = false)
    ∧ (∀ f ∈ [(⟨16, 0, 0⟩ : TdescF), ⟨0, 32, 0⟩, ⟨0, 0, 2 ^ 32⟩], f.wf = false)
    ∧ (∀ f ∈ [(⟨16, 0, 0⟩ : TadjF), ⟨0, 32, 0⟩, ⟨0, 0, 32⟩], f.wf = false)
    ∧ (∀ f ∈ [{ feedF0 with ta := 16 }, { feedF0 with tb := 16 }, { feedF0 with k := 32 }, { feedF0 with x := 32 },
      { feedF0 with plan := 16 }, { feedF0 with cplx := 4 }, { feedF0 with h := 16 }], f.wf = false)
    ∧ (∀ f ∈ [{ drainF0 with t := 16 }, { drainF0 with p := 32 }, { drainF0 with s := 32 }, { drainF0 with c := 32 },
      { drainF0 with w := 32 }, { drainF0 with round := 4 }, { drainF0 with gslot := 256 }], f.wf = false)
    ∧ (∀ f ∈ [{ redsF0 with a := 32 }, { redsF0 with tag := 32 }, { redsF0 with t := 16 }, { redsF0 with efmt := 8 },
      { redsF0 with p := 32 }, { redsF0 with ch := 4 }, { redsF0 with evt := 64 }], f.wf = false)
    ∧ (∀ f ∈ [{ vopF0 with d := 16 }, { vopF0 with a := 16 }, { vopF0 with b := 16 }, { vopF0 with s := 32 }, { vopF0 with fn := 64 }],
      f.wf = false)
    ∧ (∀ f ∈ [{ atbF0 with q := 16 }, { atbF0 with k := 16 }, { atbF0 with v := 16 }, { atbF0 with o := 16 }, { atbF0 with m := 32 },
      { atbF0 with mask := 32 }, { atbF0 with pfmt := 4 }, { atbF0 with kind := 16 }, { atbF0 with c := 32 }], f.wf = false) := by decide

theorem test_wf_tile_words :
    (∀ i ∈ [TileInstr.alu { sc0 with d := 32 }, .fence 256, .phint 16 0, .phint 0 (2 ^ 16), .redw 32], i.wf = false)
    ∧ (∀ i ∈ [RowInstr.op .copy { rowF0 with d := 8 }, .op .copy { rowF0 with a := 8 }, .op .copy { rowF0 with b := 8 },
      .op .copy { rowF0 with c := 8 }, .op .copy { rowF0 with bs := 4 }, .set false 8 false 0, .set false 0 false (2 ^ 16), .add 8 0,
      .add 0 (2 ^ 16), .loop 4 0, .loop 0 256], i.wf = false) := by decide

theorem test_wf_boot_and_pails :
    (∀ i ∈ [Instr.pwrokRise ⟨⟨false, false, 4⟩, []⟩, .pwrokRise ⟨⟨false, false, 0⟩, [⟨8, false, 0, List.replicate 9 0⟩]⟩,
      .pwrokRise ⟨⟨false, false, 0⟩, [⟨0, false, 4, List.replicate 9 0⟩]⟩, .pwrokRise ⟨⟨false, false, 0⟩, [⟨0, false, 0, [0]⟩]⟩, .vaultTraining [1024], .knownAnswerTest [1024] [], .knownAnswerTest [] [(1024, 0)],
      .knownAnswerTest [] [(0, 4)], .pcieConfigRequest (.read 2), .pcieConfigRequest (.read 4096), .pcieConfigRequest (.write 2 0),
      .pcieConfigRequest (.write 4096 0), .pcieConfigRequest (.write 0 (2 ^ 32)), .watchdogExpiry 4, .devInfo ⟨72, 0, false, 0⟩,
      .devInfo ⟨0, 2 ^ 32, false, 0⟩, .devInfo ⟨0, 0, false, 2048⟩, .floorplanGet req (2 ^ 64) 0, .floorplanGet req 0 (2 ^ 32),
      .jobOpen req ⟨256, false, 0, 0, 0, 0⟩, .jobOpen req ⟨0, false, 256, 0, 0, 0⟩, .jobOpen req ⟨0, false, 0, 2 ^ 32, 0, 0⟩,
      .jobOpen req ⟨0, false, 0, 0, 2 ^ 64, 0⟩, .jobOpen req ⟨0, false, 0, 0, 0, 2 ^ 32⟩, .jobClose ⟨72, 0, false, 0⟩,
      .queueDestroy req 65536, .queueFlush req 65536, .queueFlushAbort req 65536], i.wf = false)
    ∧ (∀ p ∈ [{ newCq with queue := 65536 }, { newCq with cls := 256 }, { newCq with log2depth := 256 }, { newCq with weight := 256 },
      { newCq with cq := 65536 }, { newCq with base := 2 ^ 64 }, { newCq with tset := 2 ^ 64 }, { newCq with group := 256 },
      { newCq with vector := 2 ^ 16 }], (Instr.queueCreate req p).wf = false) := by decide

theorem test_wf_configuration :
    (∀ i ∈ [Instr.powerSetCap req ⟨2 ^ 32, 0, 0, 0⟩, .powerSetCap req ⟨0, 2 ^ 32, 0, 0⟩, .powerSetCap req ⟨0, 0, 2 ^ 32, 0⟩,
      .powerSetCap req ⟨0, 0, 0, 2 ^ 32⟩, .powerSetOppAuto req 256, .powerSetOppPin req 256 0, .powerSetOppPin req 0 256,
      .domainPolicyTimers req ⟨.core, false, false, .none, 2 ^ 32, 0, 0⟩, .domainPolicyTimers req ⟨.core, false, false, .none, 0, 2 ^ 32, 0⟩,
      .domainPolicyTimers req ⟨.core, false, false, .none, 0, 0, 2 ^ 64⟩, .domainPolicyRetain req false (2 ^ 16) 0,
      .domainPolicyRetain req false 0 (2 ^ 64), .domainPolicyWake req .core false (2 ^ 64), .domainPolicyAdmit ⟨72, 0, false, 0⟩ false,
      .licenceInstall req ⟨⟨2 ^ 32, 0, 0, 0, 0, 0, 0⟩, true⟩, .licenceInstall req ⟨⟨0, 2 ^ 16, 0, 0, 0, 0, 0⟩, true⟩,
      .licenceInstall req ⟨⟨0, 0, 2 ^ 64, 0, 0, 0, 0⟩, true⟩, .licenceInstall req ⟨⟨0, 0, 0, 2 ^ 32, 0, 0, 0⟩, true⟩,
      .licenceInstall req ⟨⟨0, 0, 0, 0, 2 ^ 32, 0, 0⟩, true⟩, .licenceInstall req ⟨⟨0, 0, 0, 0, 0, 2 ^ 64, 0⟩, true⟩,
      .licenceInstall req ⟨⟨0, 0, 0, 0, 0, 0, 2 ^ 768⟩, true⟩, .licenceList req (2 ^ 16), .linkConfig req ⟨{ LinkP.reset with devid := 2 ^ 16 }, true⟩,
      .linkConfig req ⟨{ LinkP.reset with linkmask := 2 ^ 32 }, true⟩], i.wf = false)
    ∧ (∀ i ∈ [Instr.counterAccessUser req 256, .counterAccessSelect req ⟨false, 256, 0, 0⟩, .counterAccessSelect req ⟨false, 0, 256, 0⟩,
      .counterAccessSelect req ⟨false, 0, 0, 2 ^ 64⟩, .snapshotConfigStart req { snap with mask := 32 },
      .snapshotConfigStart req { snap with period := 2 ^ 64 }, .snapshotConfigStart req { snap with start := 2 ^ 64 },
      .snapshotConfigStart req { snap with base := 2 ^ 64 }, .snapshotConfigStart req { snap with entries := 2 ^ 32 },
      .guardConfigPolicy req (2 ^ 32), .guardConfigSlot req ⟨256, 0, 0, 0, false⟩, .guardConfigSlot req ⟨0, 2 ^ 32, 0, 0, false⟩,
      .guardConfigSlot req ⟨0, 0, 2 ^ 64, 0, false⟩, .guardConfigSlot req ⟨0, 0, 0, 2 ^ 64, false⟩, .guardConfigLog req (2 ^ 64) 0 0,
      .guardConfigLog req 0 (2 ^ 32) 0, .guardConfigLog req 0 0 (2 ^ 16), .guardConfigResolveCommit req 65536,
      .guardConfigResolveDiscard req 65536, .wearReportDetail req (2 ^ 32) 0, .wearReportDetail req 0 (2 ^ 64),
      .faultRecordGet req (2 ^ 32), .fwUpdate req ⟨2 ^ 64, 0, false, false, true⟩, .fwUpdate req ⟨0, 2 ^ 32, false, false, true⟩,
      .katRun req [1024]], i.wf = false) := by decide +kernel

theorem test_wf_queues :
    (∀ f ∈ [Instr.commandCompletion, .kernel, .gemm, .attend, .reduce, .copy, .fill, .pageOpAlloc, .pageOpShare, .pageOpCow, .pageOpFree,
      .tillerLookup, .tillerInsert, .tillerRemove, .winnow, .vaultModeProcessor, .vaultModeMemory, .rowRun, .rowFence, .stepBegin,
      .stepCommit, .phaseHint, .wqFence, .wqSignal, .wqSignalDoorbell, .wait, .waitPoll, .timeWait, .timeWaitReached, .abort],
      (f 65536 0).wf = false ∧ (f 0 65536).wf = false)
    ∧ (∀ i ∈ [Instr.wqDoorbell 65536 0, .wqDoorbell 0 (2 ^ 64), .cqDoorbell 65536 0, .cqDoorbell 0 (2 ^ 64), .c0TokenRefill 256,
      .wqFetch 65536, .wqDispatch 65536, .kernelCoreStart 1024, .stepEvaluation 65536], i.wf = false) := by decide

theorem test_wf_cores_and_vaults :
    (∀ f ∈ [Instr.endk, .drainStart, .drainComplete, .redsComplete, .vopExecute, .atbExecute, .hintRampStart, .hintExpiry, .droopDetect,
      .droopRecovery, .coreCeilingUpdate, .rowEnd], (f 1024).wf = false)
    ∧ (∀ i ∈ [Instr.alu 1024 sc0, .alui 0 { sc0 with d := 32 }, .dmv 1024 dmaF0, .dmr 0 { dmaF0 with ch := 4 },
      .dmaDescriptorStart 1024 0 [], .dmaDescriptorStart 0 4 [], .fence 1024 0, .fence 0 256, .phint 0 16 0, .phint 0 0 (2 ^ 16),
      .feed 0 { feedF0 with k := 32 }, .feedStart 1024 [], .passBlockClose 0 128 0, .passBlockClose 0 0 128, .churnLaneRead 0 128 0,
      .churnLaneRead 0 0 128, .redw 0 32, .rowOpXor 1024 rowF0, .rowOpRecode 0 true { rowF0 with bs := 4 }, .rowBankOperation 0 80,
      .rowSet 0 false 8 false 0, .rowSet 0 false 0 false (2 ^ 16), .rowAdd 0 8 0, .rowAdd 0 0 (2 ^ 16), .rowLoop 0 4 0, .rowLoop 0 0 256,
      .mcRespDelivery 0 1024, .vaultRequestPerform 1024 [], .mergeReadData 1024 0, .refreshCommand 1024 0 false, .refreshCommand 0 5 false,
      .scrubWord 1024 none, .clampEngage 1024 true], i.wf = false) := by decide

theorem test_wf_registers_and_rings :
    (∀ i ∈ [Instr.pguCtrlInit 8, .pguInitComplete 8, .w1cClearWrite (.addr (2 ^ 56)) 0 0, .w1cClearWrite (.bar0 (2 ^ 26)) 0 0,
      .registerWrite (.addr (2 ^ 56)) 8 0, .registerWrite (.bar0 (2 ^ 26)) 8 0, .registerWrite (.addr 0) 0 0, .registerWrite (.addr 0) 9 0,
      .ptmDialogue (2 ^ 64), .bar2Access (.read (2 ^ 39) 8), .bar2Access (.read 0 4097), .bar2Access (.write (2 ^ 39) []),
      .ringPacketInject 2048 0, .ringPacketInject 0 4, .emptySlotRequest 2048 0, .emptySlotRequest 0 4, .ringFlitUe 0 ⟨2048, 1⟩, .ringFlitUe 0 ⟨0, 0⟩, .ringFlitUe 0 ⟨0, 3⟩,
      .reducePassStop 0 2048, .reduceHoldRelease 2048 0, .reduceTimeout 2048 0, .reduceTimeout 0 (2 ^ 32),
      .bridgeFlitCrcError 8 false 0, .bridgeFlitCrcError 0 false 4, .bridgeLaneRetrain 8 false 0 [], .bridgeLaneRetrain 0 false 4 [],
      .bridgeLaneRetrain 0 false 0 (List.replicate 10 0), .bridgeLaneRetrainEnd 8 false 0, .bridgeLaneRetrainEnd 0 false 4,
      .registerAccessNotOn ⟨.addr (2 ^ 56), false⟩, .registerAccessNotOn ⟨.bar0 (2 ^ 26), false⟩, .msixVectorUnmask 2048], i.wf = false)
    ∧ (Instr.bar2Access (.write 0 (List.replicate 4096 0))).wf = true ∧ (Instr.bar2Access (.write 0 (List.replicate 4097 0))).wf = false := by
  decide +kernel

theorem test_wf_links_and_time :
    (∀ f ∈ [{ blankFrame with srcDev := 4096 }, { blankFrame with srcSheaf := 8 }, { blankFrame with dstDev := 4096 },
      { blankFrame with dstSheaf := 8 }, { blankFrame with cls := 4 }, { blankFrame with psn := 2 ^ 32 },
      { blankFrame with apsn := 2 ^ 32 }, { blankFrame with addr := 2 ^ 64 }, { blankFrame with bytes := 257 },
      { blankFrame with value := 2 ^ 64 }, { blankFrame with payload := List.replicate 257 0 }, { blankFrame with rtag := 2 ^ 32 },
      { blankFrame with rcount := 2 ^ 16 }, { blankFrame with relems := 2 ^ 16 }, { blankFrame with contrib := 2 ^ 16 },
      { blankFrame with srcLink := 32 }], f.wf = false)
    ∧ (∀ f ∈ [Instr.stobyWrite, .stobyRead, .stobyReadResp, .stobyReduceWrite, .stobyAtomic, .stobyDoorbell, .stobyAck],
      (f 32 blankFrame).wf = false)
    ∧ (∀ i ∈ [Instr.stobyOperationSend 2048, .linkBringup 32 ⟨0, none⟩, .linkBringup 0 ⟨256, none⟩, .linkRetryTimer 32, .linkDown ⟨32, 0⟩,
      .pfcFrameReceive 32 0 0, .pfcFrameReceive 0 256 0, .pfcFrameReceive 0 0 (2 ^ 16), .arpRequest 32 ⟨0, 0⟩, .arpRequest 0 ⟨(2 ^ 32), 0⟩, .arpRequest 0 ⟨0, (2 ^ 48)⟩,
      .neighbourSolicitation 32 ⟨0, 0⟩, .neighbourSolicitation 0 ⟨(2 ^ 128), 0⟩, .neighbourSolicitation 0 ⟨0, (2 ^ 48)⟩, .ptpAnnounce 32 (ann 0), .ptpSync 32 (stamp false),
      .ptpFollowUp 32 (stamp false), .ptpDelayResp 32 (stamp false), .pfcPauseExpiry 32 0, .pfcPauseExpiry 0 4,
      .receivedFrameDiscard 32 .badIcrc, .addressResolutionReply 32 0], i.wf = false) := by decide +kernel

theorem test_wf_power_and_cooling :
    (∀ i ∈ [Instr.avsbusSample [⟨8, 0, 0⟩], .avsbusSample [⟨0, 7, 0⟩], .avsbusReadingMissing 8 0, .avsbusReadingMissing 0 7,
      .pmbusPoll 0 0 0 [⟨10, 0⟩], .pmbAlert [⟨0, 8⟩], .oppChangeEnd 8, .governorRound 8 [], .cellSelfTest 8 [], .cellSelfTest 0 [⟨128, false⟩],
      .retentionReevaluation 8, .keepBrownout 8, .keepSelfTest 8 true, .keepRegulatorRecovery 8, .sensorSample 8 [],
      .sensorSample 0 [⟨.array 128 0, none⟩], .sensorSample 0 [⟨.array 0 4, none⟩], .sensorSample 0 [⟨.store 128 0, none⟩],
      .sensorSample 0 [⟨.store 0 2, none⟩], .sensorSample 0 [⟨.dram 128 0, none⟩], .sensorSample 0 [⟨.dram 0 5, none⟩],
      .hardwareTrip 8 ⟨.array 0 0, none⟩, .hardwareTrip 0 ⟨.dram 0 5, none⟩, .flowWarningClear 0, .flowWarningClear 3,
      .thermalAllowanceUpdate 8, .thermalCycleSample 8, .jobFaultQuiesce (some (.parity 1024)), .jobFaultQuiesce (some (.queueEngine 2))],
      i.wf = false)
    ∧ (∀ f ∈ [Instr.idleTimerExpiry, .sleepRequestAccept, .entryWindowEnd, .domainTransitionEnd, .offtimerExpiry],
      ∀ d ∈ [(⟨.core, 1024⟩ : Dom), ⟨.vault, 1024⟩, ⟨.link, 32⟩, ⟨.fabric, 8⟩, ⟨.time, 1⟩, ⟨.host, 1⟩], (f d).wf = false)
    ∧ (Instr.domainWake ⟨.link, 32⟩ .poke).wf = false := by decide

/-! ### Words written out from the encoding tables -/

/-- Tables 4.7 and 4.9: ADD s1, s2, s3 is opcode 01, D 00001, A 00010, B 00011. -/
theorem test_word_alu : decodeTile 0b0000000100001000100001100000000000000000000000000000000000000000 = some (.alu ⟨1, 2, 3, 0, 0⟩) := by
  decide

/-- Table 4.19: DMV with channel 2, event 5, MDIR 1, strides 3 and 4. -/
theorem test_word_dmv :
    decodeTile 0b0001000000001000100001110000101100000000000000110000000000000100 = some (.dmv ⟨1, 2, 3, 2, 5, true, 3, 4⟩) := by decide

/-- Table 4.12: FEED of tiles 1 and 2, K in s3, X in s4, plan 5, ACCUMULATE. -/
theorem test_word_feed :
    decodeTile 0b0100000000010010000110010000010010000000000000000000000000000000
      = some (.feed ⟨1, 2, 3, 4, 1, 0, true, false, false, 0⟩) := by decide +kernel

/-- Table 8.3: XOR D2 ← A3, B4 in bank set 1, and LOOP of counter 3 to 1. -/
theorem test_word_row :
    decodeRow 0b01010100111000000100000000000000 = some (.op .xor ⟨2, 3, 4, 0, 1⟩)
    ∧ decodeRow 0b11001100000000010000000000000000 = some (.loop 3 1) := by decide

/-- A reserved opcode, fields of END that mean nothing (R110), and a reserved bit (Tables 4.7 and 8.3). -/
theorem test_word_reserved : decodeTile 0 = none ∧ decodeTile 0x0F00000000000001 = some .endk ∧ decodeRow 0xD0000000 = none
    ∧ decodeRow 0x10080000 = none := by decide

/-! ### Single steps -/

/-- What a step leaves of a state whose queue holds one command. -/
def after {α : Type} (i : Instr) (s : State) (p : State → α) : Option α := match step { s with pending := [i] } with
  | .next t => some (p t)
  | _ => none

/-- An empty queue lets 1 ns pass, and a slew adds 1 ns at each 5,000th (R334); DTIME has 16 fraction bits. -/
theorem test_tick : (match step (slews 1) with
    | .next t => t.time.dtime == 2 * 2 ^ 16 && t.time.slewLeft == 0
    | _ => false) = true := by decide +kernel

/-- PWROK low stops everything but the always-on domain (R357). -/
theorem test_pwrok_fall : after .pwrokFall (up .ready) powered = some false := by decide +kernel

/-- 64-bit addition wraps (R110). -/
theorem test_alu_wraps :
    after (.alu 0 (sc 0 0)) (running (.alu (sc 0 0)) [(2, 2 ^ 64 - 1), (3, 2)] []) (fun t => FMap.find (coreAt t 0).sregs 1) = some (some 1) := by
  decide +kernel

/-- LI sign-extends its immediate (Table 4.9). -/
theorem test_li_sign :
    after (.li 0 (sc 0 0x80000000)) (running (.li (sc 0 0x80000000)) [] []) (fun t => FMap.find (coreAt t 0).sregs 1)
      = some (some 0xFFFFFFFF80000000) := by decide +kernel

/-- SQ stores two registers, sixteen bytes, least significant first (R10, Table 4.9). -/
theorem test_sq_bytes :
    after (.sq 0 ⟨0, 0, 2, 0, 64⟩) (running (.sq ⟨0, 0, 2, 0, 64⟩) [(2, 0x0807060504030201), (3, 9)] [])
      (fun t => (List.range 17).map fun i => FMap.find t.mem (sramKey 0 (64 + i)))
      = some [some 1, some 2, some 3, some 4, some 5, some 6, some 7, some 8, some 9, some 0, some 0, some 0, some 0, some 0, some 0, some 0,
        none] := by decide +kernel

/-- A droop event is shown and counted in its sheaf alone (R369). -/
theorem test_droop_counted :
    after (.droopDetect 130) (up .ready) (fun t => (regGet t (pwrReg 1 0x28), bit (regGet t (pwrReg 1 0)) 9, regGet t (pwrReg 0 0x28)))
      = some (1, true, 0) := by decide +kernel

/-- A hardware trip at 115 °C stops every clock but ACLK (R410, Table 15.5). -/
theorem test_trip :
    after (.hardwareTrip 7 ⟨.store 127 1, some 115⟩) (up .ready) powered = some false
    ∧ after (.hardwareTrip 7 ⟨.store 127 1, some 114⟩) (up .ready) powered = some true := by decide +kernel

/-- Table 12.7: a signed little-endian VALUE in bytes 0 and 1, VALID in byte 2, SEQ in byte 3; the twentieth poll without a
reading makes a sensor silent (R352). -/
theorem test_tray_reply :
    trayStep ⟨none, 0, 7⟩ (.reply 0x2A01FF80) = (⟨some 42, 0, 0⟩, some (-128))
    ∧ trayStep ⟨some 42, 9, 7⟩ (.reply 0x2A01FF80) = (⟨some 42, 10, 8⟩, none)
    ∧ after (.traySensorPoll .outlet .nack) (tracked 18) (·.thermal.outletSilent) = some false
    ∧ after (.traySensorPoll .outlet .nack) (tracked 19) (·.thermal.outletSilent) = some true := by decide +kernel

/-- An inlet below 15 °C, in 1/128 °C, sets THM_STATUS.INLET_LOW (R406). -/
theorem test_inlet_low :
    after (.traySensorPoll .inlet (.reply 0x0101077F)) (up .ready) (fun t => bit (regGet t (thmReg 0 0)) 6) = some true
    ∧ after (.traySensorPoll .inlet (.reply 0x01010780)) (up .ready) (fun t => bit (regGet t (thmReg 0 0)) 6) = some false := by decide +kernel

/-- Table 14.5: 1.0 A supplies 111 banks at 75 °C. -/
theorem test_banks_within : banksWithin 75 = 111 ∧ banksWithin 115 = 43 := by decide

/-- A poke in the entry window is lost (Example 14.1), and one before acceptance withdraws the request (R394). -/
theorem test_poke :
    after (.domainWake ⟨.core, 5⟩ .poke) (withDom ⟨.core, 5⟩ (rec1 .core .on none .window)) (fun t => (domAt t ⟨.core, 5⟩).sleep) = some .window
    ∧ after (.domainWake ⟨.core, 5⟩ .poke) (withDom ⟨.core, 5⟩ (rec1 .core .on none .raised)) (fun t => (domAt t ⟨.core, 5⟩).sleep)
      = some .none := by decide +kernel

/-- A row counter that is not 0 is decremented and control passes to the target (Table 8.3). -/
theorem test_row_loop :
    after (.rowLoop 0 2 1) (withRow (rowState (.loop 2 1)) fun u => { u with c := [0, 0, 3, 0] })
      (fun t => ((rowUnitAt t 0).pc, (rowUnitAt t 0).c)) = some (1, [0, 0, 2, 0]) := by decide +kernel

/-- 10 µs after its lead with no FEED a hint ends (R380). -/
theorem test_hint_expires :
    after (.hintExpiry 0) (hinted true 10000) (fun t => ((govAt t 0).hint, (govAt t 0).ramping)) = some (none, false) := by decide +kernel

end Sys2Proof.Tests
end

namespace Sys2Proof.Machine

/-! ## Register accesses (O47): R11, R26, R330, R341 to R343, R401, R420 -/

/-! ### Bits of a written value -/

theorem bit_eq_testBit (x i : Nat) : bit x i = x.testBit i := by
  rw [Nat.testBit_eq_decide_div_mod_eq, bit, beq_eq_decide]

@[simp] theorem bit_and (x y i : Nat) : bit (x &&& y) i = (bit x i && bit y i) := by
  simp only [bit_eq_testBit, Nat.testBit_and]

@[simp] theorem bit_or (x y i : Nat) : bit (x ||| y) i = (bit x i || bit y i) := by
  simp only [bit_eq_testBit, Nat.testBit_or]

@[simp] theorem bit_ldiff (x y i : Nat) : bit (Nat.ldiff x y) i = (bit x i && !bit y i) := by
  simp only [bit_eq_testBit, Nat.testBit_ldiff]

@[simp] theorem bit_zero (i : Nat) : bit 0 i = false := by
  rw [bit_eq_testBit, Nat.zero_testBit]

theorem bit_mod_two_pow {x n i : Nat} (h : i < n) : bit (x % 2 ^ n) i = bit x i := by
  simp only [bit_eq_testBit, Nat.testBit_mod_two_pow, h, decide_true, Bool.true_and]

theorem bit_allOnes {n i : Nat} (h : i < n) : bit (2 ^ n - 1) i = true := by
  rw [bit_eq_testBit, Nat.testBit_two_pow_sub_one, decide_eq_true h]

/-- Numbers without a common bit add without a carry. -/
theorem add_eq_or_of_disjoint (x y : Nat) (h : x &&& y = 0) : x + y = x ||| y := by
  induction x using Nat.binaryRec generalizing y with
  | zero => simp
  | bit a m ih =>
    cases y using Nat.bitCasesOn with
    | bit b n =>
      rw [Nat.land_bit, Nat.bit_eq_zero_iff] at h
      rw [Nat.lor_bit, ← ih n h.1]
      cases a <;> cases b <;> simp [Nat.bit_val] at h ⊢ <;> omega

/-- Clearing the bits of a mask by subtraction, as `writeValue` does. -/
theorem sub_and_eq_ldiff (x y : Nat) : x - (x &&& y) = Nat.ldiff x y := by
  have hd : Nat.ldiff x y &&& (x &&& y) = 0 := by
    refine Nat.eq_of_testBit_eq fun i => ?_
    simp only [Nat.testBit_and, Nat.testBit_ldiff, Nat.zero_testBit]
    cases x.testBit i <;> cases y.testBit i <;> rfl
  have hs : Nat.ldiff x y ||| (x &&& y) = x := by
    refine Nat.eq_of_testBit_eq fun i => ?_
    simp only [Nat.testBit_or, Nat.testBit_and, Nat.testBit_ldiff]
    cases x.testBit i <;> cases y.testBit i <;> rfl
  have := add_eq_or_of_disjoint _ _ hd
  omega

/-- What a write makes of each bit by its access type, and a hardware set of the same cycle (R11, R420). -/
theorem bit_writeValue (r : RegSpec) (old v hw i : Nat) :
    bit (writeValue r old v hw) i
      = ((((if bit r.rw i then bit v i else bit old i) && !(bit r.w1c i && bit v i)) || (bit r.w1s i && bit v i))
        || (bit old i && (bit hw i && bit r.w1c i))) := by
  have hd : Nat.ldiff old r.rw &&& (v &&& r.rw) = 0 := by
    refine Nat.eq_of_testBit_eq fun j => ?_
    simp only [Nat.testBit_and, Nat.testBit_ldiff, Nat.zero_testBit]
    cases r.rw.testBit j <;> simp
  simp only [writeValue, sub_and_eq_ldiff, add_eq_or_of_disjoint _ _ hd, bit_or, bit_and, bit_ldiff,
    Bool.and_comm (bit v i) (bit r.w1s i)]
  cases bit r.rw i <;> simp

/-! ### What an access from outside does to the state -/

theorem requestOn_doms (s : State) (d : Dom) : ∃ x, requestOn s d = { s with doms := x } := by
  unfold requestOn releaseBanks
  dsimp only
  repeat' split
  all_goals exact ⟨_, rfl⟩

theorem levelWake_doms (s : State) (d : Dom) : ∃ x, levelWake s d = { s with doms := x } := by
  unfold levelWake
  dsimp only
  split
  · exact ⟨_, rfl⟩
  · split
    · exact ⟨_, rfl⟩
    · obtain ⟨x, hx⟩ := requestOn_doms (setDom s d { domAt s d with level := true }) d
      exact ⟨x, hx⟩

/-- The wake of a fabric changes nothing but the power domains. -/
theorem crossFabric_doms (s : State) (a : Nat) : ∃ x, crossFabric s a = { s with doms := x } :=
  levelWake_doms s _

@[simp] theorem regGet_crossFabric (s : State) (a b : Nat) : regGet (crossFabric s a) b = regGet s b := by
  obtain ⟨x, hx⟩ := crossFabric_doms s a
  exact regGet_congr (by rw [hx]) b

/-- A register stored by an access changes the registers and the power domains alone. -/
theorem regSet_crossFabric_frame (s : State) (a b x : Nat) :
    regSet (crossFabric s a) b x
      = { s with regs := (regSet (crossFabric s a) b x).regs, doms := (regSet (crossFabric s a) b x).doms } := by
  obtain ⟨y, hy⟩ := crossFabric_doms s a
  rw [hy]; rfl

theorem regsKept_regSet_crossFabric (s : State) (a b x : Nat) : RegsKept s (regSet (crossFabric s a) b x) [b] := by
  intro c hc
  rw [regGet_regSet_ne _ _ (List.ne_of_not_mem_cons hc), regGet_crossFabric]

/-! ### Accesses to a block that is off (R401) -/

theorem regOff_lt (a : Nat) : regOff a < 2 ^ 33 := Nat.mod_lt _ (by decide)

theorem pwrReg_ne (h : Nat) {x y : Nat} (hxy : x ≠ y) : pwrReg h x ≠ pwrReg h y := by
  unfold pwrReg sheafWin; omega

/-- What DOM_STATUS, its counter and DOM_OFF_ADDR show of an access to a block that is off. -/
def OffNoted (s t : State) (a wr : Nat) : Prop :=
  bit (regGet t (pwrReg (regSheaf a) 0x800)) 1 = true
    ∧ regGet t (pwrReg (regSheaf a) 0x818) = counterAdd (regGet s (pwrReg (regSheaf a) 0x818)) 1
    ∧ regGet t (pwrReg (regSheaf a) 0x820) = 2 ^ 34 + wr * 2 ^ 33 + regOff a
    ∧ RegsKept s t [pwrReg (regSheaf a) 0x800, pwrReg (regSheaf a) 0x818, pwrReg (regSheaf a) 0x820]

theorem offAccess_noted (s : State) (a : Nat) (wr : Bool) : OffNoted s (offAccess s a wr) a (b2n wr) := by
  have hx : 2 ^ 34 + b2n wr * 2 ^ 33 + regOff a % 2 ^ 33 < 2 ^ 64 := by
    have := b2n_lt wr; have := regOff_lt a; omega
  unfold OffNoted offAccess
  dsimp only
  refine ⟨?_, ?_, ?_, fun c hc => ?_⟩
  · rw [regGet_regSet_ne _ _ (pwrReg_ne _ (by decide)), event_flag _ _ _ _ (by decide) (pwrReg_ne _ (by decide))]
  · rw [regGet_regSet_ne _ _ (pwrReg_ne _ (by decide)), event_count _ _ _ _ (pwrReg_ne _ (by decide))]
  · rw [regGet_regSet_same, Nat.mod_eq_of_lt hx, Nat.mod_eq_of_lt (regOff_lt a)]
  · simp only [List.mem_cons, List.not_mem_nil, or_false, not_or] at hc
    obtain ⟨hflag, hctr, haddr⟩ := hc
    rw [regGet_regSet_ne _ _ haddr, regGet_event_ne _ _ hflag hctr]

/-- The note depends on the registers alone, on both sides. -/
theorem OffNoted.congr {s s' t t' : State} {a wr : Nat} (h : OffNoted s t a wr) (hs : ∀ b, regGet s b = regGet s' b)
    (ht : t'.regs = t.regs) : OffNoted s' t' a wr := by
  obtain ⟨hflag, hctr, haddr, hkept⟩ := h
  refine ⟨?_, ?_, ?_, fun c hc => ?_⟩
  · rw [regGet_congr ht, hflag]
  · rw [regGet_congr ht, hctr, hs]
  · rw [regGet_congr ht, haddr]
  · rw [regGet_congr ht, hkept c hc, hs]

theorem offAccess_crossFabric_noted (s : State) (a : Nat) {wr : Bool} {n : Nat} (hn : b2n wr = n) :
    OffNoted s (offAccess (crossFabric s a) a wr) a n := by
  rw [← hn]
  exact (offAccess_noted (crossFabric s a) a wr).congr (regGet_crossFabric s a) rfl

theorem regSet_regs (s : State) (a x : Nat) : ∃ y, regSet s a x = { s with regs := y } := ⟨_, rfl⟩

theorem event_regs (s : State) (f i c : Nat) : ∃ y, event s f i c = { s with regs := y } := ⟨_, rfl⟩

/-- The record of an access to a block that is off lies in the registers alone. -/
theorem offAccess_regs (s : State) (a : Nat) (wr : Bool) : ∃ y, offAccess s a wr = { s with regs := y } := by
  unfold offAccess
  dsimp only
  obtain ⟨y, hy⟩ := event_regs s (pwrReg (regSheaf a) 0x800) 1 (pwrReg (regSheaf a) 0x818)
  rw [hy]
  exact regSet_regs _ _ _

theorem offAccess_crossFabric_frame (s : State) (a : Nat) (wr : Bool) :
    offAccess (crossFabric s a) a wr
      = { s with regs := (offAccess (crossFabric s a) a wr).regs, doms := (offAccess (crossFabric s a) a wr).doms } := by
  obtain ⟨y, hy⟩ := offAccess_regs (crossFabric s a) a wr
  obtain ⟨x, hx⟩ := crossFabric_doms s a
  rw [hy, hx]

@[simp] theorem deliver_regs (s : State) (n : Nat) : (deliver s n).regs = s.regs := rfl

theorem deliver_offAccess_noted (s : State) (a n : Nat) : OffNoted s (deliver (offAccess (crossFabric s a) a false) n) a 0 := by
  have hnoted : OffNoted s (offAccess (crossFabric s a) a false) a 0 := offAccess_crossFabric_noted s a rfl
  exact hnoted.congr (fun _ => rfl) (deliver_regs _ _)

theorem deliver_offAccess_frame (s : State) (a n : Nat) :
    deliver (offAccess (crossFabric s a) a false) n
      = { s with regs := (deliver (offAccess (crossFabric s a) a false) n).regs,
                 doms := (deliver (offAccess (crossFabric s a) a false) n).doms,
                 host := (deliver (offAccess (crossFabric s a) a false) n).host } := by
  obtain ⟨y, hy⟩ := offAccess_regs (crossFabric s a) a false
  obtain ⟨x, hx⟩ := crossFabric_doms s a
  rw [hy, hx]; rfl

/-! ### The outcomes of a write from outside -/

section Writes

variable {s : State} {p : RegPath} {a w v hw : Nat}

/-- A write on a path to a register is the write to that register. -/
theorem pathWrite_reg (h : pathReg s p = some a) : pathWrite s p w v hw = outerWrite s a w v hw := by
  cases p with
  | addr b =>
    simp only [pathReg, Option.ite_none_right_eq_some, Option.some.injEq] at h
    obtain ⟨hin, rfl⟩ := h
    simp only [pathWrite, hin, if_true]
  | bar0 off =>
    cases hb : bar0 s off with
    | reg b => simp only [pathReg, hb, Option.some.injEq] at h; simp only [pathWrite, hb, h]
    | _ => simp [pathReg, hb] at h

theorem outerWrite_misaligned (h : (w ≠ 4 ∧ w ≠ 8) ∨ a % w ≠ 0) :
    outerWrite s a w v hw = .error (.undefinedCase 3) := if_pos h

theorem outerWrite_off (hwid : w = 4 ∨ w = 8) (hal : a % w = 0) (hoff : blockOff s a = true) :
    outerWrite s a w v hw = .ok (offAccess (crossFabric s a) a true) := by
  unfold outerWrite
  rw [if_neg (by omega), if_pos hoff]

theorem outerWrite_on (hwid : w = 4 ∨ w = 8) (hal : a % w = 0) (hon : blockOff s a = false) :
    outerWrite s a w v hw = writeReg (crossFabric s a) a w v hw := by
  unfold outerWrite
  rw [if_neg (by omega), hon, if_neg Bool.false_ne_true]

theorem writeReg_none (h : regSpec (a / 8 * 8) = none) : writeReg s a w v hw = .error (.undefinedCase 2) := by
  unfold writeReg; simp only [h]

theorem writeReg_barred {r : RegSpec} {k : Nat} (h : regSpec (a / 8 * 8) = some r) (hk : writeBars s a = some k) :
    writeReg s a w v hw = .error (.undefinedCase k) := by
  unfold writeReg; simp only [h, hk]

theorem writeReg_init {r : RegSpec} (h : regSpec (a / 8 * 8) = some r) (hb : writeBars s a = none)
    (hp : a / 8 * 8 = pguReg (regSheaf a) 8) (h8 : a % 8 = 0) (hv : bit v 0 = true) :
    writeReg s a w v hw = initUnit s (regSheaf a) := by
  unfold writeReg; simp only [h, hb]; rw [if_pos hp, if_pos (by simp [h8, hv])]

theorem writeReg_noInit {r : RegSpec} (h : regSpec (a / 8 * 8) = some r) (hb : writeBars s a = none)
    (hp : a / 8 * 8 = pguReg (regSheaf a) 8) (hv : a % 8 ≠ 0 ∨ bit v 0 = false) : writeReg s a w v hw = .ok s := by
  unfold writeReg; simp only [h, hb]; rw [if_pos hp]
  rcases hv with hv | hv <;> simp [hv]

theorem writeReg_store {r : RegSpec} (h : regSpec (a / 8 * 8) = some r) (hb : writeBars s a = none)
    (hp : a / 8 * 8 ≠ pguReg (regSheaf a) 8) :
    writeReg s a w v hw = .ok (regSet s (a / 8 * 8) (written64 s r a w v hw)) := by
  unfold writeReg; simp only [h, hb]; exact if_neg hp

/-- The value that a write makes of a register by the access types of the reached fields, before a log entry is emptied. -/
def laneWrite (s : State) (r : RegSpec) (a w v hw : Nat) : Nat :=
  writeValue (laneSpec r a w) (regGet s (a / 8 * 8)) (v * 2 ^ laneShift a w % 2 ^ 64) hw

theorem written64_eq (s : State) (r : RegSpec) (a w v hw : Nat) :
    written64 s r a w v hw
      = if isLogEntry (a / 8 * 8) && !bit (laneWrite s r a w v hw) 63 then 0 else laneWrite s r a w v hw := rfl

theorem written64_kept {r : RegSpec} (h : isLogEntry (a / 8 * 8) = false ∨ bit (laneWrite s r a w v hw) 63 = true) :
    written64 s r a w v hw = laneWrite s r a w v hw := by
  rw [written64_eq]
  rcases h with h | h <;> simp [h]

theorem written64_emptied {r : RegSpec} (h : isLogEntry (a / 8 * 8) = true) (hv : bit (laneWrite s r a w v hw) 63 = false) :
    written64 s r a w v hw = 0 := by
  rw [written64_eq]; simp [h, hv]

theorem laneWrite_crossFabric {r : RegSpec} : laneWrite (crossFabric s a) r a w v hw = laneWrite s r a w v hw := by
  unfold laneWrite; rw [regGet_crossFabric]

theorem written64_crossFabric {r : RegSpec} : written64 (crossFabric s a) r a w v hw = written64 s r a w v hw := by
  rw [written64_eq, written64_eq, laneWrite_crossFabric]

end Writes

/-- TIM_NOW while its block is On: DTIME in ns, and its fraction latched (R330). -/
theorem readNow_crossFabric_spec (s : State) (a : Nat) :
    let t := readNow (crossFabric s a)
    t.host.readData = nowNs s ∧ regGet t (hubReg 0x50010) = s.time.dtime % 2 ^ 16 ∧ RegsKept s t [hubReg 0x50010]
      ∧ t = { s with regs := t.regs, doms := t.doms, host := { s.host with readData := nowNs s } } := by
  obtain ⟨x, hx⟩ := crossFabric_doms s a
  have hfrac : s.time.dtime % 2 ^ 16 < 2 ^ 64 := (Nat.mod_lt _ (by decide)).trans (by decide)
  rw [hx]
  refine ⟨rfl, ?_, fun b hb => ?_, rfl⟩
  · rw [readNow, regGet_regSet_same]; exact Nat.mod_eq_of_lt hfrac
  · rw [readNow, regGet_regSet_ne _ _ (List.ne_of_not_mem_cons hb)]; rfl

/-! ### The apertures of BAR0 (R342) -/

theorem pathReg_fixedAperture (s : State) {off : Nat} (hlo : 0x1000000 ≤ off) (hhi : off < 0x2000000) :
    pathReg s (.bar0 off)
      = some (0x30000000000 + (off / 0x200000 - 8) * 0x200000000 + 0x1000000 + off % 0x200000) := by
  have hbar : bar0 s off = .reg (sheafWin ((off - 0x1000000) / 0x200000) (0x1000000 + off % 0x200000)) := by
    unfold bar0
    rw [if_neg (by omega), if_neg (by omega), if_neg (by omega), if_neg (by omega), if_neg (by omega), if_pos ⟨hlo, hhi⟩]
  have hsheaf : (off - 0x1000000) / 0x200000 = off / 0x200000 - 8 := by omega
  simp only [pathReg, hbar, hsheaf, sheafWin, Nat.add_assoc]

theorem pathReg_selAperture (s : State) {off : Nat} (hlo : 0x2000000 ≤ off) (hhi : off < 0x4000000) :
    pathReg s (.bar0 off)
      = some (0x30000000000 + (if off < 0x3000000 then regFld s (hubReg 0x48) 2 0 else regFld s (hubReg 0x48) 6 4) * 0x200000000
          + off % 0x1000000) := by
  have hbar : bar0 s off = .reg (sheafWin (apSel s ((off - 0x2000000) / 0x1000000)) (off % 0x1000000)) := by
    unfold bar0
    rw [if_neg (by omega), if_neg (by omega), if_neg (by omega), if_neg (by omega), if_neg (by omega), if_neg (by omega),
      if_pos ⟨hlo, hhi⟩]
  have hsel : apSel s ((off - 0x2000000) / 0x1000000)
      = if off < 0x3000000 then regFld s (hubReg 0x48) 2 0 else regFld s (hubReg 0x48) 6 4 := by
    by_cases h : off < 0x3000000
    · rw [if_pos h, show (off - 0x2000000) / 0x1000000 = 0 by omega]; rfl
    · rw [if_neg h, show (off - 0x2000000) / 0x1000000 = 1 by omega]; rfl
  simp only [pathReg, hbar, hsel, sheafWin]

/-! ### The commands -/

section Commands

variable {s : State} {p : RegPath} {a w : Nat} {v h : Word} {r : RegSpec}

theorem exec_registerWrite_reg (hp : powered s = true) (hb : barUp s = true) (ha : pathReg s p = some a) :
    exec (.registerWrite p w v) s = toOut s (outerWrite s a w v.toNat 0) := by
  have harm : exec (.registerWrite p w v) s = actE s (barUp s) (pathWrite s p w v.toNat 0) := rfl
  rw [harm, actE_pos hp hb, pathWrite_reg ha]

theorem exec_w1cClearWrite_reg (hp : powered s = true) (hb : barUp s = true) (ha : pathReg s p = some a) (hal : a % 8 = 0) :
    exec (.w1cClearWrite p v h) s = toOut s (outerWrite s a 8 v.toNat h.toNat) := by
  have harm : exec (.w1cClearWrite p v h) s = actE s (barUp s && pathWord s p) (pathWrite s p 8 v.toNat h.toNat) := rfl
  have hword : pathWord s p = true := by simp only [pathWord, ha, hal, beq_self_eq_true]
  rw [harm, actE_pos hp (by rw [hb, hword]; rfl), pathWrite_reg ha]

theorem exec_registerWrite_on (hp : powered s = true) (hb : barUp s = true) (ha : pathReg s p = some a)
    (hw : w = 4 ∨ w = 8) (hal : a % w = 0) (hon : blockOff s a = false) :
    exec (.registerWrite p w v) s = toOut s (writeReg (crossFabric s a) a w v.toNat 0) := by
  rw [exec_registerWrite_reg hp hb ha, outerWrite_on hw hal hon]

/-- A write of a register that nothing forbids stores `written64` and wakes the fabric. -/
theorem exec_registerWrite_store (hp : powered s = true) (hb : barUp s = true) (ha : pathReg s p = some a)
    (hw : w = 4 ∨ w = 8) (hal : a % w = 0) (hon : blockOff s a = false) (hr : regSpec (a / 8 * 8) = some r)
    (hbar : writeBars (crossFabric s a) a = none) (hpgu : a / 8 * 8 ≠ pguReg (regSheaf a) 8) :
    exec (.registerWrite p w v) s
      = .next (regSet (crossFabric s a) (a / 8 * 8) (written64 s r a w v.toNat 0)) := by
  rw [exec_registerWrite_on hp hb ha hw hal hon, writeReg_store hr hbar hpgu, toOut_ok, written64_crossFabric]

theorem exec_w1cClearWrite_store (hp : powered s = true) (hb : barUp s = true) (ha : pathReg s p = some a) (hal : a % 8 = 0)
    (hon : blockOff s a = false) (hr : regSpec (a / 8 * 8) = some r) (hbar : writeBars (crossFabric s a) a = none)
    (hpgu : a / 8 * 8 ≠ pguReg (regSheaf a) 8) :
    exec (.w1cClearWrite p v h) s
      = .next (regSet (crossFabric s a) (a / 8 * 8) (written64 s r a 8 v.toNat h.toNat)) := by
  rw [exec_w1cClearWrite_reg hp hb ha hal, outerWrite_on (.inr rfl) hal hon, writeReg_store hr hbar hpgu, toOut_ok,
    written64_crossFabric]

theorem exec_registerWrite_off (hp : powered s = true) (hb : barUp s = true) (ha : pathReg s p = some a)
    (hw : w = 4 ∨ w = 8) (hal : a % w = 0) (hoff : blockOff s a = true) :
    exec (.registerWrite p w v) s = .next (offAccess (crossFabric s a) a true) := by
  rw [exec_registerWrite_reg hp hb ha, outerWrite_off hw hal hoff, toOut_ok]

theorem exec_registerAccessNotOn_off (wr : Bool) (hp : powered s = true) (hb : barUp s = true) (ha : pathReg s p = some a)
    (hoff : blockOff s a = true) :
    exec (.registerAccessNotOn ⟨p, wr⟩) s
      = .next (if wr = true then offAccess (crossFabric s a) a wr else deliver (offAccess (crossFabric s a) a wr) (2 ^ 64 - 1)) := by
  have hpath : pathOff s p = true := by simp only [pathOff, ha, hoff]
  have harm : exec (.registerAccessNotOn ⟨p, wr⟩) s = execRegisterAccessNotOn ⟨p, wr⟩ s := rfl
  unfold execRegisterAccessNotOn at harm
  rw [harm, act_pos hp (by rw [hb, hpath]; rfl)]
  simp only [ha]

theorem exec_registerAccessNotOn_write (hp : powered s = true) (hb : barUp s = true) (ha : pathReg s p = some a)
    (hoff : blockOff s a = true) :
    exec (.registerAccessNotOn ⟨p, true⟩) s = .next (offAccess (crossFabric s a) a true) := by
  rw [exec_registerAccessNotOn_off true hp hb ha hoff, if_pos rfl]

theorem exec_registerAccessNotOn_read (hp : powered s = true) (hb : barUp s = true) (ha : pathReg s p = some a)
    (hoff : blockOff s a = true) :
    exec (.registerAccessNotOn ⟨p, false⟩) s
      = .next (deliver (offAccess (crossFabric s a) a false) (2 ^ 64 - 1)) := by
  rw [exec_registerAccessNotOn_off false hp hb ha hoff, if_neg Bool.false_ne_true]

theorem exec_timNowRead (hp : powered s = true) (hb : barUp s = true) :
    exec .timNowRead s = .next (if blockOff s (hubReg 0x50008)
      then offAccess (deliver (crossFabric s (hubReg 0x50008)) (2 ^ 64 - 1)) (hubReg 0x50008) false
      else readNow (crossFabric s (hubReg 0x50008))) := by
  have harm : exec .timNowRead s = execTimNowRead s := rfl
  rw [harm, execTimNowRead, act_pos hp hb]

/-- The status page, the counter pages and unpopulated offsets discard a write (R341, R343, R426). -/
theorem exec_registerWrite_discarded {off : Nat} (hp : powered s = true) (hb : barUp s = true)
    (hoff : bar0 s off = .nothing ∨ (∃ x, bar0 s off = .status x) ∨ ∃ c x, bar0 s off = .counters c x) :
    exec (.registerWrite (.bar0 off) w v) s = .next s := by
  have harm : exec (.registerWrite (.bar0 off) w v) s = actE s (barUp s) (pathWrite s (.bar0 off) w v.toNat 0) := rfl
  rw [harm, actE_pos hp hb]
  rcases hoff with h | ⟨x, h⟩ | ⟨c, x, h⟩ <;> simp only [pathWrite, h, toOut_ok]

/-- REGISTER_WRITE: each bit by its access type, a cleared log entry emptied, every other register kept. -/
theorem registerWrite_stores (hp : powered s = true) (hb : barUp s = true) (ha : pathReg s p = some a)
    (hw : w = 4 ∨ w = 8) (hal : a % w = 0) (hon : blockOff s a = false) (hr : regSpec (a / 8 * 8) = some r)
    (hbar : writeBars (crossFabric s a) a = none) (hpgu : a / 8 * 8 ≠ pguReg (regSheaf a) 8) :
    Completes (.registerWrite p w v) s fun t =>
      ((isLogEntry (a / 8 * 8) = false ∨ bit (laneWrite s r a w v.toNat 0) 63 = true) →
          ∀ i, i < 64 → bit (regGet t (a / 8 * 8)) i = bit (laneWrite s r a w v.toNat 0) i)
        ∧ (isLogEntry (a / 8 * 8) = true → bit (laneWrite s r a w v.toNat 0) 63 = false → regGet t (a / 8 * 8) = 0)
        ∧ RegsKept s t [a / 8 * 8] ∧ t = { s with regs := t.regs, doms := t.doms } := by
  refine ⟨_, exec_registerWrite_store hp hb ha hw hal hon hr hbar hpgu, fun hlog i hi => ?_, fun hlog hv => ?_,
    regsKept_regSet_crossFabric s a _ _, regSet_crossFabric_frame s a _ _⟩
  · rw [regGet_regSet_same, bit_mod_two_pow hi, written64_kept hlog]
  · rw [regGet_regSet_same, written64_emptied hlog hv, Nat.zero_mod]

theorem bit_laneWrite_noSet (x i : Nat) :
    bit (laneWrite s r a w x 0) i
      = (((if bit (laneSpec r a w).rw i then bit (x * 2 ^ laneShift a w % 2 ^ 64) i else bit (regGet s (a / 8 * 8)) i)
          && !(bit (laneSpec r a w).w1c i && bit (x * 2 ^ laneShift a w % 2 ^ 64) i))
        || (bit (laneSpec r a w).w1s i && bit (x * 2 ^ laneShift a w % 2 ^ 64) i)) := by
  rw [laneWrite, bit_writeValue, bit_zero, Bool.false_and, Bool.and_false, Bool.or_false]

/-- An aligned 64-bit write of a W1C bit: a hardware set of the same cycle wins over the clear (R420). -/
theorem bit_laneWrite_w1c (x hw : Nat) {i : Nat} (hi : i < 64) (hc : bit r.w1c i = true) (hx : x < 2 ^ 64) :
    bit (laneWrite s r a 8 x hw) i
      = ((((if bit r.rw i then bit x i else bit (regGet s (a / 8 * 8)) i) && !bit x i) || (bit r.w1s i && bit x i))
        || (bit (regGet s (a / 8 * 8)) i && bit hw i)) := by
  have hm (y : Nat) : bit (y &&& (2 ^ 64 - 1)) i = bit y i := by rw [bit_and, bit_allOnes hi, Bool.and_true]
  have hsh : x * 2 ^ laneShift a 8 % 2 ^ 64 = x := by
    rw [laneShift, if_neg (by omega), pow_zero, Nat.mul_one, Nat.mod_eq_of_lt hx]
  have hmask : laneMask a 8 = 2 ^ 64 - 1 := if_neg (by decide)
  rw [laneWrite, bit_writeValue, hsh]
  simp only [laneSpec, hmask, hm, hc, Bool.true_and, Bool.and_true]

/-- W1C_CLEAR_WRITE: a flag that hardware sets in the same cycle stays set, any other flag clears where the mask is 1. -/
theorem w1cClearWrite_hwSet_wins (hp : powered s = true) (hb : barUp s = true) (ha : pathReg s p = some a) (hal : a % 8 = 0)
    (hon : blockOff s a = false) (hr : regSpec a = some r) (hbar : writeBars (crossFabric s a) a = none)
    (hpgu : a ≠ pguReg (regSheaf a) 8) :
    Completes (.w1cClearWrite p v h) s fun t =>
      (∀ i, i < 64 → bit r.w1c i = true → isLogEntry a = false →
        (bit h.toNat i = true → bit (regGet s a) i = true → bit (regGet t a) i = true)
          ∧ (bit h.toNat i = false → bit r.rw i = false → bit r.w1s i = false →
              bit (regGet t a) i = (bit (regGet s a) i && !bit v.toNat i)))
        ∧ RegsKept s t [a] ∧ t = { s with regs := t.regs, doms := t.doms } := by
  have hword : a / 8 * 8 = a := Nat.div_mul_cancel (Nat.dvd_of_mod_eq_zero hal)
  have hexec := exec_w1cClearWrite_store (v := v) (h := h) hp hb ha hal hon (by rw [hword]; exact hr) hbar (by rw [hword]; exact hpgu)
  rw [hword] at hexec
  refine ⟨_, hexec, fun i hi hc hlog => ?_, regsKept_regSet_crossFabric s a a _, regSet_crossFabric_frame s a a _⟩
  have hbit := bit_laneWrite_w1c (s := s) (a := a) v.toNat h.toNat hi hc v.isLt
  rw [regGet_regSet_same, bit_mod_two_pow hi, written64_kept (.inl (by rw [hword]; exact hlog)), hbit, hword]
  exact ⟨fun hset hold => by simp [hset, hold], fun hset hrw hw1s => by simp [hset, hrw, hw1s]⟩

end Commands

/-! ### The statement -/

/-- Settles O47: each access is the write, the record or the read that its path and its block's power select. -/
theorem registerAccesses : Obligations.RegisterAccesses := by
  unfold Obligations.RegisterAccesses
  refine ⟨?_, ?_, ?_, ?_, ?_, ?_, ?_, ?_, ?_, ?_, ?_, ?_⟩
  · intro p a w v s r hp hb ha hw hal hon hr hbar hpgu x m new
    have hnew (i : Nat) : new i = bit (laneWrite s r a w v.toNat 0) i := (bit_laneWrite_noSet v.toNat i).symm
    simp only [hnew]
    exact registerWrite_stores hp hb ha hw hal hon hr hbar hpgu
  · intro p a v h s r hp hb ha hal hon hr hbar hpgu
    exact w1cClearWrite_hwSet_wins hp hb ha hal hon hr hbar hpgu
  · intro p a w v s hp hb ha
    refine ⟨fun hodd => ?_, fun hw hal hon => ?_⟩
    · rw [Undefined, exec_registerWrite_reg hp hb ha, outerWrite_misaligned hodd]; rfl
    · have hexec := exec_registerWrite_on (v := v) hp hb ha hw hal hon
      refine ⟨fun hr => ?_, fun r k hr hk => ?_, fun r u hr hbar hpgu h8 hv hu => ?_, fun r hr hbar hpgu hv => ?_⟩
      · rw [Undefined, hexec, writeReg_none hr]; rfl
      · rw [Undefined, hexec, writeReg_barred hr hk]; rfl
      · exact ⟨u, by rw [hexec, writeReg_init hr hbar hpgu h8 hv, hu, toOut_ok], rfl⟩
      · exact ⟨_, by rw [hexec, writeReg_noInit hr hbar hpgu hv, toOut_ok], rfl⟩
  · intro p a w v s hp hb ha hoff hin h noted
    have hnoted := offAccess_crossFabric_noted s a (wr := true) rfl
    have hframe := offAccess_crossFabric_frame s a true
    exact ⟨fun hw hal => ⟨_, exec_registerWrite_off hp hb ha hw hal hoff, hnoted, hframe⟩,
      ⟨_, exec_registerAccessNotOn_write hp hb ha hoff, hnoted, hframe⟩,
      ⟨_, exec_registerAccessNotOn_read hp hb ha hoff,
        deliver_offAccess_noted s a _, rfl, deliver_offAccess_frame s a _⟩⟩
  · intro off w v s hp hb hoff
    exact ⟨s, exec_registerWrite_discarded hp hb hoff, rfl⟩
  · intro a off s hin
    refine ⟨by simp only [pathReg, hin, if_true], fun hlo hhi => ?_, fun hlo hhi => ?_⟩
    · rw [pathReg_fixedAperture s hlo hhi]
    · rw [pathReg_selAperture s hlo hhi]
  · intro s hp hb hon
    refine ⟨_, exec_timNowRead hp hb, ?_⟩
    rw [hon, if_neg Bool.false_ne_true]
    exact readNow_crossFabric_spec s _
  · intro s hp hb hoff
    refine ⟨_, exec_timNowRead hp hb, ?_⟩
    rw [hoff, if_pos rfl]
    exact ⟨rfl, (offAccess_noted _ (hubReg 0x50008) false).1⟩
  · intro s hp hb
    exact ⟨_, act_pos hp hb, rfl⟩
  · intro n s hp hheld hptm
    exact ⟨_, act_pos hp (by rw [hheld, hptm]; rfl), rfl, rfl, rfl, rfl⟩
  · intro n s hptm
    exact act_neg (by rw [hptm, Bool.and_false])
  · intro p w v h o s hdown
    have hdown' (c : Bool) : (barUp s && c) = false := by rw [hdown, Bool.false_and]
    exact ⟨actE_neg hdown, actE_neg (hdown' _), act_neg (hdown' _), act_neg hdown, act_neg hdown⟩

end Sys2Proof.Machine

namespace Sys2Proof.Machine

/-! ## Memory stays canonical (O5): R18, R62, R206

O5 looks at one field of the state. `view` is that field, with the queue of commands beside it; a function of the model
either keeps the view (the `simp` lemmas `view_…`) or keeps it `Sound` (the lemmas `…_sound`, and `…_ends` where the
function can stop at a fault). Each lemma follows its function's branches and cites the lemmas of what they call, in the
order of the model's files. -/

/-! ### The view of a state -/

/-- What O5 speaks of, memory, with the queue of commands. -/
def view (s : State) : List Instr × List Host.Cell := (s.pending, s.mem)

theorem mem_of_view {s t : State} (h : view t = view s) : t.mem = s.mem := congrArg Prod.snd h

/-- An update of other fields keeps the queue and memory. -/
@[simp] theorem view_update (s : State) (free marks regs boot flash fault job cores vaults rings pages guard pails wq links stoby time
    host board power doms thermal wear pmc) :
    view ⟨s.pending, free, s.mem, marks, regs, boot, flash, fault, job, cores, vaults, rings, pages, guard, pails, wq, links,
      stoby, time, host, board, power, doms, thermal, wear, pmc⟩ = view s := (rfl)

@[simp] theorem view_ite (c : Prop) [Decidable c] (s t : State) :
    view (if c then s else t) = if c then view s else view t := apply_ite view c s t

@[simp] theorem view_foldl {α : Type} {f : State → α → State} (h : ∀ s a, view (f s a) = view s) (l : List α) (s : State) :
    view (l.foldl f s) = view s := foldl_keep view f h l s

@[simp] theorem view_forEach {α : Type} {f : State → α → State} (h : ∀ s a, view (f s a) = view s) (l : List α) (s : State) :
    view (forEach s l f) = view s := foldl_keep view f h l s

/-! ### Functions that keep memory -/

/-! #### Functions of Ops that keep memory -/

@[simp] theorem view_bump (s : State) : view (bump s) = view s := (rfl)
@[simp] theorem view_regSet (s : State) (a v : Nat) : view (regSet s a v) = view s := (rfl)
@[simp] theorem view_regSetFld (s : State) (a hi lo v : Nat) : view (regSetFld s a hi lo v) = view s := (rfl)
@[simp] theorem view_regFlag (s : State) (a i : Nat) (b : Bool) : view (regFlag s a i b) = view s := (rfl)
@[simp] theorem view_count (s : State) (a n : Nat) : view (count s a n) = view s := (rfl)
@[simp] theorem view_event (s : State) (flag i ctr : Nat) : view (event s flag i ctr) = view s := by simp [event]
@[simp] theorem view_coreEvent (s : State) (c code n : Nat) : view (coreEvent s c code n) = view s := by simp [coreEvent]
@[simp] theorem view_setCore (s : State) (c : Nat) (x : CoreSt) : view (setCore s c x) = view s := (rfl)
@[simp] theorem view_updCore (s : State) (c : Nat) (f : CoreSt → CoreSt) : view (updCore s c f) = view s := (rfl)
@[simp] theorem view_setVault (s : State) (v : Nat) (x : VaultSt) : view (setVault s v x) = view s := (rfl)
@[simp] theorem view_updVault (s : State) (v : Nat) (f : VaultSt → VaultSt) : view (updVault s v f) = view s := (rfl)
@[simp] theorem view_updRow (s : State) (v : Nat) (f : RowUnit → RowUnit) : view (updRow s v f) = view s := (rfl)
@[simp] theorem view_setQueue (s : State) (q : Nat) (x : Queue) : view (setQueue s q x) = view s := (rfl)
@[simp] theorem view_updQueue (s : State) (q : Nat) (f : Queue → Queue) : view (updQueue s q f) = view s := (rfl)
@[simp] theorem view_setUnit (s : State) (h : Nat) (x : PageUnit) : view (setUnit s h x) = view s := (rfl)
@[simp] theorem view_setSlot (s : State) (n : Nat) (x : SlotSt) : view (setSlot s n x) = view s := (rfl)
@[simp] theorem view_setLink (s : State) (l : Nat) (x : LinkSt) : view (setLink s l x) = view s := (rfl)
@[simp] theorem view_setSheafPower (s : State) (h : Nat) (x : SheafPower) : view (setSheafPower s h x) = view s := (rfl)
@[simp] theorem view_setGov (s : State) (c : Nat) (x : GovCore) : view (setGov s c x) = view s := (rfl)
@[simp] theorem view_setDom (s : State) (d : Dom) (x : DomRec) : view (setDom s d x) = view s := (rfl)
@[simp] theorem view_updDom (s : State) (d : Dom) (f : DomRec → DomRec) : view (updDom s d f) = view s := (rfl)
@[simp] theorem view_releaseBanks (s : State) (d : Dom) : view (releaseBanks s d) = view s := by simp [releaseBanks]
@[simp] theorem view_countExit (s : State) (d : Dom) : view (countExit s d) = view s := by simp [countExit]
@[simp] theorem view_wakeDom (s : State) (d : Dom) : view (wakeDom s d) = view s := by simp [wakeDom]
@[simp] theorem view_relaxWrites (s t : State) : view (relaxWrites s t) = view t := (rfl)
@[simp] theorem view_msix (s : State) (vec : Nat) : view (msix s vec) = view s := by simp [msix]
@[simp] theorem view_devEvent (s : State) : view (devEvent s) = view s := by simp [devEvent]
@[simp] theorem view_pldmEvent (s : State) (e : PldmEvt) : view (pldmEvent s e) = view s := (rfl)
@[simp] theorem view_noteLink (old s : State) (l : Nat) : view (noteLink old s l) = view s := by simp [noteLink]
@[simp] theorem view_setDev (s : State) (d : DevState) : view (setDev s d) = view s := by simp [setDev]
@[simp] theorem view_writeRecord (s : State) (kind : Nat) (c : Cause) (secondary : Bool) (primary : Nat) :
    view (writeRecord s kind c secondary primary) = view s := by
  simp [writeRecord]

@[simp] theorem view_noteRecord (s : State) (kind code unit detail : Nat) :
    view (noteRecord s kind code unit detail) = view s := by
  simp [noteRecord]

@[simp] theorem view_detect (s : State) (c : Cause) : view (detect s c) = view s := (rfl)
@[simp] theorem view_detectUe (s : State) (sub stop addr : Nat) : view (detectUe s sub stop addr) = view s := (rfl)
@[simp] theorem view_upsetWords (s : State) (l : List (Nat × Upset)) : view (upsetWords s l) = view s := (rfl)
@[simp] theorem view_logCorrected (s : State) (base n : Nat) (same : Nat → Bool) (entry ovf ob octr : Nat) :
    view (logCorrected s base n same entry ovf ob octr) = view s := by
  unfold logCorrected
  split
  · simp
  · split <;> simp

@[simp] theorem view_noteWeak (s : State) (v off src : Nat) : view (noteWeak s v off src) = view s := by simp [noteWeak]
@[simp] theorem view_vaultCe (s : State) (v off sym src : Nat) : view (vaultCe s v off sym src) = view s := by simp [vaultCe]
@[simp] theorem view_sramCe (s : State) (c off bitNo src : Nat) : view (sramCe s c off bitNo src) = view s := by simp [sramCe]
@[simp] theorem view_vaultUeCount (s : State) (v off src : Nat) : view (vaultUeCount s v off src) = view s := by
  simp [vaultUeCount]

@[simp] theorem view_sendPacket (s : State) (stop : Nat) (p : Packet) : view (sendPacket s stop p) = view s := (rfl)
@[simp] theorem view_openTxn (s : State) (stop : Nat) (o : OutReq) : view (openTxn s stop o).2 = view s := (rfl)
@[simp] theorem view_closeTxn (s : State) (t : Nat) : view (closeTxn s t) = view s := (rfl)
@[simp] theorem view_setInjectQ (s : State) (stop ring : Nat) (l : List Packet) :
    view (setInjectQ s stop ring l) = view s :=
  (rfl)

@[simp] theorem view_countTx (s : State) (stop : Nat) : view (countTx s stop) = view s := (rfl)
@[simp] theorem view_closeMerges (s : State) (v off n : Nat) : view (closeMerges s v off n) = view s := by simp [closeMerges]
@[simp] theorem view_readHost (s : State) (bus n : Nat) : view (readHost s bus n).2.2 = view s := by
  unfold readHost
  split <;> simp

@[simp] theorem view_remoteWrite (s : State) (stop a : Nat) (bs : List Byte) : view (remoteWrite s stop a bs) = view s := (rfl)
@[simp] theorem view_countXfer (s : State) (stop : Option Nat) (a : Nat) : view (countXfer s stop a) = view s := by
  unfold countXfer; split <;> simp

@[simp] theorem view_setPage (s : State) (p : Nat) (x : PailPage) : view (setPage s p x) = view s := (rfl)
@[simp] theorem view_answer (s : State) (r : PailReq) (status : Nat) (resp : List Byte) :
    view (answer s r status resp) = view s := by
  simp [answer]

/-! #### Functions of Flags that keep memory -/

@[simp] theorem view_setTileFlag (s : State) (c i : Nat) : view (setTileFlag s c i) = view s := by simp [setTileFlag]
@[simp] theorem view_clearTileFlags (s : State) (c : Nat) (fc : Bool) : view (clearTileFlags s c fc) = view s := (rfl)
@[simp] theorem view_setAnchor (s : State) (c : Nat) (a : Int) : view (setAnchor s c a) = view s := (rfl)
@[simp] theorem view_underspill (s : State) (c n : Nat) : view (underspill s c n) = view s := by simp [underspill]

/-! #### Functions of Records that keep memory -/

@[simp] theorem view_updItem (s : State) (q idx : Nat) (f : Item → Item) : view (updItem s q idx f) = view s := (rfl)
@[simp] theorem view_endItem (s : State) (q idx status : Nat) : view (endItem s q idx status) = view s := (rfl)
@[simp] theorem view_noteOut (s : State) (c k n : Nat) : view (noteOut s c k n) = view s := by unfold noteOut; split <;> simp
@[simp] theorem view_noteItem (s : State) (q idx a n : Nat) : view (noteItem s q idx a n) = view s := (rfl)
@[simp] theorem view_startItem (s : State) (q idx : Nat) : view (startItem s q idx) = view s := (rfl)
@[simp] theorem view_passHead (s : State) (q : Nat) : view (passHead s q) = view s := (rfl)
@[simp] theorem view_lateCheck (s : State) (x : Queue) (i : Item) : view (lateCheck s x i) = view s := by simp [lateCheck]
@[simp] theorem view_freeSlots (s : State) (q n : Nat) : view (freeSlots s q n) = view s := (rfl)

/-! #### Functions of Churn that keep memory -/

@[simp] theorem view_putEnt (s : State) (c k : Nat) (e : Entry) : view (putEnt s c k e) = view s := (rfl)
@[simp] theorem view_putAcc (s : State) (c : Nat) (fc : Bool) (i j : Nat) (a : Acc) : view (putAcc s c fc i j a) = view s := by
  unfold putAcc
  split <;> exact view_updCore _ _ _

@[simp] theorem view_settleClears (s : State) (c : Nat) : view (settleClears s c) = view s := by simp [settleClears]
@[simp] theorem view_leaveDrainQ (s : State) (c : Nat) : view (leaveDrainQ s c) = view s := by simp [leaveDrainQ]
@[simp] theorem view_loseTile (s : State) (c : Nat) : view (loseTile s c) = view s := by simp [loseTile]

/-! #### Functions of CoreOps that keep memory -/

@[simp] theorem view_dropOwned (s : State) (c : Nat) : view (dropOwned s c) = view s := by simp [dropOwned]
@[simp] theorem view_haltCore (s : State) (c : Nat) : view (haltCore s c) = view s := by simp [haltCore]
@[simp] theorem view_resetCoreLogic (s : State) (c : Nat) : view (resetCoreLogic s c) = view s := by simp [resetCoreLogic]
@[simp] theorem view_coreDone (s : State) (c : Nat) : view (coreDone s c) = view s := by
  unfold coreDone; dsimp only; repeat' split <;> simp

@[simp] theorem view_stopRow (s : State) (v : Nat) : view (stopRow s v) = view s := (rfl)
@[simp] theorem view_stopRows (s : State) (q idx : Nat) : view (stopRows s q idx) = view s := by
  refine foldl_keep view _ (fun s v => ?_) _ s
  split <;> simp

/-! #### Functions of Order that keep memory -/

@[simp] theorem view_fenceOrders (s : State) (c kinds : Nat) : view (fenceOrders s c kinds) = view s := (rfl)
@[simp] theorem view_waitOrders (s : State) (c bits : Nat) : view (waitOrders s c bits) = view s := (rfl)

/-! #### Functions of PageOps that keep memory -/

@[simp] theorem view_setRefCount (s : State) (p n : Nat) : view (setRefCount s p n) = view s := (rfl)
@[simp] theorem view_addRef (s : State) (p : Nat) : view (addRef s p) = view s := (rfl)
@[simp] theorem view_dropRef (s : State) (p : Nat) : view (dropRef s p) = view s := (rfl)
@[simp] theorem view_takePage (s : State) (p : Nat) : view (takePage s p) = view s := (rfl)

/-! #### Functions of StepOps that keep memory -/

@[simp] theorem view_fixWarm (s : State) (n : Nat) : view (fixWarm s n) = view s := (rfl)
@[simp] theorem view_holdSlot (s : State) (q n : Nat) : view (holdSlot s q n) = view s := by simp [holdSlot]
@[simp] theorem view_releaseSlot (s : State) (n : Nat) : view (releaseSlot s n) = view s := by simp [releaseSlot]
@[simp] theorem view_clearSlot (s : State) (n : Nat) : view (clearSlot s n) = view s := (rfl)
@[simp] theorem view_setStep (s : State) (q : Nat) (st : Step) : view (setStep s q st) = view s := (rfl)
@[simp] theorem view_dropStep (s : State) (q : Nat) : view (dropStep s q) = view s := (rfl)
@[simp] theorem view_releaseSlots (s : State) (st : Step) : view (releaseSlots s st) = view s := by simp [releaseSlots]
@[simp] theorem view_closeStep (s : State) (q : Nat) (st : Step) : view (closeStep s q st) = view s := by simp [closeStep]
@[simp] theorem view_evalSlot (st : Step) (s : State) (n : Nat) : view (evalSlot st s n) = view s := by simp [evalSlot]
@[simp] theorem view_replayScale (s : State) (n : Nat) : view (replayScale s n) = view s := by
  fun_cases replayScale <;> simp

@[simp] theorem view_commitSlot (s : State) (n : Nat) : view (commitSlot s n) = view s := by simp [commitSlot]

/-! #### Functions of TimeOps that keep memory -/

@[simp] theorem view_setTimeSt (s : State) (st : TimeSt) : view (setTimeSt s st) = view s := by simp [setTimeSt]
@[simp] theorem view_stepTime (s : State) (ns : Nat) : view (stepTime s ns) = view s := (rfl)
@[simp] theorem view_sourceLost (s : State) : view (sourceLost s) = view s := by simp [sourceLost]
@[simp] theorem view_reselect (s : State) : view (reselect s) = view s := by unfold reselect; split <;> simp
@[simp] theorem view_dropPort (s : State) (l : Nat) : view (dropPort s l) = view s := by simp [dropPort]
@[simp] theorem view_timeStops (s : State) : view (timeStops s) = view s := (rfl)
@[simp] theorem view_timeResumes (s : State) : view (timeResumes s) = view s := by unfold timeResumes; split <;> simp

/-! #### Functions of JobOps that keep memory -/

@[simp] theorem view_flushAnswer (s : State) (r : PailReq) (q discarded status : Nat) :
    view (flushAnswer s r q discarded status) = view s := by
  simp [flushAnswer]

@[simp] theorem view_endFlush (s : State) (q k : Nat) : view (endFlush s q k) = view s := (rfl)
@[simp] theorem view_leavePaths (s : State) (l : Nat) : view (leavePaths s l) = view s := by simp [leavePaths]
@[simp] theorem view_trainLink (s : State) (l : Nat) : view (trainLink s l) = view s := by simp [trainLink]
@[simp] theorem view_enableLink (s : State) (l : Nat) : view (enableLink s l) = view s := by simp [enableLink]
@[simp] theorem view_staleAll (s : State) : view (staleAll s) = view s := by simp [staleAll]
@[simp] theorem view_applyFeatures (s : State) (f : Nat) : view (applyFeatures s f) = view s := by simp [applyFeatures]
@[simp] theorem view_markUnit (s : State) (kind reason number sub : Nat) :
    view (markUnit s kind reason number sub) = view s := by
  simp [markUnit]

@[simp] theorem view_resetVaults (s : State) : view (resetVaults s) = view s := by simp [resetVaults]
@[simp] theorem view_resetTraffic (s : State) : view (resetTraffic s) = view s := by simp [resetTraffic]
@[simp] theorem view_resetQueues (s : State) : view (resetQueues s) = view s := by simp [resetQueues]
@[simp] theorem view_faultFlush (s : State) : view (faultFlush s) = view s := by unfold faultFlush; split <;> simp
@[simp] theorem view_secondaryFault (s : State) (c : Cause) (p : Nat) : view (secondaryFault s c p) = view s := by
  simp [secondaryFault]

/-! #### Functions of PowerOps that keep memory -/

@[simp] theorem view_setOpp (s : State) (h o : Nat) : view (setOpp s h o) = view s := by simp [setOpp]
@[simp] theorem view_startOpp (s : State) (h t : Nat) : view (startOpp s h t) = view s := by
  unfold startOpp; dsimp only; split <;> simp

@[simp] theorem view_setEffCap (s : State) : view (setEffCap s) = view s := by simp [setEffCap]
@[simp] theorem view_setPermit (s : State) (c q : Nat) : view (setPermit s c q) = view s := (rfl)
@[simp] theorem view_showEmerg (s : State) (h : Nat) : view (showEmerg s h) = view s := by simp [showEmerg]

/-! #### Functions of WearOps that keep memory -/

@[simp] theorem view_rotate (s : State) : view (rotate s) = view s := (rfl)

/-! #### Functions of PailOps that keep memory -/

@[simp] theorem view_deferPail (s : State) (r : PailReq) (i : Instr) : view (deferPail s r i) = view s := (rfl)
@[simp] theorem view_writePage (s : State) (r : PailReq) (i : Instr) : view (writePage s r i) = view s := (rfl)
@[simp] theorem view_setPending (s : State) (r : PailReq) : view (setPending s r) = view s := (rfl)

/-! #### Functions of Pails that keep memory -/

@[simp] theorem view_setCoreId (s : State) (c : Nat) : view (setCoreId s c) = view s := by unfold setCoreId; split <;> simp
@[simp] theorem view_clearCoreEvents (s : State) (c : Nat) : view (clearCoreEvents s c) = view s := (rfl)
@[simp] theorem view_openJob (s : State) (p : JobOpenP) : view (openJob s p) = view s := by simp [openJob]
@[simp] theorem view_createQueue (s : State) (p : QueueCreateP) (tset : Nat) : view (createQueue s p tset) = view s := (rfl)
@[simp] theorem view_destroyQueue (s : State) (q : Nat) : view (destroyQueue s q) = view s := (rfl)

/-! #### Functions of Boot that keep memory -/

@[simp] theorem view_setLane (s : State) (k : Nat) (x : Lane) : view (setLane s k x) = view s := (rfl)
@[simp] theorem view_applyRetired (s : State) (r : Retired) : view (applyRetired s r) = view s := by
  unfold applyRetired; split <;> simp

@[simp] theorem view_retire (s : State) (kind reason number sub : Nat) :
    view (retire s kind reason number sub) = view s :=
  (rfl)

@[simp] theorem view_startBoot (s : State) : view (startBoot s) = view s := (rfl)
@[simp] theorem view_tripRecordAtBoot (s : State) : view (tripRecordAtBoot s) = view s := by
  unfold tripRecordAtBoot; split <;> simp

@[simp] theorem view_retireLane (s : State) (sheaf : Nat) (gatewayB : Bool) (ring : Nat) :
    view (retireLane s sheaf gatewayB ring) = view s := by
  simp [retireLane]

@[simp] theorem view_trainWires (s : State) (w : WireTest) : view (trainWires s w) = view s := by simp [trainWires]
@[simp] theorem view_firmwareStart (s : State) (image : Nat) (fallback : Bool) :
    view (firmwareStart s image fallback) = view s := by
  simp [firmwareStart]

@[simp] theorem view_tryRecovery (s : State) : view (tryRecovery s) = view s := by simp [tryRecovery]
@[simp] theorem view_tryOther (s : State) : view (tryOther s) = view s := by simp [tryOther]
@[simp] theorem view_trainVaults (s : State) (failing : List Nat) : view (trainVaults s failing) = view s := by
  simp [trainVaults]

@[simp] theorem view_reachConfigReady (s : State) : view (reachConfigReady s) = view s := by simp [reachConfigReady]
@[simp] theorem view_failCore (s : State) (c : Nat) : view (failCore s c) = view s := by simp [failCore]
@[simp] theorem view_enterReady (s : State) : view (enterReady s) = view s := by simp [enterReady]
@[simp] theorem view_destroyQueues (s : State) : view (destroyQueues s) = view s := (rfl)
@[simp] theorem view_dropPails (s : State) : view (dropPails s) = view s := (rfl)
@[simp] theorem view_restartFirmware (s : State) : view (restartFirmware s) = view s := by
  unfold restartFirmware; split <;> simp

/-! #### Functions of DomOps that keep memory -/

@[simp] theorem view_requestOn (s : State) (d : Dom) : view (requestOn s d) = view s := by
  fun_cases requestOn <;> simp

@[simp] theorem view_pulseWake (s : State) (d : Dom) : view (pulseWake s d) = view s := by simp [pulseWake]
@[simp] theorem view_levelWake (s : State) (d : Dom) : view (levelWake s d) = view s := by simp [levelWake]

/-! #### Functions of ConfigPails that keep memory -/

@[simp] theorem view_keepFld (s : State) (a hi lo v : Nat) : view (keepFld s a hi lo v) = view s := by simp [keepFld]
@[simp] theorem view_setCap (s : State) (p : CapP) : view (setCap s p) = view s := by simp [setCap]
@[simp] theorem view_setAuto (s : State) (mask : Nat) : view (setAuto s mask) = view s := by simp [setAuto]
@[simp] theorem view_setPin (s : State) (opp mask : Nat) : view (setPin s opp mask) = view s := by simp [setPin]
@[simp] theorem view_tryPinEnd (s : State) : view (tryPinEnd s) = view s := by unfold tryPinEnd; split <;> simp
@[simp] theorem view_applyPolicy (s : State) (p : TimersP) (d : Dom) : view (applyPolicy s p d) = view s := by
  simp [applyPolicy]

@[simp] theorem view_selectBanks (s : State) (c banks : Nat) : view (selectBanks s c banks) = view s := (rfl)
@[simp] theorem view_setAdmit (s : State) (aggr : Bool) : view (setAdmit s aggr) = view s := by simp [setAdmit]
@[simp] theorem view_pailFails (s : State) (r : PailReq) (cause opcode : Nat) : view (pailFails s r cause opcode) = view s := by
  simp [pailFails]

@[simp] theorem view_storeLicence (s : State) (x : LicenceRec) : view (storeLicence s x) = view s := by simp [storeLicence]
@[simp] theorem view_applyTime (s : State) (p : TimeP) : view (applyTime s p) = view s := by simp [applyTime]
@[simp] theorem view_setTod (s : State) (tod : Nat) : view (setTod s tod) = view s := by simp [setTod]
@[simp] theorem view_applyLink (s : State) (p : LinkP) : view (applyLink s p) = view s := by simp [applyLink]
@[simp] theorem view_saveLink (s : State) (p : LinkP) : view (saveLink s p) = view s := (rfl)

/-! #### Functions of ReportPails that keep memory -/

@[simp] theorem view_selectEvent (s : State) (c ctr ev : Nat) : view (selectEvent s c ctr ev) = view s := by simp [selectEvent]
@[simp] theorem view_startSnap (s : State) (p : SnapP) : view (startSnap s p) = view s := by simp [startSnap]
@[simp] theorem view_stopSnap (s : State) (r : PailReq) : view (stopSnap s r) = view s := by unfold stopSnap; split <;> simp
@[simp] theorem view_setPolicy (s : State) (a : Nat) : view (setPolicy s a) = view s := by simp [setPolicy]
@[simp] theorem view_setSlotCfg (s : State) (p : SlotP) : view (setSlotCfg s p) = view s := by
  unfold setSlotCfg
  rw [view_fixWarm]
  split <;> simp only [view_regSetFld, view_regSet, view_setSlot]

@[simp] theorem view_setLog (s : State) (base entries vector : Nat) : view (setLog s base entries vector) = view s := by
  simp [setLog]

@[simp] theorem view_resumeQueue (s : State) (q : Nat) : view (resumeQueue s q) = view s := (rfl)
@[simp] theorem view_writeImage (s : State) (recovery : Bool) (i : FlashImage) : view (writeImage s recovery i) = view s := by
  simp [writeImage]

@[simp] theorem view_activate (s : State) (p : FwP) : view (activate s p) = view s := by simp [activate]
@[simp] theorem view_bmcAnswer (s : State) (a : List Nat) : view (bmcAnswer s a) = view s := (rfl)
@[simp] theorem view_readEvent (s : State) : view (readEvent s) = view s := by unfold readEvent; split <;> simp
@[simp] theorem view_pldm (s : State) (r : PldmReq) : view (pldm s r) = view s := by unfold pldm; split <;> simp

/-! #### Functions of Queues that keep memory -/

@[simp] theorem view_staleBell (s : State) (q gen : Nat) : view (staleBell s q gen) = view s := by simp [staleBell]
@[simp] theorem view_takeToken (s : State) (x : Queue) : view (takeToken s x) = view s := by simp [takeToken]
@[simp] theorem view_admitItem (s : State) (q : Nat) (i : Item) : view (admitItem s q i) = view s := by
  unfold admitItem; split <;> simp

/-! #### Functions of Sync that keep memory -/

@[simp] theorem view_setHint (s : State) (c i lead : Nat) : view (setHint s c i lead) = view s := by simp [setHint]
@[simp] theorem view_runHint (s : State) (q idx : Nat) : view (runHint s q idx) = view s := by unfold runHint; split <;> simp
@[simp] theorem view_signalDone (s : State) (q idx : Nat) : view (signalDone s q idx) = view s := by
  unfold signalDone
  split
  · split <;> simp
  · simp

@[simp] theorem view_endAbort (s : State) (q idx qt status : Nat) (t : Option Item) :
    view (endAbort s q idx qt status t) = view s := by
  simp [endAbort]

/-! #### Functions of TileOps that keep memory -/

@[simp] theorem view_nextPc (s : State) (c : Nat) : view (nextPc s c) = view s := view_updCore _ _ _
@[simp] theorem view_jumpPc (s : State) (c imm : Nat) : view (jumpPc s c imm) = view s := (rfl)
@[simp] theorem view_putSreg (s : State) (c n v : Nat) : view (putSreg s c n v) = view s := (rfl)
@[simp] theorem view_takeSeq (s : State) (c : Nat) : view (takeSeq s c) = view s := (rfl)
@[simp] theorem view_setEvent (s : State) (c n : Nat) : view (setEvent s c n) = view s := (rfl)
@[simp] theorem view_addTag (s : State) (c t : Nat) : view (addTag s c t) = view s := (rfl)
@[simp] theorem view_dropTag (s : State) (c t : Nat) : view (dropTag s c t) = view s := (rfl)
@[simp] theorem view_setChannel (s : State) (c ch : Nat) (l : List DmaOp) : view (setChannel s c ch l) = view s := (rfl)
@[simp] theorem view_dmaPart (s : State) (c ch seq : Nat) : view (dmaPart s c ch seq) = view s := by
  unfold dmaPart; split <;> simp

@[simp] theorem view_outPart (s : State) (c seq : Nat) : view (outPart s c seq) = view s := (rfl)
@[simp] theorem view_signalAcked (s : State) (c seq : Nat) : view (signalAcked s c seq) = view s := (rfl)
@[simp] theorem view_csrWrite (s : State) (c n v : Nat) : view (csrWrite s c n v) = view s := by
  fun_cases csrWrite <;> simp

/-! #### Functions of Array that keep memory -/

@[simp] theorem view_keepTile (s : State) (c seq : Nat) : view (keepTile s c seq) = view s := (rfl)
@[simp] theorem view_clearTile (s : State) (c : Nat) (o : FeedOp) (rows cols : List Nat) (ps : List Pass) :
    view (clearTile s c o rows cols ps) = view s := by
  simp [clearTile]

@[simp] theorem view_addBlocks (s : State) (c : Nat) (fc : Bool) (n : Nat) : view (addBlocks s c fc n) = view s := by
  simp [addBlocks]

@[simp] theorem view_feedDone (s : State) (c : Nat) : view (feedDone s c) = view s := by simp [feedDone]
@[simp] theorem view_upsetSram (s : State) (c : Nat) (ups : List (Nat × Upset)) : view (upsetSram s c ups) = view s := (rfl)
@[simp] theorem view_countSlots (s : State) (c : Nat) (r : FeedRun) (n : Nat) : view (countSlots s c r n) = view s := by
  simp [countSlots]

@[simp] theorem view_closeBlock (s : State) (c i j : Nat) (r : FeedRun) : view (closeBlock s c i j r) = view s := by
  simp [closeBlock]

@[simp] theorem view_addNonFinite (s : State) (c : Nat) (fc : Bool) (i j n : Nat) :
    view (addNonFinite s c fc i j n) = view s := by
  simp [addNonFinite]

@[simp] theorem view_addFields (s : State) (c : Nat) (fc : Bool) (i j : Nat) (fields weights : List Int) :
    view (addFields s c fc i j fields weights) = view s := by
  simp [addFields]

@[simp] theorem view_addPass (s : State) (c : Nat) (fc sb4 : Bool) (i j : Nat) (p : Pass) (a b : KLine) (fields : List Int) :
    view (addPass s c fc sb4 i j p a b fields) = view s := by
  simp [addPass]

@[simp] theorem view_addBuffer (s : State) (c i j : Nat) (o : FeedOp) (n : Nat) (fields : List Int) :
    view (addBuffer s c i j o n fields) = view s := by
  unfold addBuffer
  split
  · simp
  · split <;> simp

@[simp] theorem view_readLane (s : State) (c i j : Nat) (r : FeedRun) (b : Partial) : view (readLane s c i j r b) = view s := by
  simp [readLane]

@[simp] theorem view_sendReport (s : State) (r : Report) : view (sendReport s r) = view s := (rfl)

/-! #### Functions of Attention that keep memory -/

@[simp] theorem view_productCell (c : Nat) (p : Product) (i j : Nat) (s : State) : view (productCell c p i j s) = view s := by
  simp [productCell]

@[simp] theorem view_runProduct (s : State) (c : Nat) (p : Product) : view (runProduct s c p) = view s := by simp [runProduct]

/-! #### Functions of Gemm that keep memory -/

@[simp] theorem view_usedCore (s : State) (c : Nat) : view (usedCore s c) = view s := by simp [usedCore]
@[simp] theorem view_multCore (s : State) (c : Nat) : view (multCore s c) = view s := by simp [multCore]
@[simp] theorem view_usedCores (s : State) (q idx : Nat) : view (usedCores s q idx) = view s := by
  unfold usedCores; split <;> simp

@[simp] theorem view_gemmEnd (s : State) (q idx slot : Nat) (rep : Report) : view (gemmEnd s q idx slot rep) = view s := by
  simp [gemmEnd]

/-! #### Functions of StobyOps that keep memory -/

@[simp] theorem view_setSend (s : State) (c : Nat) (x : SendCtx) : view (setSend s c x) = view s := (rfl)
@[simp] theorem view_setRecv (s : State) (c : Nat) (x : RecvCtx) : view (setRecv s c x) = view s := (rfl)
@[simp] theorem view_dropSend (s : State) (c : Nat) : view (dropSend s c) = view s := (rfl)
@[simp] theorem view_countBytes (s : State) (ctr n : Nat) : view (countBytes s ctr n) = view s := by simp [countBytes]
@[simp] theorem view_putFrame (s : State) (l : Nat) (o : OutFrame) : view (putFrame s l o) = view s := by simp [putFrame]
@[simp] theorem view_flushFrames (n : Nat) (s : State) (l : Nat) : view (flushFrames n s l) = view s := by
  induction n generalizing s with
  | zero => rfl
  | succ n ih =>
    unfold flushFrames
    split
    · rfl
    · simp [ih]

@[simp] theorem view_flushLink (s : State) (l : Nat) : view (flushLink s l) = view s := by simp [flushLink]
@[simp] theorem view_handFrame (s : State) (l : Nat) (o : OutFrame) : view (handFrame s l o) = view s := by simp [handFrame]
@[simp] theorem view_askSwitch (s : State) (l : Nat) : view (askSwitch s l) = view s := by simp [askSwitch]
@[simp] theorem view_sendStoby (s : State) (l : Nat) (f : Frame) (d entropy : Nat) :
    view (sendStoby s l f d entropy) = view s := by
  simp [sendStoby]

@[simp] theorem view_pfcPrio (l : Nat) (s : State) (prio : Nat) : view (pfcPrio l s prio) = view s := by simp [pfcPrio]
@[simp] theorem view_pfcCheck (s : State) (l : Nat) : view (pfcCheck s l) = view s := by simp [pfcCheck]
@[simp] theorem view_rxFrame (s : State) (l n : Nat) : view (rxFrame s l n) = view s := by simp [rxFrame]
@[simp] theorem view_resend (s : State) (c : Nat) (x : SendCtx) (e : Sent) (rto : Nat) :
    view (resend s c x e rto) = view s := by
  unfold resend; split <;> simp

@[simp] theorem view_sentDone (s : State) (e : Sent) : view (sentDone s e) = view s := by unfold sentDone; split <;> simp
@[simp] theorem view_takeApsn (s : State) (c apsn : Nat) : view (takeApsn s c apsn) = view s := by
  unfold takeApsn; split <;> simp

@[simp] theorem view_fastRetx (c apsn bitmap : Nat) (s : State) (p : Nat) : view (fastRetx c apsn bitmap s p) = view s := by
  unfold fastRetx
  split
  · simp
  · split <;> simp

@[simp] theorem view_losePeer (s : State) (sheaf dev sub : Nat) : view (losePeer s sheaf dev sub) = view s := by simp [losePeer]
@[simp] theorem view_stobyPerformed (s : State) (c psn : Nat) : view (stobyPerformed s c psn) = view s := by
  unfold stobyPerformed; split <;> simp

/-! #### Functions of Vaults that keep memory -/

@[simp] theorem view_touchRow (s : State) (v off : Nat) : view (touchRow s v off) = view s := by simp [touchRow]
@[simp] theorem view_closeRows (s : State) (v : Nat) : view (closeRows s v) = view s := (rfl)
@[simp] theorem view_replyWrite (s : State) (v : Nat) (r : VReq) : view (replyWrite s v r) = view s := by
  unfold replyWrite; split <;> simp

@[simp] theorem view_attach (s : State) (v : Nat) (r : VReq) (m : Merge) : view (attach s v r m) = view s := by simp [attach]
@[simp] theorem view_upsetVault (s : State) (v : Nat) (ups : List (Nat × Upset)) : view (upsetVault s v ups) = view s := (rfl)
@[simp] theorem view_setWindow (s : State) (v : Nat) (w16 : Bool) : view (setWindow s v w16) = view s := by simp [setWindow]
@[simp] theorem view_refresh (s : State) (v : Nat) (w16 : Bool) : view (refresh s v w16) = view s := by simp [refresh]
@[simp] theorem view_scrubNext (s : State) (v : Nat) : view (scrubNext s v) = view s := by simp [scrubNext]

/-! #### Functions of RingOps that keep memory -/

@[simp] theorem view_ringUe (s : State) (stop sub addr : Nat) : view (ringUe s stop sub addr) = view s := by simp [ringUe]
@[simp] theorem view_leaveQueue (s : State) (stop ring : Nat) (p : Packet) (d : FMap Nat) :
    view (leaveQueue s stop ring p d) = view s := by
  unfold leaveQueue; split <;> simp

@[simp] theorem view_injectNext (s : State) (stop ring : Nat) : view (injectNext s stop ring) = view s := by
  fun_cases injectNext <;> simp +zetaDelta

@[simp] theorem view_afterInject (s : State) (stop : Nat) : view (afterInject s stop) = view s := by
  unfold afterInject; split <;> simp

@[simp] theorem view_takeFlight (s : State) (id : Nat) : view (takeFlight s id) = view s := (rfl)
@[simp] theorem view_setFlight (s : State) (id : Nat) (p : Packet) : view (setFlight s id p) = view s := (rfl)
@[simp] theorem view_setEject (s : State) (stop : Nat) (l : List Nat) : view (setEject s stop l) = view s := (rfl)
@[simp] theorem view_welcome (s : State) (p : Packet) : view (welcome s p) = view s := (rfl)
@[simp] theorem view_accept (s : State) (id : Nat) (p : Packet) : view (accept s id p) = view s := (rfl)
@[simp] theorem view_rememberTriple (s : State) (p : Packet) : view (rememberTriple s p) = view s := by simp [rememberTriple]
@[simp] theorem view_wakeFor (s : State) (p : Packet) : view (wakeFor s p) = view s := by unfold wakeFor; split <;> simp
@[simp] theorem view_enterEject (s : State) (id : Nat) (p : Packet) : view (enterEject s id p) = view s := by simp [enterEject]
@[simp] theorem view_flitError (s : State) (id stop wrongBits : Nat) (p : Packet) :
    view (flitError s id stop wrongBits p) = view s := by
  simp [flitError]

/-! #### Functions of Bridges that keep memory -/

@[simp] theorem view_replayFlit (s : State) (sheaf : Nat) (gatewayB : Bool) (ring : Nat) :
    view (replayFlit s sheaf gatewayB ring) = view s := by
  simp [replayFlit]

@[simp] theorem view_retrainLane (s : State) (sheaf : Nat) (gatewayB : Bool) (ring : Nat) (bad : List Nat) :
    view (retrainLane s sheaf gatewayB ring bad) = view s := by
  simp [retrainLane]

/-! #### Functions of Dma that keep memory -/

@[simp] theorem view_dmaOut (c : Nat) (o : DmaOp) (s : State) (r : DmaReq) : view (dmaOut c o s r) = view s := by
  unfold dmaOut
  split
  · simp
  · split <;> simp

/-! #### Functions of Pages that keep memory -/

@[simp] theorem view_setTiller (s : State) (key : Nat) (e : Option TillerEntry) : view (setTiller s key e) = view s := (rfl)
@[simp] theorem view_nextStamp (s : State) : view (nextStamp s).2 = view s := (rfl)
@[simp] theorem view_makeRoom (s : State) (h k : Nat) : view (makeRoom s h k).2 = view s := by
  unfold makeRoom
  dsimp only
  split
  · rfl
  · split <;> simp

/-! #### Functions of Stoby that keep memory -/

theorem view_openSend {s t : State} {sheaf cls c : Nat} {h : OpHead} {x : SendCtx} (e : openSend s sheaf h cls = some (c, x, t))
    :
    view t = view s := by
  unfold openSend at e
  split at e
  · cases e; rfl
  · split at e
    · cases e
    · cases e; rfl

@[simp] theorem view_readAnswered (s : State) (p : Packet) : view (readAnswered s p) = view s := by
  unfold readAnswered; split <;> simp

@[simp] theorem view_sendFrame (s : State) (id : Nat) (p : Packet) (h : OpHead) (c : Nat) (x : SendCtx) :
    view (sendFrame s id p h c x) = view s := by
  unfold sendFrame; split <;> simp

@[simp] theorem view_waitCtx (s : State) (sheaf id : Nat) (p : Packet) : view (waitCtx s sheaf id p) = view s := by
  simp [waitCtx]

@[simp] theorem view_sendOp (s : State) (stop : Nat) : view (sendOp s stop) = view s := by
  unfold sendOp
  split
  · rfl
  · split
    · rfl
    · split
      · simp
      · rename_i c x s1 e
        split
        · simp [view_openSend e]
        · rfl

@[simp] theorem view_performRespOp (s : State) (c l : Nat) (f : Frame) : view (performRespOp s c l f) = view s := by
  simp [performRespOp]

@[simp] theorem view_piggyback (s : State) (f : Frame) : view (piggyback s f) = view s := by unfold piggyback; split <;> simp
@[simp] theorem view_reopen (s : State) (c : Nat) (x : SendCtx) : view (reopen s c x) = view s := (rfl)
@[simp] theorem view_resetAck (s : State) (c : Nat) (x : SendCtx) : view (resetAck s c x) = view s := by simp [resetAck]
@[simp] theorem view_plainAck (s : State) (c : Nat) (x : SendCtx) (f : Frame) : view (plainAck s c x f) = view s := by
  simp [plainAck]

@[simp] theorem view_takeAck (s : State) (f : Frame) : view (takeAck s f) = view s := by unfold takeAck; split <;> simp

/-! #### Functions of Links that keep memory -/

@[simp] theorem view_markLanes (s : State) (l bad : Nat) : view (markLanes s l bad) = view s := by simp [markLanes]
@[simp] theorem view_linkComesUp (s : State) (l m : Nat) : view (linkComesUp s l m) = view s := by simp [linkComesUp]
@[simp] theorem view_bringUp (s : State) (l : Nat) (b : Bringup) : view (bringUp s l b) = view s := by
  unfold bringUp; split <;> simp

@[simp] theorem view_linkFalls (s : State) (l : Nat) : view (linkFalls s l) = view s := by simp [linkFalls]
@[simp] theorem view_dropFrame (s : State) (l : Nat) : view (dropFrame s l) = view s := (rfl)
@[simp] theorem view_pausePrios (s : State) (l prios quanta : Nat) : view (pausePrios s l prios quanta) = view s := by
  simp [pausePrios]

@[simp] theorem view_answerArp (s : State) (l ip mac : Nat) : view (answerArp s l ip mac) = view s := by simp [answerArp]
@[simp] theorem view_answerSolicit (s : State) (l ip mac : Nat) : view (answerSolicit s l ip mac) = view s := by
  simp [answerSolicit]

@[simp] theorem view_learnSwitch (s : State) (l mac : Nat) : view (learnSwitch s l mac) = view s := by simp [learnSwitch]
@[simp] theorem view_discardFrame (s : State) (l : Nat) (why : BadFrame) : view (discardFrame s l why) = view s := by
  unfold discardFrame; split <;> simp

/-! #### Functions of Time that keep memory -/

@[simp] theorem view_runNs (s : State) : view (runNs s) = view s := (rfl)
@[simp] theorem view_sleepNs (s : State) (stop bound n : Nat) : view (sleepNs s stop bound n) = view s := by simp [sleepNs]
@[simp] theorem view_tick (s : State) : view (tick s) = view s := by
  unfold tick
  split
  · simp
  · split <;> simp

/-! #### Functions of TimeCmds that keep memory -/

@[simp] theorem view_updTime (s : State) (f : Time → Time) : view (updTime s f) = view s := (rfl)
@[simp] theorem view_noteOffset (s : State) (c : Int) : view (noteOffset s c) = view s := by simp [noteOffset]
@[simp] theorem view_stepBy (s : State) (c : Int) : view (stepBy s c) = view s := by simp [stepBy]
@[simp] theorem view_startSlew (s : State) (c : Int) : view (startSlew s c) = view s := by simp [startSlew]
@[simp] theorem view_applyCorrection (s : State) (c : Int) : view (applyCorrection s c) = view s := by simp [applyCorrection]
@[simp] theorem view_correct (s : State) (c : Int) : view (correct s c) = view s := by simp [correct]
@[simp] theorem view_keepAnnounce (s : State) (l : Nat) (d : AnnounceDs) : view (keepAnnounce s l d) = view s := (rfl)
@[simp] theorem view_takeAnnounce (s : State) (l : Nat) (d : AnnounceDs) : view (takeAnnounce s l d) = view s := by
  simp [takeAnnounce]

@[simp] theorem view_takeSync (s : State) (l : Nat) (m : PtpStamp) (t0 : Nat) : view (takeSync s l m t0) = view s := by
  simp [takeSync]

@[simp] theorem view_takeFollowUp (s : State) (l : Nat) (m : PtpStamp) : view (takeFollowUp s l m) = view s := by
  unfold takeFollowUp; split <;> simp

@[simp] theorem view_sendDelayReq (s : State) (l : Nat) : view (sendDelayReq s l) = view s := by simp [sendDelayReq]
@[simp] theorem view_takeDelayResp (s : State) (l : Nat) (m : PtpStamp) : view (takeDelayResp s l m) = view s := by
  unfold takeDelayResp; split <;> simp

/-! #### Functions of Receive that keep memory -/

@[simp] theorem view_bufferRx (s : State) (l : Nat) (x : RxFrame) : view (bufferRx s l x) = view s := by simp [bufferRx]

/-! #### Functions of Steps that keep memory -/

@[simp] theorem view_runStepCommit (s : State) (q idx : Nat) : view (runStepCommit s q idx) = view s := by
  unfold runStepCommit; split <;> simp

@[simp] theorem view_addReport (s : State) (r : Report) : view (addReport s r) = view s := (rfl)
@[simp] theorem view_judgeReport (s : State) (r : Report) : view (judgeReport s r) = view s := by simp [judgeReport]
@[simp] theorem view_ackReport (s : State) (r : Report) : view (ackReport s r) = view s := (rfl)
@[simp] theorem view_answerReport (s : State) (r : Report) : view (answerReport s r) = view s := by
  unfold answerReport; split <;> simp

@[simp] theorem view_takeReport (s : State) : view (takeReport s) = view s := by unfold takeReport; split <;> simp

/-! #### Functions of Domains that keep memory -/

@[simp] theorem view_reachOn (s : State) (d : Dom) (old : DomSt) : view (reachOn s d old) = view s := by
  unfold reachOn; split <;> simp

@[simp] theorem view_domNote (old s : State) (d : Dom) : view (domNote old s d) = view s := by simp [domNote]
@[simp] theorem view_wakeUntil (h lim : Nat) (es : List (Nat × Nat)) (s : State) : view (wakeUntil h lim es s) = view s := by
  induction es generalizing s with
  | nil => rfl
  | cons e es ih => simp [wakeUntil, ih]

@[simp] theorem view_failKeep (s : State) (h : Nat) : view (failKeep s h) = view s := by simp [failKeep]

/-! #### Functions of Reds that keep memory -/

@[simp] theorem view_endReds (s : State) (c : Nat) (o : Outgoing) : view (endReds s c o) = view s := (rfl)

/-! #### Functions of Reduce that keep memory -/

@[simp] theorem view_reduceDone (s : State) (q : Nat) (i : Item) : view (reduceDone s q i) = view s := by simp [reduceDone]

/-! #### Functions of Rings that keep memory -/

@[simp] theorem view_answerPacket (s : State) (p q : Packet) : view (answerPacket s p q) = view s := (rfl)
@[simp] theorem view_toVault (s : State) (v : Nat) (r : VReq) : view (toVault s v r) = view s := by simp [toVault]
@[simp] theorem view_readAtHost (s : State) (p : Packet) (bus : Nat) : view (readAtHost s p bus) = view s := by
  unfold readAtHost
  split
  · split <;> simp
  · simp

@[simp] theorem view_ackWrite (s : State) (p : Packet) : view (ackWrite s p) = view s := by simp [ackWrite]
@[simp] theorem view_flushHost (s : State) (p : Packet) (bus : Nat) : view (flushHost s p bus) = view s := by
  unfold flushHost; split <;> simp

@[simp] theorem view_writeAcked (s : State) (txn : Nat) : view (writeAcked s txn) = view s := by
  unfold writeAcked; split <;> simp

@[simp] theorem view_signalOver (s : State) (txn : Nat) : view (signalOver s txn) = view s := by
  unfold signalOver; split <;> simp

@[simp] theorem view_signalAt (p : Packet) (s : State) : view (signalAt p s) = view s := by unfold signalAt; split <;> simp
@[simp] theorem view_noticeAt (p : Packet) (s : State) : view (noticeAt p s) = view s := by
  unfold noticeAt; (repeat' split) <;> simp

@[simp] theorem view_msgAt (p : Packet) (s : State) : view (msgAt p s) = view s := by
  unfold msgAt
  split
  · simp
  · split <;> simp

@[simp] theorem view_keepMc (s : State) (id : Nat) (p : Packet) : view (keepMc s id p) = view s := by simp [keepMc]
@[simp] theorem view_mcReplicate (s : State) (id h : Nat) (p : Packet) : view (mcReplicate s id h p) = view s := by
  simp [mcReplicate]

/-! #### Functions of HostCmds that keep memory -/

@[simp] theorem view_updHost (s : State) (f : HostIf → HostIf) : view (updHost s f) = view s := (rfl)
@[simp] theorem view_cfgRead (s : State) (off : Nat) : view (cfgRead s off) = view s := (rfl)
@[simp] theorem view_cfgServe (s : State) (r : CfgReq) : view (cfgServe s r) = view s := by unfold cfgServe; split <;> simp
@[simp] theorem view_completeHost (s : State) (txn : Nat) (o : OutReq) (bytes : List Byte) (failed : Bool) :
    view (completeHost s txn o bytes failed) = view s := by
  unfold completeHost; split <;> simp

@[simp] theorem view_failHost (s : State) (txn : Nat) : view (failHost s txn) = view s := by unfold failHost; split <;> simp
@[simp] theorem view_unmask (s : State) (v : Nat) : view (unmask s v) = view s := by simp [unmask]

/-! #### Functions of Kernels that keep memory -/

@[simp] theorem view_startCore (s : State) (c q : Nat) (i : Item) (h : ImageHdr) (args : List Nat) :
    view (startCore s c q i h args) = view s := by
  simp [startCore]

/-! #### Functions of Observe that keep memory -/

@[simp] theorem view_afterTick (s : State) (r : SnapRun) (seq missed : Nat) : view (afterTick s r seq missed) = view s := by
  simp [afterTick]

@[simp] theorem view_unitFault (s : State) (x1 : UnitFault) : view (unitFault s x1) = view s := by
  unfold unitFault; split <;> simp

@[simp] theorem view_tapTo (s : State) (t : TapInstr) : view (tapTo s t) = view s := (rfl)

/-! #### Functions of Power that keep memory -/

@[simp] theorem view_takeReading (s : State) (r : RailReading) : view (takeReading s r) = view s := by simp [takeReading]
@[simp] theorem view_addEnergy (s : State) (h n mw : Nat) : view (addEnergy s h n mw) = view s := by simp [addEnergy]
@[simp] theorem view_meterSheaf (s : State) (h : Nat) : view (meterSheaf s h) = view s := by simp [meterSheaf]
@[simp] theorem view_ceilRamp (s : State) (h : Nat) : view (ceilRamp s h) = view s := by simp [ceilRamp]
@[simp] theorem view_avsSample (s : State) (rs : List RailReading) : view (avsSample s rs) = view s := by simp [avsSample]
@[simp] theorem view_notePhase (s : State) (f : PmbusFault) : view (notePhase s f) = view s := by simp [notePhase]
@[simp] theorem view_closeMs (s : State) (h : Nat) : view (closeMs s h) = view s := by simp [closeMs]
@[simp] theorem view_closePackage (s : State) : view (closePackage s) = view s := by simp [closePackage]
@[simp] theorem view_clampPermit (s : State) (c : Nat) : view (clampPermit s c) = view s := (rfl)
@[simp] theorem view_lowerCeils (s : State) (cs : List Nat) (k : Nat) : view (lowerCeils s cs k) = view s := by
  simp [lowerCeils]

@[simp] theorem view_raiseCeils (s : State) (cs : List Nat) (k : Nat) : view (raiseCeils s cs k) = view s := by
  simp [raiseCeils]

@[simp] theorem view_lowerRows (s : State) (h k : Nat) : view (lowerRows s h k) = view s := by simp [lowerRows]
@[simp] theorem view_raiseRows (s : State) (h k : Nat) : view (raiseRows s h k) = view s := by simp [raiseRows]
@[simp] theorem view_levers (s : State) (h : Nat) : view (levers s h) = view s := by simp [levers]
@[simp] theorem view_showCapping (s : State) (h : Nat) : view (showCapping s h) = view s := by simp [showCapping]
@[simp] theorem view_updateSheaf (s : State) (h : Nat) : view (updateSheaf s h) = view s := by simp [updateSheaf]
@[simp] theorem view_endChange (s : State) (h t : Nat) : view (endChange s h t) = view s := by
  unfold endChange; dsimp only; split <;> simp

@[simp] theorem view_noteUse (us : List (Nat × Nat)) (s : State) (c : Nat) : view (noteUse us s c) = view s := by simp [noteUse]
@[simp] theorem view_giveUnit (s : State) (h c : Nat) (res : Bool) : view (giveUnit s h c res) = view s := by simp [giveUnit]
@[simp] theorem view_grantUnits (n : Nat) (s : State) (h : Nat) (rs os : List Nat) :
    view (grantUnits n s h rs os) = view s := by
  induction n generalizing s with
  | zero => rfl
  | succ n ih =>
    unfold grantUnits
    dsimp only
    split
    · simp [ih]
    · split
      · simp [ih]
      · rfl

@[simp] theorem view_shedUnits (n : Nat) (s : State) (h : Nat) (os : List Nat) : view (shedUnits n s h os) = view s := by
  induction n generalizing s with
  | zero => rfl
  | succ n ih =>
    unfold shedUnits
    split
    · rfl
    · simp [ih]

@[simp] theorem view_setBallast (s : State) (c : Nat) : view (setBallast s c) = view s := by simp [setBallast]
@[simp] theorem view_fallBallast (n : Nat) (s : State) (cs : List Nat) : view (fallBallast n s cs) = view s := by
  induction cs generalizing n s with
  | nil => cases n <;> rfl
  | cons c cs ih =>
    cases n with
    | zero => rfl
    | succ n =>
      unfold fallBallast
      dsimp only
      split <;> simp [ih]

@[simp] theorem view_governorRound (s : State) (h : Nat) (us : List (Nat × Nat)) : view (governorRound s h us) = view s := by
  simp [governorRound]

@[simp] theorem view_cellFails (s : State) (c : Nat) (clamp : Bool) : view (cellFails s c clamp) = view s := by simp [cellFails]
@[simp] theorem view_followHoldup (s : State) : view (followHoldup s) = view s := by simp [followHoldup]

/-! #### Functions of RedStops that keep memory -/

@[simp] theorem view_setHeld (s : State) (stop : Nat) (l : List HeldRed) : view (setHeld s stop l) = view s := (rfl)
@[simp] theorem view_joinHeld (s : State) (id stop : Nat) (p : Packet) (e : HeldRed) :
    view (joinHeld s id stop p e) = view s := by
  simp [joinHeld]

@[simp] theorem view_holdPacket (s : State) (id stop k : Nat) (p : Packet) : view (holdPacket s id stop k p) = view s := (rfl)
@[simp] theorem view_passStop (s : State) (id stop : Nat) (p : Packet) : view (passStop s id stop p) = view s := by
  unfold passStop; (repeat' split) <;> simp

@[simp] theorem view_setTags (s : State) (stop : Nat) (l : List TagEntry) : view (setTags s stop l) = view s := (rfl)
@[simp] theorem view_sendNotice (s : State) (p : Packet) : view (sendNotice s p) = view s := (rfl)
@[simp] theorem view_reduceTimeout (s : State) (stop tag sub : Nat) : view (reduceTimeout s stop tag sub) = view s := by
  simp [reduceTimeout]

/-! #### Functions of RegCmds that keep memory -/

@[simp] theorem view_offAccess (s : State) (a : Nat) (write : Bool) : view (offAccess s a write) = view s := by simp [offAccess]
@[simp] theorem view_crossFabric (s : State) (a : Nat) : view (crossFabric s a) = view s := by simp [crossFabric]
@[simp] theorem view_deliver (s : State) (v : Nat) : view (deliver s v) = view s := (rfl)
@[simp] theorem view_readNow (s : State) : view (readNow s) = view s := (rfl)
@[simp] theorem view_writeMsixDword (s : State) (x v : Nat) : view (writeMsixDword s x v) = view s := by simp [writeMsixDword]
@[simp] theorem view_writeMsix (s : State) (x width v : Nat) : view (writeMsix s x width v) = view s := by simp [writeMsix]

/-! #### Functions of RowOps that keep memory -/

@[simp] theorem view_startRow (s : State) (v : Nat) : view (startRow s v) = view s := by
  unfold startRow; dsimp only; split <;> simp

@[simp] theorem view_endRow (s : State) (v : Nat) : view (endRow s v) = view s := by
  unfold endRow; dsimp only; repeat' split <;> simp

/-! #### Functions of Thermal that keep memory -/

@[simp] theorem view_markBlind (s : State) (h n : Nat) : view (markBlind s h n) = view s := by simp [markBlind]
@[simp] theorem view_excludeSensor (h : Nat) (s : State) (n : Nat) : view (excludeSensor h s n) = view s := by
  simp [excludeSensor]

@[simp] theorem view_takeTemp (h : Nat) (s : State) (r : SensorReading) : view (takeTemp h s r) = view s := by
  unfold takeTemp; split <;> simp

@[simp] theorem view_checkSensors (s : State) (h : Nat) (rs : List SensorReading) : view (checkSensors s h rs) = view s := by
  simp [checkSensors]

@[simp] theorem view_showTemps (s : State) (h : Nat) : view (showTemps s h) = view s := by unfold showTemps; split <;> simp
@[simp] theorem view_showVault (s : State) (v : Nat) : view (showVault s v) = view s := by unfold showVault; split <;> simp
@[simp] theorem view_sampleSheaf (s : State) (h : Nat) (rs : List SensorReading) : view (sampleSheaf s h rs) = view s := by
  simp [sampleSheaf]

@[simp] theorem view_trip (s : State) (stop : Nat) (t : Int) : view (trip s stop t) = view s := (rfl)
@[simp] theorem view_noteThermal (old s : State) : view (noteThermal old s) = view s := by simp [noteThermal]
@[simp] theorem view_beginEmergency (s : State) (sub : Nat) : view (beginEmergency s sub) = view s := by simp [beginEmergency]
@[simp] theorem view_flowReading (s : State) (v : Int) : view (flowReading s v) = view s := by simp [flowReading]
@[simp] theorem view_flowIsSilent (s : State) : view (flowIsSilent s) = view s := by simp [flowIsSilent]
@[simp] theorem view_flowUnread (s : State) : view (flowUnread s) = view s := by simp [flowUnread]
@[simp] theorem view_showInlet (s : State) : view (showInlet s) = view s := by simp [showInlet]
@[simp] theorem view_trayReading (s : State) (k : TrayKind) (v : Int) : view (trayReading s k v) = view s := by
  unfold trayReading; split <;> simp

@[simp] theorem view_traySilent (s : State) (k : TrayKind) : view (traySilent s k) = view s := by
  unfold traySilent; split <;> simp

@[simp] theorem view_trayUnread (s : State) (k : TrayKind) : view (trayUnread s k) = view s := by
  unfold trayUnread; split <;> simp

@[simp] theorem view_trayPoll (s : State) (k : TrayKind) (r : TrayReply) : view (trayPoll s k r) = view s := by
  unfold trayPoll; dsimp only; split <;> simp

@[simp] theorem view_raiseWarning (s : State) (level : Nat) : view (raiseWarning s level) = view s := by simp [raiseWarning]
@[simp] theorem view_flowWarnings (s : State) : view (flowWarnings s) = view s := by simp [flowWarnings]
@[simp] theorem view_flowComputation (s : State) : view (flowComputation s) = view s := by simp [flowComputation]
@[simp] theorem view_setAllow (s : State) (h : Nat) (a : Option Nat) : view (setAllow s h a) = view s := by simp [setAllow]
@[simp] theorem view_restartCycle (s : State) (h : Nat) (t : Int) : view (restartCycle s h t) = view s := (rfl)
@[simp] theorem view_countCycle (s : State) (h : Nat) (t : Int) : view (countCycle s h t) = view s := (rfl)
@[simp] theorem view_cycleSample (s : State) (h : Nat) (t : Int) (first : Bool) : view (cycleSample s h t first) = view s := by
  unfold cycleSample; split <;> simp

@[simp] theorem view_takeWear (s : State) (x1 : WearReading) : view (takeWear s x1) = view s := by
  unfold takeWear; split <;> simp

@[simp] theorem view_markWorn (s : State) : view (markWorn s) = view s := by simp [markWorn]
@[simp] theorem view_logWear (s : State) : view (logWear s) = view s := (rfl)

/-! #### Functions of TileScalar that keep memory -/

@[simp] theorem view_endKernel (s : State) (c : Nat) : view (endKernel s c) = view s := by simp [endKernel]
@[simp] theorem view_takeEvents (s : State) (c : Nat) (f : WaitcF) : view (takeEvents s c f) = view s := by simp [takeEvents]
@[simp] theorem view_takeTag (s : State) (c t : Nat) : view (takeTag s c t) = view s := by simp [takeTag]
@[simp] theorem view_adjustDesc (s : State) (c : Nat) (f : TadjF) : view (adjustDesc s c f) = view s := (rfl)

/-! #### Functions of VaultModes that keep memory -/

@[simp] theorem view_enterMem (s : State) (v : Nat) : view (enterMem s v) = view s := by simp [enterMem]
@[simp] theorem view_leaveVaults (s : State) (q idx : Nat) (vs : List Nat) : view (leaveVaults s q idx vs) = view s := by
  simp [leaveVaults]

@[simp] theorem view_giveRow (j : RowJob) (s : State) (v : Nat) : view (giveRow j s v) = view s := by simp [giveRow]

/-! ### A sound view, and what holds of a result -/

/-- Memory is in its canonical form, and the queue of commands is `q`. -/
def Sound (q : List Instr) (v : List Instr × List Host.Cell) : Prop := v.1 = q ∧ FMap.wf v.2 = true

/-- What holds of the result of an effect, where it has one. -/
def Ends {α : Type} (Q : α → Prop) (e : Except Halt α) : Prop := ∀ a, e = .ok a → Q a

section
variable {α β : Type} {Q : α → Prop} {R : β → Prop}

theorem Ends.any (e : Except Halt α) : Ends (fun _ => True) e := fun _ _ => trivial

theorem Ends.ok {a : α} (h : Q a) : Ends Q (.ok a) := by
  intro b hb; cases hb; exact h

theorem Ends.pure {a : α} (h : Q a) : Ends Q (pure a) := Ends.ok h

theorem Ends.error (f : Halt) : Ends Q (.error f) := nofun

theorem Ends.bind {e : Except Halt α} {k : α → Except Halt β} (he : Ends Q e) (hk : ∀ a, Q a → Ends R (k a)) :
    Ends R (e >>= k) := by
  cases e with
  | error f => exact nofun
  | ok a => exact hk a (he a rfl)

theorem Ends.map {e : Except Halt α} {k : α → β} (he : Ends Q e) (hk : ∀ a, Q a → R (k a)) : Ends R (e.map k) := by
  cases e with
  | error f => exact nofun
  | ok a => exact .ok (hk a (he a rfl))

theorem Ends.foldlM {f : α → β → Except Halt α} (hf : ∀ a b, Q a → Ends Q (f a b)) (l : List β) {a : α} (h : Q a) :
    Ends Q (l.foldlM f a) := by
  induction l generalizing a with
  | nil => exact .pure h
  | cons b l ih => rw [List.foldlM_cons]; exact (hf a b h).bind fun _ => ih

theorem Ends.orUndef {Q : State → Prop} {c : Bool} {n : Nat} {e : Except Halt State} (h : Ends Q e) : Ends Q (orUndef c n e) := by
  intro t ht; exact h t (orUndef_ok ht).2

end

theorem sound_foldl {α : Type} {q : List Instr} {f : State → α → State}
    (hf : ∀ s a, Sound q (view s) → Sound q (view (f s a))) (l : List α) {s : State} (h : Sound q (view s)) :
    Sound q (view (l.foldl f s)) := by
  induction l generalizing s with
  | nil => exact h
  | cons a l ih => exact ih (hf s a h)

theorem sound_forEach {α : Type} {q : List Instr} {f : State → α → State}
    (hf : ∀ s a, Sound q (view s) → Sound q (view (f s a))) (l : List α) {s : State} (h : Sound q (view s)) :
    Sound q (view (forEach s l f)) := sound_foldl hf l h

/-- An update of memory that keeps it canonical. -/
theorem sound_update {q : List Instr} {s : State} {m : List Host.Cell} (h : Sound q (view s)) (hm : FMap.wf m = true)
    (free marks regs boot flash fault job cores vaults rings pages guard pails wq links stoby time
    host board power doms thermal wear pmc) :
    Sound q (view ⟨s.pending, free, m, marks, regs, boot, flash, fault, job, cores, vaults, rings, pages, guard, pails, wq,
      links, stoby, time, host, board, power, doms, thermal, wear, pmc⟩) := ⟨h.1, hm⟩

/-! ### Functions that can write memory -/

section
variable {q : List Instr} {s : State}

/-! #### Functions of Ops that can write memory -/

theorem writeMem_sound {g k : Nat} {bs : List Byte} (h : Sound q (view s)) : Sound q (view (writeMem s g k bs)) := by
  refine ⟨?_, wf_writeMem s g k bs h.2⟩
  refine Eq.trans ?_ h.1
  unfold writeMem
  dsimp only
  split <;> rfl

theorem undefMem_sound {g k n : Nat} (h : Sound q (view s)) :
    Sound q (view (undefMem s g k n)) :=
  sound_update h (wf_eraseBytes _ _ _ h.2) ..

theorem hostWrite_sound {bus : Nat} {bs : List Byte} (h : Sound q (view s)) : Sound q (view (hostWrite s bus bs)) := by
  unfold hostWrite
  split
  · exact sound_update h (wf_storeBytes _ _ _ h.2) ..
  · simpa using h

theorem poisonRow_sound {v off : Nat} (h : Sound q (view s)) :
    Sound q (view (poisonRow s v off)) :=
  sound_update h (wf_eraseBytes _ _ _ h.2) ..

theorem vaultUe_sound {v off src : Nat} (h : Sound q (view s)) : Sound q (view (vaultUe s v off src)) := by
  unfold vaultUe
  exact poisonRow_sound (by simpa using h)

theorem checkVaultWord_sound {v off src : Nat} (h : Sound q (view s)) : Sound q (view (checkVaultWord s v off src).2) := by
  unfold checkVaultWord
  split
  · exact h
  · simpa using h
  · simpa using vaultUe_sound h
  · simpa using h
  · simpa using vaultUe_sound h

theorem checkSramWord_sound {c off src : Nat} (h : Sound q (view s)) : Sound q (view (checkSramWord s c off src).2) := by
  unfold checkSramWord
  split
  · exact h
  · simpa using h
  · rw [view_event]
    exact sound_update h (wf_eraseBytes _ _ _ h.2) ..

theorem sound_foldl_snd {α β : Type} (f : β × State → α → β × State) (hf : ∀ p a, Sound q (view p.2) → Sound q (view (f p a).2))
    (l : List α) {p : β × State} (h : Sound q (view p.2)) :
    Sound q (view (l.foldl f p).2) := by
  induction l generalizing p with
  | nil => exact h
  | cons a l ih => exact ih (hf p a h)

theorem checkVault_sound {v off n src : Nat} (h : Sound q (view s)) : Sound q (view (checkVault s v off n src).2) := by
  refine sound_foldl_snd _ (fun p w h => ?_) _ h
  exact checkVaultWord_sound h

theorem checkSram_sound {c off n src : Nat} (h : Sound q (view s)) : Sound q (view (checkSram s c off n src).2) := by
  refine sound_foldl_snd _ (fun p w h => ?_) _ h
  exact checkSramWord_sound h

theorem coreStore_sound {c off : Nat} {bs : List Byte} (h : Sound q (view s)) : Sound q (view (coreStore s c off bs)) := by
  have h1 : ∀ l : List Nat, Sound q (view (l.foldl (fun s w =>
      let (ue, s1) := checkSramWord s c w 0
      if ue then detectUe s1 1 (coreStop c) (0x20000000000 + c * 2 ^ 24 + w) else s1) s)) := by
    refine fun l => sound_foldl (fun s w h => ?_) l h
    have h2 := checkSramWord_sound (c := c) (off := w) (src := 0) h
    dsimp only
    split <;> simpa using h2
  exact sound_update (h1 _) (wf_storeBytes _ _ _ (h1 _).2) ..

theorem remoteStore_ends {c off : Nat} {bs : List Byte} (h : Sound q (view s)) :
    Ends (fun t => Sound q (view t)) (remoteStore s c off bs) := by
  unfold remoteStore
  split
  · exact .error _
  · exact .ok (writeMem_sound (by simpa using h))

theorem readVaultAs_ends {v off n src : Nat} (h : Sound q (view s)) :
    Ends (fun r => Sound q (view r.2.2)) (readVaultAs s v off n src) := by
  have h1 := checkVault_sound (s := wakeDom s ⟨.vault, v⟩) (v := v) (off := off) (n := n) (src := src) (by simpa using h)
  unfold readVaultAs
  split
  · exact .error _
  · split
    · exact .error _
    · split
      rename_i ue t e
      rw [e] at h1
      dsimp only
      split <;> exact .ok (by simpa using h1)

theorem readVault_ends {v off n : Nat} (h : Sound q (view s)) : Ends (fun r => Sound q (view r.2.2)) (readVault s v off n) := by
  unfold readVault
  exact readVaultAs_ends h

theorem readSram_sound {c off n src : Nat} (h : Sound q (view s)) : Sound q (view (readSram s c off n src).2.2) := by
  have h1 := checkSram_sound (c := c) (off := off) (n := n) (src := src) h
  unfold readSram
  dsimp only
  split <;> simpa using h1

theorem writeVault_ends {v off : Nat} {bs : List Byte} (h : Sound q (view s)) :
    Ends (fun t => Sound q (view t)) (writeVault s v off bs) := by
  unfold writeVault
  split
  · exact .error _
  · split
    · exact .error _
    · exact .error _
    · exact .ok (by simpa using writeMem_sound (by simpa using h))

theorem writeHost_ends {bus : Nat} {bs : List Byte} (h : Sound q (view s)) :
    Ends (fun t => Sound q (view t)) (writeHost s bus bs) := by
  unfold writeHost
  split
  · exact .error _
  · exact .ok (hostWrite_sound h)

theorem vaultFree_ends {v off n : Nat} {write : Bool} (h : Sound q (view s)) :
    Ends (fun t => Sound q (view t)) (vaultFree s v off n write) := by
  unfold vaultFree
  dsimp only
  split
  · exact .error _
  · exact .ok h

theorem readBlock_ends {stop : Option Nat} {a n : Nat} (h : Sound q (view s)) :
    Ends (fun r => Sound q (view r.2.2)) (readBlock s stop a n) := by
  have h : Sound q (view (countXfer s stop a)) := by simpa using h
  unfold readBlock
  dsimp only
  split
  · exact (vaultFree_ends h).bind fun _ => readVault_ends
  · exact .ok (readSram_sound (by simpa using h))
  · exact .ok (by simpa using h)
  · exact .error _
  · exact .ok h
  · exact .error _

theorem writeBlock_ends {stop : Option Nat} {a : Nat} {bs : List Byte} (h : Sound q (view s)) :
    Ends (fun t => Sound q (view t)) (writeBlock s stop a bs) := by
  unfold writeBlock
  dsimp only
  split
  · refine Ends.bind (Q := fun t => Sound q (view t)) ?_ fun s2 h1 => ?_
    · exact vaultFree_ends (by simpa using h)
    · exact writeVault_ends h1
  · exact remoteStore_ends (by simpa using h)
  · exact writeHost_ends (by simpa using h)
  · exact .error _
  · exact .ok (by simpa using h)
  · exact .error _

theorem readParts_ends {stop : Option Nat} {l : List (Nat × Nat)} (h : Sound q (view s)) :
    Ends (fun r => Sound q (view r.2.2)) (readParts s stop l) := by
  induction l generalizing s with
  | nil => exact .ok h
  | cons x l ih => exact (readBlock_ends h).bind fun _ h1 => (ih h1).bind fun _ h2 => .pure h2

theorem writeParts_ends {stop : Option Nat} {bs : List Byte} {l : List (Nat × Nat)} (h : Sound q (view s)) :
    Ends (fun t => Sound q (view t)) (writeParts s stop bs l) := by
  induction l generalizing s bs with
  | nil => exact .ok h
  | cons x l ih => exact (writeBlock_ends h).bind fun _ => ih

theorem stopRead_ends {stop : Option Nat} {a n : Nat} (h : Sound q (view s)) :
    Ends (fun r => Sound q (view r.2.2)) (stopRead s stop a n) := by
  unfold stopRead
  exact readParts_ends h

theorem stopWrite_ends {stop : Option Nat} {a : Nat} {bs : List Byte} (h : Sound q (view s)) :
    Ends (fun t => Sound q (view t)) (stopWrite s stop a bs) := by
  unfold stopWrite
  exact writeParts_ends h

theorem devRead_ends {a n : Nat} (h : Sound q (view s)) : Ends (fun r => Sound q (view r.2.2)) (devRead s a n) := by
  unfold devRead
  exact stopRead_ends h

theorem devWrite_ends {a : Nat} {bs : List Byte} (h : Sound q (view s)) :
    Ends (fun t => Sound q (view t)) (devWrite s a bs) := by
  unfold devWrite
  exact stopWrite_ends h

theorem kernRead_ends {a n : Nat} (h : Sound q (view s)) : Ends (fun r => Sound q (view r.2.2)) (kernRead s a n) := by
  unfold kernRead
  exact stopRead_ends h

theorem kernWrite_ends {a : Nat} {bs : List Byte} (h : Sound q (view s)) :
    Ends (fun t => Sound q (view t)) (kernWrite s a bs) := by
  unfold kernWrite
  exact stopWrite_ends h

theorem devNat_ends {a n : Nat} (h : Sound q (view s)) : Ends (fun r => Sound q (view r.2)) (devNat s a n) := by
  unfold devNat
  refine Ends.bind (Q := fun r => Sound q (view r.2.2)) ?_ fun ⟨_, _, _⟩ h1 => ?_
  · exact devRead_ends h
  · dsimp only
    exact .pure h1

/-! #### Functions of Records that can write memory -/

theorem coreOut_sound {c off : Nat} {bs : List Byte} (h : Sound q (view s)) : Sound q (view (coreOut s c off bs)) := by
  unfold coreOut
  simpa using coreStore_sound h

theorem wf_eraseAll (l : List (Nat × Nat)) (m : List Host.Cell) (h : FMap.wf m = true) :
    FMap.wf (l.foldl (fun m r => eraseBytes m r.1 r.2) m) = true := by
  induction l generalizing m with
  | nil => exact h
  | cons r l ih => exact ih _ (wf_eraseBytes m _ _ h)

theorem undefOuts_sound {i : Item} (h : Sound q (view s)) : Sound q (view (undefOuts s i)) :=
  sound_update h (wf_eraseAll _ _ h.2) ..

theorem writeCq_ends {cq : Nat} {bs : Bool → List Byte} (h : Sound q (view s)) :
    Ends (fun t => Sound q (view t)) (writeCq s cq bs) := by
  unfold writeCq
  dsimp only
  refine Ends.bind (Q := fun t => Sound q (view t)) ?_ fun s2 h1 => ?_
  · exact devWrite_ends h
  · exact .ok (by simpa using h1)

theorem putRecord_ends {q1 : Nat} {i : Item} {status : Nat} {held : Bool} {detail : Nat} (h : Sound q (view s)) :
    Ends (fun t => Sound q (view t)) (putRecord s q1 i status held detail) := by
  unfold putRecord
  dsimp only
  refine Ends.bind (Q := fun t => Sound q (view t)) ?_ fun s2 h1 => ?_
  · exact writeCq_ends (by simpa using h)
  · exact .ok (by simpa using h1)

theorem putRecords_ends {q1 : Nat} {x2 : List Item} {st : Item → Nat} {held : Item → Bool} {detail : Nat} (h : Sound q (view s))
    :
    Ends (fun t => Sound q (view t)) (putRecords s q1 x2 st held detail) := by
  unfold putRecords
  exact .foldlM (fun s a h => putRecord_ends h) _ h

/-! #### Functions of Operands that can write memory -/

theorem touchSpans_sound {c : Nat} {l : List (Nat × Nat)} (h : Sound q (view s)) :
    Sound q (view (touchSpans s c l)) :=
  sound_foldl (fun _ _ h => readSram_sound h) _ h

theorem touchTile_sound {c : Nat} {d : TileDesc} (h : Sound q (view s)) : Sound q (view (touchTile s c d)) := by
  unfold touchTile
  exact touchSpans_sound h

theorem putRow_sound {c : Nat} {d : TileDesc} {l : Nat} {r : Row} (h : Sound q (view s)) :
    Sound q (view (putRow s c d l r)) := by
  unfold putRow
  dsimp only
  split
  · exact coreOut_sound h
  · exact coreOut_sound (coreOut_sound h)

/-! #### Functions of CoreOps that can write memory -/

theorem loseRow_sound {v k : Nat} (h : Sound q (view s)) :
    Sound q (view (loseRow v s k)) :=
  sound_update h (wf_eraseBytes _ _ _ h.2) ..

theorem loseRows_sound {i : Item} (h : Sound q (view s)) : Sound q (view (loseRows s i)) := by
  unfold loseRows
  split
  · exact h
  · exact sound_foldl (fun _ _ h => sound_foldl (fun _ _ h => loseRow_sound h) _ h) _ h

theorem undefRange_sound {a n : Nat} (h : Sound q (view s)) : Sound q (view (undefRange s a n)) := by
  unfold undefRange
  refine sound_foldl (fun s a h => ?_) _ h
  split
  · exact undefMem_sound h
  · exact undefMem_sound h
  · exact undefMem_sound h
  · exact h

/-! #### Functions of Order that can write memory -/

theorem ownAccess_ends {c : Nat} {reads writes : List (Nat × Nat)} (h : Sound q (view s)) :
    Ends (fun t => Sound q (view t)) (ownAccess s c reads writes) := by
  unfold ownAccess
  split
  · exact .error _
  · exact .ok h

theorem orderOp_ends {c : Nat} {a : Access} (h : Sound q (view s)) : Ends (fun t => Sound q (view t)) (orderOp s c a) := by
  unfold orderOp
  split
  · exact .error _
  · exact .ok (by simpa using h)

/-! #### Functions of PageOps that can write memory -/

theorem undefPage_sound {p : Nat} (h : Sound q (view s)) : Sound q (view (undefPage s p)) := by
  unfold undefPage
  exact undefMem_sound h

theorem wf_moveBytes (m : List Host.Cell) (src dst n : Nat) (h : FMap.wf m = true) :
    FMap.wf (moveBytes m src dst n) = true := by
  unfold moveBytes
  generalize m.filter _ = l
  have h := wf_eraseBytes m dst n h
  revert h
  generalize eraseBytes m dst n = m'
  induction l generalizing m' with
  | nil => exact id
  | cons e l ih => exact fun h => ih _ (FMap.wf_set _ _ _ h)

theorem cloneRow_sound {src dst : Nat} (h : Sound q (view s)) :
    Sound q (view (cloneRow s src dst)) :=
  sound_update h (wf_moveBytes _ _ _ _ h.2) ..

theorem hideUnfenced_sound {vs os vd od n : Nat} (h : Sound q (view s)) : Sound q (view (hideUnfenced s vs os vd od n)) := by
  unfold hideUnfenced
  split
  · exact undefMem_sound h
  · exact h

theorem cloneUnit_ends {v os od : Nat} (h : Sound q (view s)) : Ends (fun t => Sound q (view t)) (cloneUnit s v os od) := by
  unfold cloneUnit
  refine Ends.bind (Q := fun t => Sound q (view t)) ?_ fun s2 h1 => ?_
  · exact vaultFree_ends h
  · refine Ends.bind (Q := fun t => Sound q (view t)) ?_ fun s4 h3 => ?_
    · exact vaultFree_ends h1
    · dsimp only
      exact .ok (by simpa using hideUnfenced_sound (cloneRow_sound h3))

theorem dmaUnit_ends {stop : Option Nat} {vs os vd od : Nat} (h : Sound q (view s)) :
    Ends (fun t => Sound q (view t)) (dmaUnit stop s vs os vd od) := by
  refine .foldlM (fun s i h => ?_) _ h
  refine (vaultFree_ends (by simpa using h)).bind fun s0 h0 => ?_
  refine (readVaultAs_ends h0).bind fun ⟨_, _, _⟩ h1 => ?_
  refine (vaultFree_ends (by simpa using h1)).bind fun s2 h2 => ?_
  have h3 := sound_update h2 (wf_moveBytes _ (vaultKey vs (os + 256 * i)) (vaultKey vd (od + 256 * i)) 256 h2.2)
  dsimp only
  split
  · exact .error _
  · refine .ok ?_
    rw [view_count, view_closeMerges]
    refine hideUnfenced_sound ?_
    split
    · exact undefMem_sound (h3 ..)
    · exact h3 ..

theorem copyPage_ends {stop : Option Nat} {p q3 : Nat} (h : Sound q (view s)) :
    Ends (fun t => Sound q (view t)) (copyPage stop s p q3) := by
  unfold copyPage
  dsimp only
  split
  · exact .error _
  · refine .foldlM (fun s a h => ?_) _ h
    split
    · exact cloneUnit_ends h
    · exact dmaUnit_ends h

theorem mergeVault_ends {v off : Nat} {bs : List Byte} (h : Sound q (view s)) :
    Ends (fun t => Sound q (view t)) (mergeVault s v off bs) := by
  unfold mergeVault
  split
  · exact .error _
  · refine (vaultFree_ends h).bind fun s0 h0 => ?_
    refine (readVault_ends h0).bind fun ⟨_, _, _⟩ h1 => .ok ?_
    rw [view_count, view_closeMerges]
    exact sound_update h1 (wf_storeBytes _ _ _ h1.2) ..

theorem putEntry_ends {stop : Option Nat} {a p : Nat} (h : Sound q (view s)) :
    Ends (fun t => Sound q (view t)) (putEntry stop s a p) := by
  unfold putEntry
  split
  · exact mergeVault_ends (by simpa using h)
  · exact .error _
  · exact .error _

theorem getEntry_ends {stop : Option Nat} {a : Nat} (h : Sound q (view s)) :
    Ends (fun r => Sound q (view r.2)) (getEntry stop s a) := by
  unfold getEntry
  dsimp only
  split
  · refine Ends.bind (Q := fun r => Sound q (view r.2.2)) ?_ fun ⟨_, _, _⟩ h1 => ?_
    · exact stopRead_ends h
    · dsimp only
      exact .pure h1
  · exact .error _
  · exact .error _

theorem getEntries_ends {stop : Option Nat} {n a : Nat} (h : Sound q (view s)) :
    Ends (fun r => Sound q (view r.2)) (getEntries stop n s a) := by
  induction n generalizing s a with
  | zero => exact .ok h
  | succ n ih => exact (getEntry_ends h).bind fun _ h1 => (ih h1).bind fun _ h2 => .pure h2

/-! #### Functions of StepOps that can write memory -/

theorem readScale_ends {n : Nat} (h : Sound q (view s)) : Ends (fun t => Sound q (view t)) (readScale s n) := by
  unfold readScale
  refine Ends.bind (Q := fun r => Sound q (view r.2.2)) ?_ fun ⟨_, _, _⟩ h1 => ?_
  · exact devRead_ends h
  · dsimp only
    exact .ok (by simpa using h1)

theorem writeScale_ends {n : Nat} (h : Sound q (view s)) : Ends (fun t => Sound q (view t)) (writeScale s n) := by
  unfold writeScale
  dsimp only
  refine Ends.bind (Q := fun t => Sound q (view t)) ?_ fun s2 h1 => ?_
  · exact devWrite_ends (by simpa using h)
  · exact .ok (by simpa using h1)

theorem readRegions_ends {a n : Nat} (h : Sound q (view s)) : Ends (fun r => Sound q (view r.2)) (readRegions s a n) := by
  unfold readRegions
  refine Ends.bind (Q := fun r => Sound q (view r.2.2)) ?_ fun ⟨_, _, _⟩ h1 => ?_
  · exact devRead_ends h
  · dsimp only
    exact .pure h1

theorem livePages_ends {r : Region} (h : Sound q (view s)) : Ends (fun r => Sound q (view r.2)) (livePages s r) := by
  unfold livePages
  exact getEntries_ends h

theorem takeShadow_ends {r : Region} {n : Nat} (h : Sound q (view s)) :
    Ends (fun t => Sound q (view t)) (takeShadow r s n) := by
  unfold takeShadow
  refine Ends.bind (Q := fun r => Sound q (view r.2)) ?_ fun ⟨_, _⟩ h1 => ?_
  · exact getEntry_ends h
  · dsimp only
    split
    · exact putEntry_ends h1
    · split
      · exact .error _
      · split
        · exact .ok h1
        · split
          · refine Ends.bind (Q := fun t => Sound q (view t)) ?_ fun s5 h4 => ?_
            · exact copyPage_ends (by simpa using h1)
            · exact putEntry_ends h4
          · refine Ends.bind (Q := fun t => Sound q (view t)) ?_ fun s7 h6 => ?_
            · exact .ok (undefPage_sound (by simpa using h1))
            · exact putEntry_ends h6

theorem overRegions_ends {rs : List Region} {f : Region → State → Nat → Except Halt State}
    (hf : ∀ r s n, Sound q (view s) → Ends (fun t => Sound q (view t)) (f r s n)) (h : Sound q (view s)) :
    Ends (fun t => Sound q (view t)) (overRegions s rs f) :=
  .foldlM (fun _ r h => .foldlM (fun s n h => hf r s n h) _ h) _ h

theorem commitEntry_ends {r : Region} {n : Nat} (h : Sound q (view s)) :
    Ends (fun t => Sound q (view t)) (commitEntry r s n) := by
  unfold commitEntry
  refine Ends.bind (Q := fun r => Sound q (view r.2)) ?_ fun ⟨_, _⟩ h1 => ?_
  · exact getEntry_ends h
  · dsimp only
    split
    · exact .ok h1
    · refine Ends.bind (Q := fun r => Sound q (view r.2)) ?_ fun ⟨_, _⟩ h4 => ?_
      · exact getEntry_ends h1
      · dsimp only
        refine Ends.bind (Q := fun t => Sound q (view t)) ?_ fun s8 h7 => ?_
        · exact putEntry_ends h4
        · exact putEntry_ends (by simpa using h7)

theorem discardEntry_ends {r : Region} {n : Nat} (h : Sound q (view s)) :
    Ends (fun t => Sound q (view t)) (discardEntry r s n) := by
  unfold discardEntry
  refine Ends.bind (Q := fun r => Sound q (view r.2)) ?_ fun ⟨_, _⟩ h1 => ?_
  · exact getEntry_ends h
  · dsimp only
    split
    · exact .ok h1
    · exact putEntry_ends (by simpa using h1)

theorem replayEntry_ends {r : Region} {n : Nat} (h : Sound q (view s)) :
    Ends (fun t => Sound q (view t)) (replayEntry r s n) := by
  unfold replayEntry
  refine Ends.bind (Q := fun r => Sound q (view r.2)) ?_ fun ⟨_, _⟩ h1 => ?_
  · exact getEntry_ends h
  · dsimp only
    split
    · exact .ok h1
    · refine Ends.bind (Q := fun r => Sound q (view r.2)) ?_ fun ⟨_, _⟩ h4 => ?_
      · exact getEntry_ends h1
      · dsimp only
        split
        · exact copyPage_ends h4
        · exact .ok (undefPage_sound h4)

theorem discardStep_ends {q1 : Nat} {st : Step} (h : Sound q (view s)) :
    Ends (fun t => Sound q (view t)) (discardStep s q1 st) := by
  unfold discardStep
  refine Ends.bind (Q := fun t => Sound q (view t)) ?_ fun s2 h1 => ?_
  · exact overRegions_ends (fun r s1 n h0 => discardEntry_ends h0) h
  · exact .ok (by simpa using h1)

theorem tripRecord_ends {q0 : Nat} {st : Step} {action n : Nat} (h : Sound q (view s)) :
    Ends (fun t => Sound q (view t)) (tripRecord q0 st action s n) := by
  unfold tripRecord
  dsimp only
  split
  · split
    · exact .ok (by simpa using h)
    · refine Ends.bind (Q := fun t => Sound q (view t)) ?_ fun s2 h1 => ?_
      · exact devWrite_ends h
      · exact .ok (by simpa using h1)
  · split
    · exact .ok (by simpa using h)
    · refine Ends.bind (Q := fun t => Sound q (view t)) ?_ fun s4 h3 => ?_
      · exact devWrite_ends h
      · exact .ok (by simpa using h3)

theorem commitStep_ends {q1 : Nat} {st : Step} (h : Sound q (view s)) :
    Ends (fun t => Sound q (view t)) (commitStep s q1 st) := by
  unfold commitStep
  refine Ends.bind (Q := fun t => Sound q (view t)) ?_ fun s2 h1 => ?_
  · exact overRegions_ends (fun r s1 n h0 => commitEntry_ends h0) h
  · exact .ok (by simpa using h1)

theorem stepRecords_ends {q1 : Nat} {st : Step} {x3 : List Item} {status : Nat} (h : Sound q (view s)) :
    Ends (fun t => Sound q (view t)) (stepRecords s q1 st x3 status) := by
  unfold stepRecords
  exact putRecords_ends h

theorem replayStep_ends {q1 : Nat} {st : Step} (h : Sound q (view s)) :
    Ends (fun t => Sound q (view t)) (replayStep s q1 st) := by
  unfold replayStep
  refine Ends.bind (Q := fun t => Sound q (view t)) ?_ fun s2 h1 => ?_
  · dsimp only
    exact .foldlM (fun s a h => writeScale_ends h) _ (sound_foldl (fun _ _ h => by simpa using h) _ h)
  · refine Ends.bind (Q := fun t => Sound q (view t)) ?_ fun s4 h3 => ?_
    · exact overRegions_ends (fun r s1 n h0 => replayEntry_ends h0) h1
    · dsimp only
      exact .ok (by simpa using h3)

theorem evaluateStep_ends {q1 : Nat} {st : Step} (h : Sound q (view s)) :
    Ends (fun t => Sound q (view t)) (evaluateStep s q1 st) := by
  unfold evaluateStep
  dsimp only
  refine Ends.bind (Q := fun t => Sound q (view t)) ?_ fun s2 h1 => ?_
  · exact .foldlM (fun s a h => tripRecord_ends h) _ (sound_foldl (fun _ _ h => by simpa using h) _ h)
  · split
    · split
      · exact replayStep_ends h1
      · refine Ends.bind (Q := fun t => Sound q (view t)) ?_ fun s4 h3 => ?_
        · exact .foldlM (fun s a h => writeScale_ends h) _ h1
        · split
          · refine Ends.bind (Q := fun t => Sound q (view t)) ?_ fun s6 h5 => ?_
            · exact commitStep_ends h3
            · exact stepRecords_ends h5
          · refine Ends.bind (Q := fun t => Sound q (view t)) ?_ fun s8 h7 => ?_
            · exact stepRecords_ends (by simpa using h3)
            · exact .ok (by simpa using h7)
    · split
      · split
        · exact replayStep_ends h1
        · refine Ends.bind (Q := fun t => Sound q (view t)) ?_ fun s10 h9 => ?_
          · exact .foldlM (fun s a h => writeScale_ends h) _ h1
          · split
            · refine Ends.bind (Q := fun t => Sound q (view t)) ?_ fun s12 h11 => ?_
              · exact commitStep_ends h9
              · exact stepRecords_ends h11
            · refine Ends.bind (Q := fun t => Sound q (view t)) ?_ fun s14 h13 => ?_
              · exact stepRecords_ends (by simpa using h9)
              · exact .ok (by simpa using h13)
      · split
        · exact replayStep_ends h1
        · refine Ends.bind (Q := fun t => Sound q (view t)) ?_ fun s16 h15 => ?_
          · exact .foldlM (fun s a h => writeScale_ends h) _ h1
          · split
            · refine Ends.bind (Q := fun t => Sound q (view t)) ?_ fun s18 h17 => ?_
              · exact commitStep_ends h15
              · exact stepRecords_ends h17
            · refine Ends.bind (Q := fun t => Sound q (view t)) ?_ fun s20 h19 => ?_
              · exact stepRecords_ends (by simpa using h15)
              · exact .ok (by simpa using h19)

/-! #### Functions of JobOps that can write memory -/

theorem fetchOne_ends {q1 : Nat} (h : Sound q (view s)) : Ends (fun t => Sound q (view t)) (fetchOne s q1) := by
  unfold fetchOne
  dsimp only
  split
  · exact .ok h
  · refine Ends.bind (Q := fun r => Sound q (view r.2.2)) ?_ fun ⟨_, _, _⟩ h1 => ?_
    · exact devRead_ends h
    · dsimp only
      split
      · exact .ok h1
      · split
        · exact .ok h1
        · refine Ends.bind (Q := fun r => Sound q (view r.2.2)) ?_ fun ⟨_, _, _⟩ h4 => ?_
          · refine .foldlM (fun s a h => ?_) _ h1
            refine Ends.bind (Q := fun r => Sound q (view r.2.2)) ?_ fun ⟨_, _, _⟩ h7 => ?_
            · exact devRead_ends h
            · dsimp only
              exact .pure h7
          · dsimp only
            split
            · exact .ok h4
            · exact .ok (by simpa using h4)

theorem fetchAll_ends {n p : Nat} (h : Sound q (view s)) : Ends (fun t => Sound q (view t)) (fetchAll n s p) := by
  induction n generalizing s with
  | zero => exact .ok h
  | succ n ih =>
    refine (fetchOne_ends h).bind fun s1 h1 => ?_
    split
    · exact .ok h1
    · exact ih h1

theorem haltItem_sound {q1 : Nat} {i : Item} (h : Sound q (view s)) : Sound q (view (haltItem s q1 i)) := by
  unfold haltItem
  dsimp only
  split
  · exact undefOuts_sound (sound_foldl (fun _ _ h => by simpa using h) _ (by simpa using h))
  · exact undefOuts_sound (sound_foldl (fun _ _ h => by simpa using h) _ (by simpa using h))
  · exact undefOuts_sound (sound_foldl (fun _ _ h => by simpa using h) _ (by simpa using h))
  · exact undefOuts_sound (sound_foldl (fun _ _ h => by simpa using h) _ (by simpa using h))
  · exact undefRange_sound (by simpa using h)
  · exact undefRange_sound (by simpa using h)
  · exact undefRange_sound (undefRange_sound (by simpa using h))
  · exact loseRows_sound (by simpa using h)
  · simpa using h

theorem abortLive_sound {q1 : Nat} {i : Item} (h : Sound q (view s)) : Sound q (view (abortLive s q1 i)) := by
  unfold abortLive
  simpa using haltItem_sound h

theorem abortStep_ends {q1 : Nat} {st : Step} {which : Item → Bool} (h : Sound q (view s)) :
    Ends (fun t => Sound q (view t)) (abortStep s q1 st which) := by
  unfold abortStep
  dsimp only
  refine Ends.bind (Q := fun t => Sound q (view t)) ?_ fun s2 h1 => ?_
  · exact discardStep_ends (sound_foldl (fun _ _ h => haltItem_sound h) _ h)
  · refine Ends.bind (Q := fun t => Sound q (view t)) ?_ fun s4 h3 => ?_
    · exact putRecords_ends h1
    · exact .ok (by simpa using h3)

theorem startFlush_ends {q1 : Nat} {abort : Bool} (h : Sound q (view s)) :
    Ends (fun r => Sound q (view r.2)) (startFlush s q1 abort) := by
  unfold startFlush
  refine Ends.bind (Q := fun t => Sound q (view t)) ?_ fun s2 h1 => ?_
  · exact fetchAll_ends h
  · dsimp only
    split
    · exact .pure (by simpa using h1)
    · split
      · refine Ends.bind (Q := fun t => Sound q (view t)) ?_ fun s4 h3 => ?_
        · exact .ok (by simpa using h1)
        · exact .pure (by simpa using sound_foldl (fun _ _ h => abortLive_sound h) _ h3)
      · split
        · refine Ends.bind (Q := fun t => Sound q (view t)) ?_ fun s6 h5 => ?_
          · exact discardStep_ends (by simpa using h1)
          · exact .pure (by simpa using sound_foldl (fun _ _ h => abortLive_sound h) _ h5)
        · split
          · refine Ends.bind (Q := fun t => Sound q (view t)) ?_ fun s8 h7 => ?_
            · exact .ok (by simpa using h1)
            · exact .pure (by simpa using sound_foldl (fun _ _ h => abortLive_sound h) _ h7)
          · refine Ends.bind (Q := fun t => Sound q (view t)) ?_ fun s10 h9 => ?_
            · exact abortStep_ends (by simpa using h1)
            · exact .pure (by simpa using sound_foldl (fun _ _ h => abortLive_sound h) _ h9)

theorem flushStep_ends {q1 : Nat} (h : Sound q (view s)) : Ends (fun t => Sound q (view t)) (flushStep s q1) := by
  unfold flushStep
  dsimp only
  split
  · exact .ok h
  · refine Ends.bind (Q := fun t => Sound q (view t)) ?_ fun s2 h1 => ?_
    · exact discardStep_ends h
    · exact putRecords_ends h1

theorem tryFlushEnd_ends {q1 : Nat} (h : Sound q (view s)) : Ends (fun t => Sound q (view t)) (tryFlushEnd s q1) := by
  unfold tryFlushEnd
  dsimp only
  split
  · split
    · exact .ok h
    · refine Ends.bind (Q := fun t => Sound q (view t)) ?_ fun s2 h1 => ?_
      · exact flushStep_ends h
      · split
        · exact .ok h1
        · exact .ok (by simpa using h1)
  · exact .ok h

theorem undefSram_sound (h : Sound q (view s)) : Sound q (view (undefSram s)) :=
  sound_update h (FMap.wf_filter _ _ h.2) ..

theorem resetCores_sound (h : Sound q (view s)) : Sound q (view (resetCores s)) := by
  unfold resetCores
  simpa using undefSram_sound h

theorem resetSteps_ends (h : Sound q (view s)) : Ends (fun t => Sound q (view t)) (resetSteps s) := by
  unfold resetSteps
  exact .foldlM (fun s a h => discardStep_ends h) _ h

theorem jobReset_ends (h : Sound q (view s)) : Ends (fun t => Sound q (view t)) (jobReset s) := by
  refine (resetSteps_ends h).bind fun s1 h1 => .ok ?_
  rw [view_regFlag, view_update, view_applyFeatures, view_staleAll, view_update]
  simpa using resetCores_sound h1

theorem startClose_ends (h : Sound q (view s)) : Ends (fun t => Sound q (view t)) (startClose s) := by
  unfold startClose
  split
  · refine .foldlM (fun s a h => ?_) _ h
    refine Ends.bind (Q := fun r => Sound q (view r.2)) ?_ fun ⟨_, _⟩ h1 => ?_
    · exact startFlush_ends h
    · dsimp only
      exact .pure h1
  · exact .ok h

theorem closeQueue_ends {records : Bool} {q2 : Nat} (h : Sound q (view s)) :
    Ends (fun t => Sound q (view t)) (closeQueue records s q2) := by
  unfold closeQueue
  dsimp only
  split
  · refine Ends.bind (Q := fun t => Sound q (view t)) ?_ fun s2 h1 => ?_
    · exact putRecords_ends h
    · exact .ok (by simpa using h1)
  · refine Ends.bind (Q := fun t => Sound q (view t)) ?_ fun s4 h3 => ?_
    · exact .ok h
    · exact .ok (by simpa using h3)

theorem finishClose_ends {records : Bool} (h : Sound q (view s)) :
    Ends (fun t => Sound q (view t)) (finishClose s records) := by
  unfold finishClose
  refine Ends.bind (Q := fun t => Sound q (view t)) ?_ fun s2 h1 => ?_
  · exact .foldlM (fun s a h => closeQueue_ends h) _ h
  · refine Ends.bind (Q := fun t => Sound q (view t)) ?_ fun s4 h3 => ?_
    · exact jobReset_ends h1
    · exact .ok (by simpa using h3)

theorem tryCloseEnd_ends (h : Sound q (view s)) : Ends (fun t => Sound q (view t)) (tryCloseEnd s) := by
  unfold tryCloseEnd
  dsimp only
  split
  · split
    · refine Ends.bind (Q := fun t => Sound q (view t)) ?_ fun s2 h1 => ?_
      · exact finishClose_ends h
      · exact .ok (by simpa using h1)
    · exact .ok h
  · exact .ok h

theorem quiesceUnits_sound (h : Sound q (view s)) : Sound q (view (quiesceUnits s)) := by
  unfold quiesceUnits
  rw [view_staleAll, view_update]
  refine sound_foldl (fun s i h => ?_) _ ?_
  · split
    · exact loseRows_sound h
    · exact h
  · rwa [view_foldl, view_foldl]
    · intro s c; split <;> simp
    · intro s v; split <;> simp

theorem faultQueue_ends {seq q2 : Nat} (h : Sound q (view s)) : Ends (fun t => Sound q (view t)) (faultQueue seq s q2) := by
  unfold faultQueue
  dsimp only
  refine Ends.bind (Q := fun t => Sound q (view t)) ?_ fun s2 h1 => ?_
  · exact putRecords_ends (sound_foldl (fun _ _ h => haltItem_sound h) _ h)
  · exact .ok (by simpa using h1)

theorem primaryFault_ends {c : Cause} (h : Sound q (view s)) : Ends (fun t => Sound q (view t)) (primaryFault s c) := by
  unfold primaryFault
  dsimp only
  refine Ends.bind (Q := fun t => Sound q (view t)) ?_ fun s2 h1 => ?_
  · exact .foldlM (fun s a h => faultQueue_ends h) _ (quiesceUnits_sound (by simpa using h))
  · exact .ok (by simpa using h1)

theorem takeCause_ends {c : Cause} (h : Sound q (view s)) : Ends (fun t => Sound q (view t)) (takeCause s c) := by
  unfold takeCause
  split
  · exact .ok (by simpa using h)
  · split
    · exact primaryFault_ends h
    · exact .ok (by simpa using h)

theorem takeCauses_ends (h : Sound q (view s)) : Ends (fun t => Sound q (view t)) (takeCauses s) := by
  unfold takeCauses
  exact .foldlM (fun s a h => takeCause_ends h) _ (by simpa using h)

/-! #### Functions of PailOps that can write memory -/

theorem takeRing_ends {r : PailReq} {i : Instr} {f : State → Except Halt State}
    (hf : ∀ s, Sound q (view s) → Ends (fun t => Sound q (view t)) (f s)) (h : Sound q (view s)) :
    Ends (fun t => Sound q (view t)) (takeRing s r i f) := by
  unfold takeRing
  split
  · exact .ok (by simpa using h)
  · exact hf s h

theorem gated_ends {r : PailReq} {kinds : PailKind → Bool} {states : List DevState} {e : Except Halt State}
    (h : Sound q (view s)) (he : Ends (fun t => Sound q (view t)) e) :
    Ends (fun t => Sound q (view t)) (gated s r kinds states e) := by
  unfold gated
  split
  · exact .ok (by simpa using h)
  · split
    · exact .ok (by simpa using h)
    · split
      · exact .ok (by simpa using h)
      · exact he

theorem unknownPail_ends {r : PailReq} (h : Sound q (view s)) : Ends (fun t => Sound q (view t)) (unknownPail s r) := by
  unfold unknownPail
  exact gated_ends h (.ok h)

theorem readSet_ends {a : Nat} (h : Sound q (view s)) : Ends (fun r => Sound q (view r.2)) (readSet s a) := by
  unfold readSet
  split
  · exact devNat_ends h
  · exact .error _

theorem writePlan_ends {a n : Nat} (h : Sound q (view s)) : Ends (fun r => Sound q (view r.2)) (writePlan s a n) := by
  unfold writePlan
  split
  · exact .ok h
  · split
    · exact .error _
    · refine Ends.bind (Q := fun t => Sound q (view t)) ?_ fun s2 h1 => ?_
      · exact devWrite_ends h
      · exact .pure h1

/-! #### Functions of Pails that can write memory -/

theorem devInfo_ends {r : PailReq} (h : Sound q (view s)) : Ends (fun t => Sound q (view t)) (devInfo s r) := by
  unfold devInfo
  exact gated_ends h (.ok (by simpa using h))

theorem floorplanGet_ends {r : PailReq} {a n : Nat} (h : Sound q (view s)) :
    Ends (fun t => Sound q (view t)) (floorplanGet s r a n) := by
  unfold floorplanGet
  refine gated_ends h ?_
  refine Ends.bind (Q := fun r => Sound q (view r.2)) ?_ fun ⟨_, _⟩ h1 => ?_
  · exact writePlan_ends h
  · dsimp only
    exact .pure (by simpa using h1)

theorem jobOpen_ends {r : PailReq} {p : JobOpenP} (h : Sound q (view s)) :
    Ends (fun t => Sound q (view t)) (jobOpen s r p) := by
  unfold jobOpen
  refine gated_ends h ?_
  split
  · exact .ok (by simpa using h)
  · split
    · exact .error _
    · dsimp only
      refine Ends.bind (Q := fun r => Sound q (view r.2)) ?_ fun ⟨_, _⟩ h1 => ?_
      · exact writePlan_ends (by simpa using h)
      · dsimp only
        exact .pure (by simpa using h1)

theorem jobClose_ends {r : PailReq} (h : Sound q (view s)) : Ends (fun t => Sound q (view t)) (jobClose s r) := by
  unfold jobClose
  refine gated_ends h ?_
  refine Ends.bind (Q := fun t => Sound q (view t)) ?_ fun s2 h1 => ?_
  · exact startClose_ends (by simpa using h)
  · exact tryCloseEnd_ends (by simpa using h1)

theorem queueCreate_ends {r : PailReq} {p : QueueCreateP} (h : Sound q (view s)) :
    Ends (fun t => Sound q (view t)) (queueCreate s r p) := by
  unfold queueCreate
  refine gated_ends h ?_
  split
  · exact .ok (by simpa using h)
  · split
    · exact .error _
    · dsimp only
      split
      · refine Ends.bind (Q := fun r => Sound q (view r.2)) ?_ fun ⟨_, _⟩ h1 => ?_
        · exact .ok h
        · dsimp only
          exact .pure (by simpa using h1)
      · refine Ends.bind (Q := fun r => Sound q (view r.2)) ?_ fun ⟨_, _⟩ h4 => ?_
        · exact devNat_ends h
        · dsimp only
          exact .pure (by simpa using h4)

theorem queueDestroy_ends {r : PailReq} {q2 : Nat} (h : Sound q (view s)) :
    Ends (fun t => Sound q (view t)) (queueDestroy s r q2) := by
  unfold queueDestroy
  exact gated_ends h (.ok (by simpa using h))

theorem flush_ends {r : PailReq} {q2 : Nat} {abort : Bool} (h : Sound q (view s)) :
    Ends (fun t => Sound q (view t)) (flush s r q2 abort) := by
  unfold flush
  refine gated_ends h ?_
  split
  · exact .ok (by simpa using h)
  · refine Ends.bind (Q := fun r => Sound q (view r.2)) ?_ fun ⟨_, _⟩ h1 => ?_
    · exact startFlush_ends (by simpa using h)
    · dsimp only
      exact tryFlushEnd_ends (by simpa using h1)

theorem queueFlush_ends {r : PailReq} {q2 : Nat} (h : Sound q (view s)) :
    Ends (fun t => Sound q (view t)) (queueFlush s r q2) := by
  unfold queueFlush
  exact flush_ends h

theorem queueFlushAbort_ends {r : PailReq} {q2 : Nat} (h : Sound q (view s)) :
    Ends (fun t => Sound q (view t)) (queueFlushAbort s r q2) := by
  unfold queueFlushAbort
  exact flush_ends h

/-! #### Functions of Boot that can write memory -/

theorem powerOn_sound {straps : Straps} {wires : List WireTest} (h : Sound q (view s)) :
    Sound q (view (powerOn s straps wires)) := by
  unfold powerOn
  dsimp only
  rw [view_ite, view_tripRecordAtBoot]
  change Sound q (if _ then view (List.foldl _ _ _) else _)
  rw [ite_self, view_foldl view_trainWires, view_startBoot]
  exact ⟨h.1, FMap.wf_filter _ _ h.2⟩

theorem powerOff_sound (h : Sound q (view s)) : Sound q (view (powerOff s)) := by
  unfold powerOff
  simpa using h

theorem discardWork_sound (h : Sound q (view s)) : Sound q (view (discardWork s)) := by
  unfold discardWork
  exact sound_foldl (fun _ _ h => sound_foldl (fun _ _ h => haltItem_sound h) _ h) _ h

theorem conventional_sound (h : Sound q (view s)) : Sound q (view (conventional s)) := by
  unfold conventional
  rw [view_startBoot]
  exact ⟨h.1, FMap.wf_filter _ _ (discardWork_sound h).2⟩

theorem runKat_sound {failing : List Nat} (h : Sound q (view s)) : Sound q (view (runKat s failing)) := by
  unfold runKat
  exact sound_foldl (fun _ _ h => by simpa using h) _ (undefSram_sound h)

theorem bootKat_sound {failing : List Nat} {classes : List (Nat × Nat)} (h : Sound q (view s)) :
    Sound q (view (bootKat s failing classes)) := by
  unfold bootKat
  simpa using runKat_sound h

theorem resetHostRegs_sound (h : Sound q (view s)) : Sound q (view (resetHostRegs s)) := by
  unfold resetHostRegs
  simpa using h

theorem resetClose_ends (h : Sound q (view s)) : Ends (fun t => Sound q (view t)) (resetClose s) := by
  unfold resetClose
  refine Ends.bind (Q := fun t => Sound q (view t)) ?_ fun s2 h1 => ?_
  · exact startClose_ends (by simpa using h)
  · refine Ends.bind (Q := fun t => Sound q (view t)) ?_ fun s4 h3 => ?_
    · exact finishClose_ends h1
    · exact .ok (by simpa using h3)

theorem hostReset_ends (h : Sound q (view s)) : Ends (fun t => Sound q (view t)) (hostReset s) := by
  unfold hostReset
  dsimp only
  split
  · refine Ends.bind (Q := fun t => Sound q (view t)) ?_ fun s2 h1 => ?_
    · exact resetClose_ends h
    · exact .ok (resetHostRegs_sound (by simpa using h1))
  · refine Ends.bind (Q := fun t => Sound q (view t)) ?_ fun s4 h3 => ?_
    · exact .ok h
    · exact .ok (resetHostRegs_sound (by simpa using h3))

theorem watchdog_ends {core : Nat} (h : Sound q (view s)) : Ends (fun t => Sound q (view t)) (watchdog s core) := by
  unfold watchdog
  exact takeCauses_ends (by simpa using h)

/-! #### Functions of ConfigPails that can write memory -/

theorem powerSetCap_ends {r : PailReq} {p : CapP} (h : Sound q (view s)) :
    Ends (fun t => Sound q (view t)) (powerSetCap s r p) := by
  unfold powerSetCap
  split
  · exact .ok (by simpa using h)
  · refine gated_ends h ?_
    split
    · exact .error _
    · exact .ok (by simpa using h)

theorem powerSetOppAuto_ends {r : PailReq} {mask : Nat} (h : Sound q (view s)) :
    Ends (fun t => Sound q (view t)) (powerSetOppAuto s r mask) := by
  unfold powerSetOppAuto
  exact gated_ends h (.ok (by simpa using h))

theorem powerSetOppPin_ends {r : PailReq} {opp mask : Nat} (h : Sound q (view s)) :
    Ends (fun t => Sound q (view t)) (powerSetOppPin s r opp mask) := by
  unfold powerSetOppPin
  refine gated_ends h ?_
  split
  · exact .error _
  · dsimp only
    exact .ok (by simpa using h)

theorem domainPolicyTimers_ends {r : PailReq} {p : TimersP} (h : Sound q (view s)) :
    Ends (fun t => Sound q (view t)) (domainPolicyTimers s r p) := by
  unfold domainPolicyTimers
  refine gated_ends h ?_
  split
  · exact .error _
  · split
    · exact .ok (by simpa using h)
    · refine Ends.bind (Q := fun r => Sound q (view r.2)) ?_ fun ⟨_, _⟩ h1 => ?_
      · exact readSet_ends h
      · dsimp only
        split
        · exact .pure (by simpa using h1)
        · exact .pure (by simpa using h1)

theorem domainPolicyRetain_ends {r : PailReq} {logical : Bool} {banks set : Nat} (h : Sound q (view s)) :
    Ends (fun t => Sound q (view t)) (domainPolicyRetain s r logical banks set) := by
  unfold domainPolicyRetain
  refine gated_ends h ?_
  split
  · exact .ok (by simpa using h)
  · refine Ends.bind (Q := fun r => Sound q (view r.2)) ?_ fun ⟨_, _⟩ h1 => ?_
    · exact readSet_ends h
    · dsimp only
      split
      · exact .pure (by simpa using h1)
      · exact .pure (by simpa using h1)

theorem domainPolicyWake_ends {r : PailReq} {kind : DomKind} {logical : Bool} {set : Nat} (h : Sound q (view s)) :
    Ends (fun t => Sound q (view t)) (domainPolicyWake s r kind logical set) := by
  unfold domainPolicyWake
  refine gated_ends h ?_
  split
  · exact .error _
  · split
    · exact .ok (by simpa using h)
    · refine Ends.bind (Q := fun r => Sound q (view r.2)) ?_ fun ⟨_, _⟩ h1 => ?_
      · exact readSet_ends h
      · dsimp only
        split
        · exact .pure (by simpa using h1)
        · exact .pure (by simpa using h1)

theorem domainPolicyAdmit_ends {r : PailReq} {aggr : Bool} (h : Sound q (view s)) :
    Ends (fun t => Sound q (view t)) (domainPolicyAdmit s r aggr) := by
  unfold domainPolicyAdmit
  refine gated_ends h ?_
  split
  · exact .ok (by simpa using h)
  · exact .ok (by simpa using h)

theorem licenceInstall_ends {r : PailReq} {x : LicenceRec} {flashOk : Bool} (h : Sound q (view s)) :
    Ends (fun t => Sound q (view t)) (licenceInstall s r x flashOk) := by
  unfold licenceInstall
  exact gated_ends h (.ok (by simpa using h))

theorem licenceList_ends {r : PailReq} {first : Nat} (h : Sound q (view s)) :
    Ends (fun t => Sound q (view t)) (licenceList s r first) := by
  unfold licenceList
  exact gated_ends h (.ok (by simpa using h))

theorem timeConfig_ends {r : PailReq} {p : TimeP} (h : Sound q (view s)) :
    Ends (fun t => Sound q (view t)) (timeConfig s r p) := by
  unfold timeConfig
  refine gated_ends h ?_
  split
  · exact .error _
  · exact .ok (by simpa using h)

theorem timeConfigSet_ends {r : PailReq} {p : TimeP} {tod : Nat} (h : Sound q (view s)) :
    Ends (fun t => Sound q (view t)) (timeConfigSet s r p tod) := by
  unfold timeConfigSet
  refine gated_ends h ?_
  split
  · exact .error _
  · split
    · exact .ok (by simpa using h)
    · exact .ok (by simpa using h)

theorem linkConfig_ends {r : PailReq} {p : LinkP} {flashOk : Bool} (h : Sound q (view s)) :
    Ends (fun t => Sound q (view t)) (linkConfig s r p flashOk) := by
  unfold linkConfig
  refine gated_ends h ?_
  split
  · exact .error _
  · exact .ok (by simpa using h)

/-! #### Functions of ReportPails that can write memory -/

theorem counterAccessUser_ends {r : PailReq} {mask : Nat} (h : Sound q (view s)) :
    Ends (fun t => Sound q (view t)) (counterAccessUser s r mask) := by
  unfold counterAccessUser
  exact gated_ends h (.ok (by simpa using h))

theorem counterAccessSelect_ends {r : PailReq} {p : SelectP} (h : Sound q (view s)) :
    Ends (fun t => Sound q (view t)) (counterAccessSelect s r p) := by
  unfold counterAccessSelect
  refine gated_ends h ?_
  split
  · exact .ok (by simpa using h)
  · refine Ends.bind (Q := fun r => Sound q (view r.2)) ?_ fun ⟨_, _⟩ h1 => ?_
    · exact readSet_ends h
    · dsimp only
      exact .pure (by simpa using h1)

theorem snapshotConfigStart_ends {r : PailReq} {p : SnapP} (h : Sound q (view s)) :
    Ends (fun t => Sound q (view t)) (snapshotConfigStart s r p) := by
  unfold snapshotConfigStart
  refine gated_ends h ?_
  split
  · exact .error _
  · split
    · exact .ok (by simpa using h)
    · exact .ok (by simpa using h)

theorem snapshotConfigStop_ends {r : PailReq} (h : Sound q (view s)) :
    Ends (fun t => Sound q (view t)) (snapshotConfigStop s r) := by
  unfold snapshotConfigStop
  exact gated_ends h (.ok (by simpa using h))

theorem guardConfigPolicy_ends {r : PailReq} {a : Nat} (h : Sound q (view s)) :
    Ends (fun t => Sound q (view t)) (guardConfigPolicy s r a) := by
  unfold guardConfigPolicy
  exact gated_ends h (.ok (by simpa using h))

theorem guardConfigSlot_ends {r : PailReq} {p : SlotP} (h : Sound q (view s)) :
    Ends (fun t => Sound q (view t)) (guardConfigSlot s r p) := by
  unfold guardConfigSlot
  refine gated_ends h ?_
  split
  · exact .error _
  · split
    · exact .ok (by simpa using h)
    · exact .ok (by simpa using h)

theorem guardConfigLog_ends {r : PailReq} {base entries vector : Nat} (h : Sound q (view s)) :
    Ends (fun t => Sound q (view t)) (guardConfigLog s r base entries vector) := by
  unfold guardConfigLog
  refine gated_ends h ?_
  split
  · exact .ok (by simpa using h)
  · exact .error _

theorem resolveStep_ends {r : PailReq} {n : Nat} {f : State → Nat → Step → Except Halt State}
    (hf : ∀ s n st, Sound q (view s) → Ends (fun t => Sound q (view t)) (f s n st)) (h : Sound q (view s)) :
    Ends (fun t => Sound q (view t)) (resolveStep s r n f) := by
  refine gated_ends h ?_
  split
  · exact .ok (by simpa using h)
  · exact (hf _ _ _ h).bind fun _ h1 => .pure (by simpa using h1)

theorem guardConfigResolveCommit_ends {r : PailReq} {q2 : Nat} (h : Sound q (view s)) :
    Ends (fun t => Sound q (view t)) (guardConfigResolveCommit s r q2) := by
  unfold guardConfigResolveCommit
  exact resolveStep_ends (fun s1 n st h0 => commitStep_ends h0) h

theorem guardConfigResolveDiscard_ends {r : PailReq} {q2 : Nat} (h : Sound q (view s)) :
    Ends (fun t => Sound q (view t)) (guardConfigResolveDiscard s r q2) := by
  unfold guardConfigResolveDiscard
  exact resolveStep_ends (fun s1 n st h0 => discardStep_ends h0) h

theorem wearReportSummary_ends {r : PailReq} (h : Sound q (view s)) :
    Ends (fun t => Sound q (view t)) (wearReportSummary s r) := by
  unfold wearReportSummary
  exact gated_ends h (.ok (by simpa using h))

theorem wearReportDetail_ends {r : PailReq} {n a : Nat} (h : Sound q (view s)) :
    Ends (fun t => Sound q (view t)) (wearReportDetail s r n a) := by
  unfold wearReportDetail
  refine gated_ends h ?_
  split
  · exact .ok (by simpa using h)
  · split
    · exact .error _
    · refine Ends.bind (Q := fun t => Sound q (view t)) ?_ fun s2 h1 => ?_
      · exact devWrite_ends h
      · exact .pure (by simpa using h1)

theorem faultRecordGet_ends {r : PailReq} {first : Nat} (h : Sound q (view s)) :
    Ends (fun t => Sound q (view t)) (faultRecordGet s r first) := by
  unfold faultRecordGet
  exact gated_ends h (.ok (by simpa using h))

theorem fwUpdate_ends {r : PailReq} {p : FwP} (h : Sound q (view s)) : Ends (fun t => Sound q (view t)) (fwUpdate s r p) := by
  unfold fwUpdate
  refine gated_ends h ?_
  split
  · split
    · exact .ok (by simpa using h)
    · split
      · exact .error _
      · refine Ends.bind (Q := fun r => Sound q (view r.2.2)) ?_ fun ⟨_, _, _⟩ h1 => ?_
        · exact devRead_ends h
        · dsimp only
          split
          · exact .pure (by simpa using h1)
          · split
            · exact .pure (by simpa using h1)
            · split
              · exact .pure (by simpa using h1)
              · exact .pure (by simpa using h1)
  · split
    · exact .ok (by simpa using h)
    · split
      · exact .error _
      · refine Ends.bind (Q := fun r => Sound q (view r.2.2)) ?_ fun ⟨_, _, _⟩ h4 => ?_
        · exact devRead_ends h
        · dsimp only
          split
          · exact .pure (by simpa using h4)
          · split
            · exact .pure (by simpa using h4)
            · split
              · exact .pure (by simpa using h4)
              · exact .pure (by simpa using h4)

theorem katRun_ends {r : PailReq} {failing : List Nat} (h : Sound q (view s)) :
    Ends (fun t => Sound q (view t)) (katRun s r failing) := by
  unfold katRun
  refine gated_ends h ?_
  dsimp only
  exact .ok (by simpa using runKat_sound h)

/-! #### Functions of Deferred that can write memory -/

theorem pailEffect_ends {r : PailReq} {i : Instr} (h : Sound q (view s)) :
    Ends (fun t => Sound q (view t)) (pailEffect s r i) := by
  unfold pailEffect
  split
  · exact devInfo_ends h
  · exact floorplanGet_ends h
  · exact jobOpen_ends h
  · exact jobClose_ends h
  · exact queueCreate_ends h
  · exact queueDestroy_ends h
  · exact queueFlush_ends h
  · exact queueFlushAbort_ends h
  · exact powerSetCap_ends h
  · exact powerSetOppAuto_ends h
  · exact powerSetOppPin_ends h
  · exact domainPolicyTimers_ends h
  · exact domainPolicyRetain_ends h
  · exact domainPolicyWake_ends h
  · exact domainPolicyAdmit_ends h
  · exact licenceInstall_ends h
  · exact licenceList_ends h
  · exact timeConfig_ends h
  · exact timeConfigSet_ends h
  · exact linkConfig_ends h
  · exact counterAccessUser_ends h
  · exact counterAccessSelect_ends h
  · exact snapshotConfigStart_ends h
  · exact snapshotConfigStop_ends h
  · exact guardConfigPolicy_ends h
  · exact guardConfigSlot_ends h
  · exact guardConfigLog_ends h
  · exact guardConfigResolveCommit_ends h
  · exact guardConfigResolveDiscard_ends h
  · exact wearReportSummary_ends h
  · exact wearReportDetail_ends h
  · exact faultRecordGet_ends h
  · exact fwUpdate_ends h
  · exact katRun_ends h
  · exact unknownPail_ends h

theorem runWaiting_ends {n : Nat} (h : Sound q (view s)) : Ends (fun t => Sound q (view t)) (runWaiting n s) := by
  induction n generalizing s with
  | zero => exact .ok h
  | succ n ih =>
    unfold runWaiting
    split
    · exact .ok h
    · exact (pailEffect_ends (by simpa using h)).bind fun _ => ih

theorem runDeferred_ends (h : Sound q (view s)) : Ends (fun t => Sound q (view t)) (runDeferred s) := by
  unfold runDeferred
  exact runWaiting_ends h

theorem settlePails_ends (h : Sound q (view s)) : Ends (fun t => Sound q (view t)) (settlePails s) := by
  unfold settlePails
  refine Ends.bind (Q := fun t => Sound q (view t)) ?_ fun s2 h1 => ?_
  · exact tryCloseEnd_ends h
  · exact runDeferred_ends (by simpa using h1)

/-! #### Functions of Queues that can write memory -/

theorem showEntries_ends {q1 v t0 : Nat} (h : Sound q (view s)) : Ends (fun t => Sound q (view t)) (showEntries s q1 v t0) := by
  unfold showEntries
  dsimp only
  split
  · exact .error _
  · exact .ok (by simpa using h)

theorem ringWork_ends {q1 v t0 : Nat} (h : Sound q (view s)) : Ends (fun t => Sound q (view t)) (ringWork s q1 v t0) := by
  unfold ringWork
  dsimp only
  split
  · exact .ok (by simpa using h)
  · exact showEntries_ends h

theorem returnSlots_ends {q1 v : Nat} (h : Sound q (view s)) : Ends (fun t => Sound q (view t)) (returnSlots s q1 v) := by
  unfold returnSlots
  dsimp only
  split
  · exact .ok (by simpa using h)
  · split
    · exact .error _
    · exact .ok (by simpa using h)

theorem ringBell_ends {q1 v t0 : Nat} (h : Sound q (view s)) : Ends (fun t => Sound q (view t)) (ringBell s q1 v t0) := by
  unfold ringBell
  split
  · exact returnSlots_ends h
  · exact ringWork_ends h

theorem targetSet_ends {x : Queue} {a : Nat} (h : Sound q (view s)) : Ends (fun r => Sound q (view r.2)) (targetSet s x a) := by
  unfold targetSet
  dsimp only
  split
  · refine Ends.bind (Q := fun r => Sound q (view r.2)) ?_ fun ⟨_, _⟩ h1 => ?_
    · exact .ok h
    · dsimp only
      exact .pure h1
  · refine Ends.bind (Q := fun r => Sound q (view r.2)) ?_ fun ⟨_, _⟩ h4 => ?_
    · exact readSet_ends h
    · dsimp only
      exact .pure h4

theorem targetItem_ends {q1 : Nat} {i : Item} {a : Nat} (h : Sound q (view s)) :
    Ends (fun t => Sound q (view t)) (targetItem s q1 i a) := by
  unfold targetItem
  dsimp only
  refine Ends.bind (Q := fun r => Sound q (view r.2)) ?_ fun ⟨_, _⟩ h1 => ?_
  · exact targetSet_ends h
  · dsimp only
    split
    · exact .ok (by simpa using h1)
    · exact .ok (by simpa using h1)

theorem dispatchItem_ends {q1 : Nat} {i : Item} (h : Sound q (view s)) :
    Ends (fun t => Sound q (view t)) (dispatchItem s q1 i) := by
  unfold dispatchItem
  dsimp only
  split
  · exact .ok (by simpa using h)
  · refine .orUndef ?_
    split
    · exact targetItem_ends (by simpa using h)
    · exact .ok (by simpa using h)

theorem dispatchNext_ends {q1 : Nat} (h : Sound q (view s)) : Ends (fun t => Sound q (view t)) (dispatchNext s q1) := by
  unfold dispatchNext
  split
  · exact dispatchItem_ends (by simpa using h)
  · exact .ok h

theorem completeItem_ends {q1 idx : Nat} (h : Sound q (view s)) : Ends (fun t => Sound q (view t)) (completeItem s q1 idx) := by
  unfold completeItem
  dsimp only
  split
  · exact .ok h
  · split
    · refine Ends.bind (Q := fun t => Sound q (view t)) ?_ fun s2 h1 => ?_
      · exact .ok h
      · refine Ends.bind (Q := fun t => Sound q (view t)) ?_ fun s4 h3 => ?_
        · exact tryFlushEnd_ends h1
        · exact settlePails_ends h3
    · refine Ends.bind (Q := fun t => Sound q (view t)) ?_ fun s6 h5 => ?_
      · exact putRecord_ends h
      · refine Ends.bind (Q := fun t => Sound q (view t)) ?_ fun s8 h7 => ?_
        · exact tryFlushEnd_ends h5
        · exact settlePails_ends h7

/-! #### Functions of Sync that can write memory -/

theorem sendWord_ends {q1 idx addr value : Nat} (h : Sound q (view s)) :
    Ends (fun t => Sound q (view t)) (sendWord s q1 idx addr value) := by
  unfold sendWord
  dsimp only
  split
  · exact .error _
  · exact .error _
  · exact .ok (by simpa using h)

theorem runSignal_ends {q1 idx : Nat} (h : Sound q (view s)) : Ends (fun t => Sound q (view t)) (runSignal s q1 idx) := by
  unfold runSignal
  split
  · refine .orUndef ?_
    exact sendWord_ends h
  · exact .ok h

theorem runBell_ends {q1 idx : Nat} (h : Sound q (view s)) : Ends (fun t => Sound q (view t)) (runBell s q1 idx) := by
  unfold runBell
  dsimp only
  split
  · split
    · exact .error _
    · split
      · refine Ends.bind (Q := fun t => Sound q (view t)) ?_ fun s2 h1 => ?_
        · exact ringBell_ends h
        · exact .ok (by simpa using h1)
      · exact .ok (by simpa using h)
  · exact .ok h

theorem pollWait_ends {q1 idx : Nat} (h : Sound q (view s)) : Ends (fun t => Sound q (view t)) (pollWait s q1 idx) := by
  unfold pollWait
  dsimp only
  split
  · split
    · exact .error _
    · refine Ends.bind (Q := fun r => Sound q (view r.2)) ?_ fun ⟨_, _⟩ h1 => ?_
      · exact devNat_ends h
      · dsimp only
        split
        · exact .ok (by simpa using h1)
        · exact .ok (by simpa using h1)
  · exact .ok h

theorem abortOne_ends {qt : Nat} {i : Item} (h : Sound q (view s)) : Ends (fun r => Sound q (view r.2)) (abortOne s qt i) := by
  unfold abortOne
  split
  · exact .ok h
  · split
    · split
      · refine Ends.bind (Q := fun t => Sound q (view t)) ?_ fun s2 h1 => ?_
        · exact abortStep_ends h
        · exact .ok h1
      · exact .ok h
    · split
      · exact .ok (by simpa using h)
      · split
        · exact .ok (abortLive_sound h)
        · exact .ok h

theorem abortLook_ends {qt : Nat} (h : Sound q (view s)) :
    Ends (fun r => Sound q (view r.1) ∧ Sound q (view r.2)) (abortLook s qt) := by
  unfold abortLook
  split
  · exact .ok ⟨h, h⟩
  · refine (fetchAll_ends h).bind fun s1 h1 => .pure ⟨h1, ?_⟩
    dsimp only
    split
    · simpa using h1
    · exact h1

theorem runAbort_ends {p idx : Nat} (h : Sound q (view s)) : Ends (fun t => Sound q (view t)) (runAbort s p idx) := by
  unfold runAbort
  split
  · refine (abortLook_ends h).bind fun ⟨_, _⟩ h1 => ?_
    dsimp only
    split
    · exact .ok (by simpa using h1.2)
    · refine (abortOne_ends h1.2).bind fun ⟨_, _⟩ h2 => ?_
      refine (tryFlushEnd_ends (by simpa using h2)).bind fun s3 h3 => ?_
      exact settlePails_ends h3
  · exact .ok h

/-! #### Functions of TileOps that can write memory -/

theorem scalarTo_ends {c n v : Nat} (h : Sound q (view s)) : Ends (fun t => Sound q (view t)) (scalarTo s c n v) := by
  unfold scalarTo
  exact .ok (by simpa using h)

/-! #### Functions of Array that can write memory -/

theorem issueFeed_ends {c : Nat} {f : FeedF} (h : Sound q (view s)) : Ends (fun t => Sound q (view t)) (issueFeed s c f) := by
  unfold issueFeed
  split
  · dsimp only
    refine Ends.bind (Q := fun t => Sound q (view t)) ?_ fun s2 h1 => ?_
    · exact orderOp_ends h
    · exact .ok (by simpa using h1)
  · exact .ok h

theorem startFeed_ends {c : Nat} {o : FeedOp} {ups : List (Nat × Upset)} (h : Sound q (view s)) :
    Ends (fun t => Sound q (view t)) (startFeed s c o ups) := by
  unfold startFeed
  split
  · exact .error _
  · split
    · exact .error _
    · dsimp only
      split
      · exact .error _
      · exact .ok (by simpa using touchSpans_sound (by simpa using h))

theorem issueDrain_ends {c : Nat} {f : DrainF} (h : Sound q (view s)) :
    Ends (fun t => Sound q (view t)) (issueDrain s c f) := by
  unfold issueDrain
  split
  · dsimp only
    refine Ends.bind (Q := fun t => Sound q (view t)) ?_ fun s2 h1 => ?_
    · exact orderOp_ends h
    · exact .ok (by simpa using h1)
  · exact .ok h

theorem putWhey_sound {c : Nat} {o : DrainOp} {i : Nat} {ts deq : List Num} (h : Sound q (view s)) :
    Sound q (view (putWhey s c o i ts deq)) := by
  unfold putWhey
  split
  · exact h
  · simpa using coreOut_sound h

theorem drainRow_sound {c : Nat} {t : OldTile} {o : DrainOp} {p : State × Report} {i : Nat} (h : Sound q (view p.1)) :
    Sound q (view (drainRow c t o p i).1) := by
  unfold drainRow
  rw [view_coreEvent]
  exact putWhey_sound (putRow_sound h)

theorem touchWhey_sound {c : Nat} {o : DrainOp} (h : Sound q (view s)) : Sound q (view (touchWhey s c o)) := by
  unfold touchWhey
  exact touchSpans_sound h

theorem startDrain_ends {c : Nat} {o : DrainOp} (h : Sound q (view s)) :
    Ends (fun t => Sound q (view t)) (startDrain s c o) := by
  have hr : ∀ (t : OldTile) (l : List Nat) (p : State × Report), Sound q (view p.1) →
      Sound q (view (l.foldl (drainRow c t o) p).1) := by
    intro t l
    induction l with
    | nil => exact fun _ h => h
    | cons i l ih => exact fun p h => ih _ (drainRow_sound h)
  unfold startDrain
  dsimp only
  split
  · exact .error _
  · split
    · exact .error _
    · refine .ok ?_
      rw [view_bump, view_updCore, view_leaveDrainQ, view_ite, view_sendReport, ite_self]
      exact hr _ _ _ (touchWhey_sound h)

/-! #### Functions of Vector that can write memory -/

theorem issueVop_ends {c : Nat} {f : VopF} (h : Sound q (view s)) : Ends (fun t => Sound q (view t)) (issueVop s c f) := by
  unfold issueVop
  split
  · dsimp only
    refine Ends.bind (Q := fun t => Sound q (view t)) ?_ fun s2 h1 => ?_
    · exact orderOp_ends h
    · exact .ok (by simpa using h1)
  · exact .ok h

theorem vopRow_sound {c : Nat} {o : VopOp} {l : Nat} (h : Sound q (view s)) : Sound q (view (vopRow c o s l)) := by
  unfold vopRow
  simpa using putRow_sound h

theorem touchVop_sound {c : Nat} {o : VopOp} (h : Sound q (view s)) : Sound q (view (touchVop s c o)) := by
  unfold touchVop
  exact touchSpans_sound h

theorem runVop_ends {c : Nat} {o : VopOp} (h : Sound q (view s)) : Ends (fun t => Sound q (view t)) (runVop s c o) := by
  unfold runVop
  split
  · exact .error _
  · dsimp only
    exact .ok (by simpa using sound_foldl (fun _ _ h => vopRow_sound h) _ (touchVop_sound (by simpa using h)))

/-! #### Functions of Attention that can write memory -/

theorem issueAtb_ends {c : Nat} {f : AtbF} (h : Sound q (view s)) : Ends (fun t => Sound q (view t)) (issueAtb s c f) := by
  unfold issueAtb
  split
  · dsimp only
    refine Ends.bind (Q := fun t => Sound q (view t)) ?_ fun s2 h1 => ?_
    · exact orderOp_ends h
    · exact .ok (by simpa using h1)
  · exact .ok h

theorem updateOut_sound {c : Nat} {o : AtbOp} {ps : List StatRow} {lo i : Nat} (h : Sound q (view s)) :
    Sound q (view (updateOut c o ps lo s i)) := by
  unfold updateOut
  simpa using coreOut_sound h

theorem valueStep_sound {c : Nat} {o : AtbOp} {ps : List StatRow} {lo : Nat} (h : Sound q (view s)) :
    Sound q (view (valueStep c o ps s lo)) := by
  unfold valueStep
  simpa using sound_foldl (fun _ _ h => updateOut_sound h) _ (by simpa using h)

theorem putStats_sound {c : Nat} {o : AtbOp} {ps : List StatRow} (h : Sound q (view s)) :
    Sound q (view (putStats s c o ps)) := by
  unfold putStats
  exact coreOut_sound h

theorem touchAtb_sound {c : Nat} {o : AtbOp} (h : Sound q (view s)) : Sound q (view (touchAtb s c o)) := by
  unfold touchAtb
  exact touchSpans_sound h

theorem atbSteps_sound {c : Nat} {o : AtbOp} (h : Sound q (view s)) : Sound q (view (atbSteps s c o)) := by
  unfold atbSteps
  simpa using putStats_sound (sound_foldl (fun _ _ h => valueStep_sound h) _ (by simpa using h))

theorem runAtb_ends {c : Nat} {o : AtbOp} (h : Sound q (view s)) : Ends (fun t => Sound q (view t)) (runAtb s c o) := by
  unfold runAtb
  dsimp only
  split
  · exact .error _
  · exact .ok (by simpa using atbSteps_sound (touchAtb_sound (by simpa using h)))

/-! #### Functions of Gemm that can write memory -/

theorem gemmLine_ends {fmt base ld sc k l : Nat} (h : Sound q (view s)) :
    Ends (fun r => Sound q (view r.2)) (gemmLine s fmt base ld sc k l) := by
  unfold gemmLine
  refine Ends.bind (Q := fun r => Sound q (view r.2.2)) ?_ fun ⟨_, _, _⟩ h1 => ?_
  · exact kernRead_ends h
  · dsimp only
    split
    · refine Ends.bind (Q := fun r => Sound q (view r.2.2)) ?_ fun ⟨_, _, _⟩ h4 => ?_
      · exact kernRead_ends h1
      · dsimp only
        exact .pure h4
    · exact .pure h1

theorem gemmLines_ends {fmt base ld sc k n : Nat} (h : Sound q (view s)) :
    Ends (fun r => Sound q (view r.2)) (gemmLines s fmt base ld sc k n) := by
  unfold gemmLines
  refine .foldlM (fun s a h => ?_) _ h
  refine Ends.bind (Q := fun r => Sound q (view r.2)) ?_ fun ⟨_, _⟩ h1 => ?_
  · exact gemmLine_ends h
  · dsimp only
    exact .pure h1

theorem gemmOld_ends {p : GemmP} {fc m : Nat} (h : Sound q (view s)) :
    Ends (fun r => Sound q (view r.2)) (gemmOld s p fc m) := by
  unfold gemmOld
  split
  · exact .ok h
  · refine Ends.bind (Q := fun r => Sound q (view r.2.2)) ?_ fun ⟨_, _, _⟩ h1 => ?_
    · exact kernRead_ends h
    · dsimp only
      split
      · refine Ends.bind (Q := fun r => Sound q (view r.2.2)) ?_ fun ⟨_, _, _⟩ h4 => ?_
        · exact kernRead_ends h1
        · dsimp only
          exact .pure h4
      · exact .pure h1

theorem putGemmRow_ends {q1 idx : Nat} {p : GemmP} {fc m : Nat} {r : Row} (h : Sound q (view s)) :
    Ends (fun t => Sound q (view t)) (putGemmRow s q1 idx p fc m r) := by
  unfold putGemmRow
  dsimp only
  refine Ends.bind (Q := fun t => Sound q (view t)) ?_ fun s2 h1 => ?_
  · exact kernWrite_ends (by simpa using h)
  · split
    · exact .ok h1
    · exact kernWrite_ends (by simpa using h1)

theorem gemmRows_ends {q1 idx : Nat} {p : GemmP} {fc : Nat} {doubt : List KLine → Bool} {ps : List Pass}
    {as bs : List (List KLine)} {rep : Report} (h : Sound q (view s)) :
    Ends (fun r => Sound q (view r.1)) (gemmRows s q1 idx p fc doubt ps as bs rep) := by
  unfold gemmRows
  refine .foldlM (fun s a h => ?_) _ h
  refine Ends.bind (Q := fun r => Sound q (view r.2)) ?_ fun ⟨_, _⟩ h1 => ?_
  · exact gemmOld_ends h
  · dsimp only
    refine Ends.bind (Q := fun t => Sound q (view t)) ?_ fun s5 h4 => ?_
    · exact putGemmRow_ends h1
    · exact .pure h4

theorem gemmEffect_ends {q1 : Nat} {i : Item} {p : GemmP} (h : Sound q (view s)) :
    Ends (fun t => Sound q (view t)) (gemmEffect s q1 i p) := by
  unfold gemmEffect
  dsimp only
  split
  · exact .error _
  · split
    · exact .error _
    · refine Ends.bind (Q := fun r => Sound q (view r.2)) ?_ fun ⟨_, _⟩ h1 => ?_
      · exact gemmLines_ends h
      · dsimp only
        refine Ends.bind (Q := fun r => Sound q (view r.2)) ?_ fun ⟨_, _⟩ h4 => ?_
        · exact gemmLines_ends h1
        · dsimp only
          refine Ends.bind (Q := fun r => Sound q (view r.1)) ?_ fun ⟨_, _⟩ h7 => ?_
          · exact gemmRows_ends (by simpa using h4)
          · dsimp only
            exact .ok (by simpa using h7)

theorem runGemm_ends {q1 idx : Nat} (h : Sound q (view s)) : Ends (fun t => Sound q (view t)) (runGemm s q1 idx) := by
  unfold runGemm
  split
  · split
    · exact gemmEffect_ends h
    · exact .ok h
  · exact .ok h

/-! #### Functions of Attend that can write memory -/

theorem readLines_ends {fmt n len a sc : Nat} (h : Sound q (view s)) :
    Ends (fun r => Sound q (view r.2)) (readLines s fmt n len a sc) := by
  unfold readLines
  dsimp only
  refine .foldlM (fun s a h => ?_) _ h
  refine Ends.bind (Q := fun r => Sound q (view r.2.2)) ?_ fun ⟨_, _, _⟩ h1 => ?_
  · exact kernRead_ends h
  · dsimp only
    split
    · exact .pure h1
    · refine Ends.bind (Q := fun r => Sound q (view r.2.2)) ?_ fun ⟨_, _, _⟩ h4 => ?_
      · exact kernRead_ends h1
      · dsimp only
        exact .pure h4

theorem queryLines_ends {p : AttendP} {e : Nat} (h : Sound q (view s)) :
    Ends (fun r => Sound q (view r.2)) (queryLines s p e) := by
  unfold queryLines
  dsimp only
  exact readLines_ends h

theorem pageLines_ends {p : AttendP} {page : Nat} (h : Sound q (view s)) :
    Ends (fun r => Sound q (view r.2.2)) (pageLines s p page) := by
  unfold pageLines
  split
  · exact .error _
  · dsimp only
    refine Ends.bind (Q := fun r => Sound q (view r.2)) ?_ fun ⟨_, _⟩ h1 => ?_
    · exact readLines_ends h
    · dsimp only
      refine Ends.bind (Q := fun r => Sound q (view r.2)) ?_ fun ⟨_, _⟩ h4 => ?_
      · exact readLines_ends h1
      · dsimp only
        exact .pure h4

theorem attBlocks_ends {p : AttendP} {len table : Nat} {qs : List (List KLine)} (h : Sound q (view s)) :
    Ends (fun r => Sound q (view r.2)) (attBlocks p len table qs s) := by
  unfold attBlocks
  refine .foldlM (fun s a h => ?_) _ h
  refine Ends.bind (Q := fun r => Sound q (view r.2)) ?_ fun ⟨_, _⟩ h1 => ?_
  · exact getEntry_ends h
  · dsimp only
    refine Ends.bind (Q := fun r => Sound q (view r.2.2)) ?_ fun ⟨_, _, _⟩ h4 => ?_
    · exact pageLines_ends h1
    · dsimp only
      exact .pure h4

theorem attendOne_ends {q0 idx fo : Nat} {p : AttendP} {e : Nat} (h : Sound q (view s)) :
    Ends (fun t => Sound q (view t)) (attendOne q0 idx fo p s e) := by
  unfold attendOne
  refine Ends.bind (Q := fun r => Sound q (view r.2.2)) ?_ fun ⟨_, _, _⟩ h1 => ?_
  · exact kernRead_ends h
  · dsimp only
    split
    · exact .error _
    · refine Ends.bind (Q := fun r => Sound q (view r.2)) ?_ fun ⟨_, _⟩ h4 => ?_
      · exact queryLines_ends h1
      · dsimp only
        refine Ends.bind (Q := fun r => Sound q (view r.2)) ?_ fun ⟨_, _⟩ h7 => ?_
        · exact attBlocks_ends h4
        · dsimp only
          exact kernWrite_ends (by simpa using h7)

theorem attendEffect_ends {q1 : Nat} {i : Item} {p : AttendP} (h : Sound q (view s)) :
    Ends (fun t => Sound q (view t)) (attendEffect s q1 i p) := by
  unfold attendEffect
  split
  · exact .error _
  · split
    · exact .error _
    · refine Ends.bind (Q := fun t => Sound q (view t)) ?_ fun s2 h1 => ?_
      · exact .foldlM (fun s a h => attendOne_ends h) _ h
      · exact .ok (by simpa using h1)

theorem runAttend_ends {q1 idx : Nat} (h : Sound q (view s)) : Ends (fun t => Sound q (view t)) (runAttend s q1 idx) := by
  unfold runAttend
  split
  · split
    · exact attendEffect_ends h
    · exact .ok h
  · exact .ok h

/-! #### Functions of Vaults that can write memory -/

theorem landData_sound {c sram : Nat} {data : List Byte} {poison : Bool} (h : Sound q (view s)) :
    Sound q (view (landData s c sram data poison)) := by
  unfold landData
  split
  · exact undefMem_sound h
  · exact writeMem_sound h

theorem replyRead_sound {v : Nat} {r : VReq} {data : List Byte} {poison : Bool} (h : Sound q (view s)) :
    Sound q (view (replyRead s v r data poison)) := by
  unfold replyRead
  split
  · split
    · simpa using landData_sound h
    · exact h
  · simpa using h

theorem openMerge_ends {v id : Nat} {r : VReq} (h : Sound q (view s)) :
    Ends (fun t => Sound q (view t)) (openMerge s v id r) := by
  unfold openMerge
  refine Ends.bind (Q := fun r => Sound q (view r.2.2)) ?_ fun ⟨_, _, _⟩ h1 => ?_
  · exact readVault_ends (by simpa using h)
  · dsimp only
    exact .ok (by simpa using h1)

theorem plainRead_ends {v : Nat} {r : VReq} (h : Sound q (view s)) : Ends (fun t => Sound q (view t)) (plainRead s v r) := by
  unfold plainRead
  refine Ends.bind (Q := fun r => Sound q (view r.2.2)) ?_ fun ⟨_, _, _⟩ h1 => ?_
  · exact readVault_ends (by simpa using h)
  · dsimp only
    exact .ok (replyRead_sound h1)

theorem performRead_ends {v : Nat} {r : VReq} (h : Sound q (view s)) :
    Ends (fun t => Sound q (view t)) (performRead s v r) := by
  unfold performRead
  split
  · exact plainRead_ends h
  · split
    · exact .ok (by simpa using h)
    · split
      · exact openMerge_ends h
      · exact plainRead_ends h

theorem performWrite_ends {v : Nat} {r : VReq} (h : Sound q (view s)) :
    Ends (fun t => Sound q (view t)) (performWrite s v r) := by
  unfold performWrite
  refine Ends.bind (Q := fun t => Sound q (view t)) ?_ fun s2 h1 => ?_
  · exact writeVault_ends (by simpa using h)
  · exact .ok (by simpa using h1)

theorem performNext_ends {v : Nat} {ups : List (Nat × Upset)} (h : Sound q (view s)) :
    Ends (fun t => Sound q (view t)) (performNext s v ups) := by
  unfold performNext
  dsimp only
  split
  · exact .ok h
  · split
    · refine Ends.bind (Q := fun t => Sound q (view t)) ?_ fun s2 h1 => ?_
      · exact performWrite_ends (by simpa using h)
      · exact .ok (by simpa using h1)
    · refine Ends.bind (Q := fun t => Sound q (view t)) ?_ fun s4 h3 => ?_
      · exact performRead_ends (by simpa using h)
      · exact .ok (by simpa using h3)

theorem sendMerged_sound {v : Nat} {m : Merge} {rs : List VReq} (h : Sound q (view s)) :
    Sound q (view (sendMerged s v m rs)) := by
  unfold sendMerged
  split
  · exact h
  · exact replyRead_sound h
  · exact sound_foldl (fun _ _ h => by simpa using h) _ (by simpa using h)

theorem deliverMerge_sound {v : Nat} {m : Merge} (h : Sound q (view s)) : Sound q (view (deliverMerge s v m)) := by
  unfold deliverMerge
  simpa using sendMerged_sound (sound_foldl (fun _ _ h => replyRead_sound h) _ (by simpa using h))

theorem scrubAt_sound {v off : Nat} (h : Sound q (view s)) : Sound q (view (scrubAt s v off)) := by
  unfold scrubAt
  split
  · exact h
  · exact h
  · simpa using h
  · exact vaultUe_sound h

theorem scrub_sound {v : Nat} {u : Option Upset} (h : Sound q (view s)) : Sound q (view (scrub s v u)) := by
  unfold scrub
  dsimp only
  split
  · simpa using scrubAt_sound (by simpa using h)
  · simpa using scrubAt_sound h

/-! #### Functions of Copies that can write memory -/

theorem copyBytes_ends {src dst n : Nat} (h : Sound q (view s)) : Ends (fun t => Sound q (view t)) (copyBytes s src dst n) := by
  unfold copyBytes
  refine .foldlM (fun s a h => ?_) _ h
  dsimp only
  refine Ends.bind (Q := fun r => Sound q (view r.2.2)) ?_ fun ⟨_, _, _⟩ h1 => ?_
  · exact stopRead_ends h
  · dsimp only
    refine Ends.bind (Q := fun t => Sound q (view t)) ?_ fun s5 h4 => ?_
    · exact stopWrite_ends h1
    · exact .pure (by simpa using h4)

theorem runCopy_ends {q1 idx : Nat} (h : Sound q (view s)) : Ends (fun t => Sound q (view t)) (runCopy s q1 idx) := by
  unfold runCopy
  split
  · split
    · exact .error _
    · split
      · exact .error _
      · refine Ends.bind (Q := fun t => Sound q (view t)) ?_ fun s2 h1 => ?_
        · exact copyBytes_ends h
        · exact .ok (by simpa using h1)
  · exact .ok h

theorem fillPart_ends {p : List Byte} {r : Nat × Nat} (h : Sound q (view s)) :
    Ends (fun t => Sound q (view t)) (fillPart p s r) := by
  unfold fillPart
  split
  · split
    · exact .error _
    · refine Ends.bind (Q := fun t => Sound q (view t)) ?_ fun s2 h1 => ?_
      · exact vaultFree_ends h
      · refine Ends.bind (Q := fun t => Sound q (view t)) ?_ fun s4 h3 => ?_
        · exact writeVault_ends h1
        · split
          · exact .ok (by simpa using h3)
          · exact .ok h3
  · exact stopWrite_ends h
  · exact .error _
  · exact .error _

theorem runFill_ends {q1 idx : Nat} (h : Sound q (view s)) : Ends (fun t => Sound q (view t)) (runFill s q1 idx) := by
  unfold runFill
  split
  · split
    · exact .ok (by simpa using h)
    · split
      · exact .error _
      · refine Ends.bind (Q := fun t => Sound q (view t)) ?_ fun s2 h1 => ?_
        · exact .foldlM (fun s a h => fillPart_ends h) _ h
        · exact .ok (by simpa using h1)
  · exact .ok h

/-! #### Functions of Dma that can write memory -/

theorem issueDma_ends {c : Nat} {k : DmaKind} {f : DmaF} (h : Sound q (view s)) :
    Ends (fun t => Sound q (view t)) (issueDma s c k f) := by
  unfold issueDma
  dsimp only
  split
  · exact .ok (by simpa using h)
  · split
    · refine Ends.bind (Q := fun t => Sound q (view t)) ?_ fun s2 h1 => ?_
      · exact orderOp_ends h
      · exact .ok (by simpa using h1)
    · exact .ok h

theorem shaftReq_sound {c ch : Nat} {o : DmaOp} {r : DmaReq} {off : Nat} (h : Sound q (view s)) :
    Sound q (view (shaftReq s c ch o r off)) := by
  unfold shaftReq
  rw [view_coreEvent, view_levelWake, view_updVault]
  split
  · exact readSram_sound h
  · exact h

theorem ringReq_sound {c ch : Nat} {o : DmaOp} {r : DmaReq} {ack : Bool} (h : Sound q (view s)) :
    Sound q (view (ringReq s c ch o r ack)) := by
  unfold ringReq
  dsimp only
  split
  · rw [view_sendPacket]
    split
    · rw [view_openTxn]; exact readSram_sound (by simpa using h)
    · exact readSram_sound (by simpa using h)
  · simpa using h

theorem dmaReq_sound {c ch : Nat} {o : DmaOp} {last : Nat} {r : DmaReq × Nat} (h : Sound q (view s)) :
    Sound q (view (dmaReq c ch o last s r)) := by
  unfold dmaReq
  dsimp only
  split
  · split
    · exact shaftReq_sound (by simpa using h)
    · exact ringReq_sound (by simpa using h)
  · exact ringReq_sound (by simpa using h)
  · exact ringReq_sound (by simpa using h)

theorem startDma_ends {c ch : Nat} {o : DmaOp} {ups : List (Nat × Upset)} (h : Sound q (view s)) :
    Ends (fun t => Sound q (view t)) (startDma s c ch o ups) := by
  unfold startDma
  split
  · exact .error _
  · split
    · exact .error _
    · dsimp only
      exact .ok (sound_foldl (fun _ _ h => dmaReq_sound h) _ (sound_foldl (fun _ _ h => by simpa using h) _ (by simpa using h)))

/-! #### Functions of Pages that can write memory -/

theorem pageAlloc_ends {p : PageOpP} (h : Sound q (view s)) : Ends (fun r => Sound q (view r.2)) (pageAlloc s p) := by
  unfold pageAlloc
  refine Ends.bind (Q := fun r => Sound q (view r.2)) ?_ fun ⟨_, _⟩ h1 => ?_
  · exact getEntries_ends h
  · dsimp only
    split
    · exact .error _
    · split
      · exact .pure h1
      · refine Ends.bind (Q := fun t => Sound q (view t)) ?_ fun s5 h4 => ?_
        · refine .foldlM (fun s a h => ?_) _ h1
          split
          · exact .ok h
          · exact putEntry_ends (undefPage_sound (by simpa using h))
        · exact .pure h4

theorem pageShare_ends {p : PageOpP} (h : Sound q (view s)) : Ends (fun r => Sound q (view r.2)) (pageShare s p) := by
  unfold pageShare
  refine Ends.bind (Q := fun r => Sound q (view r.2)) ?_ fun ⟨_, _⟩ h1 => ?_
  · exact getEntries_ends h
  · dsimp only
    refine (Ends.any _).bind fun a4 _ => ?_
    split
    · exact .pure h1
    · refine Ends.bind (Q := fun t => Sound q (view t)) ?_ fun s6 h5 => ?_
      · exact .foldlM (fun s a h => putEntry_ends (by simpa using h)) _ h1
      · exact .pure h5

theorem cowEntry_ends {p : PageOpP} {n : Nat} (h : Sound q (view s)) : Ends (fun t => Sound q (view t)) (cowEntry p s n) := by
  unfold cowEntry
  refine Ends.bind (Q := fun r => Sound q (view r.2)) ?_ fun ⟨_, _⟩ h1 => ?_
  · exact getEntry_ends h
  · dsimp only
    split
    · exact .ok h1
    · split
      · exact .ok h1
      · refine Ends.bind (Q := fun t => Sound q (view t)) ?_ fun s5 h4 => ?_
        · exact copyPage_ends (by simpa using h1)
        · exact putEntry_ends (by simpa using h4)

theorem pageCow_ends {p : PageOpP} (h : Sound q (view s)) : Ends (fun r => Sound q (view r.2)) (pageCow s p) := by
  unfold pageCow
  refine Ends.bind (Q := fun r => Sound q (view r.2)) ?_ fun ⟨_, _⟩ h1 => ?_
  · exact getEntries_ends h
  · dsimp only
    refine (Ends.any _).bind fun a4 _ => ?_
    split
    · exact .pure h1
    · refine Ends.bind (Q := fun t => Sound q (view t)) ?_ fun s6 h5 => ?_
      · exact .foldlM (fun s a h => cowEntry_ends h) _ h1
      · exact .pure h5

theorem pageFree_ends {p : PageOpP} (h : Sound q (view s)) : Ends (fun r => Sound q (view r.2)) (pageFree s p) := by
  unfold pageFree
  refine Ends.bind (Q := fun r => Sound q (view r.2)) ?_ fun ⟨_, _⟩ h1 => ?_
  · exact getEntries_ends h
  · dsimp only
    refine (Ends.any _).bind fun a4 _ => ?_
    refine Ends.bind (Q := fun t => Sound q (view t)) ?_ fun s6 h5 => ?_
    · refine .foldlM (fun s a h => ?_) _ h1
      split
      · exact .ok h
      · exact putEntry_ends (by simpa using h)
    · exact .pure h5

theorem runPageOp_ends {n idx : Nat} {f : State → PageOpP → Except Halt Done}
    (hf : ∀ s p, Sound q (view s) → Ends (fun r => Sound q (view r.2)) (f s p)) (h : Sound q (view s)) :
    Ends (fun t => Sound q (view t)) (runPageOp s n idx f) := by
  unfold runPageOp
  split
  · exact .ok h
  · split
    · exact .error _
    · split
      · exact .ok (by simpa using h)
      · split
        · exact .error _
        · split
          · exact .error _
          · split
            · exact .error _
            · exact (hf s _ h).bind fun _ h1 => .ok (by simpa using h1)

theorem startInit_sound {h1 : Nat} (h : Sound q (view s)) : Sound q (view (startInit s h1)) := by
  unfold startInit
  rw [view_regFlag]
  exact sound_update (s := setUnit s h1 _) h (FMap.wf_filter _ _ h.2) ..

theorem initUnit_ends {h1 : Nat} (h : Sound q (view s)) : Ends (fun t => Sound q (view t)) (initUnit s h1) := by
  unfold initUnit
  refine .orUndef ?_
  refine .orUndef ?_
  exact .ok (startInit_sound h)

theorem lookupBlock_ends {p : TillerP} {r : TillerRun} {b x : Nat} (h : Sound q (view r.s)) :
    Ends (fun r => Sound q (view r.s)) (lookupBlock p r b x) := by
  unfold lookupBlock
  split
  · exact .ok h
  · dsimp only
    split
    · exact .ok h
    · refine (Ends.any _).bind fun a1 _ => ?_
      split
      · exact .pure h
      · split
        · exact .pure h
        · refine Ends.bind (Q := fun t => Sound q (view t)) ?_ fun s3 h2 => ?_
          · exact putEntry_ends (by simpa using h)
          · exact .pure h2

theorem insertBlock_ends {p : TillerP} {r : TillerRun} {b x : Nat} (h : Sound q (view r.s)) :
    Ends (fun r => Sound q (view r.s)) (insertBlock p r b x) := by
  unfold insertBlock
  refine Ends.bind (Q := fun r => Sound q (view r.2)) ?_ fun ⟨_, _⟩ h1 => ?_
  · exact getEntry_ends h
  · dsimp only
    split
    · exact .pure h1
    · refine (Ends.any _).bind fun a4 _ => ?_
      split
      · exact .pure h1
      · split
        · exact .error _
        · split
          · exact .pure h1
          · exact .pure (by simpa using h1)

theorem removeBlock_ends {p : TillerP} {r : TillerRun} {b x : Nat} (h : Sound q (view r.s)) :
    Ends (fun r => Sound q (view r.s)) (removeBlock p r b x) := by
  unfold removeBlock
  refine Ends.bind (Q := fun r => Sound q (view r.2)) ?_ fun ⟨_, _⟩ h1 => ?_
  · exact getEntry_ends h
  · dsimp only
    split
    · exact .pure h1
    · refine (Ends.any _).bind fun a4 _ => ?_
      split
      · split
        · exact .pure (by simpa using h1)
        · exact .pure h1
      · exact .pure h1

theorem tillerHashes_ends {p : TillerP} (h : Sound q (view s)) : Ends (fun r => Sound q (view r.2)) (tillerHashes s p) := by
  unfold tillerHashes
  split
  · refine Ends.bind (Q := fun r => Sound q (view r.2.2)) ?_ fun ⟨_, _, _⟩ h1 => ?_
    · exact stopRead_ends h
    · dsimp only
      exact .pure h1
  · refine Ends.bind (Q := fun r => Sound q (view r.2.2)) ?_ fun ⟨_, _, _⟩ h4 => ?_
    · exact stopRead_ends h
    · dsimp only
      exact .pure h4

theorem runTiller_ends {n idx : Nat} {f : TillerP → TillerRun → Nat → Nat → Except Halt TillerRun}
    (hf : ∀ p r b x, Sound q (view r.s) → Ends (fun r => Sound q (view r.s)) (f p r b x)) (h : Sound q (view s)) :
    Ends (fun t => Sound q (view t)) (runTiller s n idx f) := by
  unfold runTiller
  split
  · split
    · exact .error _
    · split
      · exact .ok (by simpa using h)
      · split
        · exact .error _
        · split
          · exact .error _
          · refine (tillerHashes_ends (by simpa using h)).bind fun x h1 => ?_
            refine Ends.bind (Q := fun r => Sound q (view r.s)) (.foldlM (fun r x hr => hf _ r _ _ hr) _ h1) fun r hr => ?_
            exact (stopWrite_ends hr).bind fun _ ht => .ok ht
  · exact .ok h

theorem sortBatch_ends {p : WinnowP} (h : Sound q (view s)) : Ends (fun t => Sound q (view t)) (sortBatch s p) := by
  unfold sortBatch
  refine Ends.bind (Q := fun r => Sound q (view r.2.2)) ?_ fun ⟨_, _, _⟩ h1 => ?_
  · exact stopRead_ends h
  · dsimp only
    refine Ends.bind (Q := fun t => Sound q (view t)) ?_ fun s5 h4 => ?_
    · exact stopWrite_ends h1
    · exact stopWrite_ends h4

theorem runWinnow_ends {q1 idx : Nat} (h : Sound q (view s)) : Ends (fun t => Sound q (view t)) (runWinnow s q1 idx) := by
  unfold runWinnow
  split
  · split
    · exact .error _
    · split
      · exact .error _
      · split
        · exact .error _
        · exact sortBatch_ends (by simpa using h)
  · exact .ok h

/-! #### Functions of Stoby that can write memory -/

theorem performWriteOp_ends {c l : Nat} {f : Frame} (h : Sound q (view s)) :
    Ends (fun t => Sound q (view t)) (performWriteOp s c l f) := by
  unfold performWriteOp
  refine (Ends.any _).bind fun a1 _ => ?_
  dsimp only
  exact .ok (by simpa using h)

theorem performReadOp_ends {c l : Nat} {f : Frame} (h : Sound q (view s)) :
    Ends (fun t => Sound q (view t)) (performReadOp s c l f) := by
  unfold performReadOp
  refine (Ends.any _).bind fun a1 _ => ?_
  dsimp only
  exact .ok (by simpa using h)

theorem performReduceOp_ends {c l : Nat} {f : Frame} (h : Sound q (view s)) :
    Ends (fun t => Sound q (view t)) (performReduceOp s c l f) := by
  unfold performReduceOp
  refine (Ends.any _).bind fun a1 _ => ?_
  dsimp only
  exact .ok (by simpa using h)

theorem performAtomicOp_ends {c : Nat} {f : Frame} (h : Sound q (view s)) :
    Ends (fun t => Sound q (view t)) (performAtomicOp s c f) := by
  unfold performAtomicOp
  split
  · exact .ok (by simpa using h)
  · exact .error _
  · exact .error _

theorem performBellOp_ends {c : Nat} {f : Frame} {t0 : Nat} (h : Sound q (view s)) :
    Ends (fun t => Sound q (view t)) (performBellOp s c f t0) := by
  unfold performBellOp
  refine Ends.bind (Q := fun t => Sound q (view t)) ?_ fun s2 h1 => ?_
  · exact ringBell_ends h
  · exact .ok (by simpa using h1)

theorem performOp_ends {c l : Nat} {f : Frame} {t0 : Nat} (h : Sound q (view s)) :
    Ends (fun t => Sound q (view t)) (performOp s c l f t0) := by
  unfold performOp
  split
  · exact performWriteOp_ends h
  · exact performReadOp_ends h
  · exact .ok (by simpa using h)
  · exact performReduceOp_ends h
  · exact performAtomicOp_ends h
  · exact performBellOp_ends h

theorem startFrames_ends {n c l : Nat} (h : Sound q (view s)) : Ends (fun t => Sound q (view t)) (startFrames n s c l) := by
  induction n generalizing s with
  | zero => exact .ok h
  | succ n ih =>
    unfold startFrames
    split
    · exact .ok h
    · split
      · exact .ok h
      · exact (performOp_ends (by simpa using h)).bind fun _ => ih

theorem intoContext_ends {c l : Nat} {x : RecvCtx} {f : Frame} {t0 : Nat} (h : Sound q (view s)) :
    Ends (fun t => Sound q (view t)) (intoContext s c l x f t0) := by
  unfold intoContext
  dsimp only
  split
  · exact .ok (by simpa using h)
  · split
    · exact .ok (by simpa using h)
    · exact startFrames_ends (by simpa using h)

theorem takeFrame_ends {s0 : State} {l : Nat} {f : Frame} {t0 : Nat} (h : Sound q (view s0)) :
    Ends (fun t => Sound q (view t)) (takeFrame s0 l f t0) := by
  unfold takeFrame
  dsimp only
  split
  · split
    · exact intoContext_ends (by simpa using h)
    · exact intoContext_ends (by simpa using h)
  · split
    · exact .ok (by simpa using h)
    · split
      · exact .ok (by simpa using h)
      · exact intoContext_ends (by simpa using h)

/-! #### Functions of Receive that can write memory -/

theorem takeStoby_ends {l : Nat} {f : Frame} {t0 : Nat} (h : Sound q (view s)) :
    Ends (fun t => Sound q (view t)) (takeStoby s l f t0) := by
  unfold takeStoby
  split
  · exact .ok h
  · split
    · exact .ok (by simpa using h)
    · have h1 := takeFrame_ends (l := l) (f := f) (t0 := t0) h
      cases he : takeFrame s l f t0 with
      | error e => exact .error _
      | ok t => exact .ok (by simpa using h1 t he)

theorem takeRx_ends {l t0 : Nat} {x3 : RxFrame} (h : Sound q (view s)) :
    Ends (fun t => Sound q (view t)) (takeRx s l t0 x3) := by
  unfold takeRx
  split
  · exact takeStoby_ends h
  · exact .ok (by simpa using h)
  · exact .ok (by simpa using h)
  · exact .ok (by simpa using h)
  · exact .ok (by simpa using h)
  · exact .ok (by simpa using h)
  · exact .ok (by simpa using h)
  · exact .ok (by simpa using h)
  · exact .ok (by simpa using h)
  · exact .ok (by simpa using h)

theorem processRx_ends {l t0 : Nat} {x : RxFrame} (h : Sound q (view s)) :
    Ends (fun t => Sound q (view t)) (processRx s l t0 x) := by
  unfold processRx
  dsimp only
  split
  · exact takeRx_ends (by simpa using h)
  · exact .ok (by simpa using h)

theorem receive_ends {l : Nat} {x : RxFrame} (h : Sound q (view s)) : Ends (fun t => Sound q (view t)) (receive s l x) := by
  unfold receive
  split
  · exact .ok h
  · split
    · exact processRx_ends h
    · exact .ok (by simpa using h)

theorem drainRx_ends {l : Nat} {es : List (RxFrame × Nat)} (h : Sound q (view s)) :
    Ends (fun t => Sound q (view t)) (drainRx l es s) := by
  induction es generalizing s with
  | nil => exact .ok h
  | cons e es ih => exact (processRx_ends h).bind fun _ => ih

theorem linkReached_ends {l : Nat} (h : Sound q (view s)) : Ends (fun t => Sound q (view t)) (linkReached s l) := by
  unfold linkReached
  refine Ends.bind (Q := fun t => Sound q (view t)) ?_ fun s2 h1 => ?_
  · exact drainRx_ends (by simpa using h)
  · exact .pure (by simpa using h1)

/-! #### Functions of Steps that can write memory -/

theorem needPages_ends {rs : List Region} {h2 : Nat} (h : Sound q (view s)) :
    Ends (fun r => Sound q (view r.2)) (needPages s rs h2) := by
  unfold needPages
  refine .foldlM (fun s a h => ?_) _ h
  split
  · refine Ends.bind (Q := fun r => Sound q (view r.2)) ?_ fun ⟨_, _⟩ h1 => ?_
    · exact livePages_ends h
    · dsimp only
      exact .pure h1
  · exact .ok h

theorem shadowsFit_ends {rs : List Region} (h : Sound q (view s)) : Ends (fun r => Sound q (view r.2)) (shadowsFit s rs) := by
  unfold shadowsFit
  refine .foldlM (fun s a h => ?_) _ h
  refine Ends.bind (Q := fun r => Sound q (view r.2)) ?_ fun ⟨_, _⟩ h1 => ?_
  · exact needPages_ends h
  · dsimp only
    exact .pure h1

theorem takeSlot_ends {q0 n : Nat} (h : Sound q (view s)) : Ends (fun t => Sound q (view t)) (takeSlot q0 s n) := by
  unfold takeSlot
  exact readScale_ends (by simpa using h)

theorem openStep_ends {q1 idx : Nat} {p : StepBeginP} {slots : List Nat} {rs : List Region} (h : Sound q (view s)) :
    Ends (fun t => Sound q (view t)) (openStep s q1 idx p slots rs) := by
  unfold openStep
  refine Ends.bind (Q := fun t => Sound q (view t)) ?_ fun s2 h1 => ?_
  · exact .foldlM (fun s a h => takeSlot_ends h) _ h
  · refine Ends.bind (Q := fun t => Sound q (view t)) ?_ fun s4 h3 => ?_
    · exact overRegions_ends (fun r s1 n h0 => takeShadow_ends h0) h1
    · dsimp only
      exact .ok (by simpa using h3)

theorem runStepBegin_ends {q1 idx : Nat} (h : Sound q (view s)) : Ends (fun t => Sound q (view t)) (runStepBegin s q1 idx) := by
  unfold runStepBegin
  dsimp only
  split
  · split
    · exact .error _
    · refine Ends.bind (Q := fun r => Sound q (view r.2)) ?_ fun ⟨_, _⟩ h1 => ?_
      · exact devNat_ends h
      · dsimp only
        refine Ends.bind (Q := fun r => Sound q (view r.2)) ?_ fun ⟨_, _⟩ h4 => ?_
        · exact readRegions_ends h1
        · dsimp only
          split
          · exact .error _
          · split
            · exact .ok (by simpa using h4)
            · refine Ends.bind (Q := fun r => Sound q (view r.2)) ?_ fun ⟨_, _⟩ h7 => ?_
              · exact shadowsFit_ends h4
              · dsimp only
                split
                · exact .ok (by simpa using h7)
                · refine Ends.bind (Q := fun t => Sound q (view t)) ?_ fun s11 h10 => ?_
                  · exact openStep_ends h7
                  · exact .ok (by simpa using h10)
  · exact .ok h

theorem runEvaluation_ends {q1 : Nat} (h : Sound q (view s)) : Ends (fun t => Sound q (view t)) (runEvaluation s q1) := by
  unfold runEvaluation
  split
  · exact .ok h
  · refine Ends.bind (Q := fun t => Sound q (view t)) ?_ fun s2 h1 => ?_
    · exact evaluateStep_ends h
    · refine Ends.bind (Q := fun t => Sound q (view t)) ?_ fun s4 h3 => ?_
      · exact tryFlushEnd_ends (by simpa using h1)
      · exact settlePails_ends h3

/-! #### Functions of Domains that can write memory -/

theorem loseBanks_sound {c kept : Nat} (h : Sound q (view s)) :
    Sound q (view (loseBanks s c kept)) :=
  sound_update h (FMap.wf_filter _ _ h.2) ..

theorem coreSleeps_sound {c : Nat} {st : DomSt} (h : Sound q (view s)) : Sound q (view (coreSleeps s c st)) := by
  have h1 : ∀ kept, Sound q (view (loseBanks (resetCoreLogic (releaseBanks s ⟨.core, c⟩) c) c kept)) :=
    fun kept => loseBanks_sound (by simpa using h)
  unfold coreSleeps
  simp only [view_ite, view_update, ite_self]
  exact h1 _

theorem vaultDies_sound {v : Nat} (h : Sound q (view s)) : Sound q (view (vaultDies s v)) := by
  unfold vaultDies
  rw [view_regFlag, view_regFlag]
  exact sound_update h (FMap.wf_filter _ _ h.2) ..

theorem enterLow_sound {d : Dom} {st : DomSt} (h : Sound q (view s)) : Sound q (view (enterLow s d st)) := by
  unfold enterLow
  split
  · exact coreSleeps_sound h
  · split
    · exact vaultDies_sound h
    · exact h
  · simpa using h
  · simpa using h
  · exact h

theorem commitSleep_sound {d : Dom} {st : DomSt} (h : Sound q (view s)) : Sound q (view (commitSleep s d st)) := by
  unfold commitSleep
  simpa using enterLow_sound h

theorem beginTrans_sound {d : Dom} {t : DomSt} (h : Sound q (view s)) : Sound q (view (beginTrans s d t)) := by
  unfold beginTrans
  split
  · simpa using h
  · exact commitSleep_sound h

theorem endTrans_sound {d : Dom} {t : DomSt} (h : Sound q (view s)) : Sound q (view (endTrans s d t)) := by
  unfold endTrans
  dsimp only
  split
  · exact beginTrans_sound (by simpa using h)
  · simpa using h

theorem endTransLink_ends {d : Dom} {t : DomSt} (h : Sound q (view s)) :
    Ends (fun t => Sound q (view t)) (endTransLink s d t) := by
  unfold endTransLink
  dsimp only
  split
  · exact linkReached_ends (endTrans_sound h)
  · exact .ok (endTrans_sound h)

theorem coreBrowns_sound {c : Nat} (h : Sound q (view s)) : Sound q (view (coreBrowns s c)) := by
  unfold coreBrowns
  simpa using loseBanks_sound (by simpa using h)

theorem brownOut_sound {h1 : Nat} (h : Sound q (view s)) : Sound q (view (brownOut s h1)) := by
  unfold brownOut
  simpa using sound_forEach (fun _ _ h => coreBrowns_sound h) _ h

/-! #### Functions of Reds that can write memory -/

theorem sendReds_ends {h1 : RedsHead} {v : Rect} {fence evt : Nat} (h : Sound q (view s)) :
    Ends (fun t => Sound q (view t)) (sendReds s h1 v fence evt) := by
  unfold sendReds
  split
  · exact .error _
  · dsimp only
    exact .ok (by simpa using h)

theorem redsTile_ends {c : Nat} {o : RedsOp} {d : TileDesc} (h : Sound q (view s)) :
    Ends (fun t => Sound q (view t)) (redsTile s c o d) := by
  unfold redsTile
  dsimp only
  split
  · exact .error _
  · refine Ends.bind (Q := fun t => Sound q (view t)) ?_ fun s2 h1 => ?_
    · exact orderOp_ends h
    · exact sendReds_ends (by simpa using touchTile_sound h1)

theorem issueReds_ends {c : Nat} {f : RedsF} (h : Sound q (view s)) : Ends (fun t => Sound q (view t)) (issueReds s c f) := by
  unfold issueReds
  dsimp only
  split
  · exact .ok (by simpa using h)
  · refine Ends.bind (Q := fun t => Sound q (view t)) ?_ fun s2 h1 => ?_
    · exact redsTile_ends h
    · exact .ok (by simpa using h1)

theorem startReds_ends {c : Nat} {o : RedsOp} (h : Sound q (view s)) : Ends (fun t => Sound q (view t)) (startReds s c o) := by
  unfold startReds
  dsimp only
  split
  · split
    · exact .error _
    · exact sendReds_ends (by simpa using h)
  · split
    · exact .error _
    · exact sendReds_ends (by simpa using h)

/-! #### Functions of Reduce that can write memory -/

theorem srcRun_ends {efmt a j n : Nat} (h : Sound q (view s)) : Ends (fun r => Sound q (view r.2)) (srcRun s efmt a j n) := by
  unfold srcRun
  dsimp only
  refine Ends.bind (Q := fun r => Sound q (view r.2.2)) ?_ fun ⟨_, _, _⟩ h1 => ?_
  · exact kernRead_ends h
  · dsimp only
    exact .pure h1

theorem sendSource_ends {h0 : RedsHead} {src : Nat} (h : Sound q (view s)) :
    Ends (fun t => Sound q (view t)) (sendSource h0 src s) := by
  unfold sendSource
  refine .foldlM (fun s a h => ?_) _ h
  dsimp only
  refine Ends.bind (Q := fun r => Sound q (view r.2)) ?_ fun ⟨_, _⟩ h1 => ?_
  · exact srcRun_ends h
  · dsimp only
    exact .ok (by simpa using h1)

theorem sendRank_ends {q0 : Nat} {i : Item} {p : ReduceP} {c : Nat × Nat} (h : Sound q (view s)) :
    Ends (fun t => Sound q (view t)) (sendRank q0 i p s c) := by
  unfold sendRank
  dsimp only
  exact .foldlM (fun s a h => sendSource_ends h) _ (by simpa using h)

theorem reduceEffect_ends {q1 : Nat} {i : Item} {p : ReduceP} (h : Sound q (view s)) :
    Ends (fun t => Sound q (view t)) (reduceEffect s q1 i p) := by
  unfold reduceEffect
  split
  · exact .error _
  · split
    · exact .ok (by simpa using h)
    · refine (Ends.any _).bind fun a1 _ => ?_
      refine Ends.bind (Q := fun t => Sound q (view t)) ?_ fun s3 h2 => ?_
      · exact .foldlM (fun s a h => sendRank_ends h) _ h
      · exact .ok (by simpa using h2)

theorem runReduce_ends {q1 idx : Nat} (h : Sound q (view s)) : Ends (fun t => Sound q (view t)) (runReduce s q1 idx) := by
  unfold runReduce
  split
  · split
    · exact reduceEffect_ends h
    · exact .ok h
  · exact .ok h

/-! #### Functions of Rings that can write memory -/

theorem readAtCore_sound {p : Packet} {c off : Nat} {ups : List (Nat × Upset)} (h : Sound q (view s)) :
    Sound q (view (readAtCore s p c off ups)) := by
  unfold readAtCore
  rw [view_answerPacket]
  exact readSram_sound (by simpa using h)

theorem rdReqAt_ends {ups : List (Nat × Upset)} {p : Packet} (h : Sound q (view s)) :
    Ends (fun t => Sound q (view t)) (rdReqAt ups p s) := by
  unfold rdReqAt
  split
  · exact .ok (by simpa using h)
  · exact .ok (readAtCore_sound h)
  · exact .ok (by simpa using h)
  · exact .error _
  · exact .ok h
  · exact .error _

theorem landReply_sound {txn : Nat} {data : List Byte} {poison : Bool} (h : Sound q (view s)) :
    Sound q (view (landReply s txn data poison)) := by
  unfold landReply
  split
  · simpa using landData_sound h
  · exact h

theorem storeAtCore_ends {p : Packet} {c off : Nat} (h : Sound q (view s)) :
    Ends (fun t => Sound q (view t)) (storeAtCore s p c off) := by
  unfold storeAtCore
  refine Ends.bind (Q := fun t => Sound q (view t)) ?_ fun s2 h1 => ?_
  · exact remoteStore_ends h
  · refine .ok ?_
    split
    · exact undefMem_sound h1
    · exact h1

theorem wrAt_ends {p : Packet} (h : Sound q (view s)) : Ends (fun t => Sound q (view t)) (wrAt p s) := by
  unfold wrAt
  dsimp only
  split
  · exact .ok (by simpa using h)
  · refine Ends.bind (Q := fun t => Sound q (view t)) ?_ fun s2 h1 => ?_
    · exact storeAtCore_ends h
    · exact .ok (by simpa using h1)
  · refine Ends.bind (Q := fun t => Sound q (view t)) ?_ fun s4 h3 => ?_
    · exact writeHost_ends h
    · exact .ok (by simpa using h3)
  · exact .error _
  · exact .ok h
  · exact .error _

theorem landCopies_sound {c : Nat} {p : Packet} (h : Sound q (view s)) : Sound q (view (landCopies s c p)) := by
  unfold landCopies
  exact sound_foldl (fun _ _ h => landReply_sound h) _ h

theorem mcDeliver_sound {id c : Nat} {p : Packet} (h : Sound q (view s)) : Sound q (view (mcDeliver s id c p)) := by
  unfold mcDeliver
  split
  · simpa using landCopies_sound h
  · simpa using h

/-! #### Functions of HostCmds that can write memory -/

theorem bar2Read_ends {off n : Nat} (h : Sound q (view s)) : Ends (fun t => Sound q (view t)) (bar2Read s off n) := by
  unfold bar2Read
  refine Ends.bind (Q := fun r => Sound q (view r.2.2)) ?_ fun ⟨_, _, _⟩ h1 => ?_
  · exact stopRead_ends h
  · dsimp only
    exact .ok (by simpa using h1)

theorem hostData_sound {txn : Nat} {bytes : List Byte} (h : Sound q (view s)) : Sound q (view (hostData s txn bytes)) := by
  unfold hostData
  split
  · rw [view_completeHost]
    refine sound_update h ?_ ..
    split
    · exact h.2
    · exact wf_storeBytes _ _ _ h.2
  · exact h

/-! #### Functions of Kernels that can write memory -/

theorem loadCode_ends {c image : Nat} {h3 : ImageHdr} (h : Sound q (view s)) :
    Ends (fun t => Sound q (view t)) (loadCode s c image h3) := by
  unfold loadCode
  dsimp only
  split
  · exact .ok h
  · split
    · exact .error _
    · refine Ends.bind (Q := fun r => Sound q (view r.2.2)) ?_ fun ⟨_, _, _⟩ h1 => ?_
      · exact kernRead_ends h
      · dsimp only
        exact .ok (by simpa using h1)

theorem loadData_ends {c image : Nat} {h3 : ImageHdr} (h : Sound q (view s)) :
    Ends (fun t => Sound q (view t)) (loadData s c image h3) := by
  unfold loadData
  split
  · exact .ok h
  · split
    · exact .error _
    · refine Ends.bind (Q := fun r => Sound q (view r.2.2)) ?_ fun ⟨_, _, _⟩ h1 => ?_
      · exact kernRead_ends h
      · dsimp only
        exact .ok (writeMem_sound h1)

theorem launch_ends {c q2 : Nat} {i : Item} (h : Sound q (view s)) : Ends (fun t => Sound q (view t)) (launch s c q2 i) := by
  unfold launch
  dsimp only
  split
  · split
    · exact .error _
    · refine Ends.bind (Q := fun r => Sound q (view r.2.2)) ?_ fun ⟨_, _, _⟩ h1 => ?_
      · exact kernRead_ends h
      · dsimp only
        split
        · exact .error _
        · refine Ends.bind (Q := fun t => Sound q (view t)) ?_ fun s5 h4 => ?_
          · exact loadCode_ends h1
          · refine Ends.bind (Q := fun t => Sound q (view t)) ?_ fun s7 h6 => ?_
            · exact loadData_ends h4
            · exact .ok (by simpa using h6)
  · exact .ok h

/-! #### Functions of Observe that can write memory -/

theorem snapTick_ends {r : SnapRun} (h : Sound q (view s)) : Ends (fun t => Sound q (view t)) (snapTick s r) := by
  unfold snapTick
  dsimp only
  split
  · exact .ok (by simpa using h)
  · refine Ends.bind (Q := fun t => Sound q (view t)) ?_ fun s2 h1 => ?_
    · exact devWrite_ends h
    · exact .pure (by simpa using h1)

theorem quiesce_ends {hw : Option UnitFault} (h : Sound q (view s)) : Ends (fun t => Sound q (view t)) (quiesce s hw) := by
  cases hw with
  | none => exact (takeCauses_ends h).bind fun _ => settlePails_ends
  | some f => exact (takeCauses_ends (by simpa using h)).bind fun _ => settlePails_ends

/-! #### Functions of RedStops that can write memory -/

theorem addAtDest_ends {p : Packet} (h : Sound q (view s)) : Ends (fun t => Sound q (view t)) (addAtDest s p) := by
  unfold addAtDest
  dsimp only
  split
  · refine (vaultFree_ends h).bind fun s1 h1 => ?_
    exact (readVault_ends (by simpa using h1)).bind fun _ h2 => writeVault_ends h2
  · exact remoteStore_ends (readSram_sound (by simpa using h))
  · exact .error _
  · exact .error _

theorem countTag_ends {p : Packet} (h : Sound q (view s)) : Ends (fun t => Sound q (view t)) (countTag s p) := by
  unfold countTag
  dsimp only
  split
  · exact .error _
  · split
    · exact .error _
    · split
      · exact .ok (by simpa using h)
      · exact .ok (by simpa using h)

theorem reduceAt_ends {p : Packet} (h : Sound q (view s)) : Ends (fun t => Sound q (view t)) (reduceAt p s) := by
  unfold reduceAt
  refine Ends.bind (Q := fun t => Sound q (view t)) ?_ fun s2 h1 => ?_
  · exact addAtDest_ends h
  · exact countTag_ends h1

/-! #### Functions of RegCmds that can write memory -/

theorem writeReg_ends {a width v hwSet : Nat} (h : Sound q (view s)) :
    Ends (fun t => Sound q (view t)) (writeReg s a width v hwSet) := by
  unfold writeReg
  dsimp only
  split
  · exact .error _
  · split
    · exact .error _
    · split
      · split
        · exact initUnit_ends h
        · exact .ok h
      · exact .ok (by simpa using h)

theorem outerWrite_ends {a width v hwSet : Nat} (h : Sound q (view s)) :
    Ends (fun t => Sound q (view t)) (outerWrite s a width v hwSet) := by
  unfold outerWrite
  split
  · exact .error _
  · split
    · exact .ok (by simpa using h)
    · exact writeReg_ends (by simpa using h)

theorem ringPail_ends {p : Nat} (h : Sound q (view s)) : Ends (fun t => Sound q (view t)) (ringPail s p) := by
  unfold ringPail
  split
  · exact .ok h
  · exact takeRing_ends (fun s1 h0 => unknownPail_ends h0) h

theorem writePail_ends {p x width v : Nat} (h : Sound q (view s)) :
    Ends (fun t => Sound q (view t)) (writePail s p x width v) := by
  unfold writePail
  split
  · exact .error _
  · dsimp only
    split
    · exact ringPail_ends (by simpa using h)
    · exact .ok (by simpa using h)

theorem writeBell_ends {x width : Nat} (h : Sound q (view s)) : Ends (fun t => Sound q (view t)) (writeBell s x width) := by
  unfold writeBell
  split
  · exact .ok h
  · exact .error _

theorem pathWrite_ends {p : RegPath} {width v hwSet : Nat} (h : Sound q (view s)) :
    Ends (fun t => Sound q (view t)) (pathWrite s p width v hwSet) := by
  unfold pathWrite
  split
  · split
    · exact outerWrite_ends h
    · exact .ok h
  · split
    · exact writePail_ends h
    · exact writeBell_ends h
    · exact .ok (by simpa using h)
    · exact outerWrite_ends h
    · exact .ok h

/-! #### Functions of RowOps that can write memory -/

theorem wf_putByte (m : List Host.Cell) (k : Nat) (b : Option Byte) (h : FMap.wf m = true) :
    FMap.wf (putByte m k b) = true := by
  cases b with
  | none => exact FMap.wf_drop m k h
  | some x => exact FMap.wf_set m k x h

theorem wf_foldl {α : Type} {f : List Host.Cell → α → List Host.Cell} (hf : ∀ m a, FMap.wf m = true → FMap.wf (f m a) = true)
    (l : List α) {m : List Host.Cell} (h : FMap.wf m = true) :
    FMap.wf (l.foldl f m) = true := by
  induction l generalizing m with
  | nil => exact h
  | cons a l ih => exact ih (hf m a h)

theorem putRowData_sound {base : Nat} {data : Nat → Option Byte} {mark : Nat → Option Mark} (h : Sound q (view s)) :
    Sound q (view (putRowData s base data mark)) :=
  sound_update h (wf_foldl (fun m _ => wf_putByte m _ _) _ h.2) ..

theorem recodeWord_sound {v base w : Nat} (h : Sound q (view s)) : Sound q (view (recodeWord v base s w)) := by
  unfold recodeWord
  dsimp only
  split
  · simpa using h
  · exact vaultUe_sound h
  · exact h

theorem recodeRow_ends {v bl : Nat} {chk : Bool} {row : Nat} (h : Sound q (view s)) :
    Ends (fun t => Sound q (view t)) (recodeRow s v bl chk row) := by
  unfold recodeRow
  dsimp only
  split
  · split
    · exact .error _
    · exact .ok (sound_foldl (fun _ _ h => recodeWord_sound h) _ (by simpa using h))
  · exact .ok (putRowData_sound (by simpa using h))

theorem applyRow_ends {v bl : Nat} {p : RowPend} (h : Sound q (view s)) :
    Ends (fun t => Sound q (view t)) (applyRow s v bl p) := by
  unfold applyRow
  dsimp only
  split
  · exact .error _
  · split
    · exact .ok (cloneRow_sound h)
    · exact .ok (putRowData_sound h)
    · exact .ok (putRowData_sound h)
    · exact .ok (putRowData_sound h)
    · exact .ok (putRowData_sound h)
    · exact .ok (putRowData_sound h)
    · exact .ok (putRowData_sound h)
    · exact .ok (putRowData_sound h)
    · exact recodeRow_ends h

theorem issueRow_ends {v : Nat} {o : RowOp} {f : RowF} (h : Sound q (view s)) :
    Ends (fun t => Sound q (view t)) (issueRow v o f s) := by
  unfold issueRow
  dsimp only
  split
  · exact .error _
  · split
    · exact .ok h
    · exact .ok (by simpa using h)

theorem bankOp_ends {v bl : Nat} (h : Sound q (view s)) : Ends (fun t => Sound q (view t)) (bankOp s v bl) := by
  unfold bankOp
  dsimp only
  split
  · exact .ok h
  · refine Ends.bind (Q := fun t => Sound q (view t)) ?_ fun s2 h1 => ?_
    · exact applyRow_ends h
    · exact .ok (by simpa using h1)

/-! #### Functions of TileScalar that can write memory -/

theorem loadWord_ends {c : Nat} {f : ScalarF} (h : Sound q (view s)) : Ends (fun t => Sound q (view t)) (loadWord s c f) := by
  unfold loadWord
  dsimp only
  split
  · exact .error _
  · split
    · exact .error _
    · exact (ownAccess_ends h).bind fun _ h1 => scalarTo_ends (readSram_sound h1)

theorem storePair_ends {c : Nat} {f : ScalarF} (h : Sound q (view s)) : Ends (fun t => Sound q (view t)) (storePair s c f) := by
  unfold storePair
  dsimp only
  split
  · exact .error _
  · split
    · exact .error _
    · refine Ends.bind (Q := fun t => Sound q (view t)) ?_ fun s2 h1 => ?_
      · exact ownAccess_ends h
      · exact .ok (by simpa using writeMem_sound h1)

theorem startSignal_ends {c : Nat} {f : SignalF} (h : Sound q (view s)) :
    Ends (fun t => Sound q (view t)) (startSignal s c f) := by
  unfold startSignal
  dsimp only [openTxn]
  split
  · exact .ok (by simpa using h)
  · exact .ok (by simpa using h)
  · exact .error _
  · exact .error _

theorem loadDesc_ends {c : Nat} {f : TdescF} (h : Sound q (view s)) : Ends (fun t => Sound q (view t)) (loadDesc s c f) := by
  unfold loadDesc
  dsimp only
  split
  · exact .error _
  · split
    · exact .error _
    · exact (ownAccess_ends h).bind fun _ h1 => .ok (by simpa using readSram_sound h1)

/-! #### Functions of VaultModes that can write memory -/

theorem readVaults_ends {a : Nat} (h : Sound q (view s)) : Ends (fun r => Sound q (view r.2)) (readVaults s a) := by
  unfold readVaults
  split
  · exact .error _
  · refine Ends.bind (Q := fun r => Sound q (view r.2.2)) ?_ fun ⟨_, _, _⟩ h1 => ?_
    · exact devRead_ends h
    · dsimp only
      split
      · split
        · exact .error _
        · exact .ok h1
      · exact .ok h1

theorem enterProc_sound {v : Nat} (h : Sound q (view s)) : Sound q (view (enterProc s v)) := by
  unfold enterProc
  simpa using sound_foldl (fun _ _ h => deliverMerge_sound h) _ (by simpa using h)

theorem runProc_ends {q1 idx : Nat} (h : Sound q (view s)) : Ends (fun t => Sound q (view t)) (runProc s q1 idx) := by
  unfold runProc
  dsimp only
  split
  · refine Ends.bind (Q := fun r => Sound q (view r.2)) ?_ fun ⟨_, _⟩ h1 => ?_
    · exact readVaults_ends h
    · dsimp only
      split
      · exact .ok (by simpa using h1)
      · split
        · exact .ok (by simpa using sound_foldl (fun _ _ h => enterProc_sound h) _ h1)
        · exact .error _
  · exact .ok h

theorem runMem_ends {q1 idx : Nat} (h : Sound q (view s)) : Ends (fun t => Sound q (view t)) (runMem s q1 idx) := by
  unfold runMem
  dsimp only
  split
  · exact .ok h
  · split
    · split
      · exact .error _
      · split
        · exact .ok (by simpa using h)
        · refine Ends.bind (Q := fun r => Sound q (view r.2)) ?_ fun ⟨_, _⟩ h1 => ?_
          · exact readVaults_ends h
          · dsimp only
            exact .ok (by simpa using h1)
    · exact .ok h

theorem leavingVaults_ends (h : Sound q (view s)) : Ends (fun r => Sound q (view r.2)) (leavingVaults s) := by
  unfold leavingVaults
  refine .foldlM (fun s a h => ?_) _ h
  refine Ends.bind (Q := fun r => Sound q (view r.2)) ?_ fun ⟨_, _⟩ h1 => ?_
  · exact readVaults_ends h
  · dsimp only
    exact .pure h1

theorem readProgram_ends {q1 idx prog len param : Nat} (h : Sound q (view s)) :
    Ends (fun r => Sound q (view r.2)) (readProgram s q1 idx prog len param) := by
  unfold readProgram
  refine Ends.bind (Q := fun r => Sound q (view r.2.2)) ?_ fun ⟨_, _, _⟩ h1 => ?_
  · exact devRead_ends h
  · dsimp only
    refine Ends.bind (Q := fun r => Sound q (view r.2.2)) ?_ fun ⟨_, _, _⟩ h4 => ?_
    · exact devRead_ends h1
    · dsimp only
      exact .ok h4

theorem runRows_ends {q1 idx : Nat} (h : Sound q (view s)) : Ends (fun t => Sound q (view t)) (runRows s q1 idx) := by
  unfold runRows
  dsimp only
  split
  · split
    · exact .error _
    · refine Ends.bind (Q := fun r => Sound q (view r.2)) ?_ fun ⟨_, _⟩ h1 => ?_
      · exact readVaults_ends h
      · dsimp only
        refine Ends.bind (Q := fun r => Sound q (view r.2)) ?_ fun ⟨_, _⟩ h4 => ?_
        · exact leavingVaults_ends h1
        · dsimp only
          split
          · exact .ok (by simpa using h4)
          · refine Ends.bind (Q := fun r => Sound q (view r.2)) ?_ fun ⟨_, _⟩ h7 => ?_
            · exact readProgram_ends h4
            · dsimp only
              exact .ok (by simpa using h7)
  · exact .ok h

theorem fenceVault_sound {v : Nat} (h : Sound q (view s)) : Sound q (view (fenceVault s v)) := by
  unfold fenceVault
  simpa using sound_foldl (fun _ _ h => deliverMerge_sound h) _ h

theorem runFence_ends {q1 idx : Nat} (h : Sound q (view s)) : Ends (fun t => Sound q (view t)) (runFence s q1 idx) := by
  unfold runFence
  dsimp only
  split
  · refine Ends.bind (Q := fun r => Sound q (view r.2)) ?_ fun ⟨_, _⟩ h1 => ?_
    · exact readVaults_ends h
    · dsimp only
      split
      · exact .ok (by simpa using h1)
      · exact .ok (by simpa using sound_foldl (fun _ _ h => fenceVault_sound h) _ h1)
  · exact .ok h

end

/-! ### Outcomes of commands -/

/-- What holds of the next state of a command, where it has one. -/
def Nexts (Q : State → Prop) (o : Out State) : Prop := ∀ t, o = .next t → Q t

section
variable {Q : State → Prop} {q : List Instr} {s t : State} {c : Bool} {e : Except Halt State}

theorem Nexts.next (h : Q t) : Nexts Q (.next t) := by
  intro u hu; cases hu; exact h

theorem Nexts.refused (r : Refusal) : Nexts Q (.refused r) := by
  intro u hu; cases hu

theorem Nexts.act (h : Q s) (ht : Q t) : Nexts Q (act s c t) := by
  intro u hu
  obtain ⟨-, -, rfl⟩ | ⟨-, rfl⟩ := act_cases hu
  · exact ht
  · exact h

theorem Nexts.toOut (h : Q s) (he : Ends Q e) : Nexts Q (toOut s e) := by
  intro u hu
  obtain he' | ⟨-, rfl⟩ := toOut_next hu
  · exact he u he'
  · exact h

theorem Nexts.actE (h : Q s) (he : Ends Q e) : Nexts Q (actE s c e) := by
  intro u hu
  obtain ⟨-, -, he'⟩ | ⟨-, rfl⟩ := actE_cases hu
  · exact he u he'
  · exact h

theorem Nexts.tileOut {i : TileInstr} {n : Nat} (h : Q s) (he : Ends Q e) : Nexts Q (tileOut s n i e) := by
  intro u hu
  obtain ⟨-, -, he'⟩ | ⟨-, rfl⟩ := tileOut_cases hu
  · exact he u he'
  · exact h

theorem Nexts.rowOut {i : RowInstr} {v : Nat} {f : State → Except Halt State} (h : Sound q (view s))
    (hf : ∀ s, Sound q (view s) → Ends (fun t => Sound q (view t)) (f s)) :
    Nexts (fun t => Sound q (view t)) (rowOut s v i f) := by
  intro u hu
  obtain ⟨-, -, he⟩ | rfl := rowOut_cases hu
  · exact hf _ (by simpa using h) u he
  · exact h

theorem Nexts.pailOut {r : PailReq} {i : Instr} {f : State → Except Halt State} (h : Sound q (view s))
    (hf : ∀ s, Sound q (view s) → Ends (fun t => Sound q (view t)) (f s)) :
    Nexts (fun t => Sound q (view t)) (pailOut s r i f) := by
  intro u hu
  obtain ⟨-, rfl⟩ | ⟨-, -, -, rfl⟩ | ⟨-, -, ⟨-, rfl⟩ | ⟨-, he | ⟨-, rfl⟩⟩⟩ := pailOut_cases hu
  · exact h
  · simpa using h
  · simpa using h
  · exact hf _ (by simpa using h) u he
  · exact h

theorem Nexts.arrival {id : Nat} {ty : PType} {p : Packet → Bool} {f : Packet → State → Except Halt State}
    (h : Sound q (view s)) (hf : ∀ p s, Sound q (view s) → Ends (fun t => Sound q (view t)) (f p s)) :
    Nexts (fun t => Sound q (view t)) (arrival s id ty p f) := by
  unfold Machine.arrival
  split
  · exact .next h
  · split
    · exact .actE h (hf _ _ (by simpa using h))
    · split
      · split
        · exact .actE h (hf _ _ (by simpa using h))
        · exact .act h (by simpa using h)
      · exact .actE h (hf _ _ (by simpa using h))

theorem Nexts.frameOut {op l : Nat} {f : Frame} (h : Sound q (view s)) :
    Nexts (fun t => Sound q (view t)) (frameOut s op l f) := .actE h (receive_ends h)

theorem Nexts.rxOut {l : Nat} {x : RxFrame} (h : Sound q (view s)) : Nexts (fun t => Sound q (view t)) (rxOut s l x) :=
  .actE h (receive_ends h)

end

/-! ### Commands -/

section
variable {q : List Instr} {s : State}

theorem execPwrokRise_nexts {p : PowerOn} (h : Sound q (view s)) : Nexts (fun t => Sound q (view t)) (execPwrokRise p s) := by
  unfold execPwrokRise
  refine .next ?_
  split
  · exact h
  · exact powerOn_sound h

theorem execPwrokFall_nexts (h : Sound q (view s)) : Nexts (fun t => Sound q (view t)) (execPwrokFall s) := by
  unfold execPwrokFall
  refine .next ?_
  split
  · exact powerOff_sound h
  · exact h

theorem execHostSideReset_nexts {kind : HostReset} (h : Sound q (view s)) :
    Nexts (fun t => Sound q (view t)) (execHostSideReset kind s) := by
  unfold execHostSideReset
  refine .actE h ?_
  split
  · exact hostReset_ends h
  · exact hostReset_ends h
  · exact hostReset_ends h

theorem execKernelCoreStart_nexts {core : Nat} (h : Sound q (view s)) :
    Nexts (fun t => Sound q (view t)) (execKernelCoreStart core s) := by
  unfold execKernelCoreStart
  split
  · exact .next h
  · exact .actE h (launch_ends h)

theorem execPageOpAlloc_nexts {q0 idx : Nat} (h : Sound q (view s)) :
    Nexts (fun t => Sound q (view t)) (execPageOpAlloc q0 idx s) := by
  unfold execPageOpAlloc
  refine .actE h ?_
  refine runPageOp_ends (fun s1 p h0 => ?_) h
  split
  · exact pageAlloc_ends h0
  · exact .error _

theorem execTillerLookup_nexts {q0 idx : Nat} (h : Sound q (view s)) :
    Nexts (fun t => Sound q (view t)) (execTillerLookup q0 idx s) := by
  unfold execTillerLookup
  refine .actE h ?_
  refine .orUndef ?_
  exact runTiller_ends (fun p r b x h0 => lookupBlock_ends h0) h

theorem execPhaseHint_nexts {q0 idx : Nat} (h : Sound q (view s)) :
    Nexts (fun t => Sound q (view t)) (execPhaseHint q0 idx s) := by
  unfold execPhaseHint
  refine .actE h ?_
  refine .orUndef ?_
  exact .ok (by simpa using h)

theorem execDmaDescriptorStart_nexts {core ch : Nat} {upsets : List (Nat × Upset)} (h : Sound q (view s)) :
    Nexts (fun t => Sound q (view t)) (execDmaDescriptorStart core ch upsets s) := by
  unfold execDmaDescriptorStart
  refine .actE h ?_
  split
  · exact startDma_ends h
  · exact .ok h

theorem execFeedStart_nexts {core : Nat} {upsets : List (Nat × Upset)} (h : Sound q (view s)) :
    Nexts (fun t => Sound q (view t)) (execFeedStart core upsets s) := by
  unfold execFeedStart
  refine .actE h ?_
  split
  · exact startFeed_ends h
  · exact .ok h

theorem execPassBlockClose_nexts {core i j : Nat} (h : Sound q (view s)) :
    Nexts (fun t => Sound q (view t)) (execPassBlockClose core i j s) := by
  unfold execPassBlockClose
  refine .act h ?_
  split
  · simpa using h
  · exact h

theorem execChurnLaneRead_nexts {core i j : Nat} (h : Sound q (view s)) :
    Nexts (fun t => Sound q (view t)) (execChurnLaneRead core i j s) := by
  unfold execChurnLaneRead
  split
  · exact .act h (by simpa using h)
  · exact .next h

theorem execDrainStart_nexts {core : Nat} (h : Sound q (view s)) :
    Nexts (fun t => Sound q (view t)) (execDrainStart core s) := by
  unfold execDrainStart
  refine .actE h ?_
  split
  · exact startDrain_ends h
  · exact startReds_ends h
  · exact .ok h

theorem execRedsComplete_nexts {core : Nat} (h : Sound q (view s)) :
    Nexts (fun t => Sound q (view t)) (execRedsComplete core s) := by
  unfold execRedsComplete
  refine .act h ?_
  split
  · simpa using h
  · exact h

theorem execVopExecute_nexts {core : Nat} (h : Sound q (view s)) :
    Nexts (fun t => Sound q (view t)) (execVopExecute core s) := by
  unfold execVopExecute
  split
  · exact .next h
  · exact .actE h (runVop_ends h)

theorem execAtbExecute_nexts {core : Nat} (h : Sound q (view s)) :
    Nexts (fun t => Sound q (view t)) (execAtbExecute core s) := by
  unfold execAtbExecute
  refine .actE h ?_
  split
  · exact runAtb_ends h
  · exact .ok h

theorem execRowEnd_nexts {v : Nat} (h : Sound q (view s)) : Nexts (fun t => Sound q (view t)) (execRowEnd v s) := by
  unfold execRowEnd
  exact .rowOut h fun s h => .ok (by simpa using h)

theorem execRowSet_nexts {v : Nat} {counter : Bool} {i : Nat} {param : Bool} {val : Nat} (h : Sound q (view s)) :
    Nexts (fun t => Sound q (view t)) (execRowSet v counter i param val s) := by
  unfold execRowSet
  exact .rowOut h fun s h => .ok (by simpa using h)

theorem execRowAdd_nexts {v i imm : Nat} (h : Sound q (view s)) : Nexts (fun t => Sound q (view t)) (execRowAdd v i imm s) := by
  unfold execRowAdd
  exact .rowOut h fun s h => .ok (by simpa using h)

theorem execRowLoop_nexts {v i target : Nat} (h : Sound q (view s)) :
    Nexts (fun t => Sound q (view t)) (execRowLoop v i target s) := by
  unfold execRowLoop
  exact .rowOut h fun s h => .ok (by simpa using h)

theorem execBar2Access_nexts {r : Bar2Req} (h : Sound q (view s)) : Nexts (fun t => Sound q (view t)) (execBar2Access r s) := by
  unfold execBar2Access
  refine .actE h ?_
  refine .orUndef ?_
  split
  · exact bar2Read_ends h
  · exact stopWrite_ends h

theorem execHostCompletion_nexts {txn : Nat} {a : HostAnswer} (h : Sound q (view s)) :
    Nexts (fun t => Sound q (view t)) (execHostCompletion txn a s) := by
  unfold execHostCompletion
  split
  · exact .act h (hostData_sound h)
  · exact .act h (by simpa using h)

theorem execPacketTurnedAway_nexts {id : Nat} (h : Sound q (view s)) :
    Nexts (fun t => Sound q (view t)) (execPacketTurnedAway id s) := by
  unfold execPacketTurnedAway
  split
  · exact .next h
  · exact .act h (by simpa using h)

theorem execRingFlitUe_nexts {id : Nat} {e : FlitError} (h : Sound q (view s)) :
    Nexts (fun t => Sound q (view t)) (execRingFlitUe id e s) := by
  unfold execRingFlitUe
  split
  · exact .next h
  · exact .act h (by simpa using h)

theorem execMcRespDelivery_nexts {id core : Nat} (h : Sound q (view s)) :
    Nexts (fun t => Sound q (view t)) (execMcRespDelivery id core s) := by
  unfold execMcRespDelivery
  split
  · exact .next h
  · exact .act h (mcDeliver_sound h)

theorem execMcRespGateway_nexts {id sheaf : Nat} (h : Sound q (view s)) :
    Nexts (fun t => Sound q (view t)) (execMcRespGateway id sheaf s) := by
  unfold execMcRespGateway
  split
  · exact .next h
  · exact .act h (by simpa using h)

theorem execWrAckArrival_nexts {id : Nat} (h : Sound q (view s)) :
    Nexts (fun t => Sound q (view t)) (execWrAckArrival id s) := by
  unfold execWrAckArrival
  exact .arrival h fun p s h => .ok (by simpa using h)

theorem execReducePassStop_nexts {id stop : Nat} (h : Sound q (view s)) :
    Nexts (fun t => Sound q (view t)) (execReducePassStop id stop s) := by
  unfold execReducePassStop
  split
  · exact .next h
  · exact .act h (by simpa using h)

theorem execReduceHoldRelease_nexts {stop entry : Nat} (h : Sound q (view s)) :
    Nexts (fun t => Sound q (view t)) (execReduceHoldRelease stop entry s) := by
  unfold execReduceHoldRelease
  split
  · exact .next h
  · exact .act h (by simpa using h)

theorem execTagNoticeArrival_nexts {id : Nat} (h : Sound q (view s)) :
    Nexts (fun t => Sound q (view t)) (execTagNoticeArrival id s) := by
  unfold execTagNoticeArrival
  exact .arrival h fun p s h => .ok (by simpa using h)

theorem execReduceTimeout_nexts {stop tag : Nat} (h : Sound q (view s)) :
    Nexts (fun t => Sound q (view t)) (execReduceTimeout stop tag s) := by
  unfold execReduceTimeout
  split
  · exact .act h (by simpa using h)
  · exact .act h (by simpa using h)

theorem execSignalArrival_nexts {id : Nat} (h : Sound q (view s)) :
    Nexts (fun t => Sound q (view t)) (execSignalArrival id s) := by
  unfold execSignalArrival
  exact .arrival h fun p s h => .ok (by simpa using h)

theorem execSigAckArrival_nexts {id : Nat} (h : Sound q (view s)) :
    Nexts (fun t => Sound q (view t)) (execSigAckArrival id s) := by
  unfold execSigAckArrival
  exact .arrival h fun p s h => .ok (by simpa using h)

theorem execMsgArrival_nexts {id : Nat} (h : Sound q (view s)) : Nexts (fun t => Sound q (view t)) (execMsgArrival id s) := by
  unfold execMsgArrival
  exact .arrival h fun p s h => .ok (by simpa using h)

theorem execMergeReadData_nexts {v entry : Nat} (h : Sound q (view s)) :
    Nexts (fun t => Sound q (view t)) (execMergeReadData v entry s) := by
  unfold execMergeReadData
  split
  · exact .next h
  · exact .act h (deliverMerge_sound h)

theorem execScrubWord_nexts {v : Nat} {upset : Option Upset} (h : Sound q (view s)) :
    Nexts (fun t => Sound q (view t)) (execScrubWord v upset s) := by
  unfold execScrubWord
  refine .actE h ?_
  refine .orUndef ?_
  exact .ok (scrub_sound h)

theorem execStobyAckSend_nexts {ctx : Nat} (h : Sound q (view s)) :
    Nexts (fun t => Sound q (view t)) (execStobyAckSend ctx s) := by
  unfold execStobyAckSend
  split
  · exact .next h
  · exact .act h (by simpa using h)

theorem execStobyRetxTimer_nexts {ctx psn : Nat} (h : Sound q (view s)) :
    Nexts (fun t => Sound q (view t)) (execStobyRetxTimer ctx psn s) := by
  unfold execStobyRetxTimer
  split
  · exact .next h
  · exact .act h (by simpa using h)

theorem execStobyPeerTimeout_nexts {ctx : Nat} (h : Sound q (view s)) :
    Nexts (fun t => Sound q (view t)) (execStobyPeerTimeout ctx s) := by
  unfold execStobyPeerTimeout
  split
  · exact .next h
  · exact .act h (by simpa using h)

theorem execStobyContextClose_nexts {ctx : Nat} (h : Sound q (view s)) :
    Nexts (fun t => Sound q (view t)) (execStobyContextClose ctx s) := by
  unfold execStobyContextClose
  split
  · exact .next h
  · exact .act h (by simpa using h)

theorem execStobyRateUpdate_nexts {ctx : Nat} (h : Sound q (view s)) :
    Nexts (fun t => Sound q (view t)) (execStobyRateUpdate ctx s) := by
  unfold execStobyRateUpdate
  split
  · exact .next h
  · exact .act h (by simpa using h)

theorem execPtpDelayReq_nexts (h : Sound q (view s)) : Nexts (fun t => Sound q (view t)) (execPtpDelayReq s) := by
  unfold execPtpDelayReq
  split
  · exact .next h
  · exact .act h (by simpa using h)

theorem execAnnounceTimeout_nexts (h : Sound q (view s)) : Nexts (fun t => Sound q (view t)) (execAnnounceTimeout s) := by
  unfold execAnnounceTimeout
  split
  · exact .next h
  · exact .act h (by simpa using h)

theorem execOppChangeEnd_nexts {sheaf : Nat} (h : Sound q (view s)) :
    Nexts (fun t => Sound q (view t)) (execOppChangeEnd sheaf s) := by
  unfold execOppChangeEnd
  split
  · exact .next h
  · exact .actE h (settlePails_ends (by simpa using h))

theorem execEntryWindowEnd_nexts {d : Dom} (h : Sound q (view s)) :
    Nexts (fun t => Sound q (view t)) (execEntryWindowEnd d s) := by
  unfold execEntryWindowEnd
  refine .act h ?_
  split
  · simpa using h
  · exact commitSleep_sound h

theorem execDomainTransitionEnd_nexts {d : Dom} (h : Sound q (view s)) :
    Nexts (fun t => Sound q (view t)) (execDomainTransitionEnd d s) := by
  unfold execDomainTransitionEnd
  split
  · exact .next h
  · exact .actE h ((endTransLink_ends h).map fun _ h => by simpa using h)

theorem execRegisterAccessNotOn_nexts {a : OffAccess} (h : Sound q (view s)) :
    Nexts (fun t => Sound q (view t)) (execRegisterAccessNotOn a s) := by
  unfold execRegisterAccessNotOn
  refine .act h ?_
  split
  · simpa using h
  · exact h

theorem execHardwareTrip_nexts {sheaf : Nat} {r : SensorReading} (h : Sound q (view s)) :
    Nexts (fun t => Sound q (view t)) (execHardwareTrip sheaf r s) := by
  unfold execHardwareTrip
  split
  · exact .next h
  · exact .act h (by simpa using h)

theorem execFlowWarningClear_nexts {level : Nat} (h : Sound q (view s)) :
    Nexts (fun t => Sound q (view t)) (execFlowWarningClear level s) := by
  unfold execFlowWarningClear
  dsimp only
  split
  · exact .act h (by simpa using h)
  · exact .act h (by simpa using h)

theorem execCoreCeilingUpdate_nexts {core : Nat} (h : Sound q (view s)) :
    Nexts (fun t => Sound q (view t)) (execCoreCeilingUpdate core s) := by
  unfold execCoreCeilingUpdate
  dsimp only
  split
  · exact .next h
  · exact .act h (by simpa using h)

theorem execThermalCycleSample_nexts {sheaf : Nat} (h : Sound q (view s)) :
    Nexts (fun t => Sound q (view t)) (execThermalCycleSample sheaf s) := by
  unfold execThermalCycleSample
  dsimp only
  split
  · exact .next h
  · exact .act h (by simpa using h)

theorem execSnapshotTick_nexts (h : Sound q (view s)) : Nexts (fun t => Sound q (view t)) (execSnapshotTick s) := by
  unfold execSnapshotTick
  split
  · exact .next h
  · exact .actE h (snapTick_ends h)

theorem execTestAccessPortInstruction_nexts {t : TapInstr} (h : Sound q (view s)) :
    Nexts (fun t => Sound q (view t)) (execTestAccessPortInstruction t s) := by
  unfold execTestAccessPortInstruction
  split
  · exact .act h (by simpa using h)
  · exact .act h (by simpa using h)
  · split
    · exact .refused _
    · exact .next h
  · refine .actE h ?_
    refine .orUndef ?_
    exact .ok (by simpa using h)

/-- A command keeps memory canonical, and the queue of commands. -/
theorem exec_sound (i : Instr) (h : Sound q (view s)) :
    Nexts (fun t => Sound q (view t)) (exec i s) := by
  cases i with
  | pwrokRise _ => exact execPwrokRise_nexts h
  | pwrokFall => exact execPwrokFall_nexts h
  | perstAssert => exact .act h (conventional_sound h)
  | perstDeassert => exact .act h (by simpa using h)
  | bootImageAuthenticate => exact .act h (by simpa using h)
  | bootFallbackTimeout => exact .act h (by simpa using h)
  | vaultTraining _ => exact .act h (by simpa using h)
  | configReady => exact .act h (by simpa using h)
  | knownAnswerTest _ _ => exact .act h (bootKat_sound h)
  | readyEntry => exact .act h (by simpa using h)
  | hostSideReset _ => exact execHostSideReset_nexts h
  | pcieConfigRequest _ => exact .act h (by simpa using h)
  | watchdogExpiry _ => exact .actE h (watchdog_ends h)
  | firmwareRestartDone => exact .actE h (settlePails_ends (by simpa using h))
  | devInfo _ => exact .pailOut h fun s h => devInfo_ends h
  | floorplanGet _ _ _ => exact .pailOut h fun s h => floorplanGet_ends h
  | jobOpen _ _ => exact .pailOut h fun s h => jobOpen_ends h
  | jobClose _ => exact .pailOut h fun s h => jobClose_ends h
  | queueCreate _ _ => exact .pailOut h fun s h => queueCreate_ends h
  | queueDestroy _ _ => exact .pailOut h fun s h => queueDestroy_ends h
  | queueFlush _ _ => exact .pailOut h fun s h => queueFlush_ends h
  | queueFlushAbort _ _ => exact .pailOut h fun s h => queueFlushAbort_ends h
  | powerSetCap _ _ => exact .pailOut h fun s h => powerSetCap_ends h
  | powerSetOppAuto _ _ => exact .pailOut h fun s h => powerSetOppAuto_ends h
  | powerSetOppPin _ _ _ => exact .pailOut h fun s h => powerSetOppPin_ends h
  | domainPolicyTimers _ _ => exact .pailOut h fun s h => domainPolicyTimers_ends h
  | domainPolicyRetain _ _ _ _ => exact .pailOut h fun s h => domainPolicyRetain_ends h
  | domainPolicyWake _ _ _ _ => exact .pailOut h fun s h => domainPolicyWake_ends h
  | domainPolicyAdmit _ _ => exact .pailOut h fun s h => domainPolicyAdmit_ends h
  | licenceInstall _ _ => exact .pailOut h fun s h => licenceInstall_ends h
  | licenceList _ _ => exact .pailOut h fun s h => licenceList_ends h
  | timeConfig _ _ => exact .pailOut h fun s h => timeConfig_ends h
  | timeConfigSet _ _ _ => exact .pailOut h fun s h => timeConfigSet_ends h
  | linkConfig _ _ => exact .pailOut h fun s h => linkConfig_ends h
  | counterAccessUser _ _ => exact .pailOut h fun s h => counterAccessUser_ends h
  | counterAccessSelect _ _ => exact .pailOut h fun s h => counterAccessSelect_ends h
  | snapshotConfigStart _ _ => exact .pailOut h fun s h => snapshotConfigStart_ends h
  | snapshotConfigStop _ => exact .pailOut h fun s h => snapshotConfigStop_ends h
  | guardConfigPolicy _ _ => exact .pailOut h fun s h => guardConfigPolicy_ends h
  | guardConfigSlot _ _ => exact .pailOut h fun s h => guardConfigSlot_ends h
  | guardConfigLog _ _ _ _ => exact .pailOut h fun s h => guardConfigLog_ends h
  | guardConfigResolveCommit _ _ => exact .pailOut h fun s h => guardConfigResolveCommit_ends h
  | guardConfigResolveDiscard _ _ => exact .pailOut h fun s h => guardConfigResolveDiscard_ends h
  | wearReportSummary _ => exact .pailOut h fun s h => wearReportSummary_ends h
  | wearReportDetail _ _ _ => exact .pailOut h fun s h => wearReportDetail_ends h
  | faultRecordGet _ _ => exact .pailOut h fun s h => faultRecordGet_ends h
  | fwUpdate _ _ => exact .pailOut h fun s h => fwUpdate_ends h
  | katRun _ _ => exact .pailOut h fun s h => katRun_ends h
  | pldmRequest _ => exact .act h (by simpa using h)
  | wqDoorbell _ _ => exact .actE h (ringWork_ends h)
  | cqDoorbell _ _ => exact .actE h (returnSlots_ends h)
  | c0TokenRefill _ => exact .act h (by simpa using h)
  | wqFetch _ => exact .actE h (fetchOne_ends h)
  | wqDispatch _ => exact .actE h (dispatchNext_ends h)
  | commandCompletion _ _ => exact .actE h (completeItem_ends h)
  | kernel _ _ => exact .act h (by simpa using h)
  | kernelCoreStart _ => exact execKernelCoreStart_nexts h
  | gemm _ _ => exact .actE h (runGemm_ends h)
  | attend _ _ => exact .actE h (runAttend_ends h)
  | reduce _ _ => exact .actE h (runReduce_ends h)
  | copy _ _ => exact .actE h (runCopy_ends h)
  | fill _ _ => exact .actE h (runFill_ends h)
  | pageOpAlloc _ _ => exact execPageOpAlloc_nexts h
  | pageOpShare _ _ => exact .actE h (runPageOp_ends (fun s1 p h0 => pageShare_ends h0) h)
  | pageOpCow _ _ => exact .actE h (runPageOp_ends (fun s1 p h0 => pageCow_ends h0) h)
  | pageOpFree _ _ => exact .actE h (runPageOp_ends (fun s1 p h0 => pageFree_ends h0) h)
  | tillerLookup _ _ => exact execTillerLookup_nexts h
  | tillerInsert _ _ => exact .actE h (runTiller_ends (fun p r b x h0 => insertBlock_ends h0) h)
  | tillerRemove _ _ => exact .actE h (runTiller_ends (fun p r b x h0 => removeBlock_ends h0) h)
  | winnow _ _ => exact .actE h (runWinnow_ends h)
  | vaultModeProcessor _ _ => exact .actE h (runProc_ends h)
  | vaultModeMemory _ _ => exact .actE h (runMem_ends h)
  | rowRun _ _ => exact .actE h (runRows_ends h)
  | rowFence _ _ => exact .actE h (runFence_ends h)
  | stepBegin _ _ => exact .actE h (runStepBegin_ends h)
  | stepCommit _ _ => exact .act h (by simpa using h)
  | stepEvaluation _ => exact .actE h (runEvaluation_ends h)
  | guardReport => exact .act h (by simpa using h)
  | phaseHint _ _ => exact execPhaseHint_nexts h
  | wqFence _ _ => exact .act h (by simpa using h)
  | wqSignal _ _ => exact .actE h (runSignal_ends h)
  | wqSignalDoorbell _ _ => exact .actE h (runBell_ends h)
  | wait _ _ => exact .actE h (pollWait_ends h)
  | waitPoll _ _ => exact .actE h (pollWait_ends h)
  | timeWait _ _ => exact .act h (by simpa using h)
  | timeWaitReached _ _ => exact .act h (by simpa using h)
  | abort _ _ => exact .actE h (runAbort_ends h)
  | alu _ _ => exact .tileOut h (scalarTo_ends h)
  | alui _ _ => exact .tileOut h (scalarTo_ends h)
  | li _ _ => exact .tileOut h (scalarTo_ends h)
  | lih _ _ => exact .tileOut h (scalarTo_ends h)
  | ld _ _ => exact .tileOut h (loadWord_ends h)
  | sq _ _ => exact .tileOut h (storePair_ends h)
  | br _ _ => exact .tileOut h (.ok (by simpa using h))
  | call _ _ => exact .tileOut h (.ok (by simpa using h))
  | jr _ _ => exact .tileOut h (.ok (by simpa using h))
  | endk _ => exact .tileOut h (.ok (by simpa using h))
  | csrr _ _ => exact .tileOut h (scalarTo_ends (by simpa using h))
  | csrw _ _ => exact .tileOut h (.ok (by simpa using h))
  | dmv _ _ => exact .tileOut h (issueDma_ends h)
  | dms _ _ => exact .tileOut h (issueDma_ends h)
  | dmr _ _ => exact .tileOut h (issueDma_ends h)
  | dmh _ _ => exact .tileOut h (issueDma_ends h)
  | dmaDescriptorStart _ _ _ => exact execDmaDescriptorStart_nexts h
  | fence _ _ => exact .tileOut h (.ok (by simpa using h))
  | waitc _ _ => exact .tileOut h (.ok (by simpa using h))
  | signal _ _ => exact .tileOut h (startSignal_ends h)
  | phint _ _ _ => exact .tileOut h (.ok (by simpa using h))
  | tdesc _ _ => exact .tileOut h (loadDesc_ends h)
  | tadj _ _ => exact .tileOut h (.ok (by simpa using h))
  | feed _ _ => exact .tileOut h (issueFeed_ends h)
  | feedStart _ _ => exact execFeedStart_nexts h
  | passBlockClose _ _ _ => exact execPassBlockClose_nexts h
  | churnLaneRead _ _ _ => exact execChurnLaneRead_nexts h
  | drain _ _ => exact .tileOut h (issueDrain_ends h)
  | drainStart _ => exact execDrainStart_nexts h
  | drainComplete _ => exact .act h (by simpa using h)
  | reds _ _ => exact .tileOut h (issueReds_ends h)
  | redsComplete _ => exact execRedsComplete_nexts h
  | redw _ _ => exact .tileOut h (.ok (by simpa using h))
  | vop _ _ => exact .tileOut h (issueVop_ends h)
  | vopExecute _ => exact execVopExecute_nexts h
  | atb _ _ => exact .tileOut h (issueAtb_ends h)
  | atbExecute _ => exact execAtbExecute_nexts h
  | rowOpCopy _ _ => exact .rowOut h fun s h => issueRow_ends h
  | rowOpZero _ _ => exact .rowOut h fun s h => issueRow_ends h
  | rowOpOne _ _ => exact .rowOut h fun s h => issueRow_ends h
  | rowOpNot _ _ => exact .rowOut h fun s h => issueRow_ends h
  | rowOpXor _ _ => exact .rowOut h fun s h => issueRow_ends h
  | rowOpAnd _ _ => exact .rowOut h fun s h => issueRow_ends h
  | rowOpOr _ _ => exact .rowOut h fun s h => issueRow_ends h
  | rowOpMaj3 _ _ => exact .rowOut h fun s h => issueRow_ends h
  | rowOpRecode _ _ _ => exact .rowOut h fun s h => issueRow_ends h
  | rowBankOperation _ _ => exact .actE h (bankOp_ends h)
  | rowEnd _ => exact execRowEnd_nexts h
  | rowSet _ _ _ _ _ => exact execRowSet_nexts h
  | rowAdd _ _ _ => exact execRowAdd_nexts h
  | rowLoop _ _ _ => exact execRowLoop_nexts h
  | pguCtrlInit _ => exact .actE h (initUnit_ends h)
  | pguInitComplete _ => exact .act h (by simpa using h)
  | w1cClearWrite _ _ _ => exact .actE h (pathWrite_ends h)
  | registerWrite _ _ _ => exact .actE h (pathWrite_ends h)
  | timNowRead => exact .act h (by simpa using h)
  | hubDtimeRead => exact .act h (by simpa using h)
  | ptmDialogue _ => exact .act h (by simpa using h)
  | bar2Access _ => exact execBar2Access_nexts h
  | hostCompletion _ _ => exact execHostCompletion_nexts h
  | ringPacketInject _ _ => exact .act h (by simpa using h)
  | emptySlotRequest _ _ => exact .act h (by simpa using h)
  | packetTurnedAway _ => exact execPacketTurnedAway_nexts h
  | ringFlitUe _ _ => exact execRingFlitUe_nexts h
  | rdReqArrival _ _ => exact .arrival h fun p s h => rdReqAt_ends h
  | rdRespArrival _ => exact .arrival h fun p s h => .ok (landReply_sound h)
  | mcRespDelivery _ _ => exact execMcRespDelivery_nexts h
  | mcRespGateway _ _ => exact execMcRespGateway_nexts h
  | wrArrival _ => exact .arrival h fun p s h => wrAt_ends h
  | wrAckArrival _ => exact execWrAckArrival_nexts h
  | reducePassStop _ _ => exact execReducePassStop_nexts h
  | reduceHoldRelease _ _ => exact execReduceHoldRelease_nexts h
  | reduceDestinationAdd _ => exact .arrival h fun p s h => reduceAt_ends h
  | tagNoticeArrival _ => exact execTagNoticeArrival_nexts h
  | reduceTimeout _ _ => exact execReduceTimeout_nexts h
  | signalArrival _ => exact execSignalArrival_nexts h
  | sigAckArrival _ => exact execSigAckArrival_nexts h
  | msgArrival _ => exact execMsgArrival_nexts h
  | bridgeFlitCrcError _ _ _ => exact .act h (by simpa using h)
  | bridgeLaneRetrain _ _ _ _ => exact .act h (by simpa using h)
  | vaultRequestPerform _ _ => exact .actE h (performNext_ends h)
  | mergeReadData _ _ => exact execMergeReadData_nexts h
  | refreshCommand _ _ _ => exact .act h (by simpa using h)
  | scrubWord _ _ => exact execScrubWord_nexts h
  | stobyOperationSend _ => exact .act h (by simpa using h)
  | stobyWrite _ _ => exact .frameOut h
  | stobyRead _ _ => exact .frameOut h
  | stobyReadResp _ _ => exact .frameOut h
  | stobyReduceWrite _ _ => exact .frameOut h
  | stobyAtomic _ _ => exact .frameOut h
  | stobyDoorbell _ _ => exact .frameOut h
  | stobyAck _ _ => exact .frameOut h
  | stobyAckSend _ => exact execStobyAckSend_nexts h
  | stobyRetxTimer _ _ => exact execStobyRetxTimer_nexts h
  | stobyPeerTimeout _ => exact execStobyPeerTimeout_nexts h
  | stobyContextClose _ => exact execStobyContextClose_nexts h
  | stobyRateUpdate _ => exact execStobyRateUpdate_nexts h
  | linkBringup _ _ => exact .act h (by simpa using h)
  | linkRetryTimer _ => exact .act h (by simpa using h)
  | linkDown _ => exact .act h (by simpa using h)
  | linksReady _ => exact .act h (by simpa using h)
  | pfcFrameReceive _ _ _ => exact .rxOut h
  | arpRequest _ _ => exact .rxOut h
  | neighbourSolicitation _ _ => exact .rxOut h
  | ptpAnnounce _ _ => exact .rxOut h
  | ptpSync _ _ => exact .rxOut h
  | ptpFollowUp _ _ => exact .rxOut h
  | ptpDelayReq => exact execPtpDelayReq_nexts h
  | ptpDelayResp _ _ => exact .rxOut h
  | announceTimeout => exact execAnnounceTimeout_nexts h
  | ppsInEdge => exact .act h (by simpa using h)
  | timerefLoss => exact .act h (by simpa using h)
  | ppsOutPulse => exact .act h (by simpa using h)
  | sleepTickCalibration _ => exact .act h (by simpa using h)
  | holdoverBoundExceeded => exact .act h (by simpa using h)
  | avsbusSample _ => exact .act h (by simpa using h)
  | avsbusReadingMissing _ _ => exact .act h (by simpa using h)
  | pmbusPoll _ _ _ _ => exact .act h (sound_forEach (fun _ _ h => by simpa using h) _ (by simpa using h))
  | pmbAlert _ => exact .act h (sound_forEach (fun _ _ h => by simpa using h) _ h)
  | powerUpdate => exact .act h (by simpa using h)
  | oppChangeEnd _ => exact execOppChangeEnd_nexts h
  | governorRound _ _ => exact .act h (by simpa using h)
  | hintRampStart _ => exact .act h (by simpa using h)
  | hintExpiry _ => exact .act h (by simpa using h)
  | droopDetect _ => exact .act h (by simpa using h)
  | droopRecovery _ => exact .act h (by simpa using h)
  | clampEngage _ _ => exact .act h (by simpa using h)
  | cellSelfTest _ _ => exact .act h (sound_forEach (fun _ _ h => by simpa using h) _ h)
  | pwrWarnFall => exact .act h (by simpa using h)
  | pwrWarnRise => exact .act h (by simpa using h)
  | holdupReturn => exact .act h (by simpa using h)
  | idleTimerExpiry _ => exact .act h (by simpa using h)
  | sleepRequestAccept _ => exact .act h (by simpa using h)
  | entryWindowEnd _ => exact execEntryWindowEnd_nexts h
  | domainTransitionEnd _ => exact execDomainTransitionEnd_nexts h
  | offtimerExpiry _ => exact .act h (by simpa using commitSleep_sound h)
  | domainWake _ _ => exact .act h (by simpa using h)
  | retentionReevaluation _ => exact .act h (by simpa using h)
  | keepBrownout _ => exact .act h (brownOut_sound h)
  | keepSelfTest _ _ => exact .act h (by simpa using h)
  | registerAccessNotOn _ => exact execRegisterAccessNotOn_nexts h
  | sensorSample _ _ => exact .act h (by simpa using h)
  | hardwareTrip _ _ => exact execHardwareTrip_nexts h
  | traySensorPoll _ _ => exact .act h (by simpa using h)
  | flowEmergencyEnd => exact .act h (by simpa using h)
  | flowComputation => exact .act h (by simpa using h)
  | flowWarningClear _ => exact execFlowWarningClear_nexts h
  | heatMismatch => exact .act h (by simpa using h)
  | thermalAllowanceUpdate _ => exact .act h (by simpa using h)
  | coreCeilingUpdate _ => exact execCoreCeilingUpdate_nexts h
  | thermalCycleSample _ => exact execThermalCycleSample_nexts h
  | wearSample _ => exact .act h (by simpa using h)
  | snapshotTick => exact execSnapshotTick_nexts h
  | jobFaultQuiesce _ => exact .actE h (quiesce_ends h)
  | pfcPauseExpiry _ _ => exact .act h (by simpa using h)
  | bridgeLaneRetrainEnd _ _ _ => exact .act h (by simpa using h)
  | timeSlewEnd => exact .act h (by simpa using h)
  | pcieCompletionTimeout _ => exact .act h (by simpa using h)
  | msixVectorUnmask _ => exact .act h (by simpa using h)
  | receivedFrameDiscard _ _ => exact .rxOut h
  | addressResolutionReply _ _ => exact .rxOut h
  | testAccessPortInstruction _ => exact execTestAccessPortInstruction_nexts h
  | keepRegulatorRecovery _ => exact .act h (by simpa using h)

end

/-- Settles O5, by what each command keeps of a sound view, and the idle tick of the whole view. -/
theorem memoryCanonicalStep : Obligations.MemoryCanonicalStep := by
  unfold Obligations.MemoryCanonicalStep
  intro s t hwf hstep
  cases hp : s.pending with
  | nil =>
    rw [step_idle hp] at hstep
    cases hstep
    rw [mem_of_view (view_tick s)]
    exact hwf
  | cons i cs =>
    have hexec : exec i { s with pending := cs } = .next t := by rwa [step, hp] at hstep
    exact (exec_sound (s := { s with pending := cs }) i ⟨rfl, hwf⟩ t hexec).2

end Sys2Proof.Machine

namespace Sys2Proof.Machine

/-! ## From training to READY (O10): R22, R404, R436, R438, R441, R443 -/

/-! ### Functions that keep the boot and the job -/

/-- The boot and the job of a state. -/
def bootJob (s : State) : Boot × Job := (s.boot, s.job)

theorem bootJob_foldl {α : Type} {f : State → α → State} (h : ∀ s a, bootJob (f s a) = bootJob s) (l : List α) (s : State) :
    bootJob (l.foldl f s) = bootJob s := foldl_keep bootJob f h l s

@[simp] theorem bootJob_regSetFld (s : State) (a hi lo v : Nat) : bootJob (regSetFld s a hi lo v) = bootJob s := (rfl)
@[simp] theorem bootJob_regFlag (s : State) (a i : Nat) (b : Bool) : bootJob (regFlag s a i b) = bootJob s := (rfl)
@[simp] theorem bootJob_setLink (s : State) (l : Nat) (x : LinkSt) : bootJob (setLink s l x) = bootJob s := (rfl)
@[simp] theorem bootJob_updDom (s : State) (d : Dom) (f : DomRec → DomRec) : bootJob (updDom s d f) = bootJob s := (rfl)

@[simp] theorem bootJob_setTimeSt (s : State) (x : TimeSt) : bootJob (setTimeSt s x) = bootJob s := by
  unfold setTimeSt; split <;> rfl

@[simp] theorem bootJob_sourceLost (s : State) : bootJob (sourceLost s) = bootJob s := by
  unfold sourceLost
  split
  · exact bootJob_setTimeSt _ _
  · rfl

@[simp] theorem bootJob_reselect (s : State) : bootJob (reselect s) = bootJob s := by
  unfold reselect
  split
  · split <;> simp
  · split <;> rfl

@[simp] theorem bootJob_dropPort (s : State) (l : Nat) : bootJob (dropPort s l) = bootJob s := bootJob_reselect _

@[simp] theorem bootJob_leavePaths (s : State) (l : Nat) : bootJob (leavePaths s l) = bootJob s := by
  simp [leavePaths]

@[simp] theorem bootJob_trainLink (s : State) (l : Nat) : bootJob (trainLink s l) = bootJob s := by
  unfold trainLink; split <;> simp

@[simp] theorem bootJob_enableLink (s : State) (l : Nat) : bootJob (enableLink s l) = bootJob s := by
  unfold enableLink noteLink; split
  · simp
  · exact bootJob_trainLink s l

/-! ### What the functions of the boot change -/

@[simp] theorem setDev_boot (s : State) (d : DevState) : (setDev s d).boot = { s.boot with dev := d } := by
  unfold setDev
  split
  case isTrue h => rw [← h]
  case isFalse h => simp

theorem retireVaults_eq (l : List Nat) (s : State) :
    l.foldl (fun s v => retire s 1 2 v 0) s
      = { s with flash := { s.flash with retired := s.flash.retired ++ l.map fun v => ⟨1, 2, v, 0, boots s⟩ } } := by
  induction l generalizing s with
  | nil => simp
  | cons v l ih => rw [List.foldl_cons, ih]; simp [retire, boots]

theorem failCores_boot (l : List Nat) (s : State) :
    (l.foldl failCore s).boot = { s.boot with disabledCores := s.boot.disabledCores ++ l } := by
  induction l generalizing s with
  | nil => simp
  | cons c l ih => rw [List.foldl_cons, ih]; simp [failCore, retire]

theorem failCores_retired (l : List Nat) (s : State) :
    (l.foldl failCore s).flash.retired = s.flash.retired ++ l.map fun c => ⟨0, 1, c, 0, boots s⟩ := by
  induction l generalizing s with
  | nil => simp
  | cons c l ih => rw [List.foldl_cons, ih]; simp [failCore, retire, boots]

/-- Domains that come On change the domains alone. -/
theorem domsOn_keep {β : Type} (g : State → β) (hg : ∀ (s : State) d x, g (setDom s d x) = g s) (k : DomKind) (l : List Nat)
    (s : State) : g (l.foldl (fun s n => updDom s ⟨k, n⟩ fun x => { x with st := .on }) s) = g s :=
  foldl_keep g _ (fun s n => hg s ⟨k, n⟩ _) l s

/-- No byte of an SRAM is defined. -/
theorem find_undefSram {s : State} {k : Nat} (hlo : 0x20000000000 ≤ k) (hhi : k < 0x20400000000) :
    FMap.find (undefSram s).mem k = none := by
  unfold undefSram
  rw [FMap.find_filter_key _ fun k => decide (k < 0x20000000000) || decide (0x20400000000 ≤ k)]
  have hout : (decide (k < 0x20000000000) || decide (0x20400000000 ≤ k)) = false := by simp; omega
  rw [hout]; rfl

/-- A unit is in use after those of a list that were in use have been taken out. -/
theorem used_append (out l m : List Nat) (v : Nat) (hm : v ∈ m ↔ v ∈ l ∧ (decide (v < 1024) && !out.contains v) = true) :
    (decide (v < 1024) && !(out ++ m).contains v) = (decide (v < 1024) && !out.contains v && !l.contains v) := by
  simp only [List.contains_eq_mem, List.mem_append, hm]
  by_cases hn : v < 1024 <;> by_cases ho : v ∈ out <;> simp [hn, ho]

/-! ### The steps of the boot -/

theorem vaultTraining_completes (l : List Nat) (s : State) (hp : powered s = true) (hf : s.boot.phase = .firmware) :
    Completes (.vaultTraining l) s fun t =>
      t.boot.phase = .trained
        ∧ (∀ v, vaultInService t v = (vaultInService s v && !l.contains v))
        ∧ (∀ v ∈ l, vaultInService s v = true → ∃ r ∈ t.flash.retired, r.kind = 1 ∧ r.number = v)
        ∧ t.regs = s.regs ∧ t.mem = s.mem := by
  have hboot : (trainVaults s l).boot = { s.boot with
      outVaults := s.boot.outVaults ++ (l.filter fun v => vaultInService s v).eraseDups, phase := .trained } := by
    simp only [trainVaults, retireVaults_eq, domsOn_keep State.boot setDom_boot]
  have hretired : (trainVaults s l).flash.retired
      = s.flash.retired ++ (l.filter fun v => vaultInService s v).map fun v => ⟨1, 2, v, 0, boots s⟩ := by
    simp only [trainVaults, retireVaults_eq, domsOn_keep State.flash setDom_flash]
  have hkept : (trainVaults s l).regs = s.regs ∧ (trainVaults s l).mem = s.mem := by
    simp only [trainVaults, retireVaults_eq, domsOn_keep State.regs setDom_regs, domsOn_keep State.mem setDom_mem, and_self]
  refine ⟨trainVaults s l, act_pos hp (by simp [hf]), by rw [hboot], fun v => ?_, fun v hv hin => ?_, hkept⟩
  · simp only [vaultInService, hboot]
    refine used_append _ l _ v ?_
    simp only [List.mem_eraseDups, List.mem_filter]
  · refine ⟨⟨1, 2, v, 0, boots s⟩, ?_, rfl, rfl⟩
    rw [hretired]
    exact List.mem_append_right _ (List.mem_map.2 ⟨v, List.mem_filter.2 ⟨hv, hin⟩, rfl⟩)

theorem configReady_completes (s : State) (hp : powered s = true) (ht : s.boot.phase = .trained) :
    Completes .configReady s fun t =>
      t.boot.dev = .configReady ∧ t.boot.phase = .configReady ∧ t.boot.stripe = vaultsInService s
        ∧ t.mem = s.mem ∧ t.job = s.job := by
  have hlinks : bootJob ((List.range 32).foldl enableLink _) = _ :=
    bootJob_foldl bootJob_enableLink (List.range 32)
      { s with boot := { s.boot with phase := .configReady, stripe := vaultsInService s } }
  have hmem : view (reachConfigReady s) = view s := by simp [reachConfigReady]
  obtain ⟨hboot, hjob⟩ := Prod.mk.inj hlinks
  refine ⟨reachConfigReady s, act_pos hp (by simp [ht]), ?_, ?_, ?_, mem_of_view hmem, ?_⟩
  · simp [reachConfigReady]
  · simp [reachConfigReady, hboot]
  · simp [reachConfigReady, hboot]
  · simp [reachConfigReady, hjob]

theorem knownAnswerTest_completes (l : List Nat) (cl : List (Nat × Nat)) (s : State) (hp : powered s = true)
    (hc : s.boot.phase = .configReady) (hk : s.boot.katDone = false) :
    Completes (.knownAnswerTest l cl) s fun t =>
      t.boot.katDone = true ∧ (∀ c, coreEnabled t c = (coreEnabled s c && !l.contains c))
        ∧ (∀ c ∈ l, coreEnabled s c = true → ∃ r ∈ t.flash.retired, r.kind = 0 ∧ r.number = c)
        ∧ (∀ k, 0x20000000000 ≤ k → k < 0x20400000000 → FMap.find t.mem k = none) := by
  have hkat : (bootKat s l cl).boot.katDone = true := by
    simp only [bootKat, domsOn_keep State.boot setDom_boot]
  have hcores : (bootKat s l cl).boot.disabledCores
      = s.boot.disabledCores ++ (l.filter fun c => coreEnabled s c).eraseDups := by
    simp only [bootKat, runKat, domsOn_keep State.boot setDom_boot, failCores_boot]; rfl
  have hretired : (bootKat s l cl).flash.retired = s.flash.retired ++
      ((l.filter fun c => coreEnabled s c).eraseDups).map fun c => ⟨0, 1, c, 0, boots s⟩ := by
    simp only [bootKat, runKat, domsOn_keep State.flash setDom_flash, failCores_retired]; rfl
  have hmem : (bootKat s l cl).mem = (undefSram s).mem := by
    simp only [bootKat, runKat, domsOn_keep State.mem setDom_mem]
    exact mem_of_view (view_foldl view_failCore _ (undefSram s))
  refine ⟨bootKat s l cl, act_pos hp (by simp [hc, hk]), hkat, fun c => ?_, fun c hcl hen => ?_, fun k hlo hhi => ?_⟩
  · simp only [coreEnabled, hcores]
    refine used_append _ l _ c ?_
    simp only [List.mem_eraseDups, List.mem_filter]
  · refine ⟨⟨0, 1, c, 0, boots s⟩, ?_, rfl, rfl⟩
    rw [hretired]
    exact List.mem_append_right _ (List.mem_map.2 ⟨c, List.mem_eraseDups.2 (List.mem_filter.2 ⟨hcl, hen⟩), rfl⟩)
  · rw [hmem]; exact find_undefSram hlo hhi

theorem readyEntry_completes (s : State) (hp : powered s = true) (hc : s.boot.phase = .configReady)
    (hk : s.boot.katDone = true) (hl : s.boot.linksReady = true) :
    Completes .readyEntry s fun t =>
      t.boot.dev = .ready ∧ t.boot.phase = .done ∧ t.flash = { s.flash with fuses := max s.flash.fuses (runningSvn s) } :=
  ⟨enterReady s, act_pos hp (by simp [hc, hk, hl]), by simp [enterReady], by simp [enterReady], by simp [enterReady]⟩

/-- Settles O10, step by step of Table 17.2. -/
theorem bootToReady : Obligations.BootToReady :=
  ⟨vaultTraining_completes, configReady_completes, knownAnswerTest_completes, readyEntry_completes⟩

end Sys2Proof.Machine

namespace Sys2Proof.Machine

/-! ## SIGNAL and ABORT (O33): R28, R303, R306, R307, R329 -/

/-! ### Queues and their items -/

@[simp] theorem queueAt_setQueue_same (s : State) (q : Nat) (x : Queue) : queueAt (setQueue s q x) q = x :=
  FMap.getD_set_same ..

theorem queueAt_setQueue_ne (s : State) {p q : Nat} (x : Queue) (h : p ≠ q) : queueAt (setQueue s q x) p = queueAt s p :=
  FMap.getD_set_ne _ _ _ h

theorem otherQueues_updItem (s : State) (q idx : Nat) (f : Item → Item) : OtherQueues s (updItem s q idx f) q :=
  fun _ h => queueAt_setQueue_ne s _ h

theorem itemAt_congr {s t : State} (h : t.wq.queues = s.wq.queues) (q idx : Nat) : itemAt t q idx = itemAt s q idx := by
  unfold itemAt queueAt; rw [h]

theorem itemAt_setQueue {s : State} {q : Nat} {x : Queue} (h : x.items = (queueAt s q).items) (p idx : Nat) :
    itemAt (setQueue s q x) p idx = itemAt s p idx := by
  unfold itemAt
  by_cases hp : p = q
  · subst hp; rw [queueAt_setQueue_same, h]
  · rw [queueAt_setQueue_ne s x hp]

section
variable {s : State} {q idx : Nat} {f : Item → Item} (hf : ∀ i, (f i).idx = i.idx)
include hf

theorem find_updItem (l : List Item) (k : Nat) :
    (l.map fun i => if i.idx = idx then f i else i).find? (·.idx == k)
      = (l.find? (·.idx == k)).map fun i => if i.idx = idx then f i else i := by
  rw [List.find?_map]
  congr 2
  funext i
  simp only [Function.comp_apply]
  split <;> simp [hf]

theorem itemAt_updItem_same {i : Item} (h : itemAt s q idx = some i) : itemAt (updItem s q idx f) q idx = some (f i) := by
  have hidx : i.idx = idx := by simpa using List.find?_some h
  unfold itemAt at h
  unfold itemAt updItem updQueue
  rw [queueAt_setQueue_same, find_updItem hf, h, Option.map_some, if_pos hidx]

theorem itemAt_updItem_ne {p k : Nat} (h : ¬(p = q ∧ k = idx)) : itemAt (updItem s q idx f) p k = itemAt s p k := by
  by_cases hp : p = q
  · subst hp
    unfold itemAt updItem updQueue
    rw [queueAt_setQueue_same, find_updItem hf]
    cases hi : (queueAt s p).items.find? (·.idx == k) with
    | none => rfl
    | some i =>
      have hidx : i.idx = k := by simpa using List.find?_some hi
      rw [Option.map_some, if_neg (by rw [hidx]; exact fun e => h ⟨rfl, e⟩)]
  · unfold itemAt; rw [otherQueues_updItem s q idx f p hp]

end

theorem begins_of_Begins {s : State} {q idx : Nat} {i : Item} {p : WqCmd → Bool} (h : Begins s q idx i) (hp : p i.cmd = true) :
    begins s q idx p = true := by
  obtain ⟨-, hdev, hitem, hphase⟩ := h
  unfold begins engineRuns
  rw [hdev, hitem]
  simp [hphase, hp]

theorem cmdAt_of_itemAt {s : State} {q idx : Nat} {i : Item} (h : itemAt s q idx = some i) : cmdAt s q idx = some i.cmd := by
  unfold cmdAt; rw [h]; rfl

theorem ended_endItem {s : State} {q idx : Nat} {i : Item} (status : Nat) (h : itemAt s q idx = some i) :
    Ended (endItem s q idx status) q idx status :=
  ⟨_, itemAt_updItem_same (fun _ => by rfl) h, rfl, rfl⟩

/-! ### Packets that wait for an answer -/

theorem sends_sendPacket (s : State) (stop : Nat) (p : Packet) : Sends s (sendPacket s stop p) stop p :=
  FMap.getD_set_same ..

theorem openTxn_out (s : State) (stop : Nat) (o : OutReq) :
    FMap.find (openTxn s stop o).2.rings.out (openTxn s stop o).1 = some o := FMap.find_set_same ..

/-- The state in which a synchronisation command waits for the answer to a packet that it sent from the hub stop. -/
def sentSync (s : State) (q idx : Nat) (p : Nat → Packet) : State :=
  sendPacket (openTxn (startItem s q idx) hubStop (.sync q idx)).2 hubStop
    (p (openTxn (startItem s q idx) hubStop (.sync q idx)).1)

theorem sentSync_spec {s : State} {q idx : Nat} {i : Item} {p : Nat → Packet} (h : itemAt s q idx = some i)
    (hp : ∀ t, (p t).txn = t) :
    (∃ y, itemAt (sentSync s q idx p) q idx = some y ∧ y.phase = .running)
      ∧ Sends s (sentSync s q idx p) hubStop (p (openTxn (startItem s q idx) hubStop (.sync q idx)).1)
      ∧ FMap.find (sentSync s q idx p).rings.out (p (openTxn (startItem s q idx) hubStop (.sync q idx)).1).txn = some (.sync q idx)
      ∧ sentSync s q idx p = { s with wq := (sentSync s q idx p).wq, rings := (sentSync s q idx p).rings }
      ∧ OtherQueues s (sentSync s q idx p) q := by
  refine ⟨⟨_, itemAt_updItem_same (fun _ => by rfl) h, rfl⟩, sends_sendPacket _ _ _, ?_, rfl, otherQueues_updItem s q idx _⟩
  rw [hp]
  exact openTxn_out _ _ _

/-! ### SIGNAL -/

/-- The write of a SIGNAL. -/
def signalPacket (s : State) (q a v t : Nat) : Packet :=
  writePacket (addrRing a) (queueAt s q).cls hubStop ((destStop s 0 (addrRing a) a).getD hubStop) t a (leBytes 8 v ++ zeros 24)

/-- The doorbell of a SIGNAL to another device. -/
def bellPacket (s : State) (q a v t : Nat) : Packet :=
  { plainPacket .signal 0 (queueAt s q).cls hubStop (linkStop (outLink s 0 0)) t a 8 with data := leBytes 8 v }

theorem sendWord_memory {s : State} {q idx a v : Nat} (hnone : ∀ k, resolve s a ≠ .none k) (hreg : ∀ r, resolve s a ≠ .reg r) :
    sendWord s q idx a v = .ok (sentSync s q idx (signalPacket s q a v)) := by
  unfold sendWord
  split
  · exact absurd ‹_› (hnone _)
  · exact absurd ‹_› (hreg _)
  · rfl

section
variable {q idx a v vec : Nat} {s : State} {i : Item} (hb : Begins s q idx i) (hc : i.cmd = .signal a v vec)
include hb hc

theorem exec_wqSignal (hform : bellForm a vec = false) :
    exec (.wqSignal q idx) s = toOut s (orUndef (a % 32 == 0) 48 (sendWord s q idx a v)) := by
  have hbegins : begins s q idx (isSignal false) = true := begins_of_Begins hb (by simp [hc, isSignal, hform])
  obtain ⟨hp, -, hitem, -⟩ := hb
  refine (actE_pos hp hbegins).trans ?_
  rw [runSignal, cmdAt_of_itemAt hitem, hc]

theorem exec_wqSignalDoorbell (hform : bellForm a vec = true) (hhigh : bits a 42 21 = 0) (ha : a % 32 = 0)
    (hvec : bits vec 13 11 = 0) :
    exec (.wqSignalDoorbell q idx) s = toOut s (if ownId s (bits a 54 43) then do
        let u ← ringBell s (bits a 20 5) v (nowNs s)
        .ok (signalDone (startItem u q idx) q idx)
      else .ok (sentSync s q idx (bellPacket s q a v))) := by
  have hbegins : begins s q idx (isSignal true) = true := begins_of_Begins hb (by simp [hc, isSignal, hform])
  obtain ⟨hp, -, hitem, -⟩ := hb
  refine (actE_pos hp hbegins).trans ?_
  rw [runBell, cmdAt_of_itemAt hitem, hc]
  simp only [hhigh, ha, hvec, ne_eq, not_true_eq_false, or_self, if_false]
  rfl

end

theorem wqSignal_completes (q idx a v vec : Nat) (s : State) (i : Item) (hb : Begins s q idx i) (hc : i.cmd = .signal a v vec)
    (hform : bellForm a vec = false) (ha : a % 32 = 0) (hnone : ∀ k, resolve s a ≠ .none k) (hreg : ∀ r, resolve s a ≠ .reg r) :
    Completes (.wqSignal q idx) s fun t =>
      (∃ y, itemAt t q idx = some y ∧ y.phase = .running)
        ∧ (∃ p : Packet, Sends s t hubStop p ∧ p.ring = addrRing a ∧ p.ty = .wr ∧ p.addr = a ∧ p.data = leBytes 8 v ++ zeros 24
            ∧ p.ackreq = true ∧ FMap.find t.rings.out p.txn = some (.sync q idx))
        ∧ t = { s with wq := t.wq, rings := t.rings } ∧ OtherQueues s t q := by
  have hexec := exec_wqSignal hb hc hform
  rw [orUndef_pos (by simp [ha]), sendWord_memory hnone hreg] at hexec
  obtain ⟨-, -, hitem, -⟩ := hb
  obtain ⟨hrunning, hsends, hout, heq, hother⟩ := sentSync_spec hitem (p := signalPacket s q a v) fun _ => rfl
  exact ⟨_, hexec, hrunning, ⟨_, hsends, rfl, rfl, rfl, rfl, rfl, hout⟩, heq, hother⟩

theorem wqSignal_unaligned (q idx a v vec : Nat) (s : State) (i : Item) (hb : Begins s q idx i) (hc : i.cmd = .signal a v vec)
    (hform : bellForm a vec = false) (ha : a % 32 ≠ 0) : Undefined (.wqSignal q idx) s 48 := by
  have hexec := exec_wqSignal hb hc hform
  rwa [orUndef_neg (by simp [ha])] at hexec

/-! ### The DOORBELL form -/

theorem takeToken_eq (s : State) (x : Queue) :
    takeToken s x = { s with wq := { s.wq with spent := (takeToken s x).wq.spent } } := by
  unfold takeToken
  dsimp only
  split <;> rfl

theorem takeToken_queues (s : State) (x : Queue) : (takeToken s x).wq.queues = s.wq.queues := by rw [takeToken_eq]

theorem regSet_eq (s : State) (a v : Nat) : regSet s a v = { s with regs := (regSet s a v).regs } := rfl

theorem event_eq (s : State) (a i n : Nat) : event s a i n = { s with regs := (event s a i n).regs } := rfl

theorem staleBell_eq (s : State) (q gen : Nat) : staleBell s q gen = { s with regs := (staleBell s q gen).regs } := by
  unfold staleBell
  rw [regSet_eq, event_eq]

/-- A doorbell keeps the items of every queue; of the rest it can touch the queues and the registers alone. -/
theorem ringBell_keeps {s u : State} {n v t0 : Nat} (h : ringBell s n v t0 = .ok u) :
    (∀ q idx, itemAt u q idx = itemAt s q idx) ∧ u = { s with wq := u.wq, regs := u.regs } := by
  have hstale : ∀ g, (∀ q idx, itemAt (staleBell s n g) q idx = itemAt s q idx)
      ∧ staleBell s n g = { s with wq := (staleBell s n g).wq, regs := (staleBell s n g).regs } :=
    fun g => by rw [staleBell_eq]; exact ⟨itemAt_congr rfl, rfl⟩
  unfold ringBell returnSlots ringWork showEntries at h
  dsimp only at h
  split at h
  · split at h
    · cases h; exact hstale _
    · split at h
      · cases h
      · cases h; exact ⟨itemAt_setQueue rfl, rfl⟩
  · split at h
    · cases h; exact hstale _
    · split at h
      · cases h
      · cases h
        refine ⟨fun q idx => (itemAt_congr (takeToken_queues ..) q idx).trans (itemAt_setQueue (by rfl) q idx), ?_⟩
        rw [takeToken_eq]; rfl

/-- An acknowledged SIGNAL ends with OK; its message, where it has one, touches the host and the register of blocked messages. -/
theorem signalDone_spec {s : State} {q idx a v vec : Nat} {i : Item} (hdev : s.boot.dev = .job) (hitem : itemAt s q idx = some i)
    (hphase : i.phase = .running) (hc : i.cmd = .signal a v vec) :
    Ended (signalDone s q idx) q idx stOk ∧ (signalDone s q idx).mem = s.mem ∧ (signalDone s q idx).rings = s.rings
      ∧ ∀ n, (queueAt (signalDone s q idx) n).tail = (queueAt s n).tail := by
  have hrun : isRunning s q idx (fun c => isSignal false c || isSignal true c) = true := by
    unfold isRunning engineRuns
    rw [hdev, hitem]
    cases hform : bellForm a vec <;> simp [hphase, hc, isSignal, hform]
  have hdone : signalDone s q idx = endItem (if bit vec 15 then msix s (vec % 2048) else s) q idx stOk := by
    unfold signalDone
    rw [if_pos hrun, cmdAt_of_itemAt hitem, hc]
  have hwq : (if bit vec 15 then msix s (vec % 2048) else s).wq = s.wq := by split <;> simp
  rw [hdone]
  refine ⟨ended_endItem stOk ((itemAt_congr (by rw [hwq]) q idx).trans hitem), ?_, ?_, fun n => ?_⟩
  · rw [show ∀ t : State, (endItem t q idx stOk).mem = t.mem from fun _ => rfl]; split <;> simp
  · rw [show ∀ t : State, (endItem t q idx stOk).rings = t.rings from fun _ => rfl]; split <;> simp
  · by_cases hn : n = q
    · subst hn
      simp only [endItem, updItem, updQueue, queueAt_setQueue_same]
      unfold queueAt; rw [hwq]
    · rw [endItem, otherQueues_updItem _ q idx _ n hn]
      unfold queueAt; rw [hwq]

theorem wqSignalDoorbell_completes (q idx a v vec : Nat) (s : State) (i : Item) (hb : Begins s q idx i)
    (hc : i.cmd = .signal a v vec) (hform : bellForm a vec = true) (hhigh : bits a 42 21 = 0) (ha : a % 32 = 0)
    (hvec : bits vec 13 11 = 0) :
    (∀ u, ownId s (bits a 54 43) = true → ringBell s (bits a 20 5) v (nowNs s) = .ok u → Completes (.wqSignalDoorbell q idx) s fun t =>
      Ended t q idx stOk ∧ t.mem = s.mem ∧ t.rings = s.rings ∧ (queueAt t (bits a 20 5)).tail = (queueAt u (bits a 20 5)).tail)
    ∧ (ownId s (bits a 54 43) = false → Completes (.wqSignalDoorbell q idx) s fun t =>
      (∃ y, itemAt t q idx = some y ∧ y.phase = .running)
        ∧ (∃ p : Packet, Sends s t hubStop p ∧ p.ring = 0 ∧ p.ty = .signal ∧ p.addr = a ∧ p.data = leBytes 8 v
            ∧ p.dst = linkStop (outLink s 0 0) ∧ FMap.find t.rings.out p.txn = some (.sync q idx))
        ∧ t = { s with wq := t.wq, rings := t.rings }) := by
  have hexec := exec_wqSignalDoorbell hb hc hform hhigh ha hvec
  obtain ⟨-, hdev, hitem, -⟩ := hb
  refine ⟨fun u hown hu => ?_, fun hown => ?_⟩
  · rw [if_pos hown, hu] at hexec
    obtain ⟨hitems, hu⟩ := ringBell_keeps hu
    have hstart : itemAt (startItem u q idx) q idx = some { i with phase := .running } :=
      itemAt_updItem_same (f := fun i => { i with phase := .running }) (fun _ => rfl) ((hitems q idx).trans hitem)
    have hdevU : (startItem u q idx).boot.dev = .job := by
      rw [show (startItem u q idx).boot = u.boot from rfl, hu]; exact hdev
    obtain ⟨hended, hmem, hrings, htail⟩ := signalDone_spec hdevU hstart rfl hc
    refine ⟨_, hexec, hended, hmem.trans ?_, hrings.trans ?_, (htail _).trans ?_⟩
    · rw [show (startItem u q idx).mem = u.mem from rfl, hu]
    · rw [show (startItem u q idx).rings = u.rings from rfl, hu]
    · by_cases hn : bits a 20 5 = q
      · rw [hn, startItem, updItem, updQueue, queueAt_setQueue_same]
      · rw [startItem, otherQueues_updItem u q idx _ _ hn]
  · rw [if_neg (by simp [hown])] at hexec
    obtain ⟨hrunning, hsends, hout, heq, -⟩ := sentSync_spec hitem (p := bellPacket s q a v) fun _ => rfl
    exact ⟨_, hexec, hrunning, ⟨_, hsends, rfl, rfl, rfl, rfl, rfl, hout⟩, heq⟩

/-! ### What stopping a command keeps -/

/-- The part of a state that the queue engine decides by: the boot, the work queues and the pails. -/
def engineView (s : State) : Boot × Wq × Pails := (s.boot, s.wq, s.pails)

theorem engineView_foldl {α : Type} {f : State → α → State} (h : ∀ s a, engineView (f s a) = engineView s) (l : List α)
    (s : State) : engineView (l.foldl f s) = engineView s := foldl_keep engineView f h l s

theorem engineView_dropOwned (s : State) (c : Nat) : engineView (dropOwned s c) = engineView s :=
  engineView_foldl (f := fun t k => setInjectQ t (coreStop c) k (keptPackets s c k)) (fun _ _ => rfl) [0, 1, 2, 3] s

theorem engineView_haltCore (s : State) (c : Nat) : engineView (haltCore s c) = engineView s := engineView_dropOwned _ c

theorem engineView_undefRange (s : State) (a n : Nat) : engineView (undefRange s a n) = engineView s := by
  refine engineView_foldl (fun t p => ?_) _ s
  split <;> rfl

theorem engineView_stopRows (s : State) (q idx : Nat) : engineView (stopRows s q idx) = engineView s := by
  refine engineView_foldl (fun t v => ?_) _ s
  split
  · rfl
  · split <;> rfl

theorem engineView_loseRows (s : State) (i : Item) : engineView (loseRows s i) = engineView s := by
  unfold loseRows
  split
  · rfl
  · exact engineView_foldl (fun t v => engineView_foldl (f := loseRow v) (fun _ _ => rfl) _ t) _ s

theorem engineView_haltItem (s : State) (q : Nat) (i : Item) : engineView (haltItem s q i) = engineView s := by
  unfold haltItem
  dsimp only
  split
  · exact engineView_foldl engineView_haltCore _ _
  · exact engineView_foldl engineView_haltCore _ _
  · exact engineView_foldl engineView_haltCore _ _
  · exact engineView_foldl engineView_haltCore _ _
  · exact engineView_undefRange ..
  · exact engineView_undefRange ..
  · exact (engineView_undefRange ..).trans (engineView_undefRange ..)
  · exact (engineView_loseRows ..).trans (engineView_stopRows ..)
  · rfl

/-! ### ABORT -/

theorem tryFlushEnd_idle {s : State} (h : s.pails.busy = none) (q : Nat) : tryFlushEnd s q = .ok s := by
  unfold tryFlushEnd; rw [h]

theorem settlePails_idle {s : State} (hb : s.pails.busy = none) (hd : s.pails.deferred = []) : settlePails s = .ok s := by
  have hclose : tryCloseEnd s = .ok s := by unfold tryCloseEnd; rw [hb]
  have hpin : tryPinEnd s = s := by unfold tryPinEnd; rw [hb]
  unfold settlePails
  rw [hclose]
  show runDeferred (tryPinEnd s) = .ok s
  rw [hpin, runDeferred, hd]
  rfl

/-- The target of an ABORT is an item of its queue, and not the ABORT itself. -/
theorem itemAt_abortTarget {s : State} {q idx qt cmdid : Nat} {y : Item} (h : abortTarget s q idx qt cmdid = some y) :
    (∃ z, itemAt s qt y.idx = some z) ∧ ¬(qt = q ∧ y.idx = idx) := by
  constructor
  · refine Option.isSome_iff_exists.1 (List.find?_isSome.2 ⟨y, List.mem_of_find?_eq_some h, ?_⟩)
    simp
  · have hp := List.find?_some h
    simp only [Bool.and_eq_true, Bool.not_eq_true', Bool.and_eq_false_iff, beq_eq_false_iff_ne] at hp
    rintro ⟨rfl, rfl⟩
    simp at hp

theorem abortOne_fetched {s : State} {qt : Nat} {y : Item} (hstep : inOpenStep s qt y = false) (hy : y.phase = .fetched) :
    abortOne s qt y = .ok (stOk, updItem s qt y.idx fun y => { y with skip := true }) := by
  simp [abortOne, itemLive, hy, hstep]

theorem isStepEdge_of_stoppable {c : WqCmd} (h : stoppable c = true) : isStepEdge c = false := by
  cases c <;> simp_all [stoppable, isStepEdge]

theorem abortOne_stoppable {s : State} {qt : Nat} {y : Item} (hstep : inOpenStep s qt y = false) (hlive : itemLive y = true)
    (hstop : stoppable y.cmd = true) : abortOne s qt y = .ok (stOk, abortLive s qt y) := by
  have hedge := isStepEdge_of_stoppable hstop
  have hphase : y.phase ≠ .recorded ∧ y.phase ≠ .fetched := by
    constructor <;> intro h <;> simp [itemLive, h] at hlive
  simp [abortOne, hstep, hlive, hstop, hedge, hphase]

theorem abortOne_already {s : State} {qt : Nat} {y : Item} (hstep : inOpenStep s qt y = false)
    (hy : y.phase = .recorded ∨ y.phase = .ended ∨ (itemLive y = true ∧ stoppable y.cmd = false)) :
    abortOne s qt y = .ok (stAlready, s) := by
  rcases hy with hy | hy | ⟨hlive, hstop⟩
  · simp [abortOne, hy]
  · simp [abortOne, itemLive, hy, hstep]
  · have hphase : y.phase ≠ .fetched := by intro h; simp [itemLive, h] at hlive
    simp [abortOne, hstep, hlive, hstop, hphase]

/-- What the end of an ABORT leaves: it has ended with its status, no other item has changed, and the rest is as before. -/
theorem endAbort_spec {s : State} {q idx qt status : Nat} {x : Option Item} (hb : begins s q idx isAbort = true) :
    Ended (endAbort s q idx qt status x) q idx status
      ∧ (∀ p k, ¬(p = q ∧ k = idx) → itemAt (endAbort s q idx qt status x) p k = itemAt s p k)
      ∧ endAbort s q idx qt status x = { s with wq := (endAbort s q idx qt status x).wq }
      ∧ OtherQueues s (endAbort s q idx qt status x) q := by
  obtain ⟨i, hitem⟩ : ∃ i, itemAt s q idx = some i := by
    unfold begins at hb
    cases h : itemAt s q idx with
    | none => rw [h] at hb; simp at hb
    | some i => exact ⟨i, rfl⟩
  unfold endAbort
  rw [if_pos hb]
  obtain ⟨y, hy, hphase, hstatus⟩ := ended_endItem (s := s) status hitem
  refine ⟨⟨_, itemAt_updItem_same (fun _ => by rfl) hy, hphase, hstatus⟩, fun p k hne => ?_, rfl, fun p hp => ?_⟩
  · exact (itemAt_updItem_ne (fun _ => by rfl) hne).trans (itemAt_updItem_ne (fun _ => by rfl) hne)
  · exact (otherQueues_updItem _ q idx _ p hp).trans (otherQueues_updItem s q idx _ p hp)

theorem begins_congr {s t : State} {q idx : Nat} {p : WqCmd → Bool} (hboot : t.boot = s.boot)
    (hitem : itemAt t q idx = itemAt s q idx) : begins t q idx p = begins s q idx p := by
  unfold begins engineRuns; rw [hboot, hitem]

theorem begins_updItem_ne {s : State} {q idx p k : Nat} {P : WqCmd → Bool} {f : Item → Item} (hf : ∀ i, (f i).idx = i.idx)
    (h : ¬(p = q ∧ k = idx)) : begins (updItem s p k f) q idx P = begins s q idx P :=
  begins_congr (s := s) (t := updItem s p k f) rfl (itemAt_updItem_ne hf fun e => h ⟨e.1.symm, e.2.symm⟩)

section
variable {q idx qt cmdid : Nat} {s : State} {i : Item} (hb : Begins s q idx i) (hc : i.cmd = .abort qt cmdid)
  (hlook : abortLook s qt = .ok (s, s))
include hb hc hlook

theorem exec_abort_none (hnone : abortTarget s q idx qt cmdid = none) :
    exec (.abort q idx) s = .next (endAbort s q idx qt stAlready none) := by
  have hbegins : begins s q idx isAbort = true := begins_of_Begins hb (by simp [hc, isAbort])
  obtain ⟨hp, -, hitem, -⟩ := hb
  refine (actE_pos hp hbegins).trans ?_
  rw [runAbort, cmdAt_of_itemAt hitem, hc]
  simp only [hlook]
  show toOut s (match abortTarget s q idx qt cmdid with | none => _ | some i => _) = _
  rw [hnone]; rfl

/-- An ABORT of one item, where no pail command executes or waits. -/
theorem exec_abort_some {y : Item} {st : Nat} {u : State} (hy : abortTarget s q idx qt cmdid = some y)
    (hone : abortOne s qt y = .ok (st, u)) (hbu : begins u q idx isAbort = true) (hbusy : u.pails.busy = none)
    (hdef : u.pails.deferred = []) :
    exec (.abort q idx) s = .next (endAbort u q idx qt st (some y)) := by
  have hbegins : begins s q idx isAbort = true := begins_of_Begins hb (by simp [hc, isAbort])
  obtain ⟨hp, -, hitem, -⟩ := hb
  obtain ⟨-, -, heq, -⟩ := endAbort_spec (qt := qt) (status := st) (x := some y) hbu
  have hpails : (endAbort u q idx qt st (some y)).pails = u.pails := by rw [heq]
  refine (actE_pos hp hbegins).trans ?_
  rw [runAbort, cmdAt_of_itemAt hitem, hc]
  simp only [hlook, hone, tryFlushEnd_idle, settlePails_idle, hpails, hbusy, hdef, bind, Except.bind, hy]
  rfl

theorem abort_noTarget (hnone : abortTarget s q idx qt cmdid = none) : Completes (.abort q idx) s fun t =>
    Ended t q idx stAlready ∧ t = { s with wq := t.wq } ∧ OtherQueues s t q := by
  have hbegins : begins s q idx isAbort = true := begins_of_Begins hb (by simp [hc, isAbort])
  obtain ⟨hended, -, heq, hother⟩ := endAbort_spec (qt := qt) (status := stAlready) (x := none) hbegins
  exact ⟨_, exec_abort_none hb hc hlook hnone, hended, heq, hother⟩

section
variable {y : Item} (hy : abortTarget s q idx qt cmdid = some y) (hstep : inOpenStep s qt y = false)
  (hbusy : s.pails.busy = none) (hdef : s.pails.deferred = [])
include hy hstep hbusy hdef

theorem abort_fetched (hphase : y.phase = .fetched) : Completes (.abort q idx) s fun t =>
    Ended t q idx stOk ∧ (∃ z, itemAt t qt y.idx = some z ∧ z.skip = true) ∧ t = { s with wq := t.wq } := by
  obtain ⟨⟨z, hz⟩, hne⟩ := itemAt_abortTarget hy
  have hbegins : begins (updItem s qt y.idx fun y => { y with skip := true }) q idx isAbort = true :=
    (begins_updItem_ne (f := fun y => { y with skip := true }) (fun _ => rfl) hne).trans
      (begins_of_Begins hb (by simp [hc, isAbort]))
  obtain ⟨hended, hitems, heq, -⟩ := endAbort_spec (qt := qt) (status := stOk) (x := some y) hbegins
  refine ⟨_, exec_abort_some hb hc hlook hy (abortOne_fetched hstep hphase) hbegins hbusy hdef, hended,
    ⟨{ z with skip := true }, ?_, rfl⟩, heq⟩
  exact (hitems qt y.idx hne).trans (itemAt_updItem_same (f := fun y => { y with skip := true }) (fun _ => by rfl) hz)

theorem abort_stoppable (hlive : itemLive y = true) (hstop : stoppable y.cmd = true) :
    Completes (.abort q idx) s fun t => Ended t q idx stOk ∧ Ended t qt y.idx stAborted := by
  obtain ⟨⟨z, hz⟩, hne⟩ := itemAt_abortTarget hy
  obtain ⟨hboot, hwq, hpails⟩ :
      (haltItem s qt y).boot = s.boot ∧ (haltItem s qt y).wq = s.wq ∧ (haltItem s qt y).pails = s.pails := by
    simpa [engineView] using engineView_haltItem s qt y
  have hitem : ∀ p k, itemAt (haltItem s qt y) p k = itemAt s p k := itemAt_congr (by rw [hwq])
  have hbegins : begins (abortLive s qt y) q idx isAbort = true :=
    (begins_updItem_ne (by exact fun _ => rfl) hne).trans
      ((begins_congr (s := s) hboot (hitem q idx)).trans (begins_of_Begins hb (by simp [hc, isAbort])))
  obtain ⟨hended, hitems, -, -⟩ := endAbort_spec (qt := qt) (status := stOk) (x := some y) hbegins
  have habort := exec_abort_some hb hc hlook hy (abortOne_stoppable hstep hlive hstop) hbegins
    ((congrArg Pails.busy hpails).trans hbusy) ((congrArg Pails.deferred hpails).trans hdef)
  have hstopped : itemAt (abortLive s qt y) qt y.idx = _ :=
    itemAt_updItem_same (by exact fun _ => rfl) ((hitem qt y.idx).trans hz)
  exact ⟨_, habort, hended, _, (hitems qt y.idx hne).trans hstopped, rfl, rfl⟩

theorem abort_already (hphase : y.phase = .recorded ∨ y.phase = .ended ∨ (itemLive y = true ∧ stoppable y.cmd = false)) :
    Completes (.abort q idx) s fun t => Ended t q idx stAlready ∧ t = { s with wq := t.wq } := by
  have hbegins : begins s q idx isAbort = true := begins_of_Begins hb (by simp [hc, isAbort])
  obtain ⟨hended, -, heq, -⟩ := endAbort_spec (qt := qt) (status := stAlready) (x := some y) hbegins
  exact ⟨_, exec_abort_some hb hc hlook hy (abortOne_already hstep hphase) hbegins hbusy hdef, hended, heq⟩

end

end

/-- Settles O33, by what a SIGNAL sends in its two forms, and what an ABORT does to its target in each phase. -/
theorem signalsAndAborts : Obligations.SignalsAndAborts :=
  ⟨wqSignal_completes, wqSignal_unaligned, wqSignalDoorbell_completes, fun _ _ _ _ _ _ hb hc hlook =>
    ⟨abort_noTarget hb hc hlook, fun _ hy hstep hbusy hdef =>
      ⟨abort_fetched hb hc hlook hy hstep hbusy hdef, abort_stoppable hb hc hlook hy hstep hbusy hdef,
        abort_already hb hc hlook hy hstep hbusy hdef⟩⟩⟩

end Sys2Proof.Machine

namespace Sys2Proof.Machine

/-! ## The host's accesses (O49): R27, R133, R212, R339, R340, R344, R346 -/

/-! ### Configuration requests -/

theorem exec_pcieConfigRequest {s : State} (r : CfgReq) (hp : powered s = true) (hheld : s.boot.pcieHeld = false) :
    exec (.pcieConfigRequest r) s
      = .next (if s.boot.dev == .boot then updHost s fun h => { h with cfgAnswer := none } else cfgServe s r) :=
  act_pos hp (by rw [hheld]; rfl)

@[simp] theorem domAt_updDom_same (s : State) (d : Dom) (f : DomRec → DomRec) : domAt (updDom s d f) d = f (domAt s d) :=
  FMap.getD_set_same ..

/-- What a served configuration request leaves. -/
theorem cfgServe_spec (s : State) (r : CfgReq) :
    (cfgServe s r).host.cfgAnswer.isSome
      ∧ (match r with
        | .read off => (off / 4 = 2 → ∃ x, (cfgServe s r).host.cfgAnswer = some x ∧ x / 2 ^ 8 = 0x120000)
            ∧ cfgServe s r = { s with host := { s.host with cfgAnswer := (cfgServe s r).host.cfgAnswer }, free := s.free + 1 }
        | .write off v => FMap.find (cfgServe s r).host.cfg (off / 4 * 4) = some (v % 2 ^ 32)
            ∧ cfgServe s r = { s with host := { s.host with cfgAnswer := some 0, cfg := (cfgServe s r).host.cfg } }
        | .busMaster b => cfgServe s r = { s with host := { s.host with cfgAnswer := some 0, busMaster := b } }
        | .relaxedOrdering b => cfgServe s r = { s with host := { s.host with cfgAnswer := some 0, relaxedOrdering := b } }
        | .msixEnable b => cfgServe s r = { s with host := { s.host with cfgAnswer := some 0, msixEnable := b } }
        | .bar2Size n => cfgServe s r = { s with host := { s.host with
            cfgAnswer := some 0, bar2Log := (if 30 ≤ n ∧ n < 40 then n else s.host.bar2Log) } }
        | .ptmEnable b => cfgServe s r = { s with host := { s.host with cfgAnswer := some 0, ptmEnable := b } }
        | .lowPower b => domOn (cfgServe s r) ⟨.host, 0⟩ = !b
            ∧ cfgServe s r = { s with host := { s.host with cfgAnswer := some 0 }, doms := (cfgServe s r).doms }) := by
  cases r with
  | read off =>
    refine ⟨rfl, fun hclass => ⟨_, rfl, ?_⟩, rfl⟩
    rw [if_pos hclass]
    omega
  | write off v => exact ⟨rfl, FMap.find_set_same .., rfl⟩
  | busMaster b => exact ⟨rfl, rfl⟩
  | relaxedOrdering b => exact ⟨rfl, rfl⟩
  | msixEnable b => exact ⟨rfl, rfl⟩
  | bar2Size n => exact ⟨rfl, rfl⟩
  | ptmEnable b => exact ⟨rfl, rfl⟩
  | lowPower b =>
    refine ⟨rfl, ?_, rfl⟩
    simp only [cfgServe, domOn, domAt_updDom_same]
    cases b <;> rfl

theorem pcieConfigRequest_boot {s : State} (r : CfgReq) (hp : powered s = true) (hheld : s.boot.pcieHeld = false)
    (hdev : s.boot.dev = .boot) :
    Completes (.pcieConfigRequest r) s fun t => t = { s with host := { s.host with cfgAnswer := none } } :=
  ⟨_, exec_pcieConfigRequest r hp hheld, by rw [hdev]; rfl⟩

theorem exec_pcieConfigRequest_served {s : State} (r : CfgReq) (hp : powered s = true) (hheld : s.boot.pcieHeld = false)
    (hdev : s.boot.dev ≠ .boot) : exec (.pcieConfigRequest r) s = .next (cfgServe s r) := by
  rw [exec_pcieConfigRequest r hp hheld, if_neg (by simpa using hdev)]

/-! ### BAR2 -/

/-- What a BAR2 request does where BAR2's base fits its size. -/
def bar2Effect (s : State) : Bar2Req → Except Halt State
  | .read off n => bar2Read s off n
  | .write off d => stopWrite s (some hostStop) (bar2Addr s off) d

section
variable {s : State} (hp : powered s = true) (hup : barUp s = true)
include hp hup

theorem exec_bar2Access (r : Bar2Req) (hspan : (bar2Span r).1 + (bar2Span r).2 ≤ 2 ^ s.host.bar2Log) :
    exec (.bar2Access r) s = toOut s (orUndef (bar2Ok s) 55 (bar2Effect s r)) := by
  have hc : (barUp s && decide ((bar2Span r).1 + (bar2Span r).2 ≤ 2 ^ s.host.bar2Log)) = true := by
    rw [hup, decide_eq_true hspan]; rfl
  cases r with
  | read off n => exact actE_pos hp hc
  | write off d => exact actE_pos hp hc

theorem bar2Access_read {off n : Nat} {s1 : State} {bs : List Byte} {p : Bool} (hok : bar2Ok s = true)
    (hspan : off + n ≤ 2 ^ s.host.bar2Log) (hread : stopRead s (some hostStop) (bar2Addr s off) n = .ok (bs, p, s1)) :
    Completes (.bar2Access (.read off n)) s fun t => t = { s1 with host := { s1.host with bar2Data := (bs, p) } } := by
  refine ⟨_, (exec_bar2Access hp hup (.read off n) hspan).trans ?_, rfl⟩
  rw [orUndef_pos hok]
  simp only [bar2Effect, bar2Read, hread]
  rfl

theorem bar2Access_write {off : Nat} {d : List Byte} {u : State} (hok : bar2Ok s = true)
    (hspan : off + d.length ≤ 2 ^ s.host.bar2Log) (hwrite : stopWrite s (some hostStop) (bar2Addr s off) d = .ok u) :
    Completes (.bar2Access (.write off d)) s fun t => t = u := by
  refine ⟨_, (exec_bar2Access hp hup (.write off d) hspan).trans ?_, rfl⟩
  rw [orUndef_pos hok]
  exact congrArg (toOut s) hwrite

theorem bar2Access_undefined {r : Bar2Req} (hspan : (bar2Span r).1 + (bar2Span r).2 ≤ 2 ^ s.host.bar2Log)
    (hok : bar2Ok s = false) : Undefined (.bar2Access r) s 55 :=
  (exec_bar2Access hp hup r hspan).trans (by rw [orUndef_neg hok]; rfl)

end

theorem bar2Access_beyond {s : State} {r : Bar2Req} (hspan : 2 ^ s.host.bar2Log < (bar2Span r).1 + (bar2Span r).2) :
    Waits (.bar2Access r) s :=
  actE_neg (by rw [decide_eq_false (Nat.not_le.2 hspan), Bool.and_false])

/-! ### Completions -/

theorem hostWaits_data {s : State} {txn c ch seq sram bus n : Nat} {wr : Bool} (bs : List Byte)
    (hout : FMap.find s.rings.out txn = some (.host c ch seq sram bus n wr)) :
    hostWaits s txn (some bs) = (wr || bs.length == n) := by
  unfold hostWaits; rw [hout]

theorem hostWaits_failed {s : State} {txn c ch seq sram bus n : Nat} {wr : Bool}
    (hout : FMap.find s.rings.out txn = some (.host c ch seq sram bus n wr)) : hostWaits s txn none = true := by
  unfold hostWaits; rw [hout]

section
variable {s : State} {txn c ch seq sram bus n : Nat} {wr : Bool} (hp : powered s = true)
include hp

theorem hostCompletion_read {bs : List Byte}
    (hout : FMap.find s.rings.out txn = some (.host c ch seq sram bus n false)) (hlen : bs.length = n) :
    Completes (.hostCompletion txn (.data bs)) s fun t =>
      t.mem = storeBytes s.mem (2 ^ 64 + bus) bs
        ∧ FMap.find t.rings.out txn = some (.dma c ch seq (hostAddr s bus) sram n false)
        ∧ (∃ p : Packet, Sends s t hostStop p ∧ p.ring < 4 ∧ p.ty = .rdResp ∧ p.dst = coreStop c ∧ p.data = bs
            ∧ p.poison = false ∧ p.txn = txn)
        ∧ t = { s with mem := t.mem, rings := t.rings } := by
  have hexec : exec (.hostCompletion txn (.data bs)) s = .next (hostData s txn bs) :=
    act_pos hp (by rw [hostWaits_data _ hout]; simp [hlen])
  unfold hostData at hexec
  rw [hout] at hexec
  exact ⟨_, hexec, rfl, FMap.find_set_same .., ⟨_, sends_sendPacket _ _ _, bits_lt _ _ _, rfl, rfl, rfl, rfl, rfl⟩, rfl⟩

theorem hostCompletion_write {bs : List Byte} (hout : FMap.find s.rings.out txn = some (.host c ch seq sram bus n true)) :
    Completes (.hostCompletion txn (.data bs)) s fun t =>
      FMap.find t.rings.out txn = some (.dma c ch seq (hostAddr s bus) sram n true)
        ∧ (∃ p : Packet, Sends s t hostStop p ∧ p.ty = .wrAck ∧ p.dst = coreStop c ∧ p.txn = txn)
        ∧ t = { s with rings := t.rings } := by
  have hexec : exec (.hostCompletion txn (.data bs)) s = .next (hostData s txn bs) :=
    act_pos hp (by rw [hostWaits_data _ hout]; rfl)
  unfold hostData at hexec
  rw [hout] at hexec
  exact ⟨_, hexec, FMap.find_set_same .., ⟨_, sends_sendPacket _ _ _, rfl, rfl, rfl⟩, rfl⟩

theorem failedHost_completes {i : Instr} (hout : FMap.find s.rings.out txn = some (.host c ch seq sram bus n wr))
    (hi : i = .hostCompletion txn .failed ∨ i = .pcieCompletionTimeout txn) :
    Completes i s fun t =>
      (∃ d : Cause, t.fault.detected = s.fault.detected ++ [d] ∧ d.code = 1 ∧ d.sub = 2)
        ∧ (∃ p : Packet, Sends s t hostStop p ∧ p.dst = coreStop c
            ∧ (wr = false → p.ty = .rdResp ∧ p.poison = true ∧ p.bytes = n) ∧ (wr = true → p.ty = .wrAck))
        ∧ t = { s with rings := t.rings, fault := { s.fault with detected := t.fault.detected } } := by
  have hact : act s (hostWaits s txn none) (failHost s txn) = .next (failHost s txn) :=
    act_pos hp (hostWaits_failed hout)
  have hexec : exec i s = .next (failHost s txn) := by
    rcases hi with rfl | rfl
    · exact hact
    · exact hact
  unfold failHost at hexec
  rw [hout] at hexec
  cases wr with
  | false =>
    refine ⟨_, hexec, ⟨_, rfl, rfl, rfl⟩, ⟨_, sends_sendPacket _ _ _, rfl, fun _ => ⟨rfl, rfl, ?_⟩, nofun⟩, rfl⟩
    exact List.length_replicate
  | true => exact ⟨_, hexec, ⟨_, rfl, rfl, rfl⟩, ⟨_, sends_sendPacket _ _ _, rfl, nofun, fun _ => rfl⟩, rfl⟩

end

theorem hostWaits_none {s : State} {txn : Nat} (a : Option (List Byte)) (hout : FMap.find s.rings.out txn = none) :
    hostWaits s txn a = false := by
  unfold hostWaits; rw [hout]

theorem hostCompletion_unasked {s : State} {txn : Nat} (a : HostAnswer) (hout : FMap.find s.rings.out txn = none) :
    Waits (.hostCompletion txn a) s ∧ Waits (.pcieCompletionTimeout txn) s := by
  refine ⟨?_, act_neg (hostWaits_none _ hout)⟩
  cases a with
  | data bs => exact act_neg (hostWaits_none _ hout)
  | failed => exact act_neg (hostWaits_none _ hout)

/-! ### MSI-X masks -/

/-- A vector's mask is off. -/
def maskOff (s : State) (v : Nat) : State :=
  updHost s fun h => { h with unmasked := if h.unmasked.contains v then h.unmasked else h.unmasked ++ [v] }

/-- A vector's pending bit is clear. -/
def unpend (s : State) (v : Nat) : State := updHost s fun h => { h with pendingBits := h.pendingBits.filter (· != v) }

theorem mem_maskOff (s : State) (v : Nat) : v ∈ (maskOff s v).host.unmasked := by
  show v ∈ if s.host.unmasked.contains v then s.host.unmasked else s.host.unmasked ++ [v]
  split
  case isTrue h => exact List.contains_iff_mem.1 h
  case isFalse h => exact List.mem_append_right _ (List.mem_singleton.2 rfl)

theorem not_mem_unpend (s : State) (v : Nat) : v ∉ (unpend s v).host.pendingBits := by simp [unpend, updHost]

theorem unmask_pending {s : State} {v : Nat} (hpend : v ∈ s.host.pendingBits) (hen : s.host.msixEnable = true) :
    unmask s v = msix (unpend (maskOff s v) v) v := if_pos ⟨List.contains_iff_mem.2 hpend, hen⟩

theorem unmask_other {s : State} {v : Nat} (h : v ∉ s.host.pendingBits ∨ s.host.msixEnable = false) :
    unmask s v = maskOff s v := by
  refine if_neg fun hc => ?_
  rcases h with h | h
  · exact h (List.contains_iff_mem.1 hc.1)
  · rw [h] at hc; exact Bool.false_ne_true hc.2

theorem msix_unmasked {s : State} {v : Nat} (hen : s.host.msixEnable = true) (hv : v ∈ s.host.unmasked) :
    msix s v = if s.host.busMaster then { s with host := { s.host with sent := s.host.sent ++ [v] } }
      else count s (hubReg 0x60) 1 := by
  unfold msix
  rw [hen, List.contains_iff_mem.2 hv]
  rfl

section
variable {s : State} {v : Nat} (hp : powered s = true) (hup : barUp s = true) (hv : v < 2048)
include hp hup hv

theorem exec_msixVectorUnmask : exec (.msixVectorUnmask v) s = .next (unmask s v) :=
  act_pos hp (by rw [hup, decide_eq_true hv]; rfl)

theorem exec_msixVectorUnmask_pending (hpend : v ∈ s.host.pendingBits) (hen : s.host.msixEnable = true) :
    exec (.msixVectorUnmask v) s = .next (if s.host.busMaster then
        { unpend (maskOff s v) v with host := { (unpend (maskOff s v) v).host with sent := s.host.sent ++ [v] } }
      else count (unpend (maskOff s v) v) (hubReg 0x60) 1) :=
  (exec_msixVectorUnmask hp hup hv).trans
    (congrArg _ ((unmask_pending hpend hen).trans (msix_unmasked (s := unpend (maskOff s v) v) hen (mem_maskOff s v))))

theorem msixVectorUnmask_sends (hpend : v ∈ s.host.pendingBits) (hen : s.host.msixEnable = true)
    (hbm : s.host.busMaster = true) :
    Completes (.msixVectorUnmask v) s fun t => t.host.sent = s.host.sent ++ [v] ∧ v ∉ t.host.pendingBits
      ∧ v ∈ t.host.unmasked ∧ t = { s with host := t.host } := by
  have hexec := exec_msixVectorUnmask_pending hp hup hv hpend hen
  rw [if_pos hbm] at hexec
  exact ⟨_, hexec, rfl, not_mem_unpend _ v, mem_maskOff s v, rfl⟩

theorem msixVectorUnmask_counts (hpend : v ∈ s.host.pendingBits) (hen : s.host.msixEnable = true)
    (hbm : s.host.busMaster = false) :
    Completes (.msixVectorUnmask v) s fun t => t.host.sent = s.host.sent ∧ v ∉ t.host.pendingBits ∧ v ∈ t.host.unmasked
      ∧ regGet t (hubReg 0x60) = counterAdd (regGet s (hubReg 0x60)) 1 ∧ t = { s with host := t.host, regs := t.regs } := by
  have hexec := exec_msixVectorUnmask_pending hp hup hv hpend hen
  rw [if_neg (by rw [hbm]; exact Bool.false_ne_true)] at hexec
  exact ⟨_, hexec, rfl, not_mem_unpend _ v, mem_maskOff s v, regGet_count_same .., rfl⟩

theorem msixVectorUnmask_idle (h : v ∉ s.host.pendingBits ∨ s.host.msixEnable = false) :
    Completes (.msixVectorUnmask v) s fun t => t.host.sent = s.host.sent ∧ v ∈ t.host.unmasked
      ∧ t = { s with host := { s.host with unmasked := t.host.unmasked } } :=
  ⟨_, (exec_msixVectorUnmask hp hup hv).trans (congrArg _ (unmask_other h)), rfl, mem_maskOff s v, rfl⟩

end

/-- Settles O49, access by access. -/
theorem hostAccesses : Obligations.HostAccesses :=
  ⟨fun r s hp hheld => ⟨pcieConfigRequest_boot r hp hheld, fun hdev =>
      ⟨_, exec_pcieConfigRequest_served r hp hheld hdev, cfgServe_spec s r⟩⟩,
    fun _ _ _ _ _ _ hp hup hok hspan hread => bar2Access_read hp hup hok hspan hread,
    fun _ _ _ _ hp hup hok hspan hwrite => bar2Access_write hp hup hok hspan hwrite,
    fun _ _ hp hup => ⟨bar2Access_undefined hp hup, bar2Access_beyond⟩,
    fun _ _ _ _ _ _ _ _ _ hp hout hlen => hostCompletion_read hp hout hlen,
    fun _ _ _ _ _ _ _ _ _ hp hout => hostCompletion_write hp hout,
    fun _ _ _ _ _ _ _ _ _ _ hp hout hi => failedHost_completes hp hout hi,
    fun _ a _ hout => hostCompletion_unasked a hout,
    fun _ _ hp hup hv => ⟨msixVectorUnmask_sends hp hup hv, msixVectorUnmask_counts hp hup hv, msixVectorUnmask_idle hp hup hv⟩⟩

end Sys2Proof.Machine

namespace Sys2Proof.Machine

/-! ## Requests at their targets (O51): the statement fails

O51 asks that a vault write of plain words is performed. What bars a write depends on registers: the scale record of a slot that
a step holds lies at the address in the slot's register (R192), and the model takes the register's place from the slot's number,
whatever the number. The controller counts a row activate (Table 16.3) before the write is checked. Where a step holds slot
0x7FFD540, which no run reaches but the statement's states include, the slot's register is vault 128's counter of row activates:
the count itself moves the scale record onto the words that the request writes, which nothing barred before, and the command
ends in the undefined case 32. -/

/-- A held step whose one slot has vault 128's counter of row activates as its register. -/
def strayStep : Step where
  stepid := 0
  tag := 0
  beginIdx := 0
  entries := 0
  regionsAt := 0
  regions := []
  slots := [0x7FFD540]
  limit := 0
  attempt := 0
  phase := .held
  reserved := 0
  commitIdx := 0

/-- A write of vault 128's first code word, from the core of the same number. -/
def strayWrite : VReq where
  write := true
  off := 0
  bytes := 0
  data := zeros 32
  merge := false
  src := .shaft 0 0 0
  num := 0

/-- The write waits at a vault that is On, with the scale record in the 32 bytes below the vault, where no memory is. -/
def strayState : State :=
  let s := { State.reset with
    boot := { State.reset.boot with pwrok := true }
    guard := { State.reset.guard with steps := [(0, strayStep)] }
    vaults := [(128, { VaultSt.reset with shaftQ := [strayWrite] })] }
  regSet (updDom s ⟨.vault, 128⟩ fun d => { d with st := .on }) (vltCtr 128 2) (2 ^ 37 - 32)

theorem strayState_scales : scaleRanges strayState strayStep = [] := by decide +kernel

theorem strayState_writeBarred (k n : Nat) : writeBarred strayState k n = none := by
  have hqueues : strayState.wq.queues = [] := rfl
  have hsteps : strayState.guard.steps = [(0, strayStep)] := rfl
  have hheld : (strayStep.phase != .held) = false := rfl
  unfold writeBarred
  simp only [hqueues, hsteps, List.findSome?_nil, List.any_cons, List.any_nil, strayState_scales, hheld, meetAny]
  rfl

theorem strayState_noMeta (k : Nat) : inMeta strayState 128 k = false := by
  have hlo : (unitAt strayState 1).base + (unitAt strayState 1).count * (unitAt strayState 1).slot = 0 := rfl
  have hlen : roundUp (6 * (unitAt strayState 1).count) 2048 = 0 := rfl
  unfold inMeta
  simp [hlo, hlen]

theorem strayState_plainWords : PlainWords strayState 128 0 32 :=
  ⟨by decide, by decide, rfl, rfl, by decide, by decide, fun k _ _ => ⟨rfl, strayState_noMeta k, rfl⟩,
    fun _ _ _ _ => strayState_writeBarred ..⟩

theorem exec_strayWrite : exec (.vaultRequestPerform 128 []) strayState = .fault (.undefinedCase 32) := by
  rfl

/-- Refutes O51: in `strayState` the count of the row activate moves a scale record onto the words that the request writes. -/
theorem not_requestsAtTargets : ¬ Obligations.RequestsAtTargets := by
  unfold Obligations.RequestsAtTargets
  rintro ⟨-, -, -, -, -, -, -, -, -, -, hwrite, -⟩
  obtain ⟨t, ht, -⟩ := hwrite 128 [] strayState strayWrite _ rfl (by decide) (by decide) rfl rfl rfl (by decide)
    strayState_plainWords
  rw [exec_strayWrite] at ht
  cases ht

end Sys2Proof.Machine

namespace Sys2Proof.Machine

/-! ## The issue of FEED (O39), the digit array and DRAIN (O40): R34 to R58, R73 to R89, R112 to R118, R136, R141 -/

/-! ### Issue of an instruction (R103, R109) -/

theorem atInstr_of_issues {s : State} {c : Nat} {i : TileInstr} (h : Issues s c i) : atInstr s c i = .ok true := by
  obtain ⟨-, hrun, hpc, hcode⟩ := h
  obtain ⟨w, hw, hdec⟩ := Option.bind_eq_some_iff.1 hcode
  obtain ⟨hlen, -⟩ := List.getElem?_eq_some_iff.1 hw
  have hne : (coreAt s c).code.isEmpty = false := by
    rw [List.isEmpty_eq_false_iff]; exact List.ne_nil_of_length_pos (by omega)
  simp only [atInstr, hrun, hne, hpc, hw, hdec, Option.getD_some, Bool.not_true, Bool.or_false, Bool.false_eq_true, if_false,
    ne_eq, not_true_eq_false, false_or, not_le.2 hlen, beq_self_eq_true]

/-- An instruction that issues has its effect. -/
theorem tileOut_issues {s : State} {c : Nat} {i : TileInstr} (h : Issues s c i) (e : Except Halt State) :
    tileOut s c i e = toOut s e := by
  unfold tileOut
  rw [h.1, atInstr_of_issues h]
  rfl

theorem running_of_issues {s : State} {c : Nat} {i : TileInstr} (h : Issues s c i) : (coreAt s c).running = true := h.2.1

/-! ### The cores of a state -/

@[simp] theorem coreAt_updCore_same (s : State) (c : Nat) (f : CoreSt → CoreSt) : coreAt (updCore s c f) c = f (coreAt s c) :=
  FMap.getD_set_same ..

theorem coreAt_congr {s t : State} (h : t.cores = s.cores) (c : Nat) : coreAt t c = coreAt s c := by
  unfold coreAt; rw [h]

theorem OtherCores.trans {s t u : State} {c : Nat} (h : OtherCores s t c) (h' : OtherCores t u c) : OtherCores s u c :=
  fun d hd => (h' d hd).trans (h d hd)

theorem otherCores_updCore (s : State) (c : Nat) (f : CoreSt → CoreSt) : OtherCores s (updCore s c f) c :=
  fun _ h => FMap.getD_set_ne _ _ _ h

theorem OtherCores.after_updCore {s t : State} {c : Nat} (h : OtherCores s t c) (f : CoreSt → CoreSt) :
    OtherCores s (updCore t c f) c := h.trans (otherCores_updCore t c f)

theorem otherCores_of_cores {s t : State} (h : t.cores = s.cores) (c : Nat) : OtherCores s t c := fun d _ => coreAt_congr h d

theorem OtherCores.after_bump {s t : State} {c : Nat} (h : OtherCores s t c) : OtherCores s (bump t) c := h

@[simp] theorem coreAt_bump (s : State) (c : Nat) : coreAt (bump s) c = coreAt s c := rfl

/-! ### An operation enters a queue of its core (R141) -/

/-- The state in which an operation with its accesses has entered a queue of its core, and the next instruction follows. -/
def enqueued (s : State) (c : Nat) (a : Access) (f : CoreSt → CoreSt) : State :=
  nextPc (takeSeq (updCore (bump (updCore s c fun x =>
    { x with order := (x.order.filter fun e => !e.writes.isEmpty || opLive x e.seq) ++ [a] })) c f) c) c

theorem coreAt_enqueued (s : State) (c : Nat) (a : Access) (f : CoreSt → CoreSt) :
    ∃ l, coreAt (enqueued s c a f) c = { f { coreAt s c with order := l } with
      nextSeq := (f { coreAt s c with order := l }).nextSeq + 1
      pc := ((f { coreAt s c with order := l }).pc + 8) % 2 ^ 64 } := by
  refine ⟨((coreAt s c).order.filter fun e => !e.writes.isEmpty || opLive (coreAt s c) e.seq) ++ [a], ?_⟩
  unfold enqueued nextPc takeSeq
  simp only [coreAt_updCore_same, coreAt_bump]

theorem otherCores_enqueued (s : State) (c : Nat) (a : Access) (f : CoreSt → CoreSt) : OtherCores s (enqueued s c a f) c :=
  (((otherCores_updCore s c _).after_bump.after_updCore _).after_updCore _).after_updCore _

theorem enqueued_eq (s : State) (c : Nat) (a : Access) (f : CoreSt → CoreSt) :
    enqueued s c a f = { s with cores := (enqueued s c a f).cores, free := (enqueued s c a f).free } := rfl

theorem orderOp_none {s : State} {c : Nat} {a : Access} (h : unordered (coreAt s c) (some a.unit) a.reads a.writes = none) :
    orderOp s c a = .ok (updCore s c fun x =>
      { x with order := (x.order.filter fun e => !e.writes.isEmpty || opLive x e.seq) ++ [a] }) := by
  unfold orderOp; rw [h]

theorem issueFeed_ok {s : State} {c : Nat} {f : FeedF} (hlen : (coreAt s c).feedQ.length < 4)
    (hord : unordered (coreAt s c) (some .feed) (feedSpans (if f.accumulate then issueMode s c else f.fullcream) (feedOp s c f)) []
      = none) :
    ∃ a, issueFeed s c f = .ok (enqueued s c a fun x => { x with feedQ := x.feedQ ++ [.feed (feedOp s c f)] }) := by
  refine ⟨⟨(feedOp s c f).seq, .feed, false, none,
    feedSpans (if f.accumulate then issueMode s c else f.fullcream) (feedOp s c f), []⟩, ?_⟩
  unfold issueFeed
  rw [if_pos hlen]
  dsimp only
  rw [orderOp_none hord]
  rfl

theorem issueDrain_ok {s : State} {c : Nat} {f : DrainF} (hlen : (coreAt s c).drainQ.length < 4)
    (hord : unordered (coreAt s c) (some .drain) (wheySpan s (drainOp s c f)) (drainSpans s (drainOp s c f)) = none) :
    ∃ a, issueDrain s c f = .ok (enqueued s c a fun x => { x with drainQ := x.drainQ ++ [.drain (drainOp s c f)] }) := by
  refine ⟨⟨(drainOp s c f).seq, .drain, false, none, wheySpan s (drainOp s c f), drainSpans s (drainOp s c f)⟩, ?_⟩
  unfold issueDrain
  rw [if_pos hlen]
  dsimp only
  rw [orderOp_none hord]
  rfl

/-- A queue of a core takes an operation: the next instruction follows, with no register changed. -/
theorem nextInstr_enqueued {s : State} {c : Nat} {i : TileInstr} (h : Issues s c i) (a : Access) {f : CoreSt → CoreSt}
    (hf : ∀ x, ∃ fq dq, f x = { x with feedQ := fq, drainQ := dq }) : NextInstr s (enqueued s c a f) c := by
  obtain ⟨l, hl⟩ := coreAt_enqueued s c a f
  obtain ⟨fq, dq, hx⟩ := hf { coreAt s c with order := l }
  rw [hx] at hl
  refine ⟨otherCores_enqueued s c a f, ?_⟩
  rw [hl]
  exact ⟨rfl, rfl, rfl, rfl, running_of_issues h⟩

theorem feed_completes {s : State} {c : Nat} {f : FeedF} (h : Issues s c (.feed f)) (hlen : (coreAt s c).feedQ.length < 4)
    (hord : unordered (coreAt s c) (some .feed) (feedSpans (if f.accumulate then issueMode s c else f.fullcream) (feedOp s c f)) []
      = none) :
    Completes (.feed c f) s fun t =>
      NextInstr s t c ∧ (coreAt t c).feedQ = (coreAt s c).feedQ ++ [.feed (feedOp s c f)]
        ∧ t = { s with cores := t.cores, free := t.free } := by
  obtain ⟨a, ha⟩ := issueFeed_ok hlen hord
  obtain ⟨l, hl⟩ := coreAt_enqueued s c a fun x => { x with feedQ := x.feedQ ++ [.feed (feedOp s c f)] }
  refine ⟨_, (tileOut_issues h _).trans (by rw [ha]; rfl), nextInstr_enqueued h a fun x => ⟨_, _, rfl⟩, ?_, enqueued_eq ..⟩
  rw [hl]

theorem feed_waits {s : State} {c : Nat} {f : FeedF} (h : Issues s c (.feed f)) (hlen : 4 ≤ (coreAt s c).feedQ.length) :
    Waits (.feed c f) s := by
  have hfull : issueFeed s c f = .ok s := by rw [issueFeed, if_neg (by omega)]
  exact (tileOut_issues h _).trans (by rw [hfull]; rfl)

theorem drain_completes {s : State} {c : Nat} {f : DrainF} (h : Issues s c (.drain f)) (hlen : (coreAt s c).drainQ.length < 4)
    (hord : unordered (coreAt s c) (some .drain) (wheySpan s (drainOp s c f)) (drainSpans s (drainOp s c f)) = none) :
    Completes (.drain c f) s fun t =>
      NextInstr s t c ∧ (coreAt t c).drainQ = (coreAt s c).drainQ ++ [.drain (drainOp s c f)]
        ∧ t = { s with cores := t.cores, free := t.free } := by
  obtain ⟨a, ha⟩ := issueDrain_ok hlen hord
  obtain ⟨l, hl⟩ := coreAt_enqueued s c a fun x => { x with drainQ := x.drainQ ++ [.drain (drainOp s c f)] }
  refine ⟨_, (tileOut_issues h _).trans (by rw [ha]; rfl), nextInstr_enqueued h a fun x => ⟨_, _, rfl⟩, ?_, enqueued_eq ..⟩
  rw [hl]

theorem drain_waits {s : State} {c : Nat} {f : DrainF} (h : Issues s c (.drain f)) (hlen : 4 ≤ (coreAt s c).drainQ.length) :
    Waits (.drain c f) s := by
  have hfull : issueDrain s c f = .ok s := by rw [issueDrain, if_neg (by omega)]
  exact (tileOut_issues h _).trans (by rw [hfull]; rfl)

/-! ### SRAM reads (R210, R212) -/

theorem checkSram_keep {β : Type} (g : State → β) (h : ∀ s c w src, g (checkSramWord s c w src).2 = g s) (s : State)
    (c off n src : Nat) : g (checkSram s c off n src).2 = g s := by
  unfold checkSram
  generalize wordsOf 16 off n = l
  suffices ∀ p : Option Nat × State, g (l.foldl (fun p w =>
      let r := checkSramWord p.2 c w src
      (if r.1 && p.1.isNone then some w else p.1, r.2)) p).2 = g p.2 from this (none, s)
  induction l with
  | nil => exact fun _ => rfl
  | cons w l ih => exact fun p => (ih _).trans (h p.2 c w src)

theorem readSram_keep {β : Type} (g : State → β) (hw : ∀ s c w src, g (checkSramWord s c w src).2 = g s)
    (hb : ∀ s, g (bump s) = g s) (hd : ∀ s k u a, g (detectUe s k u a) = g s) (s : State) (c off n src : Nat) :
    g (readSram s c off n src).2.2 = g s := by
  have hck := checkSram_keep g hw s c off n src
  unfold readSram
  dsimp only
  split
  · exact (hb _).trans hck
  · exact (hd _ _ _ _).trans ((hb _).trans hck)

@[simp] theorem readSram_cores (s : State) (c off n src : Nat) : (readSram s c off n src).2.2.cores = s.cores :=
  readSram_keep (·.cores) checkSramWord_cores bump_cores detectUe_cores s c off n src

@[simp] theorem readSram_wq (s : State) (c off n src : Nat) : (readSram s c off n src).2.2.wq = s.wq :=
  readSram_keep (·.wq) checkSramWord_wq bump_wq detectUe_wq s c off n src

theorem touchSpans_keep {β : Type} (g : State → β) (hr : ∀ s c off n src, g (readSram s c off n src).2.2 = g s) (s : State)
    (c : Nat) (l : List (Nat × Nat)) : g (touchSpans s c l) = g s :=
  foldl_keep g (fun s (r : Nat × Nat) => (readSram s c r.1 r.2 0).2.2) (fun s r => hr s c r.1 r.2 0) l s

@[simp] theorem touchSpans_cores (s : State) (c : Nat) (l : List (Nat × Nat)) : (touchSpans s c l).cores = s.cores :=
  touchSpans_keep (·.cores) readSram_cores s c l

@[simp] theorem touchSpans_wq (s : State) (c : Nat) (l : List (Nat × Nat)) : (touchSpans s c l).wq = s.wq :=
  touchSpans_keep (·.wq) readSram_wq s c l

/-! ### TDESC and TADJ (R112, R114) -/

theorem treg_eq_of_find {s : State} {c n : Nat} {d : TileDesc} (h : FMap.find (coreAt s c).tregs n = some d) : treg s c n = d := by
  unfold treg FMap.getD; rw [h]; rfl

/-- A tile register is written and the next instruction follows. -/
theorem putTreg_spec {s u : State} (hcores : u.cores = s.cores) (c n : Nat) (d : TileDesc) :
    let t := nextPc (updCore u c fun x => { x with tregs := FMap.set x.tregs n d }) c
    FMap.find (coreAt t c).tregs n = some d ∧ (coreAt t c).pc = ((coreAt s c).pc + 8) % 2 ^ 64
      ∧ (coreAt t c).sregs = (coreAt s c).sregs ∧ OtherCores s t c
      ∧ ∀ m, m ≠ n → FMap.find (coreAt t c).tregs m = FMap.find (coreAt s c).tregs m := by
  intro t
  have ht : coreAt t c = { coreAt s c with
      pc := ((coreAt s c).pc + 8) % 2 ^ 64, tregs := FMap.set (coreAt s c).tregs n d } := by
    unfold t nextPc
    rw [coreAt_updCore_same, coreAt_updCore_same, coreAt_congr hcores]
  refine ⟨by rw [ht]; exact FMap.find_set_same .., by rw [ht], by rw [ht], ?_, fun m hm => ?_⟩
  · exact ((otherCores_of_cores hcores c).after_updCore _).after_updCore _
  · rw [ht]; exact FMap.find_set_ne _ _ hm

theorem tdesc_completes {s : State} {c : Nat} {f : TdescF} (h : Issues s c (.tdesc f))
    (hin : add64 (sval s c f.a) (immExt f.imm) + 32 ≤ 0x800000) (hal : add64 (sval s c f.a) (immExt f.imm) % 32 = 0)
    (hord : unordered (coreAt s c) none [(add64 (sval s c f.a) (immExt f.imm), 32)] [] = none) :
    Completes (.tdesc c f) s fun t =>
      treg t c f.t = parseDesc (readSram s c (add64 (sval s c f.a) (immExt f.imm)) 32 0).1
        ∧ (coreAt t c).pc = ((coreAt s c).pc + 8) % 2 ^ 64 ∧ (coreAt t c).sregs = (coreAt s c).sregs ∧ OtherCores s t c
        ∧ (∀ n, n ≠ f.t → FMap.find (coreAt t c).tregs n = FMap.find (coreAt s c).tregs n) := by
  obtain ⟨hreg, hrest⟩ := putTreg_spec (readSram_cores s c (add64 (sval s c f.a) (immExt f.imm)) 32 0) c f.t
    (parseDesc (readSram s c (add64 (sval s c f.a) (immExt f.imm)) 32 0).1)
  refine ⟨_, (tileOut_issues h _).trans ?_, treg_eq_of_find hreg, hrest⟩
  unfold loadDesc ownAccess
  dsimp only
  rw [if_neg (by omega), if_neg (by omega), hord]
  rfl

theorem tdesc_beyond {s : State} {c : Nat} {f : TdescF} (h : Issues s c (.tdesc f))
    (hout : 0x800000 < add64 (sval s c f.a) (immExt f.imm) + 32) : Undefined (.tdesc c f) s 17 := by
  have herr : loadDesc s c f = .error (.undefinedCase 17) := by unfold loadDesc; dsimp only; rw [if_pos hout]
  exact (tileOut_issues h _).trans (by rw [herr]; rfl)

theorem tdesc_misaligned {s : State} {c : Nat} {f : TdescF} (h : Issues s c (.tdesc f))
    (hin : add64 (sval s c f.a) (immExt f.imm) + 32 ≤ 0x800000) (hal : add64 (sval s c f.a) (immExt f.imm) % 32 ≠ 0) :
    Undefined (.tdesc c f) s 1 := by
  have herr : loadDesc s c f = .error (.undefinedCase 1) := by
    unfold loadDesc; dsimp only; rw [if_neg (by omega), if_pos hal]
  exact (tileOut_issues h _).trans (by rw [herr]; rfl)

theorem tadj_completes {s : State} {c : Nat} {f : TadjF} (h : Issues s c (.tadj f)) :
    Completes (.tadj c f) s fun t =>
      treg t c f.t = { treg s c f.t with
          base := ((treg s c f.t).base + sval s c f.a) % 2 ^ 32, sbase := ((treg s c f.t).sbase + sval s c f.b) % 2 ^ 32 }
        ∧ (coreAt t c).pc = ((coreAt s c).pc + 8) % 2 ^ 64 ∧ (coreAt t c).sregs = (coreAt s c).sregs ∧ OtherCores s t c
        ∧ t = { s with cores := t.cores, free := t.free } := by
  obtain ⟨hreg, hpc, hsregs, hother, -⟩ := putTreg_spec (s := s) rfl c f.t { treg s c f.t with
    base := ((treg s c f.t).base + sval s c f.a) % 2 ^ 32, sbase := ((treg s c f.t).sbase + sval s c f.b) % 2 ^ 32 }
  exact ⟨bump (adjustDesc s c f), tileOut_issues h _, treg_eq_of_find hreg, hpc, hsregs, hother, rfl⟩

/-! ### What an operation on the churn tile changes (R46 to R57, R88) -/

/-- From `s` to `t` nothing but the churn tile of core `c` changed: its entries, what is kept and counted of it, and registers. -/
structure ChurnOnly (s t : State) (c : Nat) : Prop where
  state : ∃ cores regs free, t = { s with cores, regs, free }
  core : ∃ churn kblocks tiles toClear, coreAt t c = { coreAt s c with churn, kblocks, tiles, toClear }
  others : OtherCores s t c

theorem churnOnly_regs (s : State) (regs : FMap (BitVec 64)) (free c : Nat) : ChurnOnly s { s with regs, free } c :=
  ⟨⟨_, _, _, rfl⟩, ⟨_, _, _, _, rfl⟩, fun _ _ => rfl⟩

theorem churnOnly_updCore (s : State) {c : Nat} {f : CoreSt → CoreSt}
    (h : ∃ churn kblocks tiles toClear, f (coreAt s c) = { coreAt s c with churn, kblocks, tiles, toClear }) :
    ChurnOnly s (updCore s c f) c :=
  ⟨⟨_, _, _, rfl⟩, by rw [coreAt_updCore_same]; exact h, otherCores_updCore s c f⟩

theorem ChurnOnly.refl (s : State) (c : Nat) : ChurnOnly s s c := churnOnly_regs s s.regs s.free c

theorem ChurnOnly.trans {s t u : State} {c : Nat} (h : ChurnOnly s t c) (h' : ChurnOnly t u c) : ChurnOnly s u c := by
  obtain ⟨⟨_, _, _, rfl⟩, ⟨_, _, _, _, hcore⟩, hothers⟩ := h
  obtain ⟨⟨_, _, _, rfl⟩, ⟨_, _, _, _, hcore'⟩, hothers'⟩ := h'
  exact ⟨⟨_, _, _, rfl⟩, ⟨_, _, _, _, hcore'.trans (by rw [hcore])⟩, hothers.trans hothers'⟩

theorem ChurnOnly.foldl {α : Type} {f : State → α → State} {c : Nat} (h : ∀ s a, ChurnOnly s (f s a) c) (l : List α)
    (s : State) : ChurnOnly s (l.foldl f s) c := by
  induction l generalizing s with
  | nil => exact .refl s c
  | cons a l ih => exact (h s a).trans (ih _)

theorem ChurnOnly.ite {s t u : State} {c : Nat} {p : Prop} [Decidable p] (h : ChurnOnly s t c) (h' : ChurnOnly s u c) :
    ChurnOnly s (if p then t else u) c := by
  split
  · exact h
  · exact h'

theorem churnOnly_count (s : State) (a n c : Nat) : ChurnOnly s (count s a n) c := churnOnly_regs s _ _ c

theorem churnOnly_setTileFlag (s : State) (c i : Nat) : ChurnOnly s (setTileFlag s c i) c := churnOnly_regs s _ _ c

theorem churnOnly_coreEvent (s : State) (c code n d : Nat) : ChurnOnly s (coreEvent s c code n) d :=
  .foldl (fun s _ => .ite (churnOnly_count s _ _ d) (.refl s d)) _ s

theorem churnOnly_setTileFlags (s : State) (c i n : Nat) :
    ChurnOnly s ((List.range n).foldl (fun s _ => setTileFlag s c i) s) c :=
  .foldl (fun s _ => churnOnly_setTileFlag s c i) _ s

theorem churnOnly_underspill (s : State) (c n : Nat) : ChurnOnly s (underspill s c n) c := by
  refine .ite (.refl s c) ?_
  refine (churnOnly_count s (coreReg c 0x210) n c).trans <| (churnOnly_coreEvent _ c 0x06 n c).trans <|
    (churnOnly_setTileFlags _ c fUnderspill n).trans ?_
  exact .ite (churnOnly_setTileFlags _ c fFcrange n) (.refl _ c)

theorem churnOnly_putEnt (s : State) (c k : Nat) (e : Entry) : ChurnOnly s (putEnt s c k e) c :=
  churnOnly_updCore s ⟨_, _, _, _, rfl⟩

theorem churnOnly_putAcc (s : State) (c : Nat) (fc : Bool) (i j : Nat) (a : Acc) : ChurnOnly s (putAcc s c fc i j a) c :=
  .ite ((churnOnly_putEnt s c _ _).trans <| (churnOnly_putEnt _ c _ _).trans <|
      (churnOnly_putEnt _ c _ _).trans (churnOnly_putEnt _ c _ _))
    (churnOnly_putEnt s c _ _)

theorem churnOnly_addNonFinite (s : State) (c : Nat) (fc : Bool) (i j n : Nat) : ChurnOnly s (addNonFinite s c fc i j n) c :=
  (churnOnly_putAcc s c fc i j _).trans (churnOnly_setTileFlags _ c fOverflow n)

theorem churnOnly_addFields (s : State) (c : Nat) (fc : Bool) (i j : Nat) (fields weights : List Int) :
    ChurnOnly s (addFields s c fc i j fields weights) c := by
  have hsum : ∀ (a : Acc) n, ChurnOnly s (underspill (putAcc s c fc i j a) c n) c := fun a n =>
    (churnOnly_putAcc s c fc i j a).trans (churnOnly_underspill _ c n)
  refine .ite (hsum _ _) (.ite ?_ ?_)
  · exact (hsum _ _).trans ((churnOnly_setTileFlag _ c fOverflow).trans (churnOnly_setTileFlag _ c fFcrange))
  · exact (hsum _ _).trans (churnOnly_setTileFlag _ c fOverflow)

theorem churnOnly_addPass (s : State) (c : Nat) (fc sb4 : Bool) (i j : Nat) (p : Pass) (a b : KLine) (fields : List Int) :
    ChurnOnly s (addPass s c fc sb4 i j p a b fields) c :=
  .ite (churnOnly_addNonFinite s c fc i j _) (churnOnly_addFields s c fc i j fields _)

theorem churnOnly_addBuffer (s : State) (c i j : Nat) (o : FeedOp) (n : Nat) (fields : List Int) :
    ChurnOnly s (addBuffer s c i j o n fields) c := by
  unfold addBuffer
  split
  · exact .refl s c
  · split
    · exact .refl s c
    · exact churnOnly_addPass s c _ _ i j _ _ _ fields

theorem churnOnly_settleClears (s : State) (c : Nat) : ChurnOnly s (settleClears s c) c := by
  unfold settleClears
  exact (ChurnOnly.foldl (fun s (e : Nat × Nat) => churnOnly_putEnt s c e.1 ⟨0, false, false⟩) _ s).trans
    (churnOnly_updCore _ ⟨_, _, _, _, rfl⟩)

theorem churnOnly_keepTile (s : State) (c seq : Nat) : ChurnOnly s (keepTile s c seq) c := by
  refine churnOnly_updCore s ?_
  split
  · exact ⟨_, _, _, _, rfl⟩
  · exact ⟨_, _, _, _, rfl⟩

theorem churnOnly_clearTile (s : State) (c : Nat) (o : FeedOp) (rows cols : List Nat) (ps : List Pass) :
    ChurnOnly s (clearTile s c o rows cols ps) c :=
  (churnOnly_keepTile s c o.seq).trans <| (churnOnly_regs _ _ _ c).trans <|
    (churnOnly_updCore _ ⟨_, _, _, _, rfl⟩).trans (churnOnly_settleClears _ c)

theorem churnOnly_addBlocks (s : State) (c : Nat) (fc : Bool) (n : Nat) : ChurnOnly s (addBlocks s c fc n) c :=
  have h := churnOnly_updCore s (f := fun x => { x with kblocks := x.kblocks + n }) ⟨_, _, _, _, rfl⟩
  .ite (h.trans (churnOnly_setTileFlag _ c fFcrange)) h

/-! ### FEED_START (R40, R45, R48, R51, R56) -/

theorem coreAt_feedDone (s : State) (c : Nat) : coreAt (feedDone s c) c = { coreAt s c with feedRun := none, cells := [] } :=
  (coreAt_congr (coreEvent_cores _ c 0x07 1) c).trans (coreAt_updCore_same _ c _)

theorem otherCores_feedDone (s : State) (c : Nat) : OtherCores s (feedDone s c) c :=
  (otherCores_updCore (setGov s c { govAt s c with fed := nowNs s }) c _).trans
    (otherCores_of_cores (coreEvent_cores _ c 0x07 1) c)

@[simp] theorem feedDone_wq (s : State) (c : Nat) : (feedDone s c).wq = s.wq := coreEvent_wq _ c 0x07 1

/-- The state in which a FEED has left the queue and its tile is ready, before it becomes the running one. -/
def feedReady (s : State) (c : Nat) (o : FeedOp) (ups : List (Nat × Upset)) (ps : List Pass) : State :=
  let s0 := upsetSram (updCore s c fun x => { x with feedQ := x.feedQ.drop 1 }) c ups
  let s1 := touchSpans s0 c (feedSpans (feedMode s c o) o)
  bump (addBlocks (if o.accumulate then s1 else clearTile s1 c o (feedRows o) (feedCols (feedMode s c o) o) ps) c (feedMode s c o)
    (feedBlocks o))

theorem feedReady_spec (s : State) (c : Nat) (o : FeedOp) (ups : List (Nat × Upset)) (ps : List Pass) :
    (coreAt (feedReady s c o ups ps) c).feedQ = (coreAt s c).feedQ.drop 1 ∧ OtherCores s (feedReady s c o ups ps) c
      ∧ (feedReady s c o ups ps).wq = s.wq := by
  unfold feedReady
  dsimp only
  generalize hs0 : upsetSram (updCore s c fun x => { x with feedQ := x.feedQ.drop 1 }) c ups = s0
  generalize hs1 : touchSpans s0 c _ = s1
  have hcores : s1.cores = (updCore s c fun x => { x with feedQ := x.feedQ.drop 1 }).cores := by
    rw [← hs1, touchSpans_cores, ← hs0]; rfl
  have hwq : s1.wq = s.wq := by rw [← hs1, touchSpans_wq, ← hs0]; rfl
  have htile : ChurnOnly s1 (addBlocks (if o.accumulate then s1 else
      clearTile s1 c o (feedRows o) (feedCols (feedMode s c o) o) ps) c (feedMode s c o) (feedBlocks o)) c :=
    ChurnOnly.trans (.ite (.refl s1 c) (churnOnly_clearTile s1 c o _ _ ps)) (churnOnly_addBlocks _ c _ _)
  obtain ⟨⟨_, _, _, hstate⟩, ⟨_, _, _, _, hcore⟩, hothers⟩ := htile
  refine ⟨?_, ?_, ?_⟩
  · rw [coreAt_bump, hcore, coreAt_congr hcores, coreAt_updCore_same]
  · exact (((otherCores_updCore s c _).trans (otherCores_of_cores hcores c)).trans hothers).after_bump
  · rw [bump_wq, hstate]; exact hwq

theorem startFeed_ok {s : State} {c : Nat} {o : FeedOp} {ups : List (Nat × Upset)} {ps : List Pass}
    (ha : fmtOperand o.a.fmt = true) (hb : fmtOperand o.b.fmt = true) (hok : feedOk o = true) (hps : feedPasses o = some ps) :
    startFeed s c o ups = .ok
      (let n := feedBlocks o * ps.length
       let u := updCore (feedReady s c o ups ps) c fun x => { x with feedRun := some ⟨o, n⟩, cells := [] }
       if n = 0 ∨ (feedRows o).isEmpty ∨ (feedCols (feedMode s c o) o).isEmpty then feedDone u c else u) := by
  unfold startFeed
  rw [ha, hb, hok, hps]
  rfl

/-- FEED_START of the next FEED is what `startFeed` answers. -/
theorem exec_feedStart {s : State} {c : Nat} {ups : List (Nat × Upset)} {o : FeedOp} (hp : powered s = true)
    (hnext : nextFeed s c = some o) : exec (.feedStart c ups) s = toOut s (startFeed s c o ups) := by
  refine (actE_pos hp (by rw [hnext]; rfl)).trans ?_
  rw [hnext]

theorem feedStart_completes {s : State} {c : Nat} {ups : List (Nat × Upset)} {o : FeedOp} {ps : List Pass} (hp : powered s = true)
    (hnext : nextFeed s c = some o) (ha : fmtOperand o.a.fmt = true) (hb : fmtOperand o.b.fmt = true) (hok : feedOk o = true)
    (hps : feedPasses o = some ps) :
    Completes (.feedStart c ups) s fun t =>
      (coreAt t c).feedQ = (coreAt s c).feedQ.drop 1 ∧ OtherCores s t c ∧ t.wq = s.wq
        ∧ (coreAt t c).feedRun
          = (if feedBlocks o * ps.length = 0 ∨ feedRows o = [] ∨ feedCols (feedMode s c o) o = [] then none
             else some ⟨o, feedBlocks o * ps.length⟩) := by
  obtain ⟨hqueue, hothers, hwq⟩ := feedReady_spec s c o ups ps
  refine ⟨_, (exec_feedStart hp hnext).trans (by rw [startFeed_ok ha hb hok hps]; rfl), ?_⟩
  simp only [List.isEmpty_iff]
  have hrun := hothers.trans (otherCores_updCore (feedReady s c o ups ps) c fun x =>
    { x with feedRun := some ⟨o, feedBlocks o * ps.length⟩, cells := [] })
  split
  · rw [coreAt_feedDone, coreAt_updCore_same]
    exact ⟨hqueue, hrun.trans (otherCores_feedDone _ c), (feedDone_wq _ c).trans hwq, rfl⟩
  · rw [coreAt_updCore_same]
    exact ⟨hqueue, hrun, hwq, rfl⟩

theorem feedStart_reservedFormat {s : State} {c : Nat} {ups : List (Nat × Upset)} {o : FeedOp} (hp : powered s = true)
    (hnext : nextFeed s c = some o) (h : fmtOperand o.a.fmt = false ∨ fmtOperand o.b.fmt = false) :
    Undefined (.feedStart c ups) s 10 := by
  refine (exec_feedStart hp hnext).trans ?_
  unfold startFeed
  rw [if_pos (by simpa using h)]
  rfl

theorem feedStart_beyondLimits {s : State} {c : Nat} {ups : List (Nat × Upset)} {o : FeedOp} (hp : powered s = true)
    (hnext : nextFeed s c = some o) (ha : fmtOperand o.a.fmt = true) (hb : fmtOperand o.b.fmt = true) (hok : feedOk o = false) :
    Undefined (.feedStart c ups) s 18 := by
  refine (exec_feedStart hp hnext).trans ?_
  unfold startFeed
  rw [ha, hb, hok]
  rfl

theorem feedStart_withoutPlan {s : State} {c : Nat} {ups : List (Nat × Upset)} {o : FeedOp} (hp : powered s = true)
    (hnext : nextFeed s c = some o) (ha : fmtOperand o.a.fmt = true) (hb : fmtOperand o.b.fmt = true) (hok : feedOk o = true)
    (hps : feedPasses o = none) : Undefined (.feedStart c ups) s 11 := by
  refine (exec_feedStart hp hnext).trans ?_
  unfold startFeed
  rw [ha, hb, hok, hps]
  rfl

theorem feedStart_waits {s : State} {c : Nat} {ups : List (Nat × Upset)} (hnext : nextFeed s c = none) :
    Waits (.feedStart c ups) s := actE_neg (by rw [hnext]; rfl)

/-- Settles O39, instruction by instruction, with what the readiness of a FEED's tile keeps. -/
theorem feedIssue : Obligations.FeedIssue :=
  ⟨fun _ _ _ h hin hal hord => tdesc_completes h hin hal hord,
    fun _ _ _ h => ⟨tdesc_beyond h, tdesc_misaligned h⟩,
    fun _ _ _ h => tadj_completes h,
    fun _ _ _ h => ⟨feed_completes h, feed_waits h⟩,
    fun _ _ _ _ hp hnext => ⟨fun _ => feedStart_completes hp hnext, feedStart_reservedFormat hp hnext,
      feedStart_beyondLimits hp hnext, feedStart_withoutPlan hp hnext⟩,
    fun _ _ _ => feedStart_waits⟩

/-! ### PASS_BLOCK_CLOSE (R34 to R36, R43) -/

theorem cellAt_of_find {x : CoreSt} {i j : Nat} {e : Cell} (h : FMap.find x.cells (128 * i + j) = some e) : cellAt x i j = e := by
  unfold cellAt FMap.getD; rw [h]; rfl

/-- The slots of a pass block that go out are counted, and nothing else changes. -/
theorem countSlots_spec (s : State) (c : Nat) (r : FeedRun) (n : Nat) :
    countSlots s c r n = { s with regs := (countSlots s c r n).regs } ∧ RegsKept s (countSlots s c r n) [coreCtr c 1] := by
  unfold countSlots
  split
  · exact ⟨rfl, fun _ _ => rfl⟩
  · exact ⟨rfl, fun _ ha => regGet_count_ne s _ (List.ne_of_not_mem_cons ha)⟩

theorem passBlockClose_completes {s : State} {c i j : Nat} {r : FeedRun} (hp : powered s = true)
    (hrun : (coreAt s c).feedRun = some r) (hready : blockReady s c i j = true) :
    Completes (.passBlockClose c i j) s fun t =>
      cellAt (coreAt t c) i j
          = { setBuf (cellAt (coreAt s c) i j) (cellAt (coreAt s c) i j).closed
                (some (toPartial (cellFields s c r.op i j (cellAt (coreAt s c) i j).closed))) with
              closed := (cellAt (coreAt s c) i j).closed + 1 }
        ∧ (∀ k, k ≠ 128 * i + j → FMap.find (coreAt t c).cells k = FMap.find (coreAt s c).cells k)
        ∧ OtherCores s t c ∧ (coreAt t c).churn = (coreAt s c).churn ∧ RegsKept s t [coreCtr c 1]
        ∧ t = { s with cores := t.cores, regs := t.regs, free := t.free } := by
  refine ⟨closeBlock s c i j r, (act_pos hp hready).trans (by rw [hrun]), ?_⟩
  unfold closeBlock
  dsimp only
  obtain ⟨hstate, hregs⟩ := countSlots_spec s c r (cellAt (coreAt s c) i j).closed
  generalize countSlots s c r (cellAt (coreAt s c) i j).closed = u at hstate hregs
  have hcores : u.cores = s.cores := by rw [hstate]
  rw [coreAt_bump, coreAt_updCore_same, coreAt_congr hcores]
  refine ⟨cellAt_of_find (FMap.find_set_same ..), fun k hk => FMap.find_set_ne _ _ hk, ?_, rfl, hregs, ?_⟩
  · exact ((otherCores_of_cores hcores c).after_updCore _).after_bump
  · rw [hstate]; rfl

theorem passBlockClose_waits {s : State} {c i j : Nat} (h : blockReady s c i j = false) : Waits (.passBlockClose c i j) s :=
  act_neg h

/-! ### CHURN_LANE_READ (R46, R49, R56, R76) -/

theorem exec_churnLaneRead {s : State} {c i j : Nat} {r : FeedRun} {b : Partial} (hrun : (coreAt s c).feedRun = some r)
    (hbuf : laneBuf (coreAt s c) i j = some b) :
    exec (.churnLaneRead c i j) s
      = act s (!accHeld s c r.op.seq (feedMode s c r.op) i j) (readLane s c i j r b) := by
  change execChurnLaneRead c i j s = _
  unfold execChurnLaneRead
  rw [hrun, hbuf]

theorem churnLaneRead_held {s : State} {c i j : Nat} {r : FeedRun} {b : Partial} (hrun : (coreAt s c).feedRun = some r)
    (hbuf : laneBuf (coreAt s c) i j = some b) (hheld : accHeld s c r.op.seq (feedMode s c r.op) i j = true) :
    Waits (.churnLaneRead c i j) s :=
  (exec_churnLaneRead hrun hbuf).trans (act_neg (by rw [hheld]; rfl))

theorem churnLaneRead_empty {s : State} {c i j : Nat} (hbuf : laneBuf (coreAt s c) i j = none) :
    Waits (.churnLaneRead c i j) s := by
  change execChurnLaneRead c i j s = _
  unfold execChurnLaneRead
  rw [hbuf]
  cases (coreAt s c).feedRun <;> rfl

theorem govAt_setGov_same (s : State) (c : Nat) (x : GovCore) : govAt (setGov s c x) c = x := FMap.getD_set_same ..

theorem govAt_setGov_ne (s : State) {c d : Nat} (x : GovCore) (h : d ≠ c) : govAt (setGov s c x) d = govAt s d :=
  FMap.getD_set_ne _ _ _ h

/-- The end of a FEED touches its core, the time of its core's last FEED and counters. -/
theorem feedDone_state (s : State) (c : Nat) :
    ∃ cores regs free, feedDone s c = { setGov s c { govAt s c with fed := nowNs s } with cores, regs, free } := by
  obtain ⟨⟨_, _, _, h⟩, -, -⟩ := churnOnly_coreEvent
    (updCore (setGov s c { govAt s c with fed := nowNs s }) c fun x => { x with feedRun := none, cells := [] }) c 0x07 1 c
  exact ⟨_, _, _, h⟩

/-- The state in which a lane has taken a cell's buffer, before the FEED may end. -/
def laneTaken (s : State) (c i j : Nat) (r : FeedRun) (b : Partial) : State :=
  let e := cellAt (coreAt s c) i j
  updCore (bump (addBuffer s c i j r.op e.done (partialFields (feedSb4 r.op) b))) c fun x =>
    { x with cells := FMap.set x.cells (128 * i + j) { setBuf e e.done none with done := e.done + 1 } }

theorem readLane_eq (s : State) (c i j : Nat) (r : FeedRun) (b : Partial) :
    readLane s c i j r b
      = if feedRead (laneTaken s c i j r b) c r then feedDone (laneTaken s c i j r b) c else laneTaken s c i j r b := rfl

theorem laneTaken_spec (s : State) (c i j : Nat) (r : FeedRun) (b : Partial) :
    (∃ cores regs free, laneTaken s c i j r b = { s with cores, regs, free })
      ∧ OtherCores s (laneTaken s c i j r b) c ∧ (coreAt (laneTaken s c i j r b) c).feedRun = (coreAt s c).feedRun
      ∧ cellAt (coreAt (laneTaken s c i j r b) c) i j
          = { setBuf (cellAt (coreAt s c) i j) (cellAt (coreAt s c) i j).done none with
              done := (cellAt (coreAt s c) i j).done + 1 } := by
  unfold laneTaken
  dsimp only
  obtain ⟨⟨cores, regs, free, hstate⟩, ⟨_, _, _, _, hcore⟩, hothers⟩ := churnOnly_addBuffer s c i j r.op
    (cellAt (coreAt s c) i j).done (partialFields (feedSb4 r.op) b)
  generalize addBuffer s c i j r.op _ _ = u at hstate hcore hothers
  refine ⟨by rw [hstate]; exact ⟨_, _, _, rfl⟩, ?_, ?_, ?_⟩
  · exact hothers.after_bump.after_updCore _
  · rw [coreAt_updCore_same, coreAt_bump, hcore]
  · rw [coreAt_updCore_same]; exact cellAt_of_find (FMap.find_set_same ..)

theorem churnLaneRead_completes {s : State} {c i j : Nat} {r : FeedRun} {b : Partial} (hp : powered s = true)
    (hrun : (coreAt s c).feedRun = some r) (hbuf : laneBuf (coreAt s c) i j = some b)
    (hfree : accHeld s c r.op.seq (feedMode s c r.op) i j = false) :
    Completes (.churnLaneRead c i j) s fun t =>
      OtherCores s t c ∧ (∀ d, d ≠ c → govAt t d = govAt s d)
        ∧ t = { s with cores := t.cores, regs := t.regs, free := t.free, power := { s.power with gov := t.power.gov } }
        ∧ (((coreAt t c).feedRun = some r ∧ t.power = s.power
              ∧ cellAt (coreAt t c) i j
                = { setBuf (cellAt (coreAt s c) i j) (cellAt (coreAt s c) i j).done none with
                    done := (cellAt (coreAt s c) i j).done + 1 })
            ∨ ((coreAt t c).feedRun = none ∧ (coreAt t c).cells = [] ∧ govAt t c = { govAt s c with fed := nowNs s })) := by
  refine ⟨readLane s c i j r b, (exec_churnLaneRead hrun hbuf).trans (act_pos hp (by rw [hfree]; rfl)), ?_⟩
  rw [readLane_eq]
  obtain ⟨⟨cores, regs, free, hstate⟩, hothers, hfeed, hcell⟩ := laneTaken_spec s c i j r b
  generalize laneTaken s c i j r b = u at hstate hothers hfeed hcell
  have hgov : ∀ d, govAt u d = govAt s d := fun d => by rw [hstate]; rfl
  split
  · obtain ⟨_, _, _, hdone⟩ := feedDone_state u c
    have hgovDone : ∀ d, govAt (feedDone u c) d = govAt (setGov u c { govAt u c with fed := nowNs u }) d := fun d => by
      rw [hdone]; rfl
    refine ⟨hothers.trans (otherCores_feedDone u c), fun d hd => ?_, ?_, .inr ⟨?_, ?_, ?_⟩⟩
    · rw [hgovDone, govAt_setGov_ne u _ hd, hgov]
    · rw [hdone, hstate]; rfl
    · rw [coreAt_feedDone]
    · rw [coreAt_feedDone]
    · rw [hgovDone, govAt_setGov_same, hgov, hstate]; rfl
  · exact ⟨hothers, fun d _ => hgov d, by rw [hstate], .inl ⟨hfeed.trans hrun, by rw [hstate], hcell⟩⟩

/-- NAN of a standard tile's accumulator reads as it was written. -/
theorem accAt_putAcc_nan (s : State) (c i j : Nat) (a : Acc) : (accAt (putAcc s c false i j a) c false i j).nan = a.nan := by
  have hent : entryAt (putAcc s c false i j a) c (128 * i + j) = ⟨BitVec.ofNat 128 (unsigned 128 a.v), a.ovf, a.nan⟩ := by
    unfold entryAt putAcc putEnt
    rw [if_neg Bool.false_ne_true, coreAt_updCore_same]
    exact FMap.getD_set_same ..
  unfold accAt
  rw [if_neg Bool.false_ne_true, hent]

theorem accAt_congr {s t : State} (hcores : t.cores = s.cores) (hfree : t.free = s.free) (c : Nat) (fc : Bool) (i j : Nat) :
    accAt t c fc i j = accAt s c fc i j := by
  unfold accAt entryAt coreAt; rw [hcores, hfree]

theorem accAt_setTileFlag (s : State) (c n d : Nat) (fc : Bool) (i j : Nat) : accAt (setTileFlag s c n) d fc i j = accAt s d fc i j :=
  accAt_congr (event_cores ..) (event_free ..) d fc i j

/-- A non-finite line makes the accumulator NaN (R49, R76). -/
theorem addPass_bad_nan (s : State) (c i j : Nat) (p : Pass) (a b : KLine) (fields : List Int) (sb4 : Bool)
    (h : a.bad = true ∨ b.bad = true) : (accAt (addPass s c false sb4 i j p a b fields) c false i j).nan = true := by
  unfold addPass addNonFinite
  rw [if_pos (by simpa using h)]
  have hflags : ∀ (u : State) n, accAt ((List.range n).foldl (fun s _ => setTileFlag s c fOverflow) u) c false i j
      = accAt u c false i j := fun u n => foldl_keep (accAt · c false i j) _ (fun s _ => accAt_setTileFlag s c ..) _ u
  rw [hflags]
  exact accAt_putAcc_nan ..

/-! ### What a unit's access to its core's SRAM changes (R104, R204, R212) -/

theorem SameWork.of_wq {s t : State} (h : t.wq = s.wq) : SameWork s t := by
  have hq : ∀ q, queueAt t q = queueAt s q := fun q => by unfold queueAt; rw [h]
  exact ⟨by rw [h], fun q => by rw [hq]; exact ⟨rfl, rfl⟩⟩

theorem SameWork.trans {s t u : State} (h : SameWork s t) (h' : SameWork t u) : SameWork s u := by
  obtain ⟨hwq, hq⟩ := h
  obtain ⟨hwq', hq'⟩ := h'
  refine ⟨by rw [hwq', hwq], fun q => ⟨?_, (hq' q).2.trans (hq q).2⟩⟩
  rw [(hq' q).1, (hq q).1]

/-- Outputs that an item notes leave the work as it is. -/
theorem sameWork_updItem_outs (s : State) (q idx : Nat) (l : List (Nat × Nat)) :
    SameWork s (updItem s q idx fun i => { i with outs := i.outs ++ l }) := by
  refine ⟨rfl, fun p => ?_⟩
  by_cases hp : p = q
  · subst hp
    unfold updItem updQueue
    rw [queueAt_setQueue_same]
    refine ⟨rfl, ?_⟩
    rw [List.map_map]
    refine List.map_congr_left fun i _ => ?_
    simp only [Function.comp_apply]
    split <;> rfl
  · rw [otherQueues_updItem s q idx _ p hp]; exact ⟨rfl, rfl⟩

theorem sameWork_noteOut (s : State) (c k n : Nat) : SameWork s (noteOut s c k n) := by
  unfold noteOut
  split
  · exact sameWork_updItem_outs ..
  · exact .of_wq rfl

/-- From `s` to `t` a unit of core `c` worked on the core's SRAM: cores, the work of the queues, memory elsewhere and the format
of residuals are as before. -/
structure SramWork (s t : State) (c : Nat) : Prop where
  cores : t.cores = s.cores
  work : SameWork s t
  mem : ∀ k, (k < sramKey c 0 ∨ sramKey c 0x800000 ≤ k) → FMap.find t.mem k = FMap.find s.mem k
  whey : wheyBf t = wheyBf s

theorem SramWork.refl (s : State) (c : Nat) : SramWork s s c := ⟨rfl, .of_wq rfl, fun _ _ => rfl, rfl⟩

theorem SramWork.trans {s t u : State} {c : Nat} (h : SramWork s t c) (h' : SramWork t u c) : SramWork s u c :=
  ⟨h'.cores.trans h.cores, h.work.trans h'.work, fun k hk => (h'.mem k hk).trans (h.mem k hk), h'.whey.trans h.whey⟩

theorem SramWork.foldl {α : Type} {f : State → α → State} {c : Nat} {l : List α} (h : ∀ s, ∀ a ∈ l, SramWork s (f s a) c)
    (s : State) : SramWork s (l.foldl f s) c := by
  induction l generalizing s with
  | nil => exact .refl s c
  | cons a l ih => exact (h s a (by simp)).trans (ih (fun s b hb => h s b (by simp [hb])) _)

theorem SramWork.ite {s t u : State} {c : Nat} {p : Prop} [Decidable p] (h : SramWork s t c) (h' : SramWork s u c) :
    SramWork s (if p then t else u) c := by
  split
  · exact h
  · exact h'

theorem wheyBf_congr {s t : State} (h : regGet t (hubReg 0x40000) = regGet s (hubReg 0x40000)) : wheyBf t = wheyBf s := by
  unfold wheyBf; rw [h]

theorem hubReg_ne_slogReg (c : Nat) {off : Nat} (h : off < 0x80) : hubReg 0x40000 ≠ slogReg c off := by
  unfold hubReg slogReg rngReg sheafWin; omega

theorem hubReg_ne_coreCtr (c : Nat) {n : Nat} (h : n < 16) : hubReg 0x40000 ≠ coreCtr c n := by
  unfold hubReg coreCtr pmcReg sheafWin; omega

theorem regGet_logCorrected_ne (s : State) {a base n : Nat} (same : Nat → Bool) (entry : Nat) {ovf : Nat} (ob : Nat) {octr : Nat}
    (hlog : ∀ i < n, a ≠ base + 8 * i) (hovf : a ≠ ovf) (hctr : a ≠ octr) :
    regGet (logCorrected s base n same entry ovf ob octr) a = regGet s a := by
  have hlt : ∀ {p : Nat → Bool} {i}, firstIdx n p = some i → i < n := fun h => List.mem_range.1 (List.mem_of_find?_eq_some h)
  unfold logCorrected
  split
  · exact regGet_regSetFld_ne s _ _ _ (hlog _ (hlt ‹_›))
  · split
    · exact regGet_regSet_ne s _ (hlog _ (hlt ‹_›))
    · exact regGet_event_ne s ob hovf hctr

theorem wheyBf_sramCe (s : State) (c off bitNo src : Nat) : wheyBf (sramCe s c off bitNo src) = wheyBf s := by
  refine wheyBf_congr ((regGet_logCorrected_ne _ _ _ _ (fun i hi => ?_) ?_ ?_).trans (regGet_count_ne s 1 ?_))
  · unfold hubReg slogReg rngReg sheafWin; omega
  · exact hubReg_ne_slogReg c (by decide)
  · exact hubReg_ne_slogReg c (by decide)
  · exact hubReg_ne_slogReg c (by decide)

theorem sramWork_count (s : State) {a : Nat} (n c : Nat) (ha : hubReg 0x40000 ≠ a) : SramWork s (count s a n) c :=
  ⟨count_cores .., .of_wq (count_wq ..), fun _ _ => by rw [count_mem], wheyBf_congr (regGet_count_ne s n ha)⟩

theorem sramWork_coreEvent (s : State) (c code n d : Nat) : SramWork s (coreEvent s c code n) d := by
  refine SramWork.foldl (fun s k hk => ?_) s
  have hk : k < 12 := List.mem_range.1 hk
  exact .ite (sramWork_count s n d (hubReg_ne_coreCtr c (n := k + 4) (by omega))) (.refl s d)

/-- A code word that is checked lies in the core's SRAM. -/
theorem sramWork_checkSramWord (s : State) {c off : Nat} (src : Nat) (h : off + 16 ≤ 0x800000) :
    SramWork s (checkSramWord s c off src).2 c := by
  refine ⟨checkSramWord_cores .., .of_wq (checkSramWord_wq ..), fun k hk => ?_, ?_⟩
  · unfold checkSramWord
    split
    · rfl
    · rw [sramCe_mem]
    · rw [event_mem, find_eraseBytes, if_neg]
      unfold sramKey at hk ⊢
      omega
  · unfold checkSramWord
    split
    · rfl
    · exact wheyBf_sramCe ..
    · exact wheyBf_congr (regGet_event_ne _ 1 (hubReg_ne_slogReg c (by decide)) (hubReg_ne_slogReg c (by decide)))

theorem sramWork_detectUe (s : State) (sub stop addr c : Nat) : SramWork s (detectUe s sub stop addr) c :=
  ⟨rfl, .of_wq rfl, fun _ _ => rfl, rfl⟩

theorem sramWork_bump (s : State) (c : Nat) : SramWork s (bump s) c := ⟨rfl, .of_wq rfl, fun _ _ => rfl, rfl⟩

/-- The words that a range of SRAM touches lie in the SRAM when the range does. -/
theorem wordsOf_le {off n w : Nat} (hw : w ∈ wordsOf 16 off n) (h : off + n ≤ 0x800000) : w + 16 ≤ 0x800000 := by
  unfold wordsOf at hw
  split at hw
  · cases hw
  · obtain ⟨i, hi, rfl⟩ := List.mem_map.1 hw
    have := List.mem_range.1 hi
    omega

theorem sramWork_checkSram (s : State) {c off n : Nat} (src : Nat) (h : off + n ≤ 0x800000) :
    SramWork s (checkSram s c off n src).2 c := by
  have hle : ∀ w ∈ wordsOf 16 off n, w + 16 ≤ 0x800000 := fun _ hw => wordsOf_le hw h
  unfold checkSram
  generalize wordsOf 16 off n = l at hle
  suffices ∀ p : Option Nat × State, SramWork p.2 (l.foldl (fun p w =>
      let r := checkSramWord p.2 c w src
      (if r.1 && p.1.isNone then some w else p.1, r.2)) p).2 c from this (none, s)
  induction l with
  | nil => exact fun p => .refl p.2 c
  | cons w l ih =>
    intro p
    rw [List.foldl_cons]
    exact (sramWork_checkSramWord p.2 src (hle w (by simp))).trans (ih (fun v hv => hle v (by simp [hv])) (_, _))

theorem sramWork_readSram (s : State) {c off n : Nat} (src : Nat) (h : off + n ≤ 0x800000) :
    SramWork s (readSram s c off n src).2.2 c := by
  have hck := sramWork_checkSram s (c := c) src h
  unfold readSram
  dsimp only
  split
  · exact hck.trans (sramWork_bump _ c)
  · exact (hck.trans (sramWork_bump _ c)).trans (sramWork_detectUe ..)

theorem sramWork_touchSpans (s : State) {c : Nat} {l : List (Nat × Nat)} (h : ∀ r ∈ l, r.1 + r.2 ≤ 0x800000) :
    SramWork s (touchSpans s c l) c :=
  .foldl (fun s r hr => sramWork_readSram s 0 (h r hr)) s

theorem sramWork_coreStore (s : State) {c off : Nat} {bs : List Byte} (h : off + bs.length ≤ 0x800000) :
    SramWork s (coreStore s c off bs) c := by
  unfold coreStore
  dsimp only
  refine SramWork.trans (SramWork.foldl (fun s w hw => ?_) s)
    ⟨rfl, .of_wq rfl, fun k hk => find_storeBytes_out _ _ ?_, rfl⟩
  · have hck := sramWork_checkSramWord s (c := c) 0 (wordsOf_le (List.mem_filter.1 hw).1 h)
    exact .ite (hck.trans (sramWork_detectUe ..)) hck
  · unfold sramKey at hk ⊢; omega

theorem sramWork_coreOut (s : State) {c off : Nat} {bs : List Byte} (h : off + bs.length ≤ 0x800000) :
    SramWork s (coreOut s c off bs) c := by
  have hnote : ∀ u : State, SramWork u (noteOut u c (sramKey c off) bs.length) c := fun u => by
    refine ⟨?_, sameWork_noteOut .., fun k _ => ?_, ?_⟩
    all_goals unfold noteOut; split <;> rfl
  exact (sramWork_coreStore s h).trans (hnote _)

/-- A row of a tile is written: its codes and its scale bytes lie in the SRAM. -/
theorem sramWork_putRow (s : State) {c : Nat} {d : TileDesc} {l : Nat} {r : Row}
    (hcodes : ∀ pad, lineAt d false l + (packCodes (fmtBits d.fmt) r.codes pad).length ≤ 0x800000)
    (hscales : r.scales = [] ∨ scaleAt d false l 0 + r.scales.length ≤ 0x800000) : SramWork s (putRow s c d l r) c := by
  unfold putRow
  dsimp only
  have hline := sramWork_coreOut s (c := c) (hcodes (Config.freeNat s.free l % 16))
  rcases hscales with hnone | hin
  · rw [if_pos (by rw [hnone]; rfl)]
    exact hline
  · exact .ite hline (hline.trans (sramWork_coreOut _ (by rwa [List.length_map])))

/-! ### The size of a converted row (R71, R72, R81, R86) -/

theorem flatten_chunksOf {α : Type} {n : Nat} (hn : 0 < n) (fuel : Nat) (l : List α) (h : l.length < fuel) :
    (chunksOf fuel n l).flatten = l := by
  induction fuel generalizing l with
  | zero => omega
  | succ fuel ih =>
    unfold chunksOf
    split
    · simp_all
    · rename_i hne
      have : 0 < l.length := List.length_pos_iff.2 (by simpa using hne)
      rw [List.flatten_cons, ih _ (by rw [List.length_drop]; omega), List.take_append_drop]

theorem length_chunksOf {α : Type} {n : Nat} (hn : 0 < n) (fuel : Nat) (l : List α) (h : l.length < fuel) :
    (chunksOf fuel n l).length = (l.length + n - 1) / n := by
  induction fuel generalizing l with
  | zero => omega
  | succ fuel ih =>
    unfold chunksOf
    split
    · rename_i hnil
      rw [List.isEmpty_iff.1 hnil, List.length_nil, List.length_nil, Nat.div_eq_of_lt (by omega)]
    · rename_i hne
      have : 0 < l.length := List.length_pos_iff.2 (by simpa using hne)
      rw [List.length_cons, ih _ (by rw [List.length_drop]; omega), List.length_drop]
      rcases Nat.lt_or_ge l.length n with hlt | hge
      · rw [Nat.sub_eq_zero_of_le hlt.le, Nat.div_eq_of_lt (by omega), show l.length + n - 1 = l.length - 1 + n by omega,
          Nat.add_div_right _ hn, Nat.div_eq_of_lt (by omega)]
      · rw [show l.length + n - 1 = l.length - n + n - 1 + n by omega, Nat.add_div_right _ hn]

theorem length_leBytes (n x : Nat) : (leBytes n x).length = n := by
  induction n generalizing x with
  | zero => rfl
  | succ n ih => rw [leBytes, List.length_cons, ih]

/-- Codes of a format fill the bytes of as many elements. -/
theorem length_packCodes (fmt : Nat) (codes : List Nat) (pad : Nat) :
    (packCodes (fmtBits fmt) codes pad).length = elemBytes fmt codes.length := by
  unfold packCodes elemBytes
  split
  · rename_i h4
    rw [List.length_map, length_chunksOf (by decide) _ _ (by omega), h4]
    omega
  · rename_i h4
    have hw : 8 ∣ fmtBits fmt := by
      unfold fmtBits at h4 ⊢
      split at h4 <;> simp_all
    obtain ⟨w, hw⟩ := hw
    rw [hw, Nat.mul_div_cancel_left _ (by decide), List.length_flatMap]
    simp only [length_leBytes, List.map_const', List.sum_replicate, smul_eq_mul]
    rw [show codes.length * (8 * w) = 8 * (codes.length * w) by ring]
    omega

theorem length_mxBlock_codes (sb4 : Bool) (vs : List Val) (inf : Bool) (rnd : Nat → Rnd) :
    (mxBlock sb4 vs inf rnd).codes.length = vs.length := by
  unfold mxBlock
  split <;> simp

theorem length_mxBlock_scales (sb4 : Bool) (vs : List Val) (inf : Bool) (rnd : Nat → Rnd) :
    (mxBlock sb4 vs inf rnd).scales.length = if sb4 then 2 else 1 := by
  unfold mxBlock
  split <;> cases sb4 <;> rfl

theorem length_convertRow_codes (fmt : Nat) (scaled : Bool) (vs : List Num) (rnd : Nat → Rnd) :
    (convertRow fmt scaled vs rnd).codes.length = vs.length := by
  unfold convertRow
  dsimp only
  split
  · have hblocks : ((chunksOf (vs.length + 1) 32 vs).map List.length).sum = vs.length := by
      rw [← List.length_flatten, flatten_chunksOf (by decide) _ _ (by omega)]
    rw [List.length_flatMap, List.map_map]
    simp only [Function.comp_def, length_mxBlock_codes, List.length_map]
    rw [show (fun x : List Num × Nat => x.1.length) = List.length ∘ Prod.fst from rfl, ← List.map_map,
      List.map_fst_zip (by simp), hblocks]
  · simp

theorem length_convertRow_scales (fmt : Nat) (scaled : Bool) (vs : List Num) (rnd : Nat → Rnd) :
    (convertRow fmt scaled vs rnd).scales.length ≤ (vs.length + 31) / 32 * fmtGroup fmt := by
  have hblocks : (chunksOf (vs.length + 1) 32 vs).length = (vs.length + 31) / 32 := length_chunksOf (by decide) _ _ (by omega)
  unfold convertRow
  dsimp only
  split
  · rename_i hmx
    rw [List.length_flatMap, List.map_map]
    simp only [Function.comp_def, length_mxBlock_scales, List.map_const', List.sum_replicate, List.length_zip, List.length_range,
      Nat.min_self, hblocks, smul_eq_mul]
    rcases hmx with rfl | rfl <;> exact le_rfl
  · have hgroup : 1 ≤ fmtGroup fmt := by unfold fmtGroup; split <;> decide
    split
    · rw [List.length_map, length_chunksOf (by decide) _ _ (by simp)]
      simp only [List.length_map, List.length_zip, List.length_range, Nat.min_self]
      exact Nat.le_mul_of_pos_right _ hgroup
    · exact Nat.zero_le _

/-! ### A DRAIN's rows and residuals lie in the SRAM (R95, R113, R118) -/

theorem descOk_parts {d : TileDesc} {n : Nat} (h : descOk d n = true) :
    1 ≤ d.len ∧ 1 ≤ d.lines ∧ (fmtNeedsScale d.fmt = true → d.scaled = true)
      ∧ lineAt d false (n - 1) + elemBytes d.fmt d.len ≤ 0x800000
      ∧ (hasScale d = true → scaleAt d false (n - 1) ((d.len - 1) / 32) + fmtGroup d.fmt ≤ 0x800000) := by
  simp only [descOk, planeOk, Bool.and_eq_true, Bool.or_eq_true, decide_eq_true_eq, Bool.not_eq_true'] at h
  obtain ⟨⟨⟨⟨⟨⟨-, hlen⟩, hlines⟩, -⟩, hneeds⟩, hline, hscale⟩, -⟩ := h
  exact ⟨hlen, hlines, fun hn => hneeds.resolve_left (by simp [hn]), hline, fun hs => hscale.resolve_left (by simp [hs])⟩

theorem drainOk_parts {s : State} {fc : Bool} {o : DrainOp} (h : drainOk s fc o = true) :
    fmtOutput o.d.fmt = true ∧ descOk o.d o.d.lines = true ∧ wheyOk s o = true := by
  simp only [drainOk, Bool.and_eq_true] at h
  obtain ⟨⟨⟨⟨hout, hdesc⟩, -⟩, -⟩, hwhey⟩ := h
  exact ⟨hout, hdesc, hwhey⟩

theorem codes_fit {d : TileDesc} {l : Nat} {codes : List Nat} (hd : descOk d d.lines = true) (hl : l < d.lines)
    (hlen : codes.length = d.len) (pad : Nat) : lineAt d false l + (packCodes (fmtBits d.fmt) codes pad).length ≤ 0x800000 := by
  obtain ⟨-, -, -, hline, -⟩ := descOk_parts hd
  have hmono : l * d.stride ≤ (d.lines - 1) * d.stride := Nat.mul_le_mul_right _ (by omega)
  rw [length_packCodes, hlen]
  unfold lineAt at hline ⊢
  omega

/-- A row of an output format is converted without scale bytes where its tile has no scale location (R72, R113). -/
theorem scales_of_unscaled {d : TileDesc} (hout : fmtOutput d.fmt = true) (hneeds : fmtNeedsScale d.fmt = true → d.scaled = true)
    (h : hasScale d = false) (vs : List Num) (rnd : Nat → Rnd) : (convertRow d.fmt d.scaled vs rnd).scales = [] := by
  have hgroup : fmtNeedsScale d.fmt = true ∨ fmtBex d.fmt = true := by
    have hmem : d.fmt ∈ [2, 3, 6, 7, 10, 11, 12] := by simpa [fmtOutput] using hout
    simp only [List.mem_cons, List.not_mem_nil, or_false] at hmem
    rcases hmem with h | h | h | h | h | h | h <;> rw [h] <;> decide
  have hunscaled : d.scaled = false := by
    simp only [hasScale, Bool.and_eq_false_iff, Bool.or_eq_false_iff] at h
    rcases h with h | ⟨hn, hb⟩
    · exact h
    · rw [hn, hb] at hgroup; simp at hgroup
  have hmx : ¬(d.fmt = 2 ∨ d.fmt = 3) := by
    rintro (h2 | h2) <;> rw [hneeds (by rw [h2]; rfl)] at hunscaled <;> cases hunscaled
  unfold convertRow
  rw [if_neg hmx, hunscaled]
  rfl

theorem scales_fit {d : TileDesc} {l : Nat} {vs : List Num} (hout : fmtOutput d.fmt = true) (hd : descOk d d.lines = true)
    (hl : l < d.lines) (hlen : vs.length = d.len) (rnd : Nat → Rnd) :
    (convertRow d.fmt d.scaled vs rnd).scales = []
      ∨ scaleAt d false l 0 + (convertRow d.fmt d.scaled vs rnd).scales.length ≤ 0x800000 := by
  obtain ⟨hone, -, hneeds, -, hscale⟩ := descOk_parts hd
  cases hs : hasScale d with
  | false => exact .inl (scales_of_unscaled hout hneeds hs vs rnd)
  | true =>
    right
    have hcount := length_convertRow_scales d.fmt d.scaled vs rnd
    have hend := hscale hs
    have hmono : l * d.sstride ≤ (d.lines - 1) * d.sstride := Nat.mul_le_mul_right _ (by omega)
    rw [hlen, show (d.len + 31) / 32 = (d.len - 1) / 32 + 1 by omega, Nat.add_mul, Nat.one_mul] at hcount
    unfold scaleAt at hend ⊢
    omega

theorem wheyOk_congr {s t : State} (h : wheyBf t = wheyBf s) (o : DrainOp) : wheyOk t o = wheyOk s o := by
  unfold wheyOk wheyOff; rw [h]

theorem drainOk_congr {s t : State} (h : wheyBf t = wheyBf s) (fc : Bool) (o : DrainOp) : drainOk t fc o = drainOk s fc o := by
  unfold drainOk; rw [wheyOk_congr h]

theorem sramWork_putWhey (s : State) {c : Nat} {o : DrainOp} {i : Nat} {ts : List Num} (deq : List Num) (hok : wheyOk s o = true)
    (hi : i < o.d.lines) (hts : ts.length = o.d.len) : SramWork s (putWhey s c o i ts deq) c := by
  unfold putWhey
  unfold wheyOk at hok
  split
  · exact .refl s c
  · rename_i base hbase
    rw [hbase] at hok
    refine sramWork_coreOut s ?_
    have hend := of_decide_eq_true hok
    have hmono : i * o.d.len ≤ (o.d.lines - 1) * o.d.len := Nat.mul_le_mul_right _ (by omega)
    rw [List.length_flatMap]
    simp only [length_leBytes, List.map_const', List.sum_replicate, List.length_map, List.length_zip, smul_eq_mul, hts]
    unfold wheyOff at hend ⊢
    rw [Nat.add_assoc, ← Nat.add_mul]
    refine (Nat.add_le_add_left (Nat.mul_le_mul_right _ ?_) base).trans hend
    have := Nat.min_le_left o.d.len deq.length
    omega

theorem sramWork_touchWhey (s : State) {c : Nat} {o : DrainOp} (hok : wheyOk s o = true) : SramWork s (touchWhey s c o) c := by
  refine sramWork_touchSpans s fun r hr => ?_
  unfold wheySpan at hr
  unfold wheyOk at hok
  split at hr
  · cases hr
  · rename_i base hbase
    rw [hbase] at hok
    have hend := of_decide_eq_true hok
    rw [List.mem_singleton.1 hr]
    dsimp only
    unfold wheyOff at hend ⊢
    omega

theorem sramWork_drainRow {c : Nat} {t : OldTile} {o : DrainOp} {p : State × Report} {i : Nat} {fc : Bool}
    (hok : drainOk p.1 fc o = true) (hi : i < o.d.lines) : SramWork p.1 (drainRow c t o p i).1 c := by
  obtain ⟨hout, hdesc, hwhey⟩ := drainOk_parts hok
  unfold drainRow
  dsimp only
  generalize hts : List.map _ (List.zip _ _) = ts
  have hlen : ts.length = o.d.len := by rw [← hts]; simp
  have hrow := sramWork_putRow p.1 (c := c) (codes_fit hdesc hi ((length_convertRow_codes ..).trans hlen))
    (scales_fit hout hdesc hi hlen fun j => rndOf o.round o.seed (o.rowBase + i) (o.colBase + j))
  exact (hrow.trans (sramWork_putWhey _ _ ((wheyOk_congr hrow.whey o).trans hwhey) hi hlen)).trans (sramWork_coreEvent ..)

theorem sramWork_drainRows {c : Nat} {t : OldTile} {o : DrainOp} {fc : Bool} {l : List Nat} (hl : ∀ i ∈ l, i < o.d.lines)
    (p : State × Report) (hok : drainOk p.1 fc o = true) : SramWork p.1 (l.foldl (drainRow c t o) p).1 c := by
  induction l generalizing p with
  | nil => exact .refl p.1 c
  | cons i l ih =>
    have hrow := sramWork_drainRow (c := c) (t := t) hok (hl i (by simp))
    exact hrow.trans (ih (fun j hj => hl j (by simp [hj])) _ ((drainOk_congr hrow.whey fc o).trans hok))

/-! ### DRAIN_START and DRAIN_COMPLETE (R56, R81, R118, R136, R175) -/

theorem settleClears_churn {s : State} {c : Nat} (h : (coreAt s c).toClear = []) :
    (coreAt (settleClears s c) c).churn = (coreAt s c).churn := by
  unfold settleClears
  dsimp only
  rw [h, coreAt_updCore_same]
  rfl

/-- What an operation leaves behind that leaves the drain queue. -/
theorem leaveDrainQ_spec (s : State) (c : Nat) :
    (coreAt (leaveDrainQ s c) c).drainQ = (coreAt s c).drainQ.drop 1 ∧ OtherCores s (leaveDrainQ s c) c
      ∧ ((coreAt s c).toClear = [] → (coreAt (leaveDrainQ s c) c).churn = (coreAt s c).churn)
      ∧ (leaveDrainQ s c).mem = s.mem ∧ (leaveDrainQ s c).wq = s.wq := by
  have htile : ChurnOnly (updCore s c fun x => { x with drainQ := x.drainQ.drop 1 }) (leaveDrainQ s c) c := by
    unfold leaveDrainQ
    exact (churnOnly_settleClears _ c).trans (churnOnly_updCore _ ⟨_, _, _, _, rfl⟩)
  obtain ⟨⟨_, _, _, hstate⟩, ⟨_, _, _, _, hcore⟩, hothers⟩ := htile
  refine ⟨by rw [hcore, coreAt_updCore_same], (otherCores_updCore s c _).trans hothers, fun hclear => ?_, ?_, ?_⟩
  · unfold leaveDrainQ
    dsimp only
    rw [coreAt_updCore_same]
    exact (settleClears_churn (by rw [coreAt_updCore_same]; exact hclear)).trans (by rw [coreAt_updCore_same])
  · rw [hstate]; rfl
  · rw [hstate]; rfl

theorem sramWork_sendReport (s : State) (r : Report) (c : Nat) : SramWork s (sendReport s r) c :=
  ⟨rfl, .of_wq rfl, fun _ _ => rfl, rfl⟩

/-- The state in which the rows of a DRAIN are written and its report, where it has one, is on its way. -/
def drainWritten (s : State) (c : Nat) (o : DrainOp) : State :=
  let t := tileOf s c o.seq
  let r := (List.range o.d.lines).foldl (drainRow c t o)
    (touchWhey s c o, emptyReport c o.seq (o.gslot.getD 0) (coreAt s c).step)
  let rep := withTileFlags r.2 (bit t.flags fUnderspill) (bit t.flags fOverflow) (bit t.flags fFcrange)
  if o.gslot.isSome then sendReport r.1 rep else r.1

theorem sramWork_drainWritten {s : State} {c : Nat} {o : DrainOp} {fc : Bool} (hok : drainOk s fc o = true) :
    SramWork s (drainWritten s c o) c := by
  obtain ⟨-, -, hwhey⟩ := drainOk_parts hok
  have htouch := sramWork_touchWhey s (c := c) hwhey
  have hrows := htouch.trans (sramWork_drainRows (c := c) (t := tileOf s c o.seq) (fun i hi => List.mem_range.1 hi)
    (touchWhey s c o, emptyReport c o.seq (o.gslot.getD 0) (coreAt s c).step) ((drainOk_congr htouch.whey fc o).trans hok))
  exact .ite (hrows.trans (sramWork_sendReport ..)) hrows

theorem startDrain_ok {s : State} {c : Nat} {o : DrainOp} (hfmt : fmtOperand o.d.fmt = true)
    (hok : drainOk s (tileOf s c o.seq).fc o = true) :
    startDrain s c o = .ok (bump (updCore (leaveDrainQ (drainWritten s c o) c) c fun x =>
      { x with drainWait := some ⟨o.seq, o.gslot.isNone⟩ })) := by
  unfold startDrain
  dsimp only
  rw [hfmt, hok]
  rfl

theorem exec_drainStart {s : State} {c : Nat} {o : DrainOp} (hp : powered s = true) (hnext : nextDrain s c = some (.drain o)) :
    exec (.drainStart c) s = toOut s (startDrain s c o) := by
  refine (actE_pos hp (by rw [hnext]; rfl)).trans ?_
  rw [hnext]

theorem drainStart_completes {s : State} {c : Nat} {o : DrainOp} (hp : powered s = true)
    (hnext : nextDrain s c = some (.drain o)) (hfmt : fmtOperand o.d.fmt = true)
    (hok : drainOk s (tileOf s c o.seq).fc o = true) :
    Completes (.drainStart c) s fun t =>
      (coreAt t c).drainWait = some ⟨o.seq, o.gslot.isNone⟩ ∧ (coreAt t c).drainQ = (coreAt s c).drainQ.drop 1
        ∧ OtherCores s t c ∧ ((coreAt s c).toClear = [] → (coreAt t c).churn = (coreAt s c).churn) ∧ SameWork s t
        ∧ (∀ k, (k < sramKey c 0 ∨ sramKey c 0x800000 ≤ k) → FMap.find t.mem k = FMap.find s.mem k) := by
  refine ⟨_, (exec_drainStart hp hnext).trans (by rw [startDrain_ok hfmt hok]; rfl), ?_⟩
  have hwork := sramWork_drainWritten (c := c) hok
  generalize drainWritten s c o = u at hwork
  obtain ⟨hqueue, hothers, hchurn, hmem, hwq⟩ := leaveDrainQ_spec u c
  rw [coreAt_congr hwork.cores] at hqueue hchurn
  dsimp only
  rw [coreAt_bump, coreAt_updCore_same]
  refine ⟨rfl, hqueue, ?_, hchurn, hwork.work.trans (.of_wq hwq), fun k hk => ?_⟩
  · exact (((otherCores_of_cores hwork.cores c).trans hothers).after_updCore _).after_bump
  · rw [bump_mem, updCore_mem, hmem, hwork.mem k hk]

theorem drainStart_reservedFormat {s : State} {c : Nat} {o : DrainOp} (hp : powered s = true)
    (hnext : nextDrain s c = some (.drain o)) (hfmt : fmtOperand o.d.fmt = false) : Undefined (.drainStart c) s 10 := by
  refine (exec_drainStart hp hnext).trans ?_
  unfold startDrain
  dsimp only
  rw [hfmt]
  rfl

theorem drainStart_beyondLimits {s : State} {c : Nat} {o : DrainOp} (hp : powered s = true)
    (hnext : nextDrain s c = some (.drain o)) (hfmt : fmtOperand o.d.fmt = true)
    (hok : drainOk s (tileOf s c o.seq).fc o = false) : Undefined (.drainStart c) s 18 := by
  refine (exec_drainStart hp hnext).trans ?_
  unfold startDrain
  dsimp only
  rw [hfmt, hok]
  rfl

theorem drainComplete_completes {s : State} {c : Nat} (hp : powered s = true) (hends : drainEnds s c = true) :
    Completes (.drainComplete c) s fun t =>
      (coreAt t c) = { coreAt s c with drainWait := none } ∧ OtherCores s t c ∧ t = { s with cores := t.cores } :=
  ⟨_, act_pos hp hends, coreAt_updCore_same .., otherCores_updCore s c _, rfl⟩

theorem drainComplete_waits {s : State} {c : Nat} (hends : drainEnds s c = false) : Waits (.drainComplete c) s := act_neg hends

/-- Settles O40, instruction by instruction, with what the units of a core change outside their SRAM and their churn tile. -/
theorem digitArrayAndDrain : Obligations.DigitArrayAndDrain :=
  ⟨fun _ _ _ _ _ hp hrun => passBlockClose_completes hp hrun,
    fun _ _ _ _ => passBlockClose_waits,
    fun _ _ _ _ _ _ hp hrun hbuf => ⟨churnLaneRead_held hrun hbuf, churnLaneRead_completes hp hrun hbuf⟩,
    fun _ _ _ _ => churnLaneRead_empty,
    fun s c i j p a b fields sb4 => addPass_bad_nan s c i j p a b fields sb4,
    fun _ _ _ h => ⟨drain_completes h, drain_waits h⟩,
    fun _ _ _ hp hnext => ⟨drainStart_completes hp hnext, drainStart_reservedFormat hp hnext, drainStart_beyondLimits hp hnext⟩,
    fun _ _ hp => drainComplete_completes hp,
    fun _ _ => drainComplete_waits⟩

end Sys2Proof.Machine

namespace Sys2Proof.Machine

/-! ## Counters, snapshots and the guard from the pails (O19): R98, R99, R194, R195, R425, R428, R429 -/

/-! ### Registers that are distinct -/

theorem pmcReg_ne (h : Nat) {x y : Nat} (hxy : x ≠ y) : pmcReg h x ≠ pmcReg h y := by
  unfold pmcReg sheafWin; omega

theorem hubReg_ne {x y : Nat} (hxy : x ≠ y) : hubReg x ≠ hubReg y := by
  unfold hubReg sheafWin; omega

theorem slotReg_ne (n : Nat) {x y : Nat} (hxy : x ≠ y) : slotReg n x ≠ slotReg n y := by
  unfold slotReg; exact hubReg_ne (by omega)

/-- The counter block and the hub block of a sheaf do not meet. -/
theorem pmcReg_ne_hubReg (h : Nat) {x y : Nat} (hx : x < 0x10000) (hy : y < 0x100000) : pmcReg h x ≠ hubReg y := by
  unfold pmcReg hubReg sheafWin; omega

/-- The slots of the guard lie beyond the count of blocked messages. -/
theorem slotReg_ne_blocked (n x : Nat) : slotReg n x ≠ hubReg 0x60 := by
  unfold slotReg; exact hubReg_ne (by omega)

/-! ### Registers that are kept -/

theorem RegsKept.refl (s : State) : RegsKept s s [] := fun _ _ => rfl

theorem regsKept_writePage (s : State) (r : PailReq) (i : Instr) : RegsKept s (writePage s r i) [] := fun _ _ => rfl

/-- Nothing but registers differs. -/
def OnlyRegs (s t : State) : Prop := ∃ g, t = { s with regs := g }

theorem OnlyRegs.refl (s : State) : OnlyRegs s s := ⟨_, rfl⟩

theorem OnlyRegs.after_regSet {s t : State} (h : OnlyRegs s t) (a v : Nat) : OnlyRegs s (regSet t a v) := by
  obtain ⟨g, rfl⟩ := h
  exact ⟨_, rfl⟩

theorem OnlyRegs.after_regFlag {s t : State} (h : OnlyRegs s t) (a i : Nat) (b : Bool) : OnlyRegs s (regFlag t a i b) :=
  h.after_regSet _ _

theorem RegsKept.after_regSet {s t : State} {l : List Nat} (h : RegsKept s t l) (a v : Nat) :
    RegsKept s (regSet t a v) (l ++ [a]) := by
  intro b hb
  rw [List.mem_append, List.mem_singleton, not_or] at hb
  rw [regGet_regSet_ne _ _ hb.2, h b hb.1]

/-! ### What the answer of a pail changes (R277, R346) -/

@[simp] theorem pageAt_setPage_same (s : State) (p : Nat) (x : PailPage) : pageAt (setPage s p x) p = x :=
  FMap.getD_set_same ..

theorem pageAt_setPage_ne (s : State) {p q : Nat} (x : PailPage) (h : q ≠ p) : pageAt (setPage s p x) q = pageAt s q :=
  FMap.getD_set_ne _ _ _ h

theorem msix_frame (s : State) (v : Nat) : msix s v = { s with host := (msix s v).host, regs := (msix s v).regs } := by
  unfold msix
  repeat' split
  all_goals rfl

/-- A message that is blocked is counted; no other register changes. -/
theorem regsKept_msix (s : State) (v : Nat) : RegsKept s (msix s v) [hubReg 0x60] := by
  intro a ha
  unfold msix
  repeat' split
  case isFalse.isFalse => exact regGet_count_ne _ _ (List.ne_of_not_mem_cons ha)
  all_goals rfl

section Answer

variable (s : State) (r : PailReq) (k : Nat) (bs : List Byte)

/-- The page of a pail with an answer in it. -/
def answerPage : PailPage := { pageAt s r.pail with status := k, rseq := r.seq, rlen := bs.length, resp := bs }

/-- An answer is the page that holds it, with the message of its vector or without. -/
theorem answer_eq :
    answer s r k bs = setPage s r.pail (answerPage s r k bs)
      ∨ answer s r k bs = msix (setPage s r.pail (answerPage s r k bs)) r.vector := by
  unfold answer
  dsimp only
  split
  · exact .inr rfl
  · exact .inl rfl

theorem answer_pails : (answer s r k bs).pails = (setPage s r.pail (answerPage s r k bs)).pails := by
  rcases answer_eq s r k bs with h | h
  · rw [h]
  · rw [h, msix_pails]

theorem answer_frame :
    answer s r k bs
      = { s with pails := (answer s r k bs).pails, host := (answer s r k bs).host, regs := (answer s r k bs).regs } := by
  rcases answer_eq s r k bs with h | h
  · rw [h]; rfl
  · rw [h, msix_pails]; exact msix_frame _ _

theorem pageAt_answer (p : Nat) : pageAt (answer s r k bs) p = pageAt (setPage s r.pail (answerPage s r k bs)) p := by
  unfold pageAt
  rw [answer_pails]

theorem answer_answered : Answered (answer s r k bs) r k bs := by
  unfold Answered
  rw [pageAt_answer, pageAt_setPage_same]
  exact ⟨rfl, rfl, rfl, rfl⟩

theorem regsKept_answer : RegsKept s (answer s r k bs) [hubReg 0x60] := by
  rcases answer_eq s r k bs with h | h
  · rw [h]; exact fun _ _ => rfl
  · rw [h]; exact regsKept_msix _ _

end Answer

variable {s u : State} {r : PailReq} {i : Instr} {k : Nat} {bs : List Byte}

theorem regGet_answer {a : Nat} (h : a ≠ hubReg 0x60) : regGet (answer s r k bs) a = regGet s a :=
  regsKept_answer s r k bs a (by simpa using h)

theorem regFld_answer {a hi lo : Nat} (h : a ≠ hubReg 0x60) : regFld (answer s r k bs) a hi lo = regFld s a hi lo := by
  unfold regFld; rw [regGet_answer h]

theorem RegsKept.after_answer {l : List Nat} (h : RegsKept s u l) : RegsKept s (answer u r k bs) (l ++ [hubReg 0x60]) := by
  intro a ha
  rw [List.mem_append, List.mem_singleton, not_or] at ha
  rw [regGet_answer ha.2, h a ha.1]

/-- A command that the firmware does no more than answer leaves the page, its message and the count of blocked ones. -/
theorem onlyAnswered_writePage (s : State) (r : PailReq) (i : Instr) (k : Nat) (bs : List Byte) :
    OnlyAnswered s (answer (writePage s r i) r k bs) r := by
  refine ⟨answer_frame _ _ _ _, fun p hp => ?_, ?_, ?_, regsKept_answer (writePage s r i) r k bs⟩
  · rw [pageAt_answer, pageAt_setPage_ne _ _ hp]
    exact pageAt_setPage_ne _ _ hp
  · rw [answer_pails]; rfl
  · rw [answer_pails]; rfl

theorem answers_of_exec (h : exec i s = .next (answer (writePage s r i) r k bs)) : Answers i s r k bs :=
  ⟨_, h, answer_answered _ _ _ _, onlyAnswered_writePage _ _ _ _ _⟩

/-! ### Commands that an administrator pail may carry -/

/-- A command that the firmware takes on an administrator pail, in a state that admits it, has its effect. -/
theorem pailOut_admin {l : List DevState} (e : State → Except Halt State) (h : Takes s r) (hk : pailKind s r.pail = .admin)
    (hl : s.boot.dev ∈ l) :
    pailOut s r i (fun s => gated s r adminPail l (e s)) = toOut s (e (writePage s r i)) := by
  have hkind : adminPail (pailKind (writePage s r i) r.pail) = true := by
    have : pailKind (writePage s r i) r.pail = .admin := hk
    rw [this]; rfl
  obtain ⟨hreach, hidle, hboot⟩ := h
  rw [pailOut_takes ⟨hreach, hidle, hboot⟩]
  exact congrArg (toOut s) (gated_pos (s := writePage s r i) hboot hkind hl)

theorem mem_readyJob (h : s.boot.dev = .ready ∨ s.boot.dev = .job) : s.boot.dev ∈ [DevState.ready, .job] := by
  rcases h with h | h <;> simp [h]

/-! ### COUNTER_ACCESS (R425) -/

theorem counterAccessUser_completes {mask : Nat} (h : Takes s r) (hk : pailKind s r.pail = .admin)
    (hd : s.boot.dev ∈ [.ready, .job, .faulted]) (hm : mask < 256) :
    Completes (.counterAccessUser r mask) s fun t =>
      regGet t (pmcReg 0 0) = mask ∧ RegsKept s t [pmcReg 0 0, hubReg 0x60] ∧ Answered t r stOk (leBytes 4 s.pmc.selgen)
        ∧ t = { s with regs := t.regs, pails := t.pails, host := t.host } := by
  refine ⟨_, pailOut_admin (fun s => .ok (answer (regSet s (pmcReg 0 0) (mask % 2 ^ 8)) r stOk (selgenBytes s))) h hk hd,
    ?_, ((regsKept_writePage s r _).after_regSet _ _).after_answer, answer_answered _ _ _ _, answer_frame _ _ _ _⟩
  rw [regGet_answer (pmcReg_ne_hubReg 0 (by decide) (by decide)), regGet_regSet_same]
  omega

/-- The selection register of a core that holds the event of a programmable counter, and the place of its field (Table 16.9). -/
def cselReg (c ctr : Nat) : Nat := pmcReg (c / 128) (0x5000 + 0x10 * (c % 128) + (if ctr < 12 then 0 else 8))
def cselLo (ctr : Nat) : Nat := 8 * if ctr < 12 then ctr - 4 else ctr - 12

/-- A core selects an event for a programmable counter. -/
def Selects (s : State) (c ctr ev : Nat) : Prop := regFld s (cselReg c ctr) (cselLo ctr + 7) (cselLo ctr) = ev

theorem selectEvent_eq (s : State) (c ctr ev : Nat) :
    selectEvent s c ctr ev = regSetFld s (cselReg c ctr) (cselLo ctr + 7) (cselLo ctr) ev := rfl

theorem cselReg_ne_blocked (c ctr : Nat) : cselReg c ctr ≠ hubReg 0x60 := by
  have : c % 128 < 128 := Nat.mod_lt _ (by decide)
  unfold cselReg
  refine pmcReg_ne_hubReg _ ?_ (by decide)
  split <;> omega

theorem cselLo_le {ctr : Nat} (hlo : 4 ≤ ctr) (hhi : ctr ≤ 15) : cselLo ctr + 7 < 64 := by
  unfold cselLo; split <;> omega

section Select

variable {ctr ev : Nat} (hlo : 4 ≤ ctr) (hhi : ctr ≤ 15) (hev : ev < 256)
include hlo hhi hev

theorem selectEvent_selects (s : State) (c : Nat) : Selects (selectEvent s c ctr ev) c ctr ev := by
  have h8 : cselLo ctr + 7 + 1 - cselLo ctr = 8 := by omega
  rw [Selects, selectEvent_eq, regFld_regSetFld_same _ _ _ _ _ (by omega) (cselLo_le hlo hhi), h8]
  exact Nat.mod_eq_of_lt hev

/-- Cores with one register select one event, so a core keeps its selection when another takes the same. -/
theorem Selects.after_selectEvent {s : State} {c : Nat} (h : Selects s c ctr ev) (d : Nat) :
    Selects (selectEvent s d ctr ev) c ctr ev := by
  by_cases hr : cselReg c ctr = cselReg d ctr
  · have := selectEvent_selects hlo hhi hev s d
    rwa [Selects, ← hr] at this
  · rwa [Selects, selectEvent_eq, regFld_regSetFld_ne _ _ _ _ _ _ hr]

theorem Selects.foldl {s : State} {c : Nat} (h : Selects s c ctr ev) (l : List Nat) :
    Selects (l.foldl (fun s d => selectEvent s d ctr ev) s) c ctr ev := by
  induction l generalizing s with
  | nil => exact h
  | cons d l ih => exact ih (h.after_selectEvent hlo hhi hev d)

theorem foldl_selectEvent_selects {c : Nat} {l : List Nat} (hc : c ∈ l) (s : State) :
    Selects (l.foldl (fun s d => selectEvent s d ctr ev) s) c ctr ev := by
  induction l generalizing s with
  | nil => cases hc
  | cons d l ih =>
    rcases List.mem_cons.1 hc with rfl | hc
    · exact (selectEvent_selects hlo hhi hev s c).foldl hlo hhi hev l
    · exact ih hc _

end Select

/-- The cores of a set have taken an event, and the selection generation has advanced. -/
def selectCores (s : State) (p : SelectP) (cs : List Nat) : State :=
  let s1 := cs.foldl (fun s c => selectEvent s c p.ctr p.event) s
  { s1 with pmc := { s1.pmc with selgen := (s1.pmc.selgen + 1) % 2 ^ 32 } }

theorem selectCores_mem (s : State) (p : SelectP) (cs : List Nat) : (selectCores s p cs).mem = s.mem :=
  foldl_keep (·.mem) (fun s c => selectEvent s c p.ctr p.event) (fun _ _ => rfl) cs s

theorem selectCores_selgen (s : State) (p : SelectP) (cs : List Nat) :
    (selectCores s p cs).pmc.selgen = (s.pmc.selgen + 1) % 2 ^ 32 :=
  congrArg (fun x : Pmc => (x.selgen + 1) % 2 ^ 32)
    (foldl_keep (·.pmc) (fun s c => selectEvent s c p.ctr p.event) (fun _ _ => rfl) cs s)

theorem selectCores_selects {p : SelectP} {cs : List Nat} {c : Nat} (hlo : 4 ≤ p.ctr) (hhi : p.ctr ≤ 15) (hev : p.event < 256)
    (hc : c ∈ cs) (s : State) : Selects (selectCores s p cs) c p.ctr p.event :=
  foldl_selectEvent_selects hlo hhi hev hc s

theorem Selects.after_answer {c ctr ev : Nat} (h : Selects s c ctr ev) : Selects (answer s r k bs) c ctr ev := by
  rwa [Selects, regFld_answer (cselReg_ne_blocked c ctr)]

/-- The effect of a SELECT that names a programmable counter. -/
def selectAnswered (s : State) (r : PailReq) (p : SelectP) (m : Nat) : State :=
  let t := selectCores s p (setCores s p.logical m)
  answer t r stOk (leBytes 4 t.pmc.selgen)

theorem exec_counterAccessSelect {p : SelectP} {m : Nat} (h : Takes s r) (hk : pailKind s r.pail = .admin)
    (hd : s.boot.dev ∈ [.ready, .job, .faulted]) (hlo : 4 ≤ p.ctr) (hhi : p.ctr ≤ 15)
    (hread : readSet (writePage s r (.counterAccessSelect r p)) p.set = .ok (m, u)) :
    exec (.counterAccessSelect r p) s = .next (selectAnswered u r p m) := by
  refine (pailOut_admin _ h hk hd).trans ?_
  rw [if_neg (by omega), hread]
  rfl

theorem counterAccessSelect_completes {p : SelectP} {m : Nat} (h : Takes s r) (hk : pailKind s r.pail = .admin)
    (hd : s.boot.dev ∈ [.ready, .job, .faulted]) (hlo : 4 ≤ p.ctr) (hhi : p.ctr ≤ 15) (hev : p.event < 256)
    (hread : readSet (writePage s r (.counterAccessSelect r p)) p.set = .ok (m, u)) :
    Completes (.counterAccessSelect r p) s fun t =>
      (∀ c ∈ setCores u p.logical m, Selects t c p.ctr p.event) ∧ t.pmc.selgen = (u.pmc.selgen + 1) % 2 ^ 32
        ∧ Answered t r stOk (leBytes 4 t.pmc.selgen) ∧ t.mem = u.mem := by
  refine ⟨_, exec_counterAccessSelect h hk hd hlo hhi hread, fun c hc => ?_, ?_, ?_, ?_⟩
  · exact (selectCores_selects hlo hhi hev hc u).after_answer
  · exact (congrArg Pmc.selgen (answer_pmc ..)).trans (selectCores_selgen ..)
  · rw [selectAnswered, answer_pmc]; exact answer_answered _ _ _ _
  · exact (answer_mem ..).trans (selectCores_mem ..)

theorem counterAccessSelect_outOfRange {p : SelectP} (h : Takes s r) (hk : pailKind s r.pail = .admin)
    (hd : s.boot.dev ∈ [.ready, .job, .faulted]) (hctr : p.ctr < 4 ∨ 15 < p.ctr) :
    Answers (.counterAccessSelect r p) s r stBadState (leBytes 4 s.pmc.selgen) := by
  refine answers_of_exec ((pailOut_admin _ h hk hd).trans ?_)
  rw [if_pos hctr]
  rfl

/-! ### SNAPSHOT_CONFIG (R428, R429) -/

/-- Where a ring lies does not depend on the pages of the pails. -/
theorem ringPlaced_writePage (s : State) (r : PailReq) (i : Instr) (a n : Nat) :
    ringPlaced (writePage s r i) a n = ringPlaced s a n := rfl

theorem exec_snapshotConfigStart {p : SnapP} (h : Takes s r) (hk : pailKind s r.pail = .admin)
    (hd : s.boot.dev = .ready ∨ s.boot.dev = .job) (hok : snapOk p = true)
    (hring : ringPlaced s p.base (snapSlot p.mask * p.entries) = true) :
    exec (.snapshotConfigStart r p) s
      = .next (answer (startSnap (writePage s r (.snapshotConfigStart r p)) p) r stOk
          (leBytes 4 (snapSlot p.mask) ++ leBytes 8 (firstTick s p))) := by
  refine (pailOut_admin _ h hk (mem_readyJob hd)).trans ?_
  rw [ringPlaced_writePage, hring, hok]
  rfl

/-- The registers of a run that begins are written (Table 16.9). -/
def snapRegs (s : State) (p : SnapP) : State :=
  regSet (regSet (regSet (regFlag (regSet s (pmcReg 0 0x20) p.base) (pmcReg 0 8) 0 true) (pmcReg 0 0x28)
    (snapSlot p.mask * 2 ^ 32 + p.entries)) (pmcReg 0 0x30) 0) (pmcReg 0 0x40) (firstTick s p)

/-- The run that a START begins. -/
def newRun (s : State) (p : SnapP) : SnapRun :=
  ⟨{ p with start := firstTick s p, every := if p.every = 0 then 1 else p.every }, snapSlot p.mask, firstTick s p, 0, 0⟩

theorem startSnap_eq (s : State) (p : SnapP) :
    startSnap s p = { snapRegs s p with pmc := { (snapRegs s p).pmc with run := some (newRun s p) } } := rfl

theorem snapRegs_onlyRegs (s : State) (p : SnapP) : OnlyRegs s (snapRegs s p) :=
  (((((OnlyRegs.refl s).after_regSet _ _).after_regFlag _ _ _).after_regSet _ _).after_regSet _ _).after_regSet _ _

theorem startSnap_frame (s : State) (p : SnapP) : ∃ g c, startSnap s p = { s with regs := g, pmc := c } := by
  obtain ⟨g, hg⟩ := snapRegs_onlyRegs s p
  rw [startSnap_eq, hg]
  exact ⟨_, _, rfl⟩

theorem regGet_setPmc (s : State) (x : Pmc) (a : Nat) : regGet { s with pmc := x } a = regGet s a := rfl

theorem regGet_startSnap (s : State) (p : SnapP) (a : Nat) : regGet (startSnap s p) a = regGet (snapRegs s p) a := by
  rw [startSnap_eq]
  exact regGet_setPmc _ _ _

theorem startSnap_base (s : State) (p : SnapP) : regGet (startSnap s p) (pmcReg 0 0x20) = p.base % 2 ^ 64 := by
  have hne {x : Nat} (hx : 0x20 ≠ x) : pmcReg 0 0x20 ≠ pmcReg 0 x := pmcReg_ne 0 hx
  rw [regGet_startSnap, snapRegs, regGet_regSet_ne _ _ (hne (by decide)), regGet_regSet_ne _ _ (hne (by decide)),
    regGet_regSet_ne _ _ (hne (by decide)), regGet_regFlag_ne _ _ _ (hne (by decide)), regGet_regSet_same]

theorem startSnap_runs (s : State) (p : SnapP) : bit (regGet (startSnap s p) (pmcReg 0 8)) 0 = true := by
  have hne {x : Nat} (hx : 8 ≠ x) : pmcReg 0 8 ≠ pmcReg 0 x := pmcReg_ne 0 hx
  rw [regGet_startSnap, snapRegs, regGet_regSet_ne _ _ (hne (by decide)), regGet_regSet_ne _ _ (hne (by decide)),
    regGet_regSet_ne _ _ (hne (by decide)), bit_regFlag_same _ _ _ _ (by decide)]

theorem snapshotConfigStart_completes {p : SnapP} (h : Takes s r) (hk : pailKind s r.pail = .admin)
    (hd : s.boot.dev = .ready ∨ s.boot.dev = .job) (hok : snapOk p = true)
    (hring : ringPlaced s p.base (snapSlot p.mask * p.entries) = true) :
    Completes (.snapshotConfigStart r p) s fun t =>
      (∃ x, t.pmc.run = some x ∧ x.seq = 0 ∧ x.missed = 0 ∧ x.next = firstTick s p ∧ x.slot = snapSlot p.mask)
        ∧ regGet t (pmcReg 0 0x20) = p.base % 2 ^ 64 ∧ bit (regGet t (pmcReg 0 8)) 0 = true
        ∧ (p.start ≠ 0 → firstTick s p = p.start)
        ∧ Answered t r stOk (leBytes 4 (snapSlot p.mask) ++ leBytes 8 (firstTick s p))
        ∧ t = { s with regs := t.regs, pails := t.pails, host := t.host, pmc := t.pmc } := by
  refine ⟨_, exec_snapshotConfigStart h hk hd hok hring, ?_, ?_, ?_, fun hs => if_neg hs, answer_answered _ _ _ _, ?_⟩
  · rw [answer_pmc, startSnap_eq]; exact ⟨_, rfl, rfl, rfl, rfl, rfl⟩
  · rw [regGet_answer (pmcReg_ne_hubReg 0 (by decide) (by decide)), startSnap_base]
  · rw [regGet_answer (pmcReg_ne_hubReg 0 (by decide) (by decide)), startSnap_runs]
  · obtain ⟨g, c, hframe⟩ := startSnap_frame (writePage s r (.snapshotConfigStart r p)) p
    rw [answer_pmc, hframe]
    exact answer_frame _ _ _ _

/-- The state in which a run has ended. -/
def endRun (s : State) : State := regFlag { s with pmc := { s.pmc with run := none } } (pmcReg 0 8) 0 false

theorem exec_snapshotConfigStop {x : SnapRun} (h : Takes s r) (hk : pailKind s r.pail = .admin)
    (hd : s.boot.dev = .ready ∨ s.boot.dev = .job) (hrun : s.pmc.run = some x) :
    exec (.snapshotConfigStop r) s
      = .next (answer (endRun (writePage s r (.snapshotConfigStop r))) r stOk (leBytes 4 x.slot ++ leBytes 8 x.p.start)) := by
  have hrun' : (writePage s r (.snapshotConfigStop r)).pmc.run = some x := hrun
  refine (pailOut_admin (fun s => .ok (stopSnap s r)) h hk (mem_readyJob hd)).trans ?_
  simp only [stopSnap, hrun', toOut_ok]
  rfl

theorem snapshotConfigStop_completes {x : SnapRun} (h : Takes s r) (hk : pailKind s r.pail = .admin)
    (hd : s.boot.dev = .ready ∨ s.boot.dev = .job) (hrun : s.pmc.run = some x) :
    Completes (.snapshotConfigStop r) s fun t =>
      t.pmc.run = none ∧ bit (regGet t (pmcReg 0 8)) 0 = false ∧ Answered t r stOk (leBytes 4 x.slot ++ leBytes 8 x.p.start)
        ∧ t = { s with regs := t.regs, pails := t.pails, host := t.host, pmc := t.pmc } := by
  refine ⟨_, exec_snapshotConfigStop h hk hd hrun, ?_, ?_, answer_answered _ _ _ _, ?_⟩
  · rw [answer_pmc]; rfl
  · rw [regGet_answer (pmcReg_ne_hubReg 0 (by decide) (by decide)), endRun, bit_regFlag_same _ _ _ _ (by decide)]
  · rw [answer_pmc]; exact answer_frame _ _ _ _

/-! ### GUARD_CONFIG (R98, R99, R194, R195) -/

theorem bits_lt_word (a hi lo : Nat) (h : hi + 1 - lo ≤ 64) : bits a hi lo % 2 ^ 64 = bits a hi lo :=
  Nat.mod_eq_of_lt ((bits_lt a hi lo).trans_le (Nat.pow_le_pow_right (by decide) h))

theorem guardConfigPolicy_completes {a : Nat} (h : Takes s r) (hk : pailKind s r.pail = .admin)
    (hd : s.boot.dev = .ready ∨ s.boot.dev = .job) :
    Completes (.guardConfigPolicy r a) s fun t =>
      regGet t (hubReg 0x40000) = bits a 2 0 ∧ regGet t (hubReg 0x40008) = bits a 10 8
        ∧ RegsKept s t [hubReg 0x40000, hubReg 0x40008, hubReg 0x60] ∧ Answered t r stOk [] := by
  refine ⟨_, pailOut_admin (fun s => .ok (answer (setPolicy s a) r stOk [])) h hk (mem_readyJob hd), ?_, ?_,
    (((regsKept_writePage s r _).after_regSet _ _).after_regSet _ _).after_answer, answer_answered _ _ _ _⟩
  · rw [regGet_answer (hubReg_ne (by decide)), setPolicy, regGet_regSet_ne _ _ (hubReg_ne (by decide)), regGet_regSet_same,
      bits_lt_word _ _ _ (by decide)]
  · rw [regGet_answer (hubReg_ne (by decide)), setPolicy, regGet_regSet_same, bits_lt_word _ _ _ (by decide)]

/-- A slot's registers hold the images of its configuration. -/
def SlotImages (s : State) (p : SlotP) : Prop :=
  regGet s (slotReg p.slot 0) = p.scfg ∧ regGet s (slotReg p.slot 8) = p.ratio ∧ regGet s (slotReg p.slot 0x10) = p.scale

/-- EMA and EVALS of a slot read 0. -/
def EmaClear (s : State) (n : Nat) : Prop := regGet s (slotReg n 0x20) = 0 ∧ regFld s (slotReg n 0x28) 63 32 = 0

/-- The images lie in the first three registers of a slot, so a change of the others keeps them. -/
theorem SlotImages.keep {t : State} {p : SlotP} {l : List Nat} (h : SlotImages s p) (hkept : RegsKept s t l)
    (hl : ∀ x, x < 0x20 → slotReg p.slot x ∉ l) : SlotImages t p := by
  unfold SlotImages
  rw [hkept _ (hl 0 (by decide)), hkept _ (hl 8 (by decide)), hkept _ (hl 0x10 (by decide))]
  exact h

theorem EmaClear.keep {t : State} {n : Nat} {l : List Nat} (h : EmaClear s n) (hkept : RegsKept s t l)
    (hema : slotReg n 0x20 ∉ l) (hevals : slotReg n 0x28 ∉ l) : EmaClear t n := by
  unfold EmaClear regFld
  rw [hkept _ hema, hkept _ hevals]
  exact h

theorem slotHeld_congr {t : State} {n : Nat} {l : List Nat} (hkept : RegsKept s t l) (hl : slotReg n 0x30 ∉ l) :
    slotHeld t n = slotHeld s n := by
  unfold slotHeld
  rw [hkept _ hl]

/-- The images of a slot's configuration are written. -/
def writeImages (s : State) (p : SlotP) : State :=
  regSet (regSet (regSet s (slotReg p.slot 0) p.scfg) (slotReg p.slot 8) p.ratio) (slotReg p.slot 0x10) p.scale

theorem writeImages_regsKept (s : State) (p : SlotP) :
    RegsKept s (writeImages s p) [slotReg p.slot 0, slotReg p.slot 8, slotReg p.slot 0x10] :=
  (((RegsKept.refl s).after_regSet _ _).after_regSet _ _).after_regSet _ _

theorem writeImages_images {p : SlotP} (hscfg : p.scfg < 2 ^ 64) (hratio : p.ratio < 2 ^ 64) (hscale : p.scale < 2 ^ 64)
    (s : State) : SlotImages (writeImages s p) p := by
  have hne {x y : Nat} (h : x ≠ y) : slotReg p.slot x ≠ slotReg p.slot y := slotReg_ne _ h
  unfold writeImages
  refine ⟨?_, ?_, ?_⟩
  · rw [regGet_regSet_ne _ _ (hne (by decide)), regGet_regSet_ne _ _ (hne (by decide)), regGet_regSet_same,
      Nat.mod_eq_of_lt hscfg]
  · rw [regGet_regSet_ne _ _ (hne (by decide)), regGet_regSet_same, Nat.mod_eq_of_lt hratio]
  · rw [regGet_regSet_same, Nat.mod_eq_of_lt hscale]

/-- EMA and EVALS of a slot are reset. -/
def clearEma (s : State) (n : Nat) : State :=
  regSetFld (regSet (setSlot s n { slotAt s n with hasEma := false }) (slotReg n 0x20) 0) (slotReg n 0x28) 63 32 0

theorem clearEma_regsKept (s : State) (n : Nat) : RegsKept s (clearEma s n) [slotReg n 0x20, slotReg n 0x28] := by
  have hslot : RegsKept s (setSlot s n { slotAt s n with hasEma := false }) [] := fun _ _ => rfl
  exact (hslot.after_regSet _ _).after_regSet _ _

theorem clearEma_clear (s : State) (n : Nat) : EmaClear (clearEma s n) n := by
  unfold EmaClear clearEma
  rw [regGet_regSetFld_ne _ _ _ _ (slotReg_ne _ (by decide)), regGet_regSet_same,
    regFld_regSetFld_same _ _ _ _ _ (by decide) (by decide)]
  exact ⟨rfl, rfl⟩

/-- What a configuration writes to a slot before its WARM bit follows. -/
def configureSlot (s : State) (p : SlotP) : State :=
  if p.resetEma then clearEma (writeImages s p) p.slot else writeImages s p

theorem setSlotCfg_eq (s : State) (p : SlotP) : setSlotCfg s p = fixWarm (configureSlot s p) p.slot := rfl

theorem fixWarm_regsKept (s : State) (n : Nat) : RegsKept s (fixWarm s n) [slotReg n 0x30] :=
  fun _ ha => regGet_regFlag_ne _ _ _ (List.ne_of_not_mem_cons ha)

theorem fixWarm_held (s : State) (n : Nat) : slotHeld (fixWarm s n) n = slotHeld s n :=
  bit_regFlag_ne _ _ _ _ _ (by decide) (by decide)

theorem setSlotCfg_images {p : SlotP} (hscfg : p.scfg < 2 ^ 64) (hratio : p.ratio < 2 ^ 64) (hscale : p.scale < 2 ^ 64)
    (s : State) : SlotImages (setSlotCfg s p) p := by
  have hne {x y : Nat} (h : x ≠ y) : slotReg p.slot x ≠ slotReg p.slot y := slotReg_ne _ h
  have himages : SlotImages (configureSlot s p) p := by
    have hwritten := writeImages_images hscfg hratio hscale s
    unfold configureSlot
    split
    · refine hwritten.keep (clearEma_regsKept _ _) fun x hx => ?_
      simp [hne (by omega : x ≠ 0x20), hne (by omega : x ≠ 0x28)]
    · exact hwritten
  rw [setSlotCfg_eq]
  refine himages.keep (fixWarm_regsKept _ _) fun x hx => ?_
  simp [hne (by omega : x ≠ 0x30)]

theorem setSlotCfg_held (s : State) (p : SlotP) : slotHeld (setSlotCfg s p) p.slot = slotHeld s p.slot := by
  have hne {x : Nat} (h : 0x30 ≠ x) : slotReg p.slot 0x30 ≠ slotReg p.slot x := slotReg_ne _ h
  have himages : slotHeld (writeImages s p) p.slot = slotHeld s p.slot :=
    slotHeld_congr (writeImages_regsKept s p) (by simp [hne])
  rw [setSlotCfg_eq, fixWarm_held, configureSlot]
  split
  · rw [slotHeld_congr (clearEma_regsKept _ _) (by simp [hne]), himages]
  · exact himages

theorem setSlotCfg_emaClear {p : SlotP} (hreset : p.resetEma = true) (s : State) : EmaClear (setSlotCfg s p) p.slot := by
  rw [setSlotCfg_eq, configureSlot, if_pos hreset]
  exact (clearEma_clear _ _).keep (fixWarm_regsKept _ _) (by simp [slotReg_ne]) (by simp [slotReg_ne])

theorem exec_guardConfigSlot {p : SlotP} (h : Takes s r) (hk : pailKind s r.pail = .admin)
    (hd : s.boot.dev = .ready ∨ s.boot.dev = .job) (hslot : p.slot < 256) (hal : p.scale % 32 = 0) :
    exec (.guardConfigSlot r p) s
      = .next (if slotHeld s p.slot then answer (writePage s r (.guardConfigSlot r p)) r stBadState []
          else answer (setSlotCfg (writePage s r (.guardConfigSlot r p)) p) r stOk []) := by
  have hheld : slotHeld (writePage s r (.guardConfigSlot r p)) p.slot = slotHeld s p.slot := rfl
  refine (pailOut_admin _ h hk (mem_readyJob hd)).trans ?_
  rw [if_neg (by omega), hheld]
  split <;> rfl

theorem guardConfigSlot_completes {p : SlotP} (h : Takes s r) (hk : pailKind s r.pail = .admin)
    (hd : s.boot.dev = .ready ∨ s.boot.dev = .job) (hslot : p.slot < 256) (hal : p.scale % 32 = 0) (hscale : p.scale < 2 ^ 64)
    (hratio : p.ratio < 2 ^ 64) (hscfg : p.scfg < 2 ^ 64) (hfree : slotHeld s p.slot = false) :
    Completes (.guardConfigSlot r p) s fun t =>
      SlotImages t p ∧ slotHeld t p.slot = false ∧ Answered t r stOk [] ∧ (p.resetEma = true → EmaClear t p.slot) := by
  have hexec := exec_guardConfigSlot h hk hd hslot hal
  rw [hfree, if_neg Bool.false_ne_true] at hexec
  have hne (x : Nat) : slotReg p.slot x ∉ [hubReg 0x60] := by simp [slotReg_ne_blocked]
  refine ⟨_, hexec, ?_, ?_, answer_answered _ _ _ _, fun hreset => ?_⟩
  · exact (setSlotCfg_images hscfg hratio hscale _).keep (regsKept_answer _ _ _ _) fun x _ => hne x
  · rw [slotHeld_congr (regsKept_answer _ _ _ _) (hne _), setSlotCfg_held]
    exact hfree
  · exact (setSlotCfg_emaClear hreset _).keep (regsKept_answer _ _ _ _) (hne _) (hne _)

theorem guardConfigSlot_held {p : SlotP} (h : Takes s r) (hk : pailKind s r.pail = .admin)
    (hd : s.boot.dev = .ready ∨ s.boot.dev = .job) (hslot : p.slot < 256) (hal : p.scale % 32 = 0)
    (hheld : slotHeld s p.slot = true) : Answers (.guardConfigSlot r p) s r stBadState [] := by
  have hexec := exec_guardConfigSlot h hk hd hslot hal
  rw [hheld, if_pos rfl] at hexec
  exact answers_of_exec hexec

/-- A trip-record ring of no records, at its base and with its entries and its vector (R194). -/
def EmptyLog (s : State) (base entries vector : Nat) : Prop :=
  regGet s (hubReg 0x40020) = base ∧ regFld s (hubReg 0x40028) 31 0 = entries
    ∧ regFld s (hubReg 0x40028) 42 32 = vector % 2048 ∧ regGet s (hubReg 0x40030) = 0 ∧ regGet s (hubReg 0x40038) = 0

/-- The fields of GRD_LOG_CFG take an entry count and a vector apart. -/
theorem logWord_fields {n v : Nat} (hn : n < 2 ^ 32) (hv : v < 2 ^ 11) :
    v * 2 ^ 32 + n < 2 ^ 64 ∧ bits (v * 2 ^ 32 + n) 31 0 = n ∧ bits (v * 2 ^ 32 + n) 42 32 = v := by
  unfold bits
  omega

theorem setLog_empty {base entries vector : Nat} (hbase : base < 2 ^ 64) (hn : entries < 2 ^ 32) (s : State) :
    EmptyLog (setLog s base entries vector) base entries vector := by
  have hne {x y : Nat} (h : x ≠ y) : hubReg x ≠ hubReg y := hubReg_ne h
  have hmod : vector % 2048 < 2 ^ 11 := Nat.mod_lt _ (by decide)
  obtain ⟨hword, hentries, hvector⟩ := logWord_fields hn hmod
  have hcfg : regGet (setLog s base entries vector) (hubReg 0x40028) = vector % 2048 * 2 ^ 32 + entries := by
    rw [setLog, regGet_regSet_ne _ _ (hne (by decide)), regGet_regSet_ne _ _ (hne (by decide)), regGet_regSet_same,
      Nat.mod_eq_of_lt hword]
  refine ⟨?_, ?_, ?_, ?_, ?_⟩
  · rw [setLog, regGet_regSet_ne _ _ (hne (by decide)), regGet_regSet_ne _ _ (hne (by decide)),
      regGet_regSet_ne _ _ (hne (by decide)), regGet_regSet_same, Nat.mod_eq_of_lt hbase]
  · rw [regFld, hcfg, hentries]
  · rw [regFld, hcfg, hvector]
  · rw [setLog, regGet_regSet_ne _ _ (hne (by decide)), regGet_regSet_same, Nat.zero_mod]
  · rw [setLog, regGet_regSet_same, Nat.zero_mod]

theorem EmptyLog.after_answer {base entries vector : Nat} (h : EmptyLog s base entries vector) :
    EmptyLog (answer s r k bs) base entries vector := by
  have hne {x : Nat} (hx : x ≠ 0x60) : hubReg x ≠ hubReg 0x60 := hubReg_ne hx
  unfold EmptyLog
  rw [regGet_answer (hne (by decide)), regFld_answer (hne (by decide)), regFld_answer (hne (by decide)),
    regGet_answer (hne (by decide)), regGet_answer (hne (by decide))]
  exact h

theorem pow2In_le {x lo hi : Nat} (h : pow2In x lo hi = true) : x ≤ hi := by
  simp only [pow2In, Bool.and_eq_true, decide_eq_true_eq] at h
  obtain ⟨⟨-, hhi⟩, -⟩ := h
  exact hhi

theorem guardConfigLog_completes {base entries vector : Nat} (h : Takes s r) (hk : pailKind s r.pail = .admin)
    (hd : s.boot.dev = .ready ∨ s.boot.dev = .job) (hal : base % 32 = 0) (hbase : base < 2 ^ 64)
    (hn : pow2In entries 16 65536 = true) :
    Completes (.guardConfigLog r base entries vector) s fun t =>
      EmptyLog t base entries vector ∧ Answered t r stOk [] := by
  have hexec : exec (.guardConfigLog r base entries vector) s
      = .next (answer (setLog (writePage s r (.guardConfigLog r base entries vector)) base entries vector) r stOk []) := by
    refine (pailOut_admin _ h hk (mem_readyJob hd)).trans ?_
    rw [if_pos ⟨hal, hn⟩]
    rfl
  exact ⟨_, hexec, (setLog_empty hbase ((pow2In_le hn).trans_lt (by decide)) _).after_answer, answer_answered _ _ _ _⟩

/-! ### The statement -/

/-- Settles O19, command by command: the registers that each effect writes, seen through the answer. -/
theorem observePails : Obligations.ObservePails := by
  unfold Obligations.ObservePails
  refine ⟨?_, ?_, ?_, ?_, ?_, ?_, ?_, ?_⟩
  · exact fun _ _ _ h hk hd hm => counterAccessUser_completes h hk hd hm
  · intro r p s u m h hk hd hlo hhi hev hread
    obtain ⟨t, hexec, hsel, hgen, hanswer⟩ := counterAccessSelect_completes h hk hd hlo hhi hev hread
    refine ⟨t, hexec, fun c hc => ⟨fun h12 => ?_, fun h12 => ?_⟩, hgen, hanswer⟩
    · simpa only [Selects, cselReg, cselLo, h12, if_true, Nat.add_zero] using hsel c hc
    · simpa only [Selects, cselReg, cselLo, Nat.not_lt.2 h12, if_false, Nat.add_right_comm] using hsel c hc
  · exact fun _ _ _ h hk hd hctr => counterAccessSelect_outOfRange h hk hd hctr
  · exact fun _ _ _ h hk hd hok hring => snapshotConfigStart_completes h hk hd hok hring
  · exact fun _ _ _ h hk hd hrun => snapshotConfigStop_completes h hk hd hrun
  · exact fun _ _ _ h hk hd => guardConfigPolicy_completes h hk hd
  · intro r p s h hk hd hslot hal hscale hratio hscfg
    refine ⟨fun hfree => ?_, guardConfigSlot_held h hk hd hslot hal⟩
    obtain ⟨t, hexec, ⟨himg, himg8, himg16⟩, hheld, hanswer, hema⟩ :=
      guardConfigSlot_completes h hk hd hslot hal hscale hratio hscfg hfree
    exact ⟨t, hexec, himg, himg8, himg16, hheld, hanswer, hema⟩
  · intro r base entries vector s h hk hd hal hbase hn
    obtain ⟨t, hexec, ⟨hbase', hentries, hvector, hhead, htail⟩, hanswer⟩ := guardConfigLog_completes h hk hd hal hbase hn
    exact ⟨t, hexec, hbase', hentries, hvector, hhead, htail, hanswer⟩

end Sys2Proof.Machine

namespace Sys2Proof.Machine

/-! ## Words of tile programs (O45): R109, R110, R112, R131, R137 -/

theorem getB_eq_iff (x lo : Nat) (b : Bool) : getB x lo = b ↔ getF x lo 1 = b2n b % 2 := by
  unfold getB getF
  have hbit : x / 2 ^ lo % 2 ^ 1 < 2 := Nat.mod_lt _ (by decide)
  obtain h | h : x / 2 ^ lo % 2 ^ 1 = 0 ∨ x / 2 ^ lo % 2 ^ 1 = 1 := by omega
  all_goals rw [h, show x / 2 ^ lo % 2 = _ from h]; cases b <;> decide

theorem flg_eq_fld (lo : Nat) (b : Bool) : flg lo b = fld lo 1 (b2n b) := by
  cases b <;> rfl

/-- The opcode of an instruction (Table 4.7). -/
def tileOpcode : TileInstr → Nat
  | .alu _ => 0x01
  | .alui _ => 0x02
  | .li _ => 0x03
  | .lih _ => 0x04
  | .ld _ => 0x05
  | .sq _ => 0x06
  | .br _ => 0x08
  | .call _ => 0x09
  | .jr _ => 0x0A
  | .endk => 0x0F
  | .dmv _ => 0x10
  | .dms _ => 0x11
  | .dmr _ => 0x12
  | .dmh _ => 0x13
  | .fence _ => 0x20
  | .waitc _ => 0x22
  | .signal _ => 0x23
  | .csrr _ => 0x24
  | .csrw _ => 0x25
  | .phint _ _ => 0x26
  | .tdesc _ => 0x30
  | .tadj _ => 0x31
  | .feed _ => 0x40
  | .drain _ => 0x41
  | .reds _ => 0x50
  | .redw _ => 0x51
  | .vop _ => 0x60
  | .atb _ => 0x70

/-- The opcode fills the top byte of a word, and the other fields lie below it. -/
theorem encodeTile_top (i : TileInstr) : encodeTile i / 2 ^ 56 = tileOpcode i := by
  cases i
  all_goals
    simp only [encodeTile, encScalar, encDma, tileOpcode, fld, flg_eq_fld]
    omega

theorem tileOpcode_lt (i : TileInstr) : tileOpcode i < 256 := by
  cases i
  all_goals exact of_decide_eq_true rfl

theorem encodeTile_lt (i : TileInstr) : encodeTile i < 2 ^ 64 := by
  have htop := encodeTile_top i
  have hop := tileOpcode_lt i
  omega

theorem getF_opcode_encodeTile (i : TileInstr) : getF (encodeTile i) 56 8 = tileOpcode i := by
  rw [getF, encodeTile_top]
  exact Nat.mod_eq_of_lt (tileOpcode_lt i)

theorem decScalar_encScalar {op : Nat} {f : ScalarF} (hf : f.wf = true) : decScalar (encScalar op f) = f := by
  obtain ⟨d, a, b, fn, imm⟩ := f
  simp only [ScalarF.wf, Bool.and_eq_true, decide_eq_true_eq] at hf
  simp only [decScalar, encScalar, getF, fld, ScalarF.mk.injEq]
  omega

theorem decDma_encDma {op : Nat} {f : DmaF} (hf : f.wf = true) : decDma (encDma op f) = f := by
  obtain ⟨a, b, c, ch, evt, mdir, ds, ss⟩ := f
  have hmdir := b2n_lt mdir
  simp only [DmaF.wf, Bool.and_eq_true, decide_eq_true_eq] at hf
  simp only [decDma, encDma, DmaF.mk.injEq, getB_eq_iff, getF, flg_eq_fld, fld]
  omega

/-- The fields of a word that fit their places read back. -/
theorem fieldsTile_encodeTile {i : TileInstr} (h : i.wf = true) : fieldsTile (encodeTile i) = some i := by
  rw [fieldsTile, getF_opcode_encodeTile]
  cases i with
  | alu f | alui f | li f | lih f | ld f | sq f | br f | call f | jr f | csrr f | csrw f =>
    simp only [tileOpcode, encodeTile, decScalar_encScalar h]
  | dmv f | dms f | dmr f | dmh f => simp only [tileOpcode, encodeTile, decDma_encDma h]
  | endk => rfl
  | fence k | redw k | phint k l =>
    simp only [TileInstr.wf, Bool.and_eq_true, decide_eq_true_eq] at h
    simp only [tileOpcode, encodeTile, getF, fld, Option.some.injEq, TileInstr.fence.injEq, TileInstr.redw.injEq, TileInstr.phint.injEq]
    omega
  | waitc f | signal f | tdesc f | tadj f | feed f | drain f | reds f | vop f | atb f =>
    cases f
    simp only [TileInstr.wf, WaitcF.wf, SignalF.wf, TdescF.wf, TadjF.wf, FeedF.wf, DrainF.wf, RedsF.wf, VopF.wf, AtbF.wf,
      Bool.and_eq_true, decide_eq_true_eq] at h
    simp only [tileOpcode, encodeTile, Option.some.injEq, TileInstr.waitc.injEq, TileInstr.signal.injEq, TileInstr.tdesc.injEq,
      TileInstr.tadj.injEq, TileInstr.feed.injEq, TileInstr.drain.injEq, TileInstr.reds.injEq, TileInstr.vop.injEq,
      TileInstr.atb.injEq, WaitcF.mk.injEq, SignalF.mk.injEq, TdescF.mk.injEq, TadjF.mk.injEq, FeedF.mk.injEq, DrainF.mk.injEq,
      RedsF.mk.injEq, VopF.mk.injEq, AtbF.mk.injEq, getB_eq_iff, getF, flg_eq_fld, fld]
    omega

theorem getF_lt {x lo w n : Nat} (h : 2 ^ w ≤ n) : getF x lo w < n := (Nat.mod_lt _ (Nat.two_pow_pos w)).trans_le h

theorem decScalar_wf (x : Nat) : (decScalar x).wf = true := by
  simp (disch := decide) only [decScalar, ScalarF.wf, getF_lt, decide_true, Bool.and_self]

theorem decDma_wf (x : Nat) : (decDma x).wf = true := by
  simp (disch := decide) only [decDma, DmaF.wf, getF_lt, decide_true, Bool.and_self]

/-- The fields of a word fit their places, and its opcode is the instruction's. -/
theorem fieldsTile_spec {x : Nat} {i : TileInstr} (h : fieldsTile x = some i) :
    i.wf = true ∧ getF x 56 8 = tileOpcode i := by
  unfold fieldsTile at h
  split at h
  all_goals cases h
  all_goals
    rename_i hop
    refine ⟨?_, hop⟩
    simp (disch := decide) only [TileInstr.wf, decScalar_wf, decDma_wf, WaitcF.wf, SignalF.wf, TdescF.wf, TadjF.wf, FeedF.wf,
      DrainF.wf, RedsF.wf, VopF.wf, AtbF.wf, getF_lt, decide_true, Bool.and_self]

theorem decodeTile_eq_some {x : Nat} {i : TileInstr} :
    decodeTile x = some i ↔ fieldsTile x = some i ∧ (encodeTile i = x ∨ i = .endk) ∧ tileAllowed i = true := by
  unfold decodeTile
  cases fieldsTile x with
  | none => simp
  | some j =>
    simp only [Option.some.injEq, Option.ite_none_right_eq_some, Bool.and_eq_true, Bool.or_eq_true, decide_eq_true_eq]
    constructor
    · rintro ⟨hj, rfl⟩; exact ⟨rfl, hj⟩
    · rintro ⟨rfl, hj⟩; exact ⟨hj, rfl⟩

/-- END comes of its opcode alone (R110). -/
theorem decodeTile_eq_endk {x : Nat} : decodeTile x = some .endk ↔ x / 2 ^ 56 % 256 = 0x0F := by
  constructor
  · intro h
    obtain ⟨hfields, -⟩ := decodeTile_eq_some.1 h
    exact (fieldsTile_spec hfields).2
  · intro h
    have hop : getF x 56 8 = 0x0F := h
    refine decodeTile_eq_some.2 ⟨?_, .inr rfl, rfl⟩
    rw [fieldsTile, hop]
    rfl

/-- Settles O45, by the fields of a word read back and the opcode that tells the instructions apart. -/
theorem tileWordsRoundTrip : Obligations.TileWordsRoundTrip := by
  refine ⟨fun i hwf hok => decodeTile_eq_some.2 ⟨fieldsTile_encodeTile hwf, .inl rfl, hok⟩, fun x i h => ?_,
    fun x => decodeTile_eq_endk, encodeTile_lt⟩
  obtain ⟨hfields, hword, hok⟩ := decodeTile_eq_some.1 h
  exact ⟨hword.resolve_right, (fieldsTile_spec hfields).1, hok⟩
end Sys2Proof.Machine

namespace Sys2Proof.Machine

/-! ## Scalar registers and arithmetic (O34): R105, R110 -/

/-! ### Scalar registers -/

theorem sreg_lt (x : CoreSt) (n : Nat) : sreg x n < 2 ^ 64 := by
  unfold sreg
  split
  · decide
  · exact BitVec.isLt _

theorem sreg_congr {x y : CoreSt} (h : x.sregs = y.sregs) (n : Nat) : sreg x n = sreg y n := by
  unfold sreg; rw [h]

theorem setSreg_zero (x : CoreSt) (v : Nat) : setSreg x 0 v = x := if_pos rfl

/-- A write to a scalar register changes the scalar registers alone. -/
theorem setSreg_eq (x : CoreSt) (n v : Nat) : setSreg x n v = { x with sregs := (setSreg x n v).sregs } := by
  unfold setSreg
  split <;> rfl

/-- A write reads back modulo 2⁶⁴, and s0 and every other register as before. -/
theorem sreg_setSreg (x : CoreSt) (n v m : Nat) :
    sreg (setSreg x n v) m = if m = n ∧ m ≠ 0 then v % 2 ^ 64 else sreg x m := by
  by_cases hn : n = 0
  · subst hn
    rw [setSreg_zero, if_neg (fun h => h.2 h.1)]
  · by_cases hm : m = n
    · subst hm
      rw [if_pos ⟨rfl, hn⟩, setSreg, sreg, if_neg hn, if_neg hn]
      split
      · rename_i hv
        rw [FMap.getD, FMap.find_drop_same, hv]
        rfl
      · rw [FMap.getD_set_same, BitVec.toNat_ofNat]
    · rw [if_neg (fun h => hm h.1), setSreg, sreg, sreg, if_neg hn]
      congr 2
      split
      · rw [FMap.getD, FMap.getD, FMap.find_drop_ne _ hm]
      · exact FMap.getD_set_ne _ _ _ hm

/-- The state in which an instruction that only writes a scalar register has written it. -/
def wroteSreg (s : State) (c d v : Nat) : State := nextPc (putSreg s c d v) c

theorem scalarTo_eq (s : State) (c d v : Nat) : scalarTo s c d v = .ok (wroteSreg s c d v) := rfl

theorem wroteSreg_eq (s : State) (c d v : Nat) : wroteSreg s c d v = { s with cores := (wroteSreg s c d v).cores } := rfl

theorem coreAt_wroteSreg (s : State) (c d v : Nat) :
    coreAt (wroteSreg s c d v) c
      = { coreAt s c with pc := ((coreAt s c).pc + 8) % 2 ^ 64, sregs := (setSreg (coreAt s c) d v).sregs } := by
  unfold wroteSreg nextPc putSreg
  rw [coreAt_updCore_same, coreAt_updCore_same, setSreg_eq]

theorem writesSreg_wroteSreg (s : State) (c d v : Nat) : WritesSreg s (wroteSreg s c d v) c d v := by
  refine ⟨(otherCores_updCore s c _).after_updCore _, ?_, fun n => ?_⟩
  · rw [coreAt_wroteSreg]
  · rw [coreAt_wroteSreg, ← sreg_setSreg]
    exact sreg_congr rfl n

/-- An instruction that only writes a scalar register. -/
theorem scalarTo_completes {s : State} {c d v : Nat} {w : TileInstr} {i : Instr} (h : Issues s c w)
    (hexec : exec i s = tileOut s c w (scalarTo s c d v)) :
    Completes i s fun t => WritesSreg s t c d v ∧ t = { s with cores := t.cores } :=
  ⟨_, hexec.trans (tileOut_issues h _), writesSreg_wroteSreg s c d v, wroteSreg_eq s c d v⟩

/-! ### CALL -/

/-- The state in which a CALL has written s31 and gone to its target. -/
theorem coreAt_call (s : State) (c imm v : Nat) :
    coreAt (jumpPc (putSreg s c 31 v) c imm) c
      = { coreAt s c with pc := unsigned 64 (((coreAt s c).pc : Int) + signed 32 imm * 8),
                          sregs := (setSreg (coreAt s c) 31 v).sregs } := by
  unfold jumpPc putSreg
  rw [coreAt_updCore_same, coreAt_updCore_same, setSreg_eq]

theorem sreg_call (s : State) (c imm v n : Nat) :
    sreg (coreAt (jumpPc (putSreg s c 31 v) c imm) c) n = if n = 31 then v % 2 ^ 64 else sreg (coreAt s c) n := by
  have hset : sreg (coreAt (jumpPc (putSreg s c 31 v) c imm) c) n = sreg (setSreg (coreAt s c) 31 v) n :=
    sreg_congr (by rw [coreAt_call]) n
  rw [hset, sreg_setSreg]
  refine if_congr ⟨fun h => h.1, fun h => ⟨h, ?_⟩⟩ rfl rfl
  omega

/-! ### Two's-complement words -/

/-- The signed value of the low bits of a number is that of the word. -/
theorem signed_eq_toInt {w : Nat} (hw : 0 < w) (x : Nat) : signed w x = (BitVec.ofNat w x).toInt := by
  have hpow : 2 ^ w = 2 * 2 ^ (w - 1) := by rw [← Nat.pow_succ', Nat.succ_eq_add_one, Nat.sub_add_cancel hw]
  unfold signed
  rw [BitVec.toInt_eq_toNat_cond, BitVec.toNat_ofNat]
  dsimp only
  refine if_congr ?_ rfl ?_
  · omega
  · push_cast; rfl

theorem signed_toNat (a : BitVec 64) : signed 64 a.toNat = a.toInt := by
  rw [signed_eq_toInt (by decide), BitVec.ofNat_toNat, BitVec.setWidth_eq]

/-- The encoding of an integer is the word of that integer. -/
theorem unsigned_eq_toNat (w : Nat) (x : Int) : unsigned w x = (BitVec.ofInt w x).toNat := by
  rw [BitVec.toNat_ofInt, unsigned]
  push_cast
  rfl

theorem ofNat_unsigned (w : Nat) (x : Int) : BitVec.ofNat w (unsigned w x) = BitVec.ofInt w x := by
  rw [unsigned_eq_toNat, BitVec.ofNat_toNat, BitVec.setWidth_eq]

theorem immExt_signExtend (n : Nat) : BitVec.ofNat 64 (immExt n) = (BitVec.ofNat 32 n).signExtend 64 := by
  rw [immExt, ofNat_unsigned, signed_eq_toInt (by decide)]
  rfl

/-! ### The functions of ALU (Table 4.9) -/

theorem aluOp_sub (a b : BitVec 64) : BitVec.ofNat 64 (aluOp 1 a.toNat b.toNat) = a - b := by
  refine BitVec.eq_of_toInt_eq ?_
  simp only [aluOp, signed_toNat, ofNat_unsigned, BitVec.toInt_ofInt, BitVec.toInt_sub]

theorem aluOp_logic (a b : BitVec 64) :
    BitVec.ofNat 64 (aluOp 2 a.toNat b.toNat) = a &&& b ∧ BitVec.ofNat 64 (aluOp 3 a.toNat b.toNat) = a ||| b
      ∧ BitVec.ofNat 64 (aluOp 4 a.toNat b.toNat) = a ^^^ b := by
  simp only [aluOp, ← BitVec.toNat_and, ← BitVec.toNat_or, ← BitVec.toNat_xor, BitVec.ofNat_toNat, BitVec.setWidth_eq, and_self]

theorem aluOp_shift (a b : BitVec 64) :
    BitVec.ofNat 64 (aluOp 5 a.toNat b.toNat) = a <<< (b.toNat % 64)
      ∧ BitVec.ofNat 64 (aluOp 6 a.toNat b.toNat) = a >>> (b.toNat % 64)
      ∧ BitVec.ofNat 64 (aluOp 7 a.toNat b.toNat) = a.sshiftRight (b.toNat % 64) := by
  refine ⟨BitVec.eq_of_toNat_eq ?_, BitVec.eq_of_toNat_eq ?_, ?_⟩
  · simp only [aluOp, BitVec.toNat_ofNat, Nat.mod_mod, BitVec.toNat_shiftLeft, Nat.shiftLeft_eq]
  · rw [BitVec.toNat_ofNat, BitVec.toNat_ushiftRight, Nat.shiftRight_eq_div_pow]
    exact Nat.mod_eq_of_lt ((Nat.div_le_self ..).trans_lt a.isLt)
  · simp only [aluOp, signed_toNat, ofNat_unsigned, BitVec.sshiftRight, Int.shiftRight_eq_div_pow, Nat.cast_pow, Nat.cast_ofNat]

theorem aluOp_arith (a b : BitVec 64) :
    BitVec.ofNat 64 (aluOp 0 a.toNat b.toNat) = a + b ∧ BitVec.ofNat 64 (aluOp 8 a.toNat b.toNat) = a * b := by
  refine ⟨BitVec.eq_of_toNat_eq ?_, BitVec.eq_of_toNat_eq ?_⟩
  · simp only [aluOp, add64, BitVec.toNat_ofNat, Nat.mod_mod, BitVec.toNat_add]
  · simp only [aluOp, BitVec.toNat_ofNat, Nat.mod_mod, BitVec.toNat_mul]

theorem aluOp_compare (a b : BitVec 64) :
    aluOp 10 a.toNat b.toNat = (if a.slt b then 1 else 0) ∧ aluOp 11 a.toNat b.toNat = (if a.ult b then 1 else 0) := by
  simp only [aluOp, signed_toNat]
  exact ⟨rfl, rfl⟩

theorem aluOp_select (a b : BitVec 64) :
    aluOp 12 a.toNat b.toNat = (if a.sle b then a else b).toNat
      ∧ aluOp 13 a.toNat b.toNat = (if a.sle b then b else a).toNat := by
  simp only [aluOp, signed_toNat, BitVec.sle_eq_decide, decide_eq_true_eq, apply_ite BitVec.toNat, and_self]

/-! ### The statement -/

/-- Settles O34, by one rule for the instructions that write a scalar register, and the functions of ALU in groups. -/
theorem scalarArithmetic : Obligations.ScalarArithmetic := by
  unfold Obligations.ScalarArithmetic
  refine ⟨fun x n => ⟨sreg_lt x n, if_pos rfl, setSreg_zero x⟩, fun c f s h => ⟨_, tileOut_issues h _, ?_⟩,
    fun c f s h => scalarTo_completes h rfl, fun c f s h => scalarTo_completes h rfl, fun c f s h => scalarTo_completes h rfl,
    fun c f s h => scalarTo_completes h rfl, fun n _ => immExt_signExtend n, fun a b => ?_⟩
  · exact (sreg_call ..).trans (if_pos rfl)
  · obtain ⟨hadd, hmul⟩ := aluOp_arith a b
    obtain ⟨hand, hor, hxor⟩ := aluOp_logic a b
    obtain ⟨hsl, hsr, hsra⟩ := aluOp_shift a b
    obtain ⟨hslt, hult⟩ := aluOp_compare a b
    obtain ⟨hmin, hmax⟩ := aluOp_select a b
    exact ⟨hadd, aluOp_sub a b, hand, hor, hxor, hsl, hsr, hsra, hmul, rfl, hslt, hult, hmin, hmax, rfl, rfl⟩

end Sys2Proof.Machine

namespace Sys2Proof.Machine

/-! ## LD and SQ (O35): R111, R141, R204, R210 -/

/-! ### Reads of code words without an error -/

theorem checkSram_plain {s : State} {c off n : Nat} (src : Nat) (h : PlainSram s c off n) : checkSram s c off n src = (none, s) := by
  have hword : ∀ w ∈ wordsOf 16 off n, checkSramWord s c w src = (false, s) := fun w hw => by
    unfold checkSramWord; rw [h w hw]
  unfold checkSram
  generalize wordsOf 16 off n = l at hword
  induction l with
  | nil => rfl
  | cons w l ih =>
    rw [List.foldl_cons, hword w (by simp)]
    exact ih fun v hv => hword v (by simp [hv])

/-- A read of words that carry no error gives their bytes, and uses a free value alone. -/
theorem readSram_plain {s : State} {c off n : Nat} (src : Nat) (h : PlainSram s c off n) :
    readSram s c off n src = (bytesAt s (sramKey c off) n, false, bump s) := by
  unfold readSram
  rw [checkSram_plain src h]

/-- Eight aligned bytes lie in one code word. -/
theorem wordsOf_eight {off : Nat} (h : off % 8 = 0) : wordsOf 16 off 8 = [off / 16 * 16] := by
  have hone : (off + 8 - 1) / 16 - off / 16 + 1 = 1 := by omega
  unfold wordsOf
  rw [if_neg (by decide), hone]
  rfl

/-! ### An access of the control processor (R141) -/

theorem ownAccess_none {s : State} {c : Nat} {reads writes : List (Nat × Nat)}
    (h : unordered (coreAt s c) none reads writes = none) : ownAccess s c reads writes = .ok s := by
  unfold ownAccess; rw [h]

theorem ownAccess_some {s : State} {c k : Nat} {reads writes : List (Nat × Nat)}
    (h : unordered (coreAt s c) none reads writes = some k) : ownAccess s c reads writes = .error (.undefinedCase k) := by
  unfold ownAccess; rw [h]

theorem undefined_of_tile {s : State} {c k : Nat} {w : TileInstr} {i : Instr} {e : Except Halt State} (h : Issues s c w)
    (hexec : exec i s = tileOut s c w e) (he : e = .error (.undefinedCase k)) : Undefined i s k :=
  (hexec.trans (tileOut_issues h e)).trans (by rw [he]; rfl)

/-! ### LD -/

section
variable {s : State} {c : Nat} {f : ScalarF}

theorem loadWord_beyond (h : 0x800000 ≤ memOff s c f) : loadWord s c f = .error (.undefinedCase 17) := if_pos h

theorem loadWord_misaligned (hin : memOff s c f < 0x800000) (hal : memOff s c f % 8 ≠ 0) :
    loadWord s c f = .error (.undefinedCase 1) := (if_neg (Nat.not_le.2 hin)).trans (if_pos hal)

theorem loadWord_aligned (hin : memOff s c f < 0x800000) (hal : memOff s c f % 8 = 0) :
    loadWord s c f = (do
      let s1 ← ownAccess s c [(memOff s c f, 8)] []
      scalarTo (readSram s1 c (memOff s c f) 8 0).2.2 c f.d (leNat (readSram s1 c (memOff s c f) 8 0).1)) :=
  (if_neg (Nat.not_le.2 hin)).trans (if_neg (not_not.2 hal))

theorem ld_completes (h : Issues s c (.ld f)) (hin : memOff s c f < 0x800000) (hal : memOff s c f % 8 = 0)
    (hord : unordered (coreAt s c) none [(memOff s c f, 8)] [] = none) : Completes (.ld c f) s fun t =>
      WritesSreg (readSram s c (memOff s c f) 8 0).2.2 t c f.d (leNat (readSram s c (memOff s c f) 8 0).1)
        ∧ (FMap.find s.marks (sramKey c (memOff s c f / 16 * 16)) = none →
          WritesSreg s t c f.d (leNat (bytesAt s (sramKey c (memOff s c f)) 8))
            ∧ t = { s with cores := t.cores, free := t.free }) := by
  refine ⟨_, (tileOut_issues h _).trans ?_, writesSreg_wroteSreg _ c f.d _, fun hmark => ?_⟩
  · rw [loadWord_aligned hin hal, ownAccess_none hord]
    rfl
  · have hplain : PlainSram s c (memOff s c f) 8 := fun w hw => by
      rw [wordsOf_eight hal] at hw
      rw [List.mem_singleton.1 hw]
      exact hmark
    rw [readSram_plain 0 hplain]
    exact ⟨writesSreg_wroteSreg (bump s) c f.d _, wroteSreg_eq (bump s) c f.d _⟩

/-! ### SQ -/

theorem storePair_beyond (h : 0x800000 ≤ memOff s c f) : storePair s c f = .error (.undefinedCase 17) := if_pos h

theorem storePair_misaligned (hin : memOff s c f < 0x800000) (hal : memOff s c f % 16 ≠ 0 ∨ f.b % 2 ≠ 0) :
    storePair s c f = .error (.undefinedCase 1) :=
  (if_neg (Nat.not_le.2 hin)).trans (if_pos (by omega))

/-- The bytes of the two registers that SQ stores. -/
def pairBytes (s : State) (c : Nat) (f : ScalarF) : List Byte := leBytes 8 (sval s c f.b) ++ leBytes 8 (sval s c (f.b + 1))

theorem length_pairBytes : (pairBytes s c f).length = 16 := by
  rw [pairBytes, List.length_append, length_leBytes, length_leBytes]

/-- The state in which SQ has stored its code word. -/
def storedPair (s : State) (c : Nat) (f : ScalarF) : State :=
  noteOut (writeMem s 16 (sramKey c (memOff s c f)) (pairBytes s c f)) c (sramKey c (memOff s c f)) 16

theorem storePair_aligned (hin : memOff s c f < 0x800000) (hal : memOff s c f % 16 = 0) (hb : f.b % 2 = 0) (hle : f.b ≤ 30) :
    storePair s c f = (do
      let s1 ← ownAccess s c [] [(memOff s c f, 16)]
      .ok (nextPc (noteOut (writeMem s1 16 (sramKey c (memOff s c f)) (pairBytes s c f)) c (sramKey c (memOff s c f)) 16) c)) :=
  (if_neg (Nat.not_le.2 hin)).trans (if_neg (by omega))

theorem noteOut_eq (s : State) (c k n : Nat) : noteOut s c k n = { s with wq := (noteOut s c k n).wq } := by
  unfold noteOut
  split <;> rfl

theorem writeMem_eq (s : State) (g k : Nat) (bs : List Byte) :
    writeMem s g k bs = { s with mem := (writeMem s g k bs).mem, marks := (writeMem s g k bs).marks } := by
  unfold writeMem
  dsimp only
  split <;> rfl

theorem storedPair_eq :
    storedPair s c f = { s with mem := (storedPair s c f).mem, marks := (storedPair s c f).marks, wq := (storedPair s c f).wq } := by
  unfold storedPair
  rw [noteOut_eq, writeMem_eq]

theorem sameWork_storedPair : SameWork s (storedPair s c f) :=
  SameWork.trans (.of_wq (by rw [writeMem_eq])) (sameWork_noteOut ..)

theorem find_storedPair (hal : memOff s c f % 16 = 0) (k : Nat) :
    FMap.find (storedPair s c f).mem k
      = if sramKey c (memOff s c f) ≤ k ∧ k < sramKey c (memOff s c f) + 16
        then (pairBytes s c f)[k - sramKey c (memOff s c f)]? else FMap.find s.mem k := by
  have hkey : sramKey c (memOff s c f) % 16 = 0 := by unfold sramKey; omega
  have hfind := find_writeMem_whole s 16 _ (pairBytes s c f) k (by decide) hkey (by rw [length_pairBytes])
  rw [length_pairBytes] at hfind
  rw [← hfind, storedPair, noteOut_eq]

/-- A core that goes to its next instruction, its kernel running. -/
theorem nextInstr_nextPc {s u : State} (h : u.cores = s.cores) (hrun : (coreAt s c).running = true) :
    NextInstr s (nextPc u c) c := by
  refine ⟨(otherCores_of_cores h c).after_updCore _, ?_⟩
  unfold nextPc
  rw [coreAt_updCore_same, coreAt_congr h]
  exact ⟨rfl, rfl, rfl, rfl, hrun⟩

theorem sq_completes (h : Issues s c (.sq f)) (hin : memOff s c f < 0x800000) (hal : memOff s c f % 16 = 0) (hb : f.b % 2 = 0)
    (hle : f.b ≤ 30) (hord : unordered (coreAt s c) none [] [(memOff s c f, 16)] = none) : Completes (.sq c f) s fun t =>
      NextInstr s t c ∧ MemKept s t (sramKey c (memOff s c f)) 16
        ∧ (∀ k, k < 16 → FMap.find t.mem (sramKey c (memOff s c f) + k)
            = (leBytes 8 (sval s c f.b) ++ leBytes 8 (sval s c (f.b + 1)))[k]?)
        ∧ SameWork s t ∧ t = { s with cores := t.cores, mem := t.mem, marks := t.marks, wq := t.wq } := by
  have hcores : (storedPair s c f).cores = s.cores := by rw [storedPair_eq]
  refine ⟨nextPc (storedPair s c f) c, (tileOut_issues h _).trans ?_, nextInstr_nextPc hcores (running_of_issues h),
    fun k hk => ?_, fun k hk => ?_, sameWork_storedPair, ?_⟩
  · rw [storePair_aligned hin hal hb hle, ownAccess_none hord]
    rfl
  · exact (find_storedPair hal k).trans (if_neg (by omega))
  · refine (find_storedPair hal _).trans ((if_pos (by omega)).trans ?_)
    rw [Nat.add_sub_cancel_left, pairBytes]
  · unfold nextPc updCore setCore
    rw [storedPair_eq]

end

/-- Settles O35, by what LD reads and SQ stores where R141 orders them, and the four ways in which they are undefined. -/
theorem scalarMemory : Obligations.ScalarMemory :=
  ⟨fun _ _ _ h => ld_completes h, fun _ _ _ h => sq_completes h, fun _ _ _ =>
    ⟨fun h hout => undefined_of_tile h rfl (loadWord_beyond hout), fun h hout => undefined_of_tile h rfl (storePair_beyond hout),
      fun h hin hal => undefined_of_tile h rfl (loadWord_misaligned hin hal),
      fun h hin hal => undefined_of_tile h rfl (storePair_misaligned hin hal),
      fun _ h hin hal hord => undefined_of_tile h rfl (by rw [loadWord_aligned hin hal, ownAccess_some hord]; rfl),
      fun _ h hin hal hb hle hord => undefined_of_tile h rfl (by rw [storePair_aligned hin hal hb hle, ownAccess_some hord]; rfl)⟩⟩

end Sys2Proof.Machine

namespace Sys2Proof.Machine

/-! ## Control instructions (O36): R103, R105, R109, R110, R136, R137 -/

/-! ### BR, CALL and JR -/

/-- The conditions of BR are those of 64-bit words (Table 4.8). -/
theorem brCond_words (a b : BitVec 64) :
    brCond 0 a.toNat b.toNat = (a == b) ∧ brCond 1 a.toNat b.toNat = (a != b)
      ∧ brCond 2 a.toNat b.toNat = a.slt b ∧ brCond 3 a.toNat b.toNat = b.sle a ∧ brCond 4 a.toNat b.toNat = a.ult b
      ∧ brCond 5 a.toNat b.toNat = b.ule a := by
  simp only [brCond, signed_toNat, ← BitVec.toNat_eq, ne_eq, decide_not, ← beq_eq_decide, BitVec.slt_eq_decide, BitVec.sle_eq_decide,
    BitVec.ult_eq_decide, BitVec.ule_eq_decide, and_self, bne]

theorem br_completes {s : State} {c : Nat} {f : ScalarF} (h : Issues s c (.br f)) : Completes (.br c f) s fun t =>
    OtherCores s t c ∧ t = { s with cores := t.cores }
      ∧ coreAt t c = { coreAt s c with pc :=
          (if brCond f.fn (sval s c f.a) (sval s c f.b) then unsigned 64 (((coreAt s c).pc : Int) + signed 32 f.imm * 8)
           else ((coreAt s c).pc + 8) % 2 ^ 64) } := by
  refine ⟨_, tileOut_issues h _, ?_⟩
  split
  · exact ⟨otherCores_updCore s c _, rfl, coreAt_updCore_same ..⟩
  · exact ⟨otherCores_updCore s c _, rfl, coreAt_updCore_same ..⟩

theorem call_completes {s : State} {c : Nat} {f : ScalarF} (h : Issues s c (.call f)) : Completes (.call c f) s fun t =>
    OtherCores s t c ∧ t = { s with cores := t.cores }
      ∧ coreAt t c = { coreAt s c with
          pc := unsigned 64 (((coreAt s c).pc : Int) + signed 32 f.imm * 8), sregs := (coreAt t c).sregs }
      ∧ ∀ n, sreg (coreAt t c) n = if n = 31 then ((coreAt s c).pc + 8) % 2 ^ 64 else sreg (coreAt s c) n := by
  refine ⟨_, tileOut_issues h _, (otherCores_updCore s c _).after_updCore _, rfl, ?_, sreg_call s c f.imm _⟩
  rw [coreAt_call]

theorem jr_completes {s : State} {c : Nat} {f : ScalarF} (h : Issues s c (.jr f)) : Completes (.jr c f) s fun t =>
    OtherCores s t c ∧ t = { s with cores := t.cores } ∧ coreAt t c = { coreAt s c with pc := sval s c f.a } :=
  ⟨_, tileOut_issues h _, otherCores_updCore s c _, rfl, coreAt_updCore_same ..⟩

/-! ### END (R103) -/

/-- A core that ends its part of an item changes the items alone. -/
theorem coreDone_eq (s : State) (c : Nat) : coreDone s c = { s with wq := (coreDone s c).wq } := by
  unfold coreDone
  split
  · rfl
  · dsimp only
    split
    · split <;> rfl
    · rfl

/-- The item of a core ends with its last core. -/
theorem ended_coreDone {s : State} {c q idx : Nat} {i : Item} (howner : (coreAt s c).owner = some (q, idx))
    (hitem : itemAt s q idx = some i) (hphase : i.phase = .running) (hwait : i.waitCores = []) (hrun : i.runCores = [c]) :
    Ended (coreDone s c) q idx stOk := by
  have hleft : itemAt (updItem s q idx fun i => { i with runCores := i.runCores.filter (· ≠ c) }) q idx
      = some { i with runCores := i.runCores.filter (· ≠ c) } := itemAt_updItem_same (fun _ => by rfl) hitem
  unfold coreDone
  rw [howner]
  dsimp only
  rw [hleft]
  dsimp only
  rw [if_pos ⟨hphase, by simp [hrun], by simp [hwait]⟩]
  exact ended_endItem stOk hleft

theorem endk_completes {s : State} {c : Nat} (h : Issues s c .endk) (hdone : kindsDone (coreAt s c) 0xFF = true) :
    Completes (.endk c) s fun t =>
      (coreAt t c).running = false ∧ (coreAt t c).owner = none ∧ OtherCores s t c
        ∧ t = { s with cores := t.cores, wq := t.wq }
        ∧ (∀ q idx i, (coreAt s c).owner = some (q, idx) → itemAt s q idx = some i → i.phase = .running →
            i.waitCores = [] → i.runCores = [c] → Ended t q idx stOk) := by
  have hcores : (coreDone s c).cores = s.cores := by rw [coreDone_eq]
  refine ⟨endKernel s c, (tileOut_issues h _).trans (by rw [if_pos hdone]; rfl), ?_, ?_,
    (otherCores_of_cores hcores c).after_updCore _, ?_, fun q idx i howner hitem hphase hwait hrun =>
      ended_coreDone howner hitem hphase hwait hrun⟩
  · unfold endKernel; rw [coreAt_updCore_same]
  · unfold endKernel; rw [coreAt_updCore_same]
  · unfold endKernel; rw [coreDone_eq]; rfl

/-- An instruction whose condition does not hold leaves the state as it is. -/
theorem waits_of_tile {s : State} {c : Nat} {w : TileInstr} {i : Instr} {e : Except Halt State} (h : Issues s c w)
    (hexec : exec i s = tileOut s c w e) (he : e = .ok s) : Waits i s :=
  (hexec.trans (tileOut_issues h e)).trans (by rw [he]; rfl)

theorem endk_waits {s : State} {c : Nat} (h : Issues s c .endk) (hdone : kindsDone (coreAt s c) 0xFF = false) :
    Waits (.endk c) s := waits_of_tile h rfl (congrArg _ (if_neg (ne_true_of_eq_false hdone)))

/-! ### FENCE and WAITC (R136, R137) -/

/-- An instruction that changes no register of its core goes to the next one. -/
theorem nextInstr_updCore {s : State} {c : Nat} {f : CoreSt → CoreSt} (hrun : (coreAt s c).running = true)
    (hf : ∀ x, (f x).pc = x.pc ∧ (f x).sregs = x.sregs ∧ (f x).tregs = x.tregs ∧ (f x).code = x.code ∧ (f x).running = x.running) :
    NextInstr s (nextPc (updCore s c f) c) c := by
  obtain ⟨hpc, hsregs, htregs, hcode, hrunning⟩ := hf (coreAt s c)
  refine ⟨(otherCores_updCore s c f).after_updCore _, ?_⟩
  unfold nextPc
  rw [coreAt_updCore_same, coreAt_updCore_same]
  exact ⟨by rw [hpc], hsregs, htregs, hcode, hrunning.trans hrun⟩

theorem fence_completes {s : State} {c k : Nat} (h : Issues s c (.fence k)) (hdone : kindsDone (coreAt s c) k = true) :
    Completes (.fence c k) s fun t => NextInstr s t c ∧ t = { s with cores := t.cores } :=
  ⟨nextPc (fenceOrders s c k) c, (tileOut_issues h _).trans (by rw [if_pos hdone]; rfl),
    nextInstr_updCore (running_of_issues h) fun _ => ⟨rfl, rfl, rfl, rfl, rfl⟩, rfl⟩

theorem fence_waits {s : State} {c k : Nat} (h : Issues s c (.fence k)) (hdone : kindsDone (coreAt s c) k = false) :
    Waits (.fence c k) s := waits_of_tile h rfl (congrArg _ (if_neg (ne_true_of_eq_false hdone)))

/-- The state in which a WAITC has cleared the bits it waited for and ordered the operations that set them. -/
def eventsTaken (s : State) (c : Nat) (f : WaitcF) : State :=
  let m := BitVec.ofNat 64 (sval s c f.m)
  waitOrders (if f.clr then updCore s c fun x => { x with events := x.events &&& ~~~m } else s) c ((coreAt s c).events &&& m).toNat

theorem takeEvents_ready {s : State} {c : Nat} {f : WaitcF}
    (h : eventsReady (coreAt s c).events (BitVec.ofNat 64 (sval s c f.m)) f.any = true) :
    takeEvents s c f = wroteSreg (eventsTaken s c f) c f.d (coreAt s c).events.toNat := by
  unfold takeEvents
  dsimp only
  rw [h]
  rfl

theorem eventsTaken_spec (s : State) (c : Nat) (f : WaitcF) :
    OtherCores s (eventsTaken s c f) c ∧ eventsTaken s c f = { s with cores := (eventsTaken s c f).cores }
      ∧ ∃ order, coreAt (eventsTaken s c f) c = { coreAt s c with order, events :=
          (if f.clr then (coreAt s c).events &&& ~~~BitVec.ofNat 64 (sval s c f.m) else (coreAt s c).events) } := by
  unfold eventsTaken waitOrders
  dsimp only
  rw [coreAt_updCore_same]
  split
  · rw [coreAt_updCore_same]
    exact ⟨(otherCores_updCore s c _).after_updCore _, rfl, _, rfl⟩
  · exact ⟨otherCores_updCore s c _, rfl, _, rfl⟩

theorem waitc_completes {s : State} {c : Nat} {f : WaitcF} (h : Issues s c (.waitc f))
    (hready : eventsReady (coreAt s c).events (BitVec.ofNat 64 (sval s c f.m)) f.any = true) :
    Completes (.waitc c f) s fun t =>
      OtherCores s t c ∧ t = { s with cores := t.cores }
        ∧ (coreAt t c).pc = ((coreAt s c).pc + 8) % 2 ^ 64
        ∧ (coreAt t c).events = (if f.clr then (coreAt s c).events &&& ~~~(BitVec.ofNat 64 (sval s c f.m)) else (coreAt s c).events)
        ∧ ∀ n, sreg (coreAt t c) n = if n = f.d ∧ n ≠ 0 then (coreAt s c).events.toNat else sreg (coreAt s c) n := by
  obtain ⟨hothers, heq, order, hcore⟩ := eventsTaken_spec s c f
  obtain ⟨hothers', -, hreg⟩ := writesSreg_wroteSreg (eventsTaken s c f) c f.d (coreAt s c).events.toNat
  refine ⟨_, (tileOut_issues h _).trans (by rw [takeEvents_ready hready]; rfl), hothers.trans hothers', ?_, ?_, ?_, fun n => ?_⟩
  · rw [wroteSreg_eq, heq]
  · rw [coreAt_wroteSreg, hcore]
  · rw [coreAt_wroteSreg, hcore]
  · rw [hreg, Nat.mod_eq_of_lt (coreAt s c).events.isLt]
    exact if_congr Iff.rfl rfl (sreg_congr (by rw [hcore]) n)

theorem waitc_waits {s : State} {c : Nat} {f : WaitcF} (h : Issues s c (.waitc f))
    (hready : eventsReady (coreAt s c).events (BitVec.ofNat 64 (sval s c f.m)) f.any = false) : Waits (.waitc c f) s := by
  refine waits_of_tile h rfl (congrArg _ ?_)
  unfold takeEvents
  dsimp only
  rw [hready]
  rfl

theorem eventsReady_iff (ev m : BitVec 64) : (eventsReady ev m false = true ↔ ev &&& m = m)
    ∧ (eventsReady ev m true = true ↔ m = 0 ∨ ev &&& m ≠ 0) := by
  simp only [eventsReady, Bool.or_eq_true, beq_iff_eq, bne_iff_ne, if_true, Bool.false_eq_true, if_false, and_true]
  exact ⟨fun h => h.elim (fun h => by rw [h]; exact BitVec.and_zero) id, .inr⟩

/-- Settles O36, instruction by instruction. -/
theorem controlFlow : Obligations.ControlFlow :=
  ⟨fun _ _ _ => br_completes, brCond_words, fun _ _ _ => call_completes, fun _ _ _ => jr_completes,
    fun _ _ h => ⟨endk_completes h, endk_waits h⟩, fun _ _ _ h => ⟨fence_completes h, fence_waits h⟩,
    fun _ _ _ h => ⟨waitc_completes h, waitc_waits h⟩, eventsReady_iff⟩

end Sys2Proof.Machine

namespace Sys2Proof.Machine

/-! ## Core control registers, SIGNAL and PHINT (O37): R107, R108, R138, R139, R380 -/

/-! ### Reads of core control registers (Table 4.2) -/

theorem csrRead_mirror {s : State} {c : Nat} {p : Nat × Nat} (hp : p ∈ [(0x010, 0x108), (0x011, 0x110), (0x012, 0x118),
    (0x013, 0x120), (0x014, 0x128), (0x020, 0x200), (0x021, 0x208), (0x022, 0x210)]) :
    csrRead s c p.1 = regGet s (coreReg c p.2) := by
  simp only [List.mem_cons, List.not_mem_nil, or_false] at hp
  rcases hp with rfl | rfl | rfl | rfl | rfl | rfl | rfl | rfl
  all_goals rfl

theorem csrMirror_unlisted {n : Nat} (h : n ∉ [0x010, 0x011, 0x012, 0x013, 0x014, 0x020, 0x021, 0x022]) : csrMirror n = none := by
  unfold csrMirror
  split
  all_goals simp_all

theorem csrRead_unlisted {s : State} {c n : Nat} (h : n ∉ [0x000, 0x001, 0x002, 0x010, 0x011, 0x012, 0x013, 0x014, 0x020, 0x021,
    0x022, 0x030, 0x031, 0x040, 0x041, 0x042]) : csrRead s c n = 0 := by
  have hmirror : csrMirror n = none := csrMirror_unlisted fun hn => h (by simp_all)
  unfold csrRead
  rw [hmirror]
  dsimp only
  split
  all_goals simp_all

theorem csrr_completes {s : State} {c : Nat} {f : ScalarF} (h : Issues s c (.csrr f)) : Completes (.csrr c f) s fun t =>
    WritesSreg s t c f.d (csrRead s c f.imm) ∧ t = { s with cores := t.cores, free := t.free } :=
  ⟨_, tileOut_issues h _, writesSreg_wroteSreg (bump s) c f.d _, wroteSreg_eq (bump s) c f.d _⟩

/-! ### Writes of core control registers -/

/-- The CORE_ registers of a core lie in its block of its sheaf's window. -/
theorem regSpec_coreReg {c off : Nat} (hc : c < 1024) (hoff : off < 0x10000) : regSpec (coreReg c off) = coreSpec c off := by
  have hwin : coreReg c off - 0x30000000000 = c / 128 * 0x200000000 + (c % 128 * 0x10000 + off) := by
    unfold coreReg sheafWin; omega
  have hin : (decide (0x30000000000 ≤ coreReg c off) && decide (coreReg c off < 0x31000000000)) = true := by
    simp only [Bool.and_eq_true, decide_eq_true_eq]
    unfold coreReg sheafWin
    omega
  rw [regSpec, if_pos hin, hwin, winSpec, if_pos (by omega)]
  exact congrArg₂ coreSpec (by omega) (by omega)

theorem writeValue_readOnly {r : RegSpec} (hrw : r.rw = 0) (hc : r.w1c = 0) (hs : r.w1s = 0) (old v : Nat) :
    writeValue r old v 0 = old := by
  simp [writeValue, hrw, hc, hs]

theorem writeValue_allBits (x old v : Nat) (hold : old < 2 ^ 64) (hv : v < 2 ^ 64) :
    writeValue (.rwr (2 ^ 64 - 1) x) old v 0 = v := by
  simp only [writeValue, RegSpec.rwr, Nat.and_two_pow_sub_one_eq_mod, Nat.mod_eq_of_lt hold, Nat.mod_eq_of_lt hv]
  simp

theorem csrWrite_mirror {s : State} {c n o v : Nat} {r : RegSpec} (hm : csrMirror n = some o) (hr : regSpec (coreReg c o) = some r) :
    csrWrite s c n v = regSet s (coreReg c o) (writeValue r (regGet s (coreReg c o)) v 0) := by
  fun_cases csrWrite s c n v
  all_goals simp_all

/-- A mask takes the value that CSRW writes. -/
theorem csrWrite_mask {s : State} {c v : Nat} {p : Nat × Nat}
    (hp : p ∈ [(0x010, 0x108), (0x011, 0x110), (0x012, 0x118), (0x013, 0x120)]) (hc : c < 1024) (hv : v < 2 ^ 64) :
    csrWrite s c p.1 v = regSet s (coreReg c p.2) v := by
  have hspec : csrMirror p.1 = some p.2 ∧ p.2 < 0x10000 ∧ coreSpec c p.2 = some (.rwr (2 ^ 64 - 1) (2 ^ 64 - 1)) := by
    simp only [List.mem_cons, List.not_mem_nil, or_false] at hp
    rcases hp with rfl | rfl | rfl | rfl
    all_goals exact ⟨rfl, by decide, rfl⟩
  obtain ⟨hm, hoff, hr⟩ := hspec
  rw [csrWrite_mirror hm ((regSpec_coreReg hc hoff).trans hr), writeValue_allBits _ _ _ (regGet_lt ..) hv]

/-- ARR_PERMIT and CHN_ANCHOR are read-only. -/
theorem csrWrite_readOnly {s : State} {c n v : Nat} (hn : n ∈ [0x014, 0x021]) (hc : c < 1024) :
    ∃ a, csrWrite s c n v = regSet s a (regGet s a) := by
  have hspec : ∃ o x, csrMirror n = some o ∧ o < 0x10000 ∧ coreSpec c o = some (.ro x) := by
    simp only [List.mem_cons, List.not_mem_nil, or_false] at hn
    rcases hn with rfl | rfl
    · exact ⟨0x128, 16, rfl, by decide, rfl⟩
    · exact ⟨0x208, 0, rfl, by decide, rfl⟩
  obtain ⟨o, x, hm, hoff, hr⟩ := hspec
  refine ⟨coreReg c o, ?_⟩
  rw [csrWrite_mirror hm ((regSpec_coreReg hc hoff).trans hr), writeValue_readOnly rfl rfl rfl]

theorem csrWrite_unlisted {s : State} {c n v : Nat}
    (hn : n ∉ [0x010, 0x011, 0x012, 0x013, 0x014, 0x020, 0x021, 0x022, 0x040, 0x041]) : csrWrite s c n v = s := by
  have hmirror : csrMirror n = none := csrMirror_unlisted fun h => hn (by simp_all)
  fun_cases csrWrite s c n v
  all_goals simp_all

theorem regsKept_regSet_same (s : State) (a : Nat) : RegsKept s (regSet s a (regGet s a)) [] := by
  intro b _
  by_cases hb : b = a
  · rw [hb, regGet_regSet_same, Nat.mod_eq_of_lt (regGet_lt ..)]
  · exact regGet_regSet_ne s _ hb

section
variable {s : State} {c : Nat} {f : ScalarF} (h : Issues s c (.csrw f))
include h

/-- A CSRW that makes new event bits of the old ones. -/
theorem csrw_events {g : Word → Word}
    (hwrite : csrWrite s c f.imm (sval s c f.a) = updCore s c fun x => { x with events := g x.events }) :
    Completes (.csrw c f) s fun t =>
      NextInstr s t c ∧ (coreAt t c).events = g (coreAt s c).events ∧ t = { s with cores := t.cores } := by
  refine ⟨nextPc (updCore s c fun x => { x with events := g x.events }) c, (tileOut_issues h _).trans (by rw [hwrite]; rfl),
    nextInstr_updCore (running_of_issues h) fun _ => ⟨rfl, rfl, rfl, rfl, rfl⟩, ?_, rfl⟩
  unfold nextPc
  rw [coreAt_updCore_same, coreAt_updCore_same]

theorem csrw_mask {p : Nat × Nat} (hp : p ∈ [(0x010, 0x108), (0x011, 0x110), (0x012, 0x118), (0x013, 0x120)]) (himm : f.imm = p.1)
    (hc : c < 1024) : Completes (.csrw c f) s fun t =>
      NextInstr s t c ∧ regGet t (coreReg c p.2) = sval s c f.a ∧ RegsKept s t [coreReg c p.2]
        ∧ t = { s with cores := t.cores, regs := t.regs } := by
  have hv : sval s c f.a < 2 ^ 64 := sreg_lt ..
  refine ⟨nextPc (regSet s (coreReg c p.2) (sval s c f.a)) c,
    (tileOut_issues h _).trans (by rw [himm, csrWrite_mask hp hc hv]; rfl), nextInstr_nextPc rfl (running_of_issues h), ?_, fun b hb => ?_, rfl⟩
  · exact (regGet_regSet_same s _ _).trans (Nat.mod_eq_of_lt hv)
  · exact regGet_regSet_ne s _ (List.ne_of_not_mem_cons hb)

theorem csrw_readOnly (himm : f.imm ∈ [0x014, 0x021]) (hc : c < 1024) : Completes (.csrw c f) s fun t =>
    NextInstr s t c ∧ RegsKept s t [] ∧ t = { s with cores := t.cores, regs := t.regs } := by
  obtain ⟨a, ha⟩ := csrWrite_readOnly (s := s) (v := sval s c f.a) himm hc
  exact ⟨nextPc (regSet s a (regGet s a)) c, (tileOut_issues h _).trans (by rw [ha]; rfl), nextInstr_nextPc rfl (running_of_issues h),
    regsKept_regSet_same s a, rfl⟩

theorem csrw_unlisted (himm : f.imm ∉ [0x010, 0x011, 0x012, 0x013, 0x014, 0x020, 0x021, 0x022, 0x040, 0x041]) :
    Completes (.csrw c f) s fun t => NextInstr s t c ∧ t = { s with cores := t.cores } :=
  ⟨_, (tileOut_issues h _).trans (by rw [csrWrite_unlisted himm]; rfl), nextInstr_nextPc rfl (running_of_issues h), rfl⟩

end

/-! ### SIGNAL and PHINT -/

/-- The packet of a SIGNAL to a core of this device, under its transaction tag. -/
def coreSignal (s : State) (c d : Nat) (f : SignalF) (txn : Nat) : Packet :=
  { plainPacket .signal 0 (coreAt s c).cls (coreStop c) (coreStop d) txn (sval s c f.a) 0 with
    ev := f.ev, release := if f.release then some (coreAt s c).nextSeq else none, owner := some (c, (coreAt s c).nextSeq) }

/-- The state in which the packet of a SIGNAL waits at its core's stop. -/
def signalSent (s : State) (c d : Nat) (f : SignalF) : State :=
  let o := openTxn s (coreStop c) (.signal c (coreAt s c).nextSeq)
  sendPacket o.2 (coreStop c) (coreSignal s c d f o.1)

/-- An operation of a core is outstanding outside it, and the next instruction follows. -/
def outgoingAdded (s : State) (c : Nat) (o : Outgoing) : State :=
  nextPc (takeSeq (updCore s c fun y => { y with outgoing := y.outgoing ++ [o] }) c) c

theorem outgoingAdded_spec {s u : State} {c : Nat} (hcores : u.cores = s.cores) (hrun : (coreAt s c).running = true) (o : Outgoing) :
    NextInstr s (outgoingAdded u c o) c ∧ (coreAt (outgoingAdded u c o) c).outgoing = (coreAt s c).outgoing ++ [o] := by
  have hcore : coreAt (outgoingAdded u c o) c = { coreAt s c with
      outgoing := (coreAt s c).outgoing ++ [o], nextSeq := (coreAt s c).nextSeq + 1, pc := ((coreAt s c).pc + 8) % 2 ^ 64 } := by
    unfold outgoingAdded nextPc takeSeq
    rw [coreAt_updCore_same, coreAt_updCore_same, coreAt_updCore_same, coreAt_congr hcores]
  unfold NextInstr
  rw [hcore]
  exact ⟨⟨(((otherCores_of_cores hcores c).after_updCore _).after_updCore _).after_updCore _, rfl, rfl, rfl, rfl, hrun⟩, rfl⟩

theorem Sends.congr {s t u : State} {stop : Nat} {p : Packet} (h : Sends s t stop p) (hr : u.rings = t.rings) : Sends s u stop p := by
  unfold Sends injectQ at h ⊢; rw [hr, h]

theorem signalSent_spec (s : State) (c d : Nat) (f : SignalF) :
    (∃ txn, Sends s (signalSent s c d f) (coreStop c) (coreSignal s c d f txn)
        ∧ FMap.find (signalSent s c d f).rings.out txn = some (.signal c (coreAt s c).nextSeq))
      ∧ signalSent s c d f = { s with rings := (signalSent s c d f).rings } :=
  ⟨⟨_, sends_sendPacket (openTxn s (coreStop c) (.signal c (coreAt s c).nextSeq)).2 (coreStop c) _, openTxn_out ..⟩, rfl⟩

theorem startSignal_core {s : State} {c d off : Nat} {f : SignalF} (h : resolve s (sval s c f.a) = .sram d off) :
    startSignal s c f = .ok (outgoingAdded (signalSent s c d f) c ⟨(coreAt s c).nextSeq, 1, 7, 0⟩) := by
  unfold startSignal
  dsimp only
  rw [h]
  rfl

theorem signal_completes {s : State} {c d off : Nat} {f : SignalF} (h : Issues s c (.signal f))
    (hloc : resolve s (sval s c f.a) = .sram d off) : Completes (.signal c f) s fun t =>
      NextInstr s t c ∧ t = { s with cores := t.cores, rings := t.rings }
        ∧ (coreAt t c).outgoing = (coreAt s c).outgoing ++ [⟨(coreAt s c).nextSeq, 1, 7, 0⟩]
        ∧ (∃ p : Packet, Sends s t (coreStop c) p ∧ p.ring = 0 ∧ p.ty = .signal ∧ p.dst = coreStop d ∧ p.ev = f.ev
            ∧ p.addr = sval s c f.a ∧ FMap.find t.rings.out p.txn = some (.signal c (coreAt s c).nextSeq)) := by
  obtain ⟨⟨txn, hsends, htxn⟩, heq⟩ := signalSent_spec s c d f
  have hstart := startSignal_core hloc
  generalize signalSent s c d f = u at hsends htxn heq hstart
  obtain ⟨hnext, hout⟩ := outgoingAdded_spec (u := u) (c := c) (by rw [heq]) (running_of_issues h) ⟨(coreAt s c).nextSeq, 1, 7, 0⟩
  refine ⟨_, (tileOut_issues h _).trans (by rw [hstart]; rfl), hnext, ?_, hout, coreSignal s c d f txn, hsends.congr rfl,
    rfl, rfl, rfl, rfl, rfl, htxn⟩
  unfold outgoingAdded
  rw [heq]
  rfl

theorem phint_completes {s : State} {c n lead : Nat} (h : Issues s c (.phint n lead)) : Completes (.phint c n lead) s fun t =>
    NextInstr s t c ∧ (govAt t c).hint = (if n = 0 then none else some (hintPermit n))
      ∧ (govAt t c).lead = nowNs s + 10 * lead ∧ t = { s with cores := t.cores, power := t.power, doms := t.doms } := by
  obtain ⟨x, hx⟩ := levelWake_doms s ⟨.core, c⟩
  refine ⟨nextPc (setHint s c n (10 * lead)) c, tileOut_issues h _, ?_, ?_, ?_, ?_⟩
  · exact nextInstr_nextPc (by unfold setHint; rw [hx]; rfl) (running_of_issues h)
  · exact congrArg GovCore.hint (govAt_setGov_same ..)
  · exact congrArg GovCore.lead (govAt_setGov_same ..)
  · unfold setHint; rw [hx]; rfl

/-- Settles O37: what each number of Table 4.2 reads and takes, and what SIGNAL and PHINT leave. -/
theorem coreControlRegisters : Obligations.CoreControlRegisters :=
  ⟨fun _ _ _ => csrr_completes,
    fun _ _ => ⟨rfl, rfl, rfl, rfl, rfl, rfl, rfl, rfl, fun _ => csrRead_mirror, fun _ => csrRead_unlisted⟩,
    fun _ _ _ h => ⟨fun himm => csrw_events h (g := (· ||| _)) (by rw [himm]; rfl),
      fun himm => csrw_events h (g := (· &&& ~~~_)) (by rw [himm]; rfl), fun _ => csrw_mask h, csrw_readOnly h, csrw_unlisted h⟩,
    fun _ _ _ _ _ h => signal_completes h, fun _ _ _ _ h => phint_completes h⟩

end Sys2Proof.Machine

namespace Sys2Proof.Machine

/-! ## KERNEL and the start of a kernel on a core (O24): R100 to R102, R105, R299 -/

/-! ### What reading and loading an image leave unchanged -/

/-- From `s` to `t` no core but `c`, and nothing of the work queues, changed. -/
def LoadFrame (c : Nat) (s t : State) : Prop := OtherCores s t c ∧ t.wq = s.wq

theorem LoadFrame.trans {c : Nat} {s t u : State} (h : LoadFrame c s t) (h' : LoadFrame c t u) : LoadFrame c s u :=
  ⟨h.1.trans h'.1, h'.2.trans h.2⟩

theorem LoadFrame.of_cores {c : Nat} {s t : State} (hcores : t.cores = s.cores) (hwq : t.wq = s.wq) : LoadFrame c s t :=
  ⟨otherCores_of_cores hcores c, hwq⟩

theorem checkVault_keep {β : Type} (g : State → β) (h : ∀ s v w src, g (checkVaultWord s v w src).2 = g s) (s : State)
    (v off n src : Nat) : g (checkVault s v off n src).2 = g s := by
  unfold checkVault
  generalize wordsOf 32 off n = l
  suffices ∀ p : Option Nat × State, g (l.foldl (fun p w =>
      let r := checkVaultWord p.2 v w src
      (if r.1 && p.1.isNone then some w else p.1, r.2)) p).2 = g p.2 from this (none, s)
  induction l with
  | nil => exact fun _ => rfl
  | cons w l ih => exact fun p => (ih _).trans (h p.2 v w src)

theorem checkVault_frame (c : Nat) (s : State) (v off n src : Nat) : LoadFrame c s (checkVault s v off n src).2 := by
  have hword : ∀ s v w src, (checkVaultWord s v w src).2.cores = s.cores ∧ (checkVaultWord s v w src).2.wq = s.wq := by
    intro s v w src
    unfold checkVaultWord
    split
    all_goals simp
  exact .of_cores (checkVault_keep (·.cores) (fun s v w src => (hword s v w src).1) s v off n src)
    (checkVault_keep (·.wq) (fun s v w src => (hword s v w src).2) s v off n src)

section
variable {c : Nat} {s : State}

theorem readVault_frame (v off n : Nat) : Ends (fun r => LoadFrame c s r.2.2) (readVault s v off n) := by
  unfold readVault readVaultAs
  split
  · exact .error _
  · split
    · exact .error _
    · have hcheck : LoadFrame c s (checkVault (wakeDom s ⟨.vault, v⟩) v off n 0).2 :=
        LoadFrame.trans (.of_cores (wakeDom_cores ..) (wakeDom_wq ..)) (checkVault_frame ..)
      dsimp only
      split
      · exact .ok hcheck
      · exact .ok hcheck

theorem vaultFree_frame (v off n : Nat) (write : Bool) : Ends (LoadFrame c s) (vaultFree s v off n write) := by
  unfold vaultFree
  dsimp only
  split
  · exact .error _
  · exact .ok (.of_cores rfl rfl)

theorem readBlock_frame (stop : Option Nat) (a n : Nat) : Ends (fun r => LoadFrame c s r.2.2) (readBlock s stop a n) := by
  have hcount : LoadFrame c s (countXfer s stop a) := by
    unfold countXfer
    split
    all_goals exact .of_cores rfl rfl
  unfold readBlock
  dsimp only
  split
  · exact (vaultFree_frame _ _ _ _).bind fun t ht => fun r hr =>
      hcount.trans (ht.trans (readVault_frame _ _ _ r hr))
  · exact .ok (hcount.trans (.of_cores (by simp) (by simp)))
  · refine .ok (hcount.trans ?_)
    unfold readHost
    split
    all_goals exact .of_cores rfl rfl
  · exact .error _
  · exact .ok hcount
  · exact .error _

theorem readParts_frame (stop : Option Nat) (l : List (Nat × Nat)) :
    Ends (fun r => LoadFrame c s r.2.2) (readParts s stop l) := by
  induction l generalizing s with
  | nil => exact .ok (.of_cores rfl rfl)
  | cons p l ih =>
    exact (readBlock_frame _ _ _).bind fun _ h1 => Ends.bind ih fun _ h2 => .pure (h1.trans h2)

theorem kernRead_frame (a n : Nat) : Ends (fun r => LoadFrame c s r.2.2) (kernRead s a n) := readParts_frame _ _

theorem loadCode_frame (image : Nat) (h : ImageHdr) : Ends (LoadFrame c s) (loadCode s c image h) := by
  unfold loadCode
  dsimp only
  split
  · exact .ok (.of_cores rfl rfl)
  · split
    · exact .error _
    · exact (kernRead_frame _ _).bind fun r hr => .ok ⟨hr.1.after_updCore _, hr.2⟩

theorem loadData_frame (image : Nat) (h : ImageHdr) : Ends (LoadFrame c s) (loadData s c image h) := by
  unfold loadData
  split
  · exact .ok (.of_cores rfl rfl)
  · split
    · exact .error _
    · exact (kernRead_frame _ _).bind fun r hr => .ok (hr.trans (.of_cores (by simp) (by simp)))

end

/-! ### The scalar registers at the start (R101) -/

theorem find_filterMap_succ {α : Type} (p : Nat → Prop) [DecidablePred p] (f : Nat → α) (l : List Nat) (n : Nat) :
    FMap.find (l.filterMap fun i => if p i then some (i + 1, f i) else none) (n + 1)
      = if n ∈ l ∧ p n then some (f n) else none := by
  induction l with
  | nil => rfl
  | cons i l ih =>
    rw [List.filterMap_cons]
    by_cases hp : p i
    · simp only [if_pos hp, FMap.find, ih]
      by_cases hi : n = i
      · simp [hi, hp]
      · simp [hi]
    · simp only [if_neg hp, ih]
      by_cases hi : n = i
      · simp [hi, hp]
      · simp [hi]

theorem find_filterMap_zero {α : Type} (p : Nat → Prop) [DecidablePred p] (f : Nat → α) (l : List Nat) :
    FMap.find (l.filterMap fun i => if p i then some (i + 1, f i) else none) 0 = none := by
  induction l with
  | nil => rfl
  | cons i l ih =>
    rw [List.filterMap_cons]
    by_cases hp : p i
    · simpa [hp, FMap.find] using ih
    · simpa [hp] using ih

/-- s1 to s8 hold the first NARGS argument words, and every other scalar register zero. -/
theorem sreg_startRegs {x : CoreSt} {args : List Nat} {nargs : Nat} (hx : x.sregs = startRegs args nargs) (n : Nat) :
    sreg x n = if 1 ≤ n ∧ n ≤ 8 ∧ n ≤ nargs then ((args[n - 1]?).getD 0) % 2 ^ 64 else 0 := by
  rw [sreg, hx, startRegs]
  dsimp only
  cases n with
  | zero => simp
  | succ n =>
    rw [FMap.getD, find_filterMap_succ (fun i => i < nargs ∧ (args[i]?).getD 0 % 2 ^ 64 ≠ 0)
      (fun i => BitVec.ofNat 64 ((args[i]?).getD 0 % 2 ^ 64)), if_neg (Nat.succ_ne_zero n)]
    by_cases hn : n < 8 ∧ n < nargs
    · have hmem : n ∈ List.range 8 := List.mem_range.2 hn.1
      rw [if_pos (show 1 ≤ n + 1 ∧ n + 1 ≤ 8 ∧ n + 1 ≤ nargs by omega), Nat.add_sub_cancel]
      by_cases hv : (args[n]?).getD 0 % 2 ^ 64 = 0
      · rw [if_neg (fun h => h.2.2 hv), hv]
        rfl
      · rw [if_pos ⟨hmem, hn.2, hv⟩, Option.getD_some, BitVec.toNat_ofNat, Nat.mod_mod]
    · rw [if_neg (show ¬(1 ≤ n + 1 ∧ n + 1 ≤ 8 ∧ n + 1 ≤ nargs) by omega),
        if_neg fun h => hn ⟨List.mem_range.1 h.1, h.2.1⟩]
      rfl

/-! ### The start (R101) -/

section
variable (s : State) (c q : Nat) (i : Item) (h : ImageHdr) (args : List Nat)

theorem startCore_core :
    let x := coreAt (startCore s c q i h args) c
    x.running = true ∧ x.pc = h.entry ∧ x.tregs = [] ∧ x.code = (coreAt s c).code ∧ x.cmdid = i.cmdid
      ∧ x.cls = (queueAt s q).cls ∧ x.mode = i.mode ∧ x.count = i.targets.length ∧ x.owner = some (q, i.idx)
      ∧ x.sregs = startRegs args h.nargs := by
  have hset : coreAt (startCore s c q i h args) c = FMap.getD (FMap.set s.cores c _) c .reset := rfl
  rw [hset, FMap.getD_set_same]
  exact ⟨rfl, rfl, rfl, rfl, rfl, rfl, rfl, rfl, rfl, rfl⟩

theorem otherCores_startCore : OtherCores s (startCore s c q i h args) c := fun _ hd => FMap.getD_set_ne _ _ _ hd

/-- The item of a started core no longer waits for the core, and runs on it. -/
def startedOn (c : Nat) (y : Item) : Item := { y with waitCores := y.waitCores.filter (· ≠ c), runCores := y.runCores ++ [c] }

theorem startCore_eq : ∃ f, startCore s c q i h args
    = updItem (regSet (updCore s c f) (coreReg c 0x208) 0) q i.idx (startedOn c) := ⟨_, rfl⟩

theorem chnAnchor_startCore : regGet (startCore s c q i h args) (coreReg c 0x208) = 0 := by
  obtain ⟨f, hf⟩ := startCore_eq s c q i h args
  rw [hf]
  exact Eq.trans (regGet_congr (updQueue_regs ..) _) (regGet_regSet_same (updCore s c f) _ 0)

theorem itemAt_startCore {i' : Item} (hitem : itemAt s q i.idx = some i') :
    itemAt (startCore s c q i h args) q i.idx = some (startedOn c i') := by
  obtain ⟨f, hf⟩ := startCore_eq s c q i h args
  rw [hf]
  have hkept : itemAt (regSet (updCore s c f) (coreReg c 0x208) 0) q i.idx = some i' := Eq.trans (itemAt_congr (congrArg _ (regSet_wq ..)) _ _) hitem
  exact itemAt_updItem_same (f := startedOn c) (fun _ => rfl) hkept

theorem startCore_mem : (startCore s c q i h args).mem = s.mem := by
  obtain ⟨f, hf⟩ := startCore_eq s c q i h args
  rw [hf, updItem, updQueue_mem, regSet_mem, updCore_mem]

end

/-! ### The obligation -/

theorem kernelCoreStart_started {c q image a : Nat} {args : List Nat} {s s1 s2 s3 : State} {i : Item} {hb : List Byte} {p : Bool}
    (hcmd : i.cmd = .kernel image a args) (hwritten : written s image 64 = true) (hsame : imageChanged s i = false)
    (hread : kernRead s image 64 = .ok (hb, p, s1)) (hhdr : hdrOk (parseHdr hb) = true)
    (hcode : loadCode s1 c image (parseHdr hb) = .ok s2) (hdata : loadData s2 c image (parseHdr hb) = .ok s3) :
    launch s c q i = .ok (startCore s3 c q i (parseHdr hb) args) := by
  simp [launch, hcmd, hwritten, hsame, hread, hhdr, hcode, hdata, bind, Except.bind]

theorem launch_undefined {c q image a : Nat} {args : List Nat} {s : State} {i : Item} (hcmd : i.cmd = .kernel image a args)
    (hbad : written s image 64 = false ∨ imageChanged s i = true
      ∨ ∃ hb p s1, kernRead s image 64 = .ok (hb, p, s1) ∧ hdrOk (parseHdr hb) = false) :
    launch s c q i = .error (.undefinedCase 13) := by
  by_cases himage : written s image 64 = true ∧ imageChanged s i = false
  · obtain ⟨hwritten, hsame⟩ := himage
    obtain h | h | ⟨hb, p, s1, hread, hhdr⟩ := hbad
    · simp [hwritten] at h
    · simp [hsame] at h
    · simp [launch, hcmd, hwritten, hsame, hread, hhdr, bind, Except.bind]
  · have hcond : (!written s image 64 || imageChanged s i) = true := by
      cases hw : written s image 64
      · rfl
      · simpa [hw] using himage
    simp only [launch, hcmd, hcond, if_true]

theorem exec_kernelCoreStart {c q : Nat} {s : State} {i : Item} (hp : powered s = true) (hdev : s.boot.dev = .job)
    (hnext : nextKernel s c = some (q, i)) (hrun : (coreAt s c).running = false) (hon : domOn s ⟨.core, c⟩ = true) :
    exec (.kernelCoreStart c) s = toOut s (launch s c q i) := by
  have hexec : exec (.kernelCoreStart c) s
      = actE s (engineRuns s && !(coreAt s c).running && domOn s ⟨.core, c⟩) (launch s c q i) := by
    change execKernelCoreStart c s = _
    rw [execKernelCoreStart, hnext]
  rw [hexec]
  exact actE_pos hp (by simp [engineRuns, hdev, hrun, hon])

theorem kernel_begins {q idx : Nat} {s : State} {i : Item} (h : Begins s q idx i) (hk : isKernel i.cmd = true) :
    Completes (.kernel q idx) s fun t =>
      t = startItem s q idx ∧ (∃ y, itemAt t q idx = some y ∧ y.phase = .running ∧ y.waitCores = i.waitCores) :=
  ⟨_, act_pos h.1 (begins_of_Begins h hk), rfl, _, itemAt_updItem_same (f := fun i => { i with phase := .running }) (fun _ => rfl) h.2.2.1, rfl, rfl⟩

/-- Settles O24: the reads and the loading keep the other cores and the queues, so the core starts with its item's
arguments and no other core or item changes. -/
theorem kernelStart : Obligations.KernelStart := by
  unfold Obligations.KernelStart
  refine ⟨fun q idx s i h hk => kernel_begins h hk, ?_, ?_, ?_⟩
  · intro c q image a args s s1 s2 s3 i hb p hp hdev hnext hitem hcmd hrun hon hwritten hsame hread hhdr hcode hdata
    have hload : LoadFrame c s s3 :=
      ((kernRead_frame image 64 _ hread).trans (loadCode_frame image _ _ hcode)).trans (loadData_frame image _ _ hdata)
    have hlaunch := kernelCoreStart_started (q := q) hcmd hwritten hsame hread hhdr hcode hdata
    have hitem3 : itemAt s3 q i.idx = some i := (itemAt_congr (congrArg _ hload.2) q i.idx).trans hitem
    have hqueue : queueAt s3 q = queueAt s q := by unfold queueAt; rw [hload.2]
    obtain ⟨hrunning, hpc, htregs, hcodeKept, hcmdid, hcls, hmode, hcount, howner, hsregs⟩ :=
      startCore_core s3 c q i (parseHdr hb) args
    refine ⟨_, (exec_kernelCoreStart hp hdev hnext hrun hon).trans (by rw [hlaunch]; rfl), hrunning, hpc, htregs, hcodeKept,
      hcmdid, hcls.trans (congrArg _ hqueue), hmode, hcount, howner, sreg_startRegs hsregs, chnAnchor_startCore ..,
      hload.1.trans (otherCores_startCore s3 c q i _ args), startCore_mem .., _, itemAt_startCore _ _ _ _ _ _ hitem3, ?_, ?_⟩
    · simp [startedOn]
    · simp [startedOn]
  · intro c q image a args s i hp hdev hnext hcmd hrun hon hbad
    rw [Undefined, exec_kernelCoreStart hp hdev hnext hrun hon, launch_undefined hcmd hbad]
    rfl
  · intro c s hnext
    change execKernelCoreStart c s = _
    rw [execKernelCoreStart, hnext]

end Sys2Proof.Machine

namespace Sys2Proof.Machine

/-! ## DMA instructions and their descriptors (O38): R131 to R134, R141, R250 -/

/-! ### Channels -/

theorem channel_congr {s t : State} {c : Nat} (h : (coreAt t c).dma = (coreAt s c).dma) (ch : Nat) :
    channel t c ch = channel s c ch := by
  unfold channel; rw [h]

theorem channel_setChannel_same (s : State) (c ch : Nat) (l : List DmaOp) : channel (setChannel s c ch l) c ch = l := by
  unfold channel setChannel
  rw [coreAt_updCore_same]
  cases l with
  | nil => simp [FMap.getD, FMap.find_drop_same]
  | cons o l => simp [FMap.getD_set_same]

theorem channel_setChannel_ne (s : State) (c : Nat) {ch x : Nat} (l : List DmaOp) (hx : x ≠ ch) :
    channel (setChannel s c ch l) c x = channel s c x := by
  unfold channel setChannel
  rw [coreAt_updCore_same]
  cases l with
  | nil => simp [FMap.getD, FMap.find_drop_ne _ hx]
  | cons o l => simp [FMap.getD_set_ne _ _ _ hx]

/-! ### Issue (R131, R132, R141) -/

theorem event_or_set (x : Word) (n : Nat) (hn : n < 64) : (x ||| BitVec.ofNat 64 (2 ^ n)).getLsbD n = true := by
  rw [BitVec.getLsbD_or, BitVec.getLsbD_ofNat, Nat.testBit_two_pow_self, decide_eq_true hn]
  exact Bool.or_true _

/-- The accesses of a descriptor (R141). -/
def dmaAccess (o : DmaOp) (ch evt : Nat) : Access :=
  ⟨o.seq, .dma ch, false, some evt, if o.write then dmaSpans o else [], if o.write then [] else dmaSpans o⟩

/-- The state in which a descriptor has entered its channel, and the next instruction follows. -/
def dmaTaken (s : State) (c ch : Nat) (a : Access) (o : DmaOp) : State :=
  nextPc (takeSeq (setChannel (updCore s c fun x =>
    { x with order := (x.order.filter fun e => !e.writes.isEmpty || opLive x e.seq) ++ [a] }) c ch (channel s c ch ++ [o])) c) c

section
variable {s : State} {c : Nat} {k : DmaKind} {f : DmaF}

theorem issueDma_empty (hb : (dmaOp s c k f).bytes = 0) :
    issueDma s c k f = .ok (nextPc (takeSeq (setEvent s c f.evt) c) c) := if_pos hb

theorem issueDma_full (hb : (dmaOp s c k f).bytes ≠ 0) (hlen : 8 ≤ (channel s c f.ch).length) : issueDma s c k f = .ok s :=
  (if_neg hb).trans (if_neg (by omega))

theorem issueDma_room (hb : (dmaOp s c k f).bytes ≠ 0) (hlen : (channel s c f.ch).length < 8) :
    issueDma s c k f = orderOp s c (dmaAccess (dmaOp s c k f) f.ch f.evt) >>= fun s1 =>
      .ok (nextPc (takeSeq (setChannel s1 c f.ch (channel s1 c f.ch ++ [dmaOp s c k f])) c) c) :=
  (if_neg hb).trans (if_pos hlen)

theorem issueDma_ordered (hb : (dmaOp s c k f).bytes ≠ 0) (hlen : (channel s c f.ch).length < 8)
    (hord : unordered (coreAt s c) (some (.dma f.ch)) (dmaAccess (dmaOp s c k f) f.ch f.evt).reads
      (dmaAccess (dmaOp s c k f) f.ch f.evt).writes = none) :
    issueDma s c k f = .ok (dmaTaken s c f.ch (dmaAccess (dmaOp s c k f) f.ch f.evt) (dmaOp s c k f)) := by
  have hchan : ∀ g : CoreSt → List Access, channel (updCore s c fun x => { x with order := g x }) c f.ch = channel s c f.ch := fun g =>
    channel_congr (by rw [coreAt_updCore_same]) _
  rw [issueDma_room hb hlen, orderOp_none hord, dmaTaken, ← hchan]
  rfl

theorem issueDma_unordered {n : Nat} (hb : (dmaOp s c k f).bytes ≠ 0) (hlen : (channel s c f.ch).length < 8)
    (hord : unordered (coreAt s c) (some (.dma f.ch)) (dmaAccess (dmaOp s c k f) f.ch f.evt).reads
      (dmaAccess (dmaOp s c k f) f.ch f.evt).writes = some n) :
    issueDma s c k f = .error (.undefinedCase n) := by
  rw [issueDma_room hb hlen]
  have herr : orderOp s c (dmaAccess (dmaOp s c k f) f.ch f.evt) = .error (.undefinedCase n) := by
    unfold orderOp
    rw [show (dmaAccess (dmaOp s c k f) f.ch f.evt).unit = .dma f.ch from rfl, hord]
  rw [herr]
  rfl

end

section
variable {s : State} {c : Nat} (hrun : (coreAt s c).running = true)
include hrun

theorem emptyDma_spec (n : Nat) :
    let t := nextPc (takeSeq (setEvent s c n) c) c
    NextInstr s t c ∧ (coreAt t c).events.getLsbD (n % 64) = true ∧ (∀ ch, channel t c ch = channel s c ch)
      ∧ t = { s with cores := t.cores } := by
  have hcore : coreAt (nextPc (takeSeq (setEvent s c n) c) c) c = { coreAt s c with
      events := (coreAt s c).events ||| BitVec.ofNat 64 (2 ^ (n % 64)), nextSeq := (coreAt s c).nextSeq + 1
      pc := ((coreAt s c).pc + 8) % 2 ^ 64 } := by
    unfold nextPc takeSeq setEvent
    simp only [coreAt_updCore_same]
  refine ⟨⟨((otherCores_updCore s c _).after_updCore _).after_updCore _, ?_⟩, ?_, fun ch => channel_congr (by rw [hcore]) ch, rfl⟩
  · rw [hcore]
    exact ⟨rfl, rfl, rfl, rfl, hrun⟩
  · rw [hcore]
    exact event_or_set _ _ (Nat.mod_lt _ (by decide))

theorem dmaTaken_spec (ch : Nat) (a : Access) (o : DmaOp) :
    let t := dmaTaken s c ch a o
    NextInstr s t c ∧ channel t c ch = channel s c ch ++ [o] ∧ (∀ x, x ≠ ch → channel t c x = channel s c x)
      ∧ (coreAt t c).nextSeq = (coreAt s c).nextSeq + 1 ∧ t = { s with cores := t.cores } := by
  have hdma : ∀ u : State, (coreAt (nextPc (takeSeq u c) c) c).dma = (coreAt u c).dma := fun u => by
    unfold nextPc takeSeq
    simp only [coreAt_updCore_same]
  have hcore : ∃ l d, coreAt (dmaTaken s c ch a o) c = { coreAt s c with
      order := l, dma := d, nextSeq := (coreAt s c).nextSeq + 1, pc := ((coreAt s c).pc + 8) % 2 ^ 64 } := by
    unfold dmaTaken nextPc takeSeq setChannel
    simp only [coreAt_updCore_same]
    exact ⟨_, _, rfl⟩
  obtain ⟨l, d, hcore⟩ := hcore
  refine ⟨⟨(((otherCores_updCore s c _).after_updCore _).after_updCore _).after_updCore _, ?_⟩, ?_, fun x hx => ?_, ?_, rfl⟩
  · rw [hcore]
    exact ⟨rfl, rfl, rfl, rfl, hrun⟩
  · exact (channel_congr (hdma _) ch).trans (channel_setChannel_same ..)
  · refine (channel_congr (hdma _) x).trans ((channel_setChannel_ne _ _ _ hx).trans (channel_congr ?_ x))
    rw [coreAt_updCore_same]
  · rw [hcore]

end

/-- The four instructions issue alike: a transfer of no bytes is over at once, and any other needs a place in its channel. -/
theorem dma_issue {s : State} {c : Nat} {k : DmaKind} {f : DmaF} {i : Instr} {w : TileInstr} (h : Issues s c w)
    (hexec : exec i s = toOut s (issueDma s c k f)) :
    ((dmaOp s c k f).bytes = 0 → Completes i s fun t =>
        NextInstr s t c ∧ (coreAt t c).events.getLsbD (f.evt % 64) = true ∧ (∀ ch, channel t c ch = channel s c ch)
          ∧ t = { s with cores := t.cores })
      ∧ ((dmaOp s c k f).bytes ≠ 0 → (channel s c f.ch).length < 8 →
        let o := dmaOp s c k f
        let reads := if o.write then dmaSpans o else []
        let writes := if o.write then [] else dmaSpans o
        (∀ n, unordered (coreAt s c) (some (.dma f.ch)) reads writes = some n → Undefined i s n)
        ∧ (unordered (coreAt s c) (some (.dma f.ch)) reads writes = none → Completes i s fun t =>
          NextInstr s t c ∧ channel t c f.ch = channel s c f.ch ++ [dmaOp s c k f]
            ∧ (∀ ch, ch ≠ f.ch → channel t c ch = channel s c ch) ∧ (coreAt t c).nextSeq = (coreAt s c).nextSeq + 1
            ∧ t = { s with cores := t.cores }))
      ∧ ((dmaOp s c k f).bytes ≠ 0 → 8 ≤ (channel s c f.ch).length → Waits i s) := by
  have hrun := running_of_issues h
  refine ⟨fun hb => ?_, fun hb hlen => ⟨fun n hord => ?_, fun hord => ?_⟩, fun hb hlen => ?_⟩
  · exact ⟨_, hexec.trans (by rw [issueDma_empty hb]; rfl), emptyDma_spec hrun _⟩
  · rw [Undefined, hexec, issueDma_unordered hb hlen hord]
    rfl
  · exact ⟨_, hexec.trans (by rw [issueDma_ordered hb hlen hord]; rfl), dmaTaken_spec hrun ..⟩
  · rw [Waits, hexec, issueDma_full hb hlen]
    rfl

/-! ### What the requests of a descriptor leave unchanged -/

/-- From `s` to `t` no core and nothing of the boot state changed, nor anything of the work queues but noted outputs. -/
def DmaFrame (s t : State) : Prop := t.cores = s.cores ∧ t.boot = s.boot ∧ SameWork s t

theorem DmaFrame.trans {s t u : State} (h : DmaFrame s t) (h' : DmaFrame t u) : DmaFrame s u :=
  ⟨h'.1.trans h.1, h'.2.1.trans h.2.1, h.2.2.trans h'.2.2⟩

theorem DmaFrame.of_kept {s t : State} (hcores : t.cores = s.cores) (hboot : t.boot = s.boot) (hwq : t.wq = s.wq) :
    DmaFrame s t := ⟨hcores, hboot, .of_wq hwq⟩

theorem DmaFrame.rfl {s : State} : DmaFrame s s := .of_kept (Eq.refl _) (Eq.refl _) (Eq.refl _)

theorem DmaFrame.foldl {α : Type} {f : State → α → State} (hf : ∀ s a, DmaFrame s (f s a)) (l : List α) (s : State) :
    DmaFrame s (l.foldl f s) := by
  induction l generalizing s with
  | nil => exact .rfl
  | cons a l ih => exact (hf s a).trans (ih _)

theorem dmaFrame_coreEvent (s : State) (c k n : Nat) : DmaFrame s (coreEvent s c k n) :=
  .of_kept (coreEvent_cores ..) (coreEvent_boot ..) (coreEvent_wq ..)

theorem dmaFrame_readSram (s : State) (c off n src : Nat) : DmaFrame s (readSram s c off n src).2.2 :=
  .of_kept (readSram_cores ..) (readSram_keep (·.boot) checkSramWord_boot bump_boot detectUe_boot s c off n src)
    (readSram_wq ..)

theorem dmaFrame_levelWake (s : State) (d : Dom) : DmaFrame s (levelWake s d) := by
  obtain ⟨x, hx⟩ := levelWake_doms s d
  rw [hx]
  exact .of_kept rfl rfl rfl

theorem dmaFrame_noteOut (s : State) (c k n : Nat) : DmaFrame s (noteOut s c k n) := by
  refine ⟨?_, ?_, sameWork_noteOut s c k n⟩
  all_goals
    unfold noteOut
    split
  all_goals rfl

theorem dmaFrame_shaftReq (s : State) (c ch : Nat) (o : DmaOp) (r : DmaReq) (off : Nat) : DmaFrame s (shaftReq s c ch o r off) := by
  unfold shaftReq
  dsimp only
  refine DmaFrame.trans ?_ ((dmaFrame_levelWake _ _).trans (dmaFrame_coreEvent _ _ _ _))
  split
  · exact (dmaFrame_readSram s c r.sram r.bytes 1).trans (.of_kept rfl rfl rfl)
  · exact .of_kept rfl rfl rfl

theorem dmaFrame_ringReq (s : State) (c ch : Nat) (o : DmaOp) (r : DmaReq) (ack : Bool) :
    DmaFrame s (ringReq s c ch o r ack) := by
  unfold ringReq
  dsimp only
  refine (dmaFrame_coreEvent s c 0x0C (r.bytes / 32)).trans ?_
  split
  · refine (dmaFrame_readSram _ c r.sram r.bytes 1).trans ?_
    split
    all_goals exact .of_kept rfl rfl rfl
  · exact .of_kept rfl rfl rfl

theorem dmaFrame_dmaReq (c ch : Nat) (o : DmaOp) (last : Nat) (s : State) (r : DmaReq × Nat) :
    DmaFrame s (dmaReq c ch o last s r) := by
  have hmerge : DmaFrame s (if o.merge && r.1.bytes == 256 then coreEvent s c 0x10 1 else s) := by
    split
    · exact dmaFrame_coreEvent ..
    · exact .rfl
  unfold dmaReq
  dsimp only
  split
  · split
    · exact hmerge.trans (dmaFrame_shaftReq ..)
    · exact hmerge.trans (dmaFrame_ringReq ..)
  · exact hmerge.trans (dmaFrame_ringReq ..)
  · exact hmerge.trans (dmaFrame_ringReq ..)

theorem dmaFrame_dmaOut (c : Nat) (o : DmaOp) (s : State) (r : DmaReq) : DmaFrame s (dmaOut c o s r) := by
  unfold dmaOut
  split
  · exact dmaFrame_noteOut ..
  · split
    · exact dmaFrame_noteOut ..
    · exact dmaFrame_noteOut ..
    · exact dmaFrame_noteOut ..
    · exact .rfl

/-! ### The start of a descriptor (R132, R134) -/

/-- A descriptor whose requests have been issued. -/
def dmaIssued (o d : DmaOp) : DmaOp :=
  { d with started := true, left := if o.kind = .dmh ∧ o.write = true then 1 else (dmaParts o).length }

/-- The state in which a descriptor issues its requests. -/
def dmaMarked (s : State) (c ch : Nat) (o : DmaOp) (ups : List (Nat × Upset)) : State :=
  setChannel (upsetWords s (ups.map fun u => (sramKey c (u.1 / 16 * 16), u.2))) c ch
    ((channel s c ch).map fun d => if d.seq = o.seq then dmaIssued o d else d)

theorem startDma_ok {s : State} {c ch : Nat} {o : DmaOp} (ups : List (Nat × Upset)) (hok : dmaOk s c o = true)
    (hrace : dmaRaces s c ch o = false) :
    ∃ t, startDma s c ch o ups = .ok t ∧ DmaFrame (dmaMarked s c ch o ups) t := by
  unfold startDma
  rw [hok, hrace]
  exact ⟨_, rfl, (DmaFrame.foldl (dmaFrame_dmaOut c o) _ _).trans (.foldl (dmaFrame_dmaReq c ch o _) _ _)⟩

theorem dmaMarked_spec {s t : State} {c ch : Nat} {o : DmaOp} {ups : List (Nat × Upset)} (hnext : nextDma s c ch = some o)
    (h : DmaFrame (dmaMarked s c ch o ups) t) :
    (∃ d ∈ channel t c ch, d = dmaIssued o o) ∧ OtherCores s t c ∧ SameWork s t ∧ t.boot = s.boot
      ∧ ∀ x, x ≠ ch → channel t c x = channel s c x := by
  obtain ⟨hcores, hboot, hwork⟩ := h
  have hchan : ∀ x, channel t c x = channel (dmaMarked s c ch o ups) c x := fun x =>
    channel_congr (by rw [coreAt_congr hcores]) x
  refine ⟨⟨_, ?_, rfl⟩, ?_, SameWork.trans (.of_wq rfl) hwork, hboot, fun x hx => ?_⟩
  · rw [hchan, dmaMarked, channel_setChannel_same]
    exact List.mem_map.2 ⟨o, List.mem_of_find?_eq_some hnext, if_pos rfl⟩
  · have hmarked : OtherCores s (dmaMarked s c ch o ups) c := fun _ h => FMap.getD_set_ne _ _ _ h
    exact hmarked.trans (otherCores_of_cores hcores c)
  · rw [hchan, dmaMarked, channel_setChannel_ne _ _ _ hx]
    exact channel_congr rfl x

theorem exec_dmaDescriptorStart {s : State} {c ch : Nat} {o : DmaOp} (ups : List (Nat × Upset)) (hp : powered s = true)
    (hon : domOn s ⟨.core, c⟩ = true) (hnext : nextDma s c ch = some o) :
    exec (.dmaDescriptorStart c ch ups) s = toOut s (startDma s c ch o ups) := by
  change execDmaDescriptorStart c ch ups s = _
  unfold execDmaDescriptorStart
  rw [hnext]
  exact actE_pos hp (by simp [hon])

/-! ### The requests of a descriptor (R250) -/

theorem blocks_bounds {fuel a n : Nat} {p : Nat × Nat} (h : p ∈ blocks fuel a n) :
    p.2 ≤ 256 ∧ p.1 / 256 = (p.1 + p.2 - 1) / 256 := by
  induction fuel generalizing a n with
  | zero => simp [blocks] at h
  | succ fuel ih =>
    unfold blocks at h
    split at h
    · simp at h
    · obtain rfl | h := List.mem_cons.1 h
      · dsimp only
        omega
      · exact ih h

theorem blocks_sum {fuel a n : Nat} (h : n ≤ 256 * fuel - a % 256) : ((blocks fuel a n).map (·.2)).sum = n := by
  induction fuel generalizing a n with
  | zero =>
    simp only [blocks, List.map_nil, List.sum_nil]
    omega
  | succ fuel ih =>
    unfold blocks
    split
    · next h0 => simp [h0]
    · dsimp only
      rw [List.map_cons, List.sum_cons, ih (by omega)]
      omega

theorem packets_sum (a n : Nat) : ((packets a n).map (·.2)).sum = n := blocks_sum (by omega)

theorem dmaParts_bounds {o : DmaOp} {r : DmaReq} (h : r ∈ dmaParts o) :
    r.bytes ≤ 256 ∧ r.addr / 256 = (r.addr + r.bytes - 1) / 256 := by
  obtain ⟨l, -, hl⟩ := List.mem_flatMap.1 h
  obtain ⟨p, hp, rfl⟩ := List.mem_map.1 hl
  exact blocks_bounds hp

theorem dmaParts_sum (o : DmaOp) : ((dmaParts o).map (·.bytes)).sum = o.lines * o.bytes := by
  unfold dmaParts
  induction o.lines with
  | zero => simp
  | succ n ih =>
    rw [List.range_succ, List.flatMap_append, List.map_append, List.sum_append, ih, Nat.succ_mul]
    simp only [List.flatMap_cons, List.flatMap_nil, List.append_nil, List.map_map, Function.comp_def, packets_sum]

/-! ### The obligation -/

/-- Settles O38: the four instructions share one issue rule, a start changes its own channel alone, and the blocks of a
line add up to it. -/
theorem dmaTransfers : Obligations.DmaTransfers := by
  unfold Obligations.DmaTransfers
  refine ⟨?_, ?_, ?_, ?_, fun o => ⟨fun r => dmaParts_bounds, dmaParts_sum o⟩⟩
  · intro c f s k
    cases k
    all_goals exact fun h => dma_issue h (tileOut_issues h _)
  · intro c k f s
    refine ⟨rfl, rfl, rfl, rfl, rfl, ?_, rfl⟩
    unfold dmaOp
    dsimp only
    split
    all_goals omega
  · intro c ch ups o s hp hon hnext
    have hexec := exec_dmaDescriptorStart ups hp hon hnext
    refine ⟨fun hok hrace => ?_, fun hok hrace => ?_, fun hok => ?_⟩
    · rw [Undefined, hexec, startDma, hok, hrace]
      rfl
    · obtain ⟨t, ht, hframe⟩ := startDma_ok ups hok hrace
      exact ⟨t, hexec.trans (by rw [ht]; rfl), dmaMarked_spec hnext hframe⟩
    · rw [Undefined, hexec, startDma, hok]
      rfl
  · intro c ch ups s hnext
    exact actE_neg (by rw [hnext]; rfl)

end Sys2Proof.Machine

namespace Sys2Proof.Machine

/-! ## REDS, REDW, VOP and ATB (O41): R119 to R130, R141, R144 to R151, R264 -/

/-! ### The packets of a REDS (R121, R122, R264) -/

theorem injectQ_sendPackets {α : Type} {stop ring : Nat} {P : α → Packet} (hring : ∀ r, (P r).ring = ring) (l : List α)
    (s : State) : injectQ (l.foldl (fun t r => sendPacket t stop (P r)) s) stop ring = injectQ s stop ring ++ l.map P := by
  induction l generalizing s with
  | nil => simp
  | cons r l ih =>
    have hsend : injectQ (sendPacket s stop (P r)) stop ring = injectQ s stop ring ++ [P r] := by
      rw [← hring r]
      exact sends_sendPacket s stop (P r)
    rw [List.foldl_cons, ih, hsend, List.append_assoc, List.map_cons]
    rfl

theorem injectQ_updCore (s : State) (c : Nat) (f : CoreSt → CoreSt) (stop ring : Nat) :
    injectQ (updCore s c f) stop ring = injectQ s stop ring := rfl

theorem redsPacket_head (s : State) (h : RedsHead) (v : Rect) (i j : Nat) :
    (redsPacket s h v i j).ring = h.ring ∧ (redsPacket s h v i j).ty = .reduce
      ∧ (redsPacket s h v i j).owner = some (h.core, h.seq) := ⟨rfl, rfl, rfl⟩

theorem sendPackets_cores {α : Type} (stop : Nat) (P : α → Packet) (l : List α) (s : State) :
    (l.foldl (fun t r => sendPacket t stop (P r)) s).cores = s.cores :=
  foldl_keep (·.cores) _ (fun s r => sendPacket_cores s stop (P r)) l s

/-- The packets of a rectangle join the end of their core's queue for their ring, and the operation is outstanding. -/
theorem sendReds_spec {s u : State} {h : RedsHead} {v : Rect} {fence evt : Nat} (hu : sendReds s h v fence evt = .ok u) :
    ∃ l : List Packet, injectQ u (coreStop h.core) h.ring = injectQ s (coreStop h.core) h.ring ++ l
      ∧ (∀ p ∈ l, p.ty = .reduce ∧ p.owner = some (h.core, h.seq))
      ∧ coreAt u h.core = { coreAt s h.core with outgoing := (coreAt s h.core).outgoing ++ [⟨h.seq, l.length, fence, evt⟩] }
      ∧ OtherCores s u h.core := by
  unfold sendReds at hu
  split at hu
  · nomatch hu
  · obtain rfl := Except.ok.inj hu
    have hcores := sendPackets_cores (coreStop h.core) (fun r : Nat × Nat => redsPacket s h v r.1 r.2) (redsRuns h) s
    have hinject := injectQ_sendPackets (stop := coreStop h.core) (ring := h.ring)
      (P := fun r : Nat × Nat => redsPacket s h v r.1 r.2) (fun r => (redsPacket_head s h v r.1 r.2).1) (redsRuns h) s
    refine ⟨(redsRuns h).map fun r => redsPacket s h v r.1 r.2, ?_, fun p hp => ?_, ?_, ?_⟩
    · rw [injectQ_updCore]
      exact hinject
    · obtain ⟨r, -, rfl⟩ := List.mem_map.1 hp
      exact (redsPacket_head s h v r.1 r.2).2
    · rw [coreAt_updCore_same, coreAt_congr hcores, List.length_map]
    · exact (otherCores_of_cores hcores _).after_updCore _

/-- What a REDS of an SRAM tile leaves: its packets at its core's stop, and the operation outstanding. -/
theorem redsTile_spec {s u : State} {c : Nat} {o : RedsOp} {d : TileDesc} (hu : redsTile s c o d = .ok u) :
    ∃ (l : List Packet) (ord : List Access), injectQ u (coreStop c) o.ch = injectQ s (coreStop c) o.ch ++ l
      ∧ (∀ p ∈ l, p.ty = .reduce ∧ p.owner = some (c, o.seq))
      ∧ coreAt u c = { coreAt s c with order := ord, outgoing := (coreAt s c).outgoing ++ [⟨o.seq, l.length, o.ch, o.evt⟩] }
      ∧ OtherCores s u c := by
  unfold redsTile at hu
  dsimp only at hu
  split at hu
  · nomatch hu
  · obtain ⟨s0, hs0, hsend⟩ : ∃ s0, orderOp s c ⟨o.seq, .reds o.ch, false, some o.evt, tileSpans d, []⟩ = .ok s0
        ∧ _ = Except.ok u := by
      cases hord : orderOp s c ⟨o.seq, .reds o.ch, false, some o.evt, tileSpans d, []⟩ with
      | error e => rw [hord] at hu; nomatch hu
      | ok s0 => rw [hord] at hu; exact ⟨s0, rfl, hu⟩
    obtain ⟨l, hinject, htypes, hcore, hothers⟩ := sendReds_spec hsend
    have hordered : ∃ ord, coreAt s0 c = { coreAt s c with order := ord } ∧ OtherCores s s0 c ∧ s0.rings = s.rings := by
      unfold orderOp at hs0
      split at hs0
      · nomatch hs0
      · obtain rfl := Except.ok.inj hs0
        exact ⟨_, coreAt_updCore_same .., otherCores_updCore s c _, rfl⟩
    obtain ⟨ord, hcore0, hothers0, hrings0⟩ := hordered
    have hcores : (bump (touchTile s0 c d)).cores = s0.cores := touchSpans_cores s0 c (tileSpans d)
    have hrings : (bump (touchTile s0 c d)).rings = s.rings :=
      (touchSpans_keep (·.rings) (fun s c off n src =>
        readSram_keep (·.rings) checkSramWord_rings bump_rings detectUe_rings s c off n src) s0 c (tileSpans d)).trans hrings0
    have hcore1 : coreAt (bump (touchTile s0 c d)) c = { coreAt s c with order := ord } := (coreAt_congr hcores c).trans hcore0
    refine ⟨l, ord, hinject.trans ?_, htypes, hcore.trans ?_, (hothers0.trans (otherCores_of_cores hcores c)).trans hothers⟩
    · unfold injectQ
      rw [hrings]
      rfl
    · dsimp only [redsHead]
      rw [hcore1]

section
variable {s : State} {c : Nat} {f : RedsF} (h : Issues s c (.reds f))
include h

theorem reds_tile_completes {u : State} (hf : f.churn = false) (hu : redsTile s c (redsOp s c f) (treg s c f.t) = .ok u) :
    Completes (.reds c f) s fun t =>
      NextInstr s t c
        ∧ (∃ o : Outgoing, (coreAt t c).outgoing = (coreAt s c).outgoing ++ [o] ∧ o.seq = (coreAt s c).nextSeq ∧ o.evt = f.evt
            ∧ o.fence = f.ch
            ∧ ∃ l : List Packet, injectQ t (coreStop c) f.ch = injectQ s (coreStop c) f.ch ++ l ∧ l.length = o.left
              ∧ ∀ p ∈ l, p.ty = .reduce ∧ p.owner = some (c, (coreAt s c).nextSeq))
        ∧ t.rings = u.rings := by
  obtain ⟨l, ord, hinject, htypes, hcore, hothers⟩ := redsTile_spec hu
  have hissue : issueReds s c f = .ok (nextPc (takeSeq u c) c) := by
    unfold issueReds
    dsimp only
    rw [hf, hu]
    rfl
  have hnext : coreAt (nextPc (takeSeq u c) c) c = { coreAt s c with
      order := ord, outgoing := (coreAt s c).outgoing ++ [⟨(coreAt s c).nextSeq, l.length, f.ch, f.evt⟩]
      nextSeq := (coreAt s c).nextSeq + 1, pc := ((coreAt s c).pc + 8) % 2 ^ 64 } := by
    unfold nextPc takeSeq
    rw [coreAt_updCore_same, coreAt_updCore_same, hcore]
    rfl
  have hinstr : NextInstr s (nextPc (takeSeq u c) c) c :=
    ⟨(hothers.after_updCore _).after_updCore _, by rw [hnext]; exact ⟨rfl, rfl, rfl, rfl, running_of_issues h⟩⟩
  exact ⟨_, (tileOut_issues h _).trans (by rw [hissue]; rfl), hinstr,
    ⟨⟨(coreAt s c).nextSeq, l.length, f.ch, f.evt⟩, by rw [hnext], rfl, rfl, rfl, l, hinject, rfl, htypes⟩, rfl⟩

theorem reds_churn_completes (hf : f.churn = true) (hlen : (coreAt s c).drainQ.length < 4) : Completes (.reds c f) s fun t =>
    NextInstr s t c ∧ (coreAt t c).drainQ = (coreAt s c).drainQ ++ [.reds (redsOp s c f)] ∧ t = { s with cores := t.cores } := by
  have hissue : issueReds s c f
      = .ok (nextPc (takeSeq (updCore s c fun x => { x with drainQ := x.drainQ ++ [.reds (redsOp s c f)] }) c) c) := by
    unfold issueReds
    dsimp only
    rw [if_pos hf, if_pos hlen]
  generalize ht : nextPc (takeSeq (updCore s c fun x => { x with drainQ := x.drainQ ++ [.reds (redsOp s c f)] }) c) c = t at hissue
  have hcore : coreAt t c = { coreAt s c with
      drainQ := (coreAt s c).drainQ ++ [.reds (redsOp s c f)], nextSeq := (coreAt s c).nextSeq + 1
      pc := ((coreAt s c).pc + 8) % 2 ^ 64 } := by
    rw [← ht]
    unfold nextPc takeSeq
    simp only [coreAt_updCore_same]
  have hothers : OtherCores s t c := ht ▸ ((otherCores_updCore s c _).after_updCore _).after_updCore _
  have hinstr : NextInstr s t c := ⟨hothers, by rw [hcore]; exact ⟨rfl, rfl, rfl, rfl, running_of_issues h⟩⟩
  exact ⟨t, (tileOut_issues h _).trans (by rw [hissue]; rfl), hinstr, by rw [hcore], by rw [← ht]; rfl⟩

theorem reds_churn_waits (hf : f.churn = true) (hlen : 4 ≤ (coreAt s c).drainQ.length) : Waits (.reds c f) s := by
  refine waits_of_tile h rfl ?_
  unfold issueReds
  dsimp only
  rw [if_pos hf, if_neg (by omega)]

end

theorem redsComplete_completes {s : State} {c : Nat} {o : Outgoing} (hp : powered s = true) (ho : redsEnded s c = some o) :
    Completes (.redsComplete c) s fun t =>
      (coreAt t c).events.getLsbD (o.evt % 64) = true ∧ (∀ y ∈ (coreAt t c).outgoing, y.seq ≠ o.seq)
        ∧ OtherCores s t c ∧ t = { s with cores := t.cores } := by
  have hcore : coreAt (endReds s c o) c = { coreAt s c with
      outgoing := (coreAt s c).outgoing.filter fun y => y.seq != o.seq
      events := (coreAt s c).events ||| BitVec.ofNat 64 (2 ^ (o.evt % 64)) } := by
    unfold endReds setEvent
    simp only [coreAt_updCore_same]
  refine ⟨endReds s c o, (act_pos hp (by rw [ho]; rfl)).trans (by rw [ho]), ?_, fun y hy => ?_,
    OtherCores.after_updCore (otherCores_updCore s c _) _, rfl⟩
  · rw [hcore]
    exact event_or_set _ _ (Nat.mod_lt _ (by decide))
  · rw [hcore] at hy
    exact bne_iff_ne.1 (List.mem_filter.1 hy).2

/-! ### REDW (R124) -/

theorem dropTag_eq (s : State) (c t : Nat) :
    ∃ f, dropTag s c t = updCore s c f
      ∧ (∀ x, (f x).pc = x.pc ∧ (f x).sregs = x.sregs ∧ (f x).tregs = x.tregs ∧ (f x).code = x.code ∧ (f x).running = x.running)
      ∧ ∀ x, x.heldTags = [] → (f x).tags = x.tags.erase t := by
  refine ⟨_, rfl, fun x => ?_, fun x hx => ?_⟩
  · dsimp only
    split
    · split
      all_goals exact ⟨rfl, rfl, rfl, rfl, rfl⟩
    · exact ⟨rfl, rfl, rfl, rfl, rfl⟩
  · simp only [hx]

theorem redw_completes {s : State} {c r : Nat} (h : Issues s c (.redw r)) (ht : sval s c r % 2 ^ 32 ∈ (coreAt s c).tags) :
    Completes (.redw c r) s fun t =>
      NextInstr s t c ∧ t = { s with cores := t.cores }
        ∧ ((coreAt s c).heldTags = [] → (coreAt t c).tags = (coreAt s c).tags.erase (sval s c r % 2 ^ 32)) := by
  obtain ⟨f, hdrop, hkeeps, htags⟩ := dropTag_eq s c (sval s c r % 2 ^ 32)
  have htake : takeTag s c (sval s c r % 2 ^ 32) = nextPc (updCore s c f) c := by
    unfold takeTag
    rw [if_pos (by simpa using ht), hdrop]
  refine ⟨_, (tileOut_issues h _).trans (by rw [htake]; rfl), nextInstr_updCore (running_of_issues h) hkeeps, rfl, fun hheld => ?_⟩
  unfold nextPc
  rw [coreAt_updCore_same, coreAt_updCore_same]
  exact htags _ hheld

theorem redw_waits {s : State} {c r : Nat} (h : Issues s c (.redw r)) (ht : sval s c r % 2 ^ 32 ∉ (coreAt s c).tags) :
    Waits (.redw c r) s := by
  refine waits_of_tile h rfl ?_
  unfold takeTag
  rw [if_neg (by simpa using ht)]

/-! ### VOP and ATB enter their queues (R126, R129, R141) -/

theorem vop_completes {s : State} {c : Nat} {f : VopF} (h : Issues s c (.vop f)) (hlen : (coreAt s c).vopQ.length < 8)
    (hord : unordered (coreAt s c) (some .vector) (if vopOk (vopOp s c f) then vopSpans (vopOp s c f) else [])
      (if vopOk (vopOp s c f) then tileSpans (vopOp s c f).d else []) = none) :
    Completes (.vop c f) s fun t =>
      NextInstr s t c ∧ (∃ o : VopOp, (coreAt t c).vopQ = (coreAt s c).vopQ ++ [o] ∧ o.fn = f.fn ∧ o.d = treg s c f.d ∧ o.a = treg s c f.a)
        ∧ t = { s with cores := t.cores, free := t.free } := by
  have hissue : ∃ a, issueVop s c f = .ok (enqueued s c a fun x => { x with vopQ := x.vopQ ++ [vopOp s c f] }) := by
    refine ⟨⟨(vopOp s c f).seq, .vector, false, none, if vopOk (vopOp s c f) then vopSpans (vopOp s c f) else [],
      if vopOk (vopOp s c f) then tileSpans (vopOp s c f).d else []⟩, ?_⟩
    unfold issueVop
    rw [if_pos hlen]
    dsimp only
    rw [orderOp_none hord]
    rfl
  obtain ⟨a, ha⟩ := hissue
  obtain ⟨l, hl⟩ := coreAt_enqueued s c a fun x => { x with vopQ := x.vopQ ++ [vopOp s c f] }
  refine ⟨_, (tileOut_issues h _).trans (by rw [ha]; rfl), ⟨otherCores_enqueued s c a _, ?_⟩,
    ⟨vopOp s c f, by rw [hl], rfl, rfl, rfl⟩, enqueued_eq ..⟩
  rw [hl]
  exact ⟨rfl, rfl, rfl, rfl, running_of_issues h⟩

theorem vop_waits {s : State} {c : Nat} {f : VopF} (h : Issues s c (.vop f)) (hlen : 8 ≤ (coreAt s c).vopQ.length) :
    Waits (.vop c f) s :=
  waits_of_tile h rfl (if_neg (by omega))

theorem atb_completes {s : State} {c : Nat} {f : AtbF} (h : Issues s c (.atb f)) (hlen : (coreAt s c).feedQ.length < 4)
    (hord : unordered (coreAt s c) (some .feed)
      (if atbOk (atbOp s c f) && maskOk (atbOp s c f) (atbMask s c (atbOp s c f)) then
        atbSpans (atbOp s c f) (atbMask s c (atbOp s c f)) else [])
      (if atbOk (atbOp s c f) then atbOuts (atbOp s c f) else []) = none) :
    Completes (.atb c f) s fun t =>
      NextInstr s t c ∧ (∃ o : AtbOp, (coreAt t c).feedQ = (coreAt s c).feedQ ++ [.atb o] ∧ o.q = treg s c f.q ∧ o.kind = f.kind)
        ∧ t = { s with cores := t.cores, free := t.free } := by
  have hissue : ∃ a, issueAtb s c f = .ok (enqueued s c a fun x => { x with feedQ := x.feedQ ++ [.atb (atbOp s c f)] }) := by
    refine ⟨⟨(atbOp s c f).seq, .feed, true, none, if atbOk (atbOp s c f) && maskOk (atbOp s c f) (atbMask s c (atbOp s c f)) then
      atbSpans (atbOp s c f) (atbMask s c (atbOp s c f)) else [], if atbOk (atbOp s c f) then atbOuts (atbOp s c f) else []⟩, ?_⟩
    unfold issueAtb
    rw [if_pos hlen]
    dsimp only
    rw [orderOp_none hord]
    rfl
  obtain ⟨a, ha⟩ := hissue
  obtain ⟨l, hl⟩ := coreAt_enqueued s c a fun x => { x with feedQ := x.feedQ ++ [.atb (atbOp s c f)] }
  exact ⟨_, (tileOut_issues h _).trans (by rw [ha]; rfl), nextInstr_enqueued h a fun _ => ⟨_, _, rfl⟩,
    ⟨atbOp s c f, by rw [hl], rfl, rfl⟩, enqueued_eq ..⟩

theorem atb_waits {s : State} {c : Nat} {f : AtbF} (h : Issues s c (.atb f)) (hlen : 4 ≤ (coreAt s c).feedQ.length) :
    Waits (.atb c f) s :=
  waits_of_tile h rfl (if_neg (by omega))

/-! ### VOP_EXECUTE (R113, R126, R128) -/

/-- The lines and scale groups of a real tile lie in the SRAM. -/
theorem tileSpans_fit {d : TileDesc} (hd : descOk d d.lines = true) (hreal : d.fmt < 16) {r : Nat × Nat} (hr : r ∈ tileSpans d) :
    r.1 + r.2 ≤ 0x800000 := by
  obtain ⟨hone, -, -, hline, hscale⟩ := descOk_parts hd
  rw [tileSpans, partSpans, if_pos hreal, List.append_nil, planeSpans] at hr
  obtain ⟨l, hl, hr⟩ := List.mem_flatMap.1 hr
  have hl := List.mem_range.1 hl
  rcases List.mem_cons.1 hr with rfl | hr
  · have hmono : l * d.stride ≤ (d.lines - 1) * d.stride := Nat.mul_le_mul_right _ (by omega)
    dsimp only
    rw [Nat.zero_mul, Nat.zero_div]
    unfold lineAt at hline ⊢
    omega
  · split at hr
    · rename_i hs
      have hend := hscale hs
      have hmono : l * d.sstride ≤ (d.lines - 1) * d.sstride := Nat.mul_le_mul_right _ (by omega)
      rw [List.mem_singleton.1 hr]
      dsimp only
      rw [show (d.len + 31) / 32 = (d.len - 1) / 32 + 1 by omega, Nat.add_mul, Nat.one_mul]
      unfold scaleAt at hend ⊢
      omega
    · cases hr

/-- A row that is converted without block exponents has scale bytes in the MX formats alone, whose tiles have a place for them. -/
theorem unscaledRow_fits {d : TileDesc} {l : Nat} {vs : List Num} (hd : descOk d d.lines = true) (hl : l < d.lines)
    (hlen : vs.length = d.len) (rnd : Nat → Rnd) :
    (convertRow d.fmt false vs rnd).scales = []
      ∨ scaleAt d false l 0 + (convertRow d.fmt false vs rnd).scales.length ≤ 0x800000 := by
  obtain ⟨hone, -, hneeds, -, hscale⟩ := descOk_parts hd
  by_cases hmx : d.fmt = 2 ∨ d.fmt = 3
  · right
    have hneed : fmtNeedsScale d.fmt = true := by rcases hmx with h | h <;> rw [h] <;> rfl
    have hend := hscale (by rw [hasScale, hneeds hneed, hneed]; rfl)
    have hcount := length_convertRow_scales d.fmt false vs rnd
    have hmono : l * d.sstride ≤ (d.lines - 1) * d.sstride := Nat.mul_le_mul_right _ (by omega)
    rw [hlen, show (d.len + 31) / 32 = (d.len - 1) / 32 + 1 by omega, Nat.add_mul, Nat.one_mul] at hcount
    unfold scaleAt at hend ⊢
    omega
  · left
    unfold convertRow
    rw [if_neg hmx]
    rfl

/-- What the shapes and formats of R126 and R128 say of a VOP. -/
theorem vopOk_parts {o : VopOp} (h : vopOk o = true) :
    descOk o.a o.a.lines = true ∧ descOk o.d o.d.lines = true ∧ o.a.fmt < 16 ∧ o.d.fmt < 16
      ∧ (if o.fn = 0x0E ∨ o.fn = 0x0F then o.d.len = 1 else o.d.len = o.a.len)
      ∧ (vopUsesB o.fn = true → descOk o.b o.b.lines = true ∧ o.b.fmt < 16) := by
  have hsrc : ∀ {x}, vopSrc x = true → x < 16 := fun {x} hx => by
    simp only [vopSrc, Bool.or_eq_true, beq_iff_eq] at hx
    omega
  have hout : ∀ {x}, fmtOutput x = true → x < 16 := fun {x} hx => by
    simp only [fmtOutput, List.contains_eq_mem, List.mem_cons, List.not_mem_nil, or_false, decide_eq_true_eq] at hx
    omega
  simp only [vopOk, Bool.and_eq_true] at h
  obtain ⟨⟨⟨⟨⟨⟨⟨-, hda⟩, hdd⟩, -⟩, hlen⟩, hfa⟩, hfd⟩, hb⟩ := h
  refine ⟨hda, hdd, ?_, ?_, ?_, fun hu => ?_⟩
  · split at hfa
    · simp only [Bool.and_eq_true, Bool.or_eq_true, beq_iff_eq] at hfa
      omega
    · exact hsrc hfa
  · split at hfd
    · exact hout hfd
    · exact hsrc hfd
  · simpa using hlen
  · rw [hu] at hb
    simp only [Bool.not_true, Bool.false_or, Bool.and_eq_true] at hb
    obtain ⟨⟨⟨hdb, hfb⟩, -⟩, -⟩ := hb
    exact ⟨hdb, hsrc hfb⟩

theorem length_line32 (s : State) (c : Nat) (d : TileDesc) (l : Nat) : (line32 s c d l).length = d.len := by
  simp [line32, lineVals, lineCodes]

theorem length_vopLine {s : State} {c : Nat} {o : VopOp} {l : Nat} (h : vopOk o = true) : (vopLine s c o l).1.length = o.d.len := by
  obtain ⟨-, -, -, -, hlen, -⟩ := vopOk_parts h
  unfold vopLine
  dsimp only
  split
  · rename_i hfn
    rw [if_neg (by omega)] at hlen
    simp [hlen]
  · split
    · rename_i hfn
      rw [if_pos (.inl hfn)] at hlen
      rw [hlen]
      rfl
    · split
      · rename_i hfn
        rw [if_pos (.inr hfn)] at hlen
        rw [hlen]
        rfl
      · rename_i hsum hmax
        rw [if_neg (by omega)] at hlen
        dsimp only
        split
        · simp [length_line32, hlen]
        · simp [length_line32, hlen]

theorem vopSpans_fit {o : VopOp} (h : vopOk o = true) : ∀ r ∈ vopSpans o, r.1 + r.2 ≤ 0x800000 := by
  obtain ⟨hda, hdd, hfa, hfd, -, hb⟩ := vopOk_parts h
  intro r hr
  simp only [vopSpans, List.mem_append] at hr
  rcases hr with (hr | hr) | hr
  · exact tileSpans_fit hda hfa hr
  · split at hr
    · rename_i hu
      exact tileSpans_fit (hb hu).1 (hb hu).2 hr
    · cases hr
  · split at hr
    · exact tileSpans_fit hdd hfd hr
    · cases hr

theorem sramWork_vopRow {c : Nat} {o : VopOp} (h : vopOk o = true) (s : State) {l : Nat} (hl : l < o.d.lines) :
    SramWork s (vopRow c o s l) c := by
  obtain ⟨-, hdd, -⟩ := vopOk_parts h
  have hlen := length_vopLine (s := s) (c := c) (l := l) h
  exact (sramWork_putRow s (codes_fit hdd hl ((length_convertRow_codes ..).trans hlen)) (unscaledRow_fits hdd hl hlen _)).trans
    (sramWork_bump _ c)

theorem exec_vopExecute {s : State} {c : Nat} {o : VopOp} {l : List VopOp} (hp : powered s = true)
    (hon : domOn s ⟨.core, c⟩ = true) (hq : (coreAt s c).vopQ = o :: l) : exec (.vopExecute c) s = toOut s (runVop s c o) := by
  change execVopExecute c s = _
  unfold execVopExecute
  rw [hq]
  exact actE_pos hp hon

theorem vopExecute_completes {s : State} {c : Nat} {o : VopOp} {l : List VopOp} (hp : powered s = true)
    (hon : domOn s ⟨.core, c⟩ = true) (hq : (coreAt s c).vopQ = o :: l) (h : vopOk o = true) :
    Completes (.vopExecute c) s fun t =>
      (coreAt t c).vopQ = l ∧ OtherCores s t c ∧ SameWork s t
        ∧ (∀ k, (k < sramKey c 0 ∨ sramKey c 0x800000 ≤ k) → FMap.find t.mem k = FMap.find s.mem k) := by
  have hrun : ∃ t, runVop s c o = .ok t ∧ SramWork (updCore s c fun x => { x with vopQ := x.vopQ.drop 1 }) t c := by
    unfold runVop
    rw [h]
    exact ⟨_, rfl, ((sramWork_touchSpans _ (vopSpans_fit h)).trans
      (.foldl (fun s i hi => sramWork_vopRow h s (List.mem_range.1 hi)) _)).trans (sramWork_coreEvent ..)⟩
  obtain ⟨t, ht, hwork⟩ := hrun
  refine ⟨t, (exec_vopExecute hp hon hq).trans (by rw [ht]; rfl), ?_, ?_, SameWork.trans (.of_wq rfl) hwork.work, hwork.mem⟩
  · rw [coreAt_congr hwork.cores, coreAt_updCore_same, hq]
    rfl
  · exact (otherCores_updCore s c _).trans (otherCores_of_cores hwork.cores c)

theorem vopExecute_undefined {s : State} {c : Nat} {o : VopOp} {l : List VopOp} (hp : powered s = true)
    (hon : domOn s ⟨.core, c⟩ = true) (hq : (coreAt s c).vopQ = o :: l) (h : vopOk o = false) :
    Undefined (.vopExecute c) s 18 := by
  rw [Undefined, exec_vopExecute hp hon hq, runVop, h]
  rfl

/-! ### ATB_EXECUTE (R129, R130, R145 to R151) -/

/-- From `s` to `t` core `c` kept its feed queue, and no other core and nothing but noted outputs of the work queues changed. -/
def KeepsFeedQ (s t : State) (c : Nat) : Prop := (coreAt t c).feedQ = (coreAt s c).feedQ ∧ OtherCores s t c ∧ SameWork s t

theorem KeepsFeedQ.trans {s t u : State} {c : Nat} (h : KeepsFeedQ s t c) (h' : KeepsFeedQ t u c) : KeepsFeedQ s u c :=
  ⟨h'.1.trans h.1, h.2.1.trans h'.2.1, h.2.2.trans h'.2.2⟩

theorem KeepsFeedQ.of_cores {s t : State} {c : Nat} (hcores : t.cores = s.cores) (hwork : SameWork s t) : KeepsFeedQ s t c :=
  ⟨by rw [coreAt_congr hcores], otherCores_of_cores hcores c, hwork⟩

theorem KeepsFeedQ.of_churn {s t : State} {c : Nat} (h : ChurnOnly s t c) : KeepsFeedQ s t c := by
  obtain ⟨⟨_, _, _, hstate⟩, ⟨_, _, _, _, hcore⟩, hothers⟩ := h
  exact ⟨by rw [hcore], hothers, .of_wq (by rw [hstate])⟩

theorem KeepsFeedQ.foldl {α : Type} {f : State → α → State} {c : Nat} (h : ∀ s a, KeepsFeedQ s (f s a) c) (l : List α)
    (s : State) : KeepsFeedQ s (l.foldl f s) c := by
  induction l generalizing s with
  | nil => exact .of_cores rfl (.of_wq rfl)
  | cons a l ih => exact (h s a).trans (ih _)

theorem churnOnly_runProduct (s : State) (c : Nat) (p : Product) : ChurnOnly s (runProduct s c p) c := by
  have hcell : ∀ s i j, ChurnOnly s (productCell c p i j s) c := fun s i j =>
    .foldl (fun s _ => .foldl (fun s _ => churnOnly_addPass s c ..) _ s) _ s
  have hflags : ChurnOnly s (setAnchor (clearTileFlags s c false) c (productAnchor p)) c :=
    (churnOnly_regs s _ s.free c).trans (churnOnly_regs _ _ s.free c)
  exact hflags.trans <| (ChurnOnly.foldl (fun s _ => .foldl (fun s _ => churnOnly_putAcc s c ..) _ s) _ _).trans <|
    (churnOnly_count _ _ _ c).trans (.foldl (fun s _ => .foldl (fun s _ => hcell s _ _) _ s) _ _)

theorem keepsFeedQ_coreOut (s : State) (c off : Nat) (bs : List Byte) (d : Nat) : KeepsFeedQ s (coreOut s c off bs) d := by
  have hnote : ∀ u : State, (noteOut u c (sramKey c off) bs.length).cores = u.cores := fun u => by
    unfold noteOut
    split
    all_goals rfl
  exact .of_cores ((hnote _).trans (coreStore_cores ..))
    (SameWork.trans (.of_wq (coreStore_wq ..)) (sameWork_noteOut _ c (sramKey c off) bs.length))

theorem keepsFeedQ_valueStep (c : Nat) (o : AtbOp) (ps : List StatRow) (s : State) (lo : Nat) :
    KeepsFeedQ s (valueStep c o ps s lo) c :=
  (KeepsFeedQ.of_churn (churnOnly_runProduct s c _)).trans (.foldl (fun s _ => keepsFeedQ_coreOut s c _ _ c) _ _)

theorem keepsFeedQ_atbSteps (s : State) (c : Nat) (o : AtbOp) : KeepsFeedQ s (atbSteps s c o) c :=
  (KeepsFeedQ.of_churn (churnOnly_runProduct s c _)).trans <|
    (KeepsFeedQ.foldl (keepsFeedQ_valueStep c o _) _ _).trans (keepsFeedQ_coreOut _ c _ _ c)

/-- A tile that is lost leaves every churn entry undefined and the feed queue as it was. -/
theorem loseTile_spec (s : State) (c : Nat) : (coreAt (loseTile s c) c).churn = [] ∧ KeepsFeedQ s (loseTile s c) c := by
  have hcores : (loseTile s c).cores = (updCore s c fun x => { x with churn := [] }).cores := rfl
  have hcore : coreAt (loseTile s c) c = { coreAt s c with churn := [] } :=
    (coreAt_congr hcores c).trans (coreAt_updCore_same s c _)
  exact ⟨by rw [hcore], by rw [hcore], OtherCores.trans (otherCores_updCore s c _) (otherCores_of_cores hcores c), .of_wq rfl⟩

theorem exec_atbExecute {s : State} {c : Nat} {o : AtbOp} (hp : powered s = true) (hnext : nextAtb s c = some o) :
    exec (.atbExecute c) s = toOut s (runAtb s c o) := by
  refine (actE_pos hp (by rw [hnext]; rfl)).trans ?_
  rw [hnext]

theorem atbExecute_completes {s : State} {c : Nat} {o : AtbOp} (hp : powered s = true) (hnext : nextAtb s c = some o)
    (hok : atbOk o = true) (hmask : maskOk o (atbMask s c o) = true) : Completes (.atbExecute c) s fun t =>
      (coreAt t c).churn = [] ∧ (coreAt t c).feedQ = (coreAt s c).feedQ.drop 1 ∧ OtherCores s t c ∧ SameWork s t := by
  have hrun : ∃ u, runAtb s c o = .ok (coreEvent (loseTile u c) c 0x09 1)
      ∧ KeepsFeedQ (updCore s c fun x => { x with feedQ := x.feedQ.drop 1 }) u c := by
    unfold runAtb
    dsimp only
    rw [hok, hmask]
    exact ⟨_, rfl, (KeepsFeedQ.of_cores (touchSpans_cores ..) (.of_wq (touchSpans_wq ..))).trans (keepsFeedQ_atbSteps _ c o)⟩
  obtain ⟨u, hu, hsteps⟩ := hrun
  obtain ⟨hchurn, hlost⟩ := loseTile_spec u c
  have hevent : (coreEvent (loseTile u c) c 0x09 1).cores = (loseTile u c).cores := coreEvent_cores ..
  obtain ⟨hfeed, hothers, hwork⟩ := (hsteps.trans hlost).trans (KeepsFeedQ.of_cores hevent (.of_wq (coreEvent_wq ..)))
  refine ⟨_, (exec_atbExecute hp hnext).trans (by rw [hu]; rfl), ?_, hfeed.trans ?_, (otherCores_updCore s c _).trans hothers,
    SameWork.trans (.of_wq rfl) hwork⟩
  · rw [coreAt_congr hevent, hchurn]
  · rw [coreAt_updCore_same]

theorem atbExecute_undefined {s : State} {c : Nat} {o : AtbOp} (hp : powered s = true) (hnext : nextAtb s c = some o)
    (h : atbOk o = false ∨ maskOk o (atbMask s c o) = false) : Undefined (.atbExecute c) s 23 := by
  have hbad : (!atbOk o || !maskOk o (atbMask s c o)) = true := by
    rcases h with h | h
    all_goals simp [h]
  have hrun : runAtb s c o = .error (.undefinedCase 23) := if_pos hbad
  rw [Undefined, exec_atbExecute hp hnext, hrun]
  rfl

/-! ### A masked row (R146) -/

theorem statRow_masked {masked : Nat → Bool} (h : ∀ j, j < 64 → masked j = true) (pf scale l : Nat) (sc : List Nat) :
    (statRow pf scale sc masked 0xFF800000 l).corr = 0x3F800000 ∧ (statRow pf scale sc masked 0xFF800000 l).m = 0xFF800000 := by
  have hscores : ((List.range 64).map fun j => if masked j then 0xFF800000 else mul32 scale ((sc[j]?).getD 0))
      = (List.range 64).map fun _ => 0xFF800000 :=
    List.map_congr_left fun j hj => if_pos (h j (List.mem_range.1 hj))
  have hmax : max32 0xFF800000 (rmax32 ((List.range 64).map fun _ => 0xFF800000)) = 0xFF800000 := by decide +kernel
  have hm : (statRow pf scale sc masked 0xFF800000 l).m = 0xFF800000 := by
    unfold statRow
    dsimp only
    rw [hscores, hmax]
  refine ⟨?_, hm⟩
  unfold statRow
  dsimp only
  rw [hscores, hmax]
  rfl

/-! ### The obligation -/

/-- Settles O41: each operation enters or leaves its own queue, and its writes lie in its core's SRAM. -/
theorem reduceVectorAttention : Obligations.ReduceVectorAttention := by
  unfold Obligations.ReduceVectorAttention
  refine ⟨fun c f s u h => ⟨reds_tile_completes h, reds_churn_completes h, reds_churn_waits h⟩,
    fun c o s => redsComplete_completes, fun c s hnone => act_neg (by rw [hnone]; rfl),
    fun c r s h => ⟨redw_completes h, redw_waits h⟩, fun c f s h => ⟨vop_completes h, vop_waits h⟩,
    fun c o l s hp hon hq => ⟨vopExecute_completes hp hon hq, vopExecute_undefined hp hon hq⟩,
    fun c f s h => ⟨atb_completes h, atb_waits h⟩,
    fun c o s hp hnext => ⟨atbExecute_completes hp hnext, atbExecute_undefined hp hnext⟩,
    fun c s hnone => actE_neg (by rw [hnone]; rfl), fun pf scale l sc masked h => statRow_masked h pf scale l sc⟩

end Sys2Proof.Machine

namespace Sys2Proof.Machine

/-! ## Injection, acceptance and the bridges (O50): R248 to R260, R270 to R272 -/

/-! ### Queues and counters of a stop -/

theorem injectQ_setInjectQ_same (s : State) (stop ring : Nat) (l : List Packet) :
    injectQ (setInjectQ s stop ring l) stop ring = l := by
  unfold injectQ setInjectQ
  dsimp only
  cases l with
  | nil => simp [FMap.getD]
  | cons p l => simp

theorem injectQ_setInjectQ_ne (s : State) {stop ring a b : Nat} (l : List Packet) (h : 4 * a + b ≠ 4 * stop + ring) :
    injectQ (setInjectQ s stop ring l) a b = injectQ s a b := by
  unfold injectQ setInjectQ
  dsimp only
  split
  · simp [FMap.getD, FMap.find_drop_ne _ h]
  · rw [FMap.getD_set_ne _ _ _ h]

theorem regsKept_count (s : State) (a n : Nat) : RegsKept s (count s a n) [a] := fun _ hb =>
  regGet_count_ne s n fun h => hb (List.mem_singleton.2 h)

theorem regsKept_event (s : State) (f i c : Nat) : RegsKept s (event s f i c) [f, c] := fun _ hb =>
  regGet_event_ne s i (fun h => hb (by simp [h])) fun h => hb (by simp [h])

theorem rngReg_flag_ne (h : Nat) {o : Nat} (ho : o ≠ 8) : rngReg h o ≠ rngReg h 8 := by
  unfold rngReg sheafWin; omega

/-- An uncorrectable packet: the flag, the count and the cause. -/
theorem ringUe_spec (s : State) (stop sub addr : Nat) :
    bit (regGet (ringUe s stop sub addr) (rngReg (stop / 256) 8)) 1 = true
      ∧ regGet (ringUe s stop sub addr) (rngReg (stop / 256) 0x28) = counterAdd (regGet s (rngReg (stop / 256) 0x28)) 1
      ∧ (∃ c : Cause, (ringUe s stop sub addr).fault.detected = s.fault.detected ++ [c] ∧ c.code = 3 ∧ c.sub = sub ∧ c.unit = stop
          ∧ c.addr = addr)
      ∧ RegsKept s (ringUe s stop sub addr) [rngReg (stop / 256) 8, rngReg (stop / 256) 0x28] := by
  have hne := rngReg_flag_ne (stop / 256) (o := 0x28) (by decide)
  have hregs : ∀ a, regGet (ringUe s stop sub addr) a
      = regGet (event s (rngReg (stop / 256) 8) 1 (rngReg (stop / 256) 0x28)) a := fun a => regGet_congr (detect_regs ..) a
  refine ⟨?_, ?_, ⟨⟨0x03, sub, stop, addr, 0, 0xFFFF, 0⟩, rfl, rfl, rfl, rfl, rfl⟩, fun a ha => ?_⟩
  · rw [hregs, event_flag _ _ _ _ (by decide) hne.symm]
  · rw [hregs, event_count _ _ _ _ hne]
  · rw [hregs, regsKept_event s _ _ _ a ha]

theorem ringUe_eq (s : State) (stop sub addr : Nat) :
    ringUe s stop sub addr = { s with regs := (ringUe s stop sub addr).regs, fault := (ringUe s stop sub addr).fault } := by
  obtain ⟨regs, hregs⟩ := event_regs s (rngReg (stop / 256) 8) 1 (rngReg (stop / 256) 0x28)
  unfold ringUe
  dsimp only
  rw [hregs]
  rfl

@[simp] theorem ringUe_rings (s : State) (stop sub addr : Nat) : (ringUe s stop sub addr).rings = s.rings := by
  rw [ringUe_eq]

/-! ### Arbitration (R256, R258) -/

theorem nextOfClass_some {s : State} {stop ring cls : Nat} {q : Packet} (h : nextOfClass s stop ring cls = some q) :
    q ∈ atStop s stop ring ∧ q.cls = cls ∧ mayLeave s q = true := by
  have hq := List.find?_some h
  simp only [Bool.and_eq_true, beq_iff_eq] at hq
  exact ⟨List.mem_of_find?_eq_some h, hq⟩

theorem nextOfClass_none {s : State} {stop ring cls : Nat} (h : nextOfClass s stop ring cls = none) {x : Packet}
    (hx : x ∈ atStop s stop ring) (hcls : x.cls = cls) : mayLeave s x = false := by
  have hno := List.find?_eq_none.1 h x hx
  simpa [hcls] using hno

/-- The packet served is one of the stop's that may leave, and one of class 0 where there is one. -/
theorem serveStop_spec {s : State} {stop ring : Nat} {q : Packet} {d : FMap Nat} (h : serveStop s stop ring = some (q, d)) :
    (q ∈ atStop s stop ring ∧ mayLeave s q = true)
      ∧ ∀ x ∈ atStop s stop ring, x.cls = 0 → mayLeave s x = true → q.cls = 0 := by
  unfold serveStop at h
  split at h
  · rename_i p hp
    obtain rfl : p = q := by simpa using congrArg (Option.map Prod.fst) h
    obtain ⟨hmem, hcls, hmay⟩ := nextOfClass_some hp
    exact ⟨⟨hmem, hmay⟩, fun _ _ _ _ => hcls⟩
  · rename_i hnone
    refine ⟨?_, fun x hx hcls hmay => absurd hmay (by simp [nextOfClass_none hnone hx hcls])⟩
    dsimp only at h
    split at h
    · nomatch h
    · obtain ⟨p, hp, hpq⟩ := Option.map_eq_some_iff.1 h
      obtain rfl : p = q := congrArg Prod.fst hpq
      obtain ⟨hmem, -, hmay⟩ := nextOfClass_some hp
      exact ⟨hmem, hmay⟩

theorem leavesSlots_spec {s : State} {stop ring : Nat} (h : leavesSlots s stop ring = true) :
    4 * stop + ring ∉ s.rings.slotReq ∧ ∃ k ∈ s.rings.slotReq, k % 4 = ring ∧ k / 1024 = stop / 256 := by
  simp only [leavesSlots, Bool.and_eq_true, Bool.not_eq_true', List.any_eq_true, beq_iff_eq] at h
  obtain ⟨hown, k, hk, ⟨hring, hsheaf⟩, -⟩ := h
  exact ⟨by simpa using hown, k, hk, hring, hsheaf⟩

/-! ### What leaves a stop (R122, R248, R251) -/

/-- The rings when a packet has left its stop's queue. -/
def ringsLeft (s : State) (stop ring : Nat) (p : Packet) (d : FMap Nat) : Rings :=
  { (setInjectQ s stop ring ((injectQ s stop ring).erase p)).rings with
    deficit := d, slotReq := s.rings.slotReq.filter (· != 4 * stop + ring) }

theorem leaveQueue_eq (s : State) (stop ring : Nat) (p : Packet) (d : FMap Nat) :
    ∃ cores, leaveQueue s stop ring p d = { s with rings := ringsLeft s stop ring p d, cores }
      ∧ (p.ty ≠ .reduce → cores = s.cores) := by
  unfold leaveQueue
  dsimp only
  split
  · rename_i hty _
    exact ⟨_, rfl, fun h => absurd hty h⟩
  · exact ⟨s.cores, rfl, fun _ => rfl⟩

/-- What a packet that leaves its queue leaves of it, where `t` has the rings of the packet's departure but for the packets that
travel. -/
theorem ringsLeft_queues {s t : State} {stop ring : Nat} {p : Packet} {d : FMap Nat}
    (hinject : t.rings.inject = (ringsLeft s stop ring p d).inject)
    (hslots : t.rings.slotReq = (ringsLeft s stop ring p d).slotReq) :
    injectQ t stop ring = (injectQ s stop ring).erase p
      ∧ (∀ a b, 4 * a + b ≠ 4 * stop + ring → injectQ t a b = injectQ s a b) ∧ 4 * stop + ring ∉ t.rings.slotReq := by
  have hqueue : ∀ a b, injectQ t a b = injectQ (setInjectQ s stop ring ((injectQ s stop ring).erase p)) a b := fun a b => by
    unfold injectQ
    rw [hinject]
    rfl
  refine ⟨by rw [hqueue, injectQ_setInjectQ_same], fun a b h => by rw [hqueue, injectQ_setInjectQ_ne _ _ h], ?_⟩
  rw [hslots]
  simp [ringsLeft]

/-- The state in which a packet travels. -/
def injected (s : State) (stop ring : Nat) (q : Packet) (d : FMap Nat) (r : Nat × Bool) : State :=
  let s1 := leaveQueue s stop ring q d
  countTx { s1 with rings := { s1.rings with
    flight := FMap.set s1.rings.flight s1.rings.nextId (onRing stop (aimPacket s stop q) r), nextId := s1.rings.nextId + 1 } } stop

section
variable {s : State} {stop ring : Nat} {q : Packet} {d : FMap Nat}

theorem injectNext_path {r : Nat × Bool} (hserve : serveStop s stop ring = some (q, d))
    (hsteer : steerPacket s stop (aimPacket s stop q) = some r) :
    injectNext s stop ring = injected s stop ring q d r := by
  unfold injectNext
  rw [hserve]
  dsimp only
  rw [hsteer]
  rfl

theorem injectNext_noPath (hserve : serveStop s stop ring = some (q, d))
    (hsteer : steerPacket s stop (aimPacket s stop q) = none) :
    injectNext s stop ring = ringUe (leaveQueue s stop ring q d) stop 1 (aimPacket s stop q).addr := by
  unfold injectNext
  rw [hserve]
  dsimp only
  rw [hsteer]

theorem afterInject_none (u : State) (h : stopLink stop = none) : afterInject u stop = u := by
  unfold afterInject; rw [h]

/-- The injection that a stop performs, when it serves a packet and leaves its slots to no other stop. -/
theorem exec_inject (hp : powered s = true) (hlive : stopLive stop = true) (hring : ring < 4)
    (hslots : leavesSlots s stop ring = false) (hserve : serveStop s stop ring = some (q, d)) :
    exec (.ringPacketInject stop ring) s = .next (if domOn s ⟨.fabric, stop / 256⟩ then afterInject (injectNext s stop ring) stop
      else levelWake s ⟨.fabric, stop / 256⟩) :=
  act_pos hp (by simp [hlive, hring, hserve, hslots])

theorem injected_spec (r : Nat × Bool) :
    let u := injected s stop ring q d r
    let p := aimPacket s stop q
    FMap.find u.rings.flight s.rings.nextId = some { p with
        ring := r.1, back := r.2, entered := stop, release := none, owner := (if p.ty = .msg then p.owner else none) }
      ∧ (∀ k, k ≠ s.rings.nextId → flightAt u k = flightAt s k) ∧ u.rings.nextId = s.rings.nextId + 1
      ∧ injectQ u stop ring = (injectQ s stop ring).erase q
      ∧ (∀ a b, 4 * a + b ≠ 4 * stop + ring → injectQ u a b = injectQ s a b)
      ∧ 4 * stop + ring ∉ u.rings.slotReq ∧ u.rings.deficit = d
      ∧ regGet u (stopCtr (stop / 256) (stop % 256) 0) = counterAdd (regGet s (stopCtr (stop / 256) (stop % 256) 0)) 1
      ∧ RegsKept s u [stopCtr (stop / 256) (stop % 256) 0] ∧ (q.ty ≠ .reduce → u.cores = s.cores)
      ∧ u = { s with rings := u.rings, regs := u.regs, cores := u.cores } := by
  obtain ⟨cores, hleft, hcores⟩ := leaveQueue_eq s stop ring q d
  unfold injected
  rw [hleft]
  dsimp only
  generalize hv : ({ s with
      rings := { ringsLeft s stop ring q d with
        flight := FMap.set (ringsLeft s stop ring q d).flight (ringsLeft s stop ring q d).nextId
          (onRing stop (aimPacket s stop q) r)
        nextId := (ringsLeft s stop ring q d).nextId + 1 }
      cores } : State) = v
  have hrings : (countTx v stop).rings = v.rings := count_rings ..
  have hregs : v.regs = s.regs := by rw [← hv]
  have hflight : v.rings.flight = FMap.set s.rings.flight s.rings.nextId (onRing stop (aimPacket s stop q) r) := by rw [← hv]; rfl
  have honRing : onRing stop (aimPacket s stop q) r = { aimPacket s stop q with
      ring := r.1, back := r.2, entered := stop, release := none
      owner := if (aimPacket s stop q).ty = .msg then (aimPacket s stop q).owner else none } := by
    simp only [onRing, beq_iff_eq]
  obtain ⟨hq, hothers, hslot⟩ := ringsLeft_queues (t := countTx v stop) (s := s) (stop := stop) (ring := ring) (p := q) (d := d)
    (by rw [hrings, ← hv]) (by rw [hrings, ← hv])
  refine ⟨?_, fun k hk => ?_, ?_, hq, hothers, hslot, ?_, ?_, fun a ha => ?_, fun hty => ?_, ?_⟩
  · rw [hrings, hflight, FMap.find_set_same, honRing]
  · unfold flightAt
    rw [hrings, hflight, FMap.find_set_ne _ _ hk]
  · rw [hrings, ← hv]; rfl
  · rw [hrings, ← hv]; rfl
  · exact (regGet_count_same ..).trans (by rw [regGet_congr hregs])
  · exact (regsKept_count v _ 1 a ha).trans (regGet_congr hregs a)
  · rw [← hcores hty, ← hv]; rfl
  · rw [← hv]; rfl

theorem inject_completes (hp : powered s = true) (hlive : stopLive stop = true) (hring : ring < 4)
    (hslots : leavesSlots s stop ring = false) (hserve : serveStop s stop ring = some (q, d))
    (hon : domOn s ⟨.fabric, stop / 256⟩ = true) {r : Nat × Bool} (hsteer : steerPacket s stop (aimPacket s stop q) = some r) :
    exec (.ringPacketInject stop ring) s = .next (afterInject (injected s stop ring q d r) stop) := by
  rw [exec_inject hp hlive hring hslots hserve, if_pos hon, injectNext_path hserve hsteer]

theorem inject_discards (hp : powered s = true) (hlive : stopLive stop = true) (hring : ring < 4)
    (hslots : leavesSlots s stop ring = false) (hserve : serveStop s stop ring = some (q, d))
    (hon : domOn s ⟨.fabric, stop / 256⟩ = true) (hsteer : steerPacket s stop (aimPacket s stop q) = none) :
    Completes (.ringPacketInject stop ring) s fun t => ∃ u : State,
      u.rings.flight = s.rings.flight ∧ injectQ u stop ring = (injectQ s stop ring).erase q
        ∧ bit (regGet u (rngReg (stop / 256) 8)) 1 = true
        ∧ regGet u (rngReg (stop / 256) 0x28) = counterAdd (regGet s (rngReg (stop / 256) 0x28)) 1
        ∧ (∃ c : Cause, u.fault.detected = s.fault.detected ++ [c] ∧ c.code = 3 ∧ c.sub = 1 ∧ c.unit = stop
            ∧ c.addr = (aimPacket s stop q).addr)
        ∧ u = { s with rings := u.rings, regs := u.regs, cores := u.cores, fault := u.fault }
        ∧ t = afterInject u stop ∧ (stopLink stop = none → t = u) := by
  refine ⟨afterInject (ringUe (leaveQueue s stop ring q d) stop 1 (aimPacket s stop q).addr) stop, ?_,
    ringUe (leaveQueue s stop ring q d) stop 1 (aimPacket s stop q).addr, ?_⟩
  · rw [exec_inject hp hlive hring hslots hserve, if_pos hon, injectNext_noPath hserve hsteer]
  · obtain ⟨cores, hleft, -⟩ := leaveQueue_eq s stop ring q d
    rw [hleft]
    obtain ⟨hflag, hcount, hcause, -⟩ := ringUe_spec { s with rings := ringsLeft s stop ring q d, cores } stop 1
      (aimPacket s stop q).addr
    have heq := ringUe_eq { s with rings := ringsLeft s stop ring q d, cores } stop 1 (aimPacket s stop q).addr
    have hrings := ringUe_rings { s with rings := ringsLeft s stop ring q d, cores } stop 1 (aimPacket s stop q).addr
    generalize ringUe { s with rings := ringsLeft s stop ring q d, cores } stop 1 (aimPacket s stop q).addr = u at *
    obtain ⟨hq, -, -⟩ := ringsLeft_queues (s := s) (stop := stop) (ring := ring) (p := q) (d := d) (t := u)
      (by rw [hrings]) (by rw [hrings])
    refine ⟨by rw [hrings]; rfl, hq, hflag, hcount, hcause, ?_, rfl, afterInject_none _⟩
    rw [heq]

end

/-! ### Paths and destinations (R253, R272) -/

theorem lanesOpen_all {s : State} (h : s.rings.lanes = []) (l : List Nat) : lanesOpen s l = true := by
  unfold lanesOpen
  rw [h]
  exact List.all_eq_true.2 fun _ _ => rfl

theorem steerPacket_own {s : State} {p : Packet} (stop : Nat) (h : s.rings.lanes = []) (hring : p.ring < 4) :
    steerPacket s stop p = some (p.ring, false) := by
  have hopen : ∀ (l : List Nat) (a : Nat) (f : Nat → Bool), (l.all fun b => lanesOpen s (pathLanes p.ring a b (f b))) = true :=
    fun l a f => List.all_eq_true.2 fun b _ => lanesOpen_all h _
  have hfirst : (List.range 4).map (fun i => (p.ring + i) % 4) = p.ring :: [(p.ring + 1) % 4, (p.ring + 2) % 4, (p.ring + 3) % 4] := by
    have hmod : (p.ring + 0) % 4 = p.ring := by omega
    simp only [List.range_succ, List.range_zero, List.nil_append, List.cons_append, List.map_cons, List.map_nil, hmod]
  unfold steerPacket steer
  dsimp only
  rw [hfirst, List.find?_cons_of_pos]
  exact hopen _ _ _

theorem aimPacket_remote {s : State} {p : Packet} {stop d o : Nat} (h : resolve s p.addr = .remote d o)
    (hty : p.ty = .rdReq ∨ p.ty = .wr ∨ p.ty = .reduce ∨ p.ty = .signal) :
    aimPacket s stop p = { p with dst := linkStop (outLink s (stop / 256) p.ring) } := by
  unfold aimPacket
  rw [if_pos hty, h]

/-! ### A packet that is turned away (R259, R260) -/

theorem rememberTriple_eq (s : State) (p : Packet) :
    rememberTriple s p = { s with rings := { s.rings with turned := (rememberTriple s p).rings.turned } } := by
  unfold rememberTriple
  split
  all_goals rfl

theorem turnedOn_upd (s : State) (p : Packet) (x : Nat × Nat × Nat) :
    turnedOn { s with rings := { s.rings with turned := FMap.upd s.rings.turned p.dst [] (· ++ [x]) } } p.dst p.ring
      = turnedOn s p.dst p.ring ++ [x].filter (·.2.2 == p.ring) := by
  unfold turnedOn FMap.upd
  rw [FMap.getD_set_same, List.filter_append]

theorem turnedOn_rememberTriple (s : State) (p : Packet) :
    ((turnedOn s p.dst p.ring).length < 16 → tripleOf p ∈ turnedOn (rememberTriple s p) p.dst p.ring)
      ∧ ∀ x, x ∈ turnedOn s p.dst p.ring → x ∈ turnedOn (rememberTriple s p) p.dst p.ring := by
  unfold rememberTriple
  split
  · rename_i h
    simp only [Bool.or_eq_true, decide_eq_true_eq, List.contains_iff_mem] at h
    exact ⟨fun hlen => h.resolve_right (by omega), fun _ hx => hx⟩
  · rw [turnedOn_upd]
    exact ⟨fun _ => by simp [tripleOf], fun x hx => List.mem_append_left _ hx⟩

theorem exec_packetTurnedAway {s : State} {id : Nat} {p : Packet} (hid : flightAt s id = some p) :
    exec (.packetTurnedAway id) s
      = act s (p.ty != .mcResp && !ejected s id p && !accepts s id p) (wakeFor (rememberTriple s p) p) := by
  change execPacketTurnedAway id s = _
  unfold execPacketTurnedAway
  rw [hid]

theorem exec_ringFlitUe {s : State} {id stop n : Nat} {p : Packet} (hid : flightAt s id = some p) :
    exec (.ringFlitUe id ⟨stop, n⟩) s
      = act s (decide (stop / 256 < 8) && decide (stop % 256 < 137) && !ejected s id p && (n == 1 || n == 2))
        (flitError s id stop n p) := by
  change execRingFlitUe id ⟨stop, n⟩ s = _
  unfold execRingFlitUe
  rw [hid]

theorem lost_packet {s : State} {id : Nat} (hid : flightAt s id = none) :
    Waits (.packetTurnedAway id) s ∧ ∀ stop n, Waits (.ringFlitUe id ⟨stop, n⟩) s := by
  refine ⟨?_, fun stop n => ?_⟩
  · change execPacketTurnedAway id s = _
    unfold execPacketTurnedAway
    rw [hid]
  · change execRingFlitUe id ⟨stop, n⟩ s = _
    unfold execRingFlitUe
    rw [hid]

theorem turnedAway_spec {s : State} {id : Nat} {p : Packet} (hp : powered s = true) (hid : flightAt s id = some p)
    (hty : p.ty ≠ .mcResp) :
    (ejected s id p = false → accepts s id p = false → Completes (.packetTurnedAway id) s fun t => ∃ u : State,
      u.rings.flight = s.rings.flight
        ∧ ((turnedOn s p.dst p.ring).length < 16 → tripleOf p ∈ turnedOn u p.dst p.ring)
        ∧ (∀ x, x ∈ turnedOn s p.dst p.ring → x ∈ turnedOn u p.dst p.ring)
        ∧ u = { s with rings := { s.rings with turned := u.rings.turned } } ∧ t = wakeFor u p)
    ∧ ((ejected s id p = true ∨ accepts s id p = true) → Waits (.packetTurnedAway id) s) := by
  have hexec := exec_packetTurnedAway hid
  refine ⟨fun hej hacc => ⟨_, hexec.trans (act_pos hp (by simp [hty, hej, hacc])), rememberTriple s p, ?_⟩,
    fun h => hexec.trans (act_neg ?_)⟩
  · obtain ⟨hthis, hall⟩ := turnedOn_rememberTriple s p
    refine ⟨?_, hthis, hall, rememberTriple_eq s p, rfl⟩
    rw [rememberTriple_eq]
  · rcases h with h | h
    all_goals simp [h]

/-- A packet of class 0 is turned away by triples of class 0 alone. -/
theorem listFull_class0 {s : State} {p : Packet} (hcls : p.cls = 0) (h : listFull s p = true) :
    ∃ x ∈ turnedOn s p.dst p.ring, x.2.1 = 0 := by
  simp only [listFull, Bool.and_eq_true, List.any_eq_true, hcls, if_true, beq_iff_eq] at h
  exact h.2

/-! ### Flits with wrong bits (R251) -/

theorem flitError_two (s : State) (id stop : Nat) (p : Packet) :
    flitError s id stop 2 p = ringUe (takeFlight s id) stop 0 p.addr := if_neg (by decide)

theorem flitError_one (s : State) (id stop : Nat) (p : Packet) :
    flitError s id stop 1 p = count s (rngReg (stop / 256) 0x38) 1 := if_pos rfl

theorem flitUe_spec {s : State} {id stop : Nat} {p : Packet} (hp : powered s = true) (hid : flightAt s id = some p)
    (hsheaf : stop / 256 < 8) (hpos : stop % 256 < 137) :
    (ejected s id p = false → Completes (.ringFlitUe id ⟨stop, 2⟩) s fun t =>
      flightAt t id = none ∧ (∀ k, k ≠ id → flightAt t k = flightAt s k) ∧ bit (regGet t (rngReg (stop / 256) 8)) 1 = true
        ∧ regGet t (rngReg (stop / 256) 0x28) = counterAdd (regGet s (rngReg (stop / 256) 0x28)) 1
        ∧ (∃ c : Cause, t.fault.detected = s.fault.detected ++ [c] ∧ c.code = 3 ∧ c.sub = 0 ∧ c.unit = stop ∧ c.addr = p.addr)
        ∧ RegsKept s t [rngReg (stop / 256) 8, rngReg (stop / 256) 0x28]
        ∧ t = { s with rings := t.rings, regs := t.regs, fault := t.fault })
    ∧ (ejected s id p = false → Completes (.ringFlitUe id ⟨stop, 1⟩) s fun t =>
        regGet t (rngReg (stop / 256) 0x38) = counterAdd (regGet s (rngReg (stop / 256) 0x38)) 1
          ∧ RegsKept s t [rngReg (stop / 256) 0x38] ∧ t = { s with regs := t.regs })
    ∧ (∀ n, (ejected s id p = true ∨ (n ≠ 1 ∧ n ≠ 2)) → Waits (.ringFlitUe id ⟨stop, n⟩) s) := by
  refine ⟨fun hej => ⟨_, (exec_ringFlitUe hid).trans (act_pos hp (by simp [hsheaf, hpos, hej])), ?_⟩,
    fun hej => ⟨_, (exec_ringFlitUe hid).trans (act_pos hp (by simp [hsheaf, hpos, hej])), ?_⟩,
    fun n h => (exec_ringFlitUe hid).trans (act_neg ?_)⟩
  · obtain ⟨hflag, hcount, hcause, hkept⟩ := ringUe_spec (takeFlight s id) stop 0 p.addr
    have heq := ringUe_eq (takeFlight s id) stop 0 p.addr
    have hrings := ringUe_rings (takeFlight s id) stop 0 p.addr
    rw [flitError_two]
    generalize ringUe (takeFlight s id) stop 0 p.addr = u at *
    refine ⟨?_, fun k hk => ?_, hflag, hcount, hcause, hkept, ?_⟩
    · unfold flightAt
      rw [hrings]
      exact FMap.find_drop_same ..
    · unfold flightAt
      rw [hrings]
      exact FMap.find_drop_ne _ hk
    · rw [heq]
      rfl
  · rw [flitError_one]
    exact ⟨regGet_count_same .., regsKept_count s _ 1, rfl⟩
  · rcases h with h | ⟨h1, h2⟩
    · simp [h]
    · simp [h1, h2]

/-! ### Bridge lanes (R270 to R272) -/

theorem laneAt_setLane_same (s : State) (k : Nat) (x : Lane) : laneAt (setLane s k x) k = x := FMap.getD_set_same ..

theorem laneAt_setLane_ne (s : State) {k j : Nat} (x : Lane) (h : j ≠ k) : laneAt (setLane s k x) j = laneAt s j :=
  FMap.getD_set_ne _ _ _ h

theorem laneAt_congr {s t : State} (h : t.rings = s.rings) (k : Nat) : laneAt t k = laneAt s k := by
  unfold laneAt; rw [h]

/-- The unit that fails in operation is marked for the next boot. -/
theorem markUnit_spec (s : State) (kind reason number sub : Nat) :
    (∃ m ∈ (markUnit s kind reason number sub).flash.marked, m.kind = kind ∧ m.number = number ∧ m.sub = sub)
      ∧ markUnit s kind reason number sub = { s with flash := (markUnit s kind reason number sub).flash } := by
  unfold markUnit
  dsimp only
  split
  · rename_i h
    obtain ⟨m, hm, hunit⟩ := List.any_eq_true.1 h
    exact ⟨⟨m, hm, of_decide_eq_true hunit⟩, rfl⟩
  · exact ⟨⟨⟨kind, reason, number, sub, boots s⟩, by simp, rfl, rfl, rfl⟩, rfl⟩

section
variable {s : State} {h k : Nat} {g : Bool} (hp : powered s = true) (hused : laneUsed s h g k = true)
include hp hused

theorem flitCrcError_completes :
    Completes (.bridgeFlitCrcError h g k) s fun t =>
      laneAt t (recvKey h g k) = { laneAt s (recvKey h g k) with replays := (laneAt s (recvKey h g k)).replays + 1 }
        ∧ regGet t (rngReg h (if g then 0x148 else 0x108)) = counterAdd (regGet s (rngReg h (if g then 0x148 else 0x108))) 1
        ∧ RegsKept s t [rngReg h (if g then 0x148 else 0x108)] ∧ t = { s with rings := t.rings, regs := t.regs } :=
  ⟨_, act_pos hp hused, laneAt_setLane_same .., regGet_count_same .., regsKept_count (setLane s _ _) _ 1, rfl⟩

theorem exec_retrain {bad : List Nat} (hret : (laneAt s (recvKey h g k)).retrain = false)
    (hrep : 16 < (laneAt s (recvKey h g k)).replays) :
    exec (.bridgeLaneRetrain h g k bad) s = .next (retrainLane s h g k bad) :=
  act_pos hp (by simp [hused, hret, hrep])

theorem retrain_completes {bad : List Nat} (hret : (laneAt s (recvKey h g k)).retrain = false)
    (hrep : 16 < (laneAt s (recvKey h g k)).replays) (hbad : ∀ n ∈ bad, n ≤ 2) :
    Completes (.bridgeLaneRetrain h g k bad) s fun t =>
      (laneAt t (recvKey h g k)).retrain = true ∧ (laneAt t (recvKey h g k)).up = true
        ∧ (laneAt t (recvKey h g k)).spared = (bad.take 9).foldl (· + ·) 0
        ∧ (∀ j, j ≠ recvKey h g k → laneAt t j = laneAt s j) ∧ t = { s with rings := t.rings } := by
  have hup : (laneAt s (recvKey h g k)).up = true := by
    simp only [laneUsed, Bool.and_eq_true] at hused
    exact hused.2
  have hgood : (bad.any fun n => decide (2 < n)) = false := by simpa using hbad
  refine ⟨_, exec_retrain hp hused hret hrep, ?_⟩
  unfold retrainLane
  dsimp only
  rw [hgood, if_neg Bool.false_ne_true, laneAt_setLane_same]
  exact ⟨rfl, hup, rfl, fun j hj => laneAt_setLane_ne s _ hj, rfl⟩

theorem retrain_retires {bad : List Nat} (hret : (laneAt s (recvKey h g k)).retrain = false)
    (hrep : 16 < (laneAt s (recvKey h g k)).replays) (hbad : ∃ n ∈ bad, 2 < n) :
    Completes (.bridgeLaneRetrain h g k bad) s fun t =>
      (laneAt t (recvKey h g k)).up = false ∧ bit (regGet t (rngReg h 8)) 0 = true
        ∧ regGet t (rngReg h 0x20) = counterAdd (regGet s (rngReg h 0x20)) 1
        ∧ (∃ m ∈ t.flash.marked, m.kind = 3 ∧ m.number = laneBridge h g ∧ m.sub = k + 4 * b2n g)
        ∧ t = { s with rings := t.rings, regs := t.regs, flash := t.flash } := by
  have hfail : (bad.any fun n => decide (2 < n)) = true := by simpa using hbad
  have hne := rngReg_flag_ne h (o := 0x20) (by decide)
  refine ⟨_, exec_retrain hp hused hret hrep, ?_⟩
  unfold retrainLane retireLane
  dsimp only
  rw [hfail, if_pos rfl]
  generalize hv : event (setLane s (recvKey h g k) { laneAt s (recvKey h g k) with up := false, retrain := false }) (rngReg h 8) 0
    (rngReg h 0x20) = v
  obtain ⟨hmarked, heq⟩ := markUnit_spec v 3 6 (laneBridge h g) (k + 4 * b2n g)
  have hrings : (markUnit v 3 6 (laneBridge h g) (k + 4 * b2n g)).rings = v.rings := by rw [heq]
  have hregs : (markUnit v 3 6 (laneBridge h g) (k + 4 * b2n g)).regs = v.regs := by rw [heq]
  refine ⟨?_, ?_, ?_, hmarked, ?_⟩
  · rw [laneAt_congr hrings, ← hv, laneAt_congr (event_rings ..), laneAt_setLane_same]
  · rw [regGet_congr hregs, ← hv, event_flag _ _ _ _ (by decide) hne.symm]
  · rw [regGet_congr hregs, ← hv, event_count _ _ _ _ hne]
    rfl
  · obtain ⟨regs, hevent⟩ := event_regs
      (setLane s (recvKey h g k) { laneAt s (recvKey h g k) with up := false, retrain := false }) (rngReg h 8) 0 (rngReg h 0x20)
    rw [heq, ← hv, hevent]
    rfl

omit hp hused in
theorem retrain_waits {bad : List Nat} (h' : (laneAt s (recvKey h g k)).retrain = true ∨ (laneAt s (recvKey h g k)).replays ≤ 16) :
    Waits (.bridgeLaneRetrain h g k bad) s := by
  refine act_neg ?_
  rcases h' with h' | h'
  · simp [h']
  · have hfew : ¬ 16 < (laneAt s (recvKey h g k)).replays := by omega
    simp [hfew]

theorem retrainEnd_completes (hret : (laneAt s (recvKey h g k)).retrain = true) :
    Completes (.bridgeLaneRetrainEnd h g k) s fun t =>
      laneAt t (recvKey h g k) = { laneAt s (recvKey h g k) with retrain := false, replays := 0 }
        ∧ (∀ j, j ≠ recvKey h g k → laneAt t j = laneAt s j) ∧ t = { s with rings := t.rings } :=
  ⟨_, act_pos hp (by simp [hused, hret]), laneAt_setLane_same .., fun j hj => laneAt_setLane_ne s _ hj, rfl⟩

end

/-! ### The obligation -/

/-- Settles O50: a packet leaves its queue and travels or is discarded, and what a stop turns away or a lane replays is
remembered in its own table. -/
theorem ringMovement : Obligations.RingMovement := by
  unfold Obligations.RingMovement
  refine ⟨?_, fun stop ring s h => act_neg ?_, fun stop ring s h => leavesSlots_spec h,
    fun stop p s h hring => steerPacket_own stop h hring, fun stop p s d o h hty => aimPacket_remote h hty,
    fun stop ring s hp hlive hring hq => ⟨fun hreq => ⟨_, act_pos hp ?_, rfl⟩, fun hreq => act_neg ?_⟩,
    fun id p s hp hid hty => turnedAway_spec hp hid hty, fun p s hcls h => listFull_class0 hcls h,
    fun id stop p s hp hid hsheaf hpos => flitUe_spec hp hid hsheaf hpos, fun id s hid => lost_packet hid,
    fun h k g s hp hused => ⟨flitCrcError_completes hp hused,
      fun bad hret hrep => ⟨retrain_completes hp hused hret hrep, retrain_retires hp hused hret hrep⟩,
      fun bad h' => retrain_waits h', retrainEnd_completes hp hused⟩⟩
  · intro stop ring s q d hp hlive hring hslots hserve
    obtain ⟨hq, hclass⟩ := serveStop_spec hserve
    refine ⟨fun hon => ⟨fun r hsteer => ⟨_, inject_completes hp hlive hring hslots hserve hon hsteer,
        injected s stop ring q d r, ?_⟩,
      fun hsteer => inject_discards hp hlive hring hslots hserve hon hsteer⟩, fun hoff => ⟨_, ?_, rfl⟩, hclass, hq⟩
    · obtain ⟨hthis, hflight, hid, hqueue, hothers, hslot, hdef, hcount, hkept, hcores, heq⟩ := injected_spec (s := s)
        (stop := stop) (ring := ring) (q := q) (d := d) r
      exact ⟨hthis, hflight, hid, hqueue, hothers, hslot, hdef, hcount, hkept, hcores, heq, rfl, afterInject_none _⟩
    · rw [exec_inject hp hlive hring hslots hserve, hoff]
      rfl
  · rcases h with h | h
    all_goals simp [h]
  · simp [hlive, hring, hq, hreq]
  · simp [hreq]

end Sys2Proof.Machine

namespace Sys2Proof.Machine

/-! ## Reduce-on-route, signals, notices and messages (O52): R123, R138, R174, R265 to R269, R303 -/

/-! ### Arrivals (R259, R260) -/

/-- A packet that arrives and that its stop takes has its effect in the state in which it has left the rings. -/
theorem arrival_takes {s : State} {id : Nat} {p : Packet} {ty : PType} (h : Arrives s id p ty) {at_ : Packet → Bool}
    (hat : at_ p = true) (eff : Packet → State → Except Halt State) :
    arrival s id ty at_ eff = toOut s (eff p (accept s id p)) := by
  obtain ⟨hp, hid, hty, hacc, hej, hdirect⟩ := h
  have hcond : (p.ty == ty && at_ p && accepts s id p) = true := by simp [hty, hat, hacc]
  unfold arrival
  rw [hid]
  dsimp only
  rw [if_neg (ne_true_of_eq_false hej)]
  split
  · rename_i c hc
    rw [if_pos (hdirect c hc)]
    exact actE_pos hp hcond
  · exact actE_pos hp hcond

section
variable {s : State} {id : Nat} {p : Packet}

theorem exec_tagNoticeArrival (h : Arrives s id p .tagNotice) :
    exec (.tagNoticeArrival id) s = .next (noticeAt p (accept s id p)) :=
  arrival_takes h (at_ := fun _ => true) rfl fun p s => .ok (noticeAt p s)

theorem exec_signalArrival (h : Arrives s id p .signal) (hcore : (stopCore p.dst).isSome = true) :
    exec (.signalArrival id) s = .next (signalAt p (accept s id p)) :=
  arrival_takes h (at_ := fun p => (stopCore p.dst).isSome) hcore fun p s => .ok (signalAt p s)

theorem exec_sigAckArrival (h : Arrives s id p .sigAck) :
    exec (.sigAckArrival id) s = .next (signalOver (accept s id p) p.txn) :=
  arrival_takes h (at_ := fun _ => true) rfl fun p s => .ok (signalOver s p.txn)

theorem exec_msgArrival (h : Arrives s id p .msg) : exec (.msgArrival id) s = .next (msgAt p (accept s id p)) :=
  arrival_takes h (at_ := fun _ => true) rfl fun p s => .ok (msgAt p s)

end

theorem sends_congr {s u t : State} {stop : Nat} {p : Packet} (h : u.rings.inject = s.rings.inject) (hs : Sends u t stop p) :
    Sends s t stop p := by
  unfold Sends injectQ at hs ⊢
  rw [hs, h]

/-! ### Combining and holding on the way (R265 to R267) -/

theorem heldAt_setHeld_same (s : State) (stop : Nat) (l : List HeldRed) : heldAt (setHeld s stop l) stop = l := by
  unfold heldAt setHeld
  dsimp only
  cases l with
  | nil => simp [FMap.getD]
  | cons e l => simp

theorem flightAt_takeFlight_same (s : State) (id : Nat) : flightAt (takeFlight s id) id = none := FMap.find_drop_same ..

theorem freeHeld_unused {l : List HeldRed} {k : Nat} (h : freeHeld l = some k) : ∀ e ∈ l, e.id ≠ k := by
  have hall := List.find?_some h
  exact fun e he => bne_iff_ne.1 (List.all_eq_true.1 hall e he)

section
variable {s : State} {id stop : Nat} {p : Packet}

theorem exec_passStop (hp : powered s = true) (hid : flightAt s id = some p) (hty : p.ty = .reduce)
    (hej : ejected s id p = false) (hpass : passes s p stop = true) :
    exec (.reducePassStop id stop) s = .next (passStop s id stop p) := by
  change execReducePassStop id stop s = _
  unfold execReducePassStop
  rw [hid]
  exact act_pos hp (by simp [hty, hej, hpass])

theorem joinHeld_spec {e : HeldRed} (he : (heldAt s stop).find? (fun e => sameRun e.p p) = some e) :
    let t := joinHeld s id stop p e
    flightAt t id = none ∧ (∃ x ∈ heldAt t stop, x.id = e.id ∧ x.p = combine e.p p)
      ∧ (combine e.p p).contrib = e.p.contrib + p.contrib
      ∧ regGet t (stopCtr (stop / 256) (stop % 256) 2) = counterAdd (regGet s (stopCtr (stop / 256) (stop % 256) 2)) 1
      ∧ t = { s with rings := t.rings, regs := t.regs } := by
  refine ⟨flightAt_takeFlight_same s id, ⟨{ e with p := combine e.p p }, ?_, rfl, rfl⟩, rfl, regGet_count_same .., rfl⟩
  have hheld : heldAt (joinHeld s id stop p e) stop
      = (heldAt s stop).map fun x => if x.id = e.id then { x with p := combine e.p p } else x := heldAt_setHeld_same ..
  rw [hheld]
  exact List.mem_map.2 ⟨e, List.mem_of_find?_eq_some he, if_pos rfl⟩

theorem passStop_joins {e : HeldRed} (he : (heldAt s stop).find? (fun e => sameRun e.p p) = some e) :
    passStop s id stop p = joinHeld s id stop p e := by
  unfold passStop
  rw [he]

theorem passStop_holds {k : Nat} (hnone : (heldAt s stop).find? (fun e => sameRun e.p p) = none) (hmay : mayHold s stop p = true)
    (hfree : freeHeld (heldAt s stop) = some k) : passStop s id stop p = holdPacket s id stop k p := by
  unfold passStop
  rw [hnone]
  dsimp only
  rw [if_pos hmay, hfree]

theorem passStop_passes (hnone : (heldAt s stop).find? (fun e => sameRun e.p p) = none)
    (h : mayHold s stop p = false ∨ freeHeld (heldAt s stop) = none) : passStop s id stop p = s := by
  unfold passStop
  rw [hnone]
  dsimp only
  split
  · rename_i hmay
    rw [h.resolve_left (by simp [hmay])]
  · rfl

theorem holdPacket_spec {k : Nat} (hfree : freeHeld (heldAt s stop) = some k) :
    let t := holdPacket s id stop k p
    flightAt t id = none
      ∧ heldAt t stop = heldAt s stop ++ [⟨k, { p with held := (if stop % 256 < 2 then p.held else p.held + 1) }⟩]
      ∧ (∀ e ∈ heldAt s stop, e.id ≠ k) ∧ t = { s with rings := t.rings } :=
  ⟨flightAt_takeFlight_same s id, heldAt_setHeld_same .., freeHeld_unused hfree, rfl⟩

end

theorem holdRelease_completes {stop k : Nat} {s : State} {e : HeldRed} (hp : powered s = true)
    (he : (heldAt s stop).find? (fun x => x.id == k) = some e) : Completes (.reduceHoldRelease stop k) s fun t =>
      heldAt t stop = (heldAt s stop).filter (fun x => x.id != k) ∧ Sends s t stop e.p ∧ t = { s with rings := t.rings } := by
  refine ⟨sendPacket (setHeld s stop ((heldAt s stop).filter fun x => x.id != k)) stop e.p, ?_, heldAt_setHeld_same ..,
    sends_congr rfl (sends_sendPacket (setHeld s stop _) stop e.p), rfl⟩
  change execReduceHoldRelease stop k s = _
  unfold execReduceHoldRelease
  rw [he]
  exact act_pos hp rfl

theorem holdRelease_waits {stop k : Nat} {s : State} (he : (heldAt s stop).find? (fun x => x.id == k) = none) :
    Waits (.reduceHoldRelease stop k) s := by
  change execReduceHoldRelease stop k s = _
  unfold execReduceHoldRelease
  rw [he]

/-! ### The adds at the destination (R268) -/

theorem checkVault_rings (s : State) (v off n src : Nat) : (checkVault s v off n src).2.rings = s.rings :=
  checkVault_keep (·.rings) (fun s v w src => by
    unfold checkVaultWord
    split
    all_goals simp) s v off n src

theorem readVault_rings (s : State) (v off n : Nat) : Ends (fun r => r.2.2.rings = s.rings) (readVault s v off n) := by
  unfold readVault readVaultAs
  split
  · exact .error _
  · split
    · exact .error _
    · have hcheck := (checkVault_rings (wakeDom s ⟨.vault, v⟩) v off n 0).trans (wakeDom_rings s _)
      dsimp only
      split
      · exact .ok hcheck
      · exact .ok hcheck

theorem writeVault_rings (s : State) (v off : Nat) (bs : List Byte) :
    Ends (fun t => t.rings = s.rings) (writeVault s v off bs) := by
  have hmerges : ∀ u : State, (closeMerges u v off bs.length).rings = u.rings := fun u => by
    unfold closeMerges
    split
    all_goals rfl
  unfold writeVault
  split
  · exact .error _
  · split
    · exact .error _
    · exact .error _
    · refine .ok ?_
      rw [count_rings, hmerges, writeMem_rings, wakeDom_rings]

theorem touchRow_rings (s : State) (v off : Nat) : (touchRow s v off).rings = s.rings := by
  unfold touchRow
  split
  all_goals rfl

/-- The adds at the destination leave the rings as they are. -/
theorem addAtDest_rings {s u : State} {p : Packet} (h : addAtDest s p = .ok u) : u.rings = s.rings := by
  suffices Ends (fun t => t.rings = s.rings) (addAtDest s p) from this u h
  unfold addAtDest
  dsimp only
  split
  · rename_i v off _
    refine Ends.bind (Q := fun t => t.rings = s.rings) ?_ fun s1 h1 => ?_
    · unfold vaultFree
      dsimp only
      split
      · exact .error _
      · exact .ok rfl
    · refine (readVault_rings _ _ _ _).bind fun r hr => fun t ht => ?_
      rw [writeVault_rings _ _ _ _ t ht, hr, touchRow_rings, h1]
  · rename_i c off _
    unfold remoteStore
    split
    · exact .error _
    · refine .ok ?_
      rw [writeMem_rings, wakeDom_rings, readSram_keep (·.rings) checkSramWord_rings bump_rings detectUe_rings, wakeDom_rings]
  · exact .error _
  · exact .error _

theorem wakeDom_on {s : State} {d : Dom} (h : domOn s d = true) : wakeDom s d = s := if_pos h

/-- A run in the SRAM of a core that is On is read, added to and written back, unless a unit of the core keeps it. -/
theorem addAtDest_sram {p : Packet} {s : State} {c off : Nat} (hres : resolve s p.addr = .sram c off)
    (hon : domOn s ⟨.core, c⟩ = true) :
    let n := redCount p * slotBytes p.efmt
    let lo := off / 16 * 16
    let ws := addWords p (off - lo) (bytesAt s (sramKey c lo) (roundUp (off + n) 16 - lo))
    PlainSram s c lo (roundUp (off + n) 16 - lo) →
    (sramTaken s c lo ws.length = none → ∃ u, addAtDest s p = .ok u ∧ u.rings = s.rings
      ∧ u.mem = (writeMem s 16 (sramKey c lo) ws).mem)
    ∧ (∀ k, sramTaken s c lo ws.length = some k → addAtDest s p = .error (.undefinedCase k)) := by
  intro n lo ws hplain
  have hdest : addAtDest s p = remoteStore (bump s) c lo ws := by
    unfold addAtDest
    rw [hres]
    dsimp only
    rw [wakeDom_on hon, readSram_plain 2 hplain]
  have htaken : sramTaken (bump s) c lo ws.length = sramTaken s c lo ws.length := rfl
  refine ⟨fun hfree => ?_, fun k hk => ?_⟩
  · have hstore : addAtDest s p = .ok (writeMem (bump s) 16 (sramKey c lo) ws) := by
      rw [hdest, remoteStore, htaken, hfree, wakeDom_on (s := bump s) hon]
    refine ⟨_, hstore, addAtDest_rings hstore, ?_⟩
    unfold writeMem
    dsimp only
    split
    all_goals rfl
  · rw [hdest, remoteStore, htaken, hk]

theorem addAtDest_none {p : Packet} {s : State} {k : Nat} (hres : resolve s p.addr = .none k) :
    addAtDest s p = .error (.undefinedCase k) := by
  unfold addAtDest
  rw [hres]

/-! ### The tag table (R123, R269) -/

theorem tagsAt_setTags_same (s : State) (stop : Nat) (l : List TagEntry) : tagsAt (setTags s stop l) stop = l := by
  unfold tagsAt setTags
  dsimp only
  cases l with
  | nil => simp [FMap.getD]
  | cons e l => simp

theorem tagEntry_congr {s t : State} (h : t.rings.tags = s.rings.tags) (stop tag : Nat) : tagEntry t stop tag = tagEntry s stop tag := by
  unfold tagEntry tagsAt; rw [h]

theorem find_tag_filter (l : List TagEntry) (tag : Nat) : (l.filter fun x => x.tag != tag).find? (fun e => e.tag == tag) = none :=
  List.find?_eq_none.2 fun e he => by simpa using (List.mem_filter.1 he).2

theorem tagEntry_setTags_closed (s : State) (stop tag : Nat) (l : List TagEntry) :
    tagEntry (setTags s stop (l.filter fun x => x.tag != tag)) stop tag = none := by
  unfold tagEntry
  rw [tagsAt_setTags_same, find_tag_filter]

theorem tagEntry_setTags_open (s : State) (stop : Nat) (l : List TagEntry) {e : TagEntry} {tag : Nat} (he : e.tag = tag) :
    tagEntry (setTags s stop ((l.filter fun x => x.tag != tag) ++ [e])) stop tag = some e := by
  unfold tagEntry
  rw [tagsAt_setTags_same, List.find?_append, find_tag_filter]
  simp [he]

theorem entryFor_tag (s : State) (p : Packet) : (entryFor s p).tag = p.rtag := by
  unfold entryFor
  cases h : tagEntry s p.dst p.rtag with
  | none => rfl
  | some e => simpa using List.find?_some h

section
variable {id : Nat} {p : Packet} {s u : State} (h : Arrives s id p .reduce) (hlink : notLink p = true)
  (hadd : addAtDest (accept s id p) p = .ok u)
include h hlink hadd

theorem exec_destinationAdd : exec (.reduceDestinationAdd id) s = toOut s (countTag u p) := by
  refine (arrival_takes h hlink reduceAt).trans ?_
  unfold reduceAt
  rw [hadd]
  rfl

theorem destinationAdd_spec :
    let e := (tagEntry s p.dst p.rtag).getD ⟨p.rtag, p.relems * p.rcount, 0, (stopCore p.dst).getD 0, p.ring⟩
    let got := e.received + redCount p * p.contrib
    (e.expected ≠ p.relems * p.rcount → Undefined (.reduceDestinationAdd id) s 44)
    ∧ (e.expected = p.relems * p.rcount → e.expected < got → Undefined (.reduceDestinationAdd id) s 46)
    ∧ (e.expected = p.relems * p.rcount → got < e.expected → Completes (.reduceDestinationAdd id) s fun t =>
        tagEntry t p.dst p.rtag = some { e with received := got } ∧ t = { u with rings := t.rings })
    ∧ (e.expected = p.relems * p.rcount → got = e.expected → Completes (.reduceDestinationAdd id) s fun t =>
        tagEntry t p.dst p.rtag = none ∧ t = { u with rings := t.rings }
          ∧ ∃ q : Packet, Sends s t p.dst q ∧ q.ty = .tagNotice ∧ q.dst = p.dst ∧ q.rtag = p.rtag) := by
  have hexec := exec_destinationAdd h hlink hadd
  have hrings := addAtDest_rings hadd
  have hentry : entryFor u p = (tagEntry s p.dst p.rtag).getD ⟨p.rtag, p.relems * p.rcount, 0, (stopCore p.dst).getD 0, p.ring⟩ := by
    unfold entryFor
    rw [tagEntry_congr (s := s) (by rw [hrings]; rfl)]
  rw [← hentry]
  dsimp only
  have hinject : u.rings.inject = s.rings.inject := by rw [hrings]; rfl
  refine ⟨fun hne => ?_, fun heq hover => ?_, fun heq hmore => ?_, fun heq hlast => ?_⟩
  · rw [Undefined, hexec, countTag, if_pos hne]
    rfl
  · rw [Undefined, hexec, countTag, if_neg (not_not.2 heq), if_pos hover]
    rfl
  · refine ⟨_, hexec.trans ?_, tagEntry_setTags_open u p.dst (tagsAt u p.dst)
      (e := { entryFor u p with received := (entryFor u p).received + redCount p * p.contrib }) (entryFor_tag u p), rfl⟩
    rw [countTag, if_neg (not_not.2 heq), if_neg (by omega), if_neg (by omega)]
    rfl
  · refine ⟨sendNotice (setTags u p.dst ((tagsAt u p.dst).filter fun x => x.tag != p.rtag)) p, hexec.trans ?_,
      tagEntry_setTags_closed u p.dst p.rtag (tagsAt u p.dst), rfl,
      { plainPacket .tagNotice 0 p.cls p.dst p.dst 0 p.addr 0 with rtag := p.rtag },
      sends_congr (u := setTags u p.dst _) hinject (sends_sendPacket ..), rfl, rfl, rfl⟩
    rw [countTag, if_neg (not_not.2 heq), if_neg (by omega), if_pos hlast]
    rfl

end

/-! ### Notices (R123, R301) -/

theorem addTag_eq (s : State) (c t : Nat) :
    ((coreAt s c).tags.length < 64 → (coreAt (addTag s c t) c).tags = (coreAt s c).tags ++ [t])
      ∧ (64 ≤ (coreAt s c).tags.length → (coreAt (addTag s c t) c).heldTags = (coreAt s c).heldTags ++ [t]) := by
  unfold addTag
  rw [coreAt_updCore_same]
  refine ⟨fun h => by rw [if_pos h], fun h => by rw [if_neg (by omega)]⟩

/-- Cores that a command frees. -/
def freeCores (s : State) (l : List Nat) : State :=
  l.foldl (fun s c => updCore s c fun x => { x with running := false, owner := none }) s

theorem freeCores_eq (s : State) (l : List Nat) : ∃ cores, freeCores s l = { s with cores } := by
  unfold freeCores
  induction l generalizing s with
  | nil => exact ⟨s.cores, rfl⟩
  | cons c l ih =>
    obtain ⟨cores, h⟩ := ih (updCore s c fun x => { x with running := false, owner := none })
    exact ⟨cores, by rw [List.foldl_cons, h]; rfl⟩

theorem freeCores_kept {s : State} {d : Nat} (l : List Nat) (h : (coreAt s d).running = false ∧ (coreAt s d).owner = none) :
    (coreAt (freeCores s l) d).running = false ∧ (coreAt (freeCores s l) d).owner = none := by
  unfold freeCores
  induction l generalizing s with
  | nil => exact h
  | cons c l ih =>
    refine ih ?_
    by_cases hd : d = c
    · rw [hd, coreAt_updCore_same]
      exact ⟨rfl, rfl⟩
    · rw [otherCores_updCore s c _ d hd]
      exact h

theorem freeCores_freed {s : State} {d : Nat} {l : List Nat} (hd : d ∈ l) :
    (coreAt (freeCores s l) d).running = false ∧ (coreAt (freeCores s l) d).owner = none := by
  induction l generalizing s with
  | nil => cases hd
  | cons c l ih =>
    rcases List.mem_cons.1 hd with rfl | hd
    · refine freeCores_kept (s := updCore s d fun x => { x with running := false, owner := none }) l ?_
      rw [coreAt_updCore_same]
      exact ⟨rfl, rfl⟩
    · exact ih (s := updCore s c fun x => { x with running := false, owner := none }) hd

theorem endItem_wq_congr {s t : State} (h : t.wq = s.wq) (q idx status : Nat) :
    (endItem t q idx status).wq = (endItem s q idx status).wq := by
  unfold endItem updItem updQueue setQueue queueAt
  rw [h]

theorem reduceDone_spec {s : State} (q : Nat) (i : Item) :
    (reduceDone s q i).wq = (endItem s q i.idx stOk).wq
      ∧ (∀ d ∈ i.runCores, (coreAt (reduceDone s q i) d).running = false ∧ (coreAt (reduceDone s q i) d).owner = none)
      ∧ reduceDone s q i = { s with cores := (reduceDone s q i).cores, wq := (reduceDone s q i).wq } := by
  have hdone : reduceDone s q i = endItem (freeCores s i.runCores) q i.idx stOk := rfl
  obtain ⟨cores, hcores⟩ := freeCores_eq s i.runCores
  rw [hdone]
  refine ⟨endItem_wq_congr (by rw [hcores]) _ _ _, fun d hd => freeCores_freed hd, ?_⟩
  rw [hcores]
  rfl

theorem reduceOf_accept (s : State) (id : Nat) (p : Packet) (c tag : Nat) : reduceOf (accept s id p) c tag = reduceOf s c tag := rfl

section
variable {id c : Nat} {p : Packet} {s : State} (h : Arrives s id p .tagNotice) (hc : stopCore p.dst = some c)
include h hc

theorem notice_disabled (hen : coreEnabled s c = false) : Completes (.tagNoticeArrival id) s fun t =>
    regGet t (stopCtr (p.dst / 256) (p.dst % 256) 3) = counterAdd (regGet s (stopCtr (p.dst / 256) (p.dst % 256) 3)) 1
      ∧ t = { s with rings := t.rings, regs := t.regs } := by
  have hat : noticeAt p (accept s id p) = count (accept s id p) (stopCtr (p.dst / 256) (p.dst % 256) 3) 1 := by
    have hen' : coreEnabled (accept s id p) c = false := hen
    unfold noticeAt
    rw [hc]
    dsimp only
    rw [hen']
    rfl
  exact ⟨_, (exec_tagNoticeArrival h).trans (congrArg Host.Outcome.next hat),
    regGet_count_same (accept s id p) (stopCtr (p.dst / 256) (p.dst % 256) 3) 1, rfl⟩

theorem notice_tag (hen : coreEnabled s c = true) (hnone : reduceOf s c p.rtag = none) : Completes (.tagNoticeArrival id) s fun t =>
    ((coreAt s c).tags.length < 64 → (coreAt t c).tags = (coreAt s c).tags ++ [p.rtag])
      ∧ (64 ≤ (coreAt s c).tags.length → (coreAt t c).heldTags = (coreAt s c).heldTags ++ [p.rtag])
      ∧ OtherCores s t c ∧ t = { s with rings := t.rings, cores := t.cores } := by
  have hat : noticeAt p (accept s id p) = addTag (accept s id p) c p.rtag := by
    have hen' : coreEnabled (accept s id p) c = true := hen
    unfold noticeAt
    rw [hc]
    dsimp only
    rw [hen', reduceOf_accept, hnone]
    rfl
  obtain ⟨hroom, hfull⟩ := addTag_eq (accept s id p) c p.rtag
  exact ⟨_, (exec_tagNoticeArrival h).trans (congrArg Host.Outcome.next hat), hroom, hfull, otherCores_updCore (accept s id p) c _, rfl⟩

theorem notice_command {q : Nat} {i : Item} (hen : coreEnabled s c = true) (hsome : reduceOf s c p.rtag = some (q, i)) :
    Completes (.tagNoticeArrival id) s fun t =>
      t.wq = (endItem s q i.idx stOk).wq ∧ (∀ d ∈ i.runCores, (coreAt t d).running = false ∧ (coreAt t d).owner = none)
        ∧ t = { s with rings := t.rings, cores := t.cores, wq := t.wq } := by
  have hat : noticeAt p (accept s id p) = reduceDone (accept s id p) q i := by
    have hen' : coreEnabled (accept s id p) c = true := hen
    unfold noticeAt
    rw [hc]
    dsimp only
    rw [hen', reduceOf_accept, hsome]
    rfl
  obtain ⟨hwq, hcores, heq⟩ := reduceDone_spec (s := accept s id p) q i
  refine ⟨_, (exec_tagNoticeArrival h).trans (congrArg Host.Outcome.next hat), hwq.trans (endItem_wq_congr rfl _ _ _), hcores, ?_⟩
  rw [heq]
  rfl

end

/-! ### Timeouts (R269) -/

theorem reduceTimeout_spec (s : State) (stop tag sub : Nat) :
    bit (regGet (reduceTimeout s stop tag sub) (rngReg (stop / 256) 8)) 2 = true
      ∧ regGet (reduceTimeout s stop tag sub) (rngReg (stop / 256) 0x30) = counterAdd (regGet s (rngReg (stop / 256) 0x30)) 1
      ∧ (∃ c : Cause, (reduceTimeout s stop tag sub).fault.detected = s.fault.detected ++ [c] ∧ c.code = 4 ∧ c.sub = sub
          ∧ c.unit = stop)
      ∧ (reduceTimeout s stop tag sub).rings = s.rings
      ∧ ∃ regs fault, reduceTimeout s stop tag sub = { s with regs, fault } := by
  have hne := rngReg_flag_ne (stop / 256) (o := 0x30) (by decide)
  have hregs : ∀ a, regGet (reduceTimeout s stop tag sub) a
      = regGet (event s (rngReg (stop / 256) 8) 2 (rngReg (stop / 256) 0x30)) a := fun a => regGet_congr (detect_regs ..) a
  obtain ⟨regs, hevent⟩ := event_regs s (rngReg (stop / 256) 8) 2 (rngReg (stop / 256) 0x30)
  have heq : ∃ regs fault, reduceTimeout s stop tag sub = { s with regs, fault } := by
    unfold reduceTimeout
    dsimp only
    rw [hevent]
    exact ⟨_, _, rfl⟩
  refine ⟨?_, ?_, ⟨⟨0x04, sub, stop, 0, tag, 0xFFFF, 0⟩, rfl, rfl, rfl, rfl⟩, ?_, heq⟩
  · rw [hregs, event_flag _ _ _ _ (by decide) hne.symm]
  · rw [hregs, event_count _ _ _ _ hne]
  · obtain ⟨_, _, heq⟩ := heq
    rw [heq]

theorem timeout_entry {stop tag : Nat} {s : State} {e : TagEntry} (hp : powered s = true) (he : tagEntry s stop tag = some e) :
    Completes (.reduceTimeout stop tag) s fun t =>
      tagEntry t stop tag = none ∧ bit (regGet t (rngReg (stop / 256) 8)) 2 = true
        ∧ regGet t (rngReg (stop / 256) 0x30) = counterAdd (regGet s (rngReg (stop / 256) 0x30)) 1
        ∧ (∃ c : Cause, t.fault.detected = s.fault.detected ++ [c] ∧ c.code = 4 ∧ c.sub = 0 ∧ c.unit = stop)
        ∧ t = { s with rings := t.rings, regs := t.regs, fault := t.fault } := by
  have hexec : exec (.reduceTimeout stop tag) s
      = .next (reduceTimeout (setTags s stop ((tagsAt s stop).filter fun x => x.tag != tag)) stop tag 0) := by
    change execReduceTimeout stop tag s = _
    unfold execReduceTimeout
    rw [he]
    exact act_pos hp rfl
  obtain ⟨hflag, hcount, hcause, hrings, regs, fault, heq⟩ :=
    reduceTimeout_spec (setTags s stop ((tagsAt s stop).filter fun x => x.tag != tag)) stop tag 0
  refine ⟨_, hexec, ?_, hflag, hcount, hcause, ?_⟩
  · exact (tagEntry_congr (congrArg _ hrings) stop tag).trans (tagEntry_setTags_closed s stop tag (tagsAt s stop))
  · rw [heq]
    rfl

theorem exec_timeout_none {stop tag : Nat} {s : State} (he : tagEntry s stop tag = none) :
    exec (.reduceTimeout stop tag) s = act s (redwStarves s stop tag) (reduceTimeout s stop tag 1) := by
  change execReduceTimeout stop tag s = _
  unfold execReduceTimeout
  rw [he]

theorem not_starves_of_noticeOut {s : State} {stop tag : Nat} (h : noticeOut s stop tag = true) : redwStarves s stop tag = false := by
  unfold redwStarves
  split
  · rfl
  · rw [h]
    simp

/-! ### Signals (R138, R303) -/

theorem signalArrival_completes {id c : Nat} {p : Packet} {s : State} (h : Arrives s id p .signal) (hc : stopCore p.dst = some c) :
    Completes (.signalArrival id) s fun t =>
      (coreAt t c).events = (coreAt s c).events ||| BitVec.ofNat 64 (2 ^ (p.ev % 64)) ∧ OtherCores s t c
        ∧ (∃ q : Packet, Sends s t p.dst q ∧ q.ty = .sigAck ∧ q.dst = p.src ∧ q.txn = p.txn)
        ∧ t = { s with rings := t.rings, cores := t.cores } := by
  have hat : signalAt p (accept s id p) = sendPacket (setEvent (accept s id p) c p.ev) p.dst (replyPacket p .sigAck) := by
    unfold signalAt
    rw [hc]
    rfl
  refine ⟨_, (exec_signalArrival h (by rw [hc]; rfl)).trans (congrArg Host.Outcome.next hat), ?_,
    fun d hd => FMap.getD_set_ne _ _ _ hd, ⟨replyPacket p .sigAck, sends_congr (s := s) (u := setEvent (accept s id p) c p.ev) rfl
      (sends_sendPacket (setEvent (accept s id p) c p.ev) p.dst (replyPacket p .sigAck)), rfl, rfl, rfl⟩, rfl⟩
  have hcore : coreAt (sendPacket (setEvent (accept s id p) c p.ev) p.dst (replyPacket p .sigAck)) c
      = coreAt (setEvent (accept s id p) c p.ev) c := rfl
  rw [hcore, setEvent, coreAt_updCore_same]
  rfl

/-- What an acknowledged SIGNAL of a command changes. -/
theorem signalDone_frame (s : State) (q idx : Nat) :
    (signalDone s q idx).rings = s.rings ∧ (signalDone s q idx).mem = s.mem
      ∧ ∀ r, (signalDone { s with rings := r } q idx).wq = (signalDone s q idx).wq := by
  have hitem : ∀ u : State, (endItem u q idx stOk).rings = u.rings ∧ (endItem u q idx stOk).mem = u.mem := fun u =>
    ⟨updQueue_rings .., updQueue_mem ..⟩
  refine ⟨?_, ?_, fun r => ?_⟩
  · unfold signalDone
    split
    · split
      · rw [(hitem _).1]
        split
        · exact msix_rings ..
        · rfl
      · rfl
    · rfl
  · unfold signalDone
    split
    · split
      · rw [(hitem _).2]
        split
        · exact msix_mem ..
        · rfl
      · rfl
    · rfl
  · have hrun : ∀ f, isRunning { s with rings := r } q idx f = isRunning s q idx f := fun _ => rfl
    have hcmd : cmdAt { s with rings := r } q idx = cmdAt s q idx := rfl
    unfold signalDone
    rw [hrun, hcmd]
    split
    · split
      · refine endItem_wq_congr ?_ _ _ _
        split
        · rw [msix_wq, msix_wq]
        · rfl
      · rfl
    · rfl

section
variable {id : Nat} {p : Packet} {s : State} (h : Arrives s id p .sigAck)
include h

theorem sigAck_signal {c seq : Nat} (hout : FMap.find s.rings.out p.txn = some (.signal c seq)) :
    Completes (.sigAckArrival id) s fun t =>
      FMap.find t.rings.out p.txn = none ∧ (∀ o ∈ (coreAt t c).outgoing, ¬(o.seq = seq ∧ o.fence = 7)) ∧ OtherCores s t c
        ∧ t = { s with rings := t.rings, cores := t.cores } := by
  have hover : signalOver (accept s id p) p.txn = signalAcked (closeTxn (accept s id p) p.txn) c seq := by
    have hout' : FMap.find (accept s id p).rings.out p.txn = some (.signal c seq) := hout
    unfold signalOver
    rw [hout']
  refine ⟨_, (exec_sigAckArrival h).trans (congrArg Host.Outcome.next hover), FMap.find_drop_same .., fun o ho => ?_,
    otherCores_updCore (closeTxn (accept s id p) p.txn) c _, rfl⟩
  rw [signalAcked, coreAt_updCore_same] at ho
  simpa [imp_iff_not_or] using (List.mem_filter.1 ho).2

theorem sigAck_command {q idx : Nat} (hout : FMap.find s.rings.out p.txn = some (.sync q idx)) :
    Completes (.sigAckArrival id) s fun t =>
      FMap.find t.rings.out p.txn = none ∧ t.wq = (signalDone s q idx).wq ∧ t.mem = s.mem := by
  have hover : signalOver (accept s id p) p.txn = signalDone (closeTxn (accept s id p) p.txn) q idx := by
    have hout' : FMap.find (accept s id p).rings.out p.txn = some (.sync q idx) := hout
    unfold signalOver
    rw [hout']
  obtain ⟨hrings, hmem, -⟩ := signalDone_frame (closeTxn (accept s id p) p.txn) q idx
  obtain ⟨-, -, hwq⟩ := signalDone_frame s q idx
  refine ⟨_, (exec_sigAckArrival h).trans (congrArg Host.Outcome.next hover), ?_, hwq _, hmem⟩
  rw [hrings]
  exact FMap.find_drop_same ..

theorem sigAck_unknown (hout : FMap.find s.rings.out p.txn = none) :
    Completes (.sigAckArrival id) s fun t => t = accept s id p := by
  have hover : signalOver (accept s id p) p.txn = accept s id p := by
    have hout' : FMap.find (accept s id p).rings.out p.txn = none := hout
    unfold signalOver
    rw [hout']
  exact ⟨_, (exec_sigAckArrival h).trans (congrArg Host.Outcome.next hover), rfl⟩

end

/-! ### Messages (R174, R175) -/

section
variable {id : Nat} {p : Packet} {s : State} (h : Arrives s id p .msg)
include h

theorem msg_report {r : Report} (hr : p.report = some r) : Completes (.msgArrival id) s fun t =>
    t.guard.reports = s.guard.reports ++ [r]
      ∧ t = { s with rings := t.rings, guard := { s.guard with reports := t.guard.reports } } := by
  have hat : msgAt p (accept s id p) = { accept s id p with
      guard := { (accept s id p).guard with reports := (accept s id p).guard.reports ++ [r] } } := by
    unfold msgAt
    rw [hr]
  exact ⟨_, (exec_msgArrival h).trans (congrArg Host.Outcome.next hat), rfl, rfl⟩

theorem msg_acked {c seq : Nat} {w : DrainWait} (hr : p.report = none) (howner : p.owner = some (c, seq))
    (hw : (coreAt s c).drainWait = some w) (hseq : w.seq = seq) :
    Completes (.msgArrival id) s fun t => (coreAt t c).drainWait = some { w with acked := true } ∧ OtherCores s t c
      ∧ t = { s with rings := t.rings, cores := t.cores } := by
  have hat : msgAt p (accept s id p) = updCore (accept s id p) c fun x =>
      { x with drainWait := x.drainWait.map fun w => if w.seq = seq then { w with acked := true } else w } := by
    unfold msgAt
    rw [hr, howner]
  have hw' : (coreAt (accept s id p) c).drainWait = some w := hw
  refine ⟨_, (exec_msgArrival h).trans (congrArg Host.Outcome.next hat), ?_, otherCores_updCore (accept s id p) c _, rfl⟩
  rw [coreAt_updCore_same]
  dsimp only
  rw [hw', Option.map_some, if_pos hseq]

end

/-! ### The obligation -/

/-- Settles O52: a packet that arrives leaves the rings, and its effect is on the one table, core, item or counter of its type. -/
theorem ringReduceSignals : Obligations.RingReduceSignals := by
  unfold Obligations.RingReduceSignals
  refine ⟨?_, fun stop k s e hp he => holdRelease_completes hp he, fun stop k s he => holdRelease_waits he,
    fun id p s u h hlink hadd => destinationAdd_spec h hlink hadd, fun p s c off hres _ hon => addAtDest_sram hres hon,
    fun p s k hres => addAtDest_none hres,
    fun id c p s h hc => ⟨notice_disabled h hc, notice_tag h hc, fun q i => notice_command h hc⟩,
    fun stop tag s hp => ⟨fun e he => timeout_entry hp he, fun hnone => ⟨fun hstarve => ?_, fun hno => ?_⟩⟩,
    fun id c p s h hc => signalArrival_completes h hc,
    fun id p s h => ⟨fun c seq => sigAck_signal h, fun q idx => sigAck_command h, sigAck_unknown h⟩,
    fun id p s h => ⟨fun r => msg_report h, fun c seq w => msg_acked h⟩⟩
  · intro id stop p s hp hid hty hej hpass
    have hexec := exec_passStop hp hid hty hej hpass
    refine ⟨fun e he => ⟨_, hexec.trans (by rw [passStop_joins he]), joinHeld_spec he⟩,
      fun hnone => ⟨fun k hmay hfree => ⟨_, hexec.trans (by rw [passStop_holds hnone hmay hfree]), holdPacket_spec hfree⟩,
        fun hno => hexec.trans (by rw [passStop_passes hnone hno])⟩⟩
  · obtain ⟨-, -, hcause, hrings, -⟩ := reduceTimeout_spec s stop tag 1
    exact ⟨_, (exec_timeout_none hnone).trans (act_pos hp hstarve), hcause, hrings⟩
  · exact (exec_timeout_none hnone).trans (act_neg (hno.elim (fun h => h) not_starves_of_noticeOut))

end Sys2Proof.Machine

namespace Sys2Proof.Machine

/-! ## What an agent's accesses to memory leave unchanged (R200, R204, R210 to R213, R250) -/

/-- From `s` to `t` an agent read or wrote memory: the boot, the job, the cores, the page units, the guard and the work queues are
as before. -/
structure AgentFrame (s t : State) : Prop where
  boot : t.boot = s.boot
  job : t.job = s.job
  cores : t.cores = s.cores
  pages : t.pages = s.pages
  guard : t.guard = s.guard
  wq : t.wq = s.wq

theorem AgentFrame.refl (s : State) : AgentFrame s s := ⟨rfl, rfl, rfl, rfl, rfl, rfl⟩

theorem AgentFrame.trans {s t u : State} (h : AgentFrame s t) (h' : AgentFrame t u) : AgentFrame s u :=
  ⟨h'.boot.trans h.boot, h'.job.trans h.job, h'.cores.trans h.cores, h'.pages.trans h.pages, h'.guard.trans h.guard,
    h'.wq.trans h.wq⟩

theorem AgentFrame.foldl {α : Type} {f : State → α → State} (h : ∀ s a, AgentFrame s (f s a)) (l : List α) (s : State) :
    AgentFrame s (l.foldl f s) := by
  induction l generalizing s with
  | nil => exact .refl s
  | cons a l ih => exact (h s a).trans (ih _)

theorem AgentFrame.refCount {s t : State} (h : AgentFrame s t) (p : Nat) : refCount t p = refCount s p := by
  unfold Machine.refCount unitAt; rw [h.pages]

/-! ### Counts, and memory itself -/

theorem agentFrame_bump (s : State) : AgentFrame s (bump s) := ⟨rfl, rfl, rfl, rfl, rfl, rfl⟩

theorem agentFrame_count (s : State) (a n : Nat) : AgentFrame s (count s a n) := ⟨rfl, rfl, rfl, rfl, rfl, rfl⟩

theorem agentFrame_countTx (s : State) (stop : Nat) : AgentFrame s (countTx s stop) := agentFrame_count ..

theorem agentFrame_detectUe (s : State) (sub stop addr : Nat) : AgentFrame s (detectUe s sub stop addr) :=
  ⟨rfl, rfl, rfl, rfl, rfl, rfl⟩

theorem agentFrame_memory (s : State) (m : List Host.Cell) (k : FMap Mark) : AgentFrame s { s with mem := m, marks := k } :=
  ⟨rfl, rfl, rfl, rfl, rfl, rfl⟩

/-! ### Words that are read and checked -/

theorem agentFrame_wakeDom (s : State) (d : Dom) : AgentFrame s (wakeDom s d) := by constructor <;> simp

theorem agentFrame_checkVaultWord (s : State) (v off src : Nat) : AgentFrame s (checkVaultWord s v off src).2 := by
  unfold checkVaultWord
  split
  · exact .refl s
  all_goals constructor <;> simp

theorem agentFrame_checkVault (s : State) (v off n src : Nat) : AgentFrame s (checkVault s v off n src).2 := by
  have hword := agentFrame_checkVaultWord
  exact ⟨checkVault_keep (·.boot) (fun s v w src => (hword s v w src).boot) s v off n src,
    checkVault_keep (·.job) (fun s v w src => (hword s v w src).job) s v off n src,
    checkVault_keep (·.cores) (fun s v w src => (hword s v w src).cores) s v off n src,
    checkVault_keep (·.pages) (fun s v w src => (hword s v w src).pages) s v off n src,
    checkVault_keep (·.guard) (fun s v w src => (hword s v w src).guard) s v off n src,
    checkVault_keep (·.wq) (fun s v w src => (hword s v w src).wq) s v off n src⟩

theorem agentFrame_checkSram (s : State) (c off n src : Nat) : AgentFrame s (checkSram s c off n src).2 := by
  unfold checkSram
  generalize wordsOf 16 off n = l
  suffices ∀ p : Option Nat × State, AgentFrame p.2 (l.foldl (fun p w =>
      let r := checkSramWord p.2 c w src
      (if r.1 && p.1.isNone then some w else p.1, r.2)) p).2 from this (none, s)
  induction l with
  | nil => exact fun p => .refl p.2
  | cons w l ih =>
    intro p
    have hword : AgentFrame p.2 (checkSramWord p.2 c w src).2 := by constructor <;> simp
    exact hword.trans (ih (_, _))

theorem agentFrame_countXfer (s : State) (stop : Option Nat) (a : Nat) : AgentFrame s (countXfer s stop a) := by
  unfold countXfer
  split
  · exact (agentFrame_countTx ..).trans (agentFrame_countTx ..)
  · exact (agentFrame_countTx ..).trans (agentFrame_countTx ..)
  · exact (agentFrame_countTx ..).trans (agentFrame_countTx ..)
  · exact .refl s

theorem agentFrame_closeMerges (s : State) (v off n : Nat) : AgentFrame s (closeMerges s v off n) := by
  unfold closeMerges
  split
  · exact .refl s
  · constructor <;> simp

/-! ### Reads -/

section
variable {s : State}

theorem readVaultAs_agent (v off n src : Nat) : Ends (fun r => AgentFrame s r.2.2) (readVaultAs s v off n src) := by
  have hcheck := (agentFrame_wakeDom s ⟨.vault, v⟩).trans (agentFrame_checkVault _ v off n src)
  have hread := fun k => (hcheck.trans (agentFrame_count _ (vltCtr v 0) k)).trans (agentFrame_bump _)
  unfold readVaultAs
  split
  · exact .error _
  · split
    · exact .error _
    · dsimp only
      split
      · exact .ok (hread _)
      · exact .ok ((hread _).trans (agentFrame_detectUe ..))

theorem vaultFree_same (v off n : Nat) (write : Bool) : Ends (· = s) (vaultFree s v off n write) := by
  unfold vaultFree
  dsimp only
  split
  · exact .error _
  · exact .ok rfl

theorem vaultFree_agent (v off n : Nat) (write : Bool) : Ends (AgentFrame s) (vaultFree s v off n write) :=
  fun t ht => vaultFree_same v off n write t ht ▸ .refl s

theorem agentFrame_readSram (c off n src : Nat) : AgentFrame s (readSram s c off n src).2.2 := by
  have hcheck := agentFrame_checkSram s c off n src
  unfold readSram
  dsimp only
  split
  · exact hcheck.trans (agentFrame_bump _)
  · exact (hcheck.trans (agentFrame_bump _)).trans (agentFrame_detectUe ..)

theorem agentFrame_readHost (bus n : Nat) : AgentFrame s (readHost s bus n).2.2 := by
  unfold readHost
  split
  · exact agentFrame_bump s
  · exact agentFrame_count ..

theorem readBlock_agent (stop : Option Nat) (a n : Nat) : Ends (fun r => AgentFrame s r.2.2) (readBlock s stop a n) := by
  have hcount := agentFrame_countXfer s stop a
  unfold readBlock
  dsimp only
  split
  · exact (vaultFree_agent _ _ _ _).bind fun t ht r hr => (hcount.trans ht).trans (readVaultAs_agent _ _ _ _ r hr)
  · exact .ok ((hcount.trans (agentFrame_wakeDom ..)).trans (agentFrame_readSram ..))
  · exact .ok (hcount.trans (agentFrame_readHost ..))
  · exact .error _
  · exact .ok (hcount.trans (agentFrame_bump _))
  · exact .error _

theorem readParts_agent (stop : Option Nat) (l : List (Nat × Nat)) :
    Ends (fun r => AgentFrame s r.2.2) (readParts s stop l) := by
  induction l generalizing s with
  | nil => exact .ok (.refl s)
  | cons p l ih => exact (readBlock_agent _ _ _).bind fun _ h1 => ih.bind fun _ h2 => .pure (h1.trans h2)

theorem stopRead_agent (stop : Option Nat) (a n : Nat) : Ends (fun r => AgentFrame s r.2.2) (stopRead s stop a n) :=
  readParts_agent _ _

theorem kernRead_agent (a n : Nat) : Ends (fun r => AgentFrame s r.2.2) (kernRead s a n) := readParts_agent _ _

/-! ### Writes -/

theorem writeVault_agent (v off : Nat) (bs : List Byte) : Ends (AgentFrame s) (writeVault s v off bs) := by
  unfold writeVault
  split
  · exact .error _
  · split
    · exact .error _
    · exact .error _
    · refine .ok (AgentFrame.trans (t := writeMem (wakeDom s ⟨.vault, v⟩) 32 (vaultKey v off) bs) ?_
        ((agentFrame_closeMerges ..).trans (agentFrame_count ..)))
      constructor <;> simp

theorem remoteStore_agent (c off : Nat) (bs : List Byte) : Ends (AgentFrame s) (remoteStore s c off bs) := by
  unfold remoteStore
  split
  · exact .error _
  · exact .ok (by constructor <;> simp)

theorem writeHost_agent (bus : Nat) (bs : List Byte) : Ends (AgentFrame s) (writeHost s bus bs) := by
  unfold writeHost
  split
  · exact .error _
  · exact .ok (by constructor <;> simp)

theorem writeBlock_agent (stop : Option Nat) (a : Nat) (bs : List Byte) : Ends (AgentFrame s) (writeBlock s stop a bs) := by
  have hcount := agentFrame_countXfer s stop a
  unfold writeBlock
  dsimp only
  split
  · exact (vaultFree_agent _ _ _ _).bind fun t ht u hu => (hcount.trans ht).trans (writeVault_agent _ _ _ u hu)
  · exact fun u hu => hcount.trans (remoteStore_agent _ _ _ u hu)
  · exact fun u hu => hcount.trans (writeHost_agent _ _ u hu)
  · exact .error _
  · exact .ok (hcount.trans (by constructor <;> simp))
  · exact .error _

theorem writeParts_agent (stop : Option Nat) (bs : List Byte) (l : List (Nat × Nat)) :
    Ends (AgentFrame s) (writeParts s stop bs l) := by
  induction l generalizing s bs with
  | nil => exact .ok (.refl s)
  | cons p l ih => exact (writeBlock_agent _ _ _).bind fun _ h1 u hu => h1.trans (ih _ u hu)

theorem stopWrite_agent (stop : Option Nat) (a : Nat) (bs : List Byte) : Ends (AgentFrame s) (stopWrite s stop a bs) :=
  writeParts_agent _ _ _

theorem kernWrite_agent (a : Nat) (bs : List Byte) : Ends (AgentFrame s) (kernWrite s a bs) := writeParts_agent _ _ _

/-! ### Entries of page tables, and pages -/

theorem getEntry_agent (stop : Option Nat) (a : Nat) : Ends (fun r => AgentFrame s r.2) (getEntry stop s a) := by
  unfold getEntry
  split
  · exact (stopRead_agent _ _ _).bind fun _ h => .pure h
  · exact .error _
  · exact .error _

theorem mergeVault_agent (v off : Nat) (bs : List Byte) : Ends (AgentFrame s) (mergeVault s v off bs) := by
  unfold mergeVault
  split
  · exact .error _
  · refine (vaultFree_agent _ _ _ _).bind fun t ht => (readVaultAs_agent _ _ _ _).bind fun r hr => .ok ?_
    refine (ht.trans hr).trans (AgentFrame.trans ?_ ((agentFrame_closeMerges ..).trans (agentFrame_count ..)))
    exact agentFrame_memory ..

theorem putEntry_agent (stop : Option Nat) (a p : Nat) : Ends (AgentFrame s) (putEntry stop s a p) := by
  unfold putEntry
  split
  · exact fun t ht => (agentFrame_countXfer ..).trans (mergeVault_agent _ _ _ t ht)
  · exact .error _
  · exact .error _

theorem agentFrame_hideUnfenced (vs os vd od n : Nat) : AgentFrame s (hideUnfenced s vs os vd od n) := by
  unfold hideUnfenced
  split
  · exact agentFrame_memory ..
  · exact .refl s

theorem cloneUnit_agent (v os od : Nat) : Ends (AgentFrame s) (cloneUnit s v os od) := by
  unfold cloneUnit
  refine (vaultFree_agent _ _ _ _).bind fun t ht => (vaultFree_agent _ _ _ _).bind fun u hu => .ok ?_
  have hclone : AgentFrame u (cloneRow u (vaultKey v os) (vaultKey v od)) := agentFrame_memory ..
  exact (((ht.trans hu).trans hclone).trans (agentFrame_hideUnfenced ..)).trans
    ((agentFrame_closeMerges ..).trans (agentFrame_count ..))

theorem dmaUnit_agent (stop : Option Nat) (vs os vd od : Nat) : Ends (AgentFrame s) (dmaUnit stop s vs os vd od) := by
  refine Ends.foldlM (fun t i ht => ?_) _ (.refl s)
  refine (vaultFree_agent _ _ _ _).bind fun u hu => (readVaultAs_agent _ _ _ _).bind fun r hr =>
    (vaultFree_agent _ _ _ _).bind fun w hw => ?_
  have hread := ((ht.trans (agentFrame_countXfer ..)).trans hu).trans (hr.trans ((agentFrame_countXfer ..).trans hw))
  dsimp only
  split
  · exact .error _
  · refine .ok (hread.trans (AgentFrame.trans ?_ ((agentFrame_hideUnfenced ..).trans
      ((agentFrame_closeMerges ..).trans (agentFrame_count ..)))))
    split
    · exact (agentFrame_memory ..).trans (agentFrame_memory ..)
    · exact agentFrame_memory ..

theorem copyPage_agent (stop : Option Nat) (p q : Nat) : Ends (AgentFrame s) (copyPage stop s p q) := by
  unfold copyPage
  dsimp only
  split
  · exact .error _
  · refine Ends.foldlM (fun t u ht => ?_) _ (.refl s)
    split
    · exact fun w hw => ht.trans (cloneUnit_agent _ _ _ w hw)
    · exact fun w hw => ht.trans (dmaUnit_agent _ _ _ _ _ w hw)

end

end Sys2Proof.Machine

namespace Sys2Proof.Machine

/-! ## Page pools and PAGE_OP (O27): R156 to R165 -/

/-! ### Reference counts (R161) -/

theorem unitAt_setUnit_same (s : State) (h : Nat) (x : PageUnit) : unitAt (setUnit s h x) h = x := FMap.getD_set_same ..

theorem unitAt_setUnit_ne (s : State) {h k : Nat} (x : PageUnit) (hk : k ≠ h) : unitAt (setUnit s h x) k = unitAt s k :=
  FMap.getD_set_ne _ _ _ hk

theorem refCount_setRefCount_same (s : State) (p n : Nat) : refCount (setRefCount s p n) p = n := by
  unfold refCount setRefCount
  rw [unitAt_setUnit_same]
  dsimp only
  split
  · rename_i h; rw [FMap.getD, FMap.find_drop_same, h]; rfl
  · exact FMap.getD_set_same ..

theorem refCount_setRefCount_ne (s : State) {p x : Nat} (n : Nat) (h : x ≠ p) :
    refCount (setRefCount s p n) x = refCount s x := by
  unfold refCount setRefCount
  by_cases hsheaf : pageSheaf x = pageSheaf p
  · have hkey : pageKey x ≠ pageKey p := by unfold pageKey; unfold pageSheaf at hsheaf; omega
    rw [hsheaf, unitAt_setUnit_same]
    dsimp only
    split
    · unfold FMap.getD; rw [FMap.find_drop_ne _ hkey]
    · exact FMap.getD_set_ne _ _ _ hkey
  · rw [unitAt_setUnit_ne _ _ hsheaf]

theorem refCount_of_pages {s t : State} (h : t.pages = s.pages) (x : Nat) : refCount t x = refCount s x := by
  unfold refCount unitAt; rw [h]

theorem refCount_addRef_same (s : State) (p : Nat) : refCount (addRef s p) p = refCount s p + 1 := refCount_setRefCount_same ..

theorem refCount_addRef_ne (s : State) {p x : Nat} (h : x ≠ p) : refCount (addRef s p) x = refCount s x :=
  refCount_setRefCount_ne s _ h

theorem refCount_dropRef_same (s : State) (p : Nat) : refCount (dropRef s p) p = refCount s p - 1 := refCount_setRefCount_same ..

theorem refCount_dropRef_ne (s : State) {p x : Nat} (h : x ≠ p) : refCount (dropRef s p) x = refCount s x :=
  refCount_setRefCount_ne s _ h

theorem refCount_takePage_same (s : State) (p : Nat) : refCount (takePage s p) p = 1 := refCount_setRefCount_same ..

theorem refCount_takePage_ne (s : State) {p x : Nat} (h : x ≠ p) : refCount (takePage s p) x = refCount s x :=
  refCount_setRefCount_ne s 1 h

/-! ### A PAGE_OP at its turn (R159, R165, R166, R182) -/

theorem pageUnitDown_of_unitsTogether {s : State} {h : Nat} (hup : unitsTogether s = true) (hh : h < 8) :
    pageUnitDown s h = false := by
  simp only [unitsTogether, Bool.and_eq_true, List.all_eq_true, Bool.not_eq_true'] at hup
  exact hup.1 h (List.mem_range.2 hh)

theorem pageOpOk_sheaf {p : PageOpP} (h : pageOpOk p = true) : p.sheaf < 8 := by
  simp only [pageOpOk, Bool.and_eq_true, decide_eq_true_eq] at h
  exact h.1.1.1.1.1

section PageOp
variable {s : State} {q idx : Nat} {i : Item} {p : PageOpP}

theorem pageOpAt_of_itemAt (hitem : itemAt s q idx = some i) (hcmd : i.cmd = .pageOp p) : pageOpAt s q idx = some p := by
  unfold pageOpAt; rw [cmdAt_of_itemAt hitem, hcmd]

section Turn
variable (hb : Begins s q idx i) (hcmd : i.cmd = .pageOp p) (hturn : unitTurn s q idx = true)
include hb hcmd hturn

theorem pageOp_turn {P : Nat → Bool} (hP : P p.sub = true) (e : Except Halt State) :
    actE s (begins s q idx (isPageOp P) && unitTurn s q idx) e = toOut s e := by
  have hp : isPageOp P i.cmd = true := by rw [hcmd]; exact hP
  exact actE_pos hb.1 (by rw [begins_of_Begins hb hp, hturn]; rfl)

theorem exec_pageOpAlloc (hsub : p.sub = 0) : exec (.pageOpAlloc q idx) s
    = toOut s (runPageOp s q idx fun s p => if p.sub = 0 then pageAlloc s p else .error (.undefinedCase 48)) :=
  pageOp_turn hb hcmd hturn (by rw [hsub]; rfl) _

theorem exec_pageOpShare (hsub : p.sub = 1) : exec (.pageOpShare q idx) s = toOut s (runPageOp s q idx pageShare) :=
  pageOp_turn hb hcmd hturn (by rw [hsub]; rfl) _

theorem exec_pageOpCow (hsub : p.sub = 2) : exec (.pageOpCow q idx) s = toOut s (runPageOp s q idx pageCow) :=
  pageOp_turn hb hcmd hturn (by rw [hsub]; rfl) _

theorem exec_pageOpFree (hsub : p.sub = 3) : exec (.pageOpFree q idx) s = toOut s (runPageOp s q idx pageFree) :=
  pageOp_turn hb hcmd hturn (by rw [hsub]; rfl) _

end Turn

variable (hitem : itemAt s q idx = some i) (hcmd : i.cmd = .pageOp p)
include hitem hcmd

theorem runPageOp_bad (f : State → PageOpP → Except Halt Done) (hok : pageOpOk p = false) :
    runPageOp s q idx f = .error (.undefinedCase 48) := by
  unfold runPageOp
  rw [pageOpAt_of_itemAt hitem hcmd]
  simp [hok]

theorem runPageOp_down (f : State → PageOpP → Except Halt Done) (hok : pageOpOk p = true) (hdown : pageUnitDown s p.sheaf = true) :
    runPageOp s q idx f = .ok (endItem s q idx stBadState) := by
  unfold runPageOp
  rw [pageOpAt_of_itemAt hitem hcmd]
  simp [hok, hdown]

/-- Where nothing stands in its way, a PAGE_OP ends with the status of its sub-operation. -/
theorem runPageOp_completed {f : State → PageOpP → Except Halt Done} {st : Nat} {u : State} (hok : pageOpOk p = true)
    (hup : unitsTogether s = true) (hcross : unitsCross s q idx (.pageOp p) = false) (hstep : namesStep s (.pageOp p) = false)
    (hf : f s p = .ok (st, u)) : runPageOp s q idx f = .ok (endItem u q idx st) := by
  unfold runPageOp
  rw [pageOpAt_of_itemAt hitem hcmd]
  simp only [hok, pageUnitDown_of_unitsTogether hup (pageOpOk_sheaf hok), hup, hcross, hstep, hf]
  rfl

end PageOp

theorem onlyEnded_endItem {s u : State} {q idx : Nat} {i : Item} (status : Nat) (h : itemAt s q idx = some i)
    (hu : itemAt u q idx = itemAt s q idx) : OnlyEnded u (endItem u q idx status) q idx status :=
  ⟨rfl, ended_endItem status (hu.trans h)⟩

/-! ### The sub-operations on a table of one entry (Table 5.11) -/

theorem getEntries_one {stop : Option Nat} {s s1 : State} {a x : Nat} (h : getEntry stop s a = .ok (x, s1)) :
    getEntries stop 1 s a = .ok ([x], s1) := by
  unfold getEntries
  rw [h]
  rfl

theorem foldlM_range_one (f : State → Nat → Except Halt State) (s : State) : (List.range 1).foldlM f s = f s 0 := by
  rw [List.range_one, List.foldlM_cons]
  exact bind_pure _

theorem pagesOf_one {x : Nat} (h : x ≠ noPage) : pagesOf [x] = [x] := by simp [pagesOf, h]

section Entry
variable {s s1 : State} {p : PageOpP} {x : Nat} (hone : p.count = 1)
include hone

theorem pageAlloc_busy (hget : getEntry (some (pageStop p.sheaf)) s p.table = .ok (noPage, s1)) (hfree : freePages s1 p.sheaf = 0) :
    pageAlloc s p = .ok (stBusy, s1) := by
  unfold pageAlloc
  rw [hone, getEntries_one hget]
  simp [bind, Except.bind, pagesOf, hfree, pure, Except.pure]

theorem pageAlloc_taken {w : Nat} {u : State} (hget : getEntry (some (pageStop p.sheaf)) s p.table = .ok (noPage, s1))
    (hfree : 0 < freePages s1 p.sheaf) (hpick : pickAlloc s1 p.sheaf p.vhint = some w)
    (hput : putEntry (some (pageStop p.sheaf)) (undefPage (takePage s1 w) w) p.table w = .ok u) :
    pageAlloc s p = .ok (stOk, u) := by
  unfold pageAlloc
  rw [hone, getEntries_one hget]
  simp only [bind, Except.bind, foldlM_range_one, hpick, Nat.mul_zero, Nat.add_zero, hput]
  simp [pagesOf, Nat.not_lt.2 (Nat.succ_le_of_lt hfree), pure, Except.pure]

theorem pageShare_copied {u : State} (hget : getEntry (some (pageStop p.sheaf)) s p.src = .ok (x, s1)) (hx : x ≠ noPage)
    (hpages : pagesOk s1 p.sheaf [x] = .ok ()) (hroom : refCount s1 x < 65535)
    (hput : putEntry (some (pageStop p.sheaf)) (addRef s1 x) p.table x = .ok u) : pageShare s p = .ok (stOk, u) := by
  have hfits : ((pagesOf [x]).any fun y => decide (65535 < refCount s1 y + tally [x] y)) = false := by
    simp [pagesOf_one hx, tally]; omega
  unfold pageShare
  rw [hone, getEntries_one hget]
  simp only [bind, Except.bind, hpages, hfits, foldlM_range_one, List.getElem?_cons_zero, Option.getD_some, hx, if_false,
    Nat.mul_zero, Nat.add_zero, hput]
  rfl

theorem pageCow_alone {s2 : State} (hget : getEntry (some (pageStop p.sheaf)) s p.table = .ok (x, s1)) (hx : x ≠ noPage)
    (hpages : pagesOk s1 p.sheaf [x] = .ok ()) (hagain : getEntry (some (pageStop p.sheaf)) s1 p.table = .ok (x, s2))
    (hcount : refCount s1 x ≤ 1) (hcount2 : refCount s2 x ≤ 1) : pageCow s p = .ok (stOk, s2) := by
  have hneed : ((pagesOf [x]).filter fun y => decide (1 < refCount s1 y)) = [] := by simp [pagesOf_one hx]; omega
  unfold pageCow
  rw [hone, getEntries_one hget]
  simp only [bind, Except.bind, hpages, hneed, foldlM_range_one, cowEntry, Nat.mul_zero, Nat.add_zero, hagain, hcount2, or_true,
    if_true]
  rfl

theorem pageCow_copied {w : Nat} {s2 s3 u : State} (hget : getEntry (some (pageStop p.sheaf)) s p.table = .ok (x, s1))
    (hx : x ≠ noPage) (hpages : pagesOk s1 p.sheaf [x] = .ok ())
    (hagain : getEntry (some (pageStop p.sheaf)) s1 p.table = .ok (x, s2)) (hcount : 1 < refCount s1 x)
    (hcount2 : 1 < refCount s2 x) (hfree : 0 < freePages s1 p.sheaf) (hpick : pickCow s2 x = some w)
    (hcopy : copyPage (some (pageStop p.sheaf)) (takePage s2 w) x w = .ok s3)
    (hput : putEntry (some (pageStop p.sheaf)) (dropRef s3 x) p.table w = .ok u) : pageCow s p = .ok (stOk, u) := by
  have hneed : ((pagesOf [x]).filter fun y => decide (1 < refCount s1 y)) = [x] := by simp [pagesOf_one hx, hcount]
  have hmany : ¬(x = noPage ∨ refCount s2 x ≤ 1) := fun h => h.elim hx (Nat.not_le.2 hcount2)
  unfold pageCow
  rw [hone, getEntries_one hget]
  simp only [bind, Except.bind, hpages, hneed, List.length_singleton, Nat.not_lt.2 (Nat.succ_le_of_lt hfree), if_false,
    foldlM_range_one, cowEntry, Nat.mul_zero, Nat.add_zero, hagain, hmany, hpick, hcopy, hput]
  rfl

theorem pageFree_dropped {u : State} (hget : getEntry (some (pageStop p.sheaf)) s p.table = .ok (x, s1)) (hx : x ≠ noPage)
    (hpages : pagesOk s1 p.sheaf [x] = .ok ())
    (hput : putEntry (some (pageStop p.sheaf)) (dropRef s1 x) p.table noPage = .ok u) : pageFree s p = .ok (stOk, u) := by
  unfold pageFree
  rw [hone, getEntries_one hget]
  simp only [bind, Except.bind, hpages, foldlM_range_one, List.getElem?_cons_zero, Option.getD_some, hx, if_false,
    Nat.mul_zero, Nat.add_zero, hput]
  rfl

end Entry

/-- A PAGE_OP at its turn that nothing stands in the way of: the units stand together, and no other command or open step names
its entries. -/
structure PageOpRuns (s : State) (q idx : Nat) (i : Item) (p : PageOpP) : Prop where
  begun : Begins s q idx i
  cmd : i.cmd = .pageOp p
  turn : unitTurn s q idx = true
  ok : pageOpOk p = true
  up : unitsTogether s = true
  cross : unitsCross s q idx (.pageOp p) = false
  step : namesStep s (.pageOp p) = false

namespace PageOpRuns
variable {s u : State} {q idx : Nat} {i : Item} {p : PageOpP}

theorem item (h : PageOpRuns s q idx i p) : itemAt s q idx = some i := h.begun.2.2.1

/-- A sub-operation's effect is all that its command does, but for the end of the command. -/
theorem completes {c : Instr} {f : State → PageOpP → Except Halt Done} {st : Nat} {Q : State → Prop} (h : PageOpRuns s q idx i p)
    (hexec : exec c s = toOut s (runPageOp s q idx f)) (hf : f s p = .ok (st, u)) (hwq : u.wq = s.wq)
    (hQ : Q (endItem u q idx st)) : Completes c s fun t => OnlyEnded u t q idx st ∧ Q t := by
  refine ⟨_, hexec.trans ?_, onlyEnded_endItem st h.item (itemAt_congr (by rw [hwq]) q idx), hQ⟩
  rw [runPageOp_completed h.item h.cmd h.ok h.up h.cross h.step hf]
  rfl

section Alloc
variable (h : PageOpRuns s q idx i p) (hone : p.count = 1) {s1 : State} (hsub : p.sub = 0)
  (hget : getEntry (some (pageStop p.sheaf)) s p.table = .ok (noPage, s1))
include h hone hsub hget

theorem alloc_busy (hfree : freePages s1 p.sheaf = 0) :
    Completes (.pageOpAlloc q idx) s fun t => OnlyEnded s1 t q idx stBusy := by
  have hframe : AgentFrame s s1 := getEntry_agent _ _ _ hget
  obtain ⟨t, hexec, hend, -⟩ := h.completes (Q := fun _ => True) (exec_pageOpAlloc h.begun h.cmd h.turn hsub)
    (by rw [if_pos hsub]; exact pageAlloc_busy hone hget hfree) hframe.wq trivial
  exact ⟨t, hexec, hend⟩

theorem alloc_taken {w : Nat} (hfree : 0 < freePages s1 p.sheaf) (hpick : pickAlloc s1 p.sheaf p.vhint = some w)
    (hput : putEntry (some (pageStop p.sheaf)) (undefPage (takePage s1 w) w) p.table w = .ok u) :
    Completes (.pageOpAlloc q idx) s fun t =>
      OnlyEnded u t q idx stOk ∧ refCount t w = 1 ∧ ∀ x, x ≠ w → x < 2 ^ 32 → refCount t x = refCount s x := by
  have hframe : AgentFrame s s1 := getEntry_agent _ _ _ hget
  have hput' : AgentFrame _ u := putEntry_agent _ _ _ _ hput
  have hcount : ∀ x, refCount (endItem u q idx stOk) x = refCount (takePage s1 w) x := hput'.refCount
  refine h.completes (exec_pageOpAlloc h.begun h.cmd h.turn hsub)
    (by rw [if_pos hsub]; exact pageAlloc_taken hone hget hfree hpick hput) (hput'.wq.trans hframe.wq) ⟨?_, fun x hx _ => ?_⟩
  · rw [hcount, refCount_takePage_same]
  · rw [hcount, refCount_takePage_ne _ hx, hframe.refCount]

end Alloc

theorem share_copied (h : PageOpRuns s q idx i p) (hone : p.count = 1) {s1 : State} {x : Nat} (hsub : p.sub = 1)
    (hget : getEntry (some (pageStop p.sheaf)) s p.src = .ok (x, s1)) (hx : x ≠ noPage)
    (hpages : pagesOk s1 p.sheaf [x] = .ok ()) (hroom : refCount s1 x < 65535)
    (hput : putEntry (some (pageStop p.sheaf)) (addRef s1 x) p.table x = .ok u) :
    Completes (.pageOpShare q idx) s fun t =>
      OnlyEnded u t q idx stOk ∧ refCount t x = refCount s x + 1 ∧ ∀ y, y ≠ x → y < 2 ^ 32 → refCount t y = refCount s y := by
  have hframe : AgentFrame s s1 := getEntry_agent _ _ _ hget
  have hput' : AgentFrame _ u := putEntry_agent _ _ _ _ hput
  have hcount : ∀ y, refCount (endItem u q idx stOk) y = refCount (addRef s1 x) y := hput'.refCount
  refine h.completes (exec_pageOpShare h.begun h.cmd h.turn hsub) (pageShare_copied hone hget hx hpages hroom hput)
    (hput'.wq.trans hframe.wq) ⟨?_, fun y hy _ => ?_⟩
  · rw [hcount, refCount_addRef_same, hframe.refCount]
  · rw [hcount, refCount_addRef_ne _ hy, hframe.refCount]

section Cow
variable (h : PageOpRuns s q idx i p) (hone : p.count = 1) {s1 s2 : State} {x : Nat} (hsub : p.sub = 2)
  (hget : getEntry (some (pageStop p.sheaf)) s p.table = .ok (x, s1)) (hx : x ≠ noPage)
  (hpages : pagesOk s1 p.sheaf [x] = .ok ()) (hagain : getEntry (some (pageStop p.sheaf)) s1 p.table = .ok (x, s2))
include h hone hsub hget hx hpages hagain

theorem cow_alone (hcount : refCount s x ≤ 1) :
    Completes (.pageOpCow q idx) s fun t => OnlyEnded s2 t q idx stOk ∧ t.pages = s.pages ∧ t.mem = s2.mem := by
  have hframe : AgentFrame s s1 := getEntry_agent _ _ _ hget
  have hframe2 : AgentFrame s s2 := hframe.trans (getEntry_agent _ _ _ hagain)
  exact h.completes (exec_pageOpCow h.begun h.cmd h.turn hsub)
    (pageCow_alone hone hget hx hpages hagain (by rwa [hframe.refCount]) (by rwa [hframe2.refCount])) hframe2.wq
    ⟨hframe2.pages, rfl⟩

theorem cow_copied {w : Nat} {s3 : State} (hcount : 1 < refCount s x) (hfree : 0 < freePages s1 p.sheaf)
    (hpick : pickCow s2 x = some w) (hw : w ≠ x) (hcopy : copyPage (some (pageStop p.sheaf)) (takePage s2 w) x w = .ok s3)
    (hput : putEntry (some (pageStop p.sheaf)) (dropRef s3 x) p.table w = .ok u) :
    Completes (.pageOpCow q idx) s fun t => OnlyEnded u t q idx stOk ∧ refCount t w = 1 ∧ refCount t x = refCount s x - 1 := by
  have hframe : AgentFrame s s1 := getEntry_agent _ _ _ hget
  have hframe2 : AgentFrame s s2 := hframe.trans (getEntry_agent _ _ _ hagain)
  have hcopy' : AgentFrame _ s3 := copyPage_agent _ _ _ _ hcopy
  have hput' : AgentFrame _ u := putEntry_agent _ _ _ _ hput
  have hcount' : ∀ y, refCount (endItem u q idx stOk) y = refCount (dropRef s3 x) y := hput'.refCount
  refine h.completes (exec_pageOpCow h.begun h.cmd h.turn hsub)
    (pageCow_copied hone hget hx hpages hagain (by rwa [hframe.refCount]) (by rwa [hframe2.refCount]) hfree hpick hcopy hput)
    (hput'.wq.trans (hcopy'.wq.trans hframe2.wq)) ⟨?_, ?_⟩
  · rw [hcount', refCount_dropRef_ne _ hw, hcopy'.refCount, refCount_takePage_same]
  · rw [hcount', refCount_dropRef_same, hcopy'.refCount, refCount_takePage_ne _ hw.symm, hframe2.refCount]

end Cow

theorem free_dropped (h : PageOpRuns s q idx i p) (hone : p.count = 1) {s1 : State} {x : Nat} (hsub : p.sub = 3)
    (hget : getEntry (some (pageStop p.sheaf)) s p.table = .ok (x, s1)) (hx : x ≠ noPage)
    (hpages : pagesOk s1 p.sheaf [x] = .ok ())
    (hput : putEntry (some (pageStop p.sheaf)) (dropRef s1 x) p.table noPage = .ok u) :
    Completes (.pageOpFree q idx) s fun t =>
      OnlyEnded u t q idx stOk ∧ refCount t x = refCount s x - 1 ∧ ∀ y, y ≠ x → y < 2 ^ 32 → refCount t y = refCount s y := by
  have hframe : AgentFrame s s1 := getEntry_agent _ _ _ hget
  have hput' : AgentFrame _ u := putEntry_agent _ _ _ _ hput
  have hcount : ∀ y, refCount (endItem u q idx stOk) y = refCount (dropRef s1 x) y := hput'.refCount
  refine h.completes (exec_pageOpFree h.begun h.cmd h.turn hsub) (pageFree_dropped hone hget hx hpages hput)
    (hput'.wq.trans hframe.wq) ⟨?_, fun y hy _ => ?_⟩
  · rw [hcount, refCount_dropRef_same, hframe.refCount]
  · rw [hcount, refCount_dropRef_ne _ hy, hframe.refCount]

end PageOpRuns

/-! ### The page that ALLOC picks (R162) -/

theorem le_skipUsed (us : List Nat) (k : Nat) : k ≤ skipUsed us k := by
  induction us generalizing k with
  | nil => exact le_rfl
  | cons u us ih =>
    rw [skipUsed]
    split
    · exact (Nat.le_succ k).trans (ih (k + 1))
    · exact le_rfl

theorem skipUsed_le (us : List Nat) (k : Nat) : skipUsed us k ≤ k + us.length := by
  induction us generalizing k with
  | nil => exact le_rfl
  | cons u us ih =>
    rw [skipUsed, List.length_cons]
    split
    · exact (ih (k + 1)).trans (by omega)
    · omega

/-- Skipping the numbers of an ascending list ends on one that it does not hold. -/
theorem skipUsed_notMem {us : List Nat} (hus : us.Pairwise (· < ·)) (k : Nat) : skipUsed us k ∉ us := by
  induction us generalizing k with
  | nil => exact List.not_mem_nil
  | cons u us ih =>
    obtain ⟨habove, hus⟩ := List.pairwise_cons.1 hus
    rw [skipUsed]
    split
    · have hle := le_skipUsed us (k + 1)
      exact List.not_mem_cons_of_ne_of_not_mem (by omega) (ih hus (k + 1))
    · exact fun hk => (List.mem_cons.1 hk).elim (by omega) fun hk => by have := habove k hk; omega

theorem FMap.keys_pairwise {α : Type} {m : FMap α} (h : FMap.wf m = true) : (m.map (·.1)).Pairwise (· < ·) := by
  induction m with
  | nil => exact .nil
  | cons e m ih =>
    obtain ⟨habove, hwf⟩ := (FMap.wf_cons e.1 e.2 m).1 h
    rw [List.map_cons, List.pairwise_cons]
    exact ⟨fun k hk => by obtain ⟨e', he', rfl⟩ := List.mem_map.1 hk; exact habove e' he', ih hwf⟩

theorem FMap.find_of_notMem {α : Type} {m : FMap α} {k : Nat} (h : k ∉ m.map (·.1)) : FMap.find m k = none := by
  induction m with
  | nil => rfl
  | cons e m ih =>
    rw [List.map_cons, List.mem_cons, not_or] at h
    rw [FMap.find, if_neg h.1, ih h.2]

theorem usedPages_pairwise {s : State} {v : Nat} (h : FMap.wf (unitAt s (v / 128)).refs = true) :
    (usedPages s v).Pairwise (· < ·) := by
  refine List.Pairwise.filterMap _ (fun a b hab x hx y hy => ?_) (FMap.keys_pairwise h)
  simp only [Option.ite_none_right_eq_some, Option.some.injEq] at hx hy
  omega

/-- A free index of a vault is below COUNT, and no page with a reference has it. -/
theorem pickFree_spec {s : State} {v i : Nat} (hwf : FMap.wf (unitAt s (v / 128)).refs = true)
    (h : pickFree s v 0 1 = some i) : i < (unitAt s (v / 128)).count ∧ i ∉ usedPages s v := by
  have hused : (usedPages s v).filterMap (fun i => if i % 1 = 0 then some ((i - 0) / 1) else none) = usedPages s v := by
    simp [Nat.mod_one]
  unfold pickFree at h
  dsimp only at h
  rw [hused] at h
  simp only [Option.ite_none_right_eq_some, Option.some.injEq, Nat.zero_add, Nat.one_mul] at h
  obtain ⟨hroom, rfl⟩ := h
  refine ⟨?_, skipUsed_notMem (usedPages_pairwise hwf) _⟩
  have hle := skipUsed_le (usedPages s v)
  generalize hslots : (if 0 < (unitAt s (v / 128)).count then ((unitAt s (v / 128)).count - 0 + 1 - 1) / 1 else 0) = n at *
  have hn : n ≤ (unitAt s (v / 128)).count := by rw [← hslots]; split <;> simp
  have hmod := Nat.mod_lt (Config.choose s.free v) (show 0 < n - (usedPages s v).length by omega)
  exact lt_of_le_of_lt (hle _) (by omega)

theorem pickAlloc_spec {s : State} {h hint w : Nat} (hwf : ∀ k, FMap.wf (unitAt s k).refs = true)
    (hcount : (unitAt s h).count ≤ 2 ^ 22) (hpick : pickAlloc s h hint = some w) :
    pageSheaf w = h ∧ pageValid s w = true ∧ refCount s w = 0 ∧ processorMode s (pageVault w) = false := by
  obtain ⟨l, hl, hfree⟩ := List.exists_of_findSome?_eq_some hpick
  obtain ⟨i, hi, rfl⟩ := Option.map_eq_some_iff.1 hfree
  simp only [poolVaults, List.mem_filter, Bool.and_eq_true, Bool.not_eq_true'] at hl
  obtain ⟨hl, hservice, hmode⟩ := hl
  have hl : l < 128 := by obtain ⟨k, -, rfl⟩ := List.mem_map.1 hl; exact Nat.mod_lt _ (by decide)
  obtain ⟨hi, hunused⟩ := pickFree_spec (hwf _) hi
  have hunit : (h * 128 + l) / 128 = h := by omega
  rw [hunit] at hi
  have hvault : pageVault (pageId (h * 128 + l) i) = h * 128 + l := by unfold pageVault pageId; omega
  have hindex : pageIndex (pageId (h * 128 + l) i) = i := by unfold pageIndex pageId; omega
  have hsheaf : pageSheaf (pageId (h * 128 + l) i) = h := by unfold pageSheaf pageId; omega
  have hkey : pageKey (pageId (h * 128 + l) i) = l * 2 ^ 22 + i := by unfold pageKey pageId; omega
  refine ⟨hsheaf, ?_, ?_, by rw [hvault]; exact hmode⟩
  · unfold pageValid
    rw [hvault, hindex, hsheaf, hservice]
    simpa using hi
  · unfold refCount
    rw [hsheaf, hkey, FMap.getD, FMap.find_of_notMem, Option.getD_none]
    refine fun hmem => hunused (List.mem_filterMap.2 ⟨_, by rwa [hunit], ?_⟩)
    rw [if_pos (by omega), show (l * 2 ^ 22 + i) % 2 ^ 22 = i by omega]

/-! ### Initialisation (R158) -/

section Init
variable {s : State} {h : Nat}

theorem exec_pguCtrlInit (hp : powered s = true) (hdev : s.boot.dev ≠ .boot) (hh : h < 8) :
    exec (.pguCtrlInit h) s = toOut s (initUnit s h) :=
  actE_pos hp (by simp [hdev, hh])

/-- The initialisation of a unit: what its registers name is latched, and INIT_BUSY is set. -/
theorem startInit_spec (s : State) (h : Nat) :
    unitAt (startInit s h) h = { count := regFld s (pguReg h 0) 54 32, slot := regFld s (pguReg h 0) 26 18,
                                 base := regFld s (pguReg h 0) 17 0, refs := [] }
      ∧ bit (regGet (startInit s h) (pguReg h 0x10)) 0 = true ∧ RegsKept s (startInit s h) [pguReg h 0x10]
      ∧ (∀ k, k ≠ h → unitAt (startInit s h) k = unitAt s k)
      ∧ startInit s h = { s with
          pages := (startInit s h).pages, mem := (startInit s h).mem, marks := (startInit s h).marks, regs := (startInit s h).regs } := by
  refine ⟨FMap.getD_set_same .., bit_regFlag_same _ _ _ _ (by decide), fun a ha => ?_, fun k hk => FMap.getD_set_ne _ _ _ hk, rfl⟩
  exact (regGet_regFlag_ne _ 0 true (by simpa using ha)).trans (regGet_congr rfl a)

theorem pguCtrlInit_completes (hp : powered s = true) (hdev : s.boot.dev ≠ .boot) (hh : h < 8) (hbusy : pageUnitsBusy s = false)
    (hpool : poolOk s h = true) : exec (.pguCtrlInit h) s = .next (startInit s h) := by
  rw [exec_pguCtrlInit hp hdev hh, initUnit, orUndef_pos (by rw [hbusy]; rfl), orUndef_pos hpool]
  rfl

theorem pguCtrlInit_busy (hp : powered s = true) (hdev : s.boot.dev ≠ .boot) (hh : h < 8) (hbusy : pageUnitsBusy s = true) :
    Undefined (.pguCtrlInit h) s 1 := by
  unfold Undefined
  rw [exec_pguCtrlInit hp hdev hh, initUnit, orUndef_neg (by rw [hbusy]; rfl)]
  rfl

theorem pguCtrlInit_pool (hp : powered s = true) (hdev : s.boot.dev ≠ .boot) (hh : h < 8) (hbusy : pageUnitsBusy s = false)
    (hpool : poolOk s h = false) : Undefined (.pguCtrlInit h) s 24 := by
  unfold Undefined
  rw [exec_pguCtrlInit hp hdev hh, initUnit, orUndef_pos (by rw [hbusy]; rfl), orUndef_neg hpool]
  rfl

/-- The state in which a unit's initialisation has completed. -/
def initDone (s : State) (h : Nat) : State :=
  regSetFld { s with pages := { s.pages with lost := s.pages.lost.filter fun k => k != h } } (pguReg h 0x10) 2 0 0

theorem initDone_spec (s : State) (h : Nat) :
    pageUnitDown (initDone s h) h = false ∧ h ∉ (initDone s h).pages.lost ∧ (initDone s h).pages.units = s.pages.units
      ∧ RegsKept s (initDone s h) [pguReg h 0x10]
      ∧ initDone s h = { s with pages := (initDone s h).pages, regs := (initDone s h).regs } := by
  have hfield : bits (regGet (initDone s h) (pguReg h 0x10)) 2 0 = 0 :=
    regFld_regSetFld_same _ (pguReg h 0x10) 2 0 0 (by decide) (by decide)
  refine ⟨?_, ?_, rfl, fun a ha => ?_, rfl⟩
  · unfold bits at hfield
    simp only [pageUnitDown, bit, Bool.or_eq_false_iff, beq_eq_false_iff_ne]
    omega
  · change h ∉ s.pages.lost.filter fun k => k != h
    simp
  · exact (regGet_regSetFld_ne _ 2 0 0 (by simpa using ha)).trans (regGet_congr rfl a)

end Init

/-! ### The obligation -/

/-- Settles O27: a sub-operation on one entry is its read, its choice of a page and its write, with the counts by
`refCount_setRefCount_same` and `refCount_setRefCount_ne`. -/
theorem pageOperations : Obligations.PageOperations := by
  unfold Obligations.PageOperations
  refine ⟨fun q idx s i p hb hcmd hturn => ⟨fun hok hdown => ?_, fun hok => ?_⟩, ?_,
    fun s h hint w _ hwf hcount hpick => pickAlloc_spec hwf hcount hpick, fun h s hp hdev hh hbusy hpool => ?_,
    fun h s => pguCtrlInit_busy, fun h s => pguCtrlInit_pool, fun h s hp hbit => ?_, fun h s hbit => act_neg hbit⟩
  · have hend := onlyEnded_endItem stBadState hb.2.2.1 (rfl : itemAt s q idx = itemAt s q idx)
    have hrun := fun f => congrArg (toOut s) (runPageOp_down hb.2.2.1 hcmd f hok hdown)
    exact ⟨fun hsub => ⟨_, (exec_pageOpAlloc hb hcmd hturn hsub).trans (hrun _), hend⟩,
      fun hsub => ⟨_, (exec_pageOpShare hb hcmd hturn hsub).trans (hrun _), hend⟩,
      fun hsub => ⟨_, (exec_pageOpCow hb hcmd hturn hsub).trans (hrun _), hend⟩,
      fun hsub => ⟨_, (exec_pageOpFree hb hcmd hturn hsub).trans (hrun _), hend⟩⟩
  · have hrun := fun f => congrArg (toOut s) (runPageOp_bad hb.2.2.1 hcmd f hok)
    exact ⟨fun hsub => (exec_pageOpAlloc hb hcmd hturn hsub).trans (hrun _),
      fun hsub => (exec_pageOpShare hb hcmd hturn hsub).trans (hrun _),
      fun hsub => (exec_pageOpCow hb hcmd hturn hsub).trans (hrun _),
      fun hsub => (exec_pageOpFree hb hcmd hturn hsub).trans (hrun _)⟩
  · intro q idx s s1 i p hb hcmd hturn hok hup hcross hstep hone
    have h : PageOpRuns s q idx i p := ⟨hb, hcmd, hturn, hok, hup, hcross, hstep⟩
    exact ⟨fun hsub hget => ⟨h.alloc_busy hone hsub hget, fun w u => h.alloc_taken hone hsub hget⟩,
      fun x u hsub hget hx _ => h.share_copied hone hsub hget hx,
      fun x s2 hsub hget hx hpages hagain => ⟨h.cow_alone hone hsub hget hx hpages hagain,
        fun w s3 u hcount hfree hpick hw _ _ => h.cow_copied hone hsub hget hx hpages hagain hcount hfree hpick hw⟩,
      fun x u hsub hget hx _ => h.free_dropped hone hsub hget hx⟩
  · obtain ⟨hunit, hbit, hregs, hothers, heq⟩ := startInit_spec s h
    exact ⟨_, pguCtrlInit_completes hp hdev hh hbusy hpool, hunit, hbit, hregs, by unfold pageUnitDown; rw [hbit, Bool.or_true],
      hothers, heq⟩
  · exact ⟨_, act_pos hp hbit, initDone_spec s h⟩

end Sys2Proof.Machine

namespace Sys2Proof.Machine

/-! ## The tiller tree and WINNOW (O28): R168 to R173 -/

theorem ended_congr {s t : State} {q idx status : Nat} (h : t.wq = s.wq) (hs : Ended s q idx status) : Ended t q idx status := by
  obtain ⟨y, hy, hphase, hstatus⟩ := hs
  exact ⟨y, (itemAt_congr (by rw [h]) q idx).trans hy, hphase, hstatus⟩

/-! ### A command of the tiller tree at its turn (R159, R169, R170) -/

theorem tillerHashes_agent {s : State} (p : TillerP) : Ends (fun r => AgentFrame s r.2) (tillerHashes s p) := by
  unfold tillerHashes
  split
  · exact (stopRead_agent _ _ _).bind fun _ h => .pure h
  · exact (stopRead_agent _ _ _).bind fun _ h => .pure h

section Turn
variable {s : State} {q idx : Nat} {i : Item} {p : TillerP}
variable (hb : Begins s q idx i) (hcmd : i.cmd = .tiller p) (hturn : unitTurn s q idx = true)
include hb hcmd hturn

theorem tiller_turn {P : Nat → Bool} (hP : P p.sub = true) (e : Except Halt State) :
    actE s (begins s q idx (isTiller P) && unitTurn s q idx) e = toOut s e := by
  have hp : isTiller P i.cmd = true := by rw [hcmd]; exact hP
  exact actE_pos hb.1 (by rw [begins_of_Begins hb hp, hturn]; rfl)

theorem exec_tillerLookup (hsub : p.sub = 0) : exec (.tillerLookup q idx) s = toOut s (runTiller s q idx lookupBlock) := by
  refine (tiller_turn hb hcmd hturn (by rw [hsub]; rfl) _).trans ?_
  rw [orUndef_pos]
  rw [cmdAt_of_itemAt hb.2.2.1, hcmd]
  simpa using hsub

theorem exec_tillerInsert (hsub : p.sub = 1) : exec (.tillerInsert q idx) s = toOut s (runTiller s q idx insertBlock) :=
  tiller_turn hb hcmd hturn (by rw [hsub]; rfl) _

theorem exec_tillerRemove (hsub : p.sub = 2) : exec (.tillerRemove q idx) s = toOut s (runTiller s q idx removeBlock) :=
  tiller_turn hb hcmd hturn (by rw [hsub]; rfl) _

omit hturn in
theorem runTiller_down (f : TillerP → TillerRun → Nat → Nat → Except Halt TillerRun) (hok : tillerOk p = true)
    (hdown : pageUnitDown s 0 = true) : runTiller s q idx f = .ok (endItem s q idx stBadState) := by
  unfold runTiller
  rw [cmdAt_of_itemAt hb.2.2.1, hcmd]
  simp [hok, hdown]

end Turn

/-- A command of the tiller tree at its turn that nothing stands in the way of, and whose one block hashes to `x`; `s1` is the
state in which the block is looked at. -/
structure TillerRuns (s : State) (q idx : Nat) (i : Item) (p : TillerP) (x : Nat) (s1 : State) : Prop where
  begun : Begins s q idx i
  cmd : i.cmd = .tiller p
  turn : unitTurn s q idx = true
  ok : tillerOk p = true
  up : unitsTogether s = true
  cross : unitsCross s q idx (.tiller p) = false
  hashes : tillerHashes (endItem s q idx stOk) p = .ok ([x], s1)

/-- The result record of a command of one block: MATCHED and the block's hash. -/
def tillerRecord (n x : Nat) : List Byte := leBytes 4 n ++ zeros 4 ++ leBytes 8 x ++ zeros 16

namespace TillerRuns
variable {s s1 u : State} {q idx x : Nat} {i : Item} {p : TillerP}

theorem frame (h : TillerRuns s q idx i p x s1) : AgentFrame (endItem s q idx stOk) s1 := tillerHashes_agent _ _ h.hashes

theorem pages (h : TillerRuns s q idx i p x s1) : s1.pages = s.pages := h.frame.pages

/-- The block is worked on, and the result record is written. -/
theorem run (h : TillerRuns s q idx i p x s1) {f : TillerP → TillerRun → Nat → Nat → Except Halt TillerRun} {n : Nat} {b : Bool}
    {s2 : State} (hf : f p ⟨0, 0, false, s1⟩ 0 x = .ok ⟨n, x, b, s2⟩)
    (hwrite : stopWrite s2 (some (pageStop 0)) p.result (tillerRecord n x) = .ok u) : runTiller s q idx f = .ok u := by
  unfold tillerRecord at hwrite
  unfold runTiller
  rw [cmdAt_of_itemAt h.begun.2.2.1, h.cmd]
  simp only [h.ok, pageUnitDown_of_unitsTogether h.up (by decide : 0 < 8), h.up, h.cross, h.hashes, bind, Except.bind,
    List.length_singleton, List.range_one, List.zip_cons_cons, List.zip_nil_right, List.foldlM_cons, List.foldlM_nil, hf,
    pure, Except.pure, hwrite]
  rfl

/-- The command has ended, and the page units and the tree are as the block left them. -/
theorem completes (h : TillerRuns s q idx i p x s1) {c : Instr} {f : TillerP → TillerRun → Nat → Nat → Except Halt TillerRun}
    {n : Nat} {b : Bool} {s2 : State} {Q : State → Prop} (hexec : exec c s = toOut s (runTiller s q idx f))
    (hf : f p ⟨0, 0, false, s1⟩ 0 x = .ok ⟨n, x, b, s2⟩) (hwq : s2.wq = s1.wq)
    (hwrite : stopWrite s2 (some (pageStop 0)) p.result (tillerRecord n x) = .ok u) (hQ : u.pages = s2.pages → Q u) :
    Completes c s fun t => t = u ∧ Ended t q idx stOk ∧ Q t := by
  have hwrite' : AgentFrame s2 u := stopWrite_agent _ _ _ _ hwrite
  refine ⟨u, hexec.trans ?_, rfl, ?_, hQ hwrite'.pages⟩
  · rw [h.run hf hwrite]; rfl
  · exact ended_congr ((hwrite'.wq.trans hwq).trans h.frame.wq) (ended_endItem stOk h.begun.2.2.1)

end TillerRuns

/-! ### Buckets and their ways (R168, R170) -/

theorem mem_bucketWays {s : State} {h k w : Nat} {e : TillerEntry} :
    (w, e) ∈ bucketWays s h k ↔ w < 8 ∧ FMap.find s.pages.tiller (wayKey h k w) = some e := by
  simp [bucketWays]

theorem findHash_some {s : State} {h k x w : Nat} {e : TillerEntry} (hf : findHash s h k x = some (w, e)) :
    w < 8 ∧ FMap.find s.pages.tiller (wayKey h k w) = some e ∧ e.hash = x := by
  obtain ⟨hw, he⟩ := mem_bucketWays.1 (List.mem_of_find?_eq_some hf)
  exact ⟨hw, he, by simpa using List.find?_some hf⟩

theorem findHash_none {s : State} {h k x w : Nat} {e : TillerEntry} (hf : findHash s h k x = none) (hw : w < 8)
    (he : FMap.find s.pages.tiller (wayKey h k w) = some e) : e.hash ≠ x := by
  simpa using List.find?_eq_none.1 hf _ (mem_bucketWays.2 ⟨hw, he⟩)

/-- A bucket with fewer entries than ways has a free way. -/
theorem makeRoom_of_room {s : State} {h k : Nat} (hroom : (bucketWays s h k).length < 8) :
    ∃ w < 8, makeRoom s h k = (w, s) := by
  have hfree : ∃ w ∈ List.range 8, ((bucketWays s h k).all fun e => e.1 != w) = true := by
    by_contra hnone
    push Not at hnone
    have hsub : List.range 8 ⊆ (bucketWays s h k).map (·.1) := fun w hw => by
      have := hnone w hw
      simp only [Bool.not_eq_true, List.all_eq_false, bne_iff_ne, ne_eq, not_not] at this
      obtain ⟨e, he, hew⟩ := this
      exact List.mem_map.2 ⟨e, he, hew⟩
    have := (List.nodup_range.subperm hsub).length_le
    rw [List.length_range, List.length_map] at this
    omega
  obtain ⟨w, hfind⟩ := Option.isSome_iff_exists.1 (List.find?_isSome.2 hfree)
  refine ⟨w, List.mem_range.1 (List.mem_of_find?_eq_some hfind), ?_⟩
  unfold makeRoom
  dsimp only
  rw [hfind]

/-- A new entry in a bucket that did not hold its hash is the one that the hash finds. -/
theorem findHash_setTiller {s t : State} {h k w : Nat} {e : TillerEntry} (hw : w < 8) (hnone : findHash s h k e.hash = none)
    (ht : t.pages.tiller = FMap.set s.pages.tiller (wayKey h k w) e) : ∃ w', findHash t h k e.hash = some (w', e) := by
  have hnew : FMap.find t.pages.tiller (wayKey h k w) = some e := by rw [ht, FMap.find_set_same]
  have hsome : (findHash t h k e.hash).isSome = true :=
    List.find?_isSome.2 ⟨_, mem_bucketWays.2 ⟨hw, hnew⟩, by simp⟩
  obtain ⟨⟨w', e'⟩, hfind⟩ := Option.isSome_iff_exists.1 hsome
  obtain ⟨hw', he', hhash⟩ := findHash_some hfind
  by_cases hsame : w' = w
  · subst hsame
    rw [hnew] at he'
    cases he'
    exact ⟨_, hfind⟩
  · rw [ht, FMap.find_set_ne _ _ (by unfold wayKey; omega)] at he'
    exact absurd hhash (findHash_none hnone hw' he')

/-! ### The three operations on one block (R170) -/

section Block
variable {p : TillerP} {s s2 : State} {x h k v : Nat}

theorem lookupBlock_miss (hbucket : bucketOf s x = some (h, k, v)) (hready : bucketReady s h v = .ok ())
    (hfind : findHash s h k x = none) : lookupBlock p ⟨0, 0, false, s⟩ 0 x = .ok ⟨0, x, true, s⟩ := by
  unfold lookupBlock
  simp only [hbucket, hready, bind, Except.bind, hfind]
  rfl

theorem lookupBlock_hit {w : Nat} {e : TillerEntry} (hbucket : bucketOf s x = some (h, k, v))
    (hready : bucketReady s h v = .ok ()) (hfind : findHash s h k x = some (w, e)) (hroom : refCount s e.page < 65535)
    (hput : putEntry (some (pageStop 0))
      (addRef (setTiller (nextStamp s).2 (wayKey h k w) (some { e with stamp := s.pages.stamp })) e.page) p.table e.page = .ok s2) :
    lookupBlock p ⟨0, 0, false, s⟩ 0 x = .ok ⟨1, x, false, s2⟩ := by
  unfold nextStamp at hput
  unfold lookupBlock
  simp only [hbucket, hready, bind, Except.bind, hfind, Nat.not_le.2 hroom, nextStamp, Nat.mul_zero, Nat.add_zero, hput]
  rfl

theorem insertBlock_new {pg : Nat} (hget : getEntry (some (pageStop 0)) s p.table = .ok (pg, s2))
    (hbucket : bucketOf s2 x = some (h, k, v)) (hready : bucketReady s2 h v = .ok ()) (hfind : findHash s2 h k x = none)
    {w : Nat} (hroom : makeRoom s2 h k = (w, s2)) (hvalid : pageValid s2 pg = true) (hcount : refCount s2 pg < 65535) :
    insertBlock p ⟨0, 0, false, s⟩ 0 x
      = .ok ⟨1, x, false, addRef (setTiller (nextStamp s2).2 (wayKey h k w) (some ⟨x, pg, s2.pages.stamp⟩)) pg⟩ := by
  unfold insertBlock
  simp only [Nat.mul_zero, Nat.add_zero, hget, bind, Except.bind, hbucket, hready, hfind, hvalid, Nat.not_le.2 hcount, hroom]
  rfl

theorem removeBlock_held {pg w : Nat} {e : TillerEntry} (hget : getEntry (some (pageStop 0)) s p.table = .ok (pg, s2))
    (hbucket : bucketOf s2 x = some (h, k, v)) (hready : bucketReady s2 h v = .ok ()) (hfind : findHash s2 h k x = some (w, e))
    (hpage : e.page = pg) : removeBlock p ⟨0, 0, false, s⟩ 0 x = .ok ⟨1, x, false, dropRef (setTiller s2 (wayKey h k w) none) pg⟩ := by
  unfold removeBlock
  simp only [Nat.mul_zero, Nat.add_zero, hget, bind, Except.bind, hbucket, hready, hfind, hpage]
  rfl

end Block

namespace TillerRuns
variable {s s1 s2 u : State} {q idx x h k v : Nat} {i : Item} {p : TillerP} (hr : TillerRuns s q idx i p x s1)
include hr

theorem lookup_miss (hsub : p.sub = 0) (hbucket : bucketOf s1 x = some (h, k, v)) (hready : bucketReady s1 h v = .ok ())
    (hfind : findHash s1 h k x = none) (hwrite : stopWrite s1 (some (pageStop 0)) p.result (tillerRecord 0 x) = .ok u) :
    Completes (.tillerLookup q idx) s fun t => t = u ∧ Ended t q idx stOk ∧ t.pages = s.pages :=
  hr.completes (exec_tillerLookup hr.begun hr.cmd hr.turn hsub) (lookupBlock_miss hbucket hready hfind) rfl hwrite
    fun hpages => hpages.trans hr.pages

theorem lookup_hit {w : Nat} {e : TillerEntry} (hsub : p.sub = 0) (hbucket : bucketOf s1 x = some (h, k, v))
    (hready : bucketReady s1 h v = .ok ()) (hfind : findHash s1 h k x = some (w, e)) (hroom : refCount s1 e.page < 65535)
    (hput : putEntry (some (pageStop 0))
      (addRef (setTiller (nextStamp s1).2 (wayKey h k w) (some { e with stamp := s1.pages.stamp })) e.page) p.table e.page = .ok s2)
    (hwrite : stopWrite s2 (some (pageStop 0)) p.result (tillerRecord 1 x) = .ok u) :
    Completes (.tillerLookup q idx) s fun t => t = u ∧ Ended t q idx stOk ∧ refCount t e.page = refCount s e.page + 1 := by
  have hput' : AgentFrame _ s2 := putEntry_agent _ _ _ _ hput
  refine hr.completes (exec_tillerLookup hr.begun hr.cmd hr.turn hsub) (lookupBlock_hit hbucket hready hfind hroom hput) hput'.wq
    hwrite fun hpages => ?_
  rw [refCount_of_pages hpages, hput'.refCount, refCount_addRef_same]
  exact congrArg (· + 1) (refCount_of_pages hr.pages e.page)

theorem insert_new {pg : Nat} (hsub : p.sub = 1) (hget : getEntry (some (pageStop 0)) s1 p.table = .ok (pg, s2))
    (hbucket : bucketOf s2 x = some (h, k, v)) (hready : bucketReady s2 h v = .ok ()) (hfind : findHash s2 h k x = none)
    (hroom : (bucketWays s2 h k).length < 8) (hvalid : pageValid s2 pg = true) (hcount : refCount s2 pg < 65535)
    (hwrite : stopWrite
      (addRef (setTiller (nextStamp s2).2 (wayKey h k (makeRoom s2 h k).1) (some ⟨x, pg, s2.pages.stamp⟩)) pg)
      (some (pageStop 0)) p.result (tillerRecord 1 x) = .ok u) :
    Completes (.tillerInsert q idx) s fun t => t = u ∧ Ended t q idx stOk ∧ refCount t pg = refCount s pg + 1
      ∧ ∃ w e, findHash t h k x = some (w, e) ∧ e.page = pg := by
  have hget' : AgentFrame s1 s2 := getEntry_agent _ _ _ hget
  obtain ⟨w, hw, hfree⟩ := makeRoom_of_room hroom
  rw [hfree] at hwrite
  refine hr.completes (exec_tillerInsert hr.begun hr.cmd hr.turn hsub)
    (insertBlock_new hget hbucket hready hfind hfree hvalid hcount) hget'.wq hwrite fun hpages => ⟨?_, ?_⟩
  · rw [refCount_of_pages hpages, refCount_addRef_same]
    exact congrArg (· + 1) (refCount_of_pages (hget'.pages.trans hr.pages) pg)
  · obtain ⟨w', hheld⟩ := findHash_setTiller (t := u) (e := ⟨x, pg, s2.pages.stamp⟩) hw hfind (by rw [hpages]; rfl)
    exact ⟨w', _, hheld, rfl⟩

theorem remove_held {pg w : Nat} {e : TillerEntry} (hsub : p.sub = 2)
    (hget : getEntry (some (pageStop 0)) s1 p.table = .ok (pg, s2)) (hbucket : bucketOf s2 x = some (h, k, v))
    (hready : bucketReady s2 h v = .ok ()) (hfind : findHash s2 h k x = some (w, e)) (hpage : e.page = pg)
    (hwrite : stopWrite (dropRef (setTiller s2 (wayKey h k w) none) pg) (some (pageStop 0)) p.result (tillerRecord 1 x) = .ok u) :
    Completes (.tillerRemove q idx) s fun t => t = u ∧ Ended t q idx stOk ∧ refCount t pg = refCount s pg - 1
      ∧ FMap.find t.pages.tiller (wayKey h k w) = none := by
  have hget' : AgentFrame s1 s2 := getEntry_agent _ _ _ hget
  refine hr.completes (exec_tillerRemove hr.begun hr.cmd hr.turn hsub) (removeBlock_held hget hbucket hready hfind hpage)
    hget'.wq hwrite fun hpages => ⟨?_, ?_⟩
  · rw [refCount_of_pages hpages, refCount_dropRef_same]
    exact congrArg (· - 1) (refCount_of_pages (hget'.pages.trans hr.pages) pg)
  · rw [hpages]
    exact FMap.find_drop_same ..

end TillerRuns

/-! ### The order of a sorted batch (R172) -/

theorem seqBefore_iff (a b : Seq) : seqBefore a b = true
    ↔ a.bucket < b.bucket ∨ a.bucket = b.bucket ∧ (b.len < a.len ∨ a.len = b.len ∧ a.idx < b.idx) := by
  simp [seqBefore]

theorem seqBefore_trans {a b c : Seq} (h : seqBefore a b = true) (h' : seqBefore b c = true) : seqBefore a c = true := by
  rw [seqBefore_iff] at *
  omega

theorem seqBefore_asymm {a b : Seq} (h : seqBefore a b = true) : seqBefore b a = false := by
  rw [← Bool.not_eq_true, seqBefore_iff]
  rw [seqBefore_iff] at h
  omega

theorem insertSeq_perm (x : Seq) (l : List Seq) : (insertSeq x l).Perm (x :: l) := by
  induction l with
  | nil => exact .refl _
  | cons y l ih =>
    rw [insertSeq]
    split
    · exact .refl _
    · exact (ih.cons y).trans (.swap x y l)

theorem sortSeqs_perm (l : List Seq) : (sortSeqs l).Perm l := by
  induction l with
  | nil => exact .refl _
  | cons x l ih => exact (insertSeq_perm x (sortSeqs l)).trans (ih.cons x)

/-- A sequence put in its place keeps a batch in order: what follows it comes after the one that it stands before. -/
theorem insertSeq_pairwise (x : Seq) {l : List Seq} (h : l.Pairwise fun a b => seqBefore b a = false) :
    (insertSeq x l).Pairwise fun a b => seqBefore b a = false := by
  induction l with
  | nil => exact List.pairwise_singleton _ x
  | cons y l ih =>
    obtain ⟨hy, hl⟩ := List.pairwise_cons.1 h
    rw [insertSeq]
    split
    · rename_i hxy
      refine List.pairwise_cons.2 ⟨fun z hz => ?_, h⟩
      rcases List.mem_cons.1 hz with rfl | hz
      · exact seqBefore_asymm hxy
      · exact Bool.eq_false_iff.2 fun hzx => Bool.eq_false_iff.1 (hy z hz) (seqBefore_trans hzx hxy)
    · rename_i hxy
      refine List.pairwise_cons.2 ⟨fun z hz => ?_, ih hl⟩
      rcases List.mem_cons.1 ((insertSeq_perm x l).mem_iff.1 hz) with rfl | hz
      · exact Bool.eq_false_iff.2 hxy
      · exact hy z hz

theorem sortSeqs_pairwise (l : List Seq) : (sortSeqs l).Pairwise fun a b => seqBefore b a = false := by
  induction l with
  | nil => exact .nil
  | cons x l ih => exact insertSeq_pairwise x ih

/-! ### WINNOW (R171 to R173) -/

section Winnow
variable {s : State} {q idx : Nat} {i : Item} {p : WinnowP} (hb : Begins s q idx i) (hcmd : i.cmd = .winnow p)
  (hturn : unitTurn s q idx = true)
include hb hcmd hturn

theorem exec_winnow : exec (.winnow q idx) s = toOut s
    (if !winnowOk p then .error (.undefinedCase 48)
    else if !ascending (p.bound.take (p.nb - 1)) then .error (.undefinedCase 30)
    else if !winnowPlaced s p then .error (.undefinedCase 1)
    else sortBatch (endItem s q idx stOk) p) := by
  have hp : isWinnow i.cmd = true := by rw [hcmd]; rfl
  refine (actE_pos hb.1 (by rw [begins_of_Begins hb hp, hturn]; rfl)).trans ?_
  unfold runWinnow
  rw [cmdAt_of_itemAt hb.2.2.1, hcmd]

theorem winnow_sorted {s1 s2 u : State} {bs : List Byte} {b : Bool} (hok : winnowOk p = true)
    (hasc : ascending (p.bound.take (p.nb - 1)) = true) (hplaced : winnowPlaced s p = true)
    (hread : stopRead (endItem s q idx stOk) (some (pageStop p.sheaf)) p.input (8 * p.n) = .ok (bs, b, s1)) {batch : List Seq}
    (hbatch : batch = sortSeqs ((List.range p.n).map fun n =>
      ⟨fieldAt bs (8 * n) 4, fieldAt bs (8 * n + 4) 4, n, bucketFor p (fieldAt bs (8 * n + 4) 4)⟩))
    (hout : stopWrite s1 (some (pageStop p.sheaf)) p.output (batch.flatMap seqBytes ++ zeros (roundUp (16 * p.n) 32 - 16 * p.n))
      = .ok s2)
    (hsum : stopWrite s2 (some (pageStop p.sheaf)) p.summary (winnowSummary p batch) = .ok u) :
    Completes (.winnow q idx) s fun t => t = u ∧ Ended t q idx stOk := by
  subst hbatch
  have hread' : AgentFrame _ s1 := stopRead_agent _ _ _ _ hread
  have hout' : AgentFrame s1 s2 := stopWrite_agent _ _ _ _ hout
  have hsum' : AgentFrame s2 u := stopWrite_agent _ _ _ _ hsum
  refine ⟨u, (exec_winnow hb hcmd hturn).trans ?_, rfl,
    ended_congr ((hread'.trans hout').trans hsum').wq (ended_endItem stOk hb.2.2.1)⟩
  have hsort : sortBatch (endItem s q idx stOk) p = .ok u := by
    unfold sortBatch
    simp only [bind, Except.bind, hread, hout, hsum]
  simp [hok, hasc, hplaced, hsort, toOut]

theorem winnow_undefined :
    (winnowOk p = false → Undefined (.winnow q idx) s 48)
      ∧ (winnowOk p = true → ascending (p.bound.take (p.nb - 1)) = false → Undefined (.winnow q idx) s 30)
      ∧ (winnowOk p = true → ascending (p.bound.take (p.nb - 1)) = true → winnowPlaced s p = false →
        Undefined (.winnow q idx) s 1) := by
  unfold Undefined
  rw [exec_winnow hb hcmd hturn]
  exact ⟨fun hok => by simp [hok, toOut], fun hok hasc => by simp [hok, hasc, toOut],
    fun hok hasc hplaced => by simp [hok, hasc, hplaced, toOut]⟩

end Winnow

/-! ### The obligation -/

/-- Settles O28: an operation on one block is its read, its change of the tree and its result record, and the batch is in order
by induction on its sequences. -/
theorem tillerAndWinnow : Obligations.TillerAndWinnow := by
  unfold Obligations.TillerAndWinnow
  refine ⟨fun q idx s i p hb hcmd hturn hok hdown => ?_, ?_, ?_, fun q idx s i p hb hcmd hturn => winnow_undefined hb hcmd hturn,
    fun l => ⟨sortSeqs_perm l, sortSeqs_pairwise l⟩⟩
  · have hend := onlyEnded_endItem stBadState hb.2.2.1 (rfl : itemAt s q idx = itemAt s q idx)
    have hrun := fun f => congrArg (toOut s) (runTiller_down hb hcmd f hok hdown)
    exact ⟨fun hsub => ⟨_, (exec_tillerLookup hb hcmd hturn hsub).trans (hrun _), hend⟩,
      fun hsub => ⟨_, (exec_tillerInsert hb hcmd hturn hsub).trans (hrun _), hend⟩,
      fun hsub => ⟨_, (exec_tillerRemove hb hcmd hturn hsub).trans (hrun _), hend⟩⟩
  · intro q idx x s s1 u i p hb hcmd hturn hok hup hcross hhashes
    have hr : TillerRuns s q idx i p x s1 := ⟨hb, hcmd, hturn, hok, hup, hcross, hhashes⟩
    exact ⟨fun hsub h k v => hr.lookup_miss hsub, fun hsub h k v w e s2 => hr.lookup_hit hsub,
      fun hsub h k v pg s2 => hr.insert_new hsub, fun hsub h k v pg w e s2 => hr.remove_held hsub⟩
  · intro q idx s s1 s2 u i p bs b hb hcmd hturn hok hasc hplaced _ _ hread hout hsum
    exact winnow_sorted hb hcmd hturn hok hasc hplaced hread rfl hout hsum

end Sys2Proof.Machine

namespace Sys2Proof.Machine

/-! ## The hash of a block of tokens (O30): R167 -/

/-- One turn of the loop of `tiller_hash`, in 64-bit words. -/
def hashTurn (h : BitVec 64) (p : BitVec 32 × BitVec 32) : BitVec 64 :=
  let w := (p.2 ++ p.1) * 0xBF58476D1CE4E5B9#64
  let w := w ^^^ (w >>> 31)
  ((h ^^^ w) * 0x94D049BB133111EB#64).rotateLeft 27

/-- What follows the loop of `tiller_hash`, in 64-bit words. -/
def hashFinish (h : BitVec 64) : BitVec 64 :=
  let h := (h ^^^ (h >>> 33)) * 0xFF51AFD7ED558CCD#64
  let h := h ^^^ (h >>> 33)
  if h = 0 then 1 else h

theorem toNat_append_words (hi lo : BitVec 32) : (hi ++ lo).toNat = lo.toNat + hi.toNat * 2 ^ 32 := by
  rw [BitVec.toNat_append, ← Nat.shiftLeft_add_eq_or_of_lt lo.isLt, Nat.shiftLeft_eq, Nat.add_comm]

theorem toNat_rotateLeft_27 (x : BitVec 64) : (x.rotateLeft 27).toNat = x.toNat * 2 ^ 27 % 2 ^ 64 + x.toNat / 2 ^ 37 := by
  have hlow : x.toNat >>> 37 < 2 ^ 27 := by
    rw [Nat.shiftRight_eq_div_pow]; have := x.isLt; omega
  have hhigh : x.toNat <<< 27 % 2 ^ 64 = (x.toNat % 2 ^ 37) <<< 27 := by
    simp only [Nat.shiftLeft_eq]; omega
  rw [BitVec.toNat_rotateLeft, show 27 % 64 = 27 from rfl, show 64 - 27 = 37 from rfl, hhigh,
    ← Nat.shiftLeft_add_eq_or_of_lt hlow, ← hhigh, Nat.shiftLeft_eq, Nat.shiftRight_eq_div_pow]

theorem toNat_mul_ofNat (x : BitVec 64) {c : Nat} (hc : c < 2 ^ 64) : (x * BitVec.ofNat 64 c).toNat = x.toNat * c % 2 ^ 64 := by
  rw [BitVec.toNat_mul, BitVec.toNat_ofNat, Nat.mod_eq_of_lt hc]

theorem toNat_xor_ushiftRight (x : BitVec 64) (n : Nat) : (x ^^^ (x >>> n)).toNat = x.toNat ^^^ x.toNat / 2 ^ n := by
  rw [BitVec.toNat_xor, BitVec.toNat_ushiftRight, Nat.shiftRight_eq_div_pow]

theorem tillerMix_toNat (h : BitVec 64) (p : BitVec 32 × BitVec 32) :
    tillerMix h.toNat p.1.toNat p.2.toNat = (hashTurn h p).toNat := by
  unfold hashTurn
  rw [toNat_rotateLeft_27, toNat_mul_ofNat _ (by decide), BitVec.toNat_xor, toNat_xor_ushiftRight, toNat_mul_ofNat _ (by decide),
    toNat_append_words, tillerMix]

/-- The loop over a block's tokens, one pair a turn. -/
theorem foldl_tillerMix (ps : List (BitVec 32 × BitVec 32)) (h : BitVec 64) :
    (List.range ps.length).foldl (fun h i =>
        tillerMix h (((ps.flatMap fun p => [p.1.toNat, p.2.toNat])[2 * i]?).getD 0)
          (((ps.flatMap fun p => [p.1.toNat, p.2.toNat])[2 * i + 1]?).getD 0)) h.toNat
      = (ps.foldl hashTurn h).toNat := by
  induction ps generalizing h with
  | nil => rfl
  | cons p ps ih =>
    rw [List.length_cons, List.range_succ_eq_map, List.foldl_cons, List.foldl_map, List.foldl_cons, ← ih, ← tillerMix_toNat]
    rfl

theorem tillerHash_toNat (prev : BitVec 64) (ps : List (BitVec 32 × BitVec 32)) (hlen : ps.length = 32) :
    tillerHash prev.toNat (ps.flatMap fun p => [p.1.toNat, p.2.toNat])
      = (hashFinish (ps.foldl hashTurn (prev ^^^ 0x9E3779B97F4A7C15#64))).toNat := by
  have hloop := foldl_tillerMix ps (prev ^^^ 0x9E3779B97F4A7C15#64)
  rw [hlen, BitVec.toNat_xor, BitVec.toNat_ofNat, Nat.mod_eq_of_lt (by decide)] at hloop
  have hword : ∀ x : BitVec 64, (if x = 0 then 1 else x).toNat = if x.toNat = 0 then 1 else x.toNat := fun x => by
    rw [apply_ite BitVec.toNat]
    exact if_congr BitVec.toNat_eq rfl rfl
  unfold hashFinish
  rw [hword, toNat_xor_ushiftRight, toNat_mul_ofNat _ (by decide), toNat_xor_ushiftRight, ← hloop, tillerHash]

theorem tillerHash_ne_zero (prev : Nat) (tok : List Nat) : tillerHash prev tok ≠ 0 := by
  unfold tillerHash
  dsimp only
  split
  · exact one_ne_zero
  · assumption

theorem length_hashChain (n prev : Nat) (bs : List Byte) : (hashChain n prev bs).length = n := by
  induction n generalizing prev bs with
  | zero => rfl
  | succ n ih => rw [hashChain, List.length_cons, ih]

theorem fieldAt_drop (bs : List Byte) (k off n : Nat) : fieldAt (bs.drop k) off n = fieldAt bs (k + off) n := by
  simp only [fieldAt, slice, List.getElem?_drop, Nat.add_assoc]

/-- Each hash of a chain is made of the one before it, the first of the salt, and of its own block. -/
theorem getElem?_hashChain {n b : Nat} (hb : b < n) (salt : Nat) (bs : List Byte) :
    (hashChain n salt bs)[b]? = some (tillerHash (if b = 0 then salt else ((hashChain n salt bs)[b - 1]?).getD 0)
      ((List.range 64).map fun i => fieldAt bs (4 * (64 * b + i)) 4)) := by
  induction n generalizing b salt bs with
  | zero => omega
  | succ n ih =>
    cases b with
    | zero => simp [hashChain]
    | succ b =>
      have hprev : (if b = 0 then tillerHash salt ((List.range 64).map fun i => fieldAt bs (4 * i) 4)
          else ((hashChain n (tillerHash salt ((List.range 64).map fun i => fieldAt bs (4 * i) 4)) (bs.drop 256))[b - 1]?).getD 0)
          = ((hashChain (n + 1) salt bs)[b]?).getD 0 := by
        cases b with
        | zero => rw [if_pos rfl, hashChain, List.getElem?_cons_zero, Option.getD_some]
        | succ b => rw [if_neg (Nat.succ_ne_zero b), hashChain, List.getElem?_cons_succ, Nat.add_sub_cancel]
      have htok : ∀ i, fieldAt (bs.drop 256) (4 * (64 * b + i)) 4 = fieldAt bs (4 * (64 * (b + 1) + i)) 4 := fun i => by
        rw [fieldAt_drop]; congr 1; omega
      rw [if_neg (Nat.succ_ne_zero b), Nat.add_sub_cancel, ← hprev]
      simp only [hashChain, List.getElem?_cons_succ, ih (Nat.lt_of_succ_lt_succ hb), htok]

theorem tillerHashes_read {s s1 : State} {p : TillerP} {bs : List Byte} {x : Bool} (hp : p.hashed = false)
    (hread : stopRead s (some (pageStop 0)) p.input (256 * p.blocks) = .ok (bs, x, s1)) :
    tillerHashes s p = .ok (hashChain p.blocks p.salt bs, s1) := by
  unfold tillerHashes
  rw [hp, hread]
  rfl

end Sys2Proof.Machine

namespace Sys2Proof

/-! The model's own `tillerHash` has the obligation's name, so the theorem stands outside its namespace. -/

open Machine in
/-- Settles O30: the words of `tiller_hash` are the model's numbers below 2⁶⁴, turn by turn, and the chain is by induction on
the number of blocks. -/
theorem tillerHash : Obligations.TillerHash := by
  unfold Obligations.TillerHash
  exact ⟨tillerHash_toNat, tillerHash_ne_zero, fun n salt bs => length_hashChain n salt bs,
    fun n b salt bs hb => getElem?_hashChain hb salt bs, fun s s1 p bs x hp hread => tillerHashes_read hp hread⟩

end Sys2Proof

namespace Sys2Proof.Machine

/-! ## Built-in kernels (O25): R146, R148, R176, R265, R299 to R301 -/

/-! ### What a built-in kernel leaves unchanged -/

/-- From `s` to `t` a built-in kernel of queue `q` ran, but for its end: the boot, the job, the guard and the other queues are as
before, and the items of its own queue have changed in nothing but the outputs that they have noted (R104). -/
structure KernelFrame (q : Nat) (s t : State) : Prop where
  boot : t.boot = s.boot
  job : t.job = s.job
  guard : t.guard = s.guard
  others : OtherQueues s t q
  item : ∀ idx i, itemAt s q idx = some i → ∃ l, itemAt t q idx = some { i with outs := l }

theorem KernelFrame.trans {q : Nat} {s t u : State} (h : KernelFrame q s t) (h' : KernelFrame q t u) : KernelFrame q s u := by
  refine ⟨h'.boot.trans h.boot, h'.job.trans h.job, h'.guard.trans h.guard, fun p hp => (h'.others p hp).trans (h.others p hp),
    fun idx i hi => ?_⟩
  obtain ⟨l, hl⟩ := h.item idx i hi
  obtain ⟨l', hl'⟩ := h'.item idx _ hl
  exact ⟨l', hl'⟩

theorem KernelFrame.of_wq {q : Nat} {s t : State} (hboot : t.boot = s.boot) (hjob : t.job = s.job) (hguard : t.guard = s.guard)
    (hwq : t.wq = s.wq) : KernelFrame q s t :=
  ⟨hboot, hjob, hguard, fun p _ => by unfold queueAt; rw [hwq],
    fun idx i hi => ⟨i.outs, (itemAt_congr (by rw [hwq]) q idx).trans hi⟩⟩

theorem KernelFrame.refl (q : Nat) (s : State) : KernelFrame q s s := .of_wq rfl rfl rfl rfl

theorem AgentFrame.kernel {s t : State} (h : AgentFrame s t) (q : Nat) : KernelFrame q s t :=
  .of_wq h.boot h.job h.guard h.wq

theorem kernelFrame_noteItem (s : State) (q idx a n : Nat) : KernelFrame q s (noteItem s q idx a n) := by
  refine ⟨rfl, rfl, rfl, otherQueues_updItem s q idx _, fun k i hi => ?_⟩
  by_cases hk : k = idx
  · subst hk
    exact ⟨_, itemAt_updItem_same (fun _ => by rfl) hi⟩
  · exact ⟨i.outs, (itemAt_updItem_ne (fun _ => by rfl) (fun h => hk h.2)).trans hi⟩

theorem kernelFrame_noteWrite (s : State) (q idx a b : Nat) (bs : List Byte) :
    Ends (KernelFrame q s) (kernWrite (noteItem s q idx a bs.length) b bs) :=
  fun u hu => (kernelFrame_noteItem s q idx a bs.length).trans ((kernWrite_agent _ _ u hu).kernel q)

/-! ### The cores that a built-in kernel has used (R101, R102) -/

/-- A core keeps no kernel image and no tile register. -/
def CoreCleared (s : State) (c : Nat) : Prop := (coreAt s c).imageKept = false ∧ (coreAt s c).tregs = []

theorem CoreCleared.congr {s t : State} {c : Nat} (h : coreAt t c = coreAt s c) (hs : CoreCleared s c) : CoreCleared t c := by
  unfold CoreCleared; rwa [h]

theorem coreAt_usedCore_same (s : State) (c : Nat) :
    coreAt (usedCore s c) c = { coreAt s c with imageKept := false, tregs := [], kblocks := 0, churn := [] } := by
  have hcores : (usedCore s c).cores
      = (updCore (updCore s c fun x => { x with imageKept := false, tregs := [], kblocks := 0 }) c fun x =>
          { x with churn := [] }).cores := rfl
  rw [coreAt_congr hcores, coreAt_updCore_same, coreAt_updCore_same]

theorem otherCores_usedCore (s : State) (c : Nat) : OtherCores s (usedCore s c) c :=
  ((otherCores_updCore s c _).trans (loseTile_spec _ c).2.2.1)

theorem kernelFrame_usedCore (s : State) (c q : Nat) : KernelFrame q s (usedCore s c) := by
  apply KernelFrame.of_wq
  all_goals simp [usedCore, loseTile, setAnchor]

theorem cleared_usedCore_same (s : State) (c : Nat) : CoreCleared (usedCore s c) c := by
  unfold CoreCleared; rw [coreAt_usedCore_same]; exact ⟨rfl, rfl⟩

theorem cleared_usedCore {s : State} {c d : Nat} (h : CoreCleared s d) : CoreCleared (usedCore s c) d := by
  by_cases hd : d = c
  · subst hd; exact cleared_usedCore_same s d
  · exact h.congr (otherCores_usedCore s c d hd)

/-- The state in which the counts and the tile flags of a core's products have been taken, before its tile is lost. -/
theorem multCore_usedCore (s : State) (c : Nat) : ∃ u, AgentFrame s u ∧ multCore s c = usedCore u c := by
  refine ⟨_, ?_, rfl⟩
  refine AgentFrame.trans (AgentFrame.trans ?_ (AgentFrame.foldl (fun t k => ?_) _ _)) (agentFrame_bump _)
  · constructor <;> simp
  · split
    · constructor <;> simp [setTileFlag]
    · exact .refl t

theorem kernelFrame_multCore (s : State) (c q : Nat) : KernelFrame q s (multCore s c) := by
  obtain ⟨u, hu, heq⟩ := multCore_usedCore s c
  rw [heq]
  exact (hu.kernel q).trans (kernelFrame_usedCore u c q)

theorem cleared_multCore_same (s : State) (c : Nat) : CoreCleared (multCore s c) c := by
  obtain ⟨u, -, heq⟩ := multCore_usedCore s c
  rw [heq]
  exact cleared_usedCore_same u c

theorem cleared_multCore {s : State} {c d : Nat} (h : CoreCleared s d) : CoreCleared (multCore s c) d := by
  obtain ⟨u, hu, heq⟩ := multCore_usedCore s c
  rw [heq]
  exact cleared_usedCore (h.congr (coreAt_congr hu.cores d))

theorem foldl_multCore_spec (l : List Nat) (q : Nat) (s : State) :
    KernelFrame q s (l.foldl multCore s) ∧ (∀ c, CoreCleared s c → CoreCleared (l.foldl multCore s) c)
      ∧ ∀ c ∈ l, CoreCleared (l.foldl multCore s) c := by
  induction l generalizing s with
  | nil => exact ⟨.refl q s, fun _ h => h, nofun⟩
  | cons c l ih =>
    obtain ⟨hframe, hkeep, hset⟩ := ih (multCore s c)
    refine ⟨(kernelFrame_multCore s c q).trans hframe, fun d hd => hkeep d (cleared_multCore hd), fun d hd => ?_⟩
    rcases List.mem_cons.1 hd with rfl | hd
    · exact hkeep d (cleared_multCore_same s d)
    · exact hset d hd

/-- A kernel of products has run on its item's cores. -/
theorem usedCores_spec {s : State} {q idx : Nat} {i : Item} (hitem : itemAt s q idx = some i) :
    KernelFrame q s (usedCores s q idx) ∧ ∀ c ∈ i.targets, CoreCleared (usedCores s q idx) c := by
  obtain ⟨hframe, -, hset⟩ := foldl_multCore_spec i.targets q s
  unfold usedCores
  rw [hitem]
  exact ⟨hframe, hset⟩

/-! ### What GEMM and ATTEND read and write -/

section
variable {q idx : Nat} {s : State}

theorem gemmLines_agent (fmt base ld sc k n : Nat) : Ends (fun r => AgentFrame s r.2) (gemmLines s fmt base ld sc k n) := by
  refine Ends.foldlM (Q := fun t : List (List KLine) × State => AgentFrame s t.2) (fun t l ht => ?_) _ (.refl s)
  refine Ends.bind (Q := fun r : List KLine × State => AgentFrame s r.2) ?_ fun r hr => .pure hr
  unfold gemmLine
  refine (kernRead_agent _ _).bind fun ⟨_, _, _⟩ hr => ?_
  dsimp only
  split
  · exact (kernRead_agent _ _).bind fun r' hr' => .pure ((ht.trans hr).trans hr')
  · exact .pure (ht.trans hr)

theorem gemmOld_agent (p : GemmP) (fc m : Nat) : Ends (fun r => AgentFrame s r.2) (gemmOld s p fc m) := by
  unfold gemmOld
  split
  · exact .ok (.refl s)
  · refine (kernRead_agent _ _).bind fun r hr => ?_
    dsimp only
    split
    · exact (kernRead_agent _ _).bind fun r' hr' => .pure (hr.trans hr')
    · exact .pure hr

theorem putGemmRow_frame (p : GemmP) (fc m : Nat) (r : Row) : Ends (KernelFrame q s) (putGemmRow s q idx p fc m r) := by
  unfold putGemmRow
  refine (kernelFrame_noteWrite s q idx _ _ _).bind fun t ht => ?_
  split
  · exact .ok ht
  · intro u hu
    rw [← List.length_map (f := (BitVec.ofNat 8 ·))] at hu
    exact ht.trans (kernelFrame_noteWrite t q idx _ _ _ u hu)

theorem gemmRows_frame (p : GemmP) (fc : Nat) (doubt : List KLine → Bool) (ps : List Pass) (as bs : List (List KLine))
    (rep : Report) : Ends (fun r => KernelFrame q s r.1 ∧ r.2.slot = rep.slot) (gemmRows s q idx p fc doubt ps as bs rep) := by
  refine Ends.foldlM (Q := fun t : State × Report => KernelFrame q s t.1 ∧ t.2.slot = rep.slot) (fun t x ht => ?_) _ ⟨.refl q s, rfl⟩
  exact (gemmOld_agent _ _ _).bind fun r hr => (putGemmRow_frame _ _ _ _).bind fun u hu =>
    .pure ⟨(ht.1.trans (hr.kernel q)).trans hu, ht.2⟩

theorem readLines_agent (fmt n len a sc : Nat) : Ends (fun r => AgentFrame s r.2) (readLines s fmt n len a sc) := by
  refine Ends.foldlM (Q := fun t : List (List KLine) × State => AgentFrame s t.2) (fun t l ht => (kernRead_agent _ _).bind fun ⟨_, _, _⟩ hr => ?_) _
    (.refl s)
  dsimp only
  split
  · exact .pure (ht.trans hr)
  · exact (kernRead_agent _ _).bind fun r' hr' => .pure ((ht.trans hr).trans hr')

theorem pageLines_agent (p : AttendP) (page : Nat) : Ends (fun r => AgentFrame s r.2.2) (pageLines s p page) := by
  unfold pageLines
  split
  · exact .error _
  · exact (readLines_agent _ _ _ _ _).bind fun r hr => (readLines_agent _ _ _ _ _).bind fun r' hr' => .pure (hr.trans hr')

theorem attBlocks_agent (p : AttendP) (len table : Nat) (qs : List (List KLine)) :
    Ends (fun r => AgentFrame s r.2) (attBlocks p len table qs s) := by
  refine Ends.foldlM (Q := fun t : List AttRow × State => AgentFrame s t.2) (fun t b ht => ?_) _ (.refl s)
  exact (getEntry_agent _ _).bind fun r hr => (pageLines_agent _ _).bind fun r' hr' => .pure ((ht.trans hr).trans hr')

theorem attendOne_frame (fo : Nat) (p : AttendP) (e : Nat) : Ends (KernelFrame q s) (attendOne q idx fo p s e) := by
  unfold attendOne
  refine (kernRead_agent _ _).bind fun r hr => ?_
  dsimp only
  split
  · exact .error _
  · refine (readLines_agent _ _ _ _ _).bind fun r1 hr1 => (attBlocks_agent _ _ _ _).bind fun r2 hr2 u hu => ?_
    exact (((hr.trans hr1).trans hr2).kernel q).trans (kernelFrame_noteWrite _ q idx _ _ _ u hu)

end

/-! ### The end of GEMM and ATTEND (R176, R299) -/

theorem idx_of_itemAt {s : State} {q idx : Nat} {i : Item} (h : itemAt s q idx = some i) : i.idx = idx := by
  simpa using List.find?_some h

/-- What is kept when a kernel of products has written its results and its item is changed for the last time. -/
theorem KernelFrame.usedCores {q idx : Nat} {s u : State} {i : Item} (h : KernelFrame q s u) (hitem : itemAt s q idx = some i) :
    KernelFrame q s (Machine.usedCores (bump u) q idx) ∧ ∀ c ∈ i.targets, CoreCleared (Machine.usedCores (bump u) q idx) c := by
  have hbump : KernelFrame q s (bump u) := h.trans (.of_wq rfl rfl rfl rfl)
  obtain ⟨l, hl⟩ := hbump.item idx i hitem
  obtain ⟨hframe, hset⟩ := usedCores_spec hl
  exact ⟨hbump.trans hframe, hset⟩

/-- What GEMM leaves. -/
structure GemmDone (s t : State) (q idx : Nat) (i : Item) (p : GemmP) : Prop where
  others : OtherQueues s t q
  boot : t.boot = s.boot
  job : t.job = s.job
  cleared : ∀ c ∈ i.targets, CoreCleared t c
  ended : p.gslot = 0xFF → Ended t q idx stOk ∧ t.guard = s.guard
  reported : p.gslot ≠ 0xFF → (∃ y, itemAt t q idx = some y ∧ y.phase = .running)
    ∧ ∃ r, t.guard.reports = s.guard.reports ++ [r] ∧ r.slot = p.gslot ∧ r.item = some (q, idx)

theorem gemmEnd_spec {s u : State} {q idx : Nat} {i : Item} {p : GemmP} (hitem : itemAt s q idx = some i)
    (h : KernelFrame q s u) (hset : ∀ c ∈ i.targets, CoreCleared u c) {rep : Report} (hslot : rep.slot = p.gslot) :
    GemmDone s (gemmEnd u q idx p.gslot rep) q idx i p := by
  obtain ⟨l, hl⟩ := h.item idx i hitem
  unfold gemmEnd
  by_cases hg : p.gslot = 0xFF
  · rw [if_pos hg]
    exact ⟨fun r hr => (otherQueues_updItem u q idx _ r hr).trans (h.others r hr), h.boot, h.job, hset,
      fun _ => ⟨ended_endItem stOk hl, h.guard⟩, fun hn => absurd hg hn⟩
  · rw [if_neg hg]
    refine ⟨fun r hr => (otherQueues_updItem _ q idx _ r hr).trans (h.others r hr), h.boot, h.job, hset, fun he => absurd he hg,
      fun _ => ⟨⟨_, itemAt_updItem_same (fun _ => by rfl) hl, rfl⟩, { rep with item := some (q, idx) }, ?_, hslot, rfl⟩⟩
    exact congrArg (fun g : Guard => g.reports ++ [{ rep with item := some (q, idx) }]) h.guard

theorem gemmEffect_done {s : State} {q idx : Nat} {i : Item} (p : GemmP) (hitem : itemAt s q idx = some i) :
    Ends (fun t => GemmDone s t q idx i p) (gemmEffect s q i p) := by
  have hidx := idx_of_itemAt hitem
  unfold gemmEffect
  dsimp only
  split
  · exact .error _
  · split
    · exact .error _
    · refine (gemmLines_agent _ _ _ _ _ _).bind fun r1 h1 => (gemmLines_agent _ _ _ _ _ _).bind fun r2 h2 => ?_
      have hread : KernelFrame q s (bump r2.2) := ((h1.trans h2).kernel q).trans (.of_wq rfl rfl rfl rfl)
      refine (gemmRows_frame _ _ _ _ _ _ _).bind fun r3 h3 => .ok ?_
      obtain ⟨hframe, hset⟩ := (hread.trans h3.1).usedCores hitem
      rw [hidx]
      exact gemmEnd_spec hitem hframe hset h3.2

/-- What ATTEND leaves. -/
structure AttendDone (s t : State) (q idx : Nat) (i : Item) : Prop where
  ended : Ended t q idx stOk
  others : OtherQueues s t q
  boot : t.boot = s.boot
  job : t.job = s.job
  guard : t.guard = s.guard
  cleared : ∀ c ∈ i.targets, CoreCleared t c

theorem attendEffect_done {s : State} {q idx : Nat} {i : Item} (p : AttendP) (hitem : itemAt s q idx = some i) :
    Ends (fun t => AttendDone s t q idx i) (attendEffect s q i p) := by
  unfold attendEffect
  split
  · exact .error _
  · split
    · exact .error _
    · refine (Ends.foldlM (Q := KernelFrame q s) (fun t e ht u hu => ht.trans (attendOne_frame _ _ _ u hu)) _ (.refl q s)).bind
        fun t ht => .ok ?_
      rw [idx_of_itemAt hitem]
      obtain ⟨hframe, hset⟩ := ht.usedCores hitem
      obtain ⟨l, hl⟩ := hframe.item idx i hitem
      exact ⟨ended_endItem stOk hl, fun r hr => (otherQueues_updItem _ q idx _ r hr).trans (hframe.others r hr), hframe.boot,
        hframe.job, hframe.guard, hset⟩

/-! ### What REDUCE leaves (R123, R301) -/

section
variable {q : Nat} {s : State}

theorem srcRun_agent (efmt a j n : Nat) : Ends (fun r => AgentFrame s r.2) (srcRun s efmt a j n) :=
  (kernRead_agent _ _).bind fun _ hr => .pure hr

theorem sendSource_agent (h : RedsHead) (src : Nat) : Ends (AgentFrame s) (sendSource h src s) := by
  refine Ends.foldlM (fun t r ht => (srcRun_agent _ _ _ _).bind fun r hr => .ok ?_) _ (.refl s)
  exact (ht.trans hr).trans (by constructor <;> simp)

/-- A rank's core runs the REDUCE, and the other cores that ran go on. -/
theorem sendRank_spec (i : Item) (p : ReduceP) (c : Nat × Nat) :
    Ends (fun t => KernelFrame q s t ∧ (coreAt t c.1).running = true
      ∧ ∀ d, (coreAt s d).running = true → (coreAt t d).running = true) (sendRank q i p s c) := by
  unfold sendRank
  dsimp only
  generalize hu : updCore (usedCore s c.1) c.1 _ = u
  have hframe : KernelFrame q s u := by
    rw [← hu]; exact (kernelFrame_usedCore s c.1 q).trans (.of_wq rfl rfl rfl rfl)
  have hself : (coreAt u c.1).running = true := by rw [← hu, coreAt_updCore_same]
  have hothers : ∀ d, (coreAt s d).running = true → (coreAt u d).running = true := fun d hd => by
    by_cases hdc : d = c.1
    · rw [hdc]; exact hself
    · rw [← hu, otherCores_updCore _ _ _ d hdc, otherCores_usedCore _ _ d hdc]; exact hd
  intro t ht
  have hsend : AgentFrame u t := Ends.foldlM (Q := AgentFrame u)
    (fun v k hv w hw => hv.trans (sendSource_agent _ _ w hw)) _ (.refl u) t ht
  refine ⟨hframe.trans (hsend.kernel q), ?_, fun d hd => ?_⟩
  · rw [coreAt_congr hsend.cores]; exact hself
  · rw [coreAt_congr hsend.cores]; exact hothers d hd

theorem sendRanks_spec (i : Item) (p : ReduceP) (l : List (Nat × Nat)) :
    Ends (fun t => KernelFrame q s t ∧ (∀ c ∈ l, (coreAt t c.1).running = true)
      ∧ ∀ d, (coreAt s d).running = true → (coreAt t d).running = true) (l.foldlM (sendRank q i p) s) := by
  induction l generalizing s with
  | nil => exact .ok ⟨.refl q s, nofun, fun _ h => h⟩
  | cons c l ih =>
    rw [List.foldlM_cons]
    refine (sendRank_spec i p c).bind fun t ht u hu => ?_
    obtain ⟨hframe, hself, hkeep⟩ := ht
    obtain ⟨hframe', hset', hkeep'⟩ := ih u hu
    refine ⟨hframe.trans hframe', fun d hd => ?_, fun d hd => hkeep' d (hkeep d hd)⟩
    rcases List.mem_cons.1 hd with rfl | hd
    · exact hkeep' _ hself
    · exact hset' d hd

end

/-- What REDUCE leaves. -/
structure ReduceSent (s t : State) (q idx : Nat) (i : Item) : Prop where
  item : ∃ y, itemAt t q idx = some y ∧ y.phase = .running ∧ y.waitCores = [] ∧ y.runCores = y.targets
  others : OtherQueues s t q
  boot : t.boot = s.boot
  job : t.job = s.job
  running : ∀ c ∈ i.targets, (coreAt t c).running = true

theorem reduceEffect_sent {s u : State} {q idx : Nat} {i : Item} {p : ReduceP} (hitem : itemAt s q idx = some i)
    (helems : p.elems ≠ 0) (hu : reduceEffect s q i p = .ok u) : ReduceSent s u q idx i := by
  suffices h : Ends (fun t => ReduceSent s t q idx i) (reduceEffect s q i p) from h u hu
  unfold reduceEffect
  split
  · exact .error _
  · refine (Ends.any _).bind fun _ _ => (sendRanks_spec i p _).bind fun t ht => .ok ?_
    obtain ⟨hframe, hrun, -⟩ := ht
    obtain ⟨l, hl⟩ := hframe.item idx i hitem
    rw [idx_of_itemAt hitem]
    refine ⟨⟨_, itemAt_updItem_same (fun _ => by rfl) hl, rfl, rfl, rfl⟩,
      fun r hr => (otherQueues_updItem t q idx _ r hr).trans (hframe.others r hr), hframe.boot, hframe.job, fun c hc => ?_⟩
    have hzip : c ∈ (i.targets.zip (List.range i.targets.length)).map Prod.fst := by
      rwa [List.map_fst_zip (by rw [List.length_range])]
    obtain ⟨x, hx, rfl⟩ := List.mem_map.1 hzip
    exact hrun x hx

/-! ### Effects that have a result -/

/-- An effect has a result, of which `Q` holds. -/
def Succeeds {α : Type} (Q : α → Prop) (e : Except Halt α) : Prop := ∃ a, e = .ok a ∧ Q a

section
variable {α β : Type} {Q : α → Prop} {R : β → Prop}

theorem Succeeds.ok {a : α} (h : Q a) : Succeeds Q (.ok a) := ⟨a, rfl, h⟩

theorem Succeeds.pure {a : α} (h : Q a) : Succeeds Q (pure a) := ⟨a, rfl, h⟩

theorem Succeeds.imp {Q' : α → Prop} {e : Except Halt α} (he : Succeeds Q e) (h : ∀ a, Q a → Q' a) : Succeeds Q' e := by
  obtain ⟨a, ha, hq⟩ := he
  exact ⟨a, ha, h a hq⟩

theorem Succeeds.bind {e : Except Halt α} {k : α → Except Halt β} (he : Succeeds Q e) (hk : ∀ a, Q a → Succeeds R (k a)) :
    Succeeds R (e >>= k) := by
  obtain ⟨a, rfl, ha⟩ := he
  exact hk a ha

theorem Succeeds.foldlM {f : α → β → Except Halt α} {l : List β} (hf : ∀ a, ∀ b ∈ l, Q a → Succeeds Q (f a b)) {a : α} (h : Q a) :
    Succeeds Q (l.foldlM f a) := by
  induction l generalizing a with
  | nil => exact .pure h
  | cons b l ih =>
    rw [List.foldlM_cons]
    exact (hf a b (by simp) h).bind fun c hc => ih (fun a b' hb => hf a b' (by simp [hb])) hc

end

/-! ### Nothing bars a write where no command or step keeps memory (R165, R173, R182, R192) -/

theorem FMap.mem_of_find {α : Type} {m : FMap α} {k : Nat} {x : α} (h : FMap.find m k = some x) : (k, x) ∈ m := by
  induction m with
  | nil => cases h
  | cons e m ih =>
    rw [FMap.find] at h
    split at h
    · rename_i hk; cases h; rw [hk]; exact List.mem_cons_self
    · exact List.mem_cons_of_mem _ (ih h)

theorem FMap.mem_set {α : Type} {m : FMap α} {k : Nat} {x : α} {e : Nat × α} (h : e ∈ FMap.set m k x) : e = (k, x) ∨ e ∈ m := by
  induction m with
  | nil => exact .inl (List.mem_singleton.1 h)
  | cons e' m ih =>
    rw [FMap.set] at h
    split at h
    · exact (List.mem_cons.1 h).imp id (List.mem_cons_of_mem _)
    · split at h
      · exact List.mem_cons.1 h
      · rcases List.mem_cons.1 h with rfl | h
        · exact .inr List.mem_cons_self
        · exact (ih h).imp id (List.mem_cons_of_mem _)

section
variable {s : State} (h : NoKeepers s)
include h

/-- No item of a queue keeps memory to itself. -/
theorem NoKeepers.ranges {e : Nat × Queue} (he : e ∈ s.wq.queues) {i : Item} (hi : i ∈ e.2.items) :
    tableRanges s i.cmd = [] ∧ sourceRanges s i.cmd = [] ∧ winnowRanges s i.cmd = [] := by
  have hkeep := h.2 e he i hi
  cases hc : i.cmd with
  | pageOp p => rw [hc] at hkeep; exact False.elim hkeep
  | tiller p => rw [hc] at hkeep; exact False.elim hkeep
  | winnow p => rw [hc] at hkeep; exact False.elim hkeep
  | _ => exact ⟨rfl, rfl, rfl⟩

theorem NoKeepers.writeBarred_none (k n : Nat) : writeBarred s k n = none := by
  have hitems : (s.wq.queues.findSome? fun e => e.2.items.findSome? fun i =>
      if !itemLive i then none
      else if meetAny [(k, n)] (tableRanges s i.cmd ++ sourceRanges s i.cmd) then some 28
      else if meetAny [(k, n)] (winnowRanges s i.cmd) then some 30
      else none) = none := by
    refine List.findSome?_eq_none_iff.2 fun e he => List.findSome?_eq_none_iff.2 fun i hi => ?_
    obtain ⟨htable, hsource, hwinnow⟩ := h.ranges he hi
    rw [htable, hsource, hwinnow]
    simp [meetAny]
  unfold writeBarred
  dsimp only
  rw [hitems, h.1]
  rfl

theorem NoKeepers.updItem {q idx : Nat} {f : Item → Item} (hf : ∀ i, (f i).cmd = i.cmd) : NoKeepers (updItem s q idx f) := by
  refine ⟨h.1, fun e he i hi => ?_⟩
  rcases FMap.mem_set he with rfl | he
  · obtain ⟨i', hi', rfl⟩ := List.mem_map.1 hi
    have hcmd : (if i'.idx = idx then f i' else i').cmd = i'.cmd := by split <;> simp [hf]
    have hq : (q, queueAt s q) ∈ s.wq.queues := by
      unfold queueAt FMap.getD at hi' ⊢
      cases hfind : FMap.find s.wq.queues q with
      | none => rw [hfind] at hi'; cases hi'
      | some x => exact FMap.mem_of_find hfind
    rw [hcmd]
    exact h.2 _ hq i' hi'
  · exact h.2 e he i hi

theorem NoKeepers.congr {t : State} (hguard : t.guard = s.guard) (hwq : t.wq = s.wq) : NoKeepers t := by
  unfold NoKeepers; rw [hguard, hwq]; exact h

end

/-! ### The host memory window (R26, R340) -/

theorem inHost_part {s : State} {a n b m : Nat} (h : InHost s a n) (ha : a ≤ b) (hn : b + m ≤ a + n) : InHost s b m := by
  obtain ⟨hlo, hhi, hbase⟩ := h
  exact ⟨by omega, by omega, hbase⟩

theorem resolve_host {s : State} {a n : Nat} (h : InHost s a n) (hn : 0 < n) : ∃ bus, resolve s a = .host bus := by
  obtain ⟨hlo, hhi, hbase⟩ := h
  have h55 : bit a 55 = false := by unfold bit; rw [Nat.div_eq_of_lt (by omega)]; rfl
  have hbus : regGet s (hubReg 0x40) / 4096 * 4096 + (a - 0x40000000000) < 2 ^ 64 := by omega
  refine ⟨regGet s (hubReg 0x40) / 4096 * 4096 + (a - 0x40000000000), ?_⟩
  unfold resolve
  rw [h55, if_neg Bool.false_ne_true, if_pos (by omega)]
  unfold localLoc
  rw [if_neg (by omega), if_neg (by omega), if_neg (by omega), if_neg (by omega), if_pos (by omega)]
  exact if_pos hbus

/-- From `s` to `t` the host memory window stayed where it was, and no command or step came to keep memory to itself. -/
structure HostWork (s t : State) : Prop where
  base : regGet t (hubReg 0x40) = regGet s (hubReg 0x40)
  keepers : NoKeepers s → NoKeepers t

theorem HostWork.refl (s : State) : HostWork s s := ⟨rfl, id⟩

theorem HostWork.trans {s t u : State} (h : HostWork s t) (h' : HostWork t u) : HostWork s u :=
  ⟨h'.base.trans h.base, h'.keepers ∘ h.keepers⟩

theorem HostWork.inHost {s t : State} (h : HostWork s t) {a n : Nat} (hs : InHost s a n) : InHost t a n :=
  ⟨hs.1, hs.2.1, by rw [h.base]; exact hs.2.2⟩

theorem HostWork.of_regs {s t : State} (hbase : regGet t (hubReg 0x40) = regGet s (hubReg 0x40)) (hguard : t.guard = s.guard)
    (hwq : t.wq = s.wq) : HostWork s t := ⟨hbase, fun h => h.congr hguard hwq⟩

theorem hostWork_countBlocked (s : State) : HostWork s (count s (hubReg 0x60) 1) :=
  .of_regs (regGet_count_ne s 1 (by decide)) rfl rfl

theorem hostWork_bump (s : State) : HostWork s (bump s) := .of_regs rfl rfl rfl

theorem hostWork_noteItem (s : State) (q idx a n : Nat) : HostWork s (noteItem s q idx a n) :=
  ⟨rfl, fun h => h.updItem fun _ => rfl⟩

section
variable {s : State}

theorem readBlock_host {a n : Nat} (h : InHost s a n) (hn : 0 < n) : Succeeds (fun r => HostWork s r.2.2) (readBlock s none a n) := by
  obtain ⟨bus, hbus⟩ := resolve_host h hn
  unfold readBlock countXfer
  dsimp only
  rw [hbus]
  refine .ok ?_
  unfold readHost
  split
  · exact hostWork_bump s
  · exact hostWork_countBlocked s

theorem writeBlock_host {a n : Nat} (h : InHost s a n) (hn : 0 < n) (hfree : NoKeepers s) (bs : List Byte) :
    Succeeds (HostWork s) (writeBlock s none a bs) := by
  obtain ⟨bus, hbus⟩ := resolve_host h hn
  unfold writeBlock countXfer
  dsimp only
  rw [hbus]
  unfold writeHost
  dsimp only
  rw [hfree.writeBarred_none]
  refine .ok ?_
  unfold hostWrite
  split
  · exact .of_regs rfl rfl rfl
  · exact hostWork_countBlocked s

theorem readParts_host (fuel a n : Nat) (h : InHost s a n) :
    Succeeds (fun r => HostWork s r.2.2) (readParts s none (blocks fuel a n)) := by
  induction fuel generalizing s a n with
  | zero => exact .ok (.refl s)
  | succ fuel ih =>
    rw [blocks]
    split
    · exact .ok (.refl s)
    · refine (readBlock_host (inHost_part h le_rfl (by omega)) (by omega)).bind fun r hr => ?_
      exact (ih _ _ (hr.inHost (inHost_part h (by omega) (by omega)))).bind fun r' hr' => .pure (hr.trans hr')

theorem writeParts_host (fuel a n : Nat) (bs : List Byte) (h : InHost s a n) (hfree : NoKeepers s) :
    Succeeds (HostWork s) (writeParts s none bs (blocks fuel a n)) := by
  induction fuel generalizing s a n bs with
  | zero => exact .ok (.refl s)
  | succ fuel ih =>
    rw [blocks]
    split
    · exact .ok (.refl s)
    · refine (writeBlock_host (n := min n (256 - a % 256)) (inHost_part h le_rfl (by omega)) (by omega) hfree _).bind fun t ht => ?_
      exact (ih _ _ _ (ht.inHost (inHost_part h (by omega) (by omega))) (ht.keepers hfree)).imp fun u hu => ht.trans hu

theorem kernRead_host {a n : Nat} (h : InHost s a n) : Succeeds (fun r => HostWork s r.2.2) (kernRead s a n) :=
  readParts_host _ _ _ h

theorem kernWrite_host {a : Nat} {bs : List Byte} (h : InHost s a bs.length) (hfree : NoKeepers s) :
    Succeeds (HostWork s) (kernWrite s a bs) :=
  writeParts_host _ _ _ _ h hfree

end

/-! ### A GEMM in host memory (R300, R301) -/

theorem gemmLines_host {s : State} {fmt base ld sc k n : Nat} (hscale : gemmScaled fmt sc = false)
    (h : ∀ l, l < n → InHost s (base + l * ld) (k * fmtBits fmt / 8)) :
    Succeeds (fun r => HostWork s r.2) (gemmLines s fmt base ld sc k n) := by
  refine Succeeds.foldlM (Q := fun t : List (List KLine) × State => HostWork s t.2) (fun t l hl ht => ?_) (.refl s)
  refine Succeeds.bind (Q := fun r : List KLine × State => HostWork s r.2) ?_ fun r hr => .pure hr
  unfold gemmLine
  refine (kernRead_host (ht.inHost (h l (List.mem_range.1 hl)))).bind fun ⟨_, _, _⟩ hr => ?_
  dsimp only
  rw [hscale]
  exact .pure (ht.trans hr)

theorem elemBytes_mono (fmt : Nat) {m n : Nat} (h : m ≤ n) : elemBytes fmt m ≤ elemBytes fmt n := by
  unfold elemBytes
  exact Nat.div_le_div_right (Nat.add_le_add_right (Nat.mul_le_mul_right _ h) 7)

section
variable {s : State} {p : GemmP} {fc : Nat} (h2 : fc ≠ 2) (h3 : fc ≠ 3)
include h2 h3

theorem gemmOld_host {m : Nat} (h : InHost s (p.c + m * p.ldc) (elemBytes fc p.n)) :
    Succeeds (fun r => HostWork s r.2 ∧ r.1.length = p.n) (gemmOld s p fc m) := by
  unfold gemmOld
  split
  · exact .ok ⟨.refl s, List.length_replicate⟩
  · refine (kernRead_host h).bind fun ⟨_, _, _⟩ hr => ?_
    dsimp only
    rw [if_neg (by omega)]
    refine .pure ⟨hr, ?_⟩
    unfold rowValues
    rw [if_neg (by omega), List.length_map, List.length_map, List.length_range]

/-- A row of a format without scale groups has no scale byte, and no more codes than columns. -/
theorem gemmRow_size (open_ : Bool) (ps : List Pass) (a : List KLine) (bs : List (List KLine)) {old : List Num}
    (hold : old.length = p.n) (m : Nat) :
    (gemmRow s p fc open_ ps a bs old m).scales = [] ∧ (gemmRow s p fc open_ ps a bs old m).codes.length ≤ p.n := by
  have hscales : ∀ vs rnd, (convertRow fc false vs rnd).scales = [] := fun vs rnd => by
    unfold convertRow; dsimp only; rw [if_neg (by omega)]; rfl
  have hlen : (convertRow fc false (((bs.zip old).map fun x =>
      let v := dotLines (gemmSb4 p) ps a x.1
      if p.accum then numAdd v x.2 else v).map plusZero) fun j => rndOf p.round p.seed m j).codes.length ≤ p.n := by
    rw [length_convertRow_codes, List.length_map, List.length_map, List.length_zip]
    exact hold ▸ Nat.min_le_right _ _
  unfold gemmRow
  dsimp only
  split
  · exact ⟨hscales _ _, hlen⟩
  · rw [hscales, List.length_map, List.length_zip, List.length_range, Nat.min_self]
    exact ⟨rfl, hlen⟩

theorem gemmRows_host {q idx : Nat} (doubt : List KLine → Bool) (ps : List Pass) (as bs : List (List KLine)) (rep : Report)
    (hfree : NoKeepers s) (h : ∀ l, l < p.m → InHost s (p.c + l * p.ldc) (elemBytes fc p.n)) :
    Succeeds (fun r => HostWork s r.1) (gemmRows s q idx p fc doubt ps as bs rep) := by
  refine Succeeds.foldlM (Q := fun t : State × Report => HostWork s t.1) (fun t x hx ht => ?_) (.refl s)
  have hrow : InHost t.1 (p.c + x.2 * p.ldc) (elemBytes fc p.n) :=
    ht.inHost (h x.2 (List.mem_range.1 (List.of_mem_zip hx).2))
  refine (gemmOld_host h2 h3 hrow).bind fun r hr => ?_
  obtain ⟨hread, hold⟩ := hr
  refine Succeeds.bind (Q := HostWork s) ?_ fun u hu => .pure hu
  obtain ⟨hscales, hcodes⟩ := gemmRow_size (s := r.2) h2 h3 (doubt x.1) ps x.1 bs hold x.2
  have hnote := (ht.trans hread).trans (hostWork_noteItem r.2 q idx (p.c + x.2 * p.ldc)
    (packCodes (fmtBits fc) (gemmRow r.2 p fc (doubt x.1) ps x.1 bs r.1 x.2).codes (Config.freeNat r.2.free x.2 % 16)).length)
  unfold putGemmRow
  refine (kernWrite_host (hnote.inHost (inHost_part (h x.2 (List.mem_range.1 (List.of_mem_zip hx).2)) le_rfl ?_))
    (hnote.keepers hfree)).bind fun u hu => ?_
  · rw [length_packCodes]
    exact Nat.add_le_add_left (elemBytes_mono fc hcodes) _
  · rw [hscales]
    exact .ok (hnote.trans hu)

end

/-- A GEMM whose operands and result lie in host memory without scale groups has a result. -/
theorem gemmEffect_host {s : State} (q : Nat) {i : Item} {p : GemmP} (hok : gemmOk p (outFmt i p.fc) = true)
    (hplan : (gemmPasses p).isSome = true) (ha : gemmScaled p.fa p.asc = false) (hb : gemmScaled p.fb p.bsc = false)
    (h2 : outFmt i p.fc ≠ 2) (h3 : outFmt i p.fc ≠ 3)
    (hA : ∀ l, l < p.m → InHost s (p.a + l * p.lda) (p.k * fmtBits p.fa / 8))
    (hB : ∀ l, l < p.n → InHost s (p.b + l * p.ldb) (p.k * fmtBits p.fb / 8))
    (hC : ∀ l, l < p.m → InHost s (p.c + l * p.ldc) (elemBytes (outFmt i p.fc) p.n)) (hfree : NoKeepers s) :
    ∃ u, gemmEffect s q i p = .ok u := by
  obtain ⟨ps, hps⟩ := Option.isSome_iff_exists.1 hplan
  suffices h : Succeeds (fun _ => True) (gemmEffect s q i p) by
    obtain ⟨u, hu, -⟩ := h
    exact ⟨u, hu⟩
  unfold gemmEffect
  dsimp only
  rw [hok, hps]
  refine (gemmLines_host ha hA).bind fun r1 h1 => ?_
  refine (gemmLines_host hb fun l hl => h1.inHost (hB l hl)).bind fun r2 hr2 => ?_
  have hread : HostWork s (bump r2.2) := (h1.trans hr2).trans (hostWork_bump _)
  refine (gemmRows_host h2 h3 _ ps _ _ _ (hread.keepers hfree) fun l hl => hread.inHost (hC l hl)).bind fun r3 _ => ?_
  exact .ok trivial

/-! ### A REDUCE whose sources lie in host memory (R301) -/

/-- A run of a rectangle begins at one of its columns. -/
theorem redsRuns_col {h : RedsHead} {r : Nat × Nat} (hr : r ∈ redsRuns h) : r.2 < h.cols := by
  simp only [redsRuns, List.mem_flatMap, List.mem_map, List.mem_range] at hr
  obtain ⟨-, -, k, hk, rfl⟩ := hr
  have hpos : 0 < runElems h.efmt := Nat.pos_of_ne_zero fun h0 => by rw [h0, Nat.div_zero] at hk; omega
  have hle := (Nat.le_div_iff_mul_le hpos).1 (Nat.succ_le_of_lt hk)
  rw [Nat.succ_mul] at hle
  change k * runElems h.efmt < h.cols
  omega

theorem hostWork_updCore (s : State) (c : Nat) (f : CoreSt → CoreSt) : HostWork s (updCore s c f) := .of_regs rfl rfl rfl

theorem hostWork_usedCore (s : State) (c : Nat) : HostWork s (usedCore s c) := by
  refine .of_regs ?_ rfl rfl
  have hne : ∀ off, off < 0x10000 → hubReg 0x40 ≠ coreReg c off := fun off hoff => by
    unfold hubReg coreReg sheafWin; omega
  exact (regGet_regSet_ne _ _ (hne 0x208 (by decide))).trans (regGet_regSetFld_ne _ 3 0 _ (hne 0x200 (by decide)))

theorem sendSource_host {s : State} (h : RedsHead) {src : Nat} (hsrc : InHost s src (h.cols * slotBytes h.efmt)) :
    Succeeds (HostWork s) (sendSource h src s) := by
  refine Succeeds.foldlM (fun t r hr ht => ?_) (.refl s)
  have hcol := redsRuns_col hr
  have hin : r.2 * slotBytes h.efmt + min (runElems h.efmt) (h.cols - r.2) * slotBytes h.efmt ≤ h.cols * slotBytes h.efmt := by
    rw [← Nat.add_mul]
    exact Nat.mul_le_mul_right _ (by omega)
  refine Succeeds.bind (Q := fun x : List SrcElem × State => HostWork s x.2) ?_ fun x hx => .ok (hx.trans (.of_regs rfl rfl rfl))
  exact (kernRead_host (inHost_part (ht.inHost hsrc) (by omega) (by omega))).bind fun y hy => .pure (ht.trans hy)

theorem sendRank_host {s : State} (q : Nat) (i : Item) {p : ReduceP} (c : Nat × Nat)
    (h : ∀ k, k < p.nsrc → InHost s (p.src + k * p.sstride) (p.elems * slotBytes p.efmt)) :
    Succeeds (HostWork s) (sendRank q i p s c) := by
  unfold sendRank
  dsimp only
  refine Succeeds.foldlM (fun t k hk ht => ?_) ((hostWork_usedCore s c.1).trans (hostWork_updCore _ c.1 _))
  have hsrc := ht.inHost (h k (List.mem_range.1 (List.mem_filter.1 hk).1))
  exact (sendSource_host (reduceHead (queueAt s q) p c.1 c.2 (coreAt s c.1).nextSeq) hsrc).imp fun u hu => ht.trans hu

theorem reduceEffect_host {s : State} (q : Nat) (i : Item) {p : ReduceP} (hsrc : p.nsrc ≠ 0) (hfmt : p.efmt ≤ 3)
    (helems : p.elems ≠ 0) (hdst : reduceDst s p = .ok ())
    (h : ∀ k, k < p.nsrc → InHost s (p.src + k * p.sstride) (p.elems * slotBytes p.efmt)) :
    ∃ u, reduceEffect s q i p = .ok u := by
  have hrun : Succeeds (HostWork s) ((i.targets.zip (List.range i.targets.length)).foldlM (sendRank q i p) s) := by
    refine Succeeds.foldlM (fun t c _ ht => ?_) (.refl s)
    exact (sendRank_host q i c fun k hk => ht.inHost (h k hk)).imp fun u hu => ht.trans hu
  obtain ⟨t, ht, -⟩ := hrun
  unfold reduceEffect
  rw [if_neg (by omega), if_neg helems, hdst]
  simp only [bind, Except.bind, ht]
  exact ⟨_, rfl⟩

/-! ### The commands at their dispatch (R299, R301) -/

section Dispatched
variable {s : State} {q idx : Nat} {i : Item} (hb : Begins s q idx i) (hfree : targetsFree s q idx = true)
include hb hfree

theorem exec_gemm {p : GemmP} (hcmd : i.cmd = .gemm p) : exec (.gemm q idx) s = toOut s (gemmEffect s q i p) := by
  have hp : isGemm i.cmd = true := by rw [hcmd]; rfl
  refine (actE_pos hb.1 (by rw [begins_of_Begins hb hp, hfree]; rfl)).trans ?_
  unfold runGemm
  rw [hb.2.2.1]
  dsimp only
  rw [hcmd]

theorem exec_attend {p : AttendP} (hcmd : i.cmd = .attend p) : exec (.attend q idx) s = toOut s (attendEffect s q i p) := by
  have hp : isAttend i.cmd = true := by rw [hcmd]; rfl
  refine (actE_pos hb.1 (by rw [begins_of_Begins hb hp, hfree]; rfl)).trans ?_
  unfold runAttend
  rw [hb.2.2.1]
  dsimp only
  rw [hcmd]

theorem exec_reduce {p : ReduceP} (hcmd : i.cmd = .reduce p) : exec (.reduce q idx) s = toOut s (reduceEffect s q i p) := by
  have hp : isReduce i.cmd = true := by rw [hcmd]; rfl
  refine (actE_pos hb.1 (by rw [begins_of_Begins hb hp, hfree]; rfl)).trans ?_
  unfold runReduce
  rw [hb.2.2.1]
  dsimp only
  rw [hcmd]

/-- An ATTEND of no sequence has nothing to read or write. -/
theorem attend_none {p : AttendP} (hcmd : i.cmd = .attend p) (hok : attendOk p = true) (hplans : attendPlans p = true)
    (hseq : p.nseq = 0) : Completes (.attend q idx) s fun t => Ended t q idx stOk := by
  have heffect : attendEffect s q i p = .ok (endItem (usedCores (bump s) q i.idx) q i.idx stOk) := by
    unfold attendEffect
    rw [hok, hplans, hseq]
    rfl
  refine ⟨_, (exec_attend hb hfree hcmd).trans (by rw [heffect]; rfl), ?_⟩
  exact (attendEffect_done p hb.2.2.1 _ heffect).ended

/-- A REDUCE of no element ends at once. -/
theorem reduce_none {p : ReduceP} (hcmd : i.cmd = .reduce p) (hsrc : p.nsrc ≠ 0) (hfmt : p.efmt ≤ 3) (helems : p.elems = 0) :
    Completes (.reduce q idx) s fun t => OnlyEnded s t q idx stOk := by
  refine ⟨endItem s q idx stOk, (exec_reduce hb hfree hcmd).trans ?_, onlyEnded_endItem stOk hb.2.2.1 rfl⟩
  unfold reduceEffect
  rw [if_neg (by omega), if_pos helems, idx_of_itemAt hb.2.2.1]
  rfl

theorem builtIn_undefined :
    (∀ p, i.cmd = .gemm p → gemmOk p (outFmt i p.fc) = false → Undefined (.gemm q idx) s 48)
      ∧ (∀ p, i.cmd = .gemm p → gemmOk p (outFmt i p.fc) = true → gemmPasses p = none → Undefined (.gemm q idx) s 11)
      ∧ (∀ p, i.cmd = .attend p → attendOk p = false → Undefined (.attend q idx) s 48)
      ∧ (∀ p, i.cmd = .reduce p → (p.nsrc = 0 ∨ 3 < p.efmt) → Undefined (.reduce q idx) s 48) := by
  refine ⟨fun p hcmd hok => (exec_gemm hb hfree hcmd).trans ?_, fun p hcmd hok hplan => (exec_gemm hb hfree hcmd).trans ?_,
    fun p hcmd hok => (exec_attend hb hfree hcmd).trans ?_, fun p hcmd hbad => (exec_reduce hb hfree hcmd).trans ?_⟩
  · unfold gemmEffect
    dsimp only
    rw [hok]
    rfl
  · unfold gemmEffect
    dsimp only
    rw [hok, hplan]
    rfl
  · unfold attendEffect
    rw [hok]
    rfl
  · unfold reduceEffect
    rw [if_pos hbad]
    rfl

end Dispatched

/-! ### The obligation -/

/-- Settles O25: what each kernel's reads, writes and cores keep, the results that host memory gives them, and their undefined
operands. -/
theorem builtInKernels : Obligations.BuiltInKernels := by
  unfold Obligations.BuiltInKernels
  refine ⟨?_, fun q idx s i p _ _ _ hok hplan ha hb h2 h3 => gemmEffect_host q hok hplan ha hb h2 h3, ?_,
    fun q idx s i p hb hcmd hfree => attend_none hb hfree hcmd, ?_, fun q idx s i p _ _ _ => reduceEffect_host q i,
    fun q idx s i p hb hcmd hfree => reduce_none hb hfree hcmd, fun q idx s i hb hfree => builtIn_undefined hb hfree, ?_⟩
  · intro q idx s u i p hb hcmd hfree hu
    have h := gemmEffect_done p hb.2.2.1 u hu
    exact ⟨u, (exec_gemm hb hfree hcmd).trans (by rw [hu]; rfl), rfl, h.others, h.boot, h.job, h.cleared, h.ended, h.reported⟩
  · intro q idx s u i p hb hcmd hfree hu
    have h := attendEffect_done p hb.2.2.1 u hu
    exact ⟨u, (exec_attend hb hfree hcmd).trans (by rw [hu]; rfl), rfl, h.ended, h.others, h.boot, h.job, h.guard, h.cleared⟩
  · intro q idx s u i p hb hcmd hfree helems hu
    have h := reduceEffect_sent hb.2.2.1 helems hu
    exact ⟨u, (exec_reduce hb hfree hcmd).trans (by rw [hu]; rfl), rfl, h.item, h.others, h.boot, h.job, h.running⟩
  · intro q idx s hbusy
    exact ⟨actE_neg (by rw [hbusy, Bool.and_false]), actE_neg (by rw [hbusy, Bool.and_false]),
      actE_neg (by rw [hbusy, Bool.and_false])⟩

end Sys2Proof.Machine

namespace Sys2Proof.Machine

/-! ## Held steps, firmware images, the known-answer test and the board controller (O20): R187, R188, R195, R348, R432, R442, R453 -/

/-! ### Commands that several kinds of pail may carry -/

section
variable {s u : State} {r : PailReq} {i : Instr}

/-- A command that the firmware takes on a pail of an admitted kind, in a state that admits it, has its effect. -/
theorem pailOut_gated {k : PailKind → Bool} {l : List DevState} (e : State → Except Halt State) (h : Takes s r)
    (hk : k (pailKind s r.pail) = true) (hl : s.boot.dev ∈ l) :
    pailOut s r i (fun s => gated s r k l (e s)) = toOut s (e (writePage s r i)) := by
  rw [pailOut_takes h]
  exact congrArg (toOut s) (gated_pos (s := writePage s r i) h.2.2 hk hl)

/-- An answer leaves the pages of the other pails, the message of its vector and its count. -/
theorem onlyAnswered_answer (s : State) (r : PailReq) (k : Nat) (bs : List Byte) : OnlyAnswered s (answer s r k bs) r := by
  refine ⟨answer_frame _ _ _ _, fun p hp => ?_, ?_, ?_, regsKept_answer s r k bs⟩
  · rw [pageAt_answer, pageAt_setPage_ne _ _ hp]
  · rw [answer_pails]; rfl
  · rw [answer_pails]; rfl

end

/-! ### GUARD_CONFIG RESOLVE (R188, R190, R195) -/

section
variable {s u : State} {r : PailReq} {i : Instr} {q : Nat} {eff : State → Nat → Step → Except Halt State}
variable (h : Takes s r) (hk : pailKind s r.pail = .admin) (hd : s.boot.dev = .job)
include h hk hd

theorem resolveStep_none (hheld : heldStep s q = none) :
    pailOut s r i (fun s => resolveStep s r q eff) = .next (answer (writePage s r i) r stBadState []) := by
  have hpage : heldStep (writePage s r i) q = none := hheld
  refine (pailOut_admin _ h hk (by rw [hd]; exact List.mem_singleton_self _)).trans ?_
  rw [hpage]
  rfl

theorem resolveStep_held {st : Step} (hheld : heldStep s q = some st) (heff : eff (writePage s r i) q st = .ok u) :
    pailOut s r i (fun s => resolveStep s r q eff) = .next (answer (resumeQueue u q) r stOk []) := by
  have hpage : heldStep (writePage s r i) q = some st := hheld
  refine (pailOut_admin _ h hk (by rw [hd]; exact List.mem_singleton_self _)).trans ?_
  rw [hpage]
  dsimp only
  rw [heff]
  rfl

end

/-- A queue that resumes is ACTIVE, and its answer touches neither the guard nor memory. -/
theorem resumed_spec (u : State) (r : PailReq) (q : Nat) :
    let t := answer (resumeQueue u q) r stOk []
    (queueAt t q).st = .active ∧ Answered t r stOk [] ∧ t.guard = u.guard ∧ t.mem = u.mem := by
  refine ⟨?_, answer_answered _ _ _ _, answer_guard .., answer_mem ..⟩
  unfold queueAt
  rw [answer_wq]
  show (queueAt (resumeQueue u q) q).st = .active
  simp only [resumeQueue, passHead, updQueue, queueAt_setQueue_same]

/-! ### FW_UPDATE (R437, R453) -/

/-- What FW_UPDATE makes of the bytes that it read: the record of an image that does not verify, the refusal of one out of the
fuses' range, the failure of a flash that does not read back, or the image written. -/
def fwJudged (u : State) (r : PailReq) (p : FwP) (bs : List Byte) (bad : Bool) : State :=
  let i := imageOf bs
  if bad || !i.sigOk || !i.magicOk || i.len != p.len then pailFails u r 0x61 0x72
  else if i.svn < u.flash.fuses ∨ 64 < i.svn then answer u r stBadState []
  else if !p.flashOk then pailFails (writeImage u p.recovery { i with sigOk := false }) r 0x60 0x72
  else answer (activate (writeImage u p.recovery i) p) r stOk []

theorem mem_devStates_of_ne_boot {d : DevState} (h : d ≠ .boot) : d ∈ [DevState.configReady, .ready, .job, .faulted, .safe] := by
  cases d <;> simp at h ⊢

theorem exec_fwUpdate {s u : State} {r : PailReq} {p : FwP} {bs : List Byte} {bad : Bool} (h : Takes s r)
    (hk : adminOob (pailKind s r.pail) = true) (hlen : p.len ≤ if p.recovery then 2 ^ 23 else 2 ^ 24) (hsrc : p.src % 32 = 0)
    (hread : devRead (writePage s r (.fwUpdate r p)) p.src p.len = .ok (bs, bad, u)) :
    exec (.fwUpdate r p) s = .next (fwJudged u r p bs bad) := by
  refine (pailOut_gated _ h hk (mem_devStates_of_ne_boot h.2.2)).trans ?_
  rw [if_neg (Nat.not_lt.2 hlen), if_neg (not_not.2 hsrc), hread]
  show toOut s (if _ then _ else _) = _
  unfold fwJudged
  dsimp only
  split
  · rfl
  · split
    · rfl
    · split <;> rfl

section
variable (u : State) {r : PailReq} {p : FwP} {bs : List Byte}

theorem fwJudged_fails {bad : Bool}
    (hbad : bad = true ∨ (imageOf bs).sigOk = false ∨ (imageOf bs).magicOk = false ∨ (imageOf bs).len ≠ p.len) :
    fwJudged u r p bs bad = pailFails u r 0x61 0x72 := by
  refine if_pos ?_
  rcases hbad with h | h | h | h <;> simp [h]

section
variable (hsig : (imageOf bs).sigOk = true) (hmagic : (imageOf bs).magicOk = true) (hlen : (imageOf bs).len = p.len)
include hsig hmagic hlen

theorem fwJudged_verified : fwJudged u r p bs false
    = if (imageOf bs).svn < u.flash.fuses ∨ 64 < (imageOf bs).svn then answer u r stBadState []
      else if !p.flashOk then pailFails (writeImage u p.recovery { imageOf bs with sigOk := false }) r 0x60 0x72
      else answer (activate (writeImage u p.recovery (imageOf bs)) p) r stOk [] :=
  if_neg (by simp [hsig, hmagic, hlen])

theorem fwJudged_old (hsvn : (imageOf bs).svn < u.flash.fuses) : fwJudged u r p bs false = answer u r stBadState [] := by
  rw [fwJudged_verified u hsig hmagic hlen, if_pos (.inl hsvn)]

theorem fwJudged_written (hlo : u.flash.fuses ≤ (imageOf bs).svn) (hhi : (imageOf bs).svn ≤ 64) (hflash : p.flashOk = true) :
    fwJudged u r p bs false = answer (activate (writeImage u p.recovery (imageOf bs)) p) r stOk [] := by
  rw [fwJudged_verified u hsig hmagic hlen, if_neg (by omega), if_neg (by simp [hflash])]

end

end

/-- A recovery image replaces the recovery image alone. -/
theorem flash_writeRecovery (u : State) {p : FwP} (i : FlashImage) (h : p.recovery = true) :
    (activate (writeImage u p.recovery i) p).flash = { u.flash with recovery := i } := by
  unfold activate
  rw [h, Bool.not_true, Bool.and_false]
  rfl

theorem otherSlot_writeMain (u : State) (i : FlashImage) : otherSlot (writeImage u false i) = otherSlot u := by
  have hflash : (writeImage u false i).flash.activeB = u.flash.activeB := by
    unfold writeImage
    split
    · contradiction
    · split <;> rfl
  have hboot : (writeImage u false i).boot = u.boot := by
    unfold writeImage
    split
    · contradiction
    · split <;> rfl
  unfold otherSlot
  rw [hflash, hboot]

/-- A main image replaces the one that the device does not run from; the header names it once it is activated. -/
theorem flash_writeMain (u : State) {p : FwP} (i : FlashImage) (h : p.recovery = false) :
    let t := activate (writeImage u p.recovery i) p
    mainImage t (otherSlot u) = i ∧ mainImage t (!otherSlot u) = mainImage u (!otherSlot u) ∧ t.flash.recovery = u.flash.recovery
      ∧ t.flash.activeB = if p.activate then otherSlot u else u.flash.activeB := by
  have hother := otherSlot_writeMain u i
  dsimp only
  unfold activate
  rw [h, hother]
  unfold writeImage mainImage
  cases hslot : otherSlot u <;> cases hact : p.activate <;> simp

/-- A list that drops what is beyond `n` from its front keeps its last value. -/
theorem getLast?_drop_concat {α : Type} (l : List α) (x : α) {n : Nat} (hn : 0 < n) :
    ((l ++ [x]).drop ((l ++ [x]).length - n)).getLast? = some x := by
  have hlen : (l ++ [x]).length = l.length + 1 := List.length_append
  rw [List.getLast?_drop, if_neg (by omega), List.getLast?_concat]

/-- A record that is formed is the last one (R461). -/
theorem noteRecord_last (s : State) (kind cause unit detail : Nat) :
    ∃ f, (noteRecord s kind cause unit detail).fault.records.getLast? = some f ∧ f.kind = kind ∧ f.cause = cause := by
  unfold noteRecord writeRecord
  dsimp only
  rw [pldmEvent_fault, devEvent_fault, getLast?_drop_concat _ _ (by decide)]
  exact ⟨_, rfl, rfl, rfl⟩

/-- The answer of a command that fails in hardware: FAULT, and a record of a pail's failure (R280). -/
theorem pailFails_spec (u : State) (r : PailReq) (cause opcode : Nat) :
    let t := pailFails u r cause opcode
    Answered t r stFault [] ∧ t.flash = u.flash
      ∧ ∃ f, t.fault.records.getLast? = some f ∧ f.kind = 6 ∧ f.cause = cause := by
  refine ⟨answer_answered _ _ _ _, ?_, ?_⟩
  · unfold pailFails
    simp
  · unfold pailFails
    rw [answer_fault]
    exact noteRecord_last u 6 cause r.pail opcode

/-! ### KAT_RUN (R441, R442) -/

/-- The answer of KAT_RUN: the counts of cores that pass and that fail, and the bitmap of those that fail. -/
def katAnswer (s : State) (l : List Nat) : List Byte :=
  leBytes 2 ((enabledCores s).length - (l.filter fun c => coreEnabled s c).eraseDups.length)
    ++ leBytes 2 (l.filter fun c => coreEnabled s c).eraseDups.length ++ zeros 4
    ++ leBytes 128 (maskOf (l.filter fun c => coreEnabled s c).eraseDups)

theorem exec_katRun {s : State} {r : PailReq} {l : List Nat} (h : Takes s r) (hk : adminOob (pailKind s r.pail) = true)
    (hd : s.boot.dev = .ready) :
    exec (.katRun r l) s = .next (answer (runKat (writePage s r (.katRun r l)) l) r stOk (katAnswer s l)) :=
  pailOut_gated (fun s => .ok (answer (runKat s l) r stOk (katAnswer s l))) h hk (by rw [hd]; exact List.mem_singleton_self _)

/-- The test takes each enabled core that fails out of use and lists it, and leaves no byte of an SRAM defined. -/
theorem runKat_spec (s : State) (l : List Nat) :
    (∀ c, coreEnabled (runKat s l) c = (coreEnabled s c && !l.contains c)) ∧ (runKat s l).boot.dev = s.boot.dev
      ∧ (∀ c ∈ l, coreEnabled s c = true → ∃ x ∈ (runKat s l).flash.retired, x.kind = 0 ∧ x.number = c)
      ∧ ∀ k, 0x20000000000 ≤ k → k < 0x20400000000 → FMap.find (runKat s l).mem k = none := by
  have hboot : (runKat s l).boot = { s.boot with
      disabledCores := s.boot.disabledCores ++ (l.filter fun c => coreEnabled s c).eraseDups } := failCores_boot _ _
  refine ⟨fun c => ?_, by rw [hboot], fun c hc hen => ?_, fun k hlo hhi => ?_⟩
  · simp only [coreEnabled, hboot]
    refine used_append _ l _ c ?_
    simp only [List.mem_eraseDups, List.mem_filter]
  · refine ⟨⟨0, 1, c, 0, boots s⟩, ?_, rfl, rfl⟩
    rw [runKat, failCores_retired]
    exact List.mem_append_right _ (List.mem_map.2 ⟨c, List.mem_eraseDups.2 (List.mem_filter.2 ⟨hc, hen⟩), rfl⟩)
  · have hmem : (runKat s l).mem = (undefSram s).mem := mem_of_view (view_foldl view_failCore _ (undefSram s))
    rw [hmem]
    exact find_undefSram hlo hhi

theorem katRun_completes {s : State} {r : PailReq} {l : List Nat} (h : Takes s r) (hk : adminOob (pailKind s r.pail) = true)
    (hd : s.boot.dev = .ready) :
    Completes (.katRun r l) s fun t =>
      (∀ c, coreEnabled t c = (coreEnabled s c && !l.contains c)) ∧ t.boot.dev = .ready
        ∧ (∀ c ∈ l, coreEnabled s c = true → ∃ x ∈ t.flash.retired, x.kind = 0 ∧ x.number = c)
        ∧ (∀ k, 0x20000000000 ≤ k → k < 0x20400000000 → FMap.find t.mem k = none)
        ∧ Answered t r stOk (katAnswer s l) := by
  obtain ⟨hcores, hdev, hretired, hsram⟩ := runKat_spec (writePage s r (.katRun r l)) l
  refine ⟨_, exec_katRun h hk hd, ?_⟩
  dsimp only
  unfold coreEnabled
  rw [answer_boot, answer_flash, answer_mem]
  exact ⟨hcores, hdev.trans hd, hretired, hsram, answer_answered _ _ _ _⟩

/-! ### PLDM_REQUEST (R348, R431, R432) -/

theorem exec_pldmRequest {q : PldmReq} {s : State} (hp : powered s = true) (hoff : s.boot.phase ≠ .off)
    (hstuck : s.boot.phase ≠ .stuck) : exec (.pldmRequest q) s = .next (pldm s q) :=
  act_pos hp (by simp [hoff, hstuck])

theorem pldm_board (s : State) (q : PldmReq) : pldm s q = { s with board := (pldm s q).board } := by
  cases q with
  | control => rfl
  | sensor id => rfl
  | event =>
    show readEvent s = { s with board := (readEvent s).board }
    unfold readEvent
    split <;> rfl

theorem readEvent_oldest {s : State} {e : PldmEvt} {es : List PldmEvt} (h : s.board.events = e :: es) :
    (readEvent s).board = { s.board with answer := eventWords s.board.lost e, events := es, lost := 0, alert := !es.isEmpty } := by
  unfold readEvent
  rw [h]

theorem pldmRequest_completes {q : PldmReq} {s : State} (hp : powered s = true) (hoff : s.boot.phase ≠ .off)
    (hstuck : s.boot.phase ≠ .stuck) :
    Completes (.pldmRequest q) s fun t =>
      t = { s with board := t.board }
        ∧ (q = .control → t.board.answer = [0x60 + s.boot.straps.bmcAddr] ∧ t.board.events = s.board.events)
        ∧ (∀ e es, q = .event → s.board.events = e :: es →
            t.board.answer = eventWords s.board.lost e ∧ t.board.events = es ∧ t.board.lost = 0 ∧ t.board.alert = !es.isEmpty)
        ∧ (∀ id, q = .sensor id → t.board.events = s.board.events
            ∧ t.board.answer = match sensorValue s id with
              | some v => [id, v]
              | none => [id]) := by
  refine ⟨_, exec_pldmRequest hp hoff hstuck, pldm_board s q, ?_, ?_, ?_⟩
  · rintro rfl
    exact ⟨rfl, rfl⟩
  · rintro e es rfl hevents
    have hboard : (pldm s .event).board = _ := readEvent_oldest hevents
    rw [hboard]
    exact ⟨rfl, rfl, rfl, rfl⟩
  · rintro id rfl
    refine ⟨rfl, ?_⟩
    show (match sensorValue s id with
      | some v => [id, v]
      | none => [id]) = _
    rfl

/-! ### The obligation -/

/-- Settles O20, command by command: what each makes of the held step, the image, the cores or the board, and its answer. -/
theorem resolveFirmwareKat : Obligations.ResolveFirmwareKat := by
  unfold Obligations.ResolveFirmwareKat
  refine ⟨fun r q s u st h hk hd hheld => ⟨fun hu => ?_, fun hu => ?_⟩, fun r q s h hk hd hheld => ⟨?_, ?_⟩, ?_,
    fun r l s h hk hd => katRun_completes h hk hd, fun q s hp hoff hstuck => pldmRequest_completes hp hoff hstuck⟩
  · exact ⟨_, resolveStep_held h hk hd hheld hu, resumed_spec u r q⟩
  · exact ⟨_, resolveStep_held h hk hd hheld hu, resumed_spec u r q⟩
  · exact answers_of_exec (resolveStep_none h hk hd hheld)
  · exact answers_of_exec (resolveStep_none h hk hd hheld)
  · intro r p s u bs bad h hk hlen hsrc hread
    have hexec := exec_fwUpdate h hk hlen hsrc hread
    refine ⟨fun hgood hsig hmagic hsize => ⟨fun hlo hhi hflash => ⟨_, hexec, ?_⟩, fun hold => ⟨_, hexec, ?_⟩⟩,
      fun hbad => ⟨_, hexec, ?_⟩⟩
    · rw [hgood, fwJudged_written u hsig hmagic hsize hlo hhi hflash]
      dsimp only
      unfold mainImage
      rw [answer_flash]
      exact ⟨answer_answered _ _ _ _, flash_writeRecovery u _, flash_writeMain u _⟩
    · rw [hgood, fwJudged_old u hsig hmagic hsize hold]
      exact ⟨answer_answered _ _ _ _, onlyAnswered_answer u r _ _⟩
    · rw [fwJudged_fails u hbad]
      exact pailFails_spec u r 0x61 0x72

end Sys2Proof.Machine

namespace Sys2Proof.Machine

/-! ## What an agent's accesses to memory do not reach: the pails, the queue of commands, and the guard's registers (R25, R253, R277) -/

/-! ### Registers outside the guard's block (Table 6.8) -/

/-- A register is none of the guard's. -/
def OffGuard (a : Nat) : Prop := ∀ o, 0x40000 ≤ o → o < 0x50000 → hubReg o ≠ a

theorem offGuard_sheafWin (h : Nat) {off : Nat} (hoff : off < 0x1140000) : OffGuard (sheafWin h off) := by
  intro o hlo hhi
  unfold hubReg sheafWin
  omega

theorem offGuard_vltReg (v : Nat) {off : Nat} (h : off < 0x1000) : OffGuard (vltReg v off) :=
  offGuard_sheafWin _ (by omega)

/-- An entry of a vault's error log. -/
theorem offGuard_vltLog (v : Nat) {i : Nat} (h : i < 16) : OffGuard (vltReg v 0x100 + 8 * i) := by
  have hentry : vltReg v 0x100 + 8 * i = vltReg v (0x100 + 8 * i) := by unfold vltReg sheafWin; omega
  rw [hentry]
  exact offGuard_vltReg v (by omega)

theorem offGuard_slogReg (c : Nat) {off : Nat} (h : off < 0x80) : OffGuard (slogReg c off) :=
  offGuard_sheafWin _ (by omega)

/-- An entry of the error log of a core's SRAM. -/
theorem offGuard_slogLog (c : Nat) {i : Nat} (h : i < 8) : OffGuard (slogReg c 0x40 + 8 * i) := by
  have hentry : slogReg c 0x40 + 8 * i = slogReg c (0x40 + 8 * i) := by unfold slogReg rngReg sheafWin; omega
  rw [hentry]
  exact offGuard_slogReg c (by omega)

theorem offGuard_vltCtr (v : Nat) {n : Nat} (h : n < 8) : OffGuard (vltCtr v n) := offGuard_sheafWin _ (by omega)

theorem offGuard_stopCtr (h : Nat) {p n : Nat} (hp : p < 256) (hn : n < 4) : OffGuard (stopCtr h p n) :=
  offGuard_sheafWin _ (by omega)

theorem offGuard_hubReg {off : Nat} (h : off < 0x40000) : OffGuard (hubReg off) := by
  intro o hlo _
  unfold hubReg sheafWin
  omega

theorem offGuard_blocked : OffGuard (hubReg 0x60) := offGuard_hubReg (by decide)

/-! ### The view -/

/-- The pails, the queue of commands, and the guard's registers. -/
def hubView (s : State) : Pails × List Instr × (Fin 0x10000 → Nat) :=
  (s.pails, s.pending, fun o => regGet s (hubReg (0x40000 + o)))

/-- An update of other fields keeps the view. -/
@[simp] theorem hubView_update (s : State) (free mem marks boot flash fault job cores vaults rings pages guard wq links stoby time
    host board power doms thermal wear pmc) :
    hubView ⟨s.pending, free, mem, marks, s.regs, boot, flash, fault, job, cores, vaults, rings, pages, guard, s.pails, wq, links,
      stoby, time, host, board, power, doms, thermal, wear, pmc⟩ = hubView s := (rfl)

theorem hubView_congr {s t : State} (hpails : t.pails = s.pails) (hpending : t.pending = s.pending) (hregs : t.regs = s.regs) :
    hubView t = hubView s := by
  have hget : regGet t = regGet s := funext (regGet_congr hregs)
  unfold hubView
  rw [hpails, hpending, hget]

theorem pails_of_hubView {s t : State} (h : hubView t = hubView s) : t.pails = s.pails := congrArg Prod.fst h

theorem pending_of_hubView {s t : State} (h : hubView t = hubView s) : t.pending = s.pending := congrArg (·.2.1) h

theorem regGet_of_hubView {s t : State} (h : hubView t = hubView s) {o : Nat} (hlo : 0x40000 ≤ o) (hhi : o < 0x50000) :
    regGet t (hubReg o) = regGet s (hubReg o) := by
  have := congrFun (congrArg (·.2.2) h) ⟨o - 0x40000, by omega⟩
  simpa only [hubView, Nat.add_sub_cancel' hlo] using this

/-! ### Functions that keep the view -/

section
variable (s : State)

theorem hubView_regSet {a : Nat} (v : Nat) (h : OffGuard a) : hubView (regSet s a v) = hubView s := by
  have hget : ∀ o : Fin 0x10000, regGet (regSet s a v) (hubReg (0x40000 + o)) = regGet s (hubReg (0x40000 + o)) := fun o =>
    regGet_regSet_ne s v (h _ (by omega) (by omega))
  simp only [hubView, hget, regSet_pails, regSet_pending]

theorem hubView_count {a : Nat} (n : Nat) (h : OffGuard a) : hubView (count s a n) = hubView s := hubView_regSet s _ h

theorem hubView_event {f c : Nat} (i : Nat) (hf : OffGuard f) (hc : OffGuard c) : hubView (event s f i c) = hubView s :=
  (hubView_count _ 1 hc).trans (hubView_regSet s _ hf)

theorem hubView_logCorrected {base n : Nat} (same : Nat → Bool) (entry : Nat) {ovf : Nat} (ob : Nat) {octr : Nat}
    (hlog : ∀ i, i < n → OffGuard (base + 8 * i)) (hovf : OffGuard ovf) (hctr : OffGuard octr) :
    hubView (logCorrected s base n same entry ovf ob octr) = hubView s := by
  have hidx : ∀ {p i}, firstIdx n p = some i → i < n := fun h => List.mem_range.1 (List.mem_of_find?_eq_some h)
  unfold logCorrected
  split
  · rename_i h
    exact hubView_regSet s _ (hlog _ (hidx h))
  · split
    · rename_i h
      exact hubView_regSet s _ (hlog _ (hidx h))
    · exact hubView_event s _ hovf hctr

theorem hubView_noteWeak (v off src : Nat) : hubView (noteWeak s v off src) = hubView s := by
  unfold noteWeak
  dsimp only
  split <;> rfl

theorem hubView_vaultCe (v off sym src : Nat) : hubView (vaultCe s v off sym src) = hubView s :=
  (hubView_noteWeak _ v off src).trans ((hubView_logCorrected _ _ _ _ (fun _ => offGuard_vltLog v)
    (offGuard_vltReg v (by decide)) (offGuard_vltReg v (by decide))).trans (hubView_count s 1 (offGuard_vltReg v (by decide))))

theorem hubView_sramCe (c off n src : Nat) : hubView (sramCe s c off n src) = hubView s :=
  (hubView_logCorrected _ _ _ _ (fun _ => offGuard_slogLog c) (offGuard_slogReg c (by decide))
    (offGuard_slogReg c (by decide))).trans (hubView_count s 1 (offGuard_slogReg c (by decide)))

theorem hubView_vaultUeCount (v off src : Nat) : hubView (vaultUeCount s v off src) = hubView s := by
  have hevent := hubView_event s 6 (offGuard_vltReg v (off := 0) (by decide)) (offGuard_vltReg v (off := 0x18) (by decide))
  unfold vaultUeCount
  dsimp only
  split
  · exact hevent
  · exact (hubView_regSet _ _ (offGuard_vltReg v (by decide))).trans hevent

theorem hubView_vaultUe (v off src : Nat) : hubView (vaultUe s v off src) = hubView s := hubView_vaultUeCount s v off src

theorem hubView_checkVaultWord (v off src : Nat) : hubView (checkVaultWord s v off src).2 = hubView s := by
  unfold checkVaultWord
  split
  · rfl
  · exact hubView_vaultCe ..
  · exact hubView_vaultUe ..
  · exact hubView_vaultUeCount ..
  · exact hubView_vaultUe ..

theorem hubView_checkVault (v off n src : Nat) : hubView (checkVault s v off n src).2 = hubView s :=
  checkVault_keep hubView hubView_checkVaultWord s v off n src

theorem hubView_checkSramWord (c off src : Nat) : hubView (checkSramWord s c off src).2 = hubView s := by
  unfold checkSramWord
  split
  · rfl
  · exact hubView_sramCe ..
  · exact (hubView_event _ _ (offGuard_slogReg c (by decide)) (offGuard_slogReg c (by decide))).trans rfl

theorem hubView_checkSram (c off n src : Nat) : hubView (checkSram s c off n src).2 = hubView s := by
  unfold checkSram
  generalize wordsOf 16 off n = l
  suffices ∀ p : Option Nat × State, hubView (l.foldl (fun p w =>
      let r := checkSramWord p.2 c w src
      (if r.1 && p.1.isNone then some w else p.1, r.2)) p).2 = hubView p.2 from this (none, s)
  induction l with
  | nil => exact fun _ => rfl
  | cons w l ih => exact fun p => (ih (_, _)).trans (hubView_checkSramWord p.2 c w src)

theorem hubView_countTx (stop : Nat) : hubView (countTx s stop) = hubView s :=
  hubView_count s 1 (offGuard_stopCtr _ (Nat.mod_lt _ (by decide)) (by decide))

theorem hubView_countXfer (stop : Option Nat) (a : Nat) : hubView (countXfer s stop a) = hubView s := by
  unfold countXfer
  split
  · exact (hubView_countTx _ _).trans (hubView_countTx _ _)
  · exact (hubView_countTx _ _).trans (hubView_countTx _ _)
  · exact (hubView_countTx _ _).trans (hubView_countTx _ _)
  · rfl

theorem hubView_wakeDom (d : Dom) : hubView (wakeDom s d) = hubView s := by
  have hexit : hubView (countExit s d) = hubView s := by
    unfold countExit
    dsimp only
    split
    · exact hubView_count s 1 (offGuard_vltCtr _ (by decide))
    · rfl
  have hrelease : hubView (releaseBanks (countExit s d) d) = hubView (countExit s d) := by
    unfold releaseBanks
    split <;> rfl
  unfold wakeDom
  split
  · rfl
  · exact Eq.trans rfl (hrelease.trans hexit)

theorem hubView_closeMerges (v off n : Nat) : hubView (closeMerges s v off n) = hubView s := by
  unfold closeMerges
  split <;> rfl

theorem hubView_msix (v : Nat) : hubView (msix s v) = hubView s := by
  unfold msix
  repeat' split
  case isFalse.isFalse => exact hubView_count s 1 offGuard_blocked
  all_goals rfl

theorem hubView_writeMem (g k : Nat) (bs : List Byte) : hubView (writeMem s g k bs) = hubView s := by
  unfold writeMem
  dsimp only
  split <;> rfl

theorem hubView_hostWrite (bus : Nat) (bs : List Byte) : hubView (hostWrite s bus bs) = hubView s := by
  unfold hostWrite
  split
  · rfl
  · exact hubView_count s 1 offGuard_blocked

theorem hubView_hideUnfenced (vs os vd od n : Nat) : hubView (hideUnfenced s vs os vd od n) = hubView s := by
  unfold hideUnfenced
  split <;> rfl

/-- What ends a write to a vault: its merge entries close, and its words are counted. -/
theorem hubView_countWrite (v off n k m : Nat) (hk : k < 8) :
    hubView (count (closeMerges s v off n) (vltCtr v k) m) = hubView s :=
  (hubView_count _ m (offGuard_vltCtr v hk)).trans (hubView_closeMerges s v off n)

end

/-! ### Reads -/

/-- An effect on a state keeps the view. -/
abbrev KeepsHub (s : State) (e : Except Halt State) : Prop := Ends (fun t => hubView t = hubView s) e

section
variable {s : State}

theorem readVaultAs_hub (v off n src : Nat) : Ends (fun r => hubView r.2.2 = hubView s) (readVaultAs s v off n src) := by
  have hcheck := (hubView_checkVault _ v off n src).trans (hubView_wakeDom s ⟨.vault, v⟩)
  have hread := fun k => (hubView_count _ k (offGuard_vltCtr v (n := 0) (by decide))).trans hcheck
  unfold readVaultAs
  split
  · exact .error _
  · split
    · exact .error _
    · dsimp only
      split <;> exact .ok (hread _)

theorem readSram_hub (c off n src : Nat) : hubView (readSram s c off n src).2.2 = hubView s := by
  unfold readSram
  dsimp only
  split <;> exact hubView_checkSram s c off n src

theorem readHost_hub (bus n : Nat) : hubView (readHost s bus n).2.2 = hubView s := by
  unfold readHost
  split
  · rfl
  · exact hubView_count s 1 offGuard_blocked

theorem vaultFree_hub (v off n : Nat) (write : Bool) : KeepsHub s (vaultFree s v off n write) :=
  fun t ht => vaultFree_same v off n write t ht ▸ rfl

theorem readBlock_hub (stop : Option Nat) (a n : Nat) : Ends (fun r => hubView r.2.2 = hubView s) (readBlock s stop a n) := by
  have hcount := hubView_countXfer s stop a
  unfold readBlock
  dsimp only
  split
  · exact (vaultFree_hub _ _ _ _).bind fun t ht r hr => (readVaultAs_hub _ _ _ _ r hr).trans (ht.trans hcount)
  · exact .ok ((readSram_hub ..).trans ((hubView_wakeDom ..).trans hcount))
  · exact .ok ((readHost_hub ..).trans hcount)
  · exact .error _
  · exact .ok hcount
  · exact .error _

theorem readParts_hub (stop : Option Nat) (l : List (Nat × Nat)) : Ends (fun r => hubView r.2.2 = hubView s) (readParts s stop l) := by
  induction l generalizing s with
  | nil => exact .ok rfl
  | cons p l ih => exact (readBlock_hub _ _ _).bind fun _ h1 => ih.bind fun _ h2 => .pure (h2.trans h1)

/-! ### Writes -/

theorem writeVault_hub (v off : Nat) (bs : List Byte) : KeepsHub s (writeVault s v off bs) := by
  unfold writeVault
  split
  · exact .error _
  · split
    · exact .error _
    · exact .error _
    · exact .ok ((hubView_countWrite _ _ _ _ _ _ (by decide)).trans ((hubView_writeMem ..).trans (hubView_wakeDom ..)))

theorem remoteStore_hub (c off : Nat) (bs : List Byte) : KeepsHub s (remoteStore s c off bs) := by
  unfold remoteStore
  split
  · exact .error _
  · exact .ok ((hubView_writeMem ..).trans (hubView_wakeDom ..))

theorem writeHost_hub (bus : Nat) (bs : List Byte) : KeepsHub s (writeHost s bus bs) := by
  unfold writeHost
  split
  · exact .error _
  · exact .ok (hubView_hostWrite ..)

theorem writeBlock_hub (stop : Option Nat) (a : Nat) (bs : List Byte) : KeepsHub s (writeBlock s stop a bs) := by
  have hcount := hubView_countXfer s stop a
  unfold writeBlock
  dsimp only
  split
  · exact (vaultFree_hub _ _ _ _).bind fun t ht u hu => (writeVault_hub _ _ _ u hu).trans (ht.trans hcount)
  · exact fun u hu => (remoteStore_hub _ _ _ u hu).trans hcount
  · exact fun u hu => (writeHost_hub _ _ u hu).trans hcount
  · exact .error _
  · exact .ok hcount
  · exact .error _

theorem writeParts_hub (stop : Option Nat) (bs : List Byte) (l : List (Nat × Nat)) : KeepsHub s (writeParts s stop bs l) := by
  induction l generalizing s bs with
  | nil => exact .ok rfl
  | cons p l ih => exact (writeBlock_hub _ _ _).bind fun _ h1 u hu => (ih _ u hu).trans h1

/-! ### Entries of page tables, and pages -/

theorem getEntry_hub (stop : Option Nat) (a : Nat) : Ends (fun r => hubView r.2 = hubView s) (getEntry stop s a) := by
  unfold getEntry
  split
  · exact (readParts_hub _ _).bind fun _ h => .pure h
  · exact .error _
  · exact .error _

theorem mergeVault_hub (v off : Nat) (bs : List Byte) : KeepsHub s (mergeVault s v off bs) := by
  unfold mergeVault
  split
  · exact .error _
  · refine (vaultFree_hub _ _ _ _).bind fun t ht => (readVaultAs_hub _ _ _ _).bind fun r hr => .ok ?_
    exact (hubView_countWrite _ _ _ _ _ _ (by decide)).trans (Eq.trans rfl (hr.trans ht))

theorem putEntry_hub (stop : Option Nat) (a p : Nat) : KeepsHub s (putEntry stop s a p) := by
  unfold putEntry
  split
  · exact fun t ht => (mergeVault_hub _ _ _ t ht).trans (hubView_countXfer ..)
  · exact .error _
  · exact .error _

theorem cloneUnit_hub (v os od : Nat) : KeepsHub s (cloneUnit s v os od) := by
  unfold cloneUnit
  refine (vaultFree_hub _ _ _ _).bind fun t ht => (vaultFree_hub _ _ _ _).bind fun u hu => .ok ?_
  exact (hubView_countWrite _ _ _ _ _ _ (by decide)).trans ((hubView_hideUnfenced ..).trans (Eq.trans rfl (hu.trans ht)))

theorem dmaUnit_hub (stop : Option Nat) (vs os vd od : Nat) : KeepsHub s (dmaUnit stop s vs os vd od) := by
  refine Ends.foldlM (fun t i ht => ?_) _ rfl
  refine (vaultFree_hub _ _ _ _).bind fun u hu => (readVaultAs_hub _ _ _ _).bind fun r hr =>
    (vaultFree_hub _ _ _ _).bind fun w hw => ?_
  have hread := (hw.trans (hubView_countXfer ..)).trans ((hr.trans hu).trans ((hubView_countXfer ..).trans ht))
  dsimp only
  split
  · exact .error _
  · refine .ok ((hubView_countWrite _ _ _ _ _ _ (by decide)).trans ((hubView_hideUnfenced ..).trans (Eq.trans ?_ hread)))
    split <;> rfl

theorem copyPage_hub (stop : Option Nat) (p q : Nat) : KeepsHub s (copyPage stop s p q) := by
  unfold copyPage
  dsimp only
  split
  · exact .error _
  · refine Ends.foldlM (fun t u ht => ?_) _ rfl
    split
    · exact fun w hw => (cloneUnit_hub _ _ _ w hw).trans ht
    · exact fun w hw => (dmaUnit_hub _ _ _ _ _ w hw).trans ht

end

end Sys2Proof.Machine

namespace Sys2Proof.Machine

/-! ## Completion records (O23): R189, R288, R294 to R297 -/

/-! ### The layout of a record (Table 10.10) -/

theorem leNat_leBytes (n x : Nat) : leNat (leBytes n x) = x % 256 ^ n := by
  induction n generalizing x with
  | zero => rw [leBytes, leNat, pow_zero, Nat.mod_one]
  | succ n ih =>
    rw [leBytes, leNat, ih, BitVec.toNat_ofNat, pow_succ' 256 n]
    exact Nat.mod_mul.symm

theorem slice_self (bs : List Byte) : slice bs 0 bs.length = bs := by
  refine List.ext_getElem (by simp [slice]) fun i h h' => ?_
  simp [slice, h']

theorem fieldAt_leBytes (n x : Nat) : fieldAt (leBytes n x) 0 n = x % 256 ^ n := by
  have h := slice_self (leBytes n x)
  rw [length_leBytes] at h
  rw [fieldAt, h, leNat_leBytes]

/-- The field at the front of a string. -/
theorem fieldAt_front (n x : Nat) (bs : List Byte) : fieldAt (leBytes n x ++ bs) 0 n = x % 256 ^ n := by
  rw [← fieldAt_leBytes n x]
  unfold fieldAt slice
  congr 1
  refine List.map_congr_left fun i hi => ?_
  have hi := List.mem_range.1 hi
  rw [List.getElem?_append_left (by rw [length_leBytes]; omega)]

/-- A field beyond the one at the front. -/
theorem fieldAt_behind {m off : Nat} (y : Nat) (bs : List Byte) (n : Nat) (h : m ≤ off) :
    fieldAt (leBytes m y ++ bs) off n = fieldAt bs (off - m) n := by
  unfold fieldAt slice
  congr 1
  refine List.map_congr_left fun i _ => ?_
  rw [List.getElem?_append_right (by rw [length_leBytes]; omega), length_leBytes, Nat.sub_add_comm h]

theorem length_recordBytes (cmdid status queue head flags attempt detail dtime result : Nat) :
    (recordBytes cmdid status queue head flags attempt detail dtime result).length = 32 := by
  simp only [recordBytes, List.length_append, length_leBytes]

theorem recordBytes_layout (cmdid status queue head flags attempt detail dtime result : Nat) :
    let r := recordBytes cmdid status queue head flags attempt detail dtime result
    r.length = 32 ∧ fieldAt r 0 4 = cmdid % 2 ^ 32 ∧ fieldAt r 4 2 = status % 2 ^ 16 ∧ fieldAt r 6 2 = queue % 2 ^ 16
      ∧ fieldAt r 8 2 = head % 2 ^ 16 ∧ fieldAt r 10 1 = flags % 256 ∧ fieldAt r 11 1 = attempt % 256
      ∧ fieldAt r 12 4 = detail % 2 ^ 32 ∧ fieldAt r 16 8 = dtime % 2 ^ 64 ∧ fieldAt r 24 8 = result % 2 ^ 64 := by
  refine ⟨length_recordBytes .., ?_⟩
  simp (disch := decide) only [recordBytes, List.append_assoc, fieldAt_behind, fieldAt_front, fieldAt_leBytes, Nat.reduceSub,
    Nat.reducePow, and_self]

/-! ### What an access cannot move: the places that a write must not touch (R165, R173, R182, R192) -/

/-- From `s` to `t` nothing moved the ranges that commands and steps keep to themselves, and no new command keeps one. -/
structure SameRanges (s t : State) : Prop where
  mem : t.mem = s.mem
  marks : t.marks = s.marks
  free : t.free = s.free
  boot : t.boot = s.boot
  vaults : t.vaults = s.vaults
  links : t.links = s.links
  pages : t.pages = s.pages
  guard : t.guard = s.guard
  base : regGet t (hubReg 0x40) = regGet s (hubReg 0x40)
  scale : ∀ n, regGet t (slotReg n 0x10) = regGet s (slotReg n 0x10)
  mode : ∀ v, processorMode t v = processorMode s v
  live : ∀ e ∈ t.wq.queues, ∀ i ∈ e.2.items, itemLive i = true → ∃ e' ∈ s.wq.queues, i ∈ e'.2.items

/-- The case that a write of a range meets at an item. -/
def itemBars (s : State) (k n : Nat) (i : Item) : Option Nat :=
  if !itemLive i then none
  else if meetAny [(k, n)] (tableRanges s i.cmd ++ sourceRanges s i.cmd) then some 28
  else if meetAny [(k, n)] (winnowRanges s i.cmd) then some 30
  else none

/-- The case that it meets at the guard's steps. -/
def stepBars (s : State) (k n : Nat) : Option Nat :=
  if s.guard.steps.any fun e => e.2.phase != .held && meetAny [(k, n)] (stepRanges s e.2) then some 31
  else if s.guard.steps.any fun e => meetAny [(k, n)] (scaleRanges s e.2) then some 32
  else none

theorem writeBarred_none_iff (s : State) (k n : Nat) :
    writeBarred s k n = none ↔ (∀ e ∈ s.wq.queues, ∀ i ∈ e.2.items, itemBars s k n i = none) ∧ stepBars s k n = none := by
  have hitems : (∀ e ∈ s.wq.queues, ∀ i ∈ e.2.items, itemBars s k n i = none)
      ↔ (s.wq.queues.findSome? fun e => e.2.items.findSome? (itemBars s k n)) = none := by
    simp only [List.findSome?_eq_none_iff]
  have hbarred : writeBarred s k n = (s.wq.queues.findSome? fun e => e.2.items.findSome? (itemBars s k n)).or (stepBars s k n) := by
    unfold writeBarred
    dsimp only
    split
    · rename_i h
      exact (congrArg (Option.or · _) h).symm
    · rename_i h
      exact (congrArg (Option.or · _) h).symm
  rw [hbarred, Option.or_eq_none_iff, hitems]

section
variable {s t : State} (h : SameRanges s t)
include h

theorem SameRanges.resolve (a : Nat) : resolve t a = resolve s a := by
  unfold Machine.resolve ownId localLoc vaultLoc vaultInService coreEnabled
  rw [h.boot, h.links, h.base]

theorem SameRanges.placeKeys (a n : Nat) : placeKeys t a n = placeKeys s a n := by
  unfold Machine.placeKeys
  simp only [h.resolve]

theorem SameRanges.placeWords (a n : Nat) : placeWords t a n = placeWords s a n := h.placeKeys _ _

theorem SameRanges.namedPages (a n : Nat) : namedPages t a n = namedPages s a n := by
  unfold Machine.namedPages bytesAt byteAt
  rw [h.placeKeys, h.mem, h.free]

theorem SameRanges.pageRange (p : Nat) : pageRange t p = pageRange s p := by
  unfold Machine.pageRange pageOff unitAt
  rw [h.pages]

theorem SameRanges.refCount (p : Nat) : refCount t p = refCount s p := by
  unfold Machine.refCount unitAt
  rw [h.pages]

theorem SameRanges.itemBars (k n : Nat) (i : Item) : itemBars t k n i = itemBars s k n i := by
  have hpage : Machine.pageRange t = Machine.pageRange s := funext h.pageRange
  unfold Machine.itemBars tableRanges sourceRanges winnowRanges
  simp only [h.placeKeys, h.placeWords, h.namedPages, h.refCount, hpage]

theorem SameRanges.stepBars (k n : Nat) : stepBars t k n = stepBars s k n := by
  have hpage : Machine.pageRange t = Machine.pageRange s := funext h.pageRange
  unfold Machine.stepBars stepRanges scaleRanges regFld
  simp only [h.placeKeys, h.placeWords, h.namedPages, h.guard, h.scale, hpage]

theorem SameRanges.writeBarred_none {k n : Nat} (hs : writeBarred s k n = none) : writeBarred t k n = none := by
  obtain ⟨hitems, hsteps⟩ := (writeBarred_none_iff s k n).1 hs
  refine (writeBarred_none_iff t k n).2 ⟨fun e he i hi => ?_, (h.stepBars k n).trans hsteps⟩
  rw [h.itemBars]
  by_cases hlive : itemLive i = true
  · obtain ⟨e', he', hi'⟩ := h.live e he i hi hlive
    exact hitems e' he' i hi'
  · rw [Machine.itemBars, if_pos (by simp [hlive])]

/-- Plain memory of a vault stays plain. -/
theorem SameRanges.plainWords {v off n : Nat} (hs : PlainWords s v off n) : PlainWords t v off n := by
  obtain ⟨hin, hmode, hoff, hn, htop, hchecks, hwords, hbarred⟩ := hs
  have hmeta : ∀ k, inMeta t v k = inMeta s v k := fun k => by unfold inMeta unitAt; rw [h.pages]
  refine ⟨?_, (h.mode v).trans hmode, hoff, hn, htop, ?_, fun k hlo hhi => ?_, fun k m hlo hhi => h.writeBarred_none (hbarred k m hlo hhi)⟩
  · unfold vaultInService
    rw [h.boot]
    exact hin
  · unfold badChecks
    rw [h.marks]
    exact hchecks
  · unfold vaultAt
    rw [h.marks, hmeta, h.vaults]
    exact hwords k hlo hhi

theorem SameRanges.plainVault {v off n : Nat} (hs : PlainVault s v off n) : PlainVault t v off n := by
  obtain ⟨hwords, hshaft, hring⟩ := hs
  refine ⟨h.plainWords hwords, ?_⟩
  unfold vaultAt
  rw [h.vaults]
  exact ⟨hshaft, hring⟩

end

/-- The packet counters of the stops are no register that says where a range lies or what a vault's mode is. -/
theorem stopCtr_ne {h p : Nat} (hp : p < 256) :
    hubReg 0x40 ≠ stopCtr h p 0 ∧ (∀ n, slotReg n 0x10 ≠ stopCtr h p 0) ∧ ∀ v, vltReg v 0 ≠ stopCtr h p 0 := by
  unfold slotReg hubReg vltReg stopCtr rngReg sheafWin
  refine ⟨by omega, fun n => by omega, fun v => by omega⟩

theorem sameRanges_countTx (s : State) (stop : Nat) : SameRanges s (countTx s stop) := by
  obtain ⟨hbase, hscale, hmode⟩ := stopCtr_ne (h := stop / 256) (p := stop % 256) (Nat.mod_lt _ (by decide))
  refine ⟨rfl, rfl, rfl, rfl, rfl, rfl, rfl, rfl, regGet_count_ne _ _ hbase, fun n => regGet_count_ne _ _ (hscale n), fun v => ?_,
    fun e he _ hi _ => ⟨e, he, hi⟩⟩
  unfold processorMode countTx
  rw [regGet_count_ne _ _ (hmode v)]

theorem SameRanges.refl (s : State) : SameRanges s s :=
  ⟨rfl, rfl, rfl, rfl, rfl, rfl, rfl, rfl, rfl, fun _ => rfl, fun _ => rfl, fun e he _ hi _ => ⟨e, he, hi⟩⟩

theorem SameRanges.trans {s t u : State} (h : SameRanges s t) (h' : SameRanges t u) : SameRanges s u := by
  refine ⟨h'.mem.trans h.mem, h'.marks.trans h.marks, h'.free.trans h.free, h'.boot.trans h.boot, h'.vaults.trans h.vaults,
    h'.links.trans h.links, h'.pages.trans h.pages, h'.guard.trans h.guard, h'.base.trans h.base,
    fun n => (h'.scale n).trans (h.scale n), fun v => (h'.mode v).trans (h.mode v), fun e he i hi hlive => ?_⟩
  obtain ⟨e', he', hi'⟩ := h'.live e he i hi hlive
  exact h.live e' he' i hi' hlive

theorem sameRanges_countXfer (s : State) (stop : Option Nat) (a : Nat) : SameRanges s (countXfer s stop a) := by
  unfold countXfer
  split
  · exact (sameRanges_countTx _ _).trans (sameRanges_countTx _ _)
  · exact (sameRanges_countTx _ _).trans (sameRanges_countTx _ _)
  · exact (sameRanges_countTx _ _).trans (sameRanges_countTx _ _)
  · exact .refl s

/-! ### A write of plain memory has an end -/

/-- From `s` to `u` memory took bytes at an offset of a vault, and no other byte. -/
def StoredAt (s : State) (v off : Nat) (bs : List Byte) (u : State) : Prop :=
  (∀ k, k < bs.length → FMap.find u.mem (vaultKey v off + k) = bs[k]?) ∧ MemKept s u (vaultKey v off) bs.length

section
variable {s : State} {v off : Nat} {bs : List Byte}

theorem keptByUnit_plain {n : Nat} (h : PlainWords s v off n) (hn : 0 < n) : keptByUnit s v off n = none := by
  obtain ⟨-, -, hoff, hlen, htop, -, hwords, -⟩ := h
  unfold keptByUnit
  rw [if_neg (by simp; omega), if_neg]
  simp only [List.any_eq_true, not_exists, not_and, Bool.not_eq_true]
  intro w hw
  unfold wordsOf at hw
  rw [if_neg (by omega)] at hw
  obtain ⟨i, hi, rfl⟩ := List.mem_map.1 hw
  have := List.mem_range.1 hi
  exact (hwords _ (by omega) (by omega)).2.1

theorem writeVault_plain (h : PlainWords s v off bs.length) (hn : 0 < bs.length) :
    Succeeds (StoredAt s v off bs) (writeVault s v off bs) := by
  have hkept := keptByUnit_plain h hn
  obtain ⟨-, hmode, hoff, hlen, -, -, -, hbarred⟩ := h
  have hkey : vaultKey v off % 32 = 0 := by unfold vaultKey; omega
  have hfind : ∀ a, FMap.find (writeMem (wakeDom s ⟨.vault, v⟩) 32 (vaultKey v off) bs).mem a = _ := fun a =>
    find_writeMem_whole _ 32 (vaultKey v off) bs a (by decide) hkey hlen
  unfold writeVault
  rw [hmode, hkept, hbarred off bs.length le_rfl le_rfl]
  refine .ok ?_
  unfold StoredAt MemKept
  rw [count_mem, mem_of_view (view_closeMerges ..)]
  refine ⟨fun k hk => ?_, fun a ha => ?_⟩
  · rw [hfind, if_pos (by omega), Nat.add_sub_cancel_left]
  · rw [hfind, if_neg (by omega), wakeDom_mem]

theorem resolve_vaultAddr {n : Nat} (hin : vaultInService s v = true) (htop : off + n ≤ tillerBase) (hn : 0 < n) :
    resolve s (vaultAddr v off) = .vault v off := by
  have hv : v < 1024 := by simp [vaultInService] at hin; exact hin.1
  have htop : off < 0x1DFC0000 := by unfold tillerBase at htop; omega
  have h55 : bit (vaultAddr v off) 55 = false := by
    unfold bit vaultAddr
    rw [Nat.div_eq_of_lt (by omega)]
    rfl
  have hlo : vaultAddr v off < 0x10000000000 := by unfold vaultAddr; omega
  have hvault : vaultAddr v off / 2 ^ 30 = v := by unfold vaultAddr; omega
  have hoff : vaultAddr v off % 2 ^ 30 = off := by unfold vaultAddr; omega
  unfold resolve localLoc vaultLoc
  rw [h55, if_neg Bool.false_ne_true, if_pos (by omega), if_pos hlo, hvault, hoff, hin]
  exact if_pos (by simp; omega)

theorem vaultFree_noRequest {n : Nat} {write : Bool} (hshaft : (vaultAt s v).shaftQ = []) (hring : (vaultAt s v).ringQ = []) :
    vaultFree s v off n write = .ok s := by
  unfold vaultFree
  dsimp only
  rw [hshaft, hring]
  exact if_neg (by simp)

/-- A write of one packet whose address names a vault without a request that it must wait for. -/
theorem writeBlock_vault {t : State} {stop : Option Nat} {a : Nat} (ht : countXfer s stop a = t) (hres : resolve t a = .vault v off)
    (hfree : vaultFree t v off bs.length true = .ok t) : writeBlock s stop a bs = writeVault t v off bs := by
  unfold writeBlock
  dsimp only
  rw [ht, hres]
  dsimp only
  rw [hfree]
  rfl

theorem writeBlock_plain (stop : Option Nat) (h : PlainVault s v off bs.length) (hn : 0 < bs.length) :
    Succeeds (StoredAt s v off bs) (writeBlock s stop (vaultAddr v off) bs) := by
  have hranges := sameRanges_countXfer s stop (vaultAddr v off)
  -- The counted state gets a name: the kernel would compute `countXfer` of the address at each use.
  obtain ⟨t, ht⟩ : ∃ t, countXfer s stop (vaultAddr v off) = t := ⟨_, rfl⟩
  rw [ht] at hranges
  obtain ⟨hwords, hshaft, hring⟩ := hranges.plainVault h
  obtain ⟨hin, -, -, -, htop, -⟩ := id hwords
  rw [writeBlock_vault ht (resolve_vaultAddr hin htop hn) (vaultFree_noRequest hshaft hring)]
  refine (writeVault_plain hwords hn).imp fun u hu => ⟨hu.1, fun a ha => ?_⟩
  rw [hu.2 a ha, hranges.mem]

/-- A range within one block is one packet (R250). -/
theorem packets_one {a n : Nat} (hn : 0 < n) (h : a % 256 + n ≤ 256) : packets a n = [(a, n)] := by
  have hmin : min n (256 - a % 256) = n := by omega
  unfold packets
  rw [show n / 256 + 2 = n / 256 + 1 + 1 from rfl, blocks, if_neg (by omega)]
  dsimp only
  rw [hmin, blocks, if_pos (Nat.sub_self n)]

theorem devWrite_plain (h : PlainVault s v off bs.length) (hn : 0 < bs.length) (hblock : off % 256 + bs.length ≤ 256) :
    Succeeds (StoredAt s v off bs) (devWrite s (vaultAddr v off) bs) := by
  have hone : packets (vaultAddr v off) bs.length = [(vaultAddr v off, bs.length)] :=
    packets_one hn (by unfold vaultAddr; omega)
  unfold devWrite stopWrite
  rw [hone]
  unfold writeParts
  rw [List.take_length]
  exact (writeBlock_plain _ h hn).bind fun u hu => .ok hu

end

/-! ### The completion queue (R294, R295) -/

theorem devWrite_agent {s : State} (a : Nat) (bs : List Byte) : Ends (AgentFrame s) (devWrite s a bs) := stopWrite_agent _ _ _

theorem devWrite_hub {s : State} (a : Nat) (bs : List Byte) : KeepsHub s (devWrite s a bs) := writeParts_hub _ _ _

/-- The state in which a completion queue has taken a record. -/
def cqAdvanced (s : State) (cq t : Nat) : State :=
  updQueue s cq fun y => { y with tail := t, phase := if t = 0 then !y.phase else y.phase, written := y.written + 1 }

theorem writeCq_eq (s : State) (cq : Nat) (f : Bool → List Byte) :
    writeCq s cq f = devWrite s ((queueAt s cq).base + 32 * (queueAt s cq).tail) (f (queueAt s cq).phase) >>= fun u =>
      .ok (cqAdvanced u cq (((queueAt s cq).tail + 1) % qDepth (queueAt s cq))) := rfl

/-- A queue whose bytes lie in plain vault memory takes a record: its bytes, and its tail, its count and its phase. -/
theorem writeCq_plain {s : State} {cq v off : Nat} {f : Bool → List Byte} (hf : ∀ b, (f b).length = 32)
    (h : PlainVault s v off 32) (hblock : off % 256 ≤ 224)
    (haddr : (queueAt s cq).base + 32 * (queueAt s cq).tail = vaultAddr v off) :
    ∃ u, writeCq s cq f = .ok u
      ∧ (∀ k, k < 32 → FMap.find u.mem (vaultKey v off + k) = (f (queueAt s cq).phase)[k]?) ∧ MemKept s u (vaultKey v off) 32
      ∧ (queueAt u cq).tail = ((queueAt s cq).tail + 1) % qDepth (queueAt s cq)
      ∧ (queueAt u cq).written = (queueAt s cq).written + 1
      ∧ ((queueAt u cq).phase = (queueAt s cq).phase ↔ (queueAt u cq).tail ≠ 0) := by
  have hlen := hf (queueAt s cq).phase
  obtain ⟨t, ht, hstored, hkept⟩ := devWrite_plain (bs := f (queueAt s cq).phase) (by rw [hlen]; exact h) (by omega) (by omega)
  rw [hlen] at hstored hkept
  have hqueue : queueAt t cq = queueAt s cq := by unfold queueAt; rw [(devWrite_agent _ _ t ht).wq]
  refine ⟨cqAdvanced t cq (((queueAt s cq).tail + 1) % qDepth (queueAt s cq)), ?_, hstored, hkept, ?_⟩
  · rw [writeCq_eq, haddr, ht]
    rfl
  · unfold cqAdvanced updQueue
    rw [queueAt_setQueue_same, hqueue]
    refine ⟨rfl, rfl, ?_⟩
    dsimp only
    split <;> simp_all

/-! ### The record of an item (R296) -/

/-- The state in which an item is done, and head has passed what it can. -/
def recorded (s : State) (q : Nat) (i : Item) (status : Nat) : State :=
  passHead (updItem s q i.idx fun y => { y with phase := .recorded, status }) q

/-- The vector that follows a record, and the mark of one that lands late. -/
def announced (s : State) (x : Queue) (i : Item) : State :=
  lateCheck (if i.intr then msix s (queueAt s x.cq).vector else s) x i

theorem lateCheck_regs (s : State) (x : Queue) (i : Item) : lateCheck s x i = { s with regs := (lateCheck s x i).regs } := by
  unfold lateCheck
  split
  · exact event_eq ..
  · rfl

theorem announced_frame (s : State) (x : Queue) (i : Item) :
    announced s x i = { s with host := (announced s x i).host, regs := (announced s x i).regs } := by
  unfold announced
  rw [lateCheck_regs]
  split
  · rw [msix_frame]
  · rfl

theorem hubView_lateCheck (s : State) (x : Queue) (i : Item) : hubView (lateCheck s x i) = hubView s := by
  unfold lateCheck
  split
  · exact hubView_event s 1 (offGuard_hubReg (by decide)) (offGuard_hubReg (by decide))
  · rfl

theorem hubView_announced (s : State) (x : Queue) (i : Item) : hubView (announced s x i) = hubView s := by
  unfold announced
  split
  · exact (hubView_lateCheck _ x i).trans (hubView_msix s _)
  · exact hubView_lateCheck s x i

/-- The 32 bytes that the record of an item holds, for a phase. -/
def itemRecord (s : State) (q : Nat) (i : Item) (status : Nat) (held : Bool) (detail : Nat) (ph : Bool) : List Byte :=
  recordBytes i.cmdid status q (queueAt (recorded s q i status) q).head (b2n ph + 2 * b2n held) i.attempt detail (nowNs s) i.result

theorem putRecord_eq (s : State) (q : Nat) (i : Item) (status : Nat) (held : Bool) (detail : Nat) :
    putRecord s q i status held detail
      = writeCq (recorded s q i status) (queueAt (recorded s q i status) q).cq (itemRecord s q i status held detail) >>= fun u =>
        .ok (announced u (queueAt (recorded s q i status) q) i) := rfl

/-- What the record of an item leaves as it is. -/
structure RecordFrame (s t : State) : Prop where
  boot : t.boot = s.boot
  job : t.job = s.job
  cores : t.cores = s.cores
  pages : t.pages = s.pages
  guard : t.guard = s.guard
  hub : hubView t = hubView s
  st : ∀ p, (queueAt t p).st = (queueAt s p).st

theorem RecordFrame.refl (s : State) : RecordFrame s s := ⟨rfl, rfl, rfl, rfl, rfl, rfl, fun _ => rfl⟩

theorem RecordFrame.trans {s t u : State} (h : RecordFrame s t) (h' : RecordFrame t u) : RecordFrame s u :=
  ⟨h'.boot.trans h.boot, h'.job.trans h.job, h'.cores.trans h.cores, h'.pages.trans h.pages, h'.guard.trans h.guard,
    h'.hub.trans h.hub, fun p => (h'.st p).trans (h.st p)⟩

theorem recordFrame_updQueue (s : State) (q : Nat) (f : Queue → Queue) (hf : ∀ x, (f x).st = x.st) :
    RecordFrame s (updQueue s q f) := by
  refine ⟨rfl, rfl, rfl, rfl, rfl, rfl, fun p => ?_⟩
  unfold updQueue
  by_cases hp : p = q
  · subst hp
    rw [queueAt_setQueue_same, hf]
  · rw [queueAt_setQueue_ne s _ hp]

theorem recordFrame_of_agent {s t : State} (h : AgentFrame s t) (hhub : hubView t = hubView s) : RecordFrame s t :=
  ⟨h.boot, h.job, h.cores, h.pages, h.guard, hhub, fun p => by unfold queueAt; rw [h.wq]⟩

theorem recordFrame_updItem (s : State) (q idx : Nat) (f : Item → Item) : RecordFrame s (updItem s q idx f) :=
  recordFrame_updQueue s q _ fun _ => rfl

theorem recordFrame_passHead (s : State) (q : Nat) : RecordFrame s (passHead s q) := recordFrame_updQueue s q _ fun _ => rfl

theorem recordFrame_recorded (s : State) (q : Nat) (i : Item) (status : Nat) : RecordFrame s (recorded s q i status) :=
  (recordFrame_updItem s q _ _).trans (recordFrame_passHead _ q)

theorem writeCq_frame (s : State) (cq : Nat) (f : Bool → List Byte) : Ends (RecordFrame s) (writeCq s cq f) := by
  rw [writeCq_eq]
  refine .bind (fun u hu => And.intro (devWrite_agent _ _ u hu) (devWrite_hub _ _ u hu)) fun u ⟨hagent, hhub⟩ => .ok ?_
  exact (recordFrame_of_agent hagent hhub).trans (recordFrame_updQueue u cq _ fun _ => rfl)

theorem putRecord_frame (s : State) (q : Nat) (i : Item) (status : Nat) (held : Bool) (detail : Nat) :
    Ends (RecordFrame s) (putRecord s q i status held detail) := by
  rw [putRecord_eq]
  refine (writeCq_frame _ _ _).bind fun u hu => .ok ?_
  refine ((recordFrame_recorded s q i status).trans hu).trans ?_
  have hhub := hubView_announced u (queueAt (recorded s q i status) q) i
  have hst : ∀ p, (queueAt (announced u (queueAt (recorded s q i status) q) i) p).st = (queueAt u p).st := fun p => by
    rw [announced_frame]; rfl
  refine ⟨?_, ?_, ?_, ?_, ?_, hhub, hst⟩ <;> rw [announced_frame]

/-! ### The ranges that a recorded item leaves as they are -/

theorem passItems_suffix (opened : Bool) (depth head : Nat) (l : List Item) : (passItems opened depth head l).2 <:+ l := by
  induction l generalizing head with
  | nil => exact List.suffix_rfl
  | cons i l ih =>
    rw [passItems]
    split
    · exact (ih _).trans (List.suffix_cons i l)
    · exact List.suffix_rfl

/-- A queue that holds an item is one of the table. -/
theorem queue_of_item {s : State} {q : Nat} {i : Item} (hi : i ∈ (queueAt s q).items) :
    ∃ e ∈ s.wq.queues, i ∈ e.2.items := by
  unfold queueAt FMap.getD at hi
  cases hq : FMap.find s.wq.queues q with
  | none => rw [hq] at hi; cases hi
  | some x => rw [hq] at hi; exact ⟨(q, x), FMap.mem_of_find hq, hi⟩

/-- A queue that holds no other live items than before keeps no other ranges. -/
theorem sameRanges_setQueue {s : State} {q : Nat} {x : Queue}
    (h : ∀ y ∈ x.items, itemLive y = true → y ∈ (queueAt s q).items) : SameRanges s (setQueue s q x) := by
  refine ⟨rfl, rfl, rfl, rfl, rfl, rfl, rfl, rfl, rfl, fun _ => rfl, fun _ => rfl, fun e he y hy hlive => ?_⟩
  rcases FMap.mem_set he with rfl | he
  · exact queue_of_item (h y hy hlive)
  · exact ⟨e, he, hy⟩

theorem sameRanges_recorded (s : State) (q : Nat) (i : Item) (status : Nat) : SameRanges s (recorded s q i status) := by
  have hdone : SameRanges s (updItem s q i.idx fun y => { y with phase := .recorded, status }) :=
    sameRanges_setQueue fun y hy hlive => by
      obtain ⟨z, hz, rfl⟩ := List.mem_map.1 hy
      split at hlive
      · cases hlive
      · rename_i hne
        rw [if_neg hne]
        exact hz
  exact hdone.trans (sameRanges_setQueue fun y hy _ => (passItems_suffix _ _ _ _).subset hy)

/-! ### COMMAND_COMPLETION -/

theorem engineRuns_job {s : State} (hjob : s.boot.dev = .job) : engineRuns s = true := by
  unfold engineRuns
  rw [hjob]
  rfl

section
variable {s : State} {q idx : Nat} {i : Item} (hp : powered s = true) (hjob : s.boot.dev = .job) (hi : itemAt s q idx = some i)
  (hend : i.phase = .ended) (hstep : i.inStep = false) (hafter : i.after = none) (hbusy : s.pails.busy = none)
  (hdeferred : s.pails.deferred = [])
include hp hjob hi hend hstep hafter hbusy hdeferred

/-- An ended item that nothing holds back completes with the record that can be written. -/
theorem completes_of_putRecord {u : State} (hput : putRecord s q i i.status false 0 = .ok u) :
    Completes (.commandCompletion q idx) s fun t => t = u := by
  have hready : recordReady s q idx = true := by
    unfold recordReady targetDone
    simp [hi, hend, hstep, hafter]
  have hpails : u.pails = s.pails := pails_of_hubView (putRecord_frame s q i _ _ _ u hput).hub
  have hdone : completeItem s q idx = .ok u := by
    unfold completeItem
    rw [hi]
    dsimp only
    rw [if_neg (by simp [hstep]), hput]
    exact (congrArg (· >>= settlePails) (tryFlushEnd_idle (hpails ▸ hbusy) q)).trans
      (settlePails_idle (hpails ▸ hbusy) (hpails ▸ hdeferred))
  refine ⟨u, ?_, rfl⟩
  show execCommandCompletion q idx s = .next u
  unfold execCommandCompletion
  rw [actE_pos hp (by rw [engineRuns_job hjob, hready]; rfl), hdone]
  rfl

/-- Its record, where the completion queue's tail lies in plain vault memory. -/
theorem completes_plain {v off : Nat} (hne : (queueAt s q).cq ≠ q) (hplain : PlainVault s v off 32) (hblock : off % 256 ≤ 224)
    (haddr : (queueAt s (queueAt s q).cq).base + 32 * (queueAt s (queueAt s q).cq).tail = vaultAddr v off) :
    Completes (.commandCompletion q idx) s fun t =>
      (queueAt t (queueAt s q).cq).written = (queueAt s (queueAt s q).cq).written + 1 ∧ MemKept s t (vaultKey v off) 32 := by
  have hranges := sameRanges_recorded s q i i.status
  have hcq : (queueAt (recorded s q i i.status) q).cq = (queueAt s q).cq := by
    unfold recorded passHead updItem updQueue
    rw [queueAt_setQueue_same, queueAt_setQueue_same]
  have hqueue : queueAt (recorded s q i i.status) (queueAt s q).cq = queueAt s (queueAt s q).cq := by
    unfold recorded passHead updItem updQueue
    rw [queueAt_setQueue_ne _ _ hne, queueAt_setQueue_ne _ _ hne]
  obtain ⟨u, hu, -, hkept, -, hwritten, -⟩ := writeCq_plain (s := recorded s q i i.status) (cq := (queueAt s q).cq)
    (f := itemRecord s q i i.status false 0) (fun _ => length_recordBytes ..) (hranges.plainVault hplain) hblock (by rw [hqueue, haddr])
  have hput := putRecord_eq s q i i.status false 0
  rw [hcq, hu] at hput
  obtain ⟨t, hexec, rfl⟩ := completes_of_putRecord hp hjob hi hend hstep hafter hbusy hdeferred hput
  refine ⟨_, hexec, ?_, fun a ha => ?_⟩
  · rw [announced_frame, ← hqueue]
    exact hwritten
  · rw [announced_frame, ← hranges.mem]
    exact hkept a ha

end

/-- An item that is not there, or has not ended, waits. -/
theorem waits_of_unready {s : State} {q idx : Nat} (h : recordReady s q idx = false) : Waits (.commandCompletion q idx) s :=
  actE_neg (by rw [h, Bool.and_false])

/-- Settles O23: the record of an item goes through `writeCq`, whose write lies in plain memory that the recorded item
keeps as it is, and reaches no pail and none of the guard's registers. -/
theorem completionRecords : Obligations.CompletionRecords := by
  refine ⟨?_, ?_, ?_, ?_, ?_, ?_, recordBytes_layout⟩
  · intro q idx s u i hp hjob hi hend hstep hafter hbusy hdeferred hput
    exact completes_of_putRecord hp hjob hi hend hstep hafter hbusy hdeferred hput
  · intro q idx v off s i hp hjob hi hend hstep hafter hbusy hdeferred hne hplain hblock haddr
    exact completes_plain hp hjob hi hend hstep hafter hbusy hdeferred hne hplain hblock haddr
  · intro q idx s hi
    exact waits_of_unready (by unfold recordReady; rw [hi])
  · intro q idx s i hi hend
    exact waits_of_unready (by unfold recordReady; simp [hi, hend])
  · intro s u q st d i h hput
    have hframe := putRecord_frame s q i st h d u hput
    exact ⟨hframe.boot, pails_of_hubView hframe.hub, hframe.job, hframe.guard, hframe.cores, pending_of_hubView hframe.hub⟩
  · intro s cq v off f hf hplain hblock haddr
    exact writeCq_plain hf hplain hblock haddr

end Sys2Proof.Machine

namespace Sys2Proof.Machine

/-! ## Steps of the numerics guard (O31): R174 to R192 -/

/-! ### What the walks over a step's regions leave as it is -/

/-- What a walk over regions, their page tables and their pages leaves as it is: the guard, the work queues, and what an
agent's accesses do not reach. -/
structure WalkFrame (s t : State) : Prop where
  guard : t.guard = s.guard
  wq : t.wq = s.wq
  hub : hubView t = hubView s

theorem WalkFrame.refl (s : State) : WalkFrame s s := ⟨rfl, rfl, rfl⟩

theorem WalkFrame.trans {s t u : State} (h : WalkFrame s t) (h' : WalkFrame t u) : WalkFrame s u :=
  ⟨h'.guard.trans h.guard, h'.wq.trans h.wq, h'.hub.trans h.hub⟩

theorem walkFrame_of_agent {s t : State} (h : AgentFrame s t) (hhub : hubView t = hubView s) : WalkFrame s t :=
  ⟨h.guard, h.wq, hhub⟩

theorem WalkFrame.itemAt {s t : State} (h : WalkFrame s t) (q idx : Nat) : itemAt t q idx = itemAt s q idx :=
  itemAt_congr (congrArg _ h.wq) q idx

section
variable {s : State}

theorem devRead_walk (a n : Nat) : Ends (fun r => WalkFrame s r.2.2) (devRead s a n) :=
  fun r hr => walkFrame_of_agent (stopRead_agent _ _ _ r hr) (readParts_hub _ _ r hr)

theorem devNat_walk (a n : Nat) : Ends (fun r => WalkFrame s r.2) (devNat s a n) :=
  (devRead_walk a n).bind fun _ h => .pure h

theorem devWrite_walk (a : Nat) (bs : List Byte) : Ends (WalkFrame s) (devWrite s a bs) :=
  fun u hu => walkFrame_of_agent (devWrite_agent _ _ u hu) (devWrite_hub _ _ u hu)

theorem readRegions_walk (a n : Nat) : Ends (fun r => WalkFrame s r.2) (readRegions s a n) :=
  (devRead_walk _ _).bind fun _ h => .pure h

theorem getEntry_walk (stop : Option Nat) (a : Nat) : Ends (fun r => WalkFrame s r.2) (getEntry stop s a) :=
  fun r hr => walkFrame_of_agent (getEntry_agent _ _ r hr) (getEntry_hub _ _ r hr)

theorem putEntry_walk (stop : Option Nat) (a p : Nat) : Ends (WalkFrame s) (putEntry stop s a p) :=
  fun t ht => walkFrame_of_agent (putEntry_agent _ _ _ t ht) (putEntry_hub _ _ _ t ht)

theorem copyPage_walk (stop : Option Nat) (p q : Nat) : Ends (WalkFrame s) (copyPage stop s p q) :=
  fun t ht => walkFrame_of_agent (copyPage_agent _ _ _ t ht) (copyPage_hub _ _ _ t ht)

theorem walkFrame_undefPage (p : Nat) : WalkFrame s (undefPage s p) := ⟨rfl, rfl, rfl⟩

theorem walkFrame_setRefCount (p n : Nat) : WalkFrame s (setRefCount s p n) := ⟨rfl, rfl, rfl⟩

theorem walkFrame_takePage (p : Nat) : WalkFrame s (takePage s p) := ⟨rfl, rfl, rfl⟩

theorem getEntries_walk (stop : Option Nat) (n a : Nat) : Ends (fun r => WalkFrame s r.2) (getEntries stop n s a) := by
  induction n generalizing s a with
  | zero => exact .ok (.refl s)
  | succ n ih => exact (getEntry_walk _ _).bind fun _ h1 => (ih _).bind fun _ h2 => .pure (h1.trans h2)

theorem needPages_walk (rs : List Region) (h : Nat) : Ends (fun r => WalkFrame s r.2) (needPages s rs h) := by
  refine Ends.foldlM (Q := fun r : Nat × State => WalkFrame s r.2) (fun t r ht => ?_) rs (.refl s)
  split
  · exact (getEntries_walk _ _ _).bind fun _ hr => .pure (ht.trans hr)
  · exact .ok ht

theorem shadowsFit_walk (rs : List Region) : Ends (fun r => WalkFrame s r.2) (shadowsFit s rs) :=
  Ends.foldlM (Q := fun r : Bool × State => WalkFrame s r.2) (fun _ h ht => (needPages_walk rs h).bind fun _ hr => .pure (ht.trans hr))
    sheaves (.refl s)

theorem overRegions_walk (rs : List Region) {f : Region → State → Nat → Except Halt State}
    (hf : ∀ r t n, Ends (WalkFrame t) (f r t n)) : Ends (WalkFrame s) (overRegions s rs f) :=
  Ends.foldlM (fun _ r ht => Ends.foldlM (fun u n hu w hw => hu.trans (hf r u n w hw)) _ ht) rs (.refl s)

theorem takeShadow_walk (r : Region) (n : Nat) : Ends (WalkFrame s) (takeShadow r s n) := by
  unfold takeShadow
  refine (getEntry_walk _ _).bind fun ⟨p, t⟩ ht => ?_
  dsimp only at ht ⊢
  split
  · exact fun u hu => ht.trans (putEntry_walk _ _ _ u hu)
  · split
    · exact .error _
    · split
      · exact .ok ht
      · rename_i w _
        have hput : ∀ u, WalkFrame (takePage t w) u →
            Ends (WalkFrame s) (putEntry (some (pageStop r.sheaf)) u (r.work + 4 * n) w) := fun u hu v hv =>
          ((ht.trans (walkFrame_takePage w)).trans hu).trans (putEntry_walk _ _ _ v hv)
        split
        · exact (copyPage_walk _ _ _).bind hput
        · exact hput _ (walkFrame_undefPage w)

theorem commitEntry_walk (r : Region) (n : Nat) : Ends (WalkFrame s) (commitEntry r s n) := by
  unfold commitEntry
  refine (getEntry_walk _ _).bind fun ⟨w, t⟩ ht => ?_
  dsimp only at ht ⊢
  split
  · exact .ok ht
  · refine (getEntry_walk _ _).bind fun ⟨p, u⟩ hu => (putEntry_walk _ _ _).bind fun v hv x hx => ?_
    refine (((ht.trans hu).trans hv).trans ?_).trans (putEntry_walk _ _ _ x hx)
    split
    · exact .refl v
    · exact walkFrame_setRefCount _ _

theorem replayEntry_walk (r : Region) (n : Nat) : Ends (WalkFrame s) (replayEntry r s n) := by
  unfold replayEntry
  refine (getEntry_walk _ _).bind fun ⟨w, t⟩ ht => ?_
  dsimp only at ht ⊢
  split
  · exact .ok ht
  · refine (getEntry_walk _ _).bind fun ⟨p, u⟩ hu => ?_
    dsimp only at hu ⊢
    split
    · exact fun v hv => (ht.trans hu).trans (copyPage_walk _ _ _ v hv)
    · exact .ok ((ht.trans hu).trans (walkFrame_undefPage w))

end

/-! ### STEP_BEGIN (R180, R181) -/

/-- A slot is held for the step of a queue. -/
def HeldBy (s : State) (q n : Nat) : Prop := slotHeld s n = true ∧ regFld s (slotReg n 0x30) 31 16 = q % 2 ^ 16

theorem HeldBy.congr {s t : State} {q n : Nat} (h : HeldBy s q n) (hreg : regGet t (slotReg n 0x30) = regGet s (slotReg n 0x30)) :
    HeldBy t q n := by
  unfold HeldBy slotHeld regFld at h ⊢
  rwa [hreg]

theorem HeldBy.walk {s t : State} {q n : Nat} (h : HeldBy s q n) (hn : n < 256) (hwalk : WalkFrame s t) : HeldBy t q n :=
  h.congr (regGet_of_hubView hwalk.hub (by omega) (by omega))

theorem heldBy_holdSlot (s : State) (q n : Nat) : HeldBy (holdSlot s q n) q n := by
  constructor
  · have hbelow := regFld_regSetFld_below (regFlag s (slotReg n 0x30) 0 true) (slotReg n 0x30) 31 16 q 0 0 (by decide) (by decide)
      (by decide)
    unfold slotHeld holdSlot
    rw [bit_eq_bits]
    unfold regFld at hbelow
    rw [hbelow, ← bit_eq_bits]
    exact bit_regFlag_same s _ 0 true (by decide)
  · exact regFld_regSetFld_same _ _ 31 16 q (by decide) (by decide)

/-- A slot that another slot's take leaves held. -/
theorem HeldBy.holdSlot {s : State} {q n : Nat} (h : HeldBy s q n) (m : Nat) : HeldBy (holdSlot s q m) q n := by
  by_cases hm : n = m
  · subst hm
    exact heldBy_holdSlot s q n
  · have hne : slotReg n 0x30 ≠ slotReg m 0x30 := by unfold slotReg; exact hubReg_ne (by omega)
    refine h.congr ?_
    unfold Machine.holdSlot
    rw [regGet_regSetFld_ne _ _ _ _ hne, regGet_regFlag_ne _ _ _ hne]

/-- What the slots of a step leave as it is when they are taken. -/
structure TakeFrame (q : Nat) (s t : State) : Prop where
  wq : t.wq = s.wq
  tag : t.guard.nextTag = s.guard.nextTag
  held : ∀ n, n < 256 → HeldBy s q n → HeldBy t q n

theorem takeSlot_frame (q : Nat) (s : State) (n : Nat) (hn : n < 256) :
    Ends (fun t => TakeFrame q s t ∧ HeldBy t q n) (takeSlot q s n) := by
  refine (devRead_walk _ _).bind fun ⟨bs, _, t⟩ ht => .ok ?_
  have hkept : ∀ m, m < 256 → HeldBy (holdSlot (clearSlot s n) q n) q m → HeldBy t q m := fun m hm h => h.walk hm ht
  have htag : t.guard.nextTag = s.guard.nextTag := (congrArg Guard.nextTag ht.guard).trans rfl
  refine ⟨⟨ht.wq, htag, fun m hm h => ?_⟩, ?_⟩
  · exact hkept m hm (HeldBy.holdSlot (s := clearSlot s n) h n)
  · exact hkept n hn (heldBy_holdSlot _ q n)

theorem takeSlots_frame (q : Nat) (s : State) (l : List Nat) (hl : ∀ n ∈ l, n < 256) :
    Ends (fun t => TakeFrame q s t ∧ ∀ n ∈ l, HeldBy t q n) (l.foldlM (takeSlot q) s) := by
  induction l generalizing s with
  | nil => exact .pure ⟨⟨rfl, rfl, fun _ _ h => h⟩, nofun⟩
  | cons n l ih =>
    have hn := hl n (List.mem_cons_self ..)
    rw [List.foldlM_cons]
    refine (takeSlot_frame q s n hn).bind fun t ⟨ht, hheld⟩ u hu => ?_
    obtain ⟨hframe, hall⟩ := ih t (fun m hm => hl m (List.mem_cons_of_mem _ hm)) u hu
    refine ⟨⟨hframe.wq.trans ht.wq, hframe.tag.trans ht.tag, fun m hm h => hframe.held m hm (ht.held m hm h)⟩, fun m hm => ?_⟩
    rcases List.mem_cons.1 hm with rfl | hm
    · exact hframe.held m hn hheld
    · exact hall m hm

theorem lt_of_mem_bitList {x n k : Nat} (h : k ∈ bitList x n) : k < n := List.mem_range.1 (List.mem_filter.1 h).1

/-- What opening a step comes to: its record at the guard, the tag it took, and its slots. -/
structure StepOpened (q idx : Nat) (p : StepBeginP) (slots : List Nat) (rs : List Region) (s u : State) : Prop where
  items : ∀ q' k, itemAt u q' k = itemAt s q' k
  step : ∃ st, stepAt u q = some st ∧ st.stepid = p.stepid ∧ st.tag = s.guard.nextTag ∧ st.beginIdx = idx
    ∧ st.entries = stepEntries p ∧ st.attempt = 1 ∧ st.phase = .running ∧ st.reserved = stepEntries p - 1
    ∧ st.regions = rs ∧ st.slots = slots
  tag : u.guard.nextTag = s.guard.nextTag + 1
  held : ∀ n ∈ slots, HeldBy u q n

theorem openStep_opened (s : State) (q idx : Nat) {p : StepBeginP} {slots : List Nat} (rs : List Region)
    (hp : 2 ≤ stepEntries p) (hslots : ∀ n ∈ slots, n < 256) :
    Ends (StepOpened q idx p slots rs s) (openStep s q idx p slots rs) := by
  unfold openStep
  refine (takeSlots_frame q s slots hslots).bind fun t ⟨ht, hheld⟩ =>
    (overRegions_walk rs fun r _ n => takeShadow_walk r n).bind fun u hu => .ok ?_
  have htag : u.guard.nextTag = s.guard.nextTag := (congrArg Guard.nextTag hu.guard).trans ht.tag
  have hreserve := fun q' k => itemAt_setQueue (s := u) (q := (queueAt u q).cq)
    (x := { queueAt u (queueAt u q).cq with used := (queueAt u (queueAt u q).cq).used + (stepEntries p - 1) }) rfl q' k
  refine ⟨fun q' k => ?_, ⟨_, FMap.find_set_same .., rfl, htag, rfl, ?_, rfl, rfl, rfl, rfl, rfl⟩, congrArg (· + 1) htag,
    fun n hn => ?_⟩
  · exact (hreserve q' k).trans (itemAt_congr (congrArg _ (hu.wq.trans ht.wq)) q' k)
  · show stepEntries p - 1 + 1 = stepEntries p
    omega
  · exact ((hheld n hn).walk (hslots n hn) hu).congr rfl

theorem two_le_stepEntries {p : StepBeginP} (h : stepBeginOk p = true) : 2 ≤ stepEntries p := by
  unfold stepBeginOk at h
  simp only [Bool.and_eq_true, decide_eq_true_eq] at h
  obtain ⟨⟨⟨hentries, -⟩, -⟩, -⟩ := h
  exact hentries

/-- What reading the operands of a STEP_BEGIN leaves as it is. -/
theorem stepBegin_walk {bm a b n : Nat} {rs : List Region} {s s1 s2 : State} (hbm : devNat s a 32 = .ok (bm, s1))
    (hrs : readRegions s1 b n = .ok (rs, s2)) : WalkFrame s s2 :=
  (devNat_walk _ _ _ hbm).trans (readRegions_walk _ _ _ hrs)

section
variable {q idx bm : Nat} {rs : List Region} {s s1 s2 : State} {i : Item} {p : StepBeginP} (hb : Begins s q idx i)
  (hcmd : i.cmd = .stepBegin p)
include hb hcmd

theorem exec_stepBegin : exec (.stepBegin q idx) s = toOut s (runStepBegin s q idx) := by
  have hbegins : begins s q idx isStepBegin = true := begins_of_Begins hb (by rw [hcmd]; rfl)
  exact actE_pos hb.1 hbegins

/-- A STEP_BEGIN that runs to an end completes. -/
theorem completes_stepBegin {t : State} {P : State → Prop} (hrun : runStepBegin s q idx = .ok t) (ht : P t) :
    Completes (.stepBegin q idx) s P :=
  ⟨t, by rw [exec_stepBegin hb hcmd, hrun]; rfl, ht⟩

theorem stepBegin_badOperands (hok : stepBeginOk p = false) : Undefined (.stepBegin q idx) s 48 := by
  obtain ⟨-, -, hitem, -⟩ := id hb
  have hrun : runStepBegin s q idx = .error (.undefinedCase 48) := by
    unfold runStepBegin
    rw [cmdAt_of_itemAt hitem, hcmd]
    dsimp only
    rw [if_pos (by rw [hok]; rfl)]
  unfold Undefined
  rw [exec_stepBegin hb hcmd, hrun]
  rfl

variable (hok : stepBeginOk p = true) (hbm : devNat s p.slots 32 = .ok (bm, s1)) (hrs : readRegions s1 p.regions p.nreg = .ok (rs, s2))
include hok hbm hrs

/-- Operands within their ranges are read; what follows is the step's. -/
theorem runStepBegin_read : runStepBegin s q idx =
    if !rs.all regionOk then .error (.undefinedCase 48)
    else if !stepAllowed s2 q p (bitList bm 256) rs then .ok (endItem s2 q idx stBadState)
    else shadowsFit s2 rs >>= fun r =>
      if !r.1 || decide (slotsLeft r.2 (queueAt r.2 q).cq < stepEntries p - 1) then .ok (endItem r.2 q idx stBusy)
      else openStep r.2 q idx p (bitList bm 256) rs >>= fun u => .ok (endItem u q idx stOk) := by
  obtain ⟨-, -, hitem, -⟩ := id hb
  unfold runStepBegin
  rw [cmdAt_of_itemAt hitem, hcmd]
  dsimp only
  rw [if_neg (by rw [hok]; decide), hbm]
  dsimp only [bind, Except.bind]
  rw [hrs]

theorem stepBegin_badRegions (hregions : rs.all regionOk = false) : Undefined (.stepBegin q idx) s 48 := by
  have hrun := runStepBegin_read hb hcmd hok hbm hrs
  rw [if_pos (by rw [hregions]; rfl)] at hrun
  unfold Undefined
  rw [exec_stepBegin hb hcmd, hrun]
  rfl

variable (hregions : rs.all regionOk = true)
include hregions

theorem stepBegin_notAllowed (hallowed : stepAllowed s2 q p (bitList bm 256) rs = false) :
    Completes (.stepBegin q idx) s fun t => OnlyEnded s2 t q idx stBadState := by
  obtain ⟨-, -, hitem, -⟩ := id hb
  have hrun := runStepBegin_read hb hcmd hok hbm hrs
  rw [if_neg (by rw [hregions]; decide), if_pos (by rw [hallowed]; rfl)] at hrun
  have hwalk := stepBegin_walk hbm hrs
  exact completes_stepBegin hb hcmd hrun (onlyEnded_endItem _ hitem (hwalk.itemAt q idx))

variable (hallowed : stepAllowed s2 q p (bitList bm 256) rs = true)
include hallowed

theorem stepBegin_noPages {s3 : State} (hfit : shadowsFit s2 rs = .ok (false, s3)) :
    Completes (.stepBegin q idx) s fun t => OnlyEnded s3 t q idx stBusy := by
  obtain ⟨-, -, hitem, -⟩ := id hb
  have hrun := runStepBegin_read hb hcmd hok hbm hrs
  rw [if_neg (by rw [hregions]; decide), if_neg (by rw [hallowed]; decide), hfit] at hrun
  have hwalk := (stepBegin_walk hbm hrs).trans (shadowsFit_walk rs _ hfit)
  exact completes_stepBegin hb hcmd hrun (onlyEnded_endItem _ hitem (hwalk.itemAt q idx))

theorem stepBegin_opens {s3 u : State} (hfit : shadowsFit s2 rs = .ok (true, s3))
    (hleft : stepEntries p - 1 ≤ slotsLeft s3 (queueAt s3 q).cq) (hopen : openStep s3 q idx p (bitList bm 256) rs = .ok u) :
    Completes (.stepBegin q idx) s fun t =>
      OnlyEnded u t q idx stOk
        ∧ (∃ st, stepAt t q = some st ∧ st.stepid = p.stepid ∧ st.tag = s.guard.nextTag ∧ st.beginIdx = idx
          ∧ st.entries = stepEntries p ∧ st.attempt = 1 ∧ st.phase = .running ∧ st.reserved = stepEntries p - 1
          ∧ st.regions = rs ∧ st.slots = bitList bm 256)
        ∧ t.guard.nextTag = s.guard.nextTag + 1
        ∧ (∀ n ∈ bitList bm 256, slotHeld t n = true ∧ regFld t (slotReg n 0x30) 31 16 = q % 2 ^ 16) := by
  obtain ⟨-, -, hitem, -⟩ := id hb
  have hrun := runStepBegin_read hb hcmd hok hbm hrs
  rw [if_neg (by rw [hregions]; decide), if_neg (by rw [hallowed]; decide), hfit] at hrun
  dsimp only [bind, Except.bind] at hrun
  rw [if_neg (by simp [hleft]), hopen] at hrun
  have hwalk := (stepBegin_walk hbm hrs).trans (shadowsFit_walk rs _ hfit)
  obtain ⟨hitems, hstep, htag, hheld⟩ := openStep_opened s3 q idx rs (two_le_stepEntries hok) (fun _ => lt_of_mem_bitList) u hopen
  rw [hwalk.guard] at hstep htag
  refine completes_stepBegin hb hcmd hrun ⟨onlyEnded_endItem _ hitem ((hitems q idx).trans (hwalk.itemAt q idx)), hstep, htag, ?_⟩
  exact fun n hn => (hheld n hn).congr rfl

end

/-! ### STEP_COMMIT (R184, R185) -/

section
variable {q idx n : Nat} {s : State} {i : Item} (hb : Begins s q idx i) (hcmd : i.cmd = .stepCommit n)
include hb hcmd

theorem exec_stepCommit : exec (.stepCommit q idx) s = .next (runStepCommit s q idx) := by
  have hbegins : begins s q idx isStepCommit = true := begins_of_Begins hb (by rw [hcmd]; rfl)
  exact act_pos hb.1 hbegins

theorem stepCommit_names {st : Step} (hst : stepAt s q = some st) (hopen : st.phase ≠ .held) (hid : st.stepid = n) :
    Completes (.stepCommit q idx) s fun t =>
      stepAt t q = some { st with phase := .committing, commitIdx := idx }
        ∧ (∃ y, itemAt t q idx = some y ∧ y.phase = .running) ∧ t = { s with wq := t.wq, guard := t.guard } := by
  obtain ⟨-, -, hitem, -⟩ := id hb
  have hrun : runStepCommit s q idx = setStep (startItem s q idx) q { st with phase := .committing, commitIdx := idx } := by
    unfold runStepCommit
    rw [hst, cmdAt_of_itemAt hitem, hcmd]
    exact if_pos ⟨hopen, hid⟩
  have hstarted : ∃ y, itemAt (startItem s q idx) q idx = some y ∧ y.phase = .running :=
    ⟨_, itemAt_updItem_same (fun _ => by rfl) hitem, rfl⟩
  exact ⟨_, (exec_stepCommit hb hcmd).trans (congrArg _ hrun), FMap.find_set_same .., hstarted, rfl⟩

/-- No open step of the queue has the id that a STEP_COMMIT names. -/
theorem stepCommit_other (hother : ∀ st, stepAt s q = some st → ¬(st.phase ≠ .held ∧ st.stepid = n)) :
    Completes (.stepCommit q idx) s fun t => OnlyEnded s t q idx stBadState := by
  obtain ⟨-, -, hitem, -⟩ := id hb
  have hrun : runStepCommit s q idx = endItem s q idx stBadState := by
    unfold runStepCommit
    rw [cmdAt_of_itemAt hitem, hcmd]
    cases hst : stepAt s q with
    | none => rfl
    | some st => exact if_neg (hother st hst)
  exact ⟨_, (exec_stepCommit hb hcmd).trans (congrArg _ hrun), onlyEnded_endItem _ hitem rfl⟩

end

/-! ### The evaluation (R177, R185 to R191) -/

/-- What an evaluation leaves as it is: the pails, and which queues run, flush or are held. -/
structure EvalFrame (s t : State) : Prop where
  pails : t.pails = s.pails
  st : ∀ p, (queueAt t p).st = (queueAt s p).st

theorem EvalFrame.refl (s : State) : EvalFrame s s := ⟨rfl, fun _ => rfl⟩

theorem EvalFrame.trans {s t u : State} (h : EvalFrame s t) (h' : EvalFrame t u) : EvalFrame s u :=
  ⟨h'.pails.trans h.pails, fun p => (h'.st p).trans (h.st p)⟩

theorem EvalFrame.of_wq {s t : State} (hpails : t.pails = s.pails) (hwq : t.wq = s.wq) : EvalFrame s t :=
  ⟨hpails, fun p => by unfold queueAt; rw [hwq]⟩

theorem WalkFrame.eval {s t : State} (h : WalkFrame s t) : EvalFrame s t := .of_wq (pails_of_hubView h.hub) h.wq

theorem RecordFrame.eval {s t : State} (h : RecordFrame s t) : EvalFrame s t := ⟨pails_of_hubView h.hub, h.st⟩

theorem EvalFrame.foldl {α : Type} {f : State → α → State} (hf : ∀ s a, EvalFrame s (f s a)) (l : List α) (s : State) :
    EvalFrame s (l.foldl f s) := by
  induction l generalizing s with
  | nil => exact .refl s
  | cons a l ih => exact (hf s a).trans (ih _)

theorem EvalFrame.foldlM {α : Type} {f : State → α → Except Halt State} (hf : ∀ s a, Ends (EvalFrame s) (f s a)) (l : List α)
    (s : State) : Ends (EvalFrame s) (l.foldlM f s) :=
  Ends.foldlM (fun t a ht u hu => ht.trans (hf t a u hu)) l (.refl s)

theorem evalFrame_regSet (s : State) (a v : Nat) : EvalFrame s (regSet s a v) := .of_wq rfl rfl

theorem evalFrame_setSlot (s : State) (n : Nat) (x : SlotSt) : EvalFrame s (setSlot s n x) := .of_wq rfl rfl

theorem evalFrame_setStep (s : State) (q : Nat) (st : Step) : EvalFrame s (setStep s q st) := .of_wq rfl rfl

theorem evalFrame_bump (s : State) : EvalFrame s (bump s) := .of_wq rfl rfl

theorem evalFrame_event (s : State) (f i c : Nat) : EvalFrame s (event s f i c) :=
  .of_wq (event_pails ..) (event_wq ..)

theorem evalFrame_msix (s : State) (v : Nat) : EvalFrame s (msix s v) := by
  rw [msix_frame]
  exact .of_wq rfl rfl

theorem evalFrame_evalSlot (st : Step) (s : State) (n : Nat) : EvalFrame s (evalSlot st s n) :=
  (((evalFrame_regSet s _ _).trans (evalFrame_regSet _ _ _)).trans (evalFrame_regSet _ _ _)).trans (evalFrame_setSlot _ n _)

theorem evalFrame_commitSlot (s : State) (n : Nat) : EvalFrame s (commitSlot s n) :=
  (((evalFrame_regSet s _ _).trans (evalFrame_regSet _ _ _)).trans (evalFrame_setSlot _ n _)).trans (evalFrame_regSet _ _ _)

theorem evalFrame_clearSlot (s : State) (n : Nat) : EvalFrame s (clearSlot s n) := evalFrame_setSlot s n _

theorem evalFrame_releaseSlot (s : State) (n : Nat) : EvalFrame s (releaseSlot s n) :=
  ((evalFrame_regSet s _ _).trans (evalFrame_regSet _ _ _)).trans (evalFrame_bump _)

theorem evalFrame_replayScale (s : State) (n : Nat) : EvalFrame s (replayScale s n) := by
  unfold replayScale
  split
  · exact .refl s
  · dsimp only
    split
    · exact .refl s
    · exact .of_wq rfl rfl

theorem tripRecord_eval (q : Nat) (st : Step) (action : Nat) (s : State) (n : Nat) :
    Ends (EvalFrame s) (tripRecord q st action s n) := by
  unfold tripRecord
  extract_lets entries tail next
  split
  · exact .ok (evalFrame_event ..)
  · exact (devWrite_walk _ _).bind fun t ht => .ok ((ht.eval.trans (evalFrame_regSet t _ _)).trans (evalFrame_msix _ _))

theorem writeScale_eval (s : State) (n : Nat) : Ends (EvalFrame s) (writeScale s n) := by
  unfold writeScale
  exact (devWrite_walk _ _).bind fun t ht => .ok (.of_wq (pails_of_hubView ht.hub) ht.wq)

theorem putRecords_frame (s : State) (q : Nat) (is : List Item) (st : Item → Nat) (held : Item → Bool) (detail : Nat) :
    Ends (RecordFrame s) (putRecords s q is st held detail) :=
  Ends.foldlM (fun t i ht u hu => ht.trans (putRecord_frame t q i _ _ _ u hu)) is (.refl s)

theorem evalFrame_updQueue (s : State) (q : Nat) (f : Queue → Queue) (hf : ∀ x, (f x).st = x.st) : EvalFrame s (updQueue s q f) :=
  (recordFrame_updQueue s q f hf).eval

theorem evalFrame_freeSlots (s : State) (q n : Nat) : EvalFrame s (freeSlots s q n) := evalFrame_updQueue s _ _ fun _ => rfl

theorem evalFrame_closeStep (s : State) (q : Nat) (st : Step) : EvalFrame s (closeStep s q st) :=
  ((EvalFrame.foldl evalFrame_releaseSlot st.slots s).trans (evalFrame_freeSlots _ q _)).trans (.of_wq rfl rfl)

theorem commitStep_eval (s : State) (q : Nat) (st : Step) : Ends (EvalFrame s) (commitStep s q st) :=
  (overRegions_walk _ fun r _ n => commitEntry_walk r n).bind fun t ht =>
    .ok ((ht.eval.trans (.foldl evalFrame_commitSlot st.slots t)).trans (evalFrame_closeStep _ q st))

theorem replayStep_eval (s : State) (q : Nat) (st : Step) : Ends (EvalFrame s) (replayStep s q st) := by
  refine (EvalFrame.foldlM writeScale_eval st.slots _).bind fun t ht =>
    (overRegions_walk _ fun r _ n => replayEntry_walk r n).bind fun u hu => .ok ?_
  have hscales := (EvalFrame.foldl evalFrame_replayScale st.slots s).trans ht
  have hcleared := (hscales.trans hu.eval).trans (.foldl evalFrame_clearSlot st.slots u)
  exact (hcleared.trans (evalFrame_setStep _ q _)).trans (evalFrame_updQueue _ q _ fun _ => rfl)

/-- The slots of a step that trip at an evaluation. -/
def evalTrips (st : Step) (s : State) : List Nat := st.slots.filter fun n => decide (lastCauses (st.slots.foldl (evalSlot st) s) n ≠ 0)

/-- An evaluation replays: a slot that trips asks for it. -/
def evalReplays (st : Step) (s : State) : Bool :=
  (evalTrips st s).any fun n => bit (regGet (st.slots.foldl (evalSlot st) s) (slotReg n 0)) 1

theorem evalReplays_eq (st : Step) (s : State) : evalReplays st s =
    st.slots.any fun n => decide (lastCauses (st.slots.foldl (evalSlot st) s) n ≠ 0)
      && bit (regGet (st.slots.foldl (evalSlot st) s) (slotReg n 0)) 1 := by
  unfold evalReplays evalTrips
  exact List.any_filter ..

/-- The state in which the guard has evaluated the slots and written the trip records. -/
def evaluated (s : State) (q : Nat) (st : Step) (action : Nat) : Except Halt State :=
  (evalTrips st s).foldlM (tripRecord q st action) (st.slots.foldl (evalSlot st) s)

theorem evaluated_eval (s : State) (q : Nat) (st : Step) (action : Nat) : Ends (EvalFrame s) (evaluated s q st action) :=
  fun u hu => (EvalFrame.foldl (evalFrame_evalSlot st) st.slots s).trans (EvalFrame.foldlM (tripRecord_eval q st action) _ _ u hu)

/-- A step is held, and its commands' records say so (R188). -/
def holdStep (s : State) (q : Nat) (st : Step) (is : List Item) : Except Halt State :=
  stepRecords (setStep (freeSlots s q st.reserved) q { st with phase := .held, reserved := 0 }) q st is stTripped >>= fun u =>
    .ok (updQueue u q fun x => { x with st := if x.st = .flushing then .flushing else .held })

section
variable {s : State} {q : Nat} {st : Step}

theorem evaluateStep_commits (h : evalReplays st s = false) : evaluateStep s q st =
    (evaluated s q st 0 >>= fun t => st.slots.foldlM writeScale t >>= fun t => commitStep t q st >>= fun t =>
      stepRecords t q st (stepItems s q st) (if st.attempt = 1 then stOk else stReplayed)) := by
  unfold evalReplays evalTrips at h
  unfold evaluateStep evaluated evalTrips
  dsimp only
  rw [h]
  rfl

theorem evaluateStep_replays (h : evalReplays st s = true) (hlimit : st.attempt ≤ st.limit) :
    evaluateStep s q st = (evaluated s q st 32 >>= fun t => replayStep t q st) := by
  unfold evalReplays evalTrips at h
  unfold evaluateStep evaluated evalTrips
  dsimp only
  rw [h, if_neg (by decide), if_pos hlimit]
  rfl

theorem evaluateStep_holds (h : evalReplays st s = true) (hlimit : st.limit < st.attempt) : evaluateStep s q st =
    (evaluated s q st 64 >>= fun t => st.slots.foldlM writeScale t >>= fun t => holdStep t q st (stepItems s q st)) := by
  unfold evalReplays evalTrips at h
  unfold evaluateStep evaluated evalTrips
  dsimp only
  rw [h, if_neg (by decide), if_neg (by omega)]
  rfl

end

/-- A committed step is gone. -/
theorem commitStep_gone (s : State) (q : Nat) (st : Step) : Ends (fun u => stepAt u q = none) (commitStep s q st) :=
  (Ends.any _).bind fun _ _ => .ok (FMap.find_drop_same ..)

/-- A replayed step runs its next attempt. -/
theorem replayStep_next (s : State) (q : Nat) (st : Step) :
    Ends (fun u => stepAt u q = some { st with attempt := st.attempt + 1, phase := .running }) (replayStep s q st) :=
  (Ends.any _).bind fun _ _ => (Ends.any _).bind fun _ _ => .ok (FMap.find_set_same ..)

/-- A step that is held, in its queue. -/
theorem holdStep_held (s : State) (q : Nat) (st : Step) (is : List Item) :
    Ends (fun u => u.pails = s.pails ∧ stepAt u q = some { st with phase := .held, reserved := 0 }
      ∧ (queueAt u q).st = if (queueAt s q).st = .flushing then .flushing else .held) (holdStep s q st is) := by
  refine (putRecords_frame _ _ _ _ _ _).bind fun u hu => .ok ?_
  have hframe := ((evalFrame_freeSlots s q st.reserved).trans (evalFrame_setStep _ q _)).trans hu.eval
  have hstep : stepAt u q = some { st with phase := .held, reserved := 0 } := by
    unfold stepAt
    rw [hu.guard]
    exact FMap.find_set_same ..
  refine ⟨hframe.pails, hstep, ?_⟩
  unfold updQueue
  rw [queueAt_setQueue_same]
  dsimp only
  rw [hframe.st q]

section
variable {s : State} {q : Nat} {st : Step}

/-- An evaluation without a replay: the step is gone. -/
theorem evaluation_commits (h : evalReplays st s = false) :
    Ends (fun u => u.pails = s.pails ∧ stepAt u q = none) (evaluateStep s q st) := by
  rw [evaluateStep_commits h]
  refine (evaluated_eval s q st 0).bind fun t ht => (EvalFrame.foldlM writeScale_eval st.slots t).bind fun u hu =>
    .bind (fun v hv => And.intro (commitStep_eval u q st v hv) (commitStep_gone u q st v hv)) fun v ⟨hv, hgone⟩ w hw => ?_
  have hrec := putRecords_frame _ _ _ _ _ _ w hw
  refine ⟨(((ht.trans hu).trans hv).trans hrec.eval).pails, ?_⟩
  unfold stepAt at hgone ⊢
  rw [hrec.guard, hgone]

/-- A replay within the limit: the next attempt of the step. -/
theorem evaluation_replays (h : evalReplays st s = true) (hlimit : st.attempt ≤ st.limit) :
    Ends (fun u => u.pails = s.pails ∧ stepAt u q = some { st with attempt := st.attempt + 1, phase := .running })
      (evaluateStep s q st) := by
  rw [evaluateStep_replays h hlimit]
  exact (evaluated_eval s q st 32).bind fun t ht u hu =>
    ⟨(ht.trans (replayStep_eval t q st u hu)).pails, replayStep_next t q st u hu⟩

/-- A replay beyond the limit: the step and its queue are held. -/
theorem evaluation_holds (h : evalReplays st s = true) (hlimit : st.limit < st.attempt) :
    Ends (fun u => u.pails = s.pails ∧ stepAt u q = some { st with phase := .held, reserved := 0 }
      ∧ (queueAt u q).st = if (queueAt s q).st = .flushing then .flushing else .held) (evaluateStep s q st) := by
  rw [evaluateStep_holds h hlimit]
  refine (evaluated_eval s q st 64).bind fun t ht => (EvalFrame.foldlM writeScale_eval st.slots t).bind fun u hu v hv => ?_
  have hframe := ht.trans hu
  obtain ⟨hpails, hstep, hst⟩ := holdStep_held u q st _ v hv
  exact ⟨hpails.trans hframe.pails, hstep, by rw [hst, hframe.st q]⟩

end

theorem evaluateStep_pails (s : State) (q : Nat) (st : Step) : Ends (fun u => u.pails = s.pails) (evaluateStep s q st) := by
  intro u hu
  cases h : evalReplays st s with
  | false => exact (evaluation_commits h u hu).1
  | true =>
    rcases Nat.lt_or_ge st.limit st.attempt with hlimit | hlimit
    · exact (evaluation_holds h hlimit u hu).1
    · exact (evaluation_replays h hlimit u hu).1

/-- STEP_EVALUATION of a step whose commands have ended, with nothing that waits for it. -/
theorem completes_evaluation {s u : State} {q : Nat} {st : Step} (hp : powered s = true) (hjob : s.boot.dev = .job)
    (hst : stepAt s q = some st) (hready : stepReady s q st = true) (hbusy : s.pails.busy = none) (hdeferred : s.pails.deferred = [])
    (hu : evaluateStep s q st = .ok u) : Completes (.stepEvaluation q) s fun t => t = passHead u q := by
  have hpails : (passHead u q).pails = s.pails := evaluateStep_pails s q st u hu
  have hrun : runEvaluation s q = .ok (passHead u q) := by
    unfold runEvaluation
    rw [hst]
    dsimp only [bind, Except.bind]
    rw [hu]
    dsimp only
    rw [tryFlushEnd_idle (hpails ▸ hbusy)]
    exact settlePails_idle (hpails ▸ hbusy) (hpails ▸ hdeferred)
  refine ⟨_, ?_, rfl⟩
  show execStepEvaluation q s = .next (passHead u q)
  unfold execStepEvaluation
  rw [actE_pos hp (by rw [engineRuns_job hjob, hst]; exact hready), hrun]
  rfl

/-! ### Reports (R174 to R176) -/

section
variable (s : State) (r : Report)

/-- A report joins its slot, and nothing else. -/
theorem addReport_eq : addReport s r = setSlot s r.slot (slotAt (addReport s r) r.slot) := by
  unfold addReport slotAt setSlot
  rw [FMap.getD_set_same]

theorem judgeReport_taken (h : reportTaken s r = true) : judgeReport s r = addReport s r := if_pos h

theorem judgeReport_stray (h : reportTaken s r = false) : judgeReport s r = event s (hubReg 0x40010) 8 (hubReg 0x40018) :=
  if_neg (by rw [h]; decide)

/-- A judged report: no step, no report, no memory, no queue and no packet changes. -/
theorem judgeReport_frame : judgeReport s r
    = { s with guard := { s.guard with slots := (judgeReport s r).guard.slots }, regs := (judgeReport s r).regs } := by
  cases h : reportTaken s r with
  | false => rw [judgeReport_stray s r h, event_eq]
  | true => rw [judgeReport_taken s r h]; rfl

/-- An answered report: no memory, no register and no part of the guard changes. -/
theorem answerReport_frame : answerReport s r = { s with wq := (answerReport s r).wq, rings := (answerReport s r).rings } := by
  unfold answerReport
  split <;> rfl

end

/-- The state from which the oldest report has been taken. -/
def reportDropped (s : State) (rs : List Report) : State := { s with guard := { s.guard with reports := rs } }

section
variable {s : State} {r : Report} {rs : List Report} (hreports : s.guard.reports = r :: rs)
include hreports

theorem takeReport_eq : takeReport s = answerReport (judgeReport (reportDropped s rs) r) r := by
  unfold takeReport reportDropped
  rw [hreports]

theorem exec_guardReport (hp : powered s = true) : exec .guardReport s = .next (takeReport s) :=
  act_pos hp (by rw [hreports]; rfl)

end

section
variable {s : State} {r : Report} {rs : List Report}

/-- What a report does to its slot when its step holds the slot. -/
theorem takenReport_slot (h : reportTaken s r = true) :
    let t := answerReport (judgeReport (reportDropped s rs) r) r
    (slotAt t r.slot).sumsq = ((slotAt s r.slot).sumsq + r.sumsq) % 2 ^ 640
      ∧ (slotAt t r.slot).amax = max (slotAt s r.slot).amax r.amax
      ∧ (slotAt t r.slot).nonfinite = (slotAt s r.slot).nonfinite + r.nonfinite
      ∧ (slotAt t r.slot).overflow = ((slotAt s r.slot).overflow || r.overflow)
      ∧ (∀ n, n ≠ r.slot → slotAt t n = slotAt s n) ∧ t.regs = s.regs := by
  have htaken : reportTaken (reportDropped s rs) r = true := h
  intro t
  have ht : t = _ := answerReport_frame (judgeReport (reportDropped s rs) r) r
  rw [judgeReport_taken _ r htaken] at ht
  have hslot : slotAt t r.slot = slotAt (addReport (reportDropped s rs) r) r.slot := by rw [ht]; rfl
  have hadd : slotAt (addReport (reportDropped s rs) r) r.slot = _ := FMap.getD_set_same ..
  rw [hslot, hadd]
  refine ⟨rfl, rfl, rfl, rfl, fun n hn => ?_, by rw [ht]; rfl⟩
  rw [ht]
  exact FMap.getD_set_ne _ _ _ hn

/-- A report whose step does not hold its slot is counted as a stray. -/
theorem strayReport_counted (h : reportTaken s r = false) :
    let t := answerReport (judgeReport (reportDropped s rs) r) r
    t.guard.slots = s.guard.slots ∧ bit (regGet t (hubReg 0x40010)) 8 = true
      ∧ regGet t (hubReg 0x40018) = counterAdd (regGet s (hubReg 0x40018)) 1
      ∧ RegsKept s t [hubReg 0x40010, hubReg 0x40018] := by
  have hstray : reportTaken (reportDropped s rs) r = false := h
  have hne : hubReg 0x40010 ≠ hubReg 0x40018 := hubReg_ne (by decide)
  intro t
  have ht : t = _ := answerReport_frame (judgeReport (reportDropped s rs) r) r
  rw [judgeReport_stray _ r hstray] at ht
  have hregs : t.regs = (event (reportDropped s rs) (hubReg 0x40010) 8 (hubReg 0x40018)).regs := by rw [ht]
  have hguard : t.guard.slots = (event (reportDropped s rs) (hubReg 0x40010) 8 (hubReg 0x40018)).guard.slots := by rw [ht]
  have hget := funext (regGet_congr hregs)
  refine ⟨hguard.trans (by rw [event_guard]; rfl), ?_, ?_, fun a ha => ?_⟩
  · rw [hget]
    exact event_flag _ _ _ _ (by decide) hne
  · rw [hget]
    exact event_count _ _ _ _ hne.symm
  · rw [List.mem_cons, List.mem_singleton, not_or] at ha
    rw [hget]
    exact regGet_event_ne _ 8 ha.1 ha.2

end

theorem judgeReport_wq (s : State) (r : Report) : (judgeReport s r).wq = s.wq := by rw [judgeReport_frame]

theorem judgeReport_rings (s : State) (r : Report) : (judgeReport s r).rings = s.rings := by rw [judgeReport_frame]

/-- The report of a DRAIN is acknowledged to its core. -/
theorem drainReport_acknowledged (s : State) {r : Report} (h : r.item = none) :
    (answerReport s r).wq = s.wq ∧ ∃ p : Packet, Sends s (answerReport s r) hubStop p ∧ p.ty = .msg ∧ p.dst = coreStop r.core
      ∧ p.owner = some (r.core, r.seq) := by
  unfold answerReport
  rw [h]
  exact ⟨rfl, _, sends_sendPacket s hubStop _, rfl, rfl, rfl⟩

/-- The report of a GEMM ends it. -/
theorem itemReport_ends {s : State} {r : Report} {q idx : Nat} {i : Item} (h : r.item = some (q, idx)) (hi : itemAt s q idx = some i) :
    Ended (answerReport s r) q idx stOk ∧ (answerReport s r).rings = s.rings := by
  unfold answerReport
  rw [h]
  exact ⟨ended_endItem stOk hi, rfl⟩

/-- Settles O31: opening a step and walking its regions reach neither the queues' items nor the slots' registers, and the records
of an evaluation leave the guard as the evaluation left it. -/
theorem guardedSteps : Obligations.GuardedSteps := by
  refine ⟨?_, ?_, ?_, ?_, ?_, ?_, ?_, ?_⟩
  · intro q idx bm rs s s1 s2 i p hb hcmd hok hbm hrs hregions
    refine ⟨fun hallowed => ?_, fun s3 hallowed hfit => ?_, fun s3 u hallowed hfit hleft hopen => ?_⟩
    · exact stepBegin_notAllowed hb hcmd hok hbm hrs hregions hallowed
    · exact stepBegin_noPages hb hcmd hok hbm hrs hregions hallowed hfit
    · exact stepBegin_opens hb hcmd hok hbm hrs hregions hallowed hfit hleft hopen
  · intro q idx s i p hb hcmd
    exact ⟨stepBegin_badOperands hb hcmd, fun bm rs s1 s2 hok hbm hrs hregions => stepBegin_badRegions hb hcmd hok hbm hrs hregions⟩
  · intro q idx n s i hb hcmd
    refine ⟨fun st hst hopen hid => stepCommit_names hb hcmd hst hopen hid, fun st hst hother => ?_, fun hnone => ?_⟩
    · refine stepCommit_other hb hcmd fun st' hst' ⟨hopen, hid⟩ => ?_
      cases hst.symm.trans hst'
      exact hother.elim hopen (· hid)
    · exact stepCommit_other hb hcmd fun st hst => by rw [hnone] at hst; cases hst
  · intro q s u st hp hjob hst hready hbusy hdeferred hu
    exact completes_evaluation hp hjob hst hready hbusy hdeferred hu
  · intro q s u st hu
    dsimp only
    rw [← evalReplays_eq]
    refine ⟨fun h => (evaluation_commits h u hu).2, fun h hlimit => ?_, fun h hlimit => ?_⟩
    · exact ⟨_, (evaluation_replays h hlimit u hu).2, rfl, rfl, rfl⟩
    · obtain ⟨-, hstep, hst⟩ := evaluation_holds h hlimit u hu
      exact ⟨⟨_, hstep, rfl, rfl⟩, hst⟩
  · intro q s hst
    exact actE_neg (by rw [hst, Bool.and_false])
  · intro s r rs hp hreports
    refine ⟨_, (exec_guardReport hreports hp).trans (congrArg _ (takeReport_eq hreports)), ?_, ?_, ?_, takenReport_slot,
      strayReport_counted, fun hitem => ?_, fun q idx i hitem hi => ?_⟩
    · rw [answerReport_frame, judgeReport_frame]; rfl
    · rw [answerReport_frame, judgeReport_frame]; rfl
    · rw [answerReport_frame, judgeReport_frame]; rfl
    · have hack := drainReport_acknowledged (judgeReport (reportDropped s rs) r) hitem
      unfold Sends injectQ at hack ⊢
      rwa [judgeReport_wq, judgeReport_rings] at hack
    · have hitemAt : itemAt (judgeReport (reportDropped s rs) r) q idx = some i :=
        (itemAt_congr (congrArg _ (judgeReport_wq _ r)) q idx).trans hi
      obtain ⟨hended, hrings⟩ := itemReport_ends hitem hitemAt
      exact ⟨hended, hrings.trans (judgeReport_rings _ r)⟩
  · intro s hreports
    exact act_neg (by rw [hreports]; rfl)

end Sys2Proof.Machine

namespace Sys2Proof.Machine

/-! ## Cooling, thermal limits and wear (O60): R217, R352, R403 to R415 -/

/-! ### Registers that are distinct -/

theorem thmReg_ne (h : Nat) {x y : Nat} (hxy : x ≠ y) : thmReg h x ≠ thmReg h y := by
  unfold thmReg sheafWin; omega

theorem thmReg_ne_hubReg (h : Nat) {x y : Nat} (hx : x < 0x10000) (hy : y < 0x100000) : thmReg h x ≠ hubReg y := by
  unfold thmReg hubReg sheafWin; omega

theorem thmReg_ne_pwrReg (g h : Nat) {x y : Nat} (hx : x < 0x10000) (hy : y < 0x10000) : thmReg g x ≠ pwrReg h y := by
  unfold thmReg pwrReg sheafWin; omega

theorem thmReg_ne_coreReg (h c : Nat) {x y : Nat} (hx : x < 0x10000) (hy : y < 0x10000) : thmReg h x ≠ coreReg c y := by
  unfold thmReg coreReg sheafWin; omega

theorem thmReg_ne_vltReg (h v : Nat) {x y : Nat} (hx : x < 0x10000) (hy : y < 0x10000) : thmReg h x ≠ vltReg v y := by
  unfold thmReg vltReg sheafWin; omega

theorem vltReg_ne (v : Nat) {x y : Nat} (hxy : x ≠ y) : vltReg v x ≠ vltReg v y := by
  unfold vltReg sheafWin; omega

theorem vltReg_ne_of_vault {v w x y : Nat} (hvw : v ≠ w) (hx : x < 0x10000) (hy : y < 0x10000) : vltReg v x ≠ vltReg w y := by
  unfold vltReg sheafWin; omega

/-! ### Sensors that are excluded (R403) -/

/-- From `s` to `t` sensors of a sheaf may have been excluded, and THM_STATUS shows it if one was. -/
structure Excludes (h : Nat) (s t : State) : Prop where
  stays : ∀ n, excluded s h n = true → excluded t h n = true
  shown : ∀ n, excluded s h n = false → excluded t h n = true → bit (regGet t (thmReg h 0)) 3 = true
  flag : bit (regGet s (thmReg h 0)) 3 = true → bit (regGet t (thmReg h 0)) 3 = true
  regs : RegsKept s t [thmReg h 0, thmReg h 0x20]
  only : t = { s with thermal := t.thermal, regs := t.regs, flash := t.flash }

theorem Excludes.of_excluded {h : Nat} {s t : State} (hexcl : ∀ n, excluded t h n = excluded s h n) (hregs : t.regs = s.regs)
    (only : t = { s with thermal := t.thermal, regs := t.regs, flash := t.flash }) : Excludes h s t where
  stays n hn := (hexcl n).trans hn
  shown n hn ht := by rw [hexcl, hn] at ht; cases ht
  flag hbit := by rwa [regGet_congr hregs]
  regs a _ := regGet_congr hregs a
  only := only

theorem Excludes.refl (h : Nat) (s : State) : Excludes h s s := .of_excluded (fun _ => rfl) rfl rfl

theorem Excludes.trans {h : Nat} {s t u : State} (hst : Excludes h s t) (htu : Excludes h t u) : Excludes h s u where
  stays n hn := htu.stays n (hst.stays n hn)
  shown n hs hu := by
    cases ht : excluded t h n with
    | true => exact htu.flag (hst.shown n hs ht)
    | false => exact htu.shown n ht hu
  flag hbit := htu.flag (hst.flag hbit)
  regs a ha := (htu.regs a ha).trans (hst.regs a ha)
  only := by rw [htu.only, hst.only]

theorem Excludes.forEach {α : Type} {h : Nat} {f : State → α → State} (hf : ∀ s a, Excludes h s (f s a)) (s : State) (l : List α) :
    Excludes h s (forEach s l f) := by
  unfold Machine.forEach
  induction l generalizing s with
  | nil => exact .refl h s
  | cons a l ih => exact (hf s a).trans (ih _)

theorem markUnit_flash (s : State) (kind reason number sub : Nat) :
    markUnit s kind reason number sub = { s with flash := (markUnit s kind reason number sub).flash } :=
  (markUnit_spec s kind reason number sub).2

theorem markBlind_flash (s : State) (h n : Nat) : markBlind s h n = { s with flash := (markBlind s h n).flash } := by
  unfold markBlind
  split
  · split
    · exact markUnit_flash ..
    · exact markUnit_flash ..
  · rfl

/-- The state in which a sensor is on the list of excluded ones, before its core or vault may be marked. -/
def listSensor (h : Nat) (s : State) (n : Nat) : State :=
  event { s with thermal := { s.thermal with excluded := sensorKey h n :: s.thermal.excluded } } (thmReg h 0) 3 (thmReg h 0x20)

theorem excludeSensor_new {h n : Nat} {s : State} (hn : excluded s h n = false) :
    excludeSensor h s n = markBlind (listSensor h s n) h n := by
  unfold excludeSensor
  rw [hn]
  rfl

theorem excludeSensor_old {h n : Nat} {s : State} (hn : excluded s h n = true) : excludeSensor h s n = s := if_pos hn

theorem excludes_listSensor (h : Nat) (s : State) (n : Nat) : Excludes h s (listSensor h s n) where
  stays m hm := by
    unfold listSensor excluded
    rw [event_thermal]
    exact List.contains_iff_mem.2 (List.mem_cons_of_mem _ (List.contains_iff_mem.1 hm))
  shown _ _ _ := event_flag _ _ _ _ (by decide) (thmReg_ne h (by decide))
  flag _ := event_flag _ _ _ _ (by decide) (thmReg_ne h (by decide))
  regs := regsKept_event _ _ _ _
  only := rfl

theorem excludes_excludeSensor (h : Nat) (s : State) (n : Nat) : Excludes h s (excludeSensor h s n) := by
  cases hn : excluded s h n with
  | true => rw [excludeSensor_old hn]; exact .refl h s
  | false =>
    rw [excludeSensor_new hn, markBlind_flash]
    exact (excludes_listSensor h s n).trans (.of_excluded (fun _ => rfl) rfl rfl)

theorem excluded_excludeSensor (h : Nat) (s : State) (n : Nat) : excluded (excludeSensor h s n) h n = true := by
  cases hn : excluded s h n with
  | true => rw [excludeSensor_old hn]; exact hn
  | false =>
    rw [excludeSensor_new hn, markBlind_flash]
    unfold listSensor excluded
    rw [event_thermal]
    exact List.contains_iff_mem.2 List.mem_cons_self

theorem excluded_forEach {h n : Nat} {l : List Nat} (hn : n ∈ l) (s : State) :
    excluded (forEach s l (excludeSensor h)) h n = true := by
  obtain ⟨l₁, l₂, rfl⟩ := List.append_of_mem hn
  unfold forEach
  rw [List.foldl_append, List.foldl_cons]
  exact (Excludes.forEach (excludes_excludeSensor h) _ l₂).stays n (excluded_excludeSensor h _ n)

theorem excludes_takeTemp (h : Nat) (s : State) (r : SensorReading) : Excludes h s (takeTemp h s r) := by
  unfold takeTemp
  split
  · exact .of_excluded (fun _ => rfl) rfl rfl
  · exact .refl h s

/-- The state in which the readings of a sample are taken and those that fail on their own are excluded. -/
def readSensors (s : State) (h : Nat) (rs : List SensorReading) : State :=
  forEach (forEach s rs (takeTemp h)) (failingNos rs fun _ c => badReading c) (excludeSensor h)

theorem excludes_readSensors (s : State) (h : Nat) (rs : List SensorReading) : Excludes h s (readSensors s h rs) :=
  (Excludes.forEach (excludes_takeTemp h) s rs).trans (.forEach (excludes_excludeSensor h) _ _)

theorem excludes_checkSensors_readSensors (s : State) (h : Nat) (rs : List SensorReading) :
    Excludes h (readSensors s h rs) (checkSensors s h rs) := .forEach (excludes_excludeSensor h) _ _

theorem excludes_checkSensors (s : State) (h : Nat) (rs : List SensorReading) : Excludes h s (checkSensors s h rs) :=
  (excludes_readSensors s h rs).trans (excludes_checkSensors_readSensors s h rs)

theorem mem_failingNos {rs : List SensorReading} {p : Nat → Option Int → Bool} {r : SensorReading} {n : Nat} (hr : r ∈ rs)
    (hn : sensorNo r.sensor = some n) (hp : p n r.celsius = true) : n ∈ failingNos rs p := by
  unfold failingNos
  exact List.mem_filterMap.2 ⟨r, hr, by simp [hn, hp]⟩

theorem excluded_checkSensors {s : State} {h n : Nat} {rs : List SensorReading} {r : SensorReading} (hr : r ∈ rs)
    (hn : sensorNo r.sensor = some n) (hbad : badReading r.celsius = true) : excluded (checkSensors s h rs) h n = true :=
  (excludes_checkSensors_readSensors s h rs).stays n (excluded_forEach (mem_failingNos hr hn hbad) _)

/-! ### The hottest sensor as it counts (R403, R404) -/

/-- The hotter of a reading and what the next sensor counts as. -/
def hotter (g : Nat → Option Int) (b : Option (Int × Nat)) (n : Nat) : Option (Int × Nat) := match b, g n with
  | none, some t => some (t, n)
  | some x, some t => if x.1 < t then some (t, n) else some x
  | b, none => b

theorem hottestIn_eq (s : State) (h : Nat) (ns kind : List Nat) :
    hottestIn s h ns kind = ns.foldl (hotter fun n => countsAs s h n (maxTemp (liveTemps s h kind))) none := rfl

theorem hotter_from (g : Nat → Option Int) (b : Option (Int × Nat)) (n : Nat) :
    hotter g b n = b ∨ ∃ t, g n = some t ∧ hotter g b n = some (t, n) := by
  unfold hotter
  split
  · exact .inr ⟨_, ‹_›, rfl⟩
  · split
    · exact .inr ⟨_, ‹_›, rfl⟩
    · exact .inl rfl
  · exact .inl rfl

theorem hotter_of_some (g : Nat → Option Int) (x : Int × Nat) (n : Nat) : ∃ y, hotter g (some x) n = some y ∧ x.1 ≤ y.1 := by
  unfold hotter
  cases g n with
  | none => exact ⟨x, rfl, le_rfl⟩
  | some t =>
    dsimp only
    split
    · exact ⟨_, rfl, by simp only; omega⟩
    · exact ⟨x, rfl, le_rfl⟩

theorem hotter_ge {g : Nat → Option Int} {n : Nat} {t : Int} (hn : g n = some t) (b : Option (Int × Nat)) :
    ∃ y, hotter g b n = some y ∧ t ≤ y.1 := by
  unfold hotter
  rw [hn]
  cases b with
  | none => exact ⟨_, rfl, le_rfl⟩
  | some x =>
    dsimp only
    split
    · exact ⟨_, rfl, le_rfl⟩
    · exact ⟨x, rfl, by omega⟩

theorem foldl_hotter_of_some (g : Nat → Option Int) (x : Int × Nat) (l : List Nat) :
    ∃ y, l.foldl (hotter g) (some x) = some y ∧ x.1 ≤ y.1 := by
  induction l generalizing x with
  | nil => exact ⟨x, rfl, le_rfl⟩
  | cons n l ih =>
    obtain ⟨z, hz, hxz⟩ := hotter_of_some g x n
    obtain ⟨y, hy, hzy⟩ := ih z
    exact ⟨y, by rw [List.foldl_cons, hz, hy], hxz.trans hzy⟩

/-- What the fold gives is what it began with, or a sensor of the list as it counts. -/
theorem foldl_hotter_from (g : Nat → Option Int) (b : Option (Int × Nat)) (l : List Nat) {x : Int × Nat}
    (hx : l.foldl (hotter g) b = some x) : b = some x ∨ (x.2 ∈ l ∧ g x.2 = some x.1) := by
  induction l generalizing b with
  | nil => exact .inl hx
  | cons n l ih =>
    rcases ih _ hx with hb | ⟨hmem, hg⟩
    · rcases hotter_from g b n with heq | ⟨t, ht, heq⟩
      · exact .inl (heq.symm.trans hb)
      · cases heq.symm.trans hb
        exact .inr ⟨List.mem_cons_self, ht⟩
    · exact .inr ⟨List.mem_cons_of_mem _ hmem, hg⟩

theorem foldl_hotter_ge {g : Nat → Option Int} {n : Nat} {t : Int} (hn : g n = some t) (b : Option (Int × Nat)) {l : List Nat}
    (hmem : n ∈ l) : ∃ y, l.foldl (hotter g) b = some y ∧ t ≤ y.1 := by
  obtain ⟨l₁, l₂, rfl⟩ := List.append_of_mem hmem
  obtain ⟨z, hz, htz⟩ := hotter_ge hn (l₁.foldl (hotter g) b)
  obtain ⟨y, hy, hzy⟩ := foldl_hotter_of_some g z l₂
  exact ⟨y, by rw [List.foldl_append, List.foldl_cons, hz, hy], htz.trans hzy⟩

theorem hottestIn_spec {s : State} {h : Nat} {ns kind : List Nat} {x : Int × Nat} (hx : hottestIn s h ns kind = some x) :
    x.2 ∈ ns ∧ countsAs s h x.2 (maxTemp (liveTemps s h kind)) = some x.1
      ∧ ∀ n ∈ ns, ∀ y, countsAs s h n (maxTemp (liveTemps s h kind)) = some y → y ≤ x.1 := by
  rw [hottestIn_eq] at hx
  obtain ⟨hmem, hcounts⟩ := (foldl_hotter_from _ none ns hx).resolve_left nofun
  refine ⟨hmem, hcounts, fun n hn y hy => ?_⟩
  obtain ⟨z, hz, hyz⟩ := foldl_hotter_ge (g := fun n => countsAs s h n (maxTemp (liveTemps s h kind))) hy none hn
  cases hz.symm.trans hx
  exact hyz

/-- An excluded sensor whose group has no other reading counts as 5 °C above the hottest of its kind. -/
theorem countsAs_lost {s : State} {h n : Nat} (hot : Int) (hn : excluded s h n = true) (hnone : liveTemps s h (groupNos n) = []) :
    countsAs s h n (some hot) = some (hot + 5) := by
  unfold countsAs
  rw [hn, hnone]
  rfl

theorem hottestIn_congr {s t : State} (hread : t.thermal.readings = s.thermal.readings)
    (hexcl : t.thermal.excluded = s.thermal.excluded) (h : Nat) (ns kind : List Nat) :
    hottestIn t h ns kind = hottestIn s h ns kind := by
  unfold hottestIn countsAs liveTemps excluded
  rw [hread, hexcl]

/-! ### SENSOR_SAMPLE (R217, R403) -/

/-- From `s` to `t` the hottest readings of a sheaf were shown: which sensors are excluded and what the others read stays. -/
structure TempsShown (h : Nat) (s t : State) : Prop where
  readings : t.thermal.readings = s.thermal.readings
  excluded : t.thermal.excluded = s.thermal.excluded
  regs : RegsKept s t [thmReg h 8]
  only : t = { s with thermal := t.thermal, regs := t.regs }

theorem TempsShown.of_regSet {h : Nat} {s u : State} (hread : u.thermal.readings = s.thermal.readings)
    (hexcl : u.thermal.excluded = s.thermal.excluded) (hregs : u.regs = s.regs) (honly : u = { s with thermal := u.thermal })
    (x : Nat) : TempsShown h s (regSet u (thmReg h 8) x) where
  readings := hread
  excluded := hexcl
  regs a ha := (regGet_regSet_ne _ _ (List.ne_of_not_mem_cons ha)).trans (regGet_congr hregs a)
  only := by rw [honly]; rfl

theorem tempsShown_showTemps (s : State) (h : Nat) : TempsShown h s (showTemps s h) := by
  unfold showTemps
  split
  · refine .of_regSet ?_ ?_ ?_ ?_ _ <;> rfl
  · exact ⟨rfl, rfl, fun _ _ => rfl, rfl⟩

theorem temp8_lt (t : Int) : temp8 t < 256 := by unfold temp8; omega

theorem showTemps_spec {s : State} {h : Nat} {x y z : Int × Nat} (hx : hottest s h allArray = some x)
    (hy : hottest s h allStore = some y) (hz : hottest s h allDram = some z) :
    let t := showTemps s h
    FMap.find t.thermal.hotArray h = some x.1 ∧ FMap.find t.thermal.hotStore h = some y.1
      ∧ FMap.find t.thermal.hotDram h = some z.1 ∧ regFld t (thmReg h 8) 7 0 = temp8 x.1
      ∧ regFld t (thmReg h 8) 15 8 = temp8 y.1 ∧ regFld t (thmReg h 8) 23 16 = temp8 z.1 := by
  have hxlt := temp8_lt x.1
  have hylt := temp8_lt y.1
  have hzlt := temp8_lt z.1
  unfold showTemps
  rw [hx, hy, hz]
  refine ⟨FMap.find_set_same .., FMap.find_set_same .., FMap.find_set_same .., ?_, ?_, ?_⟩
  all_goals
    unfold regFld bits
    rw [regGet_regSet_same]
    omega

theorem OnlyRegs.after_regSetFld {s t : State} (h : OnlyRegs s t) (a hi lo v : Nat) : OnlyRegs s (regSetFld t a hi lo v) :=
  h.after_regSet _ _

theorem OnlyRegs.trans {s t u : State} (h : OnlyRegs s t) (h' : OnlyRegs t u) : OnlyRegs s u := by
  obtain ⟨g, rfl⟩ := h
  obtain ⟨g', rfl⟩ := h'
  exact ⟨g', rfl⟩

theorem OnlyRegs.foldl {α : Type} {f : State → α → State} (hf : ∀ s a, OnlyRegs s (f s a)) (s : State) (l : List α) :
    OnlyRegs s (l.foldl f s) := by
  induction l generalizing s with
  | nil => exact .refl s
  | cons a l ih => exact (hf s a).trans (ih _)

theorem showVault_onlyRegs (s : State) (v : Nat) : OnlyRegs s (showVault s v) := by
  unfold showVault
  split
  · exact .refl s
  · rename_i x k _
    have hlayer := ((OnlyRegs.refl s).after_regSetFld (vltReg v 8) 23 16 (temp8 x)).after_regSetFld (vltReg v 8) 10 8 ((k - 768) % 5)
    dsimp only
    split
    · exact (hlayer.after_regFlag _ _ _).after_regSetFld _ _ _ _
    · split
      · exact hlayer.after_regFlag _ _ _
      · exact hlayer

theorem showVault_regsKept (s : State) (v : Nat) : RegsKept s (showVault s v) [vltReg v 0, vltReg v 8, vltReg v 0x1008] := by
  intro a ha
  simp only [List.mem_cons, List.not_mem_nil, or_false, not_or] at ha
  obtain ⟨hstatus, hrefresh, hlimit⟩ := ha
  unfold showVault
  split
  · rfl
  · dsimp only
    repeat' split
    · rw [regGet_regSetFld_ne _ _ _ _ hlimit, regGet_regFlag_ne _ _ _ hstatus, regGet_regSetFld_ne _ _ _ _ hrefresh,
        regGet_regSetFld_ne _ _ _ _ hrefresh]
    · rw [regGet_regFlag_ne _ _ _ hstatus, regGet_regSetFld_ne _ _ _ _ hrefresh, regGet_regSetFld_ne _ _ _ _ hrefresh]
    · rw [regGet_regSetFld_ne _ _ _ _ hrefresh, regGet_regSetFld_ne _ _ _ _ hrefresh]

/-- A vault whose hottest layer reads `x` shows its request for the throttle in `t`, where it showed another in `s` before. -/
def ThrottleShown (s t : State) (v : Nat) (x : Int) : Prop :=
  (95 < x → bit (regGet t (vltReg v 0)) 4 = true ∧ rowLimit t v ≤ 4)
    ∧ (x ≤ 93 → bit (regGet t (vltReg v 0)) 4 = false)
    ∧ (93 < x → x ≤ 95 → bit (regGet t (vltReg v 0)) 4 = bit (regGet s (vltReg v 0)) 4)

theorem showVault_throttle {s : State} {v : Nat} {x : Int × Nat}
    (hx : hottestIn s (v / 128) (dramNos (v % 128)) allDram = some x) : ThrottleShown s (showVault s v) v x.1 := by
  have hrefresh : vltReg v 0 ≠ vltReg v 8 := vltReg_ne v (by decide)
  have hlimit : vltReg v 0 ≠ vltReg v 0x1008 := vltReg_ne v (by decide)
  unfold showVault
  rw [hx]
  dsimp only
  refine ⟨fun hhot => ?_, fun hcool => ?_, fun hlo hhi => ?_⟩
  · rw [if_pos hhot]
    refine ⟨by rw [regGet_regSetFld_ne _ _ _ _ hlimit]; exact bit_regFlag_same _ _ _ _ (by decide), ?_⟩
    unfold rowLimit
    rw [regFld_regSetFld_same _ _ _ _ _ (by decide) (by decide)]
    omega
  · rw [if_neg (by omega), if_pos hcool]
    exact bit_regFlag_same _ _ _ _ (by decide)
  · rw [if_neg (by omega), if_neg (by omega), regGet_regSetFld_ne _ _ _ _ hrefresh, regGet_regSetFld_ne _ _ _ _ hrefresh]

theorem ThrottleShown.congr {s s' t t' : State} {v : Nat} {x : Int} (h : ThrottleShown s t v x)
    (hs : regGet s' (vltReg v 0) = regGet s (vltReg v 0)) (ht : regGet t' (vltReg v 0) = regGet t (vltReg v 0))
    (hlimit : regGet t' (vltReg v 0x1008) = regGet t (vltReg v 0x1008)) : ThrottleShown s' t' v x := by
  unfold ThrottleShown rowLimit regFld at *
  rw [hs, ht, hlimit]
  exact h

theorem forEach_showVault_onlyRegs (s : State) (l : List Nat) : OnlyRegs s (forEach s l showVault) := .foldl showVault_onlyRegs s l

/-- Vaults write their own registers. -/
theorem regGet_forEach_showVault {a : Nat} {l : List Nat}
    (ha : ∀ v ∈ l, a ∉ [vltReg v 0, vltReg v 8, vltReg v 0x1008]) (s : State) :
    regGet (forEach s l showVault) a = regGet s a := by
  unfold forEach
  induction l generalizing s with
  | nil => rfl
  | cons v l ih =>
    rw [List.foldl_cons, ih (fun w hw => ha w (List.mem_cons_of_mem _ hw))]
    exact showVault_regsKept s v a (ha v List.mem_cons_self)

theorem vltReg_not_mem_shown {v w x : Nat} (hvw : v ≠ w) (hx : x < 0x10000) :
    vltReg v x ∉ [vltReg w 0, vltReg w 8, vltReg w 0x1008] := by
  simp only [List.mem_cons, List.not_mem_nil, or_false, not_or]
  exact ⟨vltReg_ne_of_vault hvw hx (by decide), vltReg_ne_of_vault hvw hx (by decide), vltReg_ne_of_vault hvw hx (by decide)⟩

theorem forEach_showVault_throttle {l : List Nat} (hl : l.Nodup) {v : Nat} (hv : v ∈ l) {s : State} {x : Int × Nat}
    (hx : hottestIn s (v / 128) (dramNos (v % 128)) allDram = some x) : ThrottleShown s (forEach s l showVault) v x.1 := by
  obtain ⟨l₁, l₂, rfl⟩ := List.append_of_mem hv
  obtain ⟨-, hl₂, hdisj⟩ := List.nodup_append.1 hl
  have hbefore : ∀ w ∈ l₁, v ≠ w := fun w hw heq => hdisj w hw v List.mem_cons_self heq.symm
  have hafter : ∀ w ∈ l₂, v ≠ w := fun w hw heq => (List.nodup_cons.1 hl₂).1 (heq ▸ hw)
  have hkept := fun x (hlt : x < 0x10000) u =>
    regGet_forEach_showVault (fun w hw => vltReg_not_mem_shown (hafter w hw) hlt) u
  obtain ⟨g, hg⟩ := forEach_showVault_onlyRegs s l₁
  have hx' : hottestIn (forEach s l₁ showVault) (v / 128) (dramNos (v % 128)) allDram = some x := by
    rw [hg]
    exact hx
  have hsplit : forEach s (l₁ ++ v :: l₂) showVault = forEach (showVault (forEach s l₁ showVault) v) l₂ showVault := by
    unfold forEach
    rw [List.foldl_append, List.foldl_cons]
  rw [hsplit]
  exact (showVault_throttle hx').congr
    (regGet_forEach_showVault (fun w hw => vltReg_not_mem_shown (hbefore w hw) (by decide)) s).symm
    (hkept 0 (by decide) _) (hkept 0x1008 (by decide) _)

theorem nodup_sheafVaults (s : State) (h : Nat) : (sheafVaults s h).Nodup :=
  (List.nodup_range.map fun a b hab => by simpa using hab).filter _

theorem sheaf_of_mem_sheafVaults {s : State} {h v : Nat} (hv : v ∈ sheafVaults s h) : v / 128 = h := by
  obtain ⟨i, hi, rfl⟩ := List.mem_map.1 (List.mem_filter.1 hv).1
  have := List.mem_range.1 hi
  omega

theorem thmReg_not_mem_shown (h v : Nat) {x : Nat} (hx : x < 0x10000) :
    thmReg h x ∉ [vltReg v 0, vltReg v 8, vltReg v 0x1008] := by
  simp only [List.mem_cons, List.not_mem_nil, or_false, not_or]
  exact ⟨thmReg_ne_vltReg h v hx (by decide), thmReg_ne_vltReg h v hx (by decide), thmReg_ne_vltReg h v hx (by decide)⟩

section
variable (s : State) (h : Nat) (rs : List SensorReading)

/-- The vaults' registers alone differ between a sample whose hottest readings are shown and its end. -/
theorem sampleSheaf_onlyRegs : OnlyRegs (showTemps (checkSensors s h rs) h) (sampleSheaf s h rs) := forEach_showVault_onlyRegs _ _

theorem regGet_sampleSheaf_thm {x : Nat} (hx : x < 0x10000) :
    regGet (sampleSheaf s h rs) (thmReg h x) = regGet (showTemps (checkSensors s h rs) h) (thmReg h x) :=
  regGet_forEach_showVault (fun v _ => thmReg_not_mem_shown h v hx) _

theorem sampleSheaf_thermal : (sampleSheaf s h rs).thermal = (showTemps (checkSensors s h rs) h).thermal := by
  obtain ⟨g, hg⟩ := sampleSheaf_onlyRegs s h rs
  rw [hg]

theorem excluded_sampleSheaf (n : Nat) : excluded (sampleSheaf s h rs) h n = excluded (checkSensors s h rs) h n := by
  unfold excluded
  rw [sampleSheaf_thermal, (tempsShown_showTemps _ h).excluded]

theorem sampleSheaf_status : regGet (sampleSheaf s h rs) (thmReg h 0) = regGet (checkSensors s h rs) (thmReg h 0) := by
  rw [regGet_sampleSheaf_thm s h rs (by decide)]
  exact (tempsShown_showTemps _ h).regs _ (by simp [thmReg_ne h (show 0 ≠ 8 by decide)])

theorem sampleSheaf_only :
    sampleSheaf s h rs = { s with thermal := (sampleSheaf s h rs).thermal, regs := (sampleSheaf s h rs).regs,
                                  flash := (sampleSheaf s h rs).flash } := by
  obtain ⟨g, hg⟩ := sampleSheaf_onlyRegs s h rs
  rw [hg, (tempsShown_showTemps _ h).only, (excludes_checkSensors s h rs).only]

/-- A vault's request follows its hottest layer, from the sensors as they count after the checks. -/
theorem sampleSheaf_throttle {v : Nat} {x : Int × Nat} (hv : v ∈ sheafVaults s h)
    (hx : hottestIn (checkSensors s h rs) h (dramNos (v % 128)) allDram = some x) : ThrottleShown s (sampleSheaf s h rs) v x.1 := by
  have htemps := tempsShown_showTemps (checkSensors s h rs) h
  have hx' : hottestIn (showTemps (checkSensors s h rs) h) (v / 128) (dramNos (v % 128)) allDram = some x := by
    rw [hottestIn_congr htemps.readings htemps.excluded, sheaf_of_mem_sheafVaults hv, hx]
  refine (forEach_showVault_throttle (nodup_sheafVaults s h) hv hx').congr ?_ rfl rfl
  have hne := fun y => (thmReg_ne_vltReg h v (x := y) (y := 0) · (by decide))
  rw [htemps.regs _ (by simp [(hne 8 (by decide)).symm]),
    (excludes_checkSensors s h rs).regs _ (by simp [(hne 0 (by decide)).symm, (hne 0x20 (by decide)).symm])]

theorem exec_sensorSample {s : State} (hp : powered s = true) (hh : h < 8) :
    exec (.sensorSample h rs) s = .next (sampleSheaf s h rs) := act_pos hp (by simp [hh])

end

/-! ### HARDWARE_TRIP (R410) -/

section
variable {h n : Nat} {a : Sensor} {x : Int} {s : State}

theorem exec_hardwareTrip (hp : powered s = true) (hh : h < 8) (hn : sensorNo a = some n) (hx : tripAt a ≤ x) :
    exec (.hardwareTrip h ⟨a, some x⟩) s = .next (trip s (sensorStop h a) x) := act_pos hp (by simp [hh, hn, hx])

theorem hardwareTrip_below (hx : x < tripAt a) : Waits (.hardwareTrip h ⟨a, some x⟩) s := act_neg (by simp [hx])

theorem powered_trip (s : State) (stop : Nat) (t : Int) : powered (trip s stop t) = false := Bool.and_false _

end

/-! ### TRAY_SENSOR_POLL: replies that are readings (R352) -/

theorem trayStep_nack (x : TrayTrack) : trayStep x .nack = ({ x with same := x.same + 1, missed := x.missed + 1 }, none) := rfl

section
variable {x : TrayTrack} {d : BitVec 32}

theorem trayStep_reading (hvalid : trayValid d = true) (hnew : x.seq ≠ some (traySeq d) ∨ x.same < 9) :
    (trayStep x (.reply d)).2 = some (trayValue d) ∧ (trayStep x (.reply d)).1.missed = 0 := by
  have hsame : (if x.seq = some (traySeq d) then x.same + 1 else 0) < 10 := by
    split
    · exact Nat.succ_lt_succ (hnew.resolve_left (fun h => h ‹_›))
    · decide
  unfold trayStep
  dsimp only
  rw [if_pos (by simp [hvalid, hsame])]
  exact ⟨rfl, rfl⟩

theorem trayStep_noReading (hstale : trayValid d = false ∨ (x.seq = some (traySeq d) ∧ 9 ≤ x.same)) :
    (trayStep x (.reply d)).2 = none ∧ (trayStep x (.reply d)).1.missed = x.missed + 1 := by
  unfold trayStep
  dsimp only
  rw [if_neg]
  · exact ⟨rfl, rfl⟩
  · rcases hstale with hvalid | ⟨hseq, hsame⟩
    · simp [hvalid]
    · rw [if_pos hseq]
      simp
      omega

end

/-! ### The registers that show the cooling (Tables 15.5 and 15.7) -/

/-- From `s` to `t` no thermal register of the package changed. -/
def ThermKept (s t : State) : Prop := ∀ x < 0x10000, regGet t (thmReg 0 x) = regGet s (thmReg 0 x)

theorem ThermKept.refl (s : State) : ThermKept s s := fun _ _ => rfl

theorem ThermKept.trans {s t u : State} (h : ThermKept s t) (h' : ThermKept t u) : ThermKept s u :=
  fun x hx => (h' x hx).trans (h x hx)

theorem thermKept_regSet {s : State} {a : Nat} (h : ∀ x < 0x10000, thmReg 0 x ≠ a) (v : Nat) : ThermKept s (regSet s a v) :=
  fun x hx => regGet_regSet_ne _ _ (h x hx)

/-! ### A ramp-down of the sheaves (R381, R409) -/

/-- From `s` to `t` the sheaves were led down: their registers and their points of operation changed, and nothing else. -/
structure RampFrame (s t : State) : Prop where
  only : t = { s with regs := t.regs, power := t.power }
  therm : ThermKept s t

theorem RampFrame.refl (s : State) : RampFrame s s := ⟨rfl, .refl s⟩

theorem RampFrame.trans {s t u : State} (h : RampFrame s t) (h' : RampFrame t u) : RampFrame s u where
  only := by rw [h'.only, h.only]
  therm := h.therm.trans h'.therm

theorem RampFrame.foldl {α : Type} {f : State → α → State} (hf : ∀ s a, RampFrame s (f s a)) (s : State) (l : List α) :
    RampFrame s (l.foldl f s) := by
  induction l generalizing s with
  | nil => exact .refl s
  | cons a l ih => exact (hf s a).trans (ih _)

theorem rampFrame_pwrReg (s : State) {h x : Nat} (hx : x < 0x10000) (v : Nat) : RampFrame s (regSet s (pwrReg h x) v) :=
  ⟨rfl, thermKept_regSet (fun _ hy => thmReg_ne_pwrReg 0 h hy hx) v⟩

theorem rampFrame_coreReg (s : State) {c x : Nat} (hx : x < 0x10000) (v : Nat) : RampFrame s (regSet s (coreReg c x) v) :=
  ⟨rfl, thermKept_regSet (fun _ hy => thmReg_ne_coreReg 0 c hy hx) v⟩

theorem rampFrame_setSheafPower (s : State) (h : Nat) (p : SheafPower) : RampFrame s (setSheafPower s h p) := ⟨rfl, fun _ _ => rfl⟩

theorem rampFrame_showEmerg (s : State) (h : Nat) : RampFrame s (showEmerg s h) :=
  (rampFrame_pwrReg s (by decide) _).trans (.foldl (fun _ _ => rampFrame_coreReg _ (by decide) _) _ _)

theorem showEmerg_onlyRegs (s : State) (h : Nat) : OnlyRegs s (showEmerg s h) :=
  ((OnlyRegs.refl s).after_regFlag _ _ _).trans (.foldl (fun _ _ => (OnlyRegs.refl _).after_regFlag _ _ _) _ _)

theorem rampFrame_startOpp (s : State) (h o : Nat) : RampFrame s (startOpp s h o) := by
  unfold startOpp
  dsimp only
  split
  · exact rampFrame_setSheafPower ..
  · split
    · exact .refl s
    · exact ((rampFrame_setSheafPower ..).trans (rampFrame_pwrReg _ (by decide) _)).trans (rampFrame_pwrReg _ (by decide) _)

theorem noteThermal_board (old s : State) : noteThermal old s = { s with board := (noteThermal old s).board } := by
  unfold noteThermal
  split
  · rfl
  · rfl

theorem regGet_noteThermal (old s : State) (a : Nat) : regGet (noteThermal old s) a = regGet s a := by
  rw [noteThermal_board]
  rfl

theorem noteThermal_thermal (old s : State) : (noteThermal old s).thermal = s.thermal := by rw [noteThermal_board]

/-! ### A flow emergency (R409) -/

theorem beginEmergency_held {s : State} (h : s.thermal.emerg = true) (sub : Nat) : beginEmergency s sub = s := if_pos h

/-- From `s` to `t` a flow emergency is in force, and THM_FLOW shows one that has begun. -/
structure EmergencyOn (s t : State) (sub : Nat) : Prop where
  thermal : t.thermal = { s.thermal with emerg := true }
  regs : ∀ x < 0x10000, x ≠ 0x110 → regGet t (thmReg 0 x) = regGet s (thmReg 0 x)
  silent : bit (regGet t (thmReg 0 0x110)) 32 = bit (regGet s (thmReg 0 0x110)) 32
  began : s.thermal.emerg = false → bit (regGet t (thmReg 0 0x110)) 33 = true
    ∧ ∃ d : Cause, t.fault.detected = s.fault.detected ++ [d] ∧ d.code = 5 ∧ d.sub = sub
  only : t = { s with thermal := t.thermal, regs := t.regs, power := t.power, fault := t.fault, board := t.board }

/-- The state in which an emergency is shown and its cause detected, before the sheaves are led down. -/
def emergencyShown (s : State) (sub : Nat) : State :=
  detect (regFlag { s with thermal := { s.thermal with emerg := true } } (thmReg 0 0x110) 33 true)
    ⟨0x05, sub, 0xFFFF, 0, s.thermal.flow.toNat, 0xFFFF, 0⟩

theorem beginEmergency_begins {s : State} (h : s.thermal.emerg = false) (sub : Nat) :
    beginEmergency s sub = noteThermal s (forEach (emergencyShown s sub) sheaves fun s h => startOpp (showEmerg s h) h (oppGoal s h)) := by
  unfold beginEmergency
  rw [h]
  rfl

theorem detect_detected (s : State) (c : Cause) : (detect s c).fault.detected = s.fault.detected ++ [c] := rfl

theorem emergencyShown_thermal (s : State) (sub : Nat) : (emergencyShown s sub).thermal = { s.thermal with emerg := true } := by
  unfold emergencyShown
  rw [detect_thermal, regFlag_thermal]

theorem emergencyShown_detected (s : State) (sub : Nat) : ∃ d : Cause,
    (emergencyShown s sub).fault.detected = s.fault.detected ++ [d] ∧ d.code = 5 ∧ d.sub = sub := by
  refine ⟨⟨0x05, sub, 0xFFFF, 0, s.thermal.flow.toNat, 0xFFFF, 0⟩, ?_, rfl, rfl⟩
  unfold emergencyShown
  rw [detect_detected, regFlag_fault]

theorem emergencyShown_only (s : State) (sub : Nat) : emergencyShown s sub
    = { s with thermal := (emergencyShown s sub).thermal, regs := (emergencyShown s sub).regs,
               fault := (emergencyShown s sub).fault } := by
  obtain ⟨g, hg⟩ := (OnlyRegs.refl { s with thermal := { s.thermal with emerg := true } }).after_regFlag (thmReg 0 0x110) 33 true
  unfold emergencyShown
  rw [hg]
  rfl

theorem regGet_detect (s : State) (c : Cause) (a : Nat) : regGet (detect s c) a = regGet s a := rfl

theorem regGet_setThermal (s : State) (x : Thermal) (a : Nat) : regGet { s with thermal := x } a = regGet s a := rfl

theorem emergencyOn_emergencyShown {s : State} (sub : Nat) : EmergencyOn s (emergencyShown s sub) sub where
  thermal := emergencyShown_thermal s sub
  regs x _ hne := by
    unfold emergencyShown
    rw [regGet_detect, regGet_regFlag_ne _ _ _ (thmReg_ne 0 hne), regGet_setThermal]
  silent := by
    unfold emergencyShown
    rw [regGet_detect, bit_regFlag_ne _ _ _ _ _ (by decide) (by decide), regGet_setThermal]
  began _ := by
    refine ⟨?_, emergencyShown_detected s sub⟩
    unfold emergencyShown
    rw [regGet_detect, bit_regFlag_same _ _ _ _ (by decide)]
  only := by
    rw [emergencyShown_only]

/-- Leading the sheaves down shows no more of the emergency. -/
theorem EmergencyOn.after_ramp {s t u : State} {sub : Nat} (h : EmergencyOn s t sub) (hramp : RampFrame t u) : EmergencyOn s u sub := by
  have hthermal : u.thermal = t.thermal := by rw [hramp.only]
  have hfault : u.fault = t.fault := by rw [hramp.only]
  have hflow := hramp.therm 0x110 (by decide)
  refine ⟨hthermal.trans h.thermal, fun x hx hne => (hramp.therm x hx).trans (h.regs x hx hne), ?_, ?_, ?_⟩
  · rw [hflow]
    exact h.silent
  · rw [hflow, hfault]
    exact h.began
  · rw [hramp.only, h.only]

theorem EmergencyOn.after_noteThermal {s t : State} {sub : Nat} (h : EmergencyOn s t sub) (old : State) :
    EmergencyOn s (noteThermal old t) sub := by
  rw [noteThermal_board]
  exact ⟨h.thermal, h.regs, h.silent, h.began, by rw [h.only]⟩

theorem emergencyOn_beginEmergency (s : State) (sub : Nat) : EmergencyOn s (beginEmergency s sub) sub := by
  cases h : s.thermal.emerg with
  | true =>
    rw [beginEmergency_held h]
    exact ⟨by rw [← h], fun _ _ _ => rfl, rfl, fun h' => Bool.noConfusion (h.symm.trans h'), rfl⟩
  | false =>
    rw [beginEmergency_begins h]
    exact ((emergencyOn_emergencyShown sub).after_ramp
      (.foldl (fun u h => (rampFrame_showEmerg u h).trans (rampFrame_startOpp _ h (oppGoal u h))) _ _)).after_noteThermal s

/-! ### Readings of the flow (R409) -/

/-- The flow was high fewer than 400 polls ago. -/
def fellSoon (s : State) : Bool := match s.thermal.sinceHigh with
  | some n => decide (n < 400)
  | none => false

/-- A low reading that comes soon after a high one, or at the end of 401 low ones. -/
def flowLost (s : State) (v : Int) : Bool := decide (v < 160) && (decide (400 ≤ s.thermal.lowPolls) || fellSoon s)

/-- What is kept of the flow at a reading. -/
def flowThermal (s : State) (v : Int) : Thermal :=
  { s.thermal with
    flow := v
    sinceHigh := if 320 ≤ v then some 0 else s.thermal.sinceHigh.map (· + 1)
    lowPolls := if v < 160 then s.thermal.lowPolls + 1 else 0
    okPolls := if 680 ≤ v then s.thermal.okPolls + 1 else 0
    ok2Polls := if 480 ≤ v then s.thermal.ok2Polls + 1 else 0 }

/-- The state in which a flow reading is kept and shown, before the tests for an emergency. -/
def flowTaken (s : State) (v : Int) : State :=
  regFlag (regSetFld { s with thermal := flowThermal s v } (thmReg 0 0x108) 47 32 (unsigned 16 v)) (thmReg 0 0x110) 32 false

theorem flowReading_eq (s : State) (v : Int) : flowReading s v =
    if decide (v < 160) && fellSoon s then beginEmergency (flowTaken s v) 0
    else if 401 ≤ (if v < 160 then s.thermal.lowPolls + 1 else 0) then beginEmergency (flowTaken s v) 1 else flowTaken s v := rfl

theorem flowReading_steady {s : State} {v : Int} (h : flowLost s v = false) : flowReading s v = flowTaken s v := by
  have hlow : v < 160 → s.thermal.lowPolls < 400 ∧ fellSoon s = false := by simpa [flowLost] using h
  rw [flowReading_eq, if_neg, if_neg]
  · split
    · exact not_le.2 (Nat.succ_lt_succ (hlow ‹_›).1)
    · decide
  · simpa using fun hv => (hlow hv).2

theorem flowReading_lost {s : State} {v : Int} (h : flowLost s v = true) : ∃ sub, flowReading s v = beginEmergency (flowTaken s v) sub := by
  obtain ⟨hlow, hcause⟩ : v < 160 ∧ (400 ≤ s.thermal.lowPolls ∨ fellSoon s = true) := by simpa [flowLost] using h
  rw [flowReading_eq]
  split
  · exact ⟨0, rfl⟩
  · have hpolls : 400 ≤ s.thermal.lowPolls := hcause.resolve_right fun hsoon => ‹¬_› (by simp [hlow, hsoon])
    exact ⟨1, if_pos (by omega)⟩

theorem unsigned_lt (w : Nat) (x : Int) : unsigned w x < 2 ^ w := by
  have hpos : (0 : Int) < 2 ^ w := by positivity
  have hlt := Int.emod_lt_of_pos x hpos
  have hcast : ((2 ^ w : Nat) : Int) = (2 : Int) ^ w := by norm_cast
  unfold unsigned
  omega

/-- A reading of a tray sensor is shown in its 16 bits of THM_COOLANT. -/
theorem regFld_shown (s : State) (a : Nat) {hi lo : Nat} (hw : hi + 1 - lo = 16) (hhi : hi < 64) (v : Int) :
    regFld (regSetFld s a hi lo (unsigned 16 v)) a hi lo = unsigned 16 v := by
  rw [regFld_regSetFld_same _ _ _ _ _ (by omega) hhi, hw, Nat.mod_eq_of_lt (unsigned_lt 16 v)]

theorem flowTaken_thermal (s : State) (v : Int) : (flowTaken s v).thermal = flowThermal s v := by
  unfold flowTaken
  rw [regFlag_thermal, regSetFld_thermal]

theorem flowTaken_shown (s : State) (v : Int) : regFld (flowTaken s v) (thmReg 0 0x108) 47 32 = unsigned 16 v := by
  unfold flowTaken regFlag
  rw [regFld_regSetFld_ne _ _ _ _ _ _ (thmReg_ne 0 (by decide)), regFld_shown _ _ (by decide) (by decide)]

theorem flowTaken_onlyRegs (s : State) (v : Int) : OnlyRegs { s with thermal := flowThermal s v } (flowTaken s v) :=
  ((OnlyRegs.refl _).after_regSetFld _ _ _ _).after_regFlag _ _ _

theorem flowTaken_only (s : State) (v : Int) :
    flowTaken s v = { s with thermal := (flowTaken s v).thermal, regs := (flowTaken s v).regs } := by
  obtain ⟨g, hg⟩ := flowTaken_onlyRegs s v
  rw [hg]

/-- What a flow reading leaves, with an emergency or without. -/
theorem flowReading_spec (s : State) (v : Int) :
    let t := flowReading s v
    t.thermal = { flowThermal s v with emerg := s.thermal.emerg || flowLost s v }
      ∧ regFld t (thmReg 0 0x108) 47 32 = unsigned 16 v
      ∧ t = { s with thermal := t.thermal, regs := t.regs, power := t.power, fault := t.fault, board := t.board } := by
  cases h : flowLost s v with
  | false =>
    rw [flowReading_steady h]
    refine ⟨?_, flowTaken_shown s v, ?_⟩
    · rw [flowTaken_thermal, Bool.or_false]
      rfl
    · rw [flowTaken_only]
  | true =>
    obtain ⟨sub, hsub⟩ := flowReading_lost h
    have hon := emergencyOn_beginEmergency (flowTaken s v) sub
    rw [hsub]
    refine ⟨?_, ?_, ?_⟩
    · rw [hon.thermal, flowTaken_thermal, Bool.or_true]
    · unfold regFld
      rw [hon.regs 0x108 (by decide) (by decide)]
      exact flowTaken_shown s v
    · rw [hon.only, flowTaken_only]

/-! ### Polls without a reading of the flow (R352, R409) -/

/-- What is kept of the flow at a poll without a reading. -/
def unreadThermal (s : State) (low : Nat) : Thermal :=
  { s.thermal with okPolls := 0, ok2Polls := 0, sinceHigh := s.thermal.sinceHigh.map (· + 1), lowPolls := low }

/-- From `s` to `t` a poll of the flow sensor gave no reading: the flow keeps its value and breaks the count of good polls. -/
def FlowUnread (s t : State) : Prop :=
  t.thermal.flow = s.thermal.flow ∧ t.thermal.okPolls = 0 ∧ t.thermal.ok2Polls = 0 ∧ t.thermal.tray = s.thermal.tray
    ∧ t = { s with thermal := t.thermal, regs := t.regs, power := t.power, fault := t.fault, board := t.board }

theorem EmergencyOn.flowUnread {s t u : State} {sub : Nat} (h : FlowUnread s t) (hon : EmergencyOn t u sub) : FlowUnread s u := by
  obtain ⟨hflow, hok, hok2, htray, honly⟩ := h
  have hthermal := hon.thermal
  refine ⟨?_, ?_, ?_, ?_, by rw [hon.only, honly]⟩
  all_goals rw [hthermal]; assumption

theorem flowUnread_eq (s : State) : ∃ low, flowUnread s = { s with thermal := unreadThermal s low }
    ∨ flowUnread s = beginEmergency { s with thermal := unreadThermal s low } 1 := by
  refine ⟨if s.thermal.lowPolls = 0 then 0 else s.thermal.lowPolls + 1, ?_⟩
  unfold flowUnread
  dsimp only
  generalize (if s.thermal.lowPolls = 0 then 0 else s.thermal.lowPolls + 1) = low
  split
  · exact .inr rfl
  · exact .inl rfl

theorem flowUnread_spec (s : State) : FlowUnread s (flowUnread s) := by
  have hunread := fun low => show FlowUnread s { s with thermal := unreadThermal s low } from ⟨rfl, rfl, rfl, rfl, rfl⟩
  obtain ⟨low, h | h⟩ := flowUnread_eq s
  · rw [h]
    exact hunread low
  · rw [h]
    exact (emergencyOn_beginEmergency _ 1).flowUnread (hunread low)

/-- The state in which the silence of the flow sensor is shown. -/
def silenceShown (s : State) : State := regFlag { s with thermal := unreadThermal s s.thermal.lowPolls } (thmReg 0 0x110) 32 true

theorem flowIsSilent_eq (s : State) : flowIsSilent s = beginEmergency (silenceShown s) 2 := rfl

theorem silenceShown_thermal (s : State) : (silenceShown s).thermal = unreadThermal s s.thermal.lowPolls := by
  unfold silenceShown
  rw [regFlag_thermal]

theorem silenceShown_fault (s : State) : (silenceShown s).fault = s.fault := by
  unfold silenceShown
  rw [regFlag_fault]

theorem flowUnread_silenceShown (s : State) : FlowUnread s (silenceShown s) := by
  unfold FlowUnread
  rw [silenceShown_thermal]
  refine ⟨rfl, rfl, rfl, rfl, ?_⟩
  obtain ⟨g, hg⟩ := (OnlyRegs.refl { s with thermal := unreadThermal s s.thermal.lowPolls }).after_regFlag (thmReg 0 0x110) 32 true
  unfold silenceShown
  rw [hg]

theorem flowIsSilent_spec (s : State) :
    let t := flowIsSilent s
    FlowUnread s t ∧ t.thermal.emerg = true ∧ bit (regGet t (thmReg 0 0x110)) 32 = true
      ∧ (s.thermal.emerg = false → bit (regGet t (thmReg 0 0x110)) 33 = true
          ∧ ∃ d : Cause, t.fault.detected = s.fault.detected ++ [d] ∧ d.code = 5 ∧ d.sub = 2) := by
  have hon := emergencyOn_beginEmergency (silenceShown s) 2
  rw [flowIsSilent_eq]
  refine ⟨hon.flowUnread (flowUnread_silenceShown s), by rw [hon.thermal], ?_, fun h => ?_⟩
  · rw [hon.silent]
    exact bit_regFlag_same _ _ _ _ (by decide)
  · rw [← silenceShown_fault s]
    exact hon.began (by rw [silenceShown_thermal]; exact h)

/-! ### TRAY_SENSOR_POLL (R352, R406) -/

theorem trayNo_injective : Function.Injective trayNo :=
  Function.LeftInverse.injective (g := fun n => if n = 0 then .inlet else if n = 1 then .outlet else .flow)
    fun k => by cases k <;> rfl

/-- The state in which a poll's reply is kept. -/
def trayKept (s : State) (k : TrayKind) (r : TrayReply) : State :=
  { s with thermal := { s.thermal with tray := FMap.set s.thermal.tray (trayNo k) (trayStep (trayAt s k) r).1 } }

theorem trayAt_of_kept {s t : State} {k : TrayKind} {r : TrayReply} (h : t.thermal.tray = (trayKept s k r).thermal.tray) :
    trayAt t k = (trayStep (trayAt s k) r).1 ∧ ∀ j, j ≠ k → trayAt t j = trayAt s j := by
  unfold trayAt at *
  rw [h]
  exact ⟨FMap.getD_set_same .., fun j hj => FMap.getD_set_ne _ _ _ (trayNo_injective.ne hj)⟩

theorem trayPoll_reading {s : State} {k : TrayKind} {r : TrayReply} {v : Int} (h : (trayStep (trayAt s k) r).2 = some v) :
    trayPoll s k r = trayReading (trayKept s k r) k v := by
  unfold trayPoll
  dsimp only
  rw [h]
  rfl

theorem trayPoll_silent {s : State} {k : TrayKind} {r : TrayReply} (h : (trayStep (trayAt s k) r).2 = none)
    (hmissed : 20 ≤ (trayStep (trayAt s k) r).1.missed) : trayPoll s k r = traySilent (trayKept s k r) k := by
  unfold trayPoll
  dsimp only
  rw [h]
  exact if_pos hmissed

theorem trayPoll_unread {s : State} {k : TrayKind} {r : TrayReply} (h : (trayStep (trayAt s k) r).2 = none)
    (hmissed : ¬20 ≤ (trayStep (trayAt s k) r).1.missed) : trayPoll s k r = trayUnread (trayKept s k r) k := by
  unfold trayPoll
  dsimp only
  rw [h]
  exact if_neg hmissed

theorem exec_traySensorPoll {s : State} (k : TrayKind) (r : TrayReply) (hp : powered s = true) (hf : firmwareRuns s = true) :
    exec (.traySensorPoll k r) s = .next (trayPoll s k r) := act_pos hp hf

/-! #### The inlet and the outlet -/

theorem showInlet_onlyRegs (s : State) : OnlyRegs s (showInlet s) := (OnlyRegs.refl s).after_regFlag _ _ _

theorem bit_showInlet (s : State) : bit (regGet (showInlet s) (thmReg 0 0)) 6 = decide (inletNow s < 1920) :=
  bit_regFlag_same _ _ _ _ (by decide)

section
variable {s : State} {r : TrayReply}

theorem inletPoll_reading {v : Int} (h : (trayStep (trayAt s .inlet) r).2 = some v) :
    let t := trayPoll s .inlet r
    t.thermal = { s.thermal with inlet := v, inletSilent := false, tray := (trayKept s .inlet r).thermal.tray }
      ∧ regFld t (thmReg 0 0x108) 15 0 = unsigned 16 v ∧ bit (regGet t (thmReg 0 0)) 6 = decide (v < 1920)
      ∧ t = { s with thermal := t.thermal, regs := t.regs } := by
  rw [trayPoll_reading h]
  unfold trayReading
  dsimp only
  generalize hu : { trayKept s .inlet r with thermal := { (trayKept s .inlet r).thermal with inlet := v, inletSilent := false } } = u
  obtain ⟨g, hg⟩ := ((OnlyRegs.refl u).after_regSetFld (thmReg 0 0x108) 15 0 (unsigned 16 v))
  obtain ⟨g', hg'⟩ := showInlet_onlyRegs (regSetFld u (thmReg 0 0x108) 15 0 (unsigned 16 v))
  refine ⟨?_, ?_, ?_, ?_⟩
  · rw [hg', hg, ← hu]
    rfl
  · unfold showInlet regFlag
    rw [regFld_regSetFld_ne _ _ _ _ _ _ (thmReg_ne 0 (by decide)), regFld_shown _ _ (by decide) (by decide)]
  · rw [bit_showInlet]
    unfold inletNow
    rw [regSetFld_thermal, ← hu]
    rfl
  · rw [hg', hg, ← hu]
    rfl

theorem inletPoll_silent (h : (trayStep (trayAt s .inlet) r).2 = none) (hmissed : 20 ≤ (trayStep (trayAt s .inlet) r).1.missed) :
    let t := trayPoll s .inlet r
    t.thermal = { s.thermal with inletSilent := true, tray := (trayKept s .inlet r).thermal.tray }
      ∧ inletNow t = 45 * 128 ∧ bit (regGet t (thmReg 0 0)) 6 = false ∧ t = { s with thermal := t.thermal, regs := t.regs } := by
  rw [trayPoll_silent h hmissed]
  unfold traySilent
  dsimp only
  generalize hu : { trayKept s .inlet r with thermal := { (trayKept s .inlet r).thermal with inletSilent := true } } = u
  obtain ⟨g, hg⟩ := showInlet_onlyRegs u
  have hnow : inletNow u = 5760 := by rw [← hu]; rfl
  refine ⟨?_, ?_, ?_, ?_⟩
  · rw [hg, ← hu]
    rfl
  · rw [hg]
    exact hnow
  · rw [bit_showInlet, hnow]
    rfl
  · rw [hg, ← hu]
    rfl

theorem inletPoll_unread (h : (trayStep (trayAt s .inlet) r).2 = none) (hmissed : ¬20 ≤ (trayStep (trayAt s .inlet) r).1.missed) :
    trayPoll s .inlet r = trayKept s .inlet r := trayPoll_unread h hmissed

theorem outletPoll_reading {v : Int} (h : (trayStep (trayAt s .outlet) r).2 = some v) :
    let t := trayPoll s .outlet r
    t.thermal = { s.thermal with outlet := v, outletSilent := false, tray := (trayKept s .outlet r).thermal.tray }
      ∧ regFld t (thmReg 0 0x108) 31 16 = unsigned 16 v ∧ t = { s with thermal := t.thermal, regs := t.regs } := by
  rw [trayPoll_reading h]
  unfold trayReading
  dsimp only
  generalize hu : { trayKept s .outlet r with thermal := { (trayKept s .outlet r).thermal with outlet := v, outletSilent := false } } = u
  obtain ⟨g, hg⟩ := ((OnlyRegs.refl u).after_regSetFld (thmReg 0 0x108) 31 16 (unsigned 16 v))
  refine ⟨?_, regFld_shown _ _ (by decide) (by decide) _, ?_⟩
  · rw [hg, ← hu]
    rfl
  · rw [hg, ← hu]
    rfl

theorem outletPoll_noReading (h : (trayStep (trayAt s .outlet) r).2 = none) :
    trayPoll s .outlet r = { trayKept s .outlet r with thermal := { (trayKept s .outlet r).thermal with
      outletSilent := s.thermal.outletSilent || decide (20 ≤ (trayStep (trayAt s .outlet) r).1.missed) } } := by
  by_cases hmissed : 20 ≤ (trayStep (trayAt s .outlet) r).1.missed
  · rw [trayPoll_silent h hmissed, decide_eq_true hmissed, Bool.or_true]
    rfl
  · rw [trayPoll_unread h hmissed, decide_eq_false hmissed, Bool.or_false]
    rfl

/-! #### The flow -/

theorem flowPoll_reading {v : Int} (h : (trayStep (trayAt s .flow) r).2 = some v) :
    let t := trayPoll s .flow r
    t.thermal = { flowThermal s v with emerg := s.thermal.emerg || flowLost s v, tray := (trayKept s .flow r).thermal.tray }
      ∧ regFld t (thmReg 0 0x108) 47 32 = unsigned 16 v
      ∧ t = { s with thermal := t.thermal, regs := t.regs, power := t.power, fault := t.fault, board := t.board } := by
  rw [trayPoll_reading h]
  obtain ⟨hthermal, hshown, honly⟩ := flowReading_spec (trayKept s .flow r) v
  exact ⟨hthermal, hshown, honly⟩

/-- A poll without a reading of the flow. -/
theorem flowPoll_noReading (h : (trayStep (trayAt s .flow) r).2 = none) : FlowUnread (trayKept s .flow r) (trayPoll s .flow r) := by
  by_cases hmissed : 20 ≤ (trayStep (trayAt s .flow) r).1.missed
  · rw [trayPoll_silent h hmissed]
    exact (flowIsSilent_spec _).1
  · rw [trayPoll_unread h hmissed]
    exact flowUnread_spec _

theorem flowPoll_silent (h : (trayStep (trayAt s .flow) r).2 = none) (hmissed : 20 ≤ (trayStep (trayAt s .flow) r).1.missed) :
    let t := trayPoll s .flow r
    t.thermal.emerg = true ∧ bit (regGet t (thmReg 0 0x110)) 32 = true
      ∧ (s.thermal.emerg = false → bit (regGet t (thmReg 0 0x110)) 33 = true
          ∧ ∃ d : Cause, t.fault.detected = s.fault.detected ++ [d] ∧ d.code = 5 ∧ d.sub = 2) := by
  rw [trayPoll_silent h hmissed]
  exact (flowIsSilent_spec (trayKept s .flow r)).2

end

theorem trayPoll_tray (s : State) (k : TrayKind) (r : TrayReply) : (trayPoll s k r).thermal.tray = (trayKept s k r).thermal.tray := by
  cases k with
  | inlet =>
    cases h : (trayStep (trayAt s .inlet) r).2 with
    | some v => rw [(inletPoll_reading h).1]
    | none =>
      by_cases hmissed : 20 ≤ (trayStep (trayAt s .inlet) r).1.missed
      · rw [(inletPoll_silent h hmissed).1]
      · rw [inletPoll_unread h hmissed]
  | outlet =>
    cases h : (trayStep (trayAt s .outlet) r).2 with
    | some v => rw [(outletPoll_reading h).1]
    | none => rw [outletPoll_noReading h]
  | flow =>
    cases h : (trayStep (trayAt s .flow) r).2 with
    | some v => rw [(flowPoll_reading h).1]
    | none =>
      obtain ⟨-, -, -, htray, -⟩ := flowPoll_noReading h
      exact htray

/-! ### FLOW_EMERGENCY_END (R409) -/

/-- The state in which the package shows that no flow emergency is in force. -/
def emergencyCleared (s : State) : State := regFlag { s with thermal := { s.thermal with emerg := false } } (thmReg 0 0x110) 33 false

/-- The end of a flow emergency, shown at the package and at the sheaves. -/
def emergencyEnded (s : State) : State := noteThermal s (forEach (emergencyCleared s) sheaves showEmerg)

theorem exec_flowEmergencyEnd {s : State} (hp : powered s = true) (hemerg : s.thermal.emerg = true) (hok : 1001 ≤ s.thermal.okPolls) :
    exec .flowEmergencyEnd s = .next (emergencyEnded s) := act_pos hp (by simp [hemerg, hok])

theorem flowEmergencyEnd_waits {s : State} (h : s.thermal.emerg = false ∨ s.thermal.okPolls < 1001) : Waits .flowEmergencyEnd s :=
  act_neg (by rcases h with h | h <;> simp [h])

theorem emergencyEnded_spec (s : State) :
    let t := emergencyEnded s
    t.thermal = { s.thermal with emerg := false } ∧ bit (regGet t (thmReg 0 0x110)) 33 = false
      ∧ t = { s with thermal := t.thermal, regs := t.regs, board := t.board } := by
  have hshown : bit (regGet (emergencyCleared s) (thmReg 0 0x110)) 33 = false := bit_regFlag_same _ _ _ _ (by decide)
  have hramp : RampFrame (emergencyCleared s) (forEach (emergencyCleared s) sheaves showEmerg) := .foldl rampFrame_showEmerg _ _
  have hcleared : OnlyRegs { s with thermal := { s.thermal with emerg := false } } (emergencyCleared s) :=
    (OnlyRegs.refl _).after_regFlag _ _ _
  have hregs : OnlyRegs (emergencyCleared s) (forEach (emergencyCleared s) sheaves showEmerg) := .foldl showEmerg_onlyRegs _ _
  obtain ⟨g, hg⟩ := hcleared.trans hregs
  unfold emergencyEnded
  refine ⟨?_, ?_, ?_⟩
  · rw [noteThermal_thermal, hg]
  · rw [regGet_noteThermal, hramp.therm 0x110 (by decide), hshown]
  · rw [noteThermal_board, hg]

/-! ### FLOW_COMPUTATION (R405 to R408) -/

/-- From `s` to `t` a message may have been sent or counted as blocked. -/
structure Announced (s t : State) : Prop where
  only : t = { s with regs := t.regs, fault := t.fault, host := t.host, board := t.board }
  regs : RegsKept s t [hubReg 0x60]

theorem regsKept_devEvent (s : State) : RegsKept s (devEvent s) [hubReg 0x60] := by
  unfold devEvent
  dsimp only
  split
  · exact regsKept_msix _ _
  · exact fun _ _ => rfl

theorem devEvent_frame (s : State) : devEvent s = { s with host := (devEvent s).host, regs := (devEvent s).regs } := by
  unfold devEvent
  dsimp only
  split
  · exact msix_frame _ _
  · rfl

theorem announced_devEvent (s : State) : Announced s (devEvent s) := ⟨by rw [devEvent_frame], regsKept_devEvent s⟩

theorem Announced.after_pldmEvent {s t : State} (h : Announced s t) (e : PldmEvt) : Announced s (pldmEvent t e) :=
  ⟨by rw [h.only]; rfl, h.regs⟩

theorem announced_noteRecord (s : State) (kind code unit detail : Nat) : Announced s (noteRecord s kind code unit detail) := by
  obtain ⟨x, e, hx⟩ : ∃ x e, noteRecord s kind code unit detail = pldmEvent (devEvent { s with fault := x }) e := ⟨_, _, rfl⟩
  have h := (announced_devEvent { s with fault := x }).after_pldmEvent e
  rw [hx]
  exact ⟨by rw [h.only], h.regs⟩

/-- From `s` to `t` flow warnings may have been raised, which leaves THM_FLOW as it is. -/
structure Raised (s t : State) : Prop where
  thermal : t.thermal = s.thermal
  flow : regGet t (thmReg 0 0x110) = regGet s (thmReg 0 0x110)
  only : t = { s with regs := t.regs, fault := t.fault, host := t.host, board := t.board }

theorem Raised.refl (s : State) : Raised s s := ⟨rfl, rfl, rfl⟩

theorem Raised.trans {s t u : State} (h : Raised s t) (h' : Raised t u) : Raised s u where
  thermal := h'.thermal.trans h.thermal
  flow := h'.flow.trans h.flow
  only := by rw [h'.only, h.only]

theorem Raised.set_thermal {s t : State} (h : Raised s t) (x : Thermal) : Raised { s with thermal := x } { t with thermal := x } where
  thermal := rfl
  flow := h.flow
  only := by rw [h.only]

theorem raised_raiseWarning (s : State) (level : Nat) : Raised s (raiseWarning s level) := by
  have hevent := event_eq s (thmReg 0 0) 4 (thmReg 0 0x118)
  have hflow : regGet (event s (thmReg 0 0) 4 (thmReg 0 0x118)) (thmReg 0 0x110) = regGet s (thmReg 0 0x110) :=
    regGet_event_ne s 4 (thmReg_ne 0 (by decide)) (thmReg_ne 0 (by decide))
  unfold raiseWarning
  generalize event s (thmReg 0 0) 4 (thmReg 0 0x118) = u at hevent hflow ⊢
  have h := (announced_noteRecord u 2 0x20 0xFFFF s.thermal.flow.toNat).after_pldmEvent (.flowWarning true level)
  have hblocked : thmReg 0 0x110 ∉ [hubReg 0x60] := by simp [thmReg_ne_hubReg 0 (show 0x110 < 0x10000 by decide)]
  refine ⟨?_, (h.regs _ hblocked).trans hflow, ?_⟩
  · rw [h.only, hevent]
  · rw [h.only, hevent]

/-- A warning is raised where its flow is low and it does not stand yet. -/
theorem raised_once (f : Bool → State) (b : Bool) (c : Prop) [Decidable c] (level : Nat) :
    Raised (f (b || decide c)) (if c ∧ !b then raiseWarning (f true) level else f b) := by
  cases b with
  | true => rw [Bool.true_or, if_neg (by simp)]; exact .refl _
  | false =>
    by_cases hc : c
    · rw [Bool.false_or, decide_eq_true hc, if_pos ⟨hc, rfl⟩]; exact raised_raiseWarning _ level
    · rw [Bool.false_or, decide_eq_false hc, if_neg (fun h => hc h.1)]; exact .refl _

/-- The flow warnings that stand after a computation (Table 15.3). -/
def warnedThermal (s : State) : Thermal :=
  { s.thermal with
    warn1 := s.thermal.warn1 || decide (s.thermal.flow < 680), warn2 := s.thermal.warn2 || decide (s.thermal.flow < 480) }

theorem raised_flowWarnings (s : State) : Raised { s with thermal := warnedThermal s } (flowWarnings s) := by
  have h1 := raised_once (fun b => { s with thermal := { s.thermal with warn1 := b } }) s.thermal.warn1 (s.thermal.flow < 680) 1
  unfold flowWarnings
  dsimp only at h1 ⊢
  generalize (if s.thermal.flow < 680 ∧ (!s.thermal.warn1) = true then
    raiseWarning { s with thermal := { s.thermal with warn1 := true } } 1 else s) = u at h1 ⊢
  have h2 := raised_once (fun b => { u with thermal := { u.thermal with warn2 := b } }) u.thermal.warn2 (u.thermal.flow < 480) 2
  have hset := h1.set_thermal { u.thermal with warn2 := u.thermal.warn2 || decide (u.thermal.flow < 480) }
  have hthermal : warnedThermal s = { u.thermal with warn2 := u.thermal.warn2 || decide (u.thermal.flow < 480) } := by
    rw [h1.thermal]
    rfl
  rw [hthermal]
  exact hset.trans h2

/-- The state in which the flow term and the heat estimate are shown. -/
def flowShown (s : State) : State :=
  let s1 := regSetFld s (thmReg 0 0x110) 15 0 (min 65535 (pFlow s))
  if s.thermal.outletSilent then s1 else regSetFld s1 (thmReg 0 0x110) 31 16 (min 65535 (heatQ s))

theorem flowShown_onlyRegs (s : State) : OnlyRegs s (flowShown s) := by
  unfold flowShown
  dsimp only
  split
  · exact (OnlyRegs.refl s).after_regSetFld _ _ _ _
  · exact ((OnlyRegs.refl s).after_regSetFld _ _ _ _).after_regSetFld _ _ _ _

theorem flowShown_term (s : State) : regFld (flowShown s) (thmReg 0 0x110) 15 0 = min 65535 (pFlow s) := by
  have hterm : regFld (regSetFld s (thmReg 0 0x110) 15 0 (min 65535 (pFlow s))) (thmReg 0 0x110) 15 0 = min 65535 (pFlow s) := by
    rw [regFld_regSetFld_same _ _ _ _ _ (by decide) (by decide)]
    omega
  unfold flowShown
  dsimp only
  split
  · exact hterm
  · rw [regFld_regSetFld_below _ _ _ _ _ _ _ (by decide) (by decide) (by decide), hterm]

theorem flowShown_heat {s : State} (h : s.thermal.outletSilent = false) :
    regFld (flowShown s) (thmReg 0 0x110) 31 16 = min 65535 (heatQ s) := by
  unfold flowShown
  dsimp only
  rw [h, if_neg Bool.false_ne_true, regFld_regSetFld_same _ _ _ _ _ (by decide) (by decide)]
  omega

/-- The state after a computation whose warnings have been raised: how long the heat estimate has been short. -/
def heatCounted (s : State) : State :=
  { s with thermal := { s.thermal with
    heat := s.thermal.heat && heatShort s, heatPolls := if heatShort s then s.thermal.heatPolls + 1 else 0 } }

theorem flowComputation_eq (s : State) : flowComputation s = heatCounted (flowWarnings (flowShown s)) := rfl

theorem heatShort_heatCounted (s : State) : heatShort (heatCounted s) = heatShort s := rfl

theorem flowComputation_spec (s : State) :
    let t := flowComputation s
    regFld t (thmReg 0 0x110) 15 0 = min 65535 (pFlow s)
      ∧ (s.thermal.outletSilent = false → regFld t (thmReg 0 0x110) 31 16 = min 65535 (heatQ s))
      ∧ t.thermal.warn1 = (s.thermal.warn1 || decide (s.thermal.flow < 680))
      ∧ t.thermal.warn2 = (s.thermal.warn2 || decide (s.thermal.flow < 480))
      ∧ t.thermal.heatPolls = (if heatShort t then s.thermal.heatPolls + 1 else 0)
      ∧ t.thermal.heat = (s.thermal.heat && heatShort t) ∧ t.mem = s.mem ∧ t.power = s.power := by
  have hterm := flowShown_term s
  have hheat := flowShown_heat (s := s)
  obtain ⟨g, hg⟩ := flowShown_onlyRegs s
  have hraised := raised_flowWarnings (flowShown s)
  have hthermal : (flowWarnings (flowShown s)).thermal = warnedThermal s := by rw [hraised.thermal, hg]; rfl
  have hmem : (flowWarnings (flowShown s)).mem = s.mem := by rw [hraised.only, hg]
  have hpower : (flowWarnings (flowShown s)).power = s.power := by rw [hraised.only, hg]
  have hfld : ∀ hi lo, regFld (flowWarnings (flowShown s)) (thmReg 0 0x110) hi lo = regFld (flowShown s) (thmReg 0 0x110) hi lo :=
    fun hi lo => congrArg (bits · hi lo) hraised.flow
  intro t
  have ht : t = heatCounted (flowWarnings (flowShown s)) := flowComputation_eq s
  rw [ht, heatShort_heatCounted]
  generalize flowWarnings (flowShown s) = u at hthermal hmem hpower hfld
  refine ⟨(hfld 15 0).trans hterm, fun h => (hfld 31 16).trans (hheat h), ?_, ?_, ?_, ?_, hmem, hpower⟩
  · exact congrArg Thermal.warn1 hthermal
  · exact congrArg Thermal.warn2 hthermal
  · unfold heatCounted
    dsimp only
    rw [hthermal]
    rfl
  · unfold heatCounted
    dsimp only
    rw [hthermal]
    rfl

theorem exec_flowComputation {s : State} (hp : powered s = true) (hf : firmwareRuns s = true) :
    exec .flowComputation s = .next (flowComputation s) := act_pos hp hf

/-! #### The flow term (R405, Table 15.1) -/

theorem pFlow_full {s : State} (h : s.thermal.flow < 320 ∨ 5760 < inletNow s) : pFlow s = 1500 := by
  unfold pFlow
  exact if_pos (h.imp_left fun h => by omega)

section
variable {s : State} {n : Nat} (hflow : s.thermal.flow = n) (hn : 320 ≤ n)
include hflow hn

theorem pFlow_derated (hin : inletNow s ≤ 5760) :
    pFlow s = 575 * n * (3200 - max 0 (inletNow s - 4480)).toNat * coolFactor (coolant s) / 320000000 := by
  unfold pFlow
  dsimp only
  rw [hflow, Int.toNat_natCast]
  exact if_neg (by omega)

theorem pFlow_cool (hin : inletNow s ≤ 35 * 128) : pFlow s = 575 * n * coolFactor (coolant s) / 100000 := by
  have hk : (3200 - max 0 (inletNow s - 4480)).toNat = 3200 := by omega
  rw [pFlow_derated hflow hn (by omega), hk, show 320000000 = 100000 * 3200 from rfl,
    show 575 * n * 3200 * coolFactor (coolant s) = 575 * n * coolFactor (coolant s) * 3200 by ring,
    Nat.mul_div_mul_right _ _ (by decide)]

theorem pFlow_warm (hlo : 35 * 128 < inletNow s) (hhi : inletNow s ≤ 45 * 128) :
    pFlow s = 575 * n * (3200 - (inletNow s - 4480)).toNat * coolFactor (coolant s) / 320000000 := by
  rw [pFlow_derated hflow hn (by omega), max_eq_right (by omega)]

end

/-! ### FLOW_WARNING_CLEAR and HEAT_MISMATCH (R406, Table 15.3) -/

section
variable {s : State}

theorem exec_flowWarningClear_one (s : State) :
    exec (.flowWarningClear 1) s = act s (s.thermal.warn1 && decide (1001 ≤ s.thermal.okPolls))
      (pldmEvent { s with thermal := { s.thermal with warn1 := false } } (.flowWarning false 1)) := rfl

theorem exec_flowWarningClear_other {k : Nat} (hk : k ≠ 1) (s : State) :
    exec (.flowWarningClear k) s = act s (k == 2 && s.thermal.warn2 && decide (1001 ≤ s.thermal.ok2Polls))
      (pldmEvent { s with thermal := { s.thermal with warn2 := false } } (.flowWarning false 2)) := if_neg hk

theorem flowWarningClear_first (hp : powered s = true) (hw : s.thermal.warn1 = true) (hok : 1001 ≤ s.thermal.okPolls) :
    Completes (.flowWarningClear 1) s fun t => t = { s with thermal := { s.thermal with warn1 := false }, board := t.board } :=
  ⟨_, (exec_flowWarningClear_one s).trans (act_pos hp (by simp [hw, hok])), rfl⟩

theorem flowWarningClear_second (hp : powered s = true) (hw : s.thermal.warn2 = true) (hok : 1001 ≤ s.thermal.ok2Polls) :
    Completes (.flowWarningClear 2) s fun t => t = { s with thermal := { s.thermal with warn2 := false }, board := t.board } :=
  ⟨_, (exec_flowWarningClear_other (by decide) s).trans (act_pos hp (by simp [hw, hok])), rfl⟩

theorem flowWarningClear_first_waits (hw : s.thermal.warn1 = false) : Waits (.flowWarningClear 1) s :=
  (exec_flowWarningClear_one s).trans (act_neg (by simp [hw]))

theorem flowWarningClear_second_waits (hw : s.thermal.warn2 = false) : Waits (.flowWarningClear 2) s :=
  (exec_flowWarningClear_other (by decide) s).trans (act_neg (by simp [hw]))

theorem flowWarningClear_other_waits {k : Nat} (h1 : k ≠ 1) (h2 : k ≠ 2) : Waits (.flowWarningClear k) s :=
  (exec_flowWarningClear_other h1 s).trans (act_neg (by simp [h2]))

/-- The state in which a heat mismatch is shown and counted, before its record. -/
def mismatchShown (s : State) : State :=
  event { s with thermal := { s.thermal with heat := true } } (thmReg 0 0) 5 (thmReg 0 0x120)

theorem exec_heatMismatch (hp : powered s = true) (hpolls : 2001 ≤ s.thermal.heatPolls) (hheat : s.thermal.heat = false) :
    exec .heatMismatch s = .next (noteRecord (mismatchShown s) 4 0x42 0xFFFF (regFld s (thmReg 0 0x110) 31 16)) :=
  act_pos hp (by simp [hpolls, hheat])

theorem heatMismatch_completes (hp : powered s = true) (hpolls : 2001 ≤ s.thermal.heatPolls) (hheat : s.thermal.heat = false) :
    Completes .heatMismatch s fun t =>
      t.thermal.heat = true ∧ bit (regGet t (thmReg 0 0)) 5 = true
        ∧ regGet t (thmReg 0 0x120) = counterAdd (regGet s (thmReg 0 0x120)) 1
        ∧ (∃ (rs : List FaultRec) (r : FaultRec), t.fault.records = rs ++ [r] ∧ r.kind = 4 ∧ r.cause = 0x42) ∧ t.mem = s.mem := by
  have hne : thmReg 0 0 ≠ thmReg 0 0x120 := thmReg_ne 0 (by decide)
  have hrecord := announced_noteRecord (mismatchShown s) 4 0x42 0xFFFF (regFld s (thmReg 0 0x110) 31 16)
  have hreg : ∀ x < 0x10000, thmReg 0 x ∉ [hubReg 0x60] := fun x hx => by simp [thmReg_ne_hubReg 0 hx]
  have hshown := event_eq { s with thermal := { s.thermal with heat := true } } (thmReg 0 0) 5 (thmReg 0 0x120)
  obtain ⟨r, hlast, hkind, hcause⟩ := noteRecord_last (mismatchShown s) 4 0x42 0xFFFF (regFld s (thmReg 0 0x110) 31 16)
  refine ⟨_, exec_heatMismatch hp hpolls hheat, ?_, ?_, ?_, ?_, ?_⟩
  · rw [hrecord.only]
    unfold mismatchShown
    rw [hshown]
  · rw [hrecord.regs _ (hreg 0 (by decide))]
    exact event_flag _ _ _ _ (by decide) hne
  · rw [hrecord.regs _ (hreg 0x120 (by decide))]
    exact event_count _ _ _ _ hne.symm
  · obtain ⟨rs, hrs⟩ := List.getLast?_eq_some_iff.1 hlast
    exact ⟨rs, r, hrs, hkind, hcause⟩
  · rw [hrecord.only]
    unfold mismatchShown
    rw [hshown]

theorem heatMismatch_waits (h : s.thermal.heatPolls < 2001 ∨ s.thermal.heat = true) : Waits .heatMismatch s :=
  act_neg (by rcases h with h | h <;> simp [h])

end

/-! ### THERMAL_ALLOWANCE_UPDATE (R411) -/

section
variable {s : State} {h : Nat}

theorem nextAllow_emergency (he : thermalEmergency s h = true) :
    nextAllow s h = some (min ((FMap.find s.thermal.allow h).getD (sheafMw s h)) (sheafMw s h) * 90 / 100) := by
  unfold nextAllow
  dsimp only
  rw [if_pos he]
  cases FMap.find s.thermal.allow h with
  | none => exact congrArg (fun low => some (low * 90 / 100)) (min_self _).symm
  | some x => rfl

section
variable (he : thermalEmergency s h = false)
include he

theorem nextAllow_hot (hx : 0 < excess s h) :
    nextAllow s h = some (min ((FMap.find s.thermal.allow h).getD (sheafMw s h)) (sheafMw s h) * 98 / 100) := by
  unfold nextAllow
  dsimp only
  rw [he, if_neg Bool.false_ne_true, if_pos hx]
  cases FMap.find s.thermal.allow h with
  | none => exact congrArg (fun low => some (low * 98 / 100)) (min_self _).symm
  | some x => rfl

theorem nextAllow_steady (hx : excess s h ≤ 0) (hlo : -2 ≤ excess s h) : nextAllow s h = FMap.find s.thermal.allow h := by
  unfold nextAllow
  dsimp only
  rw [he, if_neg Bool.false_ne_true, if_neg (by omega), if_neg (by omega)]

theorem nextAllow_cool (hx : excess s h < -2) {x : Nat} (ha : FMap.find s.thermal.allow h = some x) :
    nextAllow s h = if effCapMw s / 8 < x + sheafMw s h / 100 then none else some (x + sheafMw s h / 100) := by
  unfold nextAllow
  dsimp only
  rw [he, if_neg Bool.false_ne_true, if_neg (by omega), if_pos hx, ha]

theorem nextAllow_unlimited (hx : excess s h ≤ 0) (ha : FMap.find s.thermal.allow h = none) : nextAllow s h = none := by
  unfold nextAllow
  dsimp only
  rw [he, if_neg Bool.false_ne_true, if_neg (by omega), ha]
  exact ite_self _

end

end

/-- The allowances with a sheaf's changed. -/
def allowAfter (s : State) (h : Nat) (a : Option Nat) : FMap Nat := match a with
  | some x => FMap.set s.thermal.allow h x
  | none => FMap.drop s.thermal.allow h

theorem find_allowAfter_same (s : State) (h : Nat) (a : Option Nat) : FMap.find (allowAfter s h a) h = a := by
  cases a with
  | some x => exact FMap.find_set_same ..
  | none => exact FMap.find_drop_same ..

theorem find_allowAfter_ne (s : State) {g h : Nat} (a : Option Nat) (hg : g ≠ h) :
    FMap.find (allowAfter s h a) g = FMap.find s.thermal.allow g := by
  cases a with
  | some x => exact FMap.find_set_ne _ _ hg
  | none => exact FMap.find_drop_ne _ hg

/-- The state in which a sheaf's allowance is shown, before a throttle that begins is counted. -/
def allowShown (s : State) (h : Nat) (a : Option Nat) (v : Nat) : State :=
  regFlag (regFlag (regSet { s with thermal := { s.thermal with allow := allowAfter s h a } } (thmReg h 0x10) v)
    (thmReg h 0) 0 a.isSome) (thmReg h 0) 1 (thermalEmergency s h)

theorem setAllow_eq (s : State) (h : Nat) (a : Option Nat) : ∃ v,
    setAllow s h a = allowShown s h a v ∨ setAllow s h a = count (allowShown s h a v) (thmReg h 0x18) 1 := by
  refine ⟨match a with
    | some x => 2 ^ 16 + min 65535 (x / 1000)
    | none => 65535, ?_⟩
  unfold setAllow
  dsimp only
  split
  · exact .inr rfl
  · exact .inl rfl

theorem allowShown_status (s : State) (h : Nat) (a : Option Nat) (v : Nat) :
    bit (regGet (allowShown s h a v) (thmReg h 0)) 0 = a.isSome
      ∧ bit (regGet (allowShown s h a v) (thmReg h 0)) 1 = thermalEmergency s h := by
  refine ⟨?_, bit_regFlag_same _ _ _ _ (by decide)⟩
  exact (bit_regFlag_ne _ _ _ _ _ (by decide) (by decide)).trans (bit_regFlag_same _ _ _ _ (by decide))

theorem setAllow_spec (s : State) (h : Nat) (a : Option Nat) :
    OnlyRegs { s with thermal := { s.thermal with allow := allowAfter s h a } } (setAllow s h a)
      ∧ bit (regGet (setAllow s h a) (thmReg h 0)) 0 = a.isSome
      ∧ bit (regGet (setAllow s h a) (thmReg h 0)) 1 = thermalEmergency s h := by
  obtain ⟨v, hv⟩ := setAllow_eq s h a
  have hshown : OnlyRegs { s with thermal := { s.thermal with allow := allowAfter s h a } } (allowShown s h a v) :=
    (((OnlyRegs.refl _).after_regSet _ _).after_regFlag _ _ _).after_regFlag _ _ _
  have hstatus := allowShown_status s h a v
  rcases hv with hv | hv
  · rw [hv]
    exact ⟨hshown, hstatus⟩
  · rw [hv]
    refine ⟨hshown.after_regSet _ _, ?_⟩
    rw [regGet_count_ne _ _ (thmReg_ne h (by decide))]
    exact hstatus

theorem exec_thermalAllowanceUpdate {s : State} {h : Nat} (hp : powered s = true) (hh : h < 8) :
    exec (.thermalAllowanceUpdate h) s = .next (noteThermal s (setAllow s h (nextAllow s h))) := act_pos hp (by simp [hh])

/-- An evaluation of a sheaf's allowance keeps it and shows it. -/
theorem allowanceUpdated_spec (s : State) (h : Nat) :
    let t := noteThermal s (setAllow s h (nextAllow s h))
    FMap.find t.thermal.allow h = nextAllow s h
      ∧ bit (regGet t (thmReg h 0)) 0 = (nextAllow s h).isSome ∧ bit (regGet t (thmReg h 0)) 1 = thermalEmergency s h
      ∧ (∀ g, g ≠ h → FMap.find t.thermal.allow g = FMap.find s.thermal.allow g)
      ∧ t = { s with thermal := { s.thermal with allow := t.thermal.allow }, regs := t.regs, board := t.board } := by
  obtain ⟨⟨g, hg⟩, hshown, hemerg⟩ := setAllow_spec s h (nextAllow s h)
  refine ⟨?_, ?_, ?_, fun k hk => ?_, ?_⟩
  · rw [noteThermal_thermal, hg]
    exact find_allowAfter_same s h _
  · rw [regGet_noteThermal, hshown]
  · rw [regGet_noteThermal, hemerg]
  · rw [noteThermal_thermal, hg]
    exact find_allowAfter_ne s _ hk
  · rw [noteThermal_board, hg]

theorem thermalAllowanceUpdate_completes {h : Nat} {s : State} (hp : powered s = true) (hh : h < 8) :
    let p := sheafMw s h
    let a := FMap.find s.thermal.allow h
    Completes (.thermalAllowanceUpdate h) s fun t =>
      (thermalEmergency s h = true → FMap.find t.thermal.allow h = some (min (a.getD p) p * 90 / 100))
        ∧ (thermalEmergency s h = false → 0 < excess s h → FMap.find t.thermal.allow h = some (min (a.getD p) p * 98 / 100))
        ∧ (thermalEmergency s h = false → excess s h ≤ 0 → -2 ≤ excess s h → FMap.find t.thermal.allow h = a)
        ∧ (thermalEmergency s h = false → excess s h < -2 → ∀ x, a = some x → FMap.find t.thermal.allow h
            = (if effCapMw s / 8 < x + p / 100 then none else some (x + p / 100)))
        ∧ (a = none → thermalEmergency s h = false → excess s h ≤ 0 → FMap.find t.thermal.allow h = none)
        ∧ bit (regGet t (thmReg h 0)) 0 = (FMap.find t.thermal.allow h).isSome
        ∧ bit (regGet t (thmReg h 0)) 1 = thermalEmergency s h
        ∧ (∀ g, g ≠ h → FMap.find t.thermal.allow g = FMap.find s.thermal.allow g)
        ∧ t = { s with thermal := { s.thermal with allow := t.thermal.allow }, regs := t.regs, board := t.board } := by
  obtain ⟨hallow, hshown, hemerg, hother, honly⟩ := allowanceUpdated_spec s h
  refine ⟨_, exec_thermalAllowanceUpdate hp hh, ?_⟩
  dsimp only
  rw [hallow]
  exact ⟨nextAllow_emergency, nextAllow_hot, nextAllow_steady, fun he hx _ => nextAllow_cool he hx,
    fun ha he hx => nextAllow_unlimited he hx ha, hshown, hemerg, hother, honly⟩

/-! ### CORE_CEILING_UPDATE (R412) -/

section
variable {s : State} {c : Nat} {x : Int}

theorem exec_coreCeilingUpdate (hp : powered s = true) (hc : coreEnabled s c = true)
    (hx : hottestOf s (c / 128) (arrayNos (c % 128)) allArray = some x) :
    exec (.coreCeilingUpdate c) s
      = .next (clampPermit (setGov s c { govAt s c with thermCeil := nextCeil s c x }) c) := by
  have hexec : exec (.coreCeilingUpdate c) s = execCoreCeilingUpdate c s := rfl
  rw [hexec]
  unfold execCoreCeilingUpdate
  rw [hx]
  exact act_pos hp hc

theorem coreCeilingUpdate_waits (h : hottestOf s (c / 128) (arrayNos (c % 128)) allArray = none) :
    Waits (.coreCeilingUpdate c) s := by
  have hexec : exec (.coreCeilingUpdate c) s = execCoreCeilingUpdate c s := rfl
  unfold Waits
  rw [hexec]
  unfold execCoreCeilingUpdate
  rw [h]

theorem nextCeil_reserve (hres : reserveCore s c = true) (hemerg : bit (regGet s (thmReg (c / 128) 0)) 1 = false) :
    nextCeil s c x = 16 := by
  unfold nextCeil
  exact if_pos ⟨hres, by rw [hemerg]; rfl⟩

section
variable (hheld : reserveCore s c = false ∨ bit (regGet s (thmReg (c / 128) 0)) 1 = true)
include hheld

theorem nextCeil_held : nextCeil s c x = if throttleTarget s + 3 < x then max 4 ((govAt s c).thermCeil - 2)
    else if x ≤ throttleTarget s - 2 then min 16 ((govAt s c).thermCeil + 1) else (govAt s c).thermCeil := by
  unfold nextCeil
  exact if_neg (by rcases hheld with h | h <;> simp [h])

theorem nextCeil_hot (hx : throttleTarget s + 3 < x) : nextCeil s c x = max 4 ((govAt s c).thermCeil - 2) := by
  rw [nextCeil_held hheld, if_pos hx]

theorem nextCeil_cool (hx : x ≤ throttleTarget s - 2) : nextCeil s c x = min 16 ((govAt s c).thermCeil + 1) := by
  rw [nextCeil_held hheld, if_neg (by omega), if_pos hx]

theorem nextCeil_steady (hlo : throttleTarget s - 2 < x) (hhi : x ≤ throttleTarget s + 3) : nextCeil s c x = (govAt s c).thermCeil := by
  rw [nextCeil_held hheld, if_neg (by omega), if_neg (by omega)]

end

end

theorem govAt_clampPermit (s : State) (c d : Nat) : govAt (clampPermit s c) d = govAt s d := by
  unfold govAt clampPermit setPermit
  rw [regSetFld_power]

theorem permitCeil_clampPermit (s : State) (c d : Nat) : permitCeil (clampPermit s c) d = permitCeil s d := by
  unfold permitCeil
  rw [govAt_clampPermit]

theorem permitOf_clampPermit (s : State) (c : Nat) : permitOf (clampPermit s c) c = min (permitOf s c) (permitCeil s c) := by
  have hceil : permitCeil s c ≤ 16 := min_le_left _ _
  unfold clampPermit setPermit
  generalize permitOf s c = q
  generalize permitCeil s c = m at hceil
  unfold permitOf
  rw [regFld_regSetFld_same _ _ _ _ _ (by decide) (by decide)]
  omega

theorem clampPermit_onlyRegs (s : State) (c : Nat) : OnlyRegs s (clampPermit s c) := (OnlyRegs.refl s).after_regSet _ _

theorem regsKept_clampPermit (s : State) (c : Nat) : RegsKept s (clampPermit s c) [coreReg c 0x128] :=
  fun _ ha => regGet_regSet_ne _ _ (List.ne_of_not_mem_cons ha)

/-- A core's ceiling is set and its permit held below it. -/
theorem ceilingSet_spec (s : State) (c k : Nat) :
    let t := clampPermit (setGov s c { govAt s c with thermCeil := k }) c
    (govAt t c).thermCeil = k ∧ permitOf t c ≤ permitCeil t c ∧ RegsKept s t [coreReg c 0x128]
      ∧ (∀ d, d ≠ c → govAt t d = govAt s d) ∧ t = { s with power := t.power, regs := t.regs } := by
  have hsame : govAt (setGov s c { govAt s c with thermCeil := k }) c = { govAt s c with thermCeil := k } := FMap.getD_set_same ..
  have hother : ∀ d, d ≠ c → govAt (setGov s c { govAt s c with thermCeil := k }) d = govAt s d := fun d hd =>
    FMap.getD_set_ne _ _ _ hd
  have hset : RegsKept s (setGov s c { govAt s c with thermCeil := k }) [] := fun _ _ => rfl
  have honly : setGov s c { govAt s c with thermCeil := k }
      = { s with power := (setGov s c { govAt s c with thermCeil := k }).power } := rfl
  generalize setGov s c { govAt s c with thermCeil := k } = u at hsame hother hset honly
  refine ⟨?_, ?_, fun a ha => (regsKept_clampPermit u c a ha).trans (hset a (by simp)), fun d hd => ?_, ?_⟩
  · rw [govAt_clampPermit, hsame]
  · rw [permitOf_clampPermit, permitCeil_clampPermit]
    exact min_le_right _ _
  · rw [govAt_clampPermit, hother d hd]
  · obtain ⟨g, hg⟩ := clampPermit_onlyRegs u c
    rw [hg, honly]

/-! ### THERMAL_CYCLE_SAMPLE (R415) -/

section
variable {s : State} {h : Nat} {x : Int}

/-- The state in which a sheaf's cycles have been sampled since the boot. -/
def cycleNoted (s : State) (h : Nat) : State :=
  { s with thermal := { s.thermal with cycled := if !s.thermal.cycled.contains h then h :: s.thermal.cycled else s.thermal.cycled } }

theorem mem_cycled_cycleNoted (s : State) (h : Nat) : h ∈ (cycleNoted s h).thermal.cycled := by
  unfold cycleNoted
  dsimp only
  cases hmem : s.thermal.cycled.contains h with
  | false => exact List.mem_cons_self
  | true => exact List.contains_iff_mem.1 hmem

theorem exec_thermalCycleSample (hp : powered s = true) (hh : h < 8) (hx : FMap.find s.thermal.hotStore h = some x) :
    exec (.thermalCycleSample h) s = .next (cycleSample (cycleNoted s h) h x (!s.thermal.cycled.contains h)) := by
  have hexec : exec (.thermalCycleSample h) s = execThermalCycleSample h s := rfl
  rw [hexec]
  unfold execThermalCycleSample
  rw [hx]
  exact act_pos hp (by simp [hh])

theorem thermalCycleSample_waits (hnone : FMap.find s.thermal.hotStore h = none) : Waits (.thermalCycleSample h) s := by
  have hexec : exec (.thermalCycleSample h) s = execThermalCycleSample h s := rfl
  unfold Waits
  rw [hexec]
  unfold execThermalCycleSample
  rw [hnone]

/-- A sheaf's cycles, minimum and peak. -/
def CycleIs (t : State) (h n : Nat) (lo hi : Int) : Prop :=
  sheafCycles t h = n ∧ FMap.find t.wear.tmin h = some lo ∧ FMap.find t.wear.tpeak h = some hi

theorem restartCycle_spec (s : State) (h : Nat) (x : Int) : CycleIs (restartCycle s h x) h (sheafCycles s h) x x :=
  ⟨rfl, FMap.find_set_same .., FMap.find_set_same ..⟩

theorem countCycle_spec (s : State) (h : Nat) (x : Int) : CycleIs (countCycle s h x) h (sheafCycles s h + 1) x x :=
  ⟨FMap.getD_set_same .., FMap.find_set_same .., FMap.find_set_same ..⟩

theorem cycleSample_wear (s : State) (h : Nat) (x : Int) (first : Bool) :
    cycleSample s h x first = { s with wear := (cycleSample s h x first).wear } := by
  unfold cycleSample
  split
  · dsimp only
    split
    · rfl
    · split <;> rfl
  · rfl

theorem cycleSample_new (hlo : FMap.find s.wear.tmin h = none) (first : Bool) : cycleSample s h x first = restartCycle s h x := by
  unfold cycleSample
  rw [hlo]

section
variable {lo hi : Int} {first : Bool} (hlo : FMap.find s.wear.tmin h = some lo) (hhi : FMap.find s.wear.tpeak h = some hi)
include hlo hhi

theorem cycleSample_known : cycleSample s h x first =
    if x ≤ max hi x - 25 ∧ (first = true ∨ lo + 25 ≤ max hi x) then countCycle s h x
    else if x < lo then restartCycle s h x
    else { s with wear := { s.wear with tpeak := FMap.set s.wear.tpeak h (max hi x) } } := by
  unfold cycleSample
  rw [hlo, hhi]

theorem cycleSample_counts (hfall : x ≤ max hi x - 25) (hrise : first = true ∨ lo + 25 ≤ max hi x) :
    CycleIs (cycleSample s h x first) h (sheafCycles s h + 1) x x := by
  rw [cycleSample_known hlo hhi, if_pos ⟨hfall, hrise⟩]
  exact countCycle_spec s h x

theorem cycleSample_lower (hlow : x < lo) (hno : max hi x - 25 < x ∨ (first = false ∧ max hi x < lo + 25)) :
    CycleIs (cycleSample s h x first) h (sheafCycles s h) x x := by
  have hnot : ¬(x ≤ max hi x - 25 ∧ (first = true ∨ lo + 25 ≤ max hi x)) := by
    rintro ⟨hfall, hrise⟩
    rcases hno with hno | ⟨hfirst, hmax⟩
    · exact absurd hfall (by omega)
    · rcases hrise with hrise | hrise
      · exact Bool.false_ne_true (hfirst.symm.trans hrise)
      · omega
  rw [cycleSample_known hlo hhi, if_neg hnot, if_pos hlow]
  exact restartCycle_spec s h x

theorem cycleSample_steady (hnear : max hi x - 25 < x) (hge : lo ≤ x) :
    CycleIs (cycleSample s h x first) h (sheafCycles s h) lo (max hi x) := by
  rw [cycleSample_known hlo hhi, if_neg (fun h => absurd h.1 (by omega)), if_neg (by omega)]
  exact ⟨rfl, hlo, FMap.find_set_same ..⟩

end

end

theorem cycleSampled_thermal (s : State) (h : Nat) (x : Int) (first : Bool) :
    (cycleSample (cycleNoted s h) h x first).thermal = (cycleNoted s h).thermal := by rw [cycleSample_wear]

/-- The sample of a sheaf's cycles: which sheaves have been sampled, and the wear. -/
theorem cycleSampled_only (s : State) (h : Nat) (x : Int) (first : Bool) :
    let t := cycleSample (cycleNoted s h) h x first
    t = { s with thermal := { s.thermal with cycled := t.thermal.cycled }, wear := t.wear } := by
  rw [cycleSample_wear]
  rfl

theorem thermalCycleSample_completes {h : Nat} {x lo hi : Int} {s : State} (hp : powered s = true) (hh : h < 8)
    (hx : FMap.find s.thermal.hotStore h = some x) (hlo : FMap.find s.wear.tmin h = some lo)
    (hhi : FMap.find s.wear.tpeak h = some hi) :
    Completes (.thermalCycleSample h) s fun t =>
      h ∈ t.thermal.cycled
        ∧ (x ≤ max hi x - 25 → (h ∉ s.thermal.cycled ∨ lo + 25 ≤ max hi x) → CycleIs t h (sheafCycles s h + 1) x x)
        ∧ (x < lo → (max hi x - 25 < x ∨ (h ∈ s.thermal.cycled ∧ max hi x < lo + 25)) → CycleIs t h (sheafCycles s h) x x)
        ∧ (max hi x - 25 < x → lo ≤ x → CycleIs t h (sheafCycles s h) lo (max hi x))
        ∧ t = { s with thermal := { s.thermal with cycled := t.thermal.cycled }, wear := t.wear } := by
  have hlo' : FMap.find (cycleNoted s h).wear.tmin h = some lo := hlo
  have hhi' : FMap.find (cycleNoted s h).wear.tpeak h = some hi := hhi
  refine ⟨_, exec_thermalCycleSample hp hh hx, ?_, fun hfall hrise => ?_, fun hlow hno => ?_, fun hnear hge => ?_, ?_⟩
  · rw [cycleSampled_thermal]
    exact mem_cycled_cycleNoted s h
  · exact cycleSample_counts hlo' hhi' hfall (hrise.imp_left fun h => by simpa using h)
  · exact cycleSample_lower hlo' hhi' hlow (hno.imp_right fun h => ⟨by simpa using h.1, h.2⟩)
  · exact cycleSample_steady hlo' hhi' hnear hge
  · exact cycleSampled_only s h x _

theorem thermalCycleSample_first {h : Nat} {x : Int} {s : State} (hp : powered s = true) (hh : h < 8)
    (hx : FMap.find s.thermal.hotStore h = some x) (hlo : FMap.find s.wear.tmin h = none) :
    Completes (.thermalCycleSample h) s fun t => h ∈ t.thermal.cycled ∧ CycleIs t h (sheafCycles s h) x x := by
  refine ⟨_, exec_thermalCycleSample hp hh hx, ?_, ?_⟩
  · rw [cycleSampled_thermal]
    exact mem_cycled_cycleNoted s h
  · rw [cycleSample_new (s := cycleNoted s h) hlo]
    exact restartCycle_spec _ h x

/-! ### WEAR_SAMPLE (R414, R416) -/

/-- From `s` to `t` units were marked for retirement, and none was unmarked. -/
structure Marks (s t : State) : Prop where
  only : t = { s with flash := t.flash }
  stays : ∀ u ∈ s.flash.marked, u ∈ t.flash.marked

theorem Marks.refl (s : State) : Marks s s := ⟨rfl, fun _ h => h⟩

theorem Marks.trans {s t u : State} (h : Marks s t) (h' : Marks t u) : Marks s u where
  only := by rw [h'.only, h.only]
  stays r hr := h'.stays r (h.stays r hr)

theorem marks_markUnit (s : State) (kind reason number sub : Nat) : Marks s (markUnit s kind reason number sub) := by
  refine ⟨markUnit_flash .., fun u hu => ?_⟩
  unfold markUnit
  dsimp only
  split
  · exact hu
  · exact List.mem_append_left _ hu

theorem Marks.foldl {α : Type} {f : State → α → State} (hf : ∀ s a, Marks s (f s a)) (s : State) (l : List α) :
    Marks s (l.foldl f s) := by
  induction l generalizing s with
  | nil => exact .refl s
  | cons a l ih => exact (hf s a).trans (ih _)

/-- A unit of a list is marked at the end of the list. -/
theorem marked_foldl {l : List Nat} {k : Nat} (hk : k ∈ l) (s : State) :
    ∃ u ∈ (l.foldl (fun s k => markUnit s 2 7 (k / 8) (k % 8)) s).flash.marked, u.kind = 2 ∧ u.number = k / 8 ∧ u.sub = k % 8 := by
  obtain ⟨l₁, l₂, rfl⟩ := List.append_of_mem hk
  rw [List.foldl_append, List.foldl_cons]
  obtain ⟨u, hu, hunit⟩ := (markUnit_spec (l₁.foldl (fun s k => markUnit s 2 7 (k / 8) (k % 8)) s) 2 7 (k / 8) (k % 8)).1
  exact ⟨u, (Marks.foldl (fun s k => marks_markUnit s 2 7 (k / 8) (k % 8)) _ l₂).stays u hu, hunit⟩

theorem marks_markWorn (s : State) : Marks s (markWorn s) :=
  (Marks.foldl (fun s k => marks_markUnit s 2 7 (k / 8) (k % 8)) _ _).trans (.foldl (fun s v => marks_markUnit s 1 7 v 0) _ _)

/-- A link lane at the end of its life is marked. -/
theorem markWorn_lane {s : State} {l k : Nat} (hl : l < 32) (hk : k < 8) (hlife : 10000 ≤ FMap.getD s.wear.eye (8 * l + k) 0) :
    ∃ u ∈ (markWorn s).flash.marked, u.kind = 2 ∧ u.number = l ∧ u.sub = k := by
  have hmem : 8 * l + k ∈ (List.range 256).filter fun k => decide (10000 ≤ FMap.getD s.wear.eye k 0) :=
    List.mem_filter.2 ⟨List.mem_range.2 (by omega), decide_eq_true hlife⟩
  obtain ⟨u, hu, hkind, hnumber, hsub⟩ := marked_foldl hmem s
  exact ⟨u, (Marks.foldl (fun s v => marks_markUnit s 1 7 v 0) _ _).stays u hu, hkind, by omega, by omega⟩

theorem takeWear_wear (s : State) (r : WearReading) : takeWear s r = { s with wear := (takeWear s r).wear } := by
  cases r <;> rfl

/-- The sample of one wear reading. -/
def wearSampled (s : State) (r : WearReading) : State := logWear (markWorn (takeWear s r))

theorem exec_wearSample {s : State} {r : WearReading} (hp : powered s = true) (hok : wearOk r = true) :
    exec (.wearSample [r]) s = .next (wearSampled s r) := by
  have hexec : exec (.wearSample [r]) s = act s true (logWear (markWorn (forEach s ([r].filter wearOk) takeWear))) := rfl
  rw [hexec, act_pos hp rfl, List.filter_cons_of_pos hok]
  rfl

section
variable (s : State) (r : WearReading)

theorem wearSampled_flash : (wearSampled s r).flash = (markWorn (takeWear s r)).flash := rfl

/-- The wear after a sample is what the reading gave, with the log. -/
theorem wearSampled_wear : (wearSampled s r).wear = { (takeWear s r).wear with log := (wearSampled s r).wear.log } := by
  have hmarks := (marks_markWorn (takeWear s r)).only
  unfold wearSampled logWear
  dsimp only
  rw [hmarks]

theorem wearSampled_only : wearSampled s r = { s with wear := (wearSampled s r).wear, flash := (wearSampled s r).flash } := by
  have hmarks := (marks_markWorn (takeWear s r)).only
  unfold wearSampled logWear
  rw [hmarks, takeWear_wear]

theorem logWear_newest (s : State) :
    (∃ (e : WearSnap) (es : List WearSnap), (logWear s).wear.log = e :: es ∧ e.hours = (logWear s).wear.hours ∧ e.dtime = nowNs s)
      ∧ ∀ e ∈ (logWear s).wear.log, (logWear s).wear.hours ≤ e.hours + 720 := by
  unfold logWear
  dsimp only
  refine ⟨?_, fun e he => of_decide_eq_true (List.mem_filter.1 he).2⟩
  rw [List.filter_cons_of_pos (by simp)]
  exact ⟨_, _, rfl, rfl, rfl⟩

theorem wearSampled_log :
    (∃ (e : WearSnap) (es : List WearSnap), (wearSampled s r).wear.log = e :: es ∧ e.hours = (wearSampled s r).wear.hours
        ∧ e.dtime = nowNs s)
      ∧ ∀ e ∈ (wearSampled s r).wear.log, (wearSampled s r).wear.hours ≤ e.hours + 720 := by
  have hnow : nowNs (markWorn (takeWear s r)) = nowNs s := by rw [(marks_markWorn _).only, takeWear_wear]; rfl
  rw [← hnow]
  exact logWear_newest _

end

/-- A state keeps a reading as the life that it says is consumed (Table 15.6), and marks a lane at its end. -/
def LifeKept (t : State) : WearReading → Prop
  | .ageing c m n => FMap.find t.wear.ageing (4 * c + m) = some (n / 3)
  | .resistance h m n => FMap.find t.wear.resist (64 * h + m) = some (n / 20)
  | .eye l k n => FMap.find t.wear.eye (8 * l + k) = some ((1000000 - n) / 60)
      ∧ (n ≤ 400000 → ∃ u ∈ t.flash.marked, u.kind = 2 ∧ u.number = l ∧ u.sub = k)
  | .hours n => t.wear.hours = n

theorem lifeKept_wearSampled {r : WearReading} (hok : wearOk r = true) (s : State) : LifeKept (wearSampled s r) r := by
  have hwear := wearSampled_wear s r
  cases r with
  | ageing c m n =>
    unfold LifeKept
    rw [hwear]
    exact FMap.find_set_same ..
  | resistance h m n =>
    unfold LifeKept
    rw [hwear]
    exact FMap.find_set_same ..
  | eye l k n =>
    obtain ⟨hl, hk⟩ : l < 32 ∧ k < 8 := by simpa [wearOk] using hok
    have heye : FMap.find (takeWear s (.eye l k n)).wear.eye (8 * l + k) = some ((1000000 - n) / 60) := FMap.find_set_same ..
    unfold LifeKept
    rw [hwear, wearSampled_flash]
    refine ⟨heye, fun hn => markWorn_lane hl hk ?_⟩
    unfold FMap.getD
    rw [heye]
    simp only [Option.getD_some]
    omega
  | hours n =>
    unfold LifeKept
    rw [hwear]
    rfl

/-! ### The obligation -/

theorem sensorSample_completes {h : Nat} (rs : List SensorReading) {s : State} (hp : powered s = true) (hh : h < 8) :
    let c := checkSensors s h rs
    Completes (.sensorSample h rs) s fun t =>
      (∀ r ∈ rs, ∀ n, sensorNo r.sensor = some n → badReading r.celsius = true →
        excluded t h n = true ∧ (excluded s h n = false → bit (regGet t (thmReg h 0)) 3 = true))
        ∧ (∀ n, excluded s h n = true → excluded t h n = true)
        ∧ (∀ x y z, hottest c h allArray = some x → hottest c h allStore = some y → hottest c h allDram = some z →
            FMap.find t.thermal.hotArray h = some x.1 ∧ FMap.find t.thermal.hotStore h = some y.1
              ∧ FMap.find t.thermal.hotDram h = some z.1 ∧ regFld t (thmReg h 8) 7 0 = temp8 x.1
              ∧ regFld t (thmReg h 8) 15 8 = temp8 y.1 ∧ regFld t (thmReg h 8) 23 16 = temp8 z.1)
        ∧ (∀ v x, v ∈ sheafVaults s h → hottestIn c h (dramNos (v % 128)) allDram = some x → ThrottleShown s t v x.1)
        ∧ t = { s with thermal := t.thermal, regs := t.regs, flash := t.flash } := by
  have hchecks := excludes_checkSensors s h rs
  refine ⟨_, exec_sensorSample h rs hp hh, fun r hr n hn hbad => ?_, fun n hn => ?_, fun x y z hx hy hz => ?_,
    fun v x hv hx => sampleSheaf_throttle s h rs hv hx, sampleSheaf_only s h rs⟩
  · have hexcl := excluded_checkSensors (s := s) (h := h) hr hn hbad
    rw [excluded_sampleSheaf, sampleSheaf_status]
    exact ⟨hexcl, fun hnew => hchecks.shown n hnew hexcl⟩
  · rw [excluded_sampleSheaf]
    exact hchecks.stays n hn
  · have hshown := showTemps_spec hx hy hz
    unfold regFld at hshown ⊢
    rwa [sampleSheaf_thermal, regGet_sampleSheaf_thm s h rs (by decide)]

theorem hardwareTrip_completes {h n : Nat} {a : Sensor} {x : Int} {s : State} (hp : powered s = true) (hh : h < 8)
    (hn : sensorNo a = some n) (hx : tripAt a ≤ x) :
    Completes (.hardwareTrip h ⟨a, some x⟩) s fun t =>
      powered t = false ∧ t.fault.tripEntry = some (sensorStop h a, x)
        ∧ t = { s with boot := { s.boot with tripped := true }, fault := { s.fault with tripEntry := t.fault.tripEntry } } :=
  ⟨_, exec_hardwareTrip hp hh hn hx, powered_trip .., rfl, rfl⟩

/-- Settles O60: what each sample, poll and evaluation keeps and shows, and the cases of its decision one by one. -/
theorem thermalAndWear : Obligations.ThermalAndWear := by
  refine ⟨fun h rs s hp hh => sensorSample_completes rs hp hh, fun s h ns kind x => hottestIn_spec, fun s h n hot => countsAs_lost hot,
    fun h n a x s hp hh hn => ⟨hardwareTrip_completes hp hh hn, hardwareTrip_below⟩,
    fun x d => ⟨trayStep_reading, trayStep_noReading, rfl, rfl⟩, ?_, ?_, ?_, ?_, ?_, ?_, ?_, ?_, ?_, ?_, ?_, ?_⟩
  · intro k r s hp hf
    refine ⟨_, exec_traySensorPoll k r hp hf, (trayAt_of_kept (trayPoll_tray s k r)).1, (trayAt_of_kept (trayPoll_tray s k r)).2, ?_⟩
    cases k with
    | inlet =>
      cases h : (trayStep (trayAt s .inlet) r).2 with
      | some v =>
        obtain ⟨hthermal, hrest⟩ := inletPoll_reading h
        exact ⟨by rw [trayPoll_tray]; exact hthermal, hrest⟩
      | none =>
        dsimp only
        split
        · rename_i hmissed
          obtain ⟨hthermal, hrest⟩ := inletPoll_silent h hmissed
          exact ⟨by rw [trayPoll_tray]; exact hthermal, hrest⟩
        · rename_i hmissed
          rw [inletPoll_unread h hmissed]
          rfl
    | outlet =>
      cases h : (trayStep (trayAt s .outlet) r).2 with
      | some v =>
        obtain ⟨hthermal, hrest⟩ := outletPoll_reading h
        exact ⟨by rw [trayPoll_tray]; exact hthermal, hrest⟩
      | none =>
        dsimp only
        rw [outletPoll_noReading h]
        rfl
    | flow =>
      cases h : (trayStep (trayAt s .flow) r).2 with
      | some v =>
        obtain ⟨hthermal, hshown, honly⟩ := flowPoll_reading h
        refine ⟨?_, hshown, ?_, ?_, honly⟩
        all_goals rw [hthermal]; rfl
      | none =>
        obtain ⟨hflow, hok, hok2, -, honly⟩ := flowPoll_noReading h
        exact ⟨hflow, hok, hok2, flowPoll_silent h, honly⟩
  · exact fun s hp => ⟨fun he hok => ⟨_, exec_flowEmergencyEnd hp he hok, emergencyEnded_spec s⟩, flowEmergencyEnd_waits⟩
  · exact fun s hp hf => ⟨_, exec_flowComputation hp hf, flowComputation_spec s⟩
  · exact fun s => ⟨pFlow_full, fun n => pFlow_cool, fun n => pFlow_warm⟩
  · exact fun s hp => ⟨flowWarningClear_first hp, flowWarningClear_second hp, flowWarningClear_first_waits,
      flowWarningClear_second_waits, fun k => flowWarningClear_other_waits, heatMismatch_completes hp, heatMismatch_waits⟩
  · exact fun h s hp hh => thermalAllowanceUpdate_completes hp hh
  · intro c x s hp hc hx
    obtain ⟨hceil, hpermit, hregs, hother, honly⟩ := ceilingSet_spec s c (nextCeil s c x)
    refine ⟨_, exec_coreCeilingUpdate hp hc hx, ?_⟩
    dsimp only
    rw [hceil]
    exact ⟨nextCeil_reserve, fun hheld => ⟨nextCeil_hot hheld, nextCeil_cool hheld, nextCeil_steady hheld⟩, hpermit, hregs, hother,
      honly⟩
  · exact fun c s => coreCeilingUpdate_waits
  · exact fun h x lo hi s hp hh hx hlo hhi => thermalCycleSample_completes hp hh hx hlo hhi
  · intro h x s hp hh hx hlo
    obtain ⟨t, ht, hmem, hcycles, hmin, hpeak⟩ := thermalCycleSample_first hp hh hx hlo
    exact ⟨t, ht, hmem, hmin, hpeak, hcycles⟩
  · exact fun h s => thermalCycleSample_waits
  · intro r s hp hok
    exact ⟨_, exec_wearSample hp hok, lifeKept_wearSampled hok s, (wearSampled_log s r).1, (wearSampled_log s r).2, wearSampled_only s r⟩

end Sys2Proof.Machine
